-- ==== Sys2Proof/Word.lean ====
section
/-! DEFINITION. The words of the CZ-4832 (00_scope.md, Numbers and units; R6): bytes, registers, wide quantities, and the index types of its units. -/

namespace Sys2Proof

abbrev Byte := BitVec 8
abbrev W32 := BitVec 32
abbrev W64 := BitVec 64
abbrev W128 := BitVec 128

/-- PCIe function: 0 is PF0, n is VF n (R14, R33). -/
abbrev FnId := Fin 32
/-- Descriptor ring 0-255 (R282). -/
abbrev RingId := Fin 256
/-- Session 0-255 (R81, Names). -/
abbrev SessId := Fin 256
/-- Codec core 0-35 (R12). -/
abbrev CoreId := Fin 36
abbrev HedgeId := Fin 4
abbrev PipeId := Fin 4
abbrev GroupId := Fin 4
abbrev LayerId := Fin 16
abbrev PoolId := Fin 64
/-- Sequencer 0-40 (R379). -/
abbrev SeqId := Fin 41
abbrev PortId := Fin 8
abbrev FlowId := Fin 128
abbrev ChanId := Fin 64
abbrev StackId := Fin 4
abbrev Domain := Fin 100
/-- Fault source (R524). -/
abbrev SourceId := Fin 256
/-- BAR0 page of the PF (R35). -/
abbrev PageId := Fin 4096
/-- NoC agent ID (R14). -/
abbrev Agent := Nat

end Sys2Proof
end

