-- ==== Sys2Proof/Codec.lean ====
section
/-! DEFINITION. What a coder decides and signals, as plain data (04_encoding.md R102 to R107, R113 to R118, R126 to R131; 05_rate_control_latency.md R146, R157 to R159): vectors, tools, coding units, a coded unit's signalling, the non-coded units of a picture and its signalling. -/

namespace Sys2Proof

/-- A motion vector in 1/16 luma sample, the finest step of R116. -/
structure Mv where
  x : Int := 0
  y : Int := 0
  deriving DecidableEq, Repr

/-- A block as the prepass measured it (R120): activity, intra and inter cost estimates, best vector in quarter samples of the full picture. -/
structure PreCost where
  activity : Nat := 0
  intra : Nat := 0
  inter : Nat := 0
  x : Int := 0
  y : Int := 0
  deriving DecidableEq, Repr

/-- The blocks of a picture from their activities, their intra and inter costs and their vectors. -/
def preCosts (activity : List Nat) (costs : List (Nat × Nat)) (vectors : List Mv) : List PreCost :=
  (activity.zip (costs.zip vectors)).map fun e => { activity := e.1, intra := e.2.1.1, inter := e.2.1.2, x := e.2.2.x, y := e.2.2.y }

/-- A block of the picture: left column, top line, width and height in luma samples. -/
structure PixBlock where
  x : Nat := 0
  y : Nat := 0
  w : Nat := 0
  h : Nat := 0
  deriving DecidableEq, Repr

/-- Coding tools: those of the table of R102, and those that R103 and R130 exclude. -/
inductive Tool
  | intra4x4 | intra8x8 | intra16x16 | spatialDirect | transform4x4 | transform8x8
  | merge | amvp | tmvp | dct | dst4x4 | transformSkip | residualQuadtree | signHiding
  | cclm | amvr | affine4 | affine6 | dmvr | bdof | mts | depQuant
  | angleDelta | smooth | paeth | cfl | newMv | nearestMv | nearMv | globalMv | compoundAverage | adst | flipAdst | identity
  | deblocking | sao | alf | lmcs | cdef | loopRestoration
  | cabac | multiSymbol
  -- never produced
  | weightedPrediction | scalingList | fieldCoding | lossless | pcm | intraBlockCopy | palette
  | isp | mip | lfnst | bcw | ciip | gpm | sbTmvp | ccAlf
  | obmc | localWarp | interIntra | superres | filmGrain | cavlc
  deriving DecidableEq, Repr

/-- How a block is split (R102): in four, in two halves one above the other or side by side, in three. -/
inductive Split
  | quad | horz | vert | ternHorz | ternVert
  deriving DecidableEq, Repr

/-- A reference of a list by its index, and the vector into it. -/
abbrev RefMv := Nat × Mv

/-- A block as a decoded bitstream predicts it: from references of list 0 and list 1, or, with neither, intra (R188, R194). -/
structure DecBlock where
  block : PixBlock := {}
  l0 : Option RefMv := none
  l1 : Option RefMv := none
  deriving DecidableEq, Repr

/-- The prediction of a coding unit (R114): skip or merge with a candidate's index, a vector from motion search, or an intra mode; `floorInter` and `floorIntra` are the two forms of R147. -/
inductive Pred
  | merge (index : Nat) (l0 l1 : Option RefMv)
  | inter (l0 l1 : Option RefMv)
  | intra (mode : Nat)
  | floorInter (l0 : Option RefMv)
  | floorIntra
  deriving DecidableEq, Repr

/-- A coding unit (its prediction units stand as units of their own): its block, the splits that lead to it, its prediction, the tools it uses. -/
structure Cu where
  block : PixBlock := {}
  path : List Split := []
  pred : Pred := .floorIntra
  tools : List Tool := []
  deriving DecidableEq, Repr

/-- What a guarded unit of R147 codes: its QP, whether it is coded at the floor, whether for poison, and its coding units. -/
structure UnitSyntax where
  qp : Nat := 0
  floor : Bool := false
  poison : Bool := false
  /-- AV1: its base_q_idx less the picture's, which delta_q carries (R141) -/
  deltaQ : Option Int := none
  cus : List Cu := []
  deriving DecidableEq, Repr

/-- SAO of a CTU (R128): off, an edge class, a band offset. -/
inductive SaoMode
  | off | edge (cls : Nat) | band
  deriving DecidableEq, Repr

/-- In-loop filter parameters of a picture, known before it is coded (R128). -/
structure FilterParams where
  deblock : Bool := false
  /-- beta and tc offsets -/
  beta : Int := 0
  tc : Int := 0
  /-- AV1 filter level, which follows the QP -/
  level : Nat := 0
  sao : Bool := false
  /-- ALF coefficients sent in an APS, none when ALF is off -/
  alf : Option (List Int) := none
  /-- CDEF primary and secondary strengths, none when CDEF is off -/
  cdef : Option (Nat × Nat) := none
  /-- loop restoration: type and coefficients of each 64 x 64 unit, none when off -/
  restoration : Option (List (Nat × List Int)) := none
  lmcs : Bool := false
  deriving DecidableEq, Repr

/-- Picture types (R104, R106, R159). -/
inductive PicKind
  | idr | idrNLp | keyFrame | p | b | interFrame | gdr
  deriving DecidableEq, Repr

/-- Reference slots of AV1 (R105). -/
inductive RefSlot
  | last | last2 | last3 | golden
  deriving DecidableEq, Repr

/-- What is signalled for a picture outside its coded blocks (R104 to R106, R110, R111, R130, R141, R158, R159). -/
structure PicSyntax where
  kind : PicKind := .idr
  /-- picture count since SESSION_OPEN -/
  poc : Nat := 0
  /-- pictures of list 0 and list 1, by their counts -/
  list0 : List Nat := []
  list1 : List Nat := []
  /-- AV1: the slots that hold list 0 -/
  slots : List (RefSlot × Nat) := []
  /-- no later picture references it (R106): nal_ref_idc 0, a sub-layer non-reference picture, refresh_frame_flags 0 -/
  nonRef : Bool := false
  shown : Bool := true
  /-- temporal motion vector prediction, or use_ref_frame_mvs -/
  tmvp : Bool := false
  primaryRefNone : Bool := false
  errorResilient : Bool := false
  highPrecisionMv : Bool := false
  /-- every CTU row starts an entropy substream whose entry point is signalled -/
  wpp : Bool := false
  /-- loop filtering across slices, and across tiles -/
  acrossSlices : Bool := false
  acrossTiles : Bool := false
  /-- AV1: base_q_idx of the start QP; delta_q per superblock carries the rest -/
  baseQIdx : Option Nat := none
  filters : FilterParams := {}
  /-- GDR and recovery point: K -/
  recoveryCount : Option Nat := none
  deriving DecidableEq, Repr

/-- What motion search found for a 16 x 16 search block and a reference: the refined vectors, best first (at most three), whether poisoned samples took every candidate from it (R116, R134). -/
structure Found where
  x : Nat := 0
  y : Nat := 0
  ref : Nat := 0
  mvs : List Mv := []
  poison : Bool := false
  deriving DecidableEq, Repr

/-- A coded CTU row of a slice or tile-column group: its picture, place, units, SAO modes, RDOQ level, the chroma QP offset (0, R126) and whether it begins a substream (R110). -/
structure RowSyntax where
  pic : PicSyntax := {}
  job : Nat := 0
  row : Nat := 0
  units : List UnitSyntax := []
  sao : List SaoMode := []
  rdoq : Nat := 2
  chromaQpOffset : Int := 0
  substream : Bool := false
  deriving DecidableEq, Repr

/-- A non-coded unit of a picture (R131, R146, R159), with what it carries. -/
inductive HdrUnit
  | accessUnitDelimiter
  | temporalDelimiter
  | vps (stream : List Byte)
  | sps (stream colour : List Byte) (hrd gdr : Bool)
  | pps (stream : List Byte) (wpp acrossSlices acrossTiles : Bool)
  | aps (coeffs : Option (List Int))
  | sequenceHeader (stream colour : List Byte) (decoderModel : Bool)
  | mastering (fields : List Byte)
  | lightLevel (fields : List Byte)
  | pictureHash
  | recoveryPoint (count : Nat) (exactMatch brokenLink : Bool)
  | bufferingPeriod (delay : Nat × Nat)
  | pictureTiming (poc : Nat)
  | pictureHeader (kind : PicKind) (poc : Nat) (recoveryCount : Option Nat)
  | frameHeader (pic : PicSyntax)
  deriving DecidableEq, Repr

end Sys2Proof
end

