-- ==== Sys2Proof/Syntax.lean ====
section
/-! DEFINITION. The commands of the CZ-4832: one constructor of `Instr` for each row of spec/opcode_table.json, with the operands a sender gives. What the module computes itself is never an operand; operands are what comes from outside (a host access, a packet, picture content, a measured value) or what names the unit an event concerns. -/

namespace Sys2Proof

/-- Who makes a register access: a PCIe function through its BAR0, or an on-die agent through the register mirror (R17, R20). -/
inductive Who
  | pcie (fn : FnId)
  | agent (a : Nat)
  deriving DecidableEq, Repr

/-- The responses of the NoC (R19). -/
inductive Resp
  | ok | okPoison | abortGated | abortReset | abortUnmapped | abortWindow
  deriving DecidableEq, Repr

/-- Where a pool operation comes from: the next job of a COMMAND ring (R263), or an agent (R336). -/
inductive PoolSrc
  | job (ring : RingId)
  | agent (a : Nat)
  deriving DecidableEq, Repr

/-- How a transfer of a ring or a channel ends in error (R294 codes 4 to 12). -/
inductive XferErr
  | linkDown | hostUr | hostCa | hostTimeout | bmeOff | nocGated | nocReset | nocUnmapped | nocWindow
  deriving DecidableEq, Repr

/-- What a host writes of a function's MSI-X: a field of the capability in configuration space, or a dword of the memory region that holds the table (R35, R37, R38, R313, R319): of BAR4 for PF0, of the identity page from its table on for a VF. -/
inductive MsixField
  | enable (b : Bool) | functionMask (b : Bool)
  | table (off : Nat) (v : W32)
  deriving DecidableEq, Repr

/-- What the clock monitor sees fail (R497, R517): a reference, a PLL with its reference there, or the two against each other. -/
inductive ClockFail
  | reference
  | pll
  | disagree
  deriving DecidableEq, Repr

/-- Where an access of registers begins, and its length in bytes (R52). -/
structure RegSpan where
  off : Nat
  len : Nat
  deriving DecidableEq, Repr

/-- The answer of a PTM dialogue (R47): the master times t2 and t3 of the request's arrival and of the response's departure, and the time from t1 to t4 that the module measured, all in nanoseconds. -/
structure PtmAnswer where
  t2 : W64
  t3 : W64
  round : W64
  deriving DecidableEq, Repr

/-- One coded unit of a CTU row as the entropy coder delivers it: its size coded at the row's QP, and its size coded at the floor (R147, R150). -/
structure CodedUnit where
  coded : Nat
  floor : Nat
  deriving DecidableEq, Repr

/-- A row's units from their sizes and floors. -/
def codedUnits (coded floors : List Nat) : List CodedUnit := (coded.zip floors).map fun e => { coded := e.1, floor := e.2 }

/-- A sample row data header of an ST 2110-20 packet (R431, R435). -/
structure RowHeader where
  row : Nat
  offset : Nat
  bytes : List Byte
  deriving DecidableEq, Repr

/-- A packet of a receive flow (R416, R429, R430). -/
structure MediaPacket where
  seq : Nat
  timestamp : W32
  marker : Bool
  payloadType : Nat
  good : Bool
  rows : List RowHeader
  units : List (List Byte)
  deriving DecidableEq, Repr

/-- An Ethernet frame as the MAC sees it (R416, R417): its bytes without the FCS, and whether the FCS passes. -/
structure Frame where
  bytes : List Byte
  fcsOk : Bool
  deriving DecidableEq, Repr

/-- A Tolac packet header (R459). -/
structure FabHeader where
  ptype : Nat
  vc : Nat
  alt : Bool
  poison : Bool
  hops : Nat
  dst : Nat
  src : Nat
  len : Nat
  seq : Nat
  tag : W32
  addr : Nat
  resp : Nat
  sync : Bool
  deriving DecidableEq, Repr

/-- The result of sweeping one byte lane in one direction: which taps passed, and, where a single bit within the lane fails, which pass once it is mapped onto the channel's spare data lane (R354). -/
structure LaneSweep where
  lane : Nat
  write : Bool
  passing : List Nat
  again : Option (List Nat)
  deriving DecidableEq, Repr

/-- How the parse of a slice or tile ends, as the core reports it (R183, R184): its CTU rows count from its own first. -/
inductive DecodeOutcome
  | clean
  | syntaxError (row : Nat)
  | missingParam
  | unsupported
  deriving DecidableEq, Repr

/-- A picture of the bitstream, as its headers and parameter sets give it (R67, R178, R181, R185, R192, R197, R198). Pictures are named by their number in the session. -/
structure PicInfo where
  /-- a start point, a key picture, the picture at which recovery completes, a RASL picture of the start -/
  startPoint : Bool
  key : Bool
  recovers : Bool
  rasl : Bool
  width : Nat
  height : Nat
  chroma : Nat
  depth : Nat
  /-- size of a coding unit: macroblock, CTU or superblock -/
  ctu : Nat
  /-- widths of the tile columns in coding units, from the left; one where the picture has no tiles -/
  tiles : List Nat
  /-- the cropped output: left, top, width, height -/
  cropX : Nat
  cropY : Nat
  outW : Nat
  outH : Nat
  /-- picture order count, or order hint, counted on so that it gives the output order -/
  poc : Int
  /-- pictures that stay in the DPB, and pictures that the standard outputs when this one starts, in output order -/
  keep : List Nat
  outputs : List Nat
  /-- whole pictures that the stream shows to be lost before this one -/
  lost : Nat
  deriving DecidableEq, Repr

/-- A slice, or a tile, of the picture being received, as its bitstream gives it: what only a decoder of the codec can tell. With `count` 0 it stands for the other units of a run, such as parameter sets. -/
structure SliceInfo where
  /-- its tile column, its first coding unit and how many it has, in raster order within that tile column -/
  tile : Nat
  first : Nat
  count : Nat
  /-- it begins a new picture; it is the last of the unit that holds it -/
  newPicture : Bool
  lastOfUnit : Bool
  pic : PicInfo
  /-- pictures of its two lists -/
  list0 : List Nat
  list1 : List Nat
  blocks : List DecBlock
  /-- offset of its first byte in its unit, and offsets at which its rows end -/
  start : Nat
  ends : List Nat
  /-- bins that its entropy stage decodes (R177) -/
  bins : Nat
  /-- the bitstream filters inside it and across its four edges; the decoded picture hash differs -/
  filterIn : Bool
  filterAbove : Bool
  filterLeft : Bool
  filterBelow : Bool
  filterRight : Bool
  hashBad : Bool
  result : DecodeOutcome
  deriving DecidableEq, Repr

inductive Instr
  -- registers (R7, R52 to R56)
  | registerWrite (who : Who) (off : Nat) (vs : List W32)
  | counterReadClear (who : Who) (span : RegSpan)
  | bar0PartialWrite (fn : FnId) (off : Nat) (be : BitVec 4) (v : W32)
  | pairLoRead (who : Who) (off : Nat)
  | pairLoWrite (who : Who) (off : Nat) (v : W32)
  | evtSet (who : Who) (page : PageId) (v : W32)
  | blockEnable (who : Who) (page : PageId)
  | drain (who : Who) (page : PageId)
  | abort (who : Who) (page : PageId)
  | blockDrainDone (page : PageId)
  | srst (who : Who) (page : PageId)
  | blockResetReplyTimeout (page : PageId)
  -- resets and host interface (R31, R36, R43 to R47, R60 to R62)
  | devRst (who : Who) (v : W32)
  | warmReset
  | perstNAssert
  | pcieHotReset
  | perstNDeassert
  | hostLinkDown
  | hostLinkRestored
  | flr (fn : FnId)
  | powerStateChange (fn : FnId) (d3 pmeEn clearPme : Bool)
  | busMasterEnableChange (fn : FnId) (on : Bool)
  | vfDisable (vfEnable ari : Bool) (numVFs : FnId)
  | bar2Resize (log2 : Nat)
  | bar2Access (fn : FnId) (off : Nat) (len : Nat) (wr : Option (List Byte))
  | msixControlWrite (fn : FnId) (f : MsixField)
  | ptmRequest (who : Who)
  | ptmDone (answer : Option PtmAnswer)
  -- rings and jobs (R244 to R279, R283, R314, R587)
  | ringDoorbell (who : Who) (r : RingId) (tail : W32)
  | ringOwnerChange (who : Who) (r : RingId) (owner : FnId)
  | ringEntryFetchFail (r : RingId) (err : Fin 16)
  | jobBadType (r : RingId)
  | sessionOpen (r : RingId)
  | sessionCloseFinish (r : RingId)
  | sessionCloseAbort (r : RingId)
  | sessionCloseComplete (sess : SessId)
  | encodePicture (r : RingId)
  | decodeUnit (r : RingId)
  | composeConfig (r : RingId)
  | flip (r : RingId)
  | install (r : RingId)
  | load (r : RingId)
  | loadSwap (r : RingId)
  | nop (r : RingId)
  | fence (r : RingId)
  | fenceComplete (r : RingId)
  -- pools (R331 to R348)
  | alloc (src : PoolSrc) (pool : PoolId) (count : Nat) (blocking : Bool)
  | addref (src : PoolSrc) (h : W32)
  | release (src : PoolSrc) (h : W32)
  | transfer (src : PoolSrc) (h : W32) (dst : Nat)
  | free (src : PoolSrc) (h : W32)
  | reclaimByOwner (src : PoolSrc) (pool : PoolId) (victim : Nat)
  | reclaimDone (pool : PoolId)
  | poolWaiterServed (pool : PoolId)
  | poolEnable (who : Who) (pool : PoolId)
  | poolDrain (who : Who) (pool : PoolId)
  | poolAbort (who : Who) (pool : PoolId)
  | linesDoneAdvance (a : Nat) (h : W32) (lines : Nat) (complete : Bool)
  -- encoding (R77 to R101, R104 to R173)
  | pictureStart (sess : SessId)
  /-- what the prepass records of the picture's 16 x 16 blocks, in raster order: activity, intra and inter cost, best vector (R120) -/
  | prepass (sess : SessId) (pic : Nat) (activity : List Nat) (costs : List (Nat × Nat)) (vectors : List Mv)
  | sliceJobReady (sess : SessId) (pic job : Nat)
  | inheritLatestStart (sess : SessId) (pic job : Nat)
  | sliceJobDispatch (core : CoreId)
  | stripStart (core : CoreId)
  /-- the row's units as the entropy coder delivers them: their sizes coded at the row's QP, and at the floor (R147, R150) -/
  | ctuRowStart (core : CoreId) (headerBytes : Nat) (coded floors : List Nat)
  | pooledRowReady (sess : SessId) (pic job : Nat)
  | sliceJobComplete (core : CoreId)
  | sqBankSwap (core : CoreId)
  | sqTimeout (core : CoreId)
  | sliceTrailer (core : CoreId)
  -- promotion and hedges (R85 to R95)
  | promotionReplyTimeout (hedge : HedgeId)
  | promotionReissue (hedge : HedgeId)
  | hdgPromote (who : Who) (hedge : HedgeId) (v : W32)
  | hostPromoteTakeover (hedge : HedgeId)
  | hdgSpare (who : Who) (hedge : HedgeId) (v : W32)
  | bistStart (who : Who) (hedge : HedgeId) (slot : Fin 16)
  | bistDone (hedge : HedgeId) (pass : Bool)
  | hdgDvfsWrite (who : Who) (hedge : HedgeId) (v : W32)
  | dvfsApply (hedge : HedgeId)
  | hdgPersPinWrite (who : Who) (hedge : HedgeId) (v : W32)
  -- decoding (R174 to R204)
  | decodeJobReady (sess : SessId) (si : SliceInfo)
  | concealmentJobReady (sess : SessId) (pic : Nat)
  | concealLatestStart (sess : SessId) (pic : Nat)
  | outputDeadline (sess : SessId) (row : Nat)
  -- composer (R205 to R243)
  | flipPoint (pipe : PipeId)
  | freewheelFlip (pipe : PipeId)
  | canvasLineWrite (pipe : PipeId)
  | lateLine (pipe : PipeId)
  | groupArm (who : Who) (pipe : PipeId) (group : GroupId)
  | groupCancel (who : Who) (pipe : PipeId) (group : GroupId)
  -- DMA and streams (R280 to R312)
  | dchGo (who : Who) (ch : ChanId)
  | dchEnd (ch : ChanId)
  | dmaDescriptorStart (r : RingId)
  | descriptorTransferError (r : RingId) (index : Nat) (err : XferErr)
  | descriptorEnd (r : RingId) (index : Nat)
  | streamSliceStart (r : RingId)
  | streamSliceEnd (r : RingId)
  | cbufRdWrite (who : Who) (r : RingId) (v : W32)
  -- interrupt controller (R313 to R330)
  | icClaim (who : Who) (inst : FnId)
  | icComplete (who : Who) (inst : FnId) (v : W32)
  | msixSend (inst : FnId)
  | icModWrite (who : Who) (inst : FnId) (r : RingId) (v : W32)
  | moderationTimer (r : RingId)
  | pmeRepeat (fn : FnId)
  -- HBM (R349 to R378)
  | hbmRead (a : Nat) (addr len : Nat)
  | hbmWrite (a : Nat) (addr : Nat) (bytes : List Byte) (poison : Bool)
  | hbmFullTraining (who : Who) (stack : StackId)
  | hbmTrainingDone (stack : StackId) (temp : BitVec 8) (sweeps : List LaneSweep) (us : W32)
  | hbmTrackingRetrain (who : Who) (stack : StackId) (sweeps : List LaneSweep) (us : W32)
  | hbmTempPoll (stack : StackId) (temp : BitVec 8)
  | hbmRefresh (stack : StackId)
  | scrubRead (stack : StackId) (errs : Nat)
  | hbmMapWrite (who : Who) (v : W32)
  | pprSoft (who : Who) (stack : StackId) (key : Byte)
  | pprHard (who : Who) (stack : StackId) (key : Byte)
  -- sequencers (R379 to R412)
  | eventTaken (q : SeqId)
  | next (q : SeqId)
  | jump (q : SeqId)
  | cjump (q : SeqId)
  | call (q : SeqId)
  | ret (q : SeqId)
  | loop (q : SeqId)
  | dispatch (q : SeqId)
  | halt (q : SeqId)
  | microwordAlu (q : SeqId)
  | busRd (q : SeqId)
  | busWr (q : SeqId)
  | regRd (q : SeqId)
  | regWr (q : SeqId)
  | commit (q : SeqId)
  | evtMask (q : SeqId)
  | dch (q : SeqId)
  | timer (q : SeqId)
  | seqTimerExpiry (q : SeqId)
  | stageStart (q : SeqId)
  | sqWrite (q : SeqId)
  | sqPush (q : SeqId)
  | rcSnap (q : SeqId)
  | bitsPut (q : SeqId)
  | bitsGet (q : SeqId)
  | seqWatchdog (q : SeqId)
  | bankSwap (q : SeqId)
  | storeReload (core : CoreId) (personality : Fin 16)
  | cswKick (who : Who) (v : W32)
  | cswSwap (who : Who) (v : W32)
  | cswData0Read (who : Who)
  | cswData3Write (who : Who) (v : W32)
  | cswRevoke (who : Who) (v : W32)
  -- Ethernet and media (R415 to R451)
  | ethernetFrameReceive (port : PortId) (f : Frame)
  | mediaPacketReceive (flow : FlowId) (pathB : Bool) (p : MediaPacket)
  | lossDeadline (flow : FlowId)
  | pictureSilenceTimeout (flow : FlowId)
  | htxCmd (who : Who) (port : PortId) (v : W32)
  | hostFrameSent (port : PortId)
  | flowEnable (who : Who) (tx : Bool) (flow : FlowId)
  | flowDrain (who : Who) (tx : Bool) (flow : FlowId)
  | flowAbort (who : Who) (tx : Bool) (flow : FlowId)
  | txHandover (flow : FlowId) (a : Nat) (h : W32)
  | txPacketDue (flow : FlowId)
  | mtcLoad (who : Who)
  | mtcAdj (who : Who)
  | mtcSlew (who : Who)
  | slewDone
  | mtcNsRead (who : Who)
  -- Tolac fabric (R452 to R493)
  | tptModeWrite (who : Who) (port : PortId) (v : W32)
  | linkTrainingStart (who : Who) (port : PortId)
  | tolacLinkUp (port : PortId) (credits : List Nat) (reversed : Bool)
  | linkTrainingTimeout (port : PortId)
  | tolacLinkDown (port : PortId)
  | flitNak (port : PortId)
  | linkAckTimeout (port : PortId)
  | fabricPacketForward (port : PortId) (h : FabHeader) (payload : List Byte)
  | probe (port : PortId)
  | probeAns (port : PortId) (serial : W64) (node : Nat) (farPort : Nat) (mode : Nat)
  | probeGo (who : Who) (port : PortId)
  | probeTimeout (port : PortId)
  | e2eAck (port : PortId) (h : FabHeader)
  | e2eAckSend (node vc : Nat)
  | e2eRetransmit (node vc : Nat)
  | memTimeout (tag : W32)
  | failback (port : PortId)
  | mediaRtp (port : PortId) (h : FabHeader) (payload : List Byte)
  | memRd (port : PortId) (h : FabHeader)
  | memWr (port : PortId) (h : FabHeader) (payload : List Byte)
  | memResp (port : PortId) (h : FabHeader) (payload : List Byte)
  | bulkWr (port : PortId) (h : FabHeader) (payload : List Byte)
  | bulkRd (port : PortId) (h : FabHeader)
  | bulkResp (port : PortId) (h : FabHeader) (payload : List Byte)
  | join (group : Fin 8) (member : Fin 8) (hash : W64)
  | go (group : Fin 8) (sec : BitVec 48) (ns : W32)
  | allowance (group : Fin 8) (sec : BitVec 48) (ns : W32) (amounts : List Nat)
  | subst (group : Fin 8) (member : Fin 8) (sec : BitVec 48) (ns : W32)
  | leave (group : Fin 8) (member : Fin 8)
  | espHalo (group : Fin 8) (member : Fin 8) (strip alt : Bool) (row : Nat) (sec : BitVec 48) (ns : W32) (bytes : List Byte)
  | espPart (port : PortId) (h : FabHeader) (group : Fin 8) (member : Fin 8) (sec : BitVec 48) (ns : W32) (tile : Nat) (last : Bool) (bytes : List Byte)
  | partTimeout (group : Fin 8) (member : Fin 8)
  | routeEntryWrite (who : Who) (entry : Fin 4096) (v : W32)
  -- clocks (R494 to R522)
  /-- what fails, of PLL_B or not; with it the other reference within one microsecond (R517) -/
  | clockFailure (kind : ClockFail) (pllB both : Bool)
  | pllQualified (pllB : Bool) (holdUs : Nat)
  | holdTimeout
  | clockSelect (who : Who) (b : Bool)
  | pllbConfigWrite (who : Who) (v : W32)
  | gateWrite (who : Who) (k : Fin 4) (v : W32)
  | freqMeasureStart (who : Who) (v : W32)
  | freqMeasureDone (count : W32)
  | freqMeasureTimeout (count : W32)
  -- faults (R523 to R546)
  | faultRaise (src : SourceId) (agent : Byte) (code : Byte) (detail : W32)
  | faultNPulseEnd
  | fltUnlock (who : Who) (v : W32)
  | fltHistAckWrite (who : Who) (v : W32)
  | event (who : Who)
  | flip1 (who : Who)
  | flip2 (who : Who)
  | testEnFall
  -- power, temperature, sideband (R547 to R577)
  | powerUp
  | undervoltage
  | feedFail (feedB : Bool)
  | feedAlarm (feedB : Bool) (low : Bool)
  | currentLimitTrip
  | hotSwapRetry
  | pwrEnLow
  | pwrEnHigh
  | sensorPoll (junctions : List Int) (hbmTemps : List Int)
  | thermalStepDown
  | thermalStepUp
  | thermalTrip
  | thermalShutdown
  | smbReadWord (k : Byte) (pec : Bool)
  | smbWriteWord (k : Byte) (v : BitVec 16) (pecOk : Bool)
  | smbSendByte (b : Byte)
  -- links, memory scheduling, measurement
  | ethernetLinkDown (port : PortId)
  | ethernetLinkUp (port : PortId)
  | hbmRequestIssue (pcx : Fin 128)
  | rowIdleClose (pcx : Fin 128) (bank : Nat)
  | creditReturn (port : PortId) (vc : Fin 4) (n : Nat)
  | flitAck (port : PortId) (n : Nat)
  | stageDone (core : CoreId) (stage : Fin 8)
  | smbMeasurementUpdate (vinA vinB iinA iinB board : BitVec 16) (pin1ms pin100ms : Nat)
  deriving DecidableEq, Repr

end Sys2Proof
end

