-- ==== Sys2Proof/Decode.lean ====
section
/-! DEFINITION. Decoding of commands. spec/opcode_table.json gives no row any bits, so no word spells a command. -/

namespace Sys2Proof

/-- The command that the `nbits` low bits of `w` spell by the table's bits: the table gives bits for no row. -/
def decodeTableWord (_nbits _w : Nat) : Option Instr := none

end Sys2Proof
end

