-- ==== Sys2Proof/Config.lean ====
section
/-! DEFINITION. What the manual leaves open, as constants without a body: no proof can see their values, so a claim holds whatever they are. Each is named in the assumption log. -/

namespace Sys2Proof.Config

/-- A fresh open 32-bit value, one for each number drawn (a value the manual calls undefined). -/
opaque freeWord : Nat → W32
/-- A fresh open byte (bytes of a partly landed transfer, R293; contents after SR_MISSED, R363). -/
opaque freeByte : Nat → Byte
/-- A fresh open choice. -/
opaque freeBool : Nat → Bool
/-- The ROM boot image of each sequencer (R398): word at an address; its contents are not given. -/
opaque romWord : Nat → Nat → W128
/-- VERSION of each sequencer's ROM image; the major version of hedge and management images is 1 (R402). -/
opaque romVersionLow : Nat → BitVec 24
opaque romCoreMajor : Nat → Byte
/-- ENTRY of each ROM image (R398). -/
opaque romEntry : Nat → BitVec 14
/-- SHA-384 of a byte string (R403, R404). -/
opaque sha384 : List Byte → BitVec 384
/-- ECDSA P-384 verification: digest, r, s, public key (R404). -/
opaque ecdsaVerify : List Byte → List Byte → List Byte → List Byte → Bool
/-- The fused hash of key slot k (R404, R405). -/
opaque fusedHash : Nat → BitVec 384
/-- Whether est(QP) of a row rounds up (R149 gives a real number): bytes, known QP, wanted QP. -/
opaque estRoundUp : Nat → Nat → Nat → Bool
/-- The bytes of a non-coded unit (R131): the standards' signalling, emitted by microcode. -/
opaque unitBytes : HdrUnit → List Byte
/-- Hop limit of the packets sent (R416 gives none). -/
opaque ipTtl : Byte
/-- Hash of the stream, encode and rate fields that JOIN carries (R472). -/
opaque espHash : List Byte → W64
/-- The coded bytes of a picture, by the picture's seed, job and offset (R81: a job coded again gives the same bytes). -/
opaque codedByte : Nat → Nat → Nat → Byte
/-- The bytes of a coded CTU row, from its signalling, and the bins they take (R127, R130): the standards' binarisation and arithmetic coding. -/
opaque rowByte : RowSyntax → Nat → Byte
opaque rowBins : RowSyntax → Nat
/-- SATD of the prediction of an 8 x 8 luma block, SAD of a block's, estimated bits of a vector's difference from its predictor (R116): picture, reference, block, vector. What they measure follows from samples and the standards' interpolation. -/
opaque satd8 : Nat → Nat → Nat → Nat → Mv → Nat
opaque sad : Nat → Nat → PixBlock → Mv → Nat
opaque mvBits : Nat → Nat → PixBlock → Mv → Nat
/-- SATD of an intra mode of a block, and the block's k-th most probable mode (R113). -/
opaque intraSatd : Nat → PixBlock → Nat → Nat
opaque mostProbable : Nat → PixBlock → Nat → Nat
/-- Whether an intra mode of a codec reads reference samples to the right of its block (R158): the standards' property. -/
opaque readsRight : Nat → PixBlock → Nat → Bool
/-- D and R of a candidate at a QP (R114); the source fetch conversion is part of what D measures. -/
opaque distortion : Nat → Nat → PixBlock → Pred → Nat
opaque predBits : Nat → Nat → PixBlock → Pred → Nat
/-- The standard's k-th merge candidate of a block: its two lists (R114). -/
opaque mergeMv : Nat → PixBlock → Nat → Option RefMv × Option RefMv
/-- Whether the encoder uses an allowed tool in a coding unit (R102, R126): a decision of its rate-distortion optimisation. -/
opaque usesTool : Nat → Nat → PixBlock → Pred → Tool → Bool
/-- D and R of an SAO mode of a CTU (R128): picture, CTU column, CTU row. -/
opaque saoCost : Nat → Nat → Nat → SaoMode → Nat × Nat
/-- Filter parameters that a picture's statistics give the next one (R128): ALF coefficients, CDEF strengths, type and coefficients of a restoration unit. -/
opaque alfFrom : Nat → List Int
opaque cdefFrom : Nat → Nat × Nat
opaque restorationFrom : Nat → Nat → Nat × List Int
/-- Samples of a coded or decoded picture (component, column, line), before and after filtering across an edge. -/
opaque sample : Nat → Nat → Nat → Nat → Nat
opaque filteredSample : Nat → Nat → Nat → Nat → Nat
/-- COST of a decoded block's motion record (R107; a decoder measures none): picture, column, line. -/
opaque decCost : Nat → Nat → Nat → Nat
/-- The source fetch scaler's 4-tap filter: phase and four samples (R112 gives no coefficients). -/
opaque scale4 : Nat → List Nat → Nat
/-- The median of an even number of values, from the two in the middle (R121). -/
opaque evenMedian : Int → Int → Int
/-- The level's maximum CPB rate (in 1000 bit/s), CPB size (in 1000 bits) and DPB size (R105, R144): codec, profile, level, tier; width, height. -/
opaque levelCpbRate : Nat → Nat → Nat → Nat → Nat
opaque levelCpbSize : Nat → Nat → Nat → Nat → Nat
opaque levelDpb : Nat → Nat → Nat → Nat → Nat
/-- Decoding of a Y'CbCr sample triple to R'G'B' (R216 CSC 1 and 2), and its inverse (R220): csc, full range, depth, components. -/
opaque cscDecode : Nat → Bool → Nat → Nat → Nat → Nat → Nat × Nat × Nat
opaque cscEncode : Nat → Bool → Nat → Nat → Nat → Nat → Nat × Nat × Nat
/-- Whether a real quotient that the manual leaves unrounded is rounded up (R217, R218, R219): numerator, denominator. -/
opaque roundUp : Nat → Nat → Bool
/-- Whether the parity bits of a microword are odd parity (R381). -/
opaque parityOdd : Bool
/-- FRU byte (R566, factory). -/
opaque fruByte : Nat → Byte
/-- Whether a register is read-only to a sequencer (R394): no chapter says of which. By BAR0 offset. -/
opaque seqReadOnly : Nat → Bool
/-- Banks of a stack ID and stack IDs of a pseudo-channel (R351 rotates rows over them and gives no numbers). -/
opaque hbmBanks : Nat
opaque hbmSids : Nat
/-- Spare rows, beyond a first one, that a stack reports before any repair (R367: it has spare rows, and few). -/
opaque spareRows : Nat → Nat

end Sys2Proof.Config
end

