-- ==== Sys2Proof/Machine/Operands.lean ====
section
/-! DEFINITION. Operand forms: bit fields of a 32-bit word, little-endian fields of a byte structure (R5), handles (R334), the four address forms of a descriptor (R287), the swap modes (R290), CRC-32C (R292), and the fields of a microword (R383, R387). -/

namespace Sys2Proof.Machine

/-- Field [hi:lo] of a word. -/
def fld (w : W32) (hi lo : Nat) : Nat := (w.toNat >>> lo) % 2 ^ (hi + 1 - lo)

/-- Bit `i` of a word. -/
def bitAt (w : W32) (i : Nat) : Bool := w.toNat.testBit i

/-- The mask of field [hi:lo]. -/
def fldMask (hi lo : Nat) : Nat := (2 ^ (hi + 1 - lo) - 1) <<< lo

/-- The word with field [hi:lo] replaced by `v` (its low bits). -/
def setFld (w : W32) (hi lo v : Nat) : W32 :=
  let m := BitVec.ofNat 32 (fldMask hi lo)
  (w &&& ~~~m) ||| (BitVec.ofNat 32 (v <<< lo) &&& m)

/-- The word with bit `i` set or cleared. -/
def setBit (w : W32) (i : Nat) (b : Bool) : W32 := setFld w i i (if b then 1 else 0)

/-- A Bool as a number. -/
def b2n (b : Bool) : Nat := if b then 1 else 0

/-- The numbers `a`, `a + 1`, ..., `n` of them. -/
def span (a n : Nat) : List Nat := (List.range n).map (a + ·)

/-- Put `x` into an ordered list, before what it does not come after. -/
def insertBy {α : Type} (le : α → α → Bool) (x : α) : List α → List α
  | [] => [x]
  | y :: ys => if le x y then x :: y :: ys else y :: insertBy le x ys

/-- The list in the order `le`; equals keep their order. -/
def sortBy {α : Type} (le : α → α → Bool) (l : List α) : List α := l.foldr (insertBy le) []

/-- Value of a byte list, least significant byte first (R5). -/
def leNat : List Byte → Nat
  | [] => 0
  | b :: bs => b.toNat + 256 * leNat bs

/-- `n` bytes of a number, least significant first (R5). -/
def leBytes : Nat → Nat → List Byte
  | 0, _ => []
  | n + 1, v => BitVec.ofNat 8 v :: leBytes n (v / 256)

/-- Value of a byte list, most significant byte first. -/
def beNat (bs : List Byte) : Nat := leNat bs.reverse

/-- `n` bytes of a number, most significant first. -/
def beBytes (n v : Nat) : List Byte := (leBytes n v).reverse

/-- `n` bytes of a structure from offset `o` (short at its end). -/
def slice (bs : List Byte) (o n : Nat) : List Byte := (bs.drop o).take n

/-- The little-endian field of `n` bytes at offset `o` of a structure. -/
def leAt (bs : List Byte) (o n : Nat) : Nat := leNat (slice bs o n)

/-- Bit `i` of the byte at offset `o`. -/
def bitIn (bs : List Byte) (o i : Nat) : Bool := (leAt bs o 1).testBit i

/-- Bits [hi:lo] of the byte at offset `o`. -/
def bitsIn (bs : List Byte) (o hi lo : Nat) : Nat := (leAt bs o 1 >>> lo) % 2 ^ (hi + 1 - lo)

/-- Whether every byte of a range of a structure is 0. -/
def zeroAt (bs : List Byte) (o n : Nat) : Bool := (slice bs o n).all (· == 0)

/-- A structure with the bytes from `o` replaced. -/
def putAt (bs : List Byte) (o : Nat) (v : List Byte) : List Byte :=
  bs.take o ++ v ++ bs.drop (o + v.length)

/-- Division rounded up. -/
def ceilDiv (a b : Nat) : Nat := if b = 0 then 0 else (a + b - 1) / b

/-- `a` rounded up to a multiple of `b`. -/
def alignUp (a b : Nat) : Nat := ceilDiv a b * b

/-- A value limited to a range. -/
def clampInt (lo hi v : Int) : Int := if v < lo then lo else if hi < v then hi else v

/-- A signed reading of an `n`-bit field. -/
def signed (n v : Nat) : Int := if v < 2 ^ (n - 1) then (v : Int) else (v : Int) - (2 ^ n : Nat)

/-- An `n`-bit field holding a signed value. -/
def unsignedOf (n : Nat) (v : Int) : Nat := (v % ((2 ^ n : Nat) : Int)).toNat

/-! Handles (R334). -/

def hPool (h : W32) : Nat := fld h 31 26
def hGen (h : W32) : Nat := fld h 25 20
def hIndex (h : W32) : Nat := fld h 19 0
def mkHandle (pool gen index : Nat) : W32 := BitVec.ofNat 32 (pool <<< 26 ||| gen <<< 20 ||| index)

/-- The generation after `g`: 63 is followed by 1 (R334). -/
def genNext (g : Nat) : Nat := if g = 63 then 1 else g + 1

/-! The four address forms of a DMA descriptor (R287). -/

inductive AddrKind
  | host | localA | global | handle
  deriving DecidableEq, Repr

def addrKind (k : Nat) : AddrKind :=
  match k with
  | 0 => .host
  | 1 => .localA
  | 2 => .global
  | _ => .handle

/-- Fields of the DCTL dword (R288). -/
structure Dctl where
  own : Bool
  control : Bool
  swap : Nat
  crcEn : Bool
  crcHost : Bool
  srcKind : AddrKind
  dstKind : AddrKind
  peer : Bool
  relSrc : Bool
  order : Bool
  circ : Nat
  reserved : Nat
  deriving DecidableEq, Repr

def dctlOf (w : W32) : Dctl :=
  { own := bitAt w 0, control := bitAt w 1, swap := fld w 4 2, crcEn := bitAt w 5, crcHost := bitAt w 6,
    srcKind := addrKind (fld w 8 7), dstKind := addrKind (fld w 10 9), peer := bitAt w 11,
    relSrc := bitAt w 12, order := bitAt w 13, circ := fld w 18 14, reserved := fld w 23 19 }

/-- The DCTL the module writes at an end: the host's fields with OWN = 0 and STATUS and ERR filled (R288). -/
def dctlEnd (w : W32) (status err : Nat) : W32 :=
  setFld (setFld (setBit w 0 false) 27 24 status) 31 28 err

/-- Group size of a swap mode in bytes (R290). -/
def swapGroup (m : Nat) : Nat :=
  match m with
  | 1 => 2
  | 2 => 4
  | 3 => 4
  | 4 => 8
  | _ => 1

/-- Where the byte at position `i` of the arriving transfer comes from, for each swap mode (R290). -/
def swapIndex (m i : Nat) : Nat :=
  match m with
  | 1 => i ^^^ 1
  | 2 => i ^^^ 3
  | 3 => i ^^^ 2
  | 4 => i ^^^ 7
  | _ => i

/-- The bytes of a transfer under a swap mode (R290). -/
def swapBytes (m : Nat) (bs : List Byte) : List Byte :=
  (List.range bs.length).map fun i => bs.getD (swapIndex m i) 0

/-- One byte of the reflected CRC-32C, bit by bit (R292). -/
def crcBit : Nat → Nat → Nat
  | 0, c => c
  | n + 1, c => crcBit n (if c % 2 = 1 then (c / 2) ^^^ 0x82F63B78 else c / 2)

/-- CRC-32C of a byte string (R292). -/
def crc32c (bs : List Byte) : W32 :=
  BitVec.ofNat 32 ((bs.foldl (fun c b => crcBit 8 (c ^^^ b.toNat)) 0xFFFFFFFF) ^^^ 0xFFFFFFFF)

/-- Address of byte `i` of a destination, linear (`n` = 0) or circular in a block of 2^n bytes (R291). -/
def circAddr (n dst i : Nat) : Nat :=
  if n = 0 then dst + i else dst / 2 ^ n * 2 ^ n + (dst + i) % 2 ^ n

/-! Fields of a microword (R383, R387). -/

def mwField (w : W128) (hi lo : Nat) : Nat := (w.toNat >>> lo) % 2 ^ (hi + 1 - lo)
def mwSeq (w : W128) : Nat := mwField w 127 125
def mwCond (w : W128) : Nat := mwField w 124 120
def mwTarget (w : W128) : Nat := mwField w 119 106
def mwCyc (w : W128) : Nat := mwField w 105 103
def mwYield (w : W128) : Bool := mwField w 102 102 == 1
def mwCommit (w : W128) : Bool := mwField w 101 101 == 1
def mwLoopSel (w : W128) : Nat := mwField w 100 96
def mwAluOp (w : W128) : Nat := mwField w 95 90
def mwDst (w : W128) : Nat := mwField w 89 84
def mwSrcA (w : W128) : Nat := mwField w 83 78
def mwSrcB (w : W128) : Nat := mwField w 77 72
def mwBSel (w : W128) : Nat := mwField w 71 70
def mwFlg (w : W128) : Bool := mwField w 69 69 == 1
def mwWrDst (w : W128) : Bool := mwField w 68 68 == 1
def mwImm (w : W128) : W32 := BitVec.ofNat 32 (mwField w 67 36)
def mwUnitOp (w : W128) : Nat := mwField w 35 32
def mwUnitArg (w : W128) : Nat := mwField w 31 0

/-- The HALT word (R384), with which the rest of a bank is filled (R403). -/
def haltWord : W128 := BitVec.ofNat 128 (7 <<< 125)

end Sys2Proof.Machine
end

