-- ==== Sys2Proof/Machine/Tab.lean ====
section
/-! DEFINITION. One sparse table for everything the module numbers: registers, bytes of memory, rings, sessions, cores, flows. A table lists only the entries that differ from their default, keys strictly rising, so that equal contents are equal data. -/

namespace Sys2Proof.Machine

/-- A sparse table: what is not listed has its default. -/
abbrev Tab (α : Type) := List (Nat × α)

/-- The entry at `k`, `d k` when none is listed. -/
def tabGet {α : Type} (d : Nat → α) : Tab α → Nat → α
  | [], k => d k
  | (j, v) :: t, k => if k = j then v else tabGet d t k

/-- The table without an entry at `k`. -/
def tabDrop {α : Type} : Tab α → Nat → Tab α
  | [], _ => []
  | (j, v) :: t, k => if k = j then tabDrop t k else (j, v) :: tabDrop t k

/-- The table with `v` listed at `k`, in order. -/
def tabIns {α : Type} : Tab α → Nat → α → Tab α
  | [], k, v => [(k, v)]
  | (j, w) :: t, k, v =>
    if k = j then (k, v) :: t else if k < j then (k, v) :: (j, w) :: t else (j, w) :: tabIns t k v

/-- Write `v` at `k`, keeping the canonical form: a default value is not listed. -/
def tabPut {α : Type} [DecidableEq α] (d : Nat → α) (t : Tab α) (k : Nat) (v : α) : Tab α :=
  if v = d k then tabDrop t k else tabIns t k v

/-- Every listed entry replaced by a function of it; one that becomes its default is no longer listed. -/
def tabMap {α : Type} [DecidableEq α] (d : Nat → α) (f : Nat → α → α) (t : Tab α) : Tab α :=
  (t.map fun e => (e.1, f e.1 e.2)).filter fun e => decide (e.2 ≠ d e.1)

/-- Every key is above `lo` and the keys rise strictly. -/
def tabRising {α : Type} : Nat → Tab α → Bool
  | _, [] => true
  | lo, (j, _) :: t => decide (lo ≤ j) && tabRising (j + 1) t

/-- The canonical form: keys strictly rising, no entry equal to its default. -/
def tabWf {α : Type} [DecidableEq α] (d : Nat → α) (t : Tab α) : Bool :=
  tabRising 0 t && t.all fun e => decide (e.2 ≠ d e.1)

end Sys2Proof.Machine
end

