-- ==== Sys2Proof/Machine/State.lean ====
section
/-! DEFINITION. The state of the module as plain data: every register (by BAR0 byte offset), every memory, and everything the spec gives its units beside the registers, with the queue of waiting commands. Each field's docstring gives its width, the rule and file that name it, and its reset value. -/

namespace Sys2Proof.Machine

/-- PTP time: 48-bit seconds, 32-bit nanoseconds (R22, R423). -/
structure PtpTime where
  sec : BitVec 48 := 0
  ns : W32 := 0
  deriving DecidableEq, Repr

/-- Ordering variant (R1, R2). -/
inductive Variant
  | e96 | e144
  deriving DecidableEq, Repr

/-- What the module sends outward; appended to `State.outbox` in order. -/
inductive Output
  /-- data of a completed read (BAR0 word, R48) -/
  | readData (v : W32)
  /-- a BAR2 read completion, with its EP bit (R36) -/
  | bar2Data (bytes : List Byte) (ep : Bool)
  /-- a NoC response to an agent, with read data (R19) -/
  | resp (agent : Nat) (r : Resp) (bytes : List Byte)
  /-- an MSI-X message of an instance (R316) -/
  | msix (inst : Nat) (addr : W64) (data : W32)
  /-- a PM_PME message (R322) -/
  | pme (fn : Nat)
  /-- an LTR message: none is no requirement, otherwise the value sent (R44) -/
  | ltr (v : Option W32)
  /-- an Unsupported Request completion (R43) -/
  | unsupportedRequest (fn : Nat)
  /-- a Configuration Request Retry Status completion (R30) -/
  | configRetry (fn : Nat)
  /-- a zero-length read of a peer device (R50) -/
  | zeroRead (fn : Nat) (addr : W64)
  /-- an answer of the pool manager to an agent: handle, none or error cause (R336, R342) -/
  | poolHandle (agent : Nat) (h : W32)
  | poolNone (agent : Nat)
  | poolError (agent : Nat) (cause : Nat)
  /-- subscribers of a buffer are woken with its LINES_DONE and PIC_COMPLETE (R22, R341) -/
  | wake (subscribers : List Nat) (h : W32) (lines : Nat) (complete : Bool)
  /-- an Ethernet frame leaves port n (R419) -/
  | frame (port : Nat) (bytes : List Byte) (oneStep : Option (Nat × PtpTime))
  /-- an RTP packet of a transmit flow leaves (R435, R437, R438) -/
  | rtp (flow : Nat) (pathB : Bool) (port : Nat) (frame : List Byte)
  /-- a Tolac packet leaves port n (R464) -/
  | fabric (port : Nat) (h : FabHeader) (payload : List Byte)
  /-- link-level messages of a native port: training pattern start, NAK replay from a flit (R456, R457) -/
  | training (port : Nat)
  | replay (port : Nat) (fromFlit : Nat)
  /-- an espalier control message (R474) -/
  | espGo (node : Nat) (sec : BitVec 48) (ns : W32)
  | espJoin (node : Nat) (member : Nat) (hash : W64)
  | espAllowance (node : Nat) (at_ : PtpTime) (amounts : List Nat)
  | espSubst (node : Nat) (member : Nat) (at_ : PtpTime)
  | espLeave (node : Nat) (member : Nat)
  | espRow (node : Nat) (alt : Bool) (strip : Bool) (row : Nat) (at_ : PtpTime) (bytes : List Byte)
  | espPart (node : Nat) (tile : Nat) (at_ : PtpTime) (bytes : List Byte)
  /-- an SMBus answer: word and PEC supplied, or an acknowledgement (R565) -/
  | smbWord (v : BitVec 16) (pec : Bool)
  | smbAck
  | smbNoAck
  /-- PLL lock started (R512), a PHY command to a stack (R362) -/
  | hbmCommand (stack : Nat) (kind : Nat)
  deriving DecidableEq, Repr

/-- Configuration space of one PCIe function that a command reads or writes (R32, R43, R319, R322). -/
structure Func where
  /-- Bus Master Enable, 1 bit; 02_host_attachment.md R284; reset 0 (PRESUMED, PCI Express) -/
  bme : Bool := false
  /-- MSI-X Enable, 1 bit; 10_interrupts.md R319; reset 0 (PRESUMED, PCI Express) -/
  msixEn : Bool := false
  /-- MSI-X Function Mask, 1 bit; 10_interrupts.md R319; reset 0 (PRESUMED, PCI Express) -/
  funcMask : Bool := false
  /-- the vector's Mask bit, 1 bit; 10_interrupts.md R319; reset 1 (PRESUMED, PCI Express) -/
  vecMask : Bool := true
  /-- power state D3hot, 1 bit; 02_host_attachment.md R43; reset D0 -/
  d3 : Bool := false
  /-- PME_En, 1 bit; 10_interrupts.md R322; reset 0 (PRESUMED, PCI Express) -/
  pmeEn : Bool := false
  /-- PME_Status, 1 bit; 10_interrupts.md R322; reset 0 (PRESUMED, PCI Express) -/
  pmeStatus : Bool := false
  /-- a PM_PME held while the link is down, 1 bit; 10_interrupts.md R322; reset 0 -/
  pmeHeld : Bool := false
  /-- PBA bit, 1 bit; 10_interrupts.md R319; reset 0 -/
  pba : Bool := false
  /-- address of the MSI-X table entry, 64 bits; 10_interrupts.md R313; reset 0 (DESIGN CHOICE) -/
  vecAddr : W64 := 0
  /-- data of the MSI-X table entry, 32 bits; 10_interrupts.md R313; reset 0 (DESIGN CHOICE) -/
  vecData : W32 := 0
  /-- AER uncorrectable error status, 32 bits, and First Error Pointer, 5 bits; 02_host_attachment.md R41; reset 0 (PRESUMED, PCI Express) -/
  aerUncor : W32 := 0
  aerFirst : Nat := 0
  /-- AER header log, 4 dwords; 02_host_attachment.md R41; reset 0 (PRESUMED, PCI Express) -/
  aerHeader : List W32 := [0, 0, 0, 0]
  deriving DecidableEq, Repr

/-- How far a transfer whose data may cross the fabric has come (R281, R466, R469). -/
structure Xfer where
  /-- 0 before and 1 after the remote writes are issued -/
  stage : Nat := 0
  /-- remote requests issued and not answered -/
  waits : Nat := 0
  /-- bytes read from a remote source or being written to a remote destination, by offset, and whether they are poisoned -/
  got : Tab (List Byte × Bool) := []
  poison : Bool := false
  /-- ERR of the first failed response, 0 none (R294) -/
  err : Nat := 0
  /-- bytes whose writes were answered OK -/
  done : Nat := 0
  deriving DecidableEq, Repr

/-- One DMA descriptor in flight (R287, R296). -/
structure Desc where
  /-- index of the ring entry; 09_rings_dma.md R283 -/
  index : Nat := 0
  /-- the fetched 32 bytes; 09_rings_dma.md R287, R307 -/
  bytes : List Byte := []
  /-- how it ended: STATUS and ERR, none while it runs; 09_rings_dma.md R293 -/
  ended : Option (Nat × Nat) := none
  /-- checked and started (R289) -/
  started : Bool := false
  xfer : Xfer := {}
  deriving DecidableEq, Repr

/-- A job the dispatcher has taken from a ring and not yet completed (R244, R247). -/
structure JobRef where
  ring : Nat := 0
  typ : Nat := 0
  tag : W32 := 0
  statusLocal : Bool := false
  statusAddr : W64 := 0
  sess : Nat := 0
  deriving DecidableEq, Repr

/-- A status record whose write waits for the return to D0 (R43). -/
structure HeldRecord where
  job : JobRef := {}
  bytes : List Byte := []
  deriving DecidableEq, Repr

/-- A word of a slice queue (R161): 32 data bytes, end mark, poison by parity (R166). -/
structure SqWord where
  data : List Byte := []
  endMark : Bool := false
  /-- one bit for each 32 data bits -/
  parity : BitVec 8 := 0
  /-- reads of it that failed: by path 0 or the only one, by path 1 -/
  failed : Bool := false
  failedB : Bool := false
  deriving DecidableEq, Repr

/-- The slice a STREAM ring is writing (R298). -/
structure StreamSlice where
  /-- the tag word's fields; 05_rate_control_latency.md R162 -/
  tag : List Byte := []
  /-- offset of the first byte -/
  start : Nat := 0
  /-- bytes written so far -/
  bytes : Nat := 0
  poison : Bool := false
  /-- the core whose queue holds it, the last data word not yet written, and the trailer once it has come -/
  core : Nat := 0
  lastWord : Option SqWord := none
  trailer : Option (List Byte) := none
  deriving DecidableEq, Repr

/-- A descriptor ring beside its registers. -/
structure Ring where
  /-- descriptors in flight, oldest first, at most 8; 09_rings_dma.md R296; reset none -/
  descs : List Desc := []
  /-- PHASE of the next status record; 08_job_formats.md R246; reset 1 (first pass) -/
  phase : Bool := true
  /-- the slice being written; 09_rings_dma.md R298; reset none -/
  stream : Option StreamSlice := none
  /-- a FENCE that waits: the job, WRITE, ADDR_LOCAL, ADDR, VALUE; 08_job_formats.md R264; reset none -/
  fenceWait : Option (JobRef × Bool × Bool × W64 × W64) := none
  /-- jobs dispatched whose records are not yet written; 08_job_formats.md R264, R271; reset none -/
  openJobs : List JobRef := []
  /-- records held for a function in D3hot, in order; 02_host_attachment.md R43; reset none -/
  held : List HeldRecord := []
  /-- fetching stopped by a link loss until the ring is reset, 1 bit; 02_host_attachment.md R61, R62; reset 0 -/
  stopped : Bool := false
  /-- completion counter C, 8 bits; 10_interrupts.md R321; reset 0 -/
  modC : Nat := 0
  /-- moderation timer in us; 10_interrupts.md R321; reset 0 -/
  modUs : Nat := 0
  /-- MOD_FIRED, 1 bit; 10_interrupts.md R321; reset 0 -/
  modFired : Bool := false
  deriving DecidableEq, Repr

/-- A direct channel's run in progress (R281). -/
structure Chan where
  src : Nat := 0
  dst : Nat := 0
  count : Nat := 0
  srcGlobal : Bool := false
  dstGlobal : Bool := false
  xfer : Xfer := {}
  deriving DecidableEq, Repr

/-- One buffer of a pool: its state record (R332, R336, R337, R22). -/
structure Buf where
  /-- allocated, 1 bit; 11_buffer_pools.md R334; reset 0 -/
  live : Bool := false
  /-- times freed since the pool was enabled (the generation is the start value advanced so often); 11_buffer_pools.md R334; reset 0 -/
  frees : Nat := 0
  /-- reference count or borrow count, 8 bits; 11_buffer_pools.md R336; reset 0 -/
  count : Nat := 0
  /-- owner agent of a NAMED buffer, 8 bits; 11_buffer_pools.md R336; reset 255 -/
  owner : Nat := 255
  /-- FREE_PENDING, 1 bit; 11_buffer_pools.md R336; reset 0 -/
  freePending : Bool := false
  /-- holder slots: agent and number of references, at most 16; 11_buffer_pools.md R337; reset none -/
  holders : Tab Nat := []
  /-- untracked references; 11_buffer_pools.md R337; reset 0 -/
  untracked : Nat := 0
  /-- CAPTURE_TIME, 80 bits; 01_architecture.md R22; reset 0 -/
  capture : PtpTime := {}
  /-- LINES_DONE, 16 bits; 01_architecture.md R22; reset 0 -/
  linesDone : Nat := 0
  /-- PIC_COMPLETE, 1 bit; 01_architecture.md R22; reset 0 -/
  complete : Bool := false
  /-- producer agent; 11_buffer_pools.md R341; reset none -/
  producer : Option Nat := none
  /-- subscriptions: agent and the line awaited; 01_architecture.md R22; reset none -/
  subs : List (Nat × Nat) := []
  /-- withdrawn by a poisoned state record, 1 bit; 17_faults_recovery.md R528; reset 0 -/
  withdrawn : Bool := false
  deriving DecidableEq, Repr

/-- A blocking allocation that waits (R340): the agent, the initial count, and what it answers: a POOL_OP job, a session's picture, or the agent itself. -/
structure Waiter where
  agent : Nat := 0
  count : Nat := 0
  job : Option JobRef := none
  sess : Option Nat := none
  deriving DecidableEq, Repr

/-- One pool beside its registers. -/
structure Pool where
  /-- lowest index never allocated since the pool was enabled; 11_buffer_pools.md R333; reset 0 -/
  nextNew : Nat := 0
  /-- freed buffer indexes, oldest freed first; 11_buffer_pools.md R339; reset none -/
  freed : List Nat := []
  /-- generation at which the pool was enabled; 11_buffer_pools.md R335; reset 1 -/
  startGen : Nat := 1
  /-- buffers allocated, and buffers withdrawn by poison; 11_buffer_pools.md R345, R528; reset 0 -/
  live : Nat := 0
  gone : Nat := 0
  /-- blocking waiters, first come first served, at most 64; 11_buffer_pools.md R340; reset none -/
  waiters : List Waiter := []
  /-- draining after EN was cleared with DRAIN_MODE 0; 11_buffer_pools.md R345; reset 0 -/
  draining : Bool := false
  /-- a reclaim scan: the agent scanned, its job, and the count so far; 11_buffer_pools.md R344; reset none -/
  scan : Option (Nat × Option JobRef × Nat) := none
  deriving DecidableEq, Repr

/-- One coded CTU row of an encode job (R149, R151). -/
structure RowDone where
  job : Nat := 0
  row : Nat := 0
  qp : Nat := 0
  bytes : Nat := 0
  endgame : Bool := false
  /-- sum of the CTUs' activities, and how many -/
  act : Nat := 0
  ctus : Nat := 0
  /-- sum of the coded units' QPs -/
  qpSum : Nat := 0
  /-- start QP the row's job began from (R142, R143) -/
  start : Nat := 0
  /-- units recoded at the floor by the unit guard, blocks and units that poison took from prediction (R150, R85, R134) -/
  floors : Nat := 0
  poison : Nat := 0
  /-- what was coded, the SAO modes, and what motion search found, for the rows after it and for a retry (R81, R107, R115) -/
  units : List UnitSyntax := []
  sao : List SaoMode := []
  search : List Found := []
  deriving DecidableEq, Repr

/-- A reference picture of an encode session (R105, R106, R158): its buffer, its capture time, its picture count, the right edge of its clean region in luma samples (none when all of it is clean), the seed of its samples, and the counts of its own references. -/
structure RefPic where
  handle : W32 := 0
  time : PtpTime := {}
  poc : Nat := 0
  clean : Option Nat := none
  seed : Nat := 0
  list : List Nat := []
  deriving DecidableEq, Repr

/-- A motion field that an inheriting rung holds for a picture (R122, R125): source and capture time, the buffer (0 where none could be had), and the rung that writes it with its codec and size. -/
structure MotionRef where
  src : W32 := 0
  capture : PtpTime := {}
  buf : W32 := 0
  by_ : Nat := 0
  codec : Nat := 0
  w : Nat := 0
  h : Nat := 0
  /-- CTU rows of it that are written -/
  rows : List Nat := []
  deriving DecidableEq, Repr

/-- Stages of a slice job. -/
inductive JobPhase
  | waiting | ready | running | paused | done | ended
  deriving DecidableEq, Repr

/-- A slice job or tile-column group of an encode picture (R81, R148, R152). -/
structure EncJob where
  idx : Nat := 0
  firstRow : Nat := 0
  rows : Nat := 1
  /-- units in a row of the job, and its columns' first unit -/
  units : Nat := 0
  firstUnit : Nat := 0
  hedge : Nat := 0
  /-- the core that must code it (pinned), or none when pooled (R76) -/
  pin : Option Nat := none
  phase : JobPhase := .waiting
  core : Option Nat := none
  /-- deadline in ns of UPTIME_US, none until it is known (R82, R155, R156) -/
  deadline : Option Nat := none
  /-- the snapshot: allowance A, spent, committed, highest completed row QP, latest completed row, rows no job had started (R148, R149, R152) -/
  taken : Bool := false
  allowance : Nat := 0
  snapSpent : Nat := 0
  snapCommitted : Nat := 0
  snapQp : Option Nat := none
  snapLatest : Option RowDone := none
  snapRest : List (Nat × Nat) := []
  /-- rows of the previous picture completed at the snapshot, and an open figure for an estimate that nothing supplies (R149) -/
  snapPrev : List RowDone := []
  snapOpen : Nat := 0
  /-- start QP and mean activity that a job of a first picture measures over its own first row (R143) -/
  startQp : Option Nat := none
  mean : Option (Nat × Nat) := none
  /-- rows coded, oldest first, and the rows of an attempt that a promotion ended (R81, R152) -/
  done : List RowDone := []
  past : List RowDone := []
  /-- version of the personality that coded the first attempt (R401) -/
  version : Option W32 := none
  /-- the consumer has acted on its slice, and what it made has left (R164, R272) -/
  out : Bool := false
  sent : Bool := false
  /-- rows whose halo availability is recorded (R479) -/
  halos : List Nat := []
  /-- rows that code without their covering records, or with poisoned ones (R124, R137, R138) -/
  noInherit : List Nat := []
  /-- analysing rows whose records it goes without (R124) -/
  lost : List Nat := []
  /-- sizes of the entropy substreams whose entry points its slice header carries (R110) -/
  entries : List Nat := []
  retried : Bool := false
  late : Bool := false
  deriving DecidableEq, Repr

/-- An encode picture in flight (R142 to R151, R267, R268). -/
structure EncPic where
  idx : Nat := 0
  /-- names the picture's coded bytes (R81) -/
  seed : Nat := 0
  src : W32 := 0
  capture : PtpTime := {}
  /-- jobs whose records this picture's record answers (R272) -/
  jobRefs : List JobRef := []
  started : Bool := false
  key : Bool := false
  floorPic : Bool := false
  noRecon : Bool := false
  shed : Bool := false
  keyDeferred : Bool := false
  rcRefused : Bool := false
  sceneCut : Bool := false
  forceKey : Bool := false
  /-- ended by a hedge disable, so that the record carries ABORTED (R93) -/
  aborted : Bool := false
  rateUpdate : Option (List Byte) := none
  releaseSrc : Bool := false
  /-- fixed at the start: budget, non-coded bytes, start QP, mean activity as sum and count (R142, R144) -/
  budget : Nat := 0
  overhead : Nat := 0
  startQp : Nat := 0
  mean : Nat × Nat := (0, 0)
  /-- completed bytes: spent of R148 -/
  spent : Nat := 0
  jobs : List EncJob := []
  latest : Option RowDone := none
  ended : Bool := false
  recon : W32 := 0
  motion : W32 := 0
  sweep : Option Nat := none
  /-- pictures in its sweep (R157) -/
  sweepLen : Nat := 0
  /-- what the prepass recorded, in raster order of 16 x 16 blocks (R120) -/
  prepass : Option (List PreCost) := none
  /-- picture periods it has waited for its turn (R121) -/
  age : Nat := 0
  /-- its references, nearest first (R105) -/
  refs : List RefPic := []
  /-- the rate block in force for it (R154), its signalled signalling, and whether parameter sets go with it (R131) -/
  rate : List Byte := []
  syn : PicSyntax := {}
  params : Bool := false
  /-- slices lost to overrun, slices dropped by a ring (R165) -/
  sqOverrun : Nat := 0
  dropped : Nat := 0
  /-- UPTIME_US at which the blocking allocation of the reconstruction buffer began, and us spent in it (R106, R268) -/
  waiting : Option W32 := none
  waitUs : Nat := 0
  /-- UPTIME_US, in ns, at which the last of its jobs became ready (R84) -/
  readyAt : Option Nat := none
  deriving DecidableEq, Repr

/-- The motion vector of a 16 x 16 block, by the block's left column and top line, and the picture distance to what it points at (R107, R187). -/
structure VecAt where
  x : Nat := 0
  y : Nat := 0
  mv : Mv := {}
  dist : Int := 0
  deriving DecidableEq, Repr

/-- A decoded picture that a session keeps: number, reference buffer, size, picture order count, and the vectors of its motion field with their distances (R176, R187, R193). -/
structure DpbPic where
  idx : Nat := 0
  handle : W32 := 0
  w : Nat := 0
  h : Nat := 0
  poc : Int := 0
  vecs : List VecAt := []
  deriving DecidableEq, Repr

/-- A decode job (R81, R178): its tile column, its coding units in raster order within it, what its slice holds, and how far it is. -/
structure DecJob where
  idx : Nat := 0
  tile : Nat := 0
  first : Nat := 0
  count : Nat := 0
  info : Option SliceInfo := none
  /-- a concealment job (R186) -/
  conceal : Bool := false
  /-- the correct blocks whose vectors a concealment job uses (R187, R199) -/
  vecs : List VecAt := []
  /-- its row that holds an error, with the error's code (R183, R184) -/
  stop : Option (Nat × Nat) := none
  phase : JobPhase := .ready
  core : Option Nat := none
  hedge : Nat := 0
  deadline : Nat := 0
  /-- rows completed -/
  done : Nat := 0
  /-- buffer of its unit, and the unit's address where it lies in HBM -/
  src : W32 := 0
  base : Option Nat := none
  retried : Bool := false
  version : Option W32 := none
  deriving DecidableEq, Repr

/-- A run of units handed to a decode session and not yet parsed to its end (R174, R258). -/
structure DecUnit where
  job : Option JobRef := none
  handle : W32 := 0
  release : Bool := false
  /-- it closes its picture: LAST, or the marker (R185) -/
  closes : Bool := false
  crcBad : Bool := false
  /-- its address in HBM under HOST binding -/
  addr : Option Nat := none
  /-- it is a loss mark passed in a unit's place (R183) -/
  loss : Bool := false
  capture : Option PtpTime := none
  /-- the unit's bytes under FLOW binding -/
  bytes : List Byte := []
  deriving DecidableEq, Repr

/-- A picture being received or decoded (R176 to R200). -/
structure DecPic where
  idx : Nat := 0
  seed : Nat := 0
  width : Nat := 0
  height : Nat := 0
  chroma : Nat := 0
  depth : Nat := 0
  /-- the cropped output: left, top, width, height -/
  crop : Nat × Nat × Nat × Nat := (0, 0, 0, 0)
  poc : Int := 0
  /-- size of a coding unit, and widths of the tile columns in coding units -/
  cell : Nat := 0
  tiles : List Nat := []
  capture : PtpTime := {}
  /-- the job whose record is the picture's (LAST); jobs of other units: number of decode jobs they wait for, buffer, release -/
  job : Option JobRef := none
  unitJobs : List (JobRef × Nat) := []
  /-- buffers to release when their units are consumed, likewise -/
  unitRefs : List (W32 × Nat) := []
  recon : W32 := 0
  out : W32 := 0
  /-- an output buffer has been asked for; the standard outputs the picture (R181) -/
  outTried : Bool := false
  due : Bool := false
  /-- UPTIME_US at which the blocking allocation of its reference buffer began (R176) -/
  waiting : Option W32 := none
  /-- list 0 of its first slice that has one (R188), and the vectors of its correct blocks (R187) -/
  list0 : List Nat := []
  vecs : List VecAt := []
  /-- each coding unit, in raster order: 0 missing, 1 received, 2 decoded, 3 concealed, 5 being concealed -/
  cells : List Nat := []
  /-- of each coding unit: filtering is enabled across its top (1), left (2), bottom (4), right (8) edge; the one above (16), to its left (32) is of the same job (R179) -/
  edges : List Nat := []
  /-- coding units whose output copy is concealed at its deadline (R190) -/
  late : List Nat := []
  /-- concealment maps, one code per 64 x 64 block (R195): reference copy and output copy -/
  refMap : List Nat := []
  outMap : List Nat := []
  closed : Bool := false
  published : Bool := false
  /-- not to be output: before recovery with RECOVERY_OUT = 1 (R198) -/
  hold : Bool := false
  noBuffer : Bool := false
  key : Bool := false
  recovers : Bool := false
  hashBad : Bool := false
  firstErr : Nat := 0
  lossMarks : Nat := 0
  lostSlices : Nat := 0
  lostPics : Nat := 0
  corrupt : Nat := 0
  substRefs : Nat := 0
  lateRows : Nat := 0
  lateSlices : Nat := 0
  lateJobs : Nat := 0
  jobs : List DecJob := []
  /-- the bitstream has taken it out of the DPB -/
  unref : Bool := false
  deriving DecidableEq, Repr

inductive SessPhase
  | closed | opened | closing
  deriving DecidableEq, Repr

/-- A session (R64 to R101, R244 to R260). -/
structure Sess where
  /-- closed, open or closing; 03_codec_cores_sessions.md R75, R98; reset closed -/
  phase : SessPhase := .closed
  /-- owning function; 08_job_formats.md R244; reset 0 -/
  fn : Nat := 0
  /-- the 256-byte descriptor in force; 08_job_formats.md R249; reset none -/
  desc : List Byte := []
  /-- the close's job; 08_job_formats.md R272; reset none -/
  closeJob : Option JobRef := none
  /-- core count n; 03_codec_cores_sessions.md R78; reset 0 -/
  n : Nat := 0
  /-- pinned shares: core and units; 03_codec_cores_sessions.md R76; reset none -/
  shares : List (Nat × Nat) := []
  /-- pooled parts of the encode work: hedge, units, width in luma samples; 03_codec_cores_sessions.md R76; reset none -/
  parts : List (Nat × Nat × Nat) := []
  /-- pooled parts of the decode work; 03_codec_cores_sessions.md R74, R76; reset none -/
  decParts : List (Nat × Nat × Nat) := []
  /-- analysing rung of its ladder; 03_codec_cores_sessions.md R73, R100; reset 0 -/
  analysing : Bool := false
  /-- pictures in flight, oldest first; reset none -/
  pics : List EncPic := []
  /-- pictures started and completed, bytes in all; 08_job_formats.md R268, R270; reset 0 -/
  picCount : Nat := 0
  picsDone : Nat := 0
  totalBytes : Nat := 0
  /-- sizes of up to 120 earlier pictures, newest first; 05_rate_control_latency.md R154; reset none -/
  sizes : List Nat := []
  /-- pictures coded under the present window setting; 05_rate_control_latency.md R154; reset 0 -/
  windowCount : Nat := 0
  /-- CPB fullness F in units of one byte over RATE_NUM; 05_rate_control_latency.md R144; reset S at open -/
  cpb : Nat := 0
  /-- carry picture: its carry, its activity as sum and count; 05_rate_control_latency.md R142; reset none -/
  carry : Option (Nat × Nat × Nat) := none
  /-- rows of the previous picture, for est(QP); 05_rate_control_latency.md R149; reset none -/
  prevRows : List RowDone := []
  /-- reference pictures held, newest first; 04_encoding.md R105, R106; reset none -/
  refs : List RefPic := []
  /-- pictures since the last key picture, a key picture owed, a FORCE_KEY owed; 04_encoding.md R108; reset 0 -/
  sinceKey : Nat := 0
  keyDue : Bool := false
  forceKey : Bool := false
  /-- index of the next picture in its refresh sweep; 05_rate_control_latency.md R157; reset 0 -/
  sweep : Nat := 0
  /-- rate update that applies to the next bound picture; 08_job_formats.md R257; reset none -/
  pendingRate : Option (List Byte) := none
  /-- jobs that address the next picture of a bound session; 08_job_formats.md R257, R272; reset none -/
  pendingJobs : List JobRef := []
  /-- a refused rate update to report with the next picture; 05_rate_control_latency.md R154; reset 0 -/
  pendingRefused : Bool := false
  /-- motion fields of the ladder's analysing rung that this rung holds; 04_encoding.md R122, R125, R138; reset none -/
  motions : List MotionRef := []
  /-- capture time of the picture started last; 04_encoding.md R124; reset none -/
  lastCapture : Option PtpTime := none
  /-- a picture has been coded; 04_encoding.md R104, R106; reset 0 -/
  keyed : Bool := false
  /-- pictures in the refresh sweep that runs; 05_rate_control_latency.md R154, R157; reset 0 -/
  sweepLen : Nat := 0
  /-- size and format of the source read at open: width, height, format; 08_job_formats.md R249; reset 0 -/
  srcGeom : Nat × Nat × Nat := (0, 0, 0)
  /-- overload ended since the previous record; 08_job_formats.md R267; reset 0 -/
  overloadEnd : Bool := false
  /-- decode: pictures being received, oldest first; reset none -/
  dec : List DecPic := []
  /-- decode: reference pictures held, newest first; 06_decoding_concealment.md R176; reset none -/
  dpb : List DpbPic := []
  /-- decode: the substitute source; 06_decoding_concealment.md R193; reset none -/
  substitute : Option DpbPic := none
  /-- decode: start point seen, recovered; 06_decoding_concealment.md R197, R198; reset 0 -/
  started : Bool := false
  recovered : Bool := false
  /-- decode: units discarded, parameter sets ignored; 08_job_formats.md R269; reset 0 -/
  discarded : Nat := 0
  paramIgnored : Nat := 0
  /-- decode: units of closed pictures that came with no picture open; 06_decoding_concealment.md R201; reset 0 -/
  lateUnits : Nat := 0
  /-- decode: runs of units handed over and not yet parsed to their ends; 06_decoding_concealment.md R174; reset none -/
  units : List DecUnit := []
  /-- decode: pictures opened and pictures closed since the open, loss marks with no picture open; 08_job_formats.md R269; reset 0 -/
  decCount : Nat := 0
  decClosed : Nat := 0
  lossMarks : Nat := 0
  /-- decode: newest published picture not yet latched, with its width, height and bit depth; 08_job_formats.md R253; reset none -/
  published : Option (W32 × Nat × Nat × Nat) := none
  deriving DecidableEq, Repr

/-- A codec core beside its registers and its sequencer (R64, R161). -/
structure Core where
  /-- the running slice job: session, picture, job (a decode job's index stands above 65536); 03_codec_cores_sessions.md R82; reset none -/
  job : Option (Nat × Nat × Nat) := none
  /-- a SLICE job on whose strips motion search has begun; 05_rate_control_latency.md R155; reset none -/
  strip : Option (Nat × Nat × Nat) := none
  /-- slice queue banks, producer's and consumer's, oldest word first; 05_rate_control_latency.md R161; reset empty -/
  prod : List SqWord := []
  cons : List SqWord := []
  /-- credits of the producer, 0 to 1024; 05_rate_control_latency.md R163; reset 1024 -/
  credits : Nat := 1024
  /-- whole slices written and not yet consumed; 05_rate_control_latency.md R163; reset 0 -/
  slices : Nat := 0
  /-- discarding the current slice after overrun; 05_rate_control_latency.md R165; reset 0 -/
  overrun : Bool := false
  /-- staged words of the consumer for the slice in progress; 05_rate_control_latency.md R164; reset none -/
  staged : List SqWord := []
  /-- stages running, 8 bits; 13_microcode.md R385; reset 0 -/
  stages : BitVec 8 := 0
  /-- slice-queue word buffer, 8 lanes; 13_microcode.md R389; reset 0 -/
  wordBuf : Tab W32 := []
  /-- the slice the consumer has begun and not ended: its tag word; 05_rate_control_latency.md R164; reset none -/
  cur : Option (List Byte) := none
  /-- the producer's current slice has its tag word in the queue; 05_rate_control_latency.md R165; reset 0 -/
  tagIn : Bool := false
  /-- bytes of the current slice that do not yet fill a word; 05_rate_control_latency.md R161; reset none -/
  pack : List Byte := []
  /-- bitstream bytes of the current slice; R162; reset 0 -/
  sliceBytes : Nat := 0
  /-- trailers owed for slices lost to overrun; R165; reset none -/
  owed : List SqWord := []
  /-- bitstream being written, and bits and position of the reader; 13_microcode.md R389; reset none -/
  bitsOut : List Bool := []
  bitsIn : List Bool := []
  /-- latest self-test of the slot: PASS, ended after the slot last became FAILED; 03_codec_cores_sessions.md R88; reset none -/
  test : Option Bool := none
  deriving DecidableEq, Repr

/-- A promotion in progress (R86). -/
structure Promo where
  failed : Nat := 0
  spare : Option Nat := none
  job : Option (Nat × Nat × Nat) := none
  repliesDone : Bool := false
  /-- UPTIME_US at the fault (R93 HDG_LASTPROMO) -/
  startUs : W32 := 0
  deriving DecidableEq, Repr

/-- A hedge beside its registers (R76 to R101). -/
structure Hedge where
  /-- promotion in progress; 03_codec_cores_sessions.md R86; reset none -/
  promo : Option Promo := none
  /-- further core faults that wait for step 7, each with whether its core is replaced; 03_codec_cores_sessions.md R95, 17_faults_recovery.md R525; reset none -/
  faults : List (Nat × Bool) := []
  /-- writes that wait for step 7: register offset and value; 03_codec_cores_sessions.md R99; reset none -/
  deferred : List (Nat × W32) := []
  /-- host promotion asked for, waiting for the core's idle point; 03_codec_cores_sessions.md R89; reset none -/
  hostPromote : Option Nat := none
  /-- self-test running on a slot; 03_codec_cores_sessions.md R88; reset none -/
  bist : Option Nat := none
  /-- overload condition; 03_codec_cores_sessions.md R83; reset 0 -/
  overload : Bool := false
  deriving DecidableEq, Repr

/-- A control-store bank (R382). -/
structure Bank where
  /-- 0 EMPTY, 1 LOADING, 2 VALID; 13_microcode.md R382; reset EMPTY -/
  st : Nat := 0
  /-- 0 ROM, 1 STORE, 2 HOST, 3 WINDOW; 13_microcode.md R382; reset 0 -/
  source : Nat := 0
  pers : Nat := 0
  seqType : Nat := 0
  version : W32 := 0
  entry : Nat := 0
  /-- words written; the others read as the ROM image or as HALT; 13_microcode.md R381, R404 -/
  words : Tab (Option W128) := []
  /-- the whole image, of one that a LOAD or LOAD_SWAP put into a hedge or management sequencer; 13_microcode.md R400; reset none -/
  image : List Byte := []
  deriving DecidableEq, Repr

/-- A sequencer (R379 to R399). -/
structure Seqr where
  /-- RUN: 0 HALTED, 1 RUNNING, 2 IDLE, 3 FAULTED, 4 GATED; 13_microcode.md R407; reset 4 -/
  run : Nat := 4
  bankA : Bank := {}
  bankB : Bank := {}
  activeB : Bool := false
  pc : Nat := 0
  /-- phase of the word at pc: 0 start, 1 ALU done, 2 unit operation done, 3 committed; 13_microcode.md R386 -/
  phase : Nat := 0
  /-- G0-G63, 32 bits each; 13_microcode.md R387; reset 0 -/
  g : Tab W32 := []
  /-- LC0-LC31, 16 bits each; 13_microcode.md R387; reset 0 -/
  lc : Tab (BitVec 16) := []
  z : Bool := false
  n : Bool := false
  c : Bool := false
  v : Bool := false
  /-- result of the word's ALU, its flags and its write of a loop counter, until the word ends; 13_microcode.md R386 -/
  x : W32 := 0
  newFlags : Option (Bool × Bool × Bool × Bool) := none
  lcWrite : Option (BitVec 16) := none
  dstWrite : Option W32 := none
  /-- micro-stack, newest first, at most 8; 13_microcode.md R390; reset empty -/
  stack : List Nat := []
  /-- 16 event latches and enables; 13_microcode.md R391; reset 0 -/
  pend : BitVec 16 := 0
  enable : BitVec 16 := 0
  lastEvent : Nat := 0
  inEvent : Bool := false
  era : Nat := 0
  depthE : Nat := 0
  /-- a YIELD word has just completed; 13_microcode.md R392 -/
  yielded : Bool := false
  /-- shadow writes since the last commit and writes set aside by an event; 13_microcode.md R394, R395; reset none -/
  shadow : Tab (Option W32) := []
  aside : Tab (Option W32) := []
  /-- data of the last bus or register read; conditions 11, 12, 15, 10; 13_microcode.md R385, R387 -/
  busData : W32 := 0
  /-- a remote bus request of the present word is outstanding; 13_microcode.md R389, 15_tolac_fabric_espalier.md R469; reset 0 -/
  busWait : Bool := false
  busAbort : Bool := false
  busPoison : Bool := false
  regRefused : Bool := false
  /-- refusal by the present word, its condition as at its start, and UNIT_OP and UNIT_ARG of the word before; 13_microcode.md R385, R386 -/
  newRefused : Bool := false
  cond : Bool := false
  lastUnit : Nat × Nat := (0, 0)
  /-- work queue of opcodes, oldest first; 13_microcode.md R384; reset empty -/
  work : List Byte := []
  /-- watchdog count in cycles; 13_microcode.md R396; reset 0 -/
  wdog : Nat := 0
  /-- timer cycles armed, 0 = off; 13_microcode.md R389; reset 0 -/
  timer : Nat := 0
  /-- a swap is requested, with the entry a CSW_SWAP gave; 13_microcode.md R399, R408; reset none -/
  swapReq : Option (Option Nat) := none
  /-- the LOAD_SWAP job whose record waits for its swap, with the record's body; 08_job_formats.md R262, R272; reset none -/
  swapJob : Option (JobRef × List (Nat × List Byte)) := none
  faultCause : Nat := 0
  faultCount : Nat := 0
  faultValid : Bool := false
  deriving DecidableEq, Repr

/-- A pending flip group (R222, R227). -/
structure Group where
  /-- pending, 1 bit; 07_composer.md R222; reset 0 -/
  pending : Bool := false
  /-- the FLIP job that armed it; 08_job_formats.md R261; reset none -/
  job : Option JobRef := none
  deriving DecidableEq, Repr

/-- What a live layer shows: latched buffer and whether the pipe still holds its reference (R210, R211). -/
structure Shown where
  handle : W32 := 0
  held : Bool := false
  /-- width, height and bit depth of a decoded picture (R210) -/
  geom : Option (Nat × Nat × Nat) := none
  deriving DecidableEq, Repr

/-- A composer pipe beside its registers (R205 to R243). -/
structure Pipe where
  /-- live copy of CMP_CANVAS, CMP_OUT, CMP_BG and of the layers, by page offset; 07_composer.md R221; reset 0 -/
  live : Tab W32 := []
  /-- pending and live tables by TABLE x 8192 + dword; 07_composer.md R221, R235; reset R213, R217, R219 -/
  tabPend : Tab W32 := []
  tabLive : Tab W32 := []
  /-- the four flip groups; 07_composer.md R222; reset idle -/
  groups : Tab Group := []
  /-- sources shown by the live layers; 07_composer.md R211; reset none -/
  shown : Tab Shown := []
  /-- picture in progress: output handle (0 = none), next line, time of the flip point; 07_composer.md R207; reset none -/
  picture : Option (W32 × Nat × PtpTime) := none
  /-- Cb and Cr of the two canvas lines written last, newest first, for chroma decimation; 07_composer.md R220; reset none -/
  hist : List (List (Nat × Nat)) := []
  /-- a trip has refused new dispatch; 18_module_power.md R563; reset 0 -/
  tripped : Bool := false
  deriving DecidableEq, Repr

/-- A request to HBM that a full training holds (R357): agent, address, length; of a write its bytes and poison. -/
structure HbmHeld where
  agent : Nat := 0
  addr : Nat := 0
  len : Nat := 0
  write : Bool := false
  bytes : List Byte := []
  poison : Bool := false
  deriving DecidableEq, Repr

/-- Training and repair state of an HBM stack (R353 to R367). -/
structure Stack where
  /-- temperature in whole degrees, signed; 12_hbm_memory.md R356; reset 0 (DESIGN CHOICE) -/
  temp : Int := 0
  /-- a tracking retrain is due from drift; 12_hbm_memory.md R356; reset 0 -/
  driftDue : Bool := false
  /-- queued HARD repairs (local addresses), at most 4; 12_hbm_memory.md R367; reset none -/
  hard : List Nat := []
  /-- rows repaired for good, and rows under a SOFT repair, each using a spare row; 12_hbm_memory.md R367; reset none -/
  repaired : List Nat := []
  soft : List Nat := []
  /-- stack in self-refresh, 1 bit; 12_hbm_memory.md R355, R363; reset 0 -/
  selfRefresh : Bool := false
  /-- byte lanes with a bit mapped onto their channel's spare data lane; 12_hbm_memory.md R354; reset none -/
  spareLanes : List Nat := []
  /-- scrub position in sectors; 12_hbm_memory.md R366; reset 0 -/
  scrubPos : Nat := 0
  /-- requests held by a full training, oldest first; 12_hbm_memory.md R357; reset none -/
  waiting : List HbmHeld := []
  deriving DecidableEq, Repr

/-- A request of a pseudo-channel's queue (R358, R360). -/
structure HbmReq where
  write : Bool := false
  addr : Nat := 0
  bank : Nat := 0
  row : Nat := 0
  age : Nat := 0
  deriving DecidableEq, Repr

/-- One pseudo-channel's scheduling state (R358 to R361). -/
structure Pch where
  /-- requests, oldest first; 12_hbm_memory.md R358; reset none -/
  queue : List HbmReq := []
  /-- open row of each bank plus one, 0 closed; 12_hbm_memory.md R361; reset closed -/
  openRow : Tab Nat := []
  /-- banks in in-order mode with the writes still pending at entry; 12_hbm_memory.md R360; reset none -/
  inOrder : Tab Nat := []
  deriving DecidableEq, Repr

/-- A picture open in a receive flow (R431). -/
structure RxPic where
  ts : W32 := 0
  handle : W32 := 0
  dropped : Bool := false
  /-- bytes written of each line, as covered byte positions and lengths; 14_network_media.md R432 -/
  cover : Tab (List (Nat × Nat)) := []
  repaired : List Nat := []
  marker : Option Nat := none
  /-- lowest and highest sequence number used in it, and the first row and byte of each; R429, R432 -/
  first : Nat := 0
  top : Nat := 0
  pos : Tab (Nat × Nat) := []
  deriving DecidableEq, Repr

/-- A sequence number used (R429): its path and the arrival by UPTIME_US, for RXC_SKEW. -/
structure RxUsed where
  num : Nat := 0
  pathB : Bool := false
  us : W32 := 0
  deriving DecidableEq, Repr

/-- A packet of a bitstream flow staged in a buffer until its turn (R433). -/
structure RxStaged where
  num : Nat := 0
  ts : W32 := 0
  marker : Bool := false
  handle : W32 := 0
  payload : List Byte := []
  deriving DecidableEq, Repr

/-- A receive flow beside its registers (R428 to R433). -/
structure RxFlow where
  /-- highest sequence number seen plus one, 0 = none; 14_network_media.md R429; reset 0 -/
  next : Nat := 0
  /-- missing sequence numbers awaiting their deadlines, oldest first; 14_network_media.md R429; reset none -/
  missing : List Nat := []
  /-- numbers used whose pictures have not closed; 14_network_media.md R429; reset none -/
  used : List RxUsed := []
  /-- numbers below this belong to closed pictures; 14_network_media.md R429; reset 0 -/
  closed : Nat := 0
  /-- pictures open, oldest first, at most 4; 14_network_media.md R431; reset none -/
  pics : List RxPic := []
  /-- pictures started and not latched, newest first; 07_composer.md R210, 14_network_media.md R431; reset none -/
  started : List W32 := []
  /-- bitstream flow: packets staged, in sequence order, the next number to pass, the unit in reassembly, and fragments dropped until the next unit; 14_network_media.md R433; reset none -/
  staged : List RxStaged := []
  expect : Nat := 0
  unit : Option (List Byte) := none
  skipping : Bool := false
  /-- the current RTP timestamp of a bitstream flow, and whether its marker came; R433 -/
  ts : W32 := 0
  marked : Bool := true
  /-- draining after EN was cleared with DRAIN_MODE 0; R428; reset 0 -/
  draining : Bool := false
  deriving DecidableEq, Repr

/-- A slice handed to an ST 2110-22 transmit flow (R164, R437): its bytes, the words that carry poison, and the picture it belongs to. -/
structure TxUnit where
  sess : Nat := 0
  pic : Nat := 0
  job : Nat := 0
  bytes : List Byte := []
  /-- data words that read poisoned on path 0 and on path 1 -/
  bad : List Nat := []
  badB : List Nat := []
  capture : PtpTime := {}
  last : Bool := false
  /-- it begins a key picture -/
  newSeq : Bool := false
  deriving DecidableEq, Repr

/-- A picture handed to an ST 2110-20 transmit flow (R435, R436): buffer, producer, size, format and sample depth, the next packet, packets in all. -/
structure TxPic where
  handle : W32 := 0
  agent : Nat := 0
  width : Nat := 0
  height : Nat := 0
  fmt : Nat := 0
  chroma : Nat := 0
  depth : Nat := 0
  /-- the producer's colour encoding is R'G'B' -/
  rgb : Bool := false
  capture : PtpTime := {}
  next : Nat := 0
  deriving DecidableEq, Repr

/-- A transmit flow beside its registers (R434 to R438). -/
structure TxFlow where
  /-- bound producer: agent ID, none = unbound; 14_network_media.md R434; reset none -/
  bound : Option Nat := none
  /-- pictures a producer has ready to hand over, and pictures being sent, oldest first; 14_network_media.md R435; reset none -/
  offers : List TxPic := []
  pics : List TxPic := []
  /-- the next packet is past its due time and waits for its line; R435 -/
  late : Bool := false
  /-- slices to send, oldest first, and packets of the oldest already sent; R437 -/
  units : List TxUnit := []
  off : Nat := 0
  draining : Bool := false
  deriving DecidableEq, Repr

/-- A host frame waiting to be sent (R419). -/
structure HtxEntry where
  handle : W32 := 0
  len : Nat := 0
  oneStep : Bool := false
  tsOffset : Nat := 0
  deriving DecidableEq, Repr

/-- The media time counter (R423, R424). -/
structure Mtc where
  /-- 48-bit seconds and 32-bit nanoseconds; 14_network_media.md R423; reset 0 -/
  time : PtpTime := {}
  /-- fraction of a nanosecond carried, units of 2^-4 x 10^-9; 14_network_media.md R423; reset 0 -/
  frac : Int := 0
  /-- amount of a slew still to apply in ns, and whether one runs; 14_network_media.md R423; reset 0 -/
  slew : Int := 0
  deriving DecidableEq, Repr

/-- A Tolac port's link beside its registers (R456 to R461). -/
structure Port where
  /-- training in progress; 15_tolac_fabric_espalier.md R456; reset 0 -/
  training : Bool := false
  /-- packets queued per virtual channel; 15_tolac_fabric_espalier.md R461; reset none -/
  queue : List (FabHeader × List Byte) := []
  /-- flits in the replay buffer, at most 512, and the link sequence number of the oldest; R457; reset 0 -/
  replay : Nat := 0
  oldest : Nat := 0
  /-- failed replays in a row of the oldest flit; R457; reset 0 -/
  naks : Nat := 0
  /-- primary down, return timer running; R465; reset 0 -/
  returning : Bool := false
  /-- the latest of MEM and BULK sent was BULK: MEM goes next; R461; reset 0 -/
  bulkLast : Bool := false
  /-- credits the partner advertised per virtual channel; R461; reset 0 -/
  credits : List Nat := []
  deriving DecidableEq, Repr

/-- What an ESP_PART carries beside its bytes (R478): group, member, picture, tile-column group of the member, and whether the group ends with it. -/
structure PartId where
  group : Nat := 0
  member : Nat := 0
  time : PtpTime := {}
  tile : Nat := 0
  last : Bool := false
  deriving DecidableEq, Repr

/-- A packet that arrived out of order and is held (R466), with its arrival port. -/
structure FabHeld where
  port : Nat := 0
  h : FabHeader
  payload : List Byte := []
  part : Option PartId := none
  deriving DecidableEq, Repr

/-- End-to-end sender and receiver state of one (node, virtual channel) (R466, R467). -/
structure E2e where
  /-- next sequence number to send; 15_tolac_fabric_espalier.md R466; reset 0 -/
  nextSeq : Nat := 0
  /-- unacknowledged packets, oldest first, each with its retransmissions; R466, R467; reset none -/
  store : List (FabHeader × List Byte × Nat) := []
  /-- packets that wait for room in the retransmit store; R466 -/
  waiting : List (FabHeader × List Byte) := []
  /-- the next packet sent carries SYNC; R467; reset 0 -/
  sync : Bool := false
  /-- receiver: next sequence number expected, packets held out of order, deliveries not yet acknowledged; R466 -/
  expect : Nat := 0
  heldBack : List FabHeld := []
  unacked : Nat := 0
  /-- this destination still routes by its alternate; R465, R488 -/
  onAlt : Bool := false
  deriving DecidableEq, Repr

/-- What waits for the answer to a remote request (R466, R469): a sequencer's word, a descriptor, or a direct channel, with the offset of the bytes. -/
inductive Requester
  | seq (q : Nat)
  | desc (ring index off : Nat)
  | chan (c off : Nat)
  deriving DecidableEq, Repr

/-- A request outstanding in the fabric (R466, R469). -/
structure Remote where
  tag : W32 := 0
  req : Requester := .seq 0
  len : Nat := 0
  node : Nat := 0
  vc : Nat := 0
  write : Bool := false
  deriving DecidableEq, Repr

/-- A part that an anchor holds (R478): the job of its tile-column group at the anchor, and whether it is whole. -/
structure EspPart where
  member : Nat := 0
  time : PtpTime := {}
  job : Nat := 0
  whole : Bool := false
  bytes : List Byte := []
  deriving DecidableEq, Repr

/-- An espalier group's running state (R472 to R480). -/
structure Esp where
  startTime : Option PtpTime := none
  allowances : List (PtpTime × List Nat) := []
  /-- halo and strip rows received: member, strip, row, time; R476 -/
  rows : List (Nat × Bool × Nat × PtpTime) := []
  /-- capture times of the references, newest first; R477 -/
  refs : List PtpTime := []
  /-- parts received and not yet emitted; and members that left; R478, R480 -/
  parts : List EspPart := []
  /-- bytes of each tile-column group of the previous picture, by member x 64 + group; R475 -/
  sizes : Tab Nat := []
  left : List Nat := []
  substituted : List (Nat × PtpTime) := []
  deriving DecidableEq, Repr

/-- The clock states (R499), and no power. -/
inductive ClockState
  | off | start | onA | onB | hold | clockLost
  deriving DecidableEq, Repr

/-- Clocks beside CKG (R494 to R503). -/
structure Clock where
  /-- clock state; 16_clocks_startup.md R499; reset off (unpowered) -/
  st : ClockState := .off
  /-- PLL_A enabled; 16_clocks_startup.md R494; reset 0 -/
  aEnabled : Bool := false
  /-- CKG events that occur in HOLD and are set at restart; 16_clocks_startup.md R513; reset 0 -/
  heldEvents : W32 := 0
  /-- a warm reset asked for in HOLD; 16_clocks_startup.md R519, R543; reset none -/
  heldReset : Option Nat := none
  deriving DecidableEq, Repr

/-- Power, pins and thermal state (R547 to R568). -/
structure Power where
  /-- rails on (power good); 18_module_power.md R555; reset 0 -/
  good : Bool := false
  /-- PWR_EN pin; 18_module_power.md R559; reset 1 (pulled up) -/
  pwrEn : Bool := true
  /-- VBULK above the lockout; 18_module_power.md R555; reset 0 -/
  bulk : Bool := false
  /-- front end off after a current trip; 18_module_power.md R557; reset 0 -/
  tripped : Bool := false
  /-- thermal shutdown latched; 18_module_power.md R564; reset 0 -/
  shutdown : Bool := false
  /-- feeds turned off by their ORing stage; 18_module_power.md R554; reset 0 -/
  feedAOff : Bool := false
  feedBOff : Bool := false
  /-- feeds below their alarm threshold; 18_module_power.md R555; reset 0 -/
  feedALow : Bool := false
  feedBLow : Bool := false
  /-- cause the next start-up records in RST_CAUSE; 16_clocks_startup.md R511; reset 0 -/
  cause : Nat := 0
  /-- PERST_N asserted; 16_clocks_startup.md R512; reset 1 -/
  perst : Bool := true
  /-- REFCLK present; 16_clocks_startup.md R494; reset 1 (DESIGN CHOICE: an outside input) -/
  refclk : Bool := true
  /-- FAULT_N pulse running, and LEVEL written during it; 17_faults_recovery.md R531; reset 0 -/
  pulse : Bool := false
  /-- junction readings and stack readings of the last poll, in sixteenths of a degree; 18_module_power.md R561; reset none -/
  junctions : List Int := []
  hbmTemps : List Int := []
  /-- thermal limit active; trip state; 18_module_power.md R562, R563; reset 0 -/
  limited : Bool := false
  trip : Bool := false
  deriving DecidableEq, Repr

/-- PCIe attachment beside DEV and configuration space of the functions. -/
structure Hif where
  /-- link up; 02_host_attachment.md R61; reset 0 -/
  linkUp : Bool := false
  /-- generation and width the partner supports, SRIS capable; 02_host_attachment.md R27, R29; reset 5, 16, 1 (DESIGN CHOICE: an outside input) -/
  partnerGen : Nat := 5
  partnerWidth : Nat := 16
  partnerSris : Bool := true
  /-- lanes that fail in training, by physical number, and whether the lanes are reversed; 02_host_attachment.md R28; reset none, 0 (DESIGN CHOICE: an outside input) -/
  badLanes : BitVec 16 := 0
  reversed : Bool := false
  /-- us until configuration space is ready; 02_host_attachment.md R30; reset 0 -/
  readyIn : Nat := 0
  /-- VF Enable, NumVFs, ARI; 02_host_attachment.md R33; reset 0 -/
  vfEnable : Bool := false
  numVFs : Nat := 0
  ari : Bool := false
  /-- log2 of the BAR2 size; 02_host_attachment.md R36; reset 30 -/
  bar2Log2 : Nat := 30
  /-- configuration of function k; reset as Func -/
  funcs : Tab Func := []
  /-- PTM dialogue running: MTC at the request; 02_host_attachment.md R47; reset none -/
  ptm : Option PtpTime := none
  /-- row of the LTR table in force as last sent; 02_host_attachment.md R44; reset no requirement -/
  ltr : Option W32 := none
  deriving DecidableEq, Repr

/-- What lies outside the module: the partner and the lanes between (R27 to R29). -/
def Hif.outside (h : Hif) : Hif :=
  { partnerGen := h.partnerGen, partnerWidth := h.partnerWidth, partnerSris := h.partnerSris, badLanes := h.badLanes, reversed := h.reversed }

/-- The image store (R400). -/
structure Store where
  /-- current and previous image of personality p: version and bytes, slot 2(p-1) and 2(p-1)+1; 13_microcode.md R400; reset empty -/
  slots : Tab (Option (W32 × List Byte)) := []
  /-- changeovers running: personality to the version being replaced; 13_microcode.md R401; reset none -/
  change : Tab (Option W32) := []
  /-- INSTALL jobs that wait for a changeover; 13_microcode.md R401; reset none -/
  waiting : List (JobRef × List Byte) := []
  deriving DecidableEq, Repr

/-- Why a command stops. No command of this block ends in a fault; the type is closed with one reason that a state of the model, not the hardware, can raise. -/
inductive Fault
  /-- raised by nothing the spec describes: kept so that the type is inhabited; safe -/
  | unreachable
  deriving DecidableEq, Repr

/-- Why the model gives a command no meaning. -/
inductive Refusal
  /-- raised by exec for a command whose meaning is not written yet; safe (the run stops) -/
  | notModelled (mnemonic : String)
  deriving DecidableEq, Repr

/-- The whole module. -/
structure State where
  /-- commands waiting, first in first out (the model's own); reset empty -/
  pending : List Instr := []
  /-- what the module has sent outward, oldest first (the model's own); reset empty -/
  outbox : List Output := []
  /-- number of the next free value to draw (the model's own); reset 0 (DESIGN CHOICE) -/
  fresh : Nat := 0
  /-- ordering variant; 00_scope.md R1, R2; reset 96E (DESIGN CHOICE: a fact of the part) -/
  variant : Variant := .e96
  /-- DEV_ID.REV, 8 bits; 02_host_attachment.md R54; reset 1 (DESIGN CHOICE: per die) -/
  rev : Byte := 1
  /-- SIGN_REQ fuse, 1 bit; 02_host_attachment.md R57; reset 0 (DESIGN CHOICE: a fuse) -/
  signReq : Bool := false
  /-- TEST_EN strap, 1 bit; 02_host_attachment.md R57; reset 0 (pull-down, R571) -/
  testEn : Bool := false
  /-- SA1, SA0 straps, 2 bits; 18_module_power.md R565; reset 0 (pull-down, R571) -/
  sa : BitVec 2 := 0
  /-- every register by PF BAR0 byte offset, 32 bits each; 19_register_index.md R578 and the block chapters; reset as listed below -/
  regs : Tab W32 := []
  /-- _HI values latched by a read of _LO; 02_host_attachment.md R53; reset none -/
  hiLatch : Tab (Option W32) := []
  /-- _LO values held until the _HI write; 02_host_attachment.md R53; reset none -/
  loHeld : Tab (Option W32) := []
  /-- HBM bytes by local address; 01_architecture.md R17; unlisted reads 0 (DESIGN CHOICE) -/
  hbm : Tab Byte := []
  /-- stacks whose contents an SR_MISSED has left undefined: the number from which their open bytes are drawn, 0 none; 12_hbm_memory.md R363; reset none -/
  memSeed : Tab Nat := []
  /-- poisoned 32-byte sectors by sector number; 12_hbm_memory.md R365; reset none -/
  poison : Tab Bool := []
  /-- host memory bytes by address; 08_job_formats.md R247; unlisted reads 0 (DESIGN CHOICE) -/
  host : Tab Byte := []
  hif : Hif := {}
  /-- RESET_BUSY of each page, 1 bit; 17_faults_recovery.md R533; reset 0 -/
  resetting : Tab Bool := []
  /-- a drain or abort of a page runs, 1 bit; 02_host_attachment.md R55; 09_rings_dma.md R301; reset 0 -/
  draining : Tab Bool := []
  /-- latches of the edge sources 96 to 131, 1 bit each by source; 10_interrupts.md R315; reset 0 -/
  edges : Tab Bool := []
  rings : Tab Ring := []
  chans : Tab (Option Chan) := []
  pools : Tab Pool := []
  /-- buffers by pool x 2^20 + index; 11_buffer_pools.md R332; reset free -/
  bufs : Tab Buf := []
  sessions : Tab Sess := []
  cores : Tab Core := []
  hedges : Tab Hedge := []
  seqs : Tab Seqr := []
  store : Store := {}
  pipes : Tab Pipe := []
  hbmStacks : Tab Stack := []
  pchs : Tab Pch := []
  rxFlows : Tab RxFlow := []
  txFlows : Tab TxFlow := []
  /-- host frames queued per port, at most 64; 14_network_media.md R419; reset none -/
  htx : Tab (List HtxEntry) := []
  mtc : Mtc := {}
  ports : Tab Port := []
  /-- end-to-end state by node x 4 + virtual channel; 15_tolac_fabric_espalier.md R466; reset none -/
  e2e : Tab E2e := []
  remotes : List Remote := []
  esps : Tab Esp := []
  clock : Clock := {}
  power : Power := {}
  /-- warm reset asked for, with its cause, not yet carried out; 16_clocks_startup.md R510; reset none -/
  resetReq : Option Nat := none
  /-- microseconds since cold reset, 32 bits; 17_faults_recovery.md R530; reset 0 -/
  uptime : W32 := 0
  /-- history entries written since cold reset (tells whether SEQ has wrapped); 17_faults_recovery.md R529; reset 0 -/
  histTotal : Nat := 0
  /-- factory unlock steps taken, 0 to 3; 17_faults_recovery.md R538; reset 0 -/
  unlock : Nat := 0
  /-- FLIP1 or FLIP2 injection: the source that its firing raises, bits inverted, and the HBM sector whose write took it; 17_faults_recovery.md R539; reset none -/
  inject : Option (Nat × Nat × Option Nat) := none
  deriving DecidableEq, Repr

/-- The module right after reset: unpowered, in cold reset, every register at its reset value and nothing listed. -/
def State.reset : State := {}

end Sys2Proof.Machine
end

