-- ==== Sys2Proof/Machine/RegTable.lean ====
section
/-! DEFINITION. The register map of BAR0 (19_register_index.md R578; the tables of the block chapters): every page, every register with its access masks (R7), reset value and what a warm reset keeps (R10, R509), and a name for each register's BAR0 byte offset. -/

namespace Sys2Proof.Machine

/-- The blocks of R13; poolX is a POOL page without a body. -/
inductive Block
  | dev | ckg | rst | flt | smb | ic | poolc | poolt | poolx | dma | dch | csw | ring | core | hdg | hbm | hbt | cmp | clt | tpt | tsw | trt | mpe | mtc
  deriving DecidableEq, Repr

/-- How the CTL of a page behaves (R578, R346, R93, R92). -/
inductive CtlMode
  | one | host | svc | hdg
  deriving DecidableEq, Repr

/-- A page range of R578. -/
structure PageRow where
  block : Block
  first : Nat
  count : Nat
  typ : Nat
  inst : Nat
  cap : Nat
  mode : CtlMode
  /-- the EVT_STAT bits the block defines -/
  evt : Nat

/-- One row of a register table: `count` registers `stride` apart, with the masks of the access codes RW, W1C, W1S (self-clearing triggers among them) and read-to-clear, the reset value, whether a warm reset keeps it, and its place in a _LO/_HI pair (0 none, 1 low, 2 high; R6, R53). -/
structure RegRow where
  off : Nat
  stride : Nat
  count : Nat
  rw : Nat
  w1c : Nat
  w1s : Nat
  rc : Nat
  reset : Nat
  keep : Bool
  pair : Nat

/-- The page map (R578). -/
def pageRows : List PageRow :=
  [⟨.dev, 0x000, 1, 0x0D01, 0, 0x7E40060, .one, 0xF⟩,
   ⟨.ckg, 0x001, 1, 0x0D02, 0, 0x64, .one, 0x7FE⟩,
   ⟨.rst, 0x002, 1, 0x0D03, 0, 0x0, .one, 0x3⟩,
   ⟨.flt, 0x003, 1, 0x0D04, 0, 0x200100, .one, 0x7⟩,
   ⟨.smb, 0x004, 1, 0x0D05, 0, 0x18, .one, 0x7F⟩,
   ⟨.ic, 0x008, 32, 0x1C00, 0, 0x3FE, .host, 0x1⟩,
   ⟨.poolc, 0x030, 1, 0x2B00, 0, 0x140040, .one, 0x7F⟩,
   ⟨.poolt, 0x031, 4, 0x2B00, 1, 0x10, .one, 0x0⟩,
   ⟨.poolx, 0x035, 11, 0x2B00, 5, 0x0, .one, 0x0⟩,
   ⟨.dma, 0x040, 1, 0x2D00, 0, 0x400100, .one, 0x0⟩,
   ⟨.dch, 0x041, 8, 0x2D01, 0, 0x8, .one, 0x0⟩,
   ⟨.csw, 0x0F0, 1, 0x3C00, 0, 0x40029, .one, 0x7F⟩,
   ⟨.ring, 0x100, 256, 0x4A00, 0, 0x1004, .host, 0x3F⟩,
   ⟨.core, 0x200, 36, 0x5C00, 0, 0xFF00, .svc, 0x0⟩,
   ⟨.hdg, 0x230, 4, 0x5C01, 0, 0x9, .hdg, 0xFF⟩,
   ⟨.hbm, 0x240, 4, 0x6B00, 0, 0x100818, .one, 0x1FF⟩,
   ⟨.hbt, 0x248, 4, 0x6B01, 0, 0x8080, .one, 0x7⟩,
   ⟨.cmp, 0x250, 4, 0x7C00, 0, 0x488, .host, 0x7FF⟩,
   ⟨.clt, 0x260, 64, 0x7C01, 0, 0x0, .one, 0x0⟩,
   ⟨.tpt, 0x2A0, 8, 0x8A00, 0, 0x104, .host, 0x1FF⟩,
   ⟨.tsw, 0x2A8, 1, 0x8A01, 0, 0x808, .host, 0x3FF⟩,
   ⟨.trt, 0x2B0, 8, 0x8A02, 0, 0x200, .one, 0x1⟩,
   ⟨.mpe, 0x2C0, 8, 0x9E00, 0, 0x1010, .host, 0x7FF⟩,
   ⟨.mtc, 0x2C8, 1, 0x9E01, 0, 0x0, .host, 0x7⟩]

/-- Registers of DEV (02_host_attachment.md R60). -/
def devRows : List RegRow :=
  [⟨0x40, 0x8, 1, 0x0, 0x0, 0x0, 0x0, 0x0, true, 1⟩, /- DEV_SERIAL_LO -/
   ⟨0x44, 0x8, 1, 0x0, 0x0, 0x0, 0x0, 0x0, true, 2⟩, /- DEV_SERIAL_HI -/
   ⟨0x48, 0x4, 1, 0x0, 0x0, 0x0, 0x0, 0x0, false, 0⟩, /- DEV_LINK -/
   ⟨0x4C, 0x4, 1, 0x3, 0x0, 0x0, 0x0, 0x0, false, 0⟩, /- DEV_HOSTCTL -/
   ⟨0x50, 0x8, 1, 0xFFFFFFFF, 0x0, 0x0, 0x0, 0x0, false, 1⟩, /- DEV_BAR2_BASE_LO -/
   ⟨0x54, 0x8, 1, 0xFFFF, 0x0, 0x0, 0x0, 0x0, false, 2⟩, /- DEV_BAR2_BASE_HI -/
   ⟨0x58, 0x4, 1, 0x1FFF, 0x0, 0x0, 0x0, 0x0, false, 0⟩, /- DEV_LTR -/
   ⟨0x5C, 0x4, 1, 0x0, 0x0, 0x1, 0x0, 0x0, false, 0⟩, /- DEV_PTM_CTL -/
   ⟨0x60, 0x4, 1, 0x0, 0x0, 0x0, 0x0, 0x0, false, 0⟩, /- DEV_PTM_MTC_NS -/
   ⟨0x64, 0x8, 1, 0x0, 0x0, 0x0, 0x0, 0x0, false, 1⟩, /- DEV_PTM_MTC_SEC_LO -/
   ⟨0x68, 0x8, 1, 0x0, 0x0, 0x0, 0x0, 0x0, false, 2⟩, /- DEV_PTM_MTC_SEC_HI -/
   ⟨0x70, 0x8, 1, 0x0, 0x0, 0x0, 0x0, 0x0, false, 1⟩, /- DEV_PTM_ROOT_LO -/
   ⟨0x74, 0x8, 1, 0x0, 0x0, 0x0, 0x0, 0x0, false, 2⟩, /- DEV_PTM_ROOT_HI -/
   ⟨0x78, 0x4, 1, 0x0, 0x0, 0x0, 0xFFFF, 0x0, false, 0⟩, /- DEV_ACC_ERR -/
   ⟨0x7C, 0x4, 1, 0x3F, 0x0, 0x0, 0x0, 0x0, false, 0⟩, /- DEV_VFBAR2 -/
   ⟨0x80, 0x4, 1, 0x0, 0x0, 0x0, 0x0, 0x0, false, 0⟩, /- DEV_RST -/
   ⟨0x100, 0x8, 31, 0xFFFFFFFF, 0x0, 0x0, 0x0, 0x0, false, 1⟩, /- DEV_VF_WIN_LO -/
   ⟨0x104, 0x8, 31, 0xFFFF, 0x0, 0x0, 0x0, 0x0, false, 2⟩ /- DEV_VF_WIN_HI -/]

/-- Registers of CKG (16_clocks_startup.md R514). -/
def ckgRows : List RegRow :=
  [⟨0x40, 0x4, 1, 0x1, 0x0, 0x0, 0x0, 0x0, true, 0⟩, /- CKG_SYS -/
   ⟨0x44, 0x4, 1, 0xF, 0x0, 0x0, 0x0, 0x0, true, 0⟩, /- CKG_PLLB_CFG -/
   ⟨0x48, 0x4, 1, 0x0, 0x0, 0x0, 0x0, 0x0, true, 0⟩, /- CKG_HOLD -/
   ⟨0x4C, 0x4, 1, 0x0, 0x0, 0x0, 0x0, 0x0, true, 0⟩, /- CKG_SWITCHES -/
   ⟨0x50, 0x4, 1, 0xFFFFFFFF, 0x0, 0x0, 0x0, 0x0, false, 0⟩, /- CKG_GATE_0 -/
   ⟨0x54, 0x4, 1, 0xFFFFFFFF, 0x0, 0x0, 0x0, 0xFFFFFFF0, false, 0⟩, /- CKG_GATE_1 -/
   ⟨0x58, 0x4, 1, 0xFFFFFFFF, 0x0, 0x0, 0x0, 0xFFFFFFFF, false, 0⟩, /- CKG_GATE_2 -/
   ⟨0x5C, 0x4, 1, 0xF, 0x0, 0x0, 0x0, 0x7, false, 0⟩, /- CKG_GATE_3 -/
   ⟨0x60, 0x4, 1, 0x1F7F7F, 0x0, 0x1000000, 0x0, 0x0, false, 0⟩, /- CKG_FM_CTL -/
   ⟨0x64, 0x4, 1, 0x0, 0x0, 0x0, 0x0, 0x0, false, 0⟩ /- CKG_FM_COUNT -/]

/-- Registers of RST (16_clocks_startup.md R515). -/
def rstRows : List RegRow :=
  [⟨0x40, 0x4, 1, 0x0, 0x0, 0x0, 0x0, 0x0, true, 0⟩, /- RST_CAUSE -/
   ⟨0x44, 0x4, 1, 0x0, 0x0, 0x0, 0x0, 0x0, true, 0⟩, /- RST_WARM_CNT -/
   ⟨0x48, 0x4, 1, 0x0, 0x0, 0x0, 0x0, 0x0, false, 0⟩ /- RST_HIF_CNT -/]

/-- Registers of FLT (17_faults_recovery.md R541, R542). -/
def fltRows : List RegRow :=
  [⟨0x40, 0x4, 1, 0x1, 0x0, 0x2, 0x0, 0x2, true, 0⟩, /- FLT_PIN_CTL -/
   ⟨0x44, 0x4, 1, 0x0, 0x0, 0x0, 0x0, 0x10000, true, 0⟩, /- FLT_HIST_PTR -/
   ⟨0x48, 0x4, 1, 0xFFFF, 0x0, 0x0, 0x0, 0x0, true, 0⟩, /- FLT_HIST_ACK -/
   ⟨0x4C, 0x4, 1, 0x0, 0x0, 0x0, 0xFFFFFFFF, 0x0, true, 0⟩, /- FLT_HIST_OVF -/
   ⟨0x50, 0x4, 1, 0x0, 0x0, 0x0, 0x0, 0x0, false, 0⟩, /- FLT_UNLOCK -/
   ⟨0x54, 0x4, 1, 0x3FF, 0x0, 0x10000, 0x0, 0x0, false, 0⟩, /- FLT_INJ_CTL -/
   ⟨0x58, 0x4, 1, 0xFFFFFFFF, 0x0, 0x0, 0x0, 0x0, false, 0⟩, /- FLT_INJ_SYND -/
   ⟨0x5C, 0x4, 1, 0x0, 0x0, 0x0, 0x0, 0x0, false, 0⟩, /- FLT_INJ_STAT -/
   ⟨0x60, 0x4, 8, 0x0, 0xFFFFFFFF, 0x0, 0x0, 0x0, false, 0⟩, /- FLT_PEND -/
   ⟨0x400, 0x20, 32, 0x0, 0x0, 0x0, 0x0, 0x0, true, 0⟩, /- FLT_HIST_NS -/
   ⟨0x404, 0x20, 32, 0x0, 0x0, 0x0, 0x0, 0x0, true, 1⟩, /- FLT_HIST_SEC_LO -/
   ⟨0x408, 0x20, 32, 0x0, 0x0, 0x0, 0x0, 0x0, true, 2⟩, /- FLT_HIST_SEC_HI -/
   ⟨0x40C, 0x20, 32, 0x0, 0x0, 0x0, 0x0, 0x0, true, 0⟩, /- FLT_HIST_ID -/
   ⟨0x410, 0x20, 32, 0x0, 0x0, 0x0, 0x0, 0x0, true, 0⟩, /- FLT_HIST_DETAIL -/
   ⟨0x414, 0x20, 32, 0x0, 0x0, 0x0, 0x0, 0x0, true, 0⟩, /- FLT_HIST_UPTIME_US -/
   ⟨0x418, 0x20, 32, 0x0, 0x0, 0x0, 0x0, 0x0, true, 0⟩, /- FLT_HIST_SEQ -/
   ⟨0x800, 0x4, 256, 0x1F, 0x0, 0x0, 0x0, 0x0, false, 0⟩ /- FLT_ACT -/]

/-- Registers of SMB (18_module_power.md R566). -/
def smbRows : List RegRow :=
  [⟨0x40, 0x4, 1, 0x0, 0x0, 0x0, 0x0, 0x4832, false, 0⟩, /- SMB_ID -/
   ⟨0x44, 0x4, 1, 0x0, 0x0, 0x0, 0x0, 0x0, false, 0⟩, /- SMB_REV -/
   ⟨0x48, 0x4, 1, 0x0, 0x0, 0x0, 0x0, 0x0, false, 0⟩, /- SMB_STATUS -/
   ⟨0x4C, 0x4, 1, 0x0, 0x0, 0x0, 0x0, 0x0, false, 0⟩, /- SMB_TEMP_DIE -/
   ⟨0x50, 0x4, 4, 0x0, 0x0, 0x0, 0x0, 0x0, false, 0⟩, /- SMB_TEMP_HBM -/
   ⟨0x60, 0x4, 1, 0x0, 0x0, 0x0, 0x0, 0x0, false, 0⟩, /- SMB_TEMP_BOARD -/
   ⟨0x64, 0x4, 1, 0x0, 0x0, 0x0, 0x0, 0x0, false, 0⟩, /- SMB_VIN_A -/
   ⟨0x68, 0x4, 1, 0x0, 0x0, 0x0, 0x0, 0x0, false, 0⟩, /- SMB_VIN_B -/
   ⟨0x6C, 0x4, 1, 0x0, 0x0, 0x0, 0x0, 0x0, false, 0⟩, /- SMB_IIN_A -/
   ⟨0x70, 0x4, 1, 0x0, 0x0, 0x0, 0x0, 0x0, false, 0⟩, /- SMB_IIN_B -/
   ⟨0x74, 0x4, 1, 0x0, 0x0, 0x0, 0x0, 0x0, false, 0⟩, /- SMB_PIN -/
   ⟨0x78, 0x4, 1, 0x0, 0x0, 0x0, 0xFFFF, 0x0, false, 0⟩, /- SMB_PIN_PEAK -/
   ⟨0x7C, 0x4, 1, 0x0, 0x0, 0x0, 0x0, 0x0, false, 0⟩, /- SMB_ALARM -/
   ⟨0x80, 0x4, 1, 0xFF, 0x0, 0x0, 0x0, 0x0, false, 0⟩, /- SMB_FRU_ADDR -/
   ⟨0x84, 0x4, 1, 0x0, 0x0, 0x0, 0x0, 0x0, false, 0⟩, /- SMB_FRU_DATA -/
   ⟨0x88, 0x4, 4, 0x0, 0x0, 0x0, 0x0, 0x0, false, 0⟩ /- SMB_SERIAL -/]

/-- Registers of IC (10_interrupts.md R325). -/
def icRows : List RegRow :=
  [⟨0x40, 0x4, 1, 0x0, 0x0, 0x0, 0x0, 0x0, false, 0⟩, /- IC_CLAIM -/
   ⟨0x44, 0x4, 1, 0x0, 0x0, 0x0, 0x0, 0x0, false, 0⟩, /- IC_COMPLETE -/
   ⟨0x48, 0x4, 1, 0x0, 0x0, 0x0, 0x0, 0x0, false, 0⟩, /- IC_ACTIVE -/
   ⟨0x4C, 0x4, 1, 0x0, 0x0, 0x0, 0x0, 0x0, false, 0⟩, /- IC_STATE -/
   ⟨0x50, 0x4, 1, 0x0, 0x0, 0x0, 0x0, 0x0, false, 0⟩, /- IC_MSGS -/
   ⟨0x100, 0x4, 32, 0xFFFFFFFF, 0x0, 0x0, 0x0, 0x0, false, 0⟩, /- IC_EN -/
   ⟨0x180, 0x4, 32, 0x0, 0x0, 0x0, 0x0, 0x0, false, 0⟩, /- IC_PEND -/
   ⟨0x400, 0x4, 256, 0xFFFF00FF, 0x0, 0x0, 0x0, 0x10001, false, 0⟩, /- IC_MOD -/
   ⟨0x800, 0x4, 256, 0x0, 0x0, 0x0, 0x0, 0x0, false, 0⟩ /- IC_MODCNT -/]

/-- Registers of POOLC (11_buffer_pools.md R347). -/
def poolcRows : List RegRow :=
  [⟨0x40, 0x8, 1, 0xFC000000, 0x0, 0x0, 0x0, 0x0, true, 1⟩, /- POOL_META_BASE_LO -/
   ⟨0x44, 0x8, 1, 0xFFFF, 0x0, 0x0, 0x0, 0x0, true, 2⟩, /- POOL_META_BASE_HI -/
   ⟨0x48, 0x4, 1, 0x0, 0x0, 0x0, 0x0, 0x0, false, 0⟩, /- POOL_ERRLOG_HANDLE -/
   ⟨0x4C, 0x4, 1, 0x0, 0x80000000, 0x0, 0x0, 0x0, false, 0⟩, /- POOL_ERRLOG -/
   ⟨0x50, 0x4, 1, 0x0, 0x0, 0x0, 0xFFFFFFFF, 0x0, false, 0⟩, /- POOL_ERRCNT -/
   ⟨0x54, 0x4, 1, 0x0, 0x0, 0x0, 0xFFFFFFFF, 0x0, false, 0⟩, /- POOL_LEDGER_OVF -/
   ⟨0x58, 0x4, 1, 0xFFFFFFFF, 0x0, 0x0, 0x0, 0x0, false, 0⟩, /- POOL_Q_HANDLE -/
   ⟨0x5C, 0x4, 1, 0x0, 0x0, 0x0, 0x0, 0x0, false, 0⟩ /- POOL_Q_STATE -/]

/-- Registers of POOLT (11_buffer_pools.md R348). -/
def pooltRows : List RegRow :=
  [⟨0x800, 0x80, 16, 0x1FF, 0x0, 0x0, 0x0, 0x0, false, 0⟩, /- POOL_CFG -/
   ⟨0x804, 0x80, 16, 0xFFFFFFFF, 0x0, 0x0, 0x0, 0x0, false, 1⟩, /- POOL_BASE_LO -/
   ⟨0x808, 0x80, 16, 0xFFFF, 0x0, 0x0, 0x0, 0x0, false, 2⟩, /- POOL_BASE_HI -/
   ⟨0x80C, 0x80, 16, 0x1FFFFF, 0x0, 0x0, 0x0, 0x0, false, 0⟩, /- POOL_COUNT -/
   ⟨0x810, 0x80, 16, 0xFFFFF, 0x0, 0x0, 0x0, 0x0, false, 0⟩, /- POOL_FIRST -/
   ⟨0x814, 0x80, 16, 0x0, 0x0, 0x0, 0x0, 0x2, false, 0⟩, /- POOL_STAT -/
   ⟨0x818, 0x80, 16, 0x0, 0x0, 0x0, 0x0, 0x0, false, 0⟩, /- POOL_FREE -/
   ⟨0x81C, 0x80, 16, 0x0, 0x0, 0x0, 0x1FFFFF, 0x0, false, 0⟩, /- POOL_MINFREE -/
   ⟨0x820, 0x80, 16, 0x0, 0x0, 0x0, 0x0, 0x0, false, 0⟩, /- POOL_ALLOCS -/
   ⟨0x824, 0x80, 16, 0x0, 0x0, 0x0, 0xFFFFFFFF, 0x0, false, 0⟩, /- POOL_NONE -/
   ⟨0x828, 0x80, 16, 0x0, 0x0, 0x0, 0x0, 0x1, true, 0⟩ /- POOL_GEN -/]

/-- Registers of POOLX (11_buffer_pools.md no body). -/
def poolxRows : List RegRow :=
  []

/-- Registers of DMA (09_rings_dma.md R303). -/
def dmaRows : List RegRow :=
  [⟨0x40, 0x4, 2, 0x0, 0x0, 0x0, 0x0, 0x0, false, 0⟩, /- DMA_CHBUSY -/
   ⟨0x48, 0x4, 8, 0x0, 0x0, 0x0, 0x0, 0x0, false, 0⟩, /- DMA_RINGACT -/
   ⟨0x68, 0x8, 1, 0x0, 0x0, 0x0, 0x0, 0x0, false, 1⟩, /- DMA_BYTES_LO -/
   ⟨0x6C, 0x8, 1, 0x0, 0x0, 0x0, 0x0, 0x0, false, 2⟩, /- DMA_BYTES_HI -/
   ⟨0x70, 0x4, 1, 0x0, 0x0, 0x0, 0xFFFF, 0x0, false, 0⟩ /- DMA_BADCNT -/]

/-- Registers of DCH (09_rings_dma.md R304). -/
def dchRows : List RegRow :=
  [⟨0x100, 0x100, 8, 0xFFFFFFFF, 0x0, 0x0, 0x0, 0x0, false, 1⟩, /- DCH_SRC_LO -/
   ⟨0x104, 0x100, 8, 0xFFFFFFF, 0x0, 0x0, 0x0, 0x0, false, 2⟩, /- DCH_SRC_HI -/
   ⟨0x108, 0x100, 8, 0xFFFFFFFF, 0x0, 0x0, 0x0, 0x0, false, 1⟩, /- DCH_DST_LO -/
   ⟨0x10C, 0x100, 8, 0xFFFFFFF, 0x0, 0x0, 0x0, 0x0, false, 2⟩, /- DCH_DST_HI -/
   ⟨0x110, 0x100, 8, 0xFFFFFFFF, 0x0, 0x0, 0x0, 0x0, false, 0⟩, /- DCH_COUNT -/
   ⟨0x114, 0x100, 8, 0x6, 0x0, 0x1, 0x0, 0x0, false, 0⟩, /- DCH_CTL -/
   ⟨0x118, 0x100, 8, 0x0, 0xE, 0x0, 0x0, 0x0, false, 0⟩, /- DCH_STAT -/
   ⟨0x11C, 0x100, 8, 0x0, 0x0, 0x0, 0x0, 0x0, false, 0⟩ /- DCH_DONE_BYTES -/]

/-- Registers of CSW (13_microcode.md R407). -/
def cswRows : List RegRow :=
  [⟨0x40, 0x4, 1, 0x13F, 0x0, 0x0, 0x0, 0x0, false, 0⟩, /- CSW_SEL -/
   ⟨0x44, 0x4, 1, 0x80003FFF, 0x0, 0x0, 0x0, 0x0, false, 0⟩, /- CSW_ADDR -/
   ⟨0x48, 0x4, 4, 0xFFFFFFFF, 0x0, 0x0, 0x0, 0x0, false, 0⟩, /- CSW_DATA -/
   ⟨0x58, 0x4, 1, 0x0, 0x0, 0x0, 0x0, 0x0, false, 0⟩, /- CSW_PARITY -/
   ⟨0x5C, 0x4, 1, 0x0, 0x0, 0x0, 0x0, 0x0, false, 0⟩, /- CSW_SEQSTAT -/
   ⟨0x60, 0x4, 1, 0x0, 0x0, 0x0, 0x0, 0x0, false, 0⟩, /- CSW_BANKINFO -/
   ⟨0x64, 0x4, 1, 0x0, 0x0, 0x0, 0x0, 0x0, false, 0⟩, /- CSW_BANKVER -/
   ⟨0x68, 0x4, 1, 0x0, 0x80000000, 0x0, 0x0, 0x0, false, 0⟩, /- CSW_FAULT -/
   ⟨0x6C, 0x4, 1, 0x0, 0x0, 0x0, 0x0, 0x0, false, 0⟩, /- CSW_KICK -/
   ⟨0x70, 0x4, 1, 0x0, 0x0, 0x0, 0x0, 0x0, false, 0⟩, /- CSW_SWAP -/
   ⟨0x74, 0x8, 1, 0xFF000000, 0x0, 0x0, 0x0, 0x0, true, 1⟩, /- CSW_STORE_BASE_LO -/
   ⟨0x78, 0x8, 1, 0xFFFF, 0x0, 0x0, 0x0, 0x0, true, 2⟩, /- CSW_STORE_BASE_HI -/
   ⟨0x7C, 0x4, 1, 0x0, 0x0, 0x0, 0x0, 0x0, false, 0⟩, /- CSW_STORE -/
   ⟨0x80, 0x4, 1, 0x0, 0x0, 0x0, 0x0, 0x0, false, 0⟩, /- CSW_CHANGEOVER -/
   ⟨0x84, 0x4, 1, 0x0, 0x0, 0x0, 0x0, 0x0, true, 0⟩, /- CSW_KEYS -/
   ⟨0x88, 0x4, 1, 0x0, 0x0, 0x0, 0x0, 0x0, false, 0⟩ /- CSW_REVOKE -/]

/-- Registers of RING (09_rings_dma.md R306). -/
def ringRows : List RegRow :=
  [⟨0x40, 0x4, 1, 0x1F03FF, 0x0, 0x0, 0x0, 0x0, false, 0⟩, /- RING_CFG -/
   ⟨0x44, 0x8, 1, 0xFFFFF000, 0x0, 0x0, 0x0, 0x0, false, 1⟩, /- RING_BASE_LO -/
   ⟨0x48, 0x8, 1, 0xFFFFFFFF, 0x0, 0x0, 0x0, 0x0, false, 2⟩, /- RING_BASE_HI -/
   ⟨0x4C, 0x4, 1, 0x0, 0x0, 0x0, 0x0, 0x0, false, 0⟩, /- RING_HEAD -/
   ⟨0x50, 0x4, 1, 0xFFFF, 0x0, 0x0, 0x0, 0x0, false, 0⟩, /- RING_TAIL -/
   ⟨0x54, 0x4, 1, 0x3F, 0x0, 0x0, 0x0, 0x0, false, 0⟩, /- RING_CBUF_CFG -/
   ⟨0x58, 0x8, 1, 0xFFFFFFFF, 0x0, 0x0, 0x0, 0x0, false, 1⟩, /- RING_CBUF_BASE_LO -/
   ⟨0x5C, 0x8, 1, 0xFFFFFFFF, 0x0, 0x0, 0x0, 0x0, false, 2⟩, /- RING_CBUF_BASE_HI -/
   ⟨0x60, 0x4, 1, 0x0, 0x0, 0x0, 0x0, 0x0, false, 0⟩, /- RING_CBUF_WR -/
   ⟨0x64, 0x4, 1, 0xFFFFFFFF, 0x0, 0x0, 0x0, 0x0, false, 0⟩, /- RING_CBUF_RD -/
   ⟨0x68, 0x4, 1, 0x0, 0x0, 0x0, 0x0, 0x0, false, 0⟩, /- RING_DONE -/
   ⟨0x6C, 0x4, 1, 0x0, 0x0, 0x0, 0xFFFFFFFF, 0x0, false, 0⟩, /- RING_BAD -/
   ⟨0x70, 0x4, 1, 0x0, 0x0, 0x0, 0xFFFFFFFF, 0x0, false, 0⟩, /- RING_DROP -/
   ⟨0x74, 0x4, 1, 0x0, 0x0, 0x0, 0x0, 0x0, false, 0⟩ /- RING_LASTERR -/]

/-- Registers of CORE (03_codec_cores_sessions.md R92). -/
def coreRows : List RegRow :=
  [⟨0x40, 0x4, 1, 0x0, 0x0, 0x0, 0x0, 0x0, false, 0⟩, /- CORE_STATE -/
   ⟨0x44, 0x4, 1, 0x0, 0x0, 0x0, 0x0, 0x0, false, 0⟩, /- CORE_SLICES -/
   ⟨0x48, 0x8, 1, 0x0, 0x0, 0x0, 0x0, 0x0, false, 1⟩, /- CORE_BUSY_LO -/
   ⟨0x4C, 0x8, 1, 0x0, 0x0, 0x0, 0x0, 0x0, false, 2⟩, /- CORE_BUSY_HI -/
   ⟨0x50, 0x4, 1, 0x0, 0x0, 0x0, 0x0, 0x0, false, 0⟩ /- CORE_SWAPS -/]

/-- Registers of HDG (03_codec_cores_sessions.md R93). -/
def hdgRows : List RegRow :=
  [⟨0x40, 0x4, 1, 0x0, 0x0, 0x0, 0x0, 0x10000, true, 0⟩, /- HDG_ROLES -/
   ⟨0x44, 0x4, 1, 0x0, 0x0, 0x0, 0x0, 0x0, false, 0⟩, /- HDG_CLKON -/
   ⟨0x48, 0x4, 1, 0x0, 0x0, 0x0, 0x0, 0x20000000, false, 0⟩, /- HDG_LOAD -/
   ⟨0x4C, 0x4, 1, 0x0, 0x0, 0x0, 0x0, 0x0, false, 0⟩, /- HDG_SESS -/
   ⟨0x50, 0x4, 1, 0x7, 0x0, 0x0, 0x0, 0x0, false, 0⟩, /- HDG_DVFS -/
   ⟨0x54, 0x4, 1, 0x0, 0x0, 0x0, 0x0, 0x0, false, 0⟩, /- HDG_PROMOTE -/
   ⟨0x58, 0x4, 1, 0x0, 0x0, 0x0, 0x0, 0x0, false, 0⟩, /- HDG_SPARE -/
   ⟨0x5C, 0x4, 1, 0xF, 0x0, 0x100, 0x0, 0x0, true, 0⟩, /- HDG_BIST -/
   ⟨0x60, 0x4, 1, 0x0, 0x0, 0x0, 0x0, 0x0, false, 0⟩, /- HDG_LASTPROMO -/
   ⟨0x64, 0x4, 1, 0x0, 0x0, 0x0, 0xFFFFFFFF, 0x0, false, 0⟩, /- HDG_OVL -/
   ⟨0x68, 0x4, 1, 0xFF, 0x0, 0x0, 0x0, 0x0, false, 0⟩, /- HDG_PERS_PIN -/
   ⟨0x6C, 0x4, 1, 0x0, 0x0, 0x0, 0x0, 0x0, false, 0⟩, /- HDG_RC_HIT -/
   ⟨0x70, 0x4, 1, 0x0, 0x0, 0x0, 0x0, 0x0, false, 0⟩ /- HDG_RC_MISS -/]

/-- Registers of HBM (12_hbm_memory.md R370). -/
def hbmRows : List RegRow :=
  [⟨0x40, 0x4, 1, 0x3F, 0x0, 0x0, 0x0, 0x0, true, 0⟩, /- HBM_MAP -/
   ⟨0x44, 0x4, 1, 0x13FF03FF, 0x0, 0x0, 0x0, 0x2000040, false, 0⟩, /- HBM_SCHED -/
   ⟨0x48, 0x4, 1, 0x0, 0x0, 0x0, 0x0, 0x0, false, 0⟩, /- HBM_TEMP -/
   ⟨0x4C, 0x4, 1, 0x0, 0x0, 0x0, 0xFFFFFFFF, 0x0, false, 0⟩, /- HBM_ECC_CE -/
   ⟨0x50, 0x4, 1, 0x0, 0x0, 0x0, 0xFFFFFFFF, 0x0, false, 0⟩, /- HBM_ECC_UE -/
   ⟨0x54, 0x8, 1, 0x0, 0x0, 0x0, 0x0, 0x0, false, 1⟩, /- HBM_ERRLOG_ADDR_LO -/
   ⟨0x58, 0x8, 1, 0x0, 0x0, 0x0, 0x0, 0x0, false, 2⟩, /- HBM_ERRLOG_ADDR_HI -/
   ⟨0x5C, 0x4, 1, 0x0, 0x0, 0x0, 0x0, 0x0, false, 0⟩, /- HBM_ERRLOG_LOC -/
   ⟨0x60, 0x4, 1, 0x0, 0x80000000, 0x0, 0x0, 0x0, false, 0⟩, /- HBM_ERRLOG_ROW -/
   ⟨0x64, 0x4, 1, 0xFFFF, 0x0, 0x0, 0x0, 0x18, false, 0⟩, /- HBM_SCRUB -/
   ⟨0x68, 0x4, 1, 0x0, 0x0, 0x0, 0x0, 0x0, false, 0⟩, /- HBM_SCRUB_POS -/
   ⟨0x6C, 0x8, 1, 0xFFFFFFFF, 0x0, 0x0, 0x0, 0x0, false, 1⟩, /- HBM_PPR_ADDR_LO -/
   ⟨0x70, 0x8, 1, 0xFFFF, 0x0, 0x0, 0x0, 0x0, false, 2⟩, /- HBM_PPR_ADDR_HI -/
   ⟨0x74, 0x4, 1, 0x0, 0x0, 0x0, 0x0, 0x0, false, 0⟩, /- HBM_PPR_CMD -/
   ⟨0x78, 0x4, 1, 0x0, 0x0, 0x0, 0x0, 0x0, true, 0⟩, /- HBM_PPR_STAT -/
   ⟨0x7C, 0x8, 1, 0x0, 0x0, 0x0, 0x0, 0x0, false, 1⟩, /- HBM_RD_BYTES_LO -/
   ⟨0x80, 0x8, 1, 0x0, 0x0, 0x0, 0x0, 0x0, false, 2⟩, /- HBM_RD_BYTES_HI -/
   ⟨0x84, 0x8, 1, 0x0, 0x0, 0x0, 0x0, 0x0, false, 1⟩, /- HBM_WR_BYTES_LO -/
   ⟨0x88, 0x8, 1, 0x0, 0x0, 0x0, 0x0, 0x0, false, 2⟩, /- HBM_WR_BYTES_HI -/
   ⟨0x8C, 0x4, 1, 0x0, 0x0, 0x0, 0x0, 0x0, false, 0⟩ /- HBM_INORDER -/]

/-- Registers of HBT (12_hbm_memory.md R371). -/
def hbtRows : List RegRow :=
  [⟨0x40, 0x4, 1, 0xFF00FF04, 0x0, 0x3, 0x0, 0x10001404, false, 0⟩, /- HBT_CTL -/
   ⟨0x44, 0x4, 1, 0x0, 0x0, 0x0, 0x0, 0x0, true, 0⟩, /- HBT_STAT -/
   ⟨0x48, 0x4, 1, 0x0, 0x0, 0x0, 0x0, 0x0, false, 0⟩, /- HBT_COUNT -/
   ⟨0x4C, 0x4, 1, 0x0, 0x0, 0x0, 0x0, 0x0, true, 0⟩, /- HBT_TTRAIN -/
   ⟨0x50, 0x4, 1, 0x0, 0x0, 0x0, 0x0, 0x0, false, 0⟩, /- HBT_LAST_US -/
   ⟨0x400, 0x4, 128, 0x0, 0x0, 0x0, 0x0, 0x0, true, 0⟩ /- HBT_LANE -/]

/-- Registers of CMP (07_composer.md R232, R233, R234). -/
def cmpRows : List RegRow :=
  [⟨0x40, 0x4, 1, 0xF1, 0x0, 0x0, 0x0, 0xF0, false, 0⟩, /- CMP_TIMING -/
   ⟨0x44, 0x4, 1, 0xFFFFFFFF, 0x0, 0x0, 0x0, 0x1003C, false, 0⟩, /- CMP_RATE -/
   ⟨0x48, 0x4, 1, 0xFF3FFF, 0x0, 0x0, 0x0, 0x0, false, 0⟩, /- CMP_LINES -/
   ⟨0x4C, 0x4, 1, 0xFFFFFFFF, 0x0, 0x0, 0x0, 0x0, false, 0⟩, /- CMP_PHASE -/
   ⟨0x50, 0x4, 1, 0xFFFFFFFF, 0x0, 0x0, 0x0, 0x0, false, 0⟩, /- CMP_CANVAS -/
   ⟨0x54, 0x4, 1, 0x7F7FFF, 0x0, 0x0, 0x0, 0x0, false, 0⟩, /- CMP_OUT -/
   ⟨0x58, 0x4, 1, 0xFFFFFFFF, 0x0, 0x0, 0x0, 0x0, false, 0⟩, /- CMP_BG_RG -/
   ⟨0x5C, 0x4, 1, 0xFFFF, 0x0, 0x0, 0x0, 0x0, false, 0⟩, /- CMP_BG_B -/
   ⟨0x60, 0x4, 1, 0x0, 0x0, 0x0, 0x0, 0x0, false, 0⟩, /- CMP_PICS -/
   ⟨0x64, 0x4, 1, 0x0, 0x0, 0x0, 0xFFFFFFFF, 0x0, false, 0⟩, /- CMP_LATE -/
   ⟨0x68, 0x4, 1, 0x0, 0x0, 0x0, 0xFFFFFFFF, 0x0, false, 0⟩, /- CMP_NOSRC -/
   ⟨0x6C, 0x4, 1, 0x0, 0x0, 0x0, 0xFFFFFFFF, 0x0, false, 0⟩, /- CMP_FENCE_ERR -/
   ⟨0x70, 0x4, 1, 0x0, 0x0, 0x0, 0x0, 0x0, false, 0⟩, /- CMP_REJECT -/
   ⟨0x74, 0x4, 1, 0x0, 0x0, 0x0, 0x0, 0x0, false, 0⟩, /- CMP_LIVE -/
   ⟨0x100, 0x10, 4, 0x1FFFF, 0x0, 0x0, 0x0, 0x0, false, 0⟩, /- GRP_MEMBERS -/
   ⟨0x104, 0x10, 4, 0xFFFF00, 0x0, 0x1, 0x0, 0x0, false, 0⟩, /- GRP_CTL -/
   ⟨0x108, 0x10, 4, 0x0, 0x0, 0x0, 0x0, 0x0, false, 0⟩, /- GRP_STAT -/
   ⟨0x400, 0x40, 16, 0xFFFF7F1F, 0x0, 0x0, 0x0, 0x0, false, 0⟩, /- LAYER_CTL -/
   ⟨0x404, 0x40, 16, 0xFFFFFFFF, 0x0, 0x0, 0x0, 0x0, false, 0⟩, /- LAYER_SRC -/
   ⟨0x408, 0x40, 16, 0xFFFFFFFF, 0x0, 0x0, 0x0, 0x0, false, 0⟩ /- LAYER_SRC_XY -/] ++
  [⟨0x40C, 0x40, 16, 0xFFFFFFFF, 0x0, 0x0, 0x0, 0x0, false, 0⟩, /- LAYER_SRC_WH -/
   ⟨0x410, 0x40, 16, 0xFFFFFFFF, 0x0, 0x0, 0x0, 0x0, false, 0⟩, /- LAYER_DST_XY -/
   ⟨0x414, 0x40, 16, 0xFFFFFFFF, 0x0, 0x0, 0x0, 0x0, false, 0⟩, /- LAYER_DST_WH -/
   ⟨0x418, 0x40, 16, 0xFFFFFFFF, 0x0, 0x0, 0x0, 0x0, false, 0⟩, /- LAYER_STRIDE -/
   ⟨0x41C, 0x40, 16, 0xFF, 0x0, 0x0, 0x0, 0x0, false, 0⟩, /- LAYER_FENCE_CTL -/
   ⟨0x420, 0x40, 16, 0xFFFFFFF8, 0x0, 0x0, 0x0, 0x0, false, 1⟩, /- LAYER_FENCE_ADDR_LO -/
   ⟨0x424, 0x40, 16, 0xFFFFFFFF, 0x0, 0x0, 0x0, 0x0, false, 2⟩, /- LAYER_FENCE_ADDR_HI -/
   ⟨0x428, 0x40, 16, 0xFFFFFFFF, 0x0, 0x0, 0x0, 0x0, false, 1⟩, /- LAYER_FENCE_VAL_LO -/
   ⟨0x42C, 0x40, 16, 0xFFFFFFFF, 0x0, 0x0, 0x0, 0x0, false, 2⟩ /- LAYER_FENCE_VAL_HI -/]

/-- Registers of CLT (07_composer.md R235). -/
def cltRows : List RegRow :=
  [⟨0x40, 0x4, 1, 0xFFF, 0x0, 0x0, 0x0, 0x0, false, 0⟩ /- CLT_SEL -/]

/-- Registers of TPT (15_tolac_fabric_espalier.md R482). -/
def tptRows : List RegRow :=
  [⟨0x40, 0x4, 1, 0x3F, 0x0, 0x0, 0x0, 0x0, false, 0⟩, /- TPT_MODE -/
   ⟨0x44, 0x4, 1, 0x0, 0x0, 0x0, 0x0, 0x2, false, 0⟩, /- TPT_LINK -/
   ⟨0x48, 0x4, 1, 0x0, 0x0, 0x0, 0xFFFFFFFF, 0x0, false, 0⟩, /- TPT_RETRY_CNT -/
   ⟨0x4C, 0x4, 1, 0x0, 0x0, 0x0, 0xFFFFFFFF, 0x0, false, 0⟩, /- TPT_FEC_CE -/
   ⟨0x50, 0x4, 1, 0x0, 0x0, 0x0, 0xFFFFFFFF, 0x0, false, 0⟩, /- TPT_FEC_UE -/
   ⟨0x54, 0x4, 4, 0x0, 0x0, 0x0, 0x0, 0x0, false, 0⟩, /- TPT_CREDIT -/
   ⟨0x64, 0x4, 1, 0x0, 0x0, 0x1, 0x0, 0x0, false, 0⟩, /- TPT_PROBE_CTL -/
   ⟨0x68, 0x8, 1, 0x0, 0x0, 0x0, 0x0, 0x0, false, 1⟩, /- TPT_PROBE_SER_LO -/
   ⟨0x6C, 0x8, 1, 0x0, 0x0, 0x0, 0x0, 0x0, false, 2⟩, /- TPT_PROBE_SER_HI -/
   ⟨0x70, 0x4, 1, 0x0, 0x80000000, 0x0, 0x0, 0x0, false, 0⟩, /- TPT_PROBE_ANS -/
   ⟨0x74, 0x4, 1, 0x0, 0x0, 0x0, 0xFFFFFFFF, 0x0, false, 0⟩, /- TPT_WIN_REJ -/
   ⟨0x78, 0x4, 1, 0x0, 0x0, 0x0, 0x0, 0x0, false, 0⟩, /- TPT_TX_FLITS -/
   ⟨0x7C, 0x4, 1, 0x0, 0x0, 0x0, 0x0, 0x0, false, 0⟩, /- TPT_RX_FLITS -/
   ⟨0x100, 0x10, 8, 0xFFFFFFFF, 0x0, 0x0, 0x0, 0x0, false, 1⟩, /- TPT_WIN_BASE_LO -/
   ⟨0x104, 0x10, 8, 0xFFFF, 0x0, 0x0, 0x0, 0x0, false, 2⟩, /- TPT_WIN_BASE_HI -/
   ⟨0x108, 0x10, 8, 0xFFF03FF, 0x0, 0x0, 0x0, 0x0, false, 0⟩ /- TPT_WIN_CTL -/]

/-- Registers of TSW (15_tolac_fabric_espalier.md R484, R485). -/
def tswRows : List RegRow :=
  [⟨0x40, 0x4, 1, 0xFFF, 0x0, 0x0, 0x0, 0x0, false, 0⟩, /- TSW_NODE -/
   ⟨0x44, 0x4, 1, 0xFFFFFFF, 0x0, 0x0, 0x0, 0x3E80814, false, 0⟩, /- TSW_CFG -/
   ⟨0x48, 0x4, 1, 0xFFFF, 0x0, 0x0, 0x0, 0x3E8, false, 0⟩, /- TSW_MEM_TIMEOUT -/
   ⟨0x4C, 0x4, 1, 0x0, 0x0, 0x0, 0xFFFFFFFF, 0x0, false, 0⟩, /- TSW_NOROUTE -/
   ⟨0x50, 0x4, 1, 0x0, 0x0, 0x0, 0xFFFFFFFF, 0x0, false, 0⟩, /- TSW_HOPDROP -/
   ⟨0x54, 0x4, 1, 0x0, 0x0, 0x0, 0xFFFFFFFF, 0x0, false, 0⟩, /- TSW_RETX -/
   ⟨0x58, 0x4, 1, 0x0, 0x0, 0x0, 0x0, 0x0, false, 0⟩, /- TSW_RETX_FILL -/
   ⟨0x5C, 0x4, 1, 0x0, 0x0, 0x0, 0x0, 0x0, false, 0⟩, /- TSW_PEERLOST_NODE -/
   ⟨0x400, 0x40, 8, 0x3777FF01, 0x0, 0x0, 0x0, 0x0, false, 0⟩, /- ESP_CTL -/
   ⟨0x404, 0x40, 8, 0xFFF0FFF, 0x0, 0x0, 0x0, 0x0, false, 0⟩, /- ESP_NODE_0 -/
   ⟨0x408, 0x40, 8, 0xFFF0FFF, 0x0, 0x0, 0x0, 0x0, false, 0⟩, /- ESP_NODE_1 -/
   ⟨0x40C, 0x40, 8, 0xFFF0FFF, 0x0, 0x0, 0x0, 0x0, false, 0⟩, /- ESP_NODE_2 -/
   ⟨0x410, 0x40, 8, 0xFFF0FFF, 0x0, 0x0, 0x0, 0x0, false, 0⟩, /- ESP_NODE_3 -/
   ⟨0x414, 0x40, 8, 0x1FF0000, 0x0, 0x0, 0x0, 0x0, false, 0⟩, /- ESP_START_0 -/
   ⟨0x418, 0x40, 8, 0x1FF01FF, 0x0, 0x0, 0x0, 0x0, false, 0⟩, /- ESP_START_1 -/
   ⟨0x41C, 0x40, 8, 0x1FF01FF, 0x0, 0x0, 0x0, 0x0, false, 0⟩, /- ESP_START_2 -/
   ⟨0x420, 0x40, 8, 0x1FF01FF, 0x0, 0x0, 0x0, 0x0, false, 0⟩, /- ESP_START_3 -/
   ⟨0x424, 0x40, 8, 0xFFFF, 0x0, 0x0, 0x0, 0x0, false, 0⟩, /- ESP_TIMEOUT -/
   ⟨0x428, 0x40, 8, 0x0, 0x0, 0x0, 0x0, 0x0, false, 0⟩, /- ESP_STAT -/
   ⟨0x42C, 0x40, 8, 0x0, 0x0, 0x0, 0xFFFFFFFF, 0x0, false, 0⟩ /- ESP_HALO_LATE -/] ++
  [⟨0x430, 0x40, 8, 0x0, 0x0, 0x0, 0xFFFFFFFF, 0x0, false, 0⟩ /- ESP_SUBST -/]

/-- Registers of TRT (15_tolac_fabric_espalier.md R486). -/
def trtRows : List RegRow :=
  [⟨0x800, 0x4, 512, 0x1F7, 0x0, 0x0, 0x0, 0x0, false, 0⟩ /- TRT_ENTRY -/]

/-- Registers of MPE (14_network_media.md R440, R441, R442, R443). -/
def mpeRows : List RegRow :=
  [⟨0x40, 0x4, 1, 0xFFFFFFFF, 0x0, 0x0, 0x0, 0x0, false, 1⟩, /- MPE_MAC_LO -/
   ⟨0x44, 0x4, 1, 0xFFFF, 0x0, 0x0, 0x0, 0x0, false, 2⟩, /- MPE_MAC_HI -/
   ⟨0x48, 0x4, 1, 0xFFFFFFFF, 0x0, 0x0, 0x0, 0x0, false, 0⟩, /- MPE_IPV4 -/
   ⟨0x4C, 0x4, 4, 0xFFFFFFFF, 0x0, 0x0, 0x0, 0x0, false, 0⟩, /- MPE_IPV6 -/
   ⟨0x5C, 0x4, 1, 0x3FFF0007, 0x0, 0x0, 0x0, 0x5EE0000, false, 0⟩, /- MPE_PORT_CTL -/
   ⟨0x60, 0x4, 1, 0x7FFF, 0x0, 0x0, 0x0, 0x0, false, 0⟩, /- MPE_HOST -/
   ⟨0x64, 0x4, 1, 0xFFFFFFFF, 0x0, 0x0, 0x0, 0x0, false, 0⟩, /- MPE_HTX_HANDLE -/
   ⟨0x68, 0x4, 1, 0x0, 0x0, 0x0, 0x0, 0x0, false, 0⟩, /- MPE_HTX_CMD -/
   ⟨0x6C, 0x4, 1, 0x0, 0x0, 0x0, 0x0, 0x40, false, 0⟩, /- MPE_HTX_STAT -/
   ⟨0x70, 0x4, 1, 0x0, 0x0, 0x0, 0x0, 0x0, false, 0⟩, /- MPE_RX_FRAMES -/
   ⟨0x74, 0x4, 1, 0x0, 0x0, 0x0, 0xFFFFFFFF, 0x0, false, 0⟩, /- MPE_RX_ERR -/
   ⟨0x78, 0x4, 1, 0x0, 0x0, 0x0, 0xFFFFFFFF, 0x0, false, 0⟩, /- MPE_RX_HOSTDROP -/
   ⟨0x7C, 0x4, 1, 0x0, 0x0, 0x0, 0xFFFFFFFF, 0x0, false, 0⟩, /- MPE_RX_FILTERED -/
   ⟨0x80, 0x4, 1, 0x0, 0x0, 0x0, 0x0, 0x0, false, 0⟩, /- MPE_TX_FRAMES -/
   ⟨0x100, 0x8, 16, 0xFFFFFFFF, 0x0, 0x0, 0x0, 0x0, false, 1⟩, /- MPE_MCF_LO -/
   ⟨0x104, 0x8, 16, 0x8000FFFF, 0x0, 0x0, 0x0, 0x0, false, 2⟩, /- MPE_MCF_HI -/
   ⟨0x200, 0x20, 16, 0x0, 0x0, 0x0, 0x0, 0x0, false, 0⟩, /- RXC_PKTS_A -/
   ⟨0x204, 0x20, 16, 0x0, 0x0, 0x0, 0x0, 0x0, false, 0⟩, /- RXC_PKTS_B -/
   ⟨0x208, 0x20, 16, 0x0, 0x0, 0x0, 0xFFFFFFFF, 0x0, false, 0⟩, /- RXC_LOST -/
   ⟨0x20C, 0x20, 16, 0x0, 0x0, 0x0, 0xFFFFFFFF, 0x0, false, 0⟩ /- RXC_REPAIR -/] ++
  [⟨0x210, 0x20, 16, 0x0, 0x0, 0x0, 0xFFFFFFFF, 0x0, false, 0⟩, /- RXC_LATE -/
   ⟨0x214, 0x20, 16, 0x0, 0x0, 0x0, 0xFFFFFFFF, 0x0, false, 0⟩, /- RXC_BAD -/
   ⟨0x218, 0x20, 16, 0x0, 0x0, 0x0, 0x0, 0x0, false, 0⟩, /- RXC_SKEW -/
   ⟨0x400, 0x40, 16, 0x3F7FF77F, 0x0, 0x0, 0x0, 0x0, false, 0⟩, /- RXF_CTL -/
   ⟨0x404, 0x40, 16, 0x0, 0x0, 0x0, 0x0, 0x2, false, 0⟩, /- RXF_STAT -/
   ⟨0x408, 0x40, 16, 0xFFFFFFFF, 0x0, 0x0, 0x0, 0x0, false, 0⟩, /- RXF_SIZE -/
   ⟨0x40C, 0x40, 16, 0xFFFF, 0x0, 0x0, 0x0, 0x64, false, 0⟩, /- RXF_SKEW -/
   ⟨0x410, 0x40, 16, 0x1FFF, 0x0, 0x0, 0x0, 0x0, false, 0⟩, /- RXF_VLAN -/
   ⟨0x414, 0x40, 16, 0xFFFFFFFF, 0x0, 0x0, 0x0, 0x0, false, 0⟩, /- RXF_STRIDE -/
   ⟨0x418, 0x40, 16, 0xFFFFFFFF, 0x0, 0x0, 0x0, 0x0, false, 0⟩, /- RXF_UDP -/
   ⟨0x420, 0x40, 16, 0xFFFFFFFF, 0x0, 0x0, 0x0, 0x0, false, 0⟩, /- RXF_DST_A_0 -/
   ⟨0x424, 0x40, 16, 0xFFFFFFFF, 0x0, 0x0, 0x0, 0x0, false, 0⟩, /- RXF_DST_A_1 -/
   ⟨0x428, 0x40, 16, 0xFFFFFFFF, 0x0, 0x0, 0x0, 0x0, false, 0⟩, /- RXF_DST_A_2 -/
   ⟨0x42C, 0x40, 16, 0xFFFFFFFF, 0x0, 0x0, 0x0, 0x0, false, 0⟩, /- RXF_DST_A_3 -/
   ⟨0x430, 0x40, 16, 0xFFFFFFFF, 0x0, 0x0, 0x0, 0x0, false, 0⟩, /- RXF_DST_B_0 -/
   ⟨0x434, 0x40, 16, 0xFFFFFFFF, 0x0, 0x0, 0x0, 0x0, false, 0⟩, /- RXF_DST_B_1 -/
   ⟨0x438, 0x40, 16, 0xFFFFFFFF, 0x0, 0x0, 0x0, 0x0, false, 0⟩, /- RXF_DST_B_2 -/
   ⟨0x43C, 0x40, 16, 0xFFFFFFFF, 0x0, 0x0, 0x0, 0x0, false, 0⟩, /- RXF_DST_B_3 -/
   ⟨0x800, 0x80, 16, 0x3FFFFF7F, 0x0, 0x0, 0x0, 0x0, false, 0⟩, /- TXF_CTL -/
   ⟨0x804, 0x80, 16, 0x0, 0x0, 0x0, 0x0, 0x2, false, 0⟩ /- TXF_STAT -/] ++
  [⟨0x808, 0x80, 16, 0xFFF, 0x0, 0x0, 0x0, 0x0, false, 0⟩, /- TXF_VLAN -/
   ⟨0x80C, 0x80, 16, 0x3FFF, 0x0, 0x0, 0x0, 0x0, false, 0⟩, /- TXF_PAYLOAD -/
   ⟨0x810, 0x80, 16, 0xFFFFFFFF, 0x0, 0x0, 0x0, 0x0, false, 0⟩, /- TXF_SSRC -/
   ⟨0x814, 0x80, 16, 0xFFFFFFFF, 0x0, 0x0, 0x0, 0x0, false, 0⟩, /- TXF_SEQ -/
   ⟨0x818, 0x80, 16, 0xFFFFFFFF, 0x0, 0x0, 0x0, 0x0, false, 0⟩, /- TXF_TRO -/
   ⟨0x81C, 0x80, 16, 0xFFFF, 0x0, 0x0, 0x0, 0x0, false, 0⟩, /- TXF_PACE -/
   ⟨0x820, 0x80, 16, 0xFFFF, 0x0, 0x0, 0x0, 0x0, false, 0⟩, /- TXF_UDP_SRC -/
   ⟨0x824, 0x80, 16, 0xFFFFFFFF, 0x0, 0x0, 0x0, 0x0, false, 0⟩, /- TXF_UDP_DST -/
   ⟨0x828, 0x80, 16, 0xFFFFFFFF, 0x0, 0x0, 0x0, 0x0, false, 1⟩, /- TXF_MAC_A_LO -/
   ⟨0x82C, 0x80, 16, 0xFFFF, 0x0, 0x0, 0x0, 0x0, false, 2⟩, /- TXF_MAC_A_HI -/
   ⟨0x830, 0x80, 16, 0xFFFFFFFF, 0x0, 0x0, 0x0, 0x0, false, 1⟩, /- TXF_MAC_B_LO -/
   ⟨0x834, 0x80, 16, 0xFFFF, 0x0, 0x0, 0x0, 0x0, false, 2⟩, /- TXF_MAC_B_HI -/
   ⟨0x840, 0x80, 16, 0xFFFFFFFF, 0x0, 0x0, 0x0, 0x0, false, 0⟩, /- TXF_DST_A_0 -/
   ⟨0x844, 0x80, 16, 0xFFFFFFFF, 0x0, 0x0, 0x0, 0x0, false, 0⟩, /- TXF_DST_A_1 -/
   ⟨0x848, 0x80, 16, 0xFFFFFFFF, 0x0, 0x0, 0x0, 0x0, false, 0⟩, /- TXF_DST_A_2 -/
   ⟨0x84C, 0x80, 16, 0xFFFFFFFF, 0x0, 0x0, 0x0, 0x0, false, 0⟩, /- TXF_DST_A_3 -/
   ⟨0x850, 0x80, 16, 0xFFFFFFFF, 0x0, 0x0, 0x0, 0x0, false, 0⟩, /- TXF_DST_B_0 -/
   ⟨0x854, 0x80, 16, 0xFFFFFFFF, 0x0, 0x0, 0x0, 0x0, false, 0⟩, /- TXF_DST_B_1 -/
   ⟨0x858, 0x80, 16, 0xFFFFFFFF, 0x0, 0x0, 0x0, 0x0, false, 0⟩, /- TXF_DST_B_2 -/
   ⟨0x85C, 0x80, 16, 0xFFFFFFFF, 0x0, 0x0, 0x0, 0x0, false, 0⟩ /- TXF_DST_B_3 -/] ++
  [⟨0x860, 0x80, 16, 0x0, 0x0, 0x0, 0x0, 0x0, false, 0⟩, /- TXC_PKTS_A -/
   ⟨0x864, 0x80, 16, 0x0, 0x0, 0x0, 0x0, 0x0, false, 0⟩, /- TXC_PKTS_B -/
   ⟨0x868, 0x80, 16, 0x0, 0x0, 0x0, 0xFFFFFFFF, 0x0, false, 0⟩, /- TXC_LATE -/
   ⟨0x86C, 0x80, 16, 0x0, 0x0, 0x0, 0x0, 0x0, false, 0⟩ /- TXC_PICS -/]

/-- Registers of MTC (14_network_media.md R444). -/
def mtcRows : List RegRow :=
  [⟨0x40, 0x4, 1, 0x0, 0x0, 0x0, 0x0, 0x0, false, 0⟩, /- MTC_NS -/
   ⟨0x44, 0x4, 1, 0x0, 0x0, 0x0, 0x0, 0x0, false, 1⟩, /- MTC_SEC_LO -/
   ⟨0x48, 0x4, 1, 0x0, 0x0, 0x0, 0x0, 0x0, false, 2⟩, /- MTC_SEC_HI -/
   ⟨0x4C, 0x4, 1, 0xFFFFFFFF, 0x0, 0x0, 0x0, 0x0, false, 0⟩, /- MTC_SET_NS -/
   ⟨0x50, 0x4, 1, 0xFFFFFFFF, 0x0, 0x0, 0x0, 0x0, false, 1⟩, /- MTC_SET_SEC_LO -/
   ⟨0x54, 0x4, 1, 0xFFFF, 0x0, 0x0, 0x0, 0x0, false, 2⟩, /- MTC_SET_SEC_HI -/
   ⟨0x58, 0x4, 1, 0x0, 0x0, 0x0, 0x0, 0x0, false, 0⟩, /- MTC_CMD -/
   ⟨0x5C, 0x4, 1, 0xFFFFFFFF, 0x0, 0x0, 0x0, 0x0, false, 0⟩, /- MTC_ADJ -/
   ⟨0x60, 0x4, 1, 0xFFFFFFFF, 0x0, 0x0, 0x0, 0x0, false, 0⟩, /- MTC_RATE -/
   ⟨0x64, 0x4, 1, 0x0, 0x0, 0x0, 0x0, 0x0, false, 0⟩, /- MTC_STATUS -/
   ⟨0x68, 0x4, 1, 0x0, 0x0, 0x0, 0x0, 0x0, false, 0⟩ /- MTC_STEPS -/]

/-- The body registers of a block. -/
def blockRows : Block → List RegRow
  | .dev => devRows
  | .ckg => ckgRows
  | .rst => rstRows
  | .flt => fltRows
  | .smb => smbRows
  | .ic => icRows
  | .poolc => poolcRows
  | .poolt => pooltRows
  | .poolx => poolxRows
  | .dma => dmaRows
  | .dch => dchRows
  | .csw => cswRows
  | .ring => ringRows
  | .core => coreRows
  | .hdg => hdgRows
  | .hbm => hbmRows
  | .hbt => hbtRows
  | .cmp => cmpRows
  | .clt => cltRows
  | .tpt => tptRows
  | .tsw => tswRows
  | .trt => trtRows
  | .mpe => mpeRows
  | .mtc => mtcRows

/-! Names: the BAR0 byte offset of each register; `i` numbers the block's page (or, for pools, channels, flows and routes, the unit), `k` the register within it. -/

abbrev DEV_SERIAL_LO : Nat := 0x40
abbrev DEV_SERIAL_HI : Nat := 0x44
abbrev DEV_LINK : Nat := 0x48
abbrev DEV_HOSTCTL : Nat := 0x4C
abbrev DEV_BAR2_BASE_LO : Nat := 0x50
abbrev DEV_BAR2_BASE_HI : Nat := 0x54
abbrev DEV_LTR : Nat := 0x58
abbrev DEV_PTM_CTL : Nat := 0x5C
abbrev DEV_PTM_MTC_NS : Nat := 0x60
abbrev DEV_PTM_MTC_SEC_LO : Nat := 0x64
abbrev DEV_PTM_MTC_SEC_HI : Nat := 0x68
abbrev DEV_PTM_ROOT_LO : Nat := 0x70
abbrev DEV_PTM_ROOT_HI : Nat := 0x74
abbrev DEV_ACC_ERR : Nat := 0x78
abbrev DEV_VFBAR2 : Nat := 0x7C
abbrev DEV_RST : Nat := 0x80
abbrev DEV_VF_WIN_LO (k : Nat) : Nat := 0x100 + k * 0x8
abbrev DEV_VF_WIN_HI (k : Nat) : Nat := 0x104 + k * 0x8
abbrev CKG_SYS : Nat := 0x1040
abbrev CKG_PLLB_CFG : Nat := 0x1044
abbrev CKG_HOLD : Nat := 0x1048
abbrev CKG_SWITCHES : Nat := 0x104C
abbrev CKG_GATE_0 : Nat := 0x1050
abbrev CKG_GATE_1 : Nat := 0x1054
abbrev CKG_GATE_2 : Nat := 0x1058
abbrev CKG_GATE_3 : Nat := 0x105C
abbrev CKG_FM_CTL : Nat := 0x1060
abbrev CKG_FM_COUNT : Nat := 0x1064
abbrev RST_CAUSE : Nat := 0x2040
abbrev RST_WARM_CNT : Nat := 0x2044
abbrev RST_HIF_CNT : Nat := 0x2048
abbrev FLT_PIN_CTL : Nat := 0x3040
abbrev FLT_HIST_PTR : Nat := 0x3044
abbrev FLT_HIST_ACK : Nat := 0x3048
abbrev FLT_HIST_OVF : Nat := 0x304C
abbrev FLT_UNLOCK : Nat := 0x3050
abbrev FLT_INJ_CTL : Nat := 0x3054
abbrev FLT_INJ_SYND : Nat := 0x3058
abbrev FLT_INJ_STAT : Nat := 0x305C
abbrev FLT_PEND (k : Nat) : Nat := 0x3060 + k * 0x4
abbrev FLT_HIST_NS (k : Nat) : Nat := 0x3400 + k * 0x20
abbrev FLT_HIST_SEC_LO (k : Nat) : Nat := 0x3404 + k * 0x20
abbrev FLT_HIST_SEC_HI (k : Nat) : Nat := 0x3408 + k * 0x20
abbrev FLT_HIST_ID (k : Nat) : Nat := 0x340C + k * 0x20
abbrev FLT_HIST_DETAIL (k : Nat) : Nat := 0x3410 + k * 0x20
abbrev FLT_HIST_UPTIME_US (k : Nat) : Nat := 0x3414 + k * 0x20
abbrev FLT_HIST_SEQ (k : Nat) : Nat := 0x3418 + k * 0x20
abbrev FLT_ACT (k : Nat) : Nat := 0x3800 + k * 0x4
abbrev SMB_ID : Nat := 0x4040
abbrev SMB_REV : Nat := 0x4044
abbrev SMB_STATUS : Nat := 0x4048
abbrev SMB_TEMP_DIE : Nat := 0x404C
abbrev SMB_TEMP_HBM (k : Nat) : Nat := 0x4050 + k * 0x4
abbrev SMB_TEMP_BOARD : Nat := 0x4060
abbrev SMB_VIN_A : Nat := 0x4064
abbrev SMB_VIN_B : Nat := 0x4068
abbrev SMB_IIN_A : Nat := 0x406C
abbrev SMB_IIN_B : Nat := 0x4070
abbrev SMB_PIN : Nat := 0x4074
abbrev SMB_PIN_PEAK : Nat := 0x4078
abbrev SMB_ALARM : Nat := 0x407C
abbrev SMB_FRU_ADDR : Nat := 0x4080
abbrev SMB_FRU_DATA : Nat := 0x4084
abbrev SMB_SERIAL (k : Nat) : Nat := 0x4088 + k * 0x4
abbrev IC_CLAIM (i : Nat) : Nat := 0x8040 + i * 0x1000
abbrev IC_COMPLETE (i : Nat) : Nat := 0x8044 + i * 0x1000
abbrev IC_ACTIVE (i : Nat) : Nat := 0x8048 + i * 0x1000
abbrev IC_STATE (i : Nat) : Nat := 0x804C + i * 0x1000
abbrev IC_MSGS (i : Nat) : Nat := 0x8050 + i * 0x1000
abbrev IC_EN (i k : Nat) : Nat := 0x8100 + i * 0x1000 + k * 0x4
abbrev IC_PEND (i k : Nat) : Nat := 0x8180 + i * 0x1000 + k * 0x4
abbrev IC_MOD (i k : Nat) : Nat := 0x8400 + i * 0x1000 + k * 0x4
abbrev IC_MODCNT (i k : Nat) : Nat := 0x8800 + i * 0x1000 + k * 0x4
abbrev POOL_META_BASE_LO : Nat := 0x30040
abbrev POOL_META_BASE_HI : Nat := 0x30044
abbrev POOL_ERRLOG_HANDLE : Nat := 0x30048
abbrev POOL_ERRLOG : Nat := 0x3004C
abbrev POOL_ERRCNT : Nat := 0x30050
abbrev POOL_LEDGER_OVF : Nat := 0x30054
abbrev POOL_Q_HANDLE : Nat := 0x30058
abbrev POOL_Q_STATE : Nat := 0x3005C
abbrev POOL_CFG (i : Nat) : Nat := 0x31800 + i / 16 * 0x1000 + i % 16 * 0x80
abbrev POOL_BASE_LO (i : Nat) : Nat := 0x31804 + i / 16 * 0x1000 + i % 16 * 0x80
abbrev POOL_BASE_HI (i : Nat) : Nat := 0x31808 + i / 16 * 0x1000 + i % 16 * 0x80
abbrev POOL_COUNT (i : Nat) : Nat := 0x3180C + i / 16 * 0x1000 + i % 16 * 0x80
abbrev POOL_FIRST (i : Nat) : Nat := 0x31810 + i / 16 * 0x1000 + i % 16 * 0x80
abbrev POOL_STAT (i : Nat) : Nat := 0x31814 + i / 16 * 0x1000 + i % 16 * 0x80
abbrev POOL_FREE (i : Nat) : Nat := 0x31818 + i / 16 * 0x1000 + i % 16 * 0x80
abbrev POOL_MINFREE (i : Nat) : Nat := 0x3181C + i / 16 * 0x1000 + i % 16 * 0x80
abbrev POOL_ALLOCS (i : Nat) : Nat := 0x31820 + i / 16 * 0x1000 + i % 16 * 0x80
abbrev POOL_NONE (i : Nat) : Nat := 0x31824 + i / 16 * 0x1000 + i % 16 * 0x80
abbrev POOL_GEN (i : Nat) : Nat := 0x31828 + i / 16 * 0x1000 + i % 16 * 0x80
abbrev DMA_CHBUSY (k : Nat) : Nat := 0x40040 + k * 0x4
abbrev DMA_RINGACT (k : Nat) : Nat := 0x40048 + k * 0x4
abbrev DMA_BYTES_LO : Nat := 0x40068
abbrev DMA_BYTES_HI : Nat := 0x4006C
abbrev DMA_BADCNT : Nat := 0x40070
abbrev DCH_SRC_LO (i : Nat) : Nat := 0x41100 + i / 8 * 0x1000 + i % 8 * 0x100
abbrev DCH_SRC_HI (i : Nat) : Nat := 0x41104 + i / 8 * 0x1000 + i % 8 * 0x100
abbrev DCH_DST_LO (i : Nat) : Nat := 0x41108 + i / 8 * 0x1000 + i % 8 * 0x100
abbrev DCH_DST_HI (i : Nat) : Nat := 0x4110C + i / 8 * 0x1000 + i % 8 * 0x100
abbrev DCH_COUNT (i : Nat) : Nat := 0x41110 + i / 8 * 0x1000 + i % 8 * 0x100
abbrev DCH_CTL (i : Nat) : Nat := 0x41114 + i / 8 * 0x1000 + i % 8 * 0x100
abbrev DCH_STAT (i : Nat) : Nat := 0x41118 + i / 8 * 0x1000 + i % 8 * 0x100
abbrev DCH_DONE_BYTES (i : Nat) : Nat := 0x4111C + i / 8 * 0x1000 + i % 8 * 0x100
abbrev CSW_SEL : Nat := 0xF0040
abbrev CSW_ADDR : Nat := 0xF0044
abbrev CSW_DATA (k : Nat) : Nat := 0xF0048 + k * 0x4
abbrev CSW_PARITY : Nat := 0xF0058
abbrev CSW_SEQSTAT : Nat := 0xF005C
abbrev CSW_BANKINFO : Nat := 0xF0060
abbrev CSW_BANKVER : Nat := 0xF0064
abbrev CSW_FAULT : Nat := 0xF0068
abbrev CSW_KICK : Nat := 0xF006C
abbrev CSW_SWAP : Nat := 0xF0070
abbrev CSW_STORE_BASE_LO : Nat := 0xF0074
abbrev CSW_STORE_BASE_HI : Nat := 0xF0078
abbrev CSW_STORE : Nat := 0xF007C
abbrev CSW_CHANGEOVER : Nat := 0xF0080
abbrev CSW_KEYS : Nat := 0xF0084
abbrev CSW_REVOKE : Nat := 0xF0088
abbrev RING_CFG (i : Nat) : Nat := 0x100040 + i * 0x1000
abbrev RING_BASE_LO (i : Nat) : Nat := 0x100044 + i * 0x1000
abbrev RING_BASE_HI (i : Nat) : Nat := 0x100048 + i * 0x1000
abbrev RING_HEAD (i : Nat) : Nat := 0x10004C + i * 0x1000
abbrev RING_TAIL (i : Nat) : Nat := 0x100050 + i * 0x1000
abbrev RING_CBUF_CFG (i : Nat) : Nat := 0x100054 + i * 0x1000
abbrev RING_CBUF_BASE_LO (i : Nat) : Nat := 0x100058 + i * 0x1000
abbrev RING_CBUF_BASE_HI (i : Nat) : Nat := 0x10005C + i * 0x1000
abbrev RING_CBUF_WR (i : Nat) : Nat := 0x100060 + i * 0x1000
abbrev RING_CBUF_RD (i : Nat) : Nat := 0x100064 + i * 0x1000
abbrev RING_DONE (i : Nat) : Nat := 0x100068 + i * 0x1000
abbrev RING_BAD (i : Nat) : Nat := 0x10006C + i * 0x1000
abbrev RING_DROP (i : Nat) : Nat := 0x100070 + i * 0x1000
abbrev RING_LASTERR (i : Nat) : Nat := 0x100074 + i * 0x1000
abbrev CORE_STATE (i : Nat) : Nat := 0x200040 + i * 0x1000
abbrev CORE_SLICES (i : Nat) : Nat := 0x200044 + i * 0x1000
abbrev CORE_BUSY_LO (i : Nat) : Nat := 0x200048 + i * 0x1000
abbrev CORE_BUSY_HI (i : Nat) : Nat := 0x20004C + i * 0x1000
abbrev CORE_SWAPS (i : Nat) : Nat := 0x200050 + i * 0x1000
abbrev HDG_ROLES (i : Nat) : Nat := 0x230040 + i * 0x1000
abbrev HDG_CLKON (i : Nat) : Nat := 0x230044 + i * 0x1000
abbrev HDG_LOAD (i : Nat) : Nat := 0x230048 + i * 0x1000
abbrev HDG_SESS (i : Nat) : Nat := 0x23004C + i * 0x1000
abbrev HDG_DVFS (i : Nat) : Nat := 0x230050 + i * 0x1000
abbrev HDG_PROMOTE (i : Nat) : Nat := 0x230054 + i * 0x1000
abbrev HDG_SPARE (i : Nat) : Nat := 0x230058 + i * 0x1000
abbrev HDG_BIST (i : Nat) : Nat := 0x23005C + i * 0x1000
abbrev HDG_LASTPROMO (i : Nat) : Nat := 0x230060 + i * 0x1000
abbrev HDG_OVL (i : Nat) : Nat := 0x230064 + i * 0x1000
abbrev HDG_PERS_PIN (i : Nat) : Nat := 0x230068 + i * 0x1000
abbrev HDG_RC_HIT (i : Nat) : Nat := 0x23006C + i * 0x1000
abbrev HDG_RC_MISS (i : Nat) : Nat := 0x230070 + i * 0x1000
abbrev HBM_MAP (i : Nat) : Nat := 0x240040 + i * 0x1000
abbrev HBM_SCHED (i : Nat) : Nat := 0x240044 + i * 0x1000
abbrev HBM_TEMP (i : Nat) : Nat := 0x240048 + i * 0x1000
abbrev HBM_ECC_CE (i : Nat) : Nat := 0x24004C + i * 0x1000
abbrev HBM_ECC_UE (i : Nat) : Nat := 0x240050 + i * 0x1000
abbrev HBM_ERRLOG_ADDR_LO (i : Nat) : Nat := 0x240054 + i * 0x1000
abbrev HBM_ERRLOG_ADDR_HI (i : Nat) : Nat := 0x240058 + i * 0x1000
abbrev HBM_ERRLOG_LOC (i : Nat) : Nat := 0x24005C + i * 0x1000
abbrev HBM_ERRLOG_ROW (i : Nat) : Nat := 0x240060 + i * 0x1000
abbrev HBM_SCRUB (i : Nat) : Nat := 0x240064 + i * 0x1000
abbrev HBM_SCRUB_POS (i : Nat) : Nat := 0x240068 + i * 0x1000
abbrev HBM_PPR_ADDR_LO (i : Nat) : Nat := 0x24006C + i * 0x1000
abbrev HBM_PPR_ADDR_HI (i : Nat) : Nat := 0x240070 + i * 0x1000
abbrev HBM_PPR_CMD (i : Nat) : Nat := 0x240074 + i * 0x1000
abbrev HBM_PPR_STAT (i : Nat) : Nat := 0x240078 + i * 0x1000
abbrev HBM_RD_BYTES_LO (i : Nat) : Nat := 0x24007C + i * 0x1000
abbrev HBM_RD_BYTES_HI (i : Nat) : Nat := 0x240080 + i * 0x1000
abbrev HBM_WR_BYTES_LO (i : Nat) : Nat := 0x240084 + i * 0x1000
abbrev HBM_WR_BYTES_HI (i : Nat) : Nat := 0x240088 + i * 0x1000
abbrev HBM_INORDER (i : Nat) : Nat := 0x24008C + i * 0x1000
abbrev HBT_CTL (i : Nat) : Nat := 0x248040 + i * 0x1000
abbrev HBT_STAT (i : Nat) : Nat := 0x248044 + i * 0x1000
abbrev HBT_COUNT (i : Nat) : Nat := 0x248048 + i * 0x1000
abbrev HBT_TTRAIN (i : Nat) : Nat := 0x24804C + i * 0x1000
abbrev HBT_LAST_US (i : Nat) : Nat := 0x248050 + i * 0x1000
abbrev HBT_LANE (i k : Nat) : Nat := 0x248400 + i * 0x1000 + k * 0x4
abbrev CMP_TIMING (i : Nat) : Nat := 0x250040 + i * 0x1000
abbrev CMP_RATE (i : Nat) : Nat := 0x250044 + i * 0x1000
abbrev CMP_LINES (i : Nat) : Nat := 0x250048 + i * 0x1000
abbrev CMP_PHASE (i : Nat) : Nat := 0x25004C + i * 0x1000
abbrev CMP_CANVAS (i : Nat) : Nat := 0x250050 + i * 0x1000
abbrev CMP_OUT (i : Nat) : Nat := 0x250054 + i * 0x1000
abbrev CMP_BG_RG (i : Nat) : Nat := 0x250058 + i * 0x1000
abbrev CMP_BG_B (i : Nat) : Nat := 0x25005C + i * 0x1000
abbrev CMP_PICS (i : Nat) : Nat := 0x250060 + i * 0x1000
abbrev CMP_LATE (i : Nat) : Nat := 0x250064 + i * 0x1000
abbrev CMP_NOSRC (i : Nat) : Nat := 0x250068 + i * 0x1000
abbrev CMP_FENCE_ERR (i : Nat) : Nat := 0x25006C + i * 0x1000
abbrev CMP_REJECT (i : Nat) : Nat := 0x250070 + i * 0x1000
abbrev CMP_LIVE (i : Nat) : Nat := 0x250074 + i * 0x1000
abbrev GRP_MEMBERS (i k : Nat) : Nat := 0x250100 + i * 0x1000 + k * 0x10
abbrev GRP_CTL (i k : Nat) : Nat := 0x250104 + i * 0x1000 + k * 0x10
abbrev GRP_STAT (i k : Nat) : Nat := 0x250108 + i * 0x1000 + k * 0x10
abbrev LAYER_CTL (i k : Nat) : Nat := 0x250400 + i * 0x1000 + k * 0x40
abbrev LAYER_SRC (i k : Nat) : Nat := 0x250404 + i * 0x1000 + k * 0x40
abbrev LAYER_SRC_XY (i k : Nat) : Nat := 0x250408 + i * 0x1000 + k * 0x40
abbrev LAYER_SRC_WH (i k : Nat) : Nat := 0x25040C + i * 0x1000 + k * 0x40
abbrev LAYER_DST_XY (i k : Nat) : Nat := 0x250410 + i * 0x1000 + k * 0x40
abbrev LAYER_DST_WH (i k : Nat) : Nat := 0x250414 + i * 0x1000 + k * 0x40
abbrev LAYER_STRIDE (i k : Nat) : Nat := 0x250418 + i * 0x1000 + k * 0x40
abbrev LAYER_FENCE_CTL (i k : Nat) : Nat := 0x25041C + i * 0x1000 + k * 0x40
abbrev LAYER_FENCE_ADDR_LO (i k : Nat) : Nat := 0x250420 + i * 0x1000 + k * 0x40
abbrev LAYER_FENCE_ADDR_HI (i k : Nat) : Nat := 0x250424 + i * 0x1000 + k * 0x40
abbrev LAYER_FENCE_VAL_LO (i k : Nat) : Nat := 0x250428 + i * 0x1000 + k * 0x40
abbrev LAYER_FENCE_VAL_HI (i k : Nat) : Nat := 0x25042C + i * 0x1000 + k * 0x40
abbrev CLT_SEL (i : Nat) : Nat := 0x260040 + i * 0x1000
abbrev TPT_MODE (i : Nat) : Nat := 0x2A0040 + i * 0x1000
abbrev TPT_LINK (i : Nat) : Nat := 0x2A0044 + i * 0x1000
abbrev TPT_RETRY_CNT (i : Nat) : Nat := 0x2A0048 + i * 0x1000
abbrev TPT_FEC_CE (i : Nat) : Nat := 0x2A004C + i * 0x1000
abbrev TPT_FEC_UE (i : Nat) : Nat := 0x2A0050 + i * 0x1000
abbrev TPT_CREDIT (i k : Nat) : Nat := 0x2A0054 + i * 0x1000 + k * 0x4
abbrev TPT_PROBE_CTL (i : Nat) : Nat := 0x2A0064 + i * 0x1000
abbrev TPT_PROBE_SER_LO (i : Nat) : Nat := 0x2A0068 + i * 0x1000
abbrev TPT_PROBE_SER_HI (i : Nat) : Nat := 0x2A006C + i * 0x1000
abbrev TPT_PROBE_ANS (i : Nat) : Nat := 0x2A0070 + i * 0x1000
abbrev TPT_WIN_REJ (i : Nat) : Nat := 0x2A0074 + i * 0x1000
abbrev TPT_TX_FLITS (i : Nat) : Nat := 0x2A0078 + i * 0x1000
abbrev TPT_RX_FLITS (i : Nat) : Nat := 0x2A007C + i * 0x1000
abbrev TPT_WIN_BASE_LO (i k : Nat) : Nat := 0x2A0100 + i * 0x1000 + k * 0x10
abbrev TPT_WIN_BASE_HI (i k : Nat) : Nat := 0x2A0104 + i * 0x1000 + k * 0x10
abbrev TPT_WIN_CTL (i k : Nat) : Nat := 0x2A0108 + i * 0x1000 + k * 0x10
abbrev TSW_NODE : Nat := 0x2A8040
abbrev TSW_CFG : Nat := 0x2A8044
abbrev TSW_MEM_TIMEOUT : Nat := 0x2A8048
abbrev TSW_NOROUTE : Nat := 0x2A804C
abbrev TSW_HOPDROP : Nat := 0x2A8050
abbrev TSW_RETX : Nat := 0x2A8054
abbrev TSW_RETX_FILL : Nat := 0x2A8058
abbrev TSW_PEERLOST_NODE : Nat := 0x2A805C
abbrev ESP_CTL (k : Nat) : Nat := 0x2A8400 + k * 0x40
abbrev ESP_NODE_0 (k : Nat) : Nat := 0x2A8404 + k * 0x40
abbrev ESP_NODE_1 (k : Nat) : Nat := 0x2A8408 + k * 0x40
abbrev ESP_NODE_2 (k : Nat) : Nat := 0x2A840C + k * 0x40
abbrev ESP_NODE_3 (k : Nat) : Nat := 0x2A8410 + k * 0x40
abbrev ESP_START_0 (k : Nat) : Nat := 0x2A8414 + k * 0x40
abbrev ESP_START_1 (k : Nat) : Nat := 0x2A8418 + k * 0x40
abbrev ESP_START_2 (k : Nat) : Nat := 0x2A841C + k * 0x40
abbrev ESP_START_3 (k : Nat) : Nat := 0x2A8420 + k * 0x40
abbrev ESP_TIMEOUT (k : Nat) : Nat := 0x2A8424 + k * 0x40
abbrev ESP_STAT (k : Nat) : Nat := 0x2A8428 + k * 0x40
abbrev ESP_HALO_LATE (k : Nat) : Nat := 0x2A842C + k * 0x40
abbrev ESP_SUBST (k : Nat) : Nat := 0x2A8430 + k * 0x40
abbrev TRT_ENTRY (i : Nat) : Nat := 0x2B0800 + i / 512 * 0x1000 + i % 512 * 0x4
abbrev MPE_MAC_LO (i : Nat) : Nat := 0x2C0040 + i * 0x1000
abbrev MPE_MAC_HI (i : Nat) : Nat := 0x2C0044 + i * 0x1000
abbrev MPE_IPV4 (i : Nat) : Nat := 0x2C0048 + i * 0x1000
abbrev MPE_IPV6 (i k : Nat) : Nat := 0x2C004C + i * 0x1000 + k * 0x4
abbrev MPE_PORT_CTL (i : Nat) : Nat := 0x2C005C + i * 0x1000
abbrev MPE_HOST (i : Nat) : Nat := 0x2C0060 + i * 0x1000
abbrev MPE_HTX_HANDLE (i : Nat) : Nat := 0x2C0064 + i * 0x1000
abbrev MPE_HTX_CMD (i : Nat) : Nat := 0x2C0068 + i * 0x1000
abbrev MPE_HTX_STAT (i : Nat) : Nat := 0x2C006C + i * 0x1000
abbrev MPE_RX_FRAMES (i : Nat) : Nat := 0x2C0070 + i * 0x1000
abbrev MPE_RX_ERR (i : Nat) : Nat := 0x2C0074 + i * 0x1000
abbrev MPE_RX_HOSTDROP (i : Nat) : Nat := 0x2C0078 + i * 0x1000
abbrev MPE_RX_FILTERED (i : Nat) : Nat := 0x2C007C + i * 0x1000
abbrev MPE_TX_FRAMES (i : Nat) : Nat := 0x2C0080 + i * 0x1000
abbrev MPE_MCF_LO (i k : Nat) : Nat := 0x2C0100 + i * 0x1000 + k * 0x8
abbrev MPE_MCF_HI (i k : Nat) : Nat := 0x2C0104 + i * 0x1000 + k * 0x8
abbrev RXC_PKTS_A (i : Nat) : Nat := 0x2C0200 + i / 16 * 0x1000 + i % 16 * 0x20
abbrev RXC_PKTS_B (i : Nat) : Nat := 0x2C0204 + i / 16 * 0x1000 + i % 16 * 0x20
abbrev RXC_LOST (i : Nat) : Nat := 0x2C0208 + i / 16 * 0x1000 + i % 16 * 0x20
abbrev RXC_REPAIR (i : Nat) : Nat := 0x2C020C + i / 16 * 0x1000 + i % 16 * 0x20
abbrev RXC_LATE (i : Nat) : Nat := 0x2C0210 + i / 16 * 0x1000 + i % 16 * 0x20
abbrev RXC_BAD (i : Nat) : Nat := 0x2C0214 + i / 16 * 0x1000 + i % 16 * 0x20
abbrev RXC_SKEW (i : Nat) : Nat := 0x2C0218 + i / 16 * 0x1000 + i % 16 * 0x20
abbrev RXF_CTL (i : Nat) : Nat := 0x2C0400 + i / 16 * 0x1000 + i % 16 * 0x40
abbrev RXF_STAT (i : Nat) : Nat := 0x2C0404 + i / 16 * 0x1000 + i % 16 * 0x40
abbrev RXF_SIZE (i : Nat) : Nat := 0x2C0408 + i / 16 * 0x1000 + i % 16 * 0x40
abbrev RXF_SKEW (i : Nat) : Nat := 0x2C040C + i / 16 * 0x1000 + i % 16 * 0x40
abbrev RXF_VLAN (i : Nat) : Nat := 0x2C0410 + i / 16 * 0x1000 + i % 16 * 0x40
abbrev RXF_STRIDE (i : Nat) : Nat := 0x2C0414 + i / 16 * 0x1000 + i % 16 * 0x40
abbrev RXF_UDP (i : Nat) : Nat := 0x2C0418 + i / 16 * 0x1000 + i % 16 * 0x40
abbrev RXF_DST_A_0 (i : Nat) : Nat := 0x2C0420 + i / 16 * 0x1000 + i % 16 * 0x40
abbrev RXF_DST_A_1 (i : Nat) : Nat := 0x2C0424 + i / 16 * 0x1000 + i % 16 * 0x40
abbrev RXF_DST_A_2 (i : Nat) : Nat := 0x2C0428 + i / 16 * 0x1000 + i % 16 * 0x40
abbrev RXF_DST_A_3 (i : Nat) : Nat := 0x2C042C + i / 16 * 0x1000 + i % 16 * 0x40
abbrev RXF_DST_B_0 (i : Nat) : Nat := 0x2C0430 + i / 16 * 0x1000 + i % 16 * 0x40
abbrev RXF_DST_B_1 (i : Nat) : Nat := 0x2C0434 + i / 16 * 0x1000 + i % 16 * 0x40
abbrev RXF_DST_B_2 (i : Nat) : Nat := 0x2C0438 + i / 16 * 0x1000 + i % 16 * 0x40
abbrev RXF_DST_B_3 (i : Nat) : Nat := 0x2C043C + i / 16 * 0x1000 + i % 16 * 0x40
abbrev TXF_CTL (i : Nat) : Nat := 0x2C0800 + i / 16 * 0x1000 + i % 16 * 0x80
abbrev TXF_STAT (i : Nat) : Nat := 0x2C0804 + i / 16 * 0x1000 + i % 16 * 0x80
abbrev TXF_VLAN (i : Nat) : Nat := 0x2C0808 + i / 16 * 0x1000 + i % 16 * 0x80
abbrev TXF_PAYLOAD (i : Nat) : Nat := 0x2C080C + i / 16 * 0x1000 + i % 16 * 0x80
abbrev TXF_SSRC (i : Nat) : Nat := 0x2C0810 + i / 16 * 0x1000 + i % 16 * 0x80
abbrev TXF_SEQ (i : Nat) : Nat := 0x2C0814 + i / 16 * 0x1000 + i % 16 * 0x80
abbrev TXF_TRO (i : Nat) : Nat := 0x2C0818 + i / 16 * 0x1000 + i % 16 * 0x80
abbrev TXF_PACE (i : Nat) : Nat := 0x2C081C + i / 16 * 0x1000 + i % 16 * 0x80
abbrev TXF_UDP_SRC (i : Nat) : Nat := 0x2C0820 + i / 16 * 0x1000 + i % 16 * 0x80
abbrev TXF_UDP_DST (i : Nat) : Nat := 0x2C0824 + i / 16 * 0x1000 + i % 16 * 0x80
abbrev TXF_MAC_A_LO (i : Nat) : Nat := 0x2C0828 + i / 16 * 0x1000 + i % 16 * 0x80
abbrev TXF_MAC_A_HI (i : Nat) : Nat := 0x2C082C + i / 16 * 0x1000 + i % 16 * 0x80
abbrev TXF_MAC_B_LO (i : Nat) : Nat := 0x2C0830 + i / 16 * 0x1000 + i % 16 * 0x80
abbrev TXF_MAC_B_HI (i : Nat) : Nat := 0x2C0834 + i / 16 * 0x1000 + i % 16 * 0x80
abbrev TXF_DST_A_0 (i : Nat) : Nat := 0x2C0840 + i / 16 * 0x1000 + i % 16 * 0x80
abbrev TXF_DST_A_1 (i : Nat) : Nat := 0x2C0844 + i / 16 * 0x1000 + i % 16 * 0x80
abbrev TXF_DST_A_2 (i : Nat) : Nat := 0x2C0848 + i / 16 * 0x1000 + i % 16 * 0x80
abbrev TXF_DST_A_3 (i : Nat) : Nat := 0x2C084C + i / 16 * 0x1000 + i % 16 * 0x80
abbrev TXF_DST_B_0 (i : Nat) : Nat := 0x2C0850 + i / 16 * 0x1000 + i % 16 * 0x80
abbrev TXF_DST_B_1 (i : Nat) : Nat := 0x2C0854 + i / 16 * 0x1000 + i % 16 * 0x80
abbrev TXF_DST_B_2 (i : Nat) : Nat := 0x2C0858 + i / 16 * 0x1000 + i % 16 * 0x80
abbrev TXF_DST_B_3 (i : Nat) : Nat := 0x2C085C + i / 16 * 0x1000 + i % 16 * 0x80
abbrev TXC_PKTS_A (i : Nat) : Nat := 0x2C0860 + i / 16 * 0x1000 + i % 16 * 0x80
abbrev TXC_PKTS_B (i : Nat) : Nat := 0x2C0864 + i / 16 * 0x1000 + i % 16 * 0x80
abbrev TXC_LATE (i : Nat) : Nat := 0x2C0868 + i / 16 * 0x1000 + i % 16 * 0x80
abbrev TXC_PICS (i : Nat) : Nat := 0x2C086C + i / 16 * 0x1000 + i % 16 * 0x80
abbrev MTC_NS : Nat := 0x2C8040
abbrev MTC_SEC_LO : Nat := 0x2C8044
abbrev MTC_SEC_HI : Nat := 0x2C8048
abbrev MTC_SET_NS : Nat := 0x2C804C
abbrev MTC_SET_SEC_LO : Nat := 0x2C8050
abbrev MTC_SET_SEC_HI : Nat := 0x2C8054
abbrev MTC_CMD : Nat := 0x2C8058
abbrev MTC_ADJ : Nat := 0x2C805C
abbrev MTC_RATE : Nat := 0x2C8060
abbrev MTC_STATUS : Nat := 0x2C8064
abbrev MTC_STEPS : Nat := 0x2C8068

end Sys2Proof.Machine
end

