-- ==== Sys2Proof/Machine/Ops.lean ====
section
/-! DEFINITION. The named operations over State that every family uses: registers by BAR0 offset, events, memory, the tables of numbered units, free values, time, and the record of a fault (R525). -/

namespace Sys2Proof.Machine

abbrev Out := Host.Outcome State Fault Refusal

/-! Offsets of the common page header (R54). -/

def pg (p off : Nat) : Nat := p * 0x1000 + off
abbrev hID (p : Nat) : Nat := p * 0x1000
abbrev hCAP (p : Nat) : Nat := p * 0x1000 + 0x4
abbrev hCTL (p : Nat) : Nat := p * 0x1000 + 0x8
abbrev hSTAT (p : Nat) : Nat := p * 0x1000 + 0xC
abbrev hEVT (p : Nat) : Nat := p * 0x1000 + 0x10
abbrev hEVTEN (p : Nat) : Nat := p * 0x1000 + 0x14
abbrev hEVTSET (p : Nat) : Nat := p * 0x1000 + 0x18
abbrev hSYND (p : Nat) : Nat := p * 0x1000 + 0x1C

/-! Pages. -/

abbrev pgDEV : Nat := 0
abbrev pgCKG : Nat := 1
abbrev pgRST : Nat := 2
abbrev pgFLT : Nat := 3
abbrev pgSMB : Nat := 4
abbrev pgIC (i : Nat) : Nat := 0x008 + i
abbrev pgPOOL : Nat := 0x030
abbrev pgCSW : Nat := 0x0F0
abbrev pgRING (r : Nat) : Nat := 0x100 + r
abbrev pgCORE (c : Nat) : Nat := 0x200 + c
abbrev pgHDG (h : Nat) : Nat := 0x230 + h
abbrev pgHBM (i : Nat) : Nat := 0x240 + i
abbrev pgHBT (i : Nat) : Nat := 0x248 + i
abbrev pgCMP (p : Nat) : Nat := 0x250 + p
abbrev pgTPT (n : Nat) : Nat := 0x2A0 + n
abbrev pgTSW : Nat := 0x2A8
abbrev pgTRT : Nat := 0x2B0
abbrev pgMPE (n : Nat) : Nat := 0x2C0 + n
abbrev pgMTC : Nat := 0x2C8

/-- The row of R578 a page stands in, with its place in the row. -/
def pageInfo (p : Nat) : Option (PageRow × Nat) :=
  match pageRows.find? fun r => decide (r.first ≤ p ∧ p < r.first + r.count) with
  | some r => some (r, p - r.first)
  | none => none

/-- Whether a register row holds an offset of its page. -/
def RegRow.has (r : RegRow) (off : Nat) : Bool :=
  decide (r.off ≤ off) && decide ((off - r.off) % r.stride = 0) && decide ((off - r.off) / r.stride < r.count)

/-- The register row at an offset of a block's page. -/
def rowAt (b : Block) (off : Nat) : Option RegRow := (blockRows b).find? (·.has off)

/-- Class of a fault source (R524; R523): 0 CORRECTED, 1 DEFERRED, 2 CONTAINED, 3 FATAL. -/
def fltClass (n : Nat) : Nat :=
  if n = 0 then 0
  else if n ≤ 72 then 2
  else if n ≤ 112 then 0
  else if n ≤ 116 then 1
  else if n ≤ 120 then 2
  else if n ≤ 124 then 0
  else if n = 125 then 2
  else if n ≤ 129 then 0
  else if n ≤ 133 then 1
  else if n ≤ 137 then 0
  else if n ≤ 141 then 1
  else if n ≤ 145 then 0
  else if n ≤ 149 then 2
  else if n ≤ 153 then 3
  else if n ≤ 161 then 0
  else if n ≤ 169 then 2
  else if n ≤ 177 then 1
  else if n = 178 then 0
  else if n = 179 then 1
  else if n = 180 then 2
  else if n = 181 then 1
  else if n = 182 then 0
  else if n = 183 then 3
  else if n = 184 then 2
  else if n ≤ 189 then 0
  else if n = 190 then 2
  else if n = 191 then 3
  else if n ≤ 194 then 0
  else if n = 195 then 2
  else 0

/-- Action bits of a fault source at reset: L 1, I 2, N 4, R 8, P 16 (R524). -/
def fltActions (n : Nat) : Nat :=
  if n = 0 then 0
  else if n ≤ 72 then 0x11
  else if n ≤ 112 then 0
  else if n ≤ 120 then 3
  else if n ≤ 124 then 0
  else if n = 125 then 3
  else if n ≤ 129 then 0
  else if n ≤ 133 then 3
  else if n ≤ 137 then 0
  else if n ≤ 145 then 3
  else if n ≤ 149 then 7
  else if n ≤ 153 then 0xD
  else if n ≤ 161 then 0
  else if n ≤ 169 then 3
  else if n ≤ 177 then 1
  else if n = 178 then 0
  else if n = 179 then 3
  else if n = 180 then 1
  else if n = 181 then 3
  else if n = 182 then 0
  else if n = 183 then 0xD
  else if n = 184 then 3
  else if n = 185 then 0
  else if n ≤ 187 then 3
  else if n = 188 then 0
  else if n = 189 then 7
  else if n = 190 then 3
  else if n = 191 then 0xD
  else if n ≤ 193 then 7
  else if n = 194 then 3
  else if n = 195 then 7
  else 0

/-- Whether a source is ever raised (R524: not 0, not 197 to 255). -/
def fltRaised (n : Nat) : Bool := decide (0 < n ∧ n < 197)

/-- Reset value of every register by BAR0 offset (R10, R578, R580, the block tables). -/
def regDefault (a : Nat) : W32 :=
  match pageInfo (a / 0x1000) with
  | none => 0
  | some (r, i) =>
    let off := a % 0x1000
    if off < 0x40 then
      match off with
      | 0x0 => BitVec.ofNat 32 (r.typ <<< 16 ||| (r.inst + i) <<< 8)
      | 0x4 =>
        if r.block = .core then BitVec.ofNat 32 (r.cap + 16 * (i % 9) + i / 9) else BitVec.ofNat 32 r.cap
      | 0x8 =>
        match r.mode with
        | .one => if r.block = .hbm ∨ r.block = .hbt then 0 else 1
        | .hdg => 1
        | _ => 0
      | 0x1C => 0x00FF0000
      | _ => 0
    else if r.block = .flt ∧ 0x800 ≤ off ∧ off < 0xC00 then
      let n := (off - 0x800) / 4
      BitVec.ofNat 32 (fltClass n <<< 8 ||| fltActions n)
    else
      match rowAt r.block off with
      | some row => BitVec.ofNat 32 row.reset
      | none => 0

/-- The stored value of the register at BAR0 offset `a`. -/
def State.reg (s : State) (a : Nat) : W32 := tabGet regDefault s.regs a

/-- The state with the register at BAR0 offset `a` holding `v`. -/
def State.setReg (s : State) (a : Nat) (v : W32) : State :=
  { s with regs := tabPut regDefault s.regs a v }

def State.f (s : State) (a hi lo : Nat) : Nat := fld (s.reg a) hi lo
def State.bit (s : State) (a i : Nat) : Bool := bitAt (s.reg a) i
def State.setF (s : State) (a hi lo v : Nat) : State := s.setReg a (setFld (s.reg a) hi lo v)
def State.setB (s : State) (a i : Nat) (b : Bool) : State := s.setReg a (setBit (s.reg a) i b)
/-- A wrapping 32-bit counter. -/
def State.inc (s : State) (a : Nat) (n : Nat := 1) : State := s.setReg a (s.reg a + BitVec.ofNat 32 n)
/-- A wrapping counter in field [hi:lo]. -/
def State.incF (s : State) (a hi lo : Nat) (n : Nat := 1) : State := s.setF a hi lo (s.f a hi lo + n)
/-- A saturating counter in field [hi:lo]. -/
def State.satF (s : State) (a hi lo : Nat) (n : Nat := 1) : State :=
  s.setF a hi lo (min (s.f a hi lo + n) (2 ^ (hi + 1 - lo) - 1))
/-- A 64-bit quantity in two registers. -/
def State.pair (s : State) (lo hi : Nat) : Nat := (s.reg lo).toNat + 2 ^ 32 * (s.reg hi).toNat
def State.setPair (s : State) (lo hi v : Nat) : State :=
  (s.setReg lo (BitVec.ofNat 32 v)).setReg hi (BitVec.ofNat 32 (v / 2 ^ 32))

/-- An event of page `p`: bit `b` of its EVT_STAT is set (R54). -/
def State.event (s : State) (p b : Nat) : State := s.setB (hEVT p) b true

/-- Something leaves the module. -/
def State.emit (s : State) (o : Output) : State := { s with outbox := s.outbox ++ [o] }

/-- Run an operation over a list, left to right. -/
def State.each {α : Type} (s : State) (l : List α) (f : State → α → State) : State := l.foldl f s

/-- Do something only when a condition holds. -/
def State.whenB (s : State) (c : Bool) (f : State → State) : State := if c then f s else s

/-! Free values: each draw takes the next number. -/

def State.draw (s : State) : State := { s with fresh := s.fresh + 1 }
def State.freeWord (s : State) : W32 := Config.freeWord s.fresh
def State.freeBool (s : State) : Bool := Config.freeBool s.fresh

/-! The tables of numbered units. -/

def State.fn (s : State) (k : Nat) : Func := tabGet (fun _ => {}) s.hif.funcs k
def State.setFn (s : State) (k : Nat) (x : Func) : State :=
  { s with hif := { s.hif with funcs := tabPut (fun _ => {}) s.hif.funcs k x } }
def State.ring (s : State) (r : Nat) : Ring := tabGet (fun _ => {}) s.rings r
def State.setRing (s : State) (r : Nat) (x : Ring) : State := { s with rings := tabPut (fun _ => {}) s.rings r x }
def State.pool (s : State) (p : Nat) : Pool := tabGet (fun _ => {}) s.pools p
def State.setPool (s : State) (p : Nat) (x : Pool) : State := { s with pools := tabPut (fun _ => {}) s.pools p x }
def State.buf (s : State) (k : Nat) : Buf := tabGet (fun _ => {}) s.bufs k
def State.setBuf (s : State) (k : Nat) (x : Buf) : State := { s with bufs := tabPut (fun _ => {}) s.bufs k x }
def State.sess (s : State) (n : Nat) : Sess := tabGet (fun _ => {}) s.sessions n
def State.setSess (s : State) (n : Nat) (x : Sess) : State := { s with sessions := tabPut (fun _ => {}) s.sessions n x }
def State.core (s : State) (c : Nat) : Core := tabGet (fun _ => {}) s.cores c
def State.setCore (s : State) (c : Nat) (x : Core) : State := { s with cores := tabPut (fun _ => {}) s.cores c x }
def State.hedge (s : State) (h : Nat) : Hedge := tabGet (fun _ => {}) s.hedges h
def State.setHedge (s : State) (h : Nat) (x : Hedge) : State := { s with hedges := tabPut (fun _ => {}) s.hedges h x }
def State.seq (s : State) (q : Nat) : Seqr := tabGet (fun _ => {}) s.seqs q
def State.setSeq (s : State) (q : Nat) (x : Seqr) : State := { s with seqs := tabPut (fun _ => {}) s.seqs q x }
/-- Event `e` of sequencer `q` is latched; a repeat merges (R391). -/
def State.latch (s : State) (q e : Nat) : State := s.setSeq q { s.seq q with pend := (s.seq q).pend ||| BitVec.ofNat 16 (1 <<< e) }
def State.pipe (s : State) (p : Nat) : Pipe := tabGet (fun _ => {}) s.pipes p
def State.setPipe (s : State) (p : Nat) (x : Pipe) : State := { s with pipes := tabPut (fun _ => {}) s.pipes p x }
def State.stack (s : State) (i : Nat) : Stack := tabGet (fun _ => {}) s.hbmStacks i
def State.setStack (s : State) (i : Nat) (x : Stack) : State := { s with hbmStacks := tabPut (fun _ => {}) s.hbmStacks i x }
def State.pch (s : State) (i : Nat) : Pch := tabGet (fun _ => {}) s.pchs i
def State.setPch (s : State) (i : Nat) (x : Pch) : State := { s with pchs := tabPut (fun _ => {}) s.pchs i x }
def State.rxf (s : State) (f : Nat) : RxFlow := tabGet (fun _ => {}) s.rxFlows f
def State.setRxf (s : State) (f : Nat) (x : RxFlow) : State := { s with rxFlows := tabPut (fun _ => {}) s.rxFlows f x }
def State.txf (s : State) (f : Nat) : TxFlow := tabGet (fun _ => {}) s.txFlows f
def State.setTxf (s : State) (f : Nat) (x : TxFlow) : State := { s with txFlows := tabPut (fun _ => {}) s.txFlows f x }
def State.htxq (s : State) (n : Nat) : List HtxEntry := tabGet (fun _ => []) s.htx n
def State.setHtxq (s : State) (n : Nat) (x : List HtxEntry) : State := { s with htx := tabPut (fun _ => []) s.htx n x }
def State.port (s : State) (n : Nat) : Port := tabGet (fun _ => {}) s.ports n
def State.setPort (s : State) (n : Nat) (x : Port) : State := { s with ports := tabPut (fun _ => {}) s.ports n x }
def State.e2eOf (s : State) (node vc : Nat) : E2e := tabGet (fun _ => {}) s.e2e (node * 4 + vc)
def State.setE2e (s : State) (node vc : Nat) (x : E2e) : State :=
  { s with e2e := tabPut (fun _ => {}) s.e2e (node * 4 + vc) x }
def State.esp (s : State) (g : Nat) : Esp := tabGet (fun _ => {}) s.esps g
def State.setEsp (s : State) (g : Nat) (x : Esp) : State := { s with esps := tabPut (fun _ => {}) s.esps g x }
def State.chan (s : State) (c : Nat) : Option Chan := tabGet (fun _ => none) s.chans c
def State.setChan (s : State) (c : Nat) (x : Option Chan) : State := { s with chans := tabPut (fun _ => none) s.chans c x }

/-! Clocks, gates and resets as every access sees them. -/

/-- The synthesized clocks run (R499: ON_A or ON_B). -/
def State.running (s : State) : Bool := s.clock.st == .onA || s.clock.st == .onB

/-- The blocks take work: the clocks run and no warm reset has begun, from whose start every block is QUIESCING (R499, R510). -/
def State.clocked (s : State) : Bool := s.running && s.resetReq.isNone

/-- What an agent is answered while no block takes work: nothing without a clock, ABORT_RESET from the start of a warm reset (R499, R510). -/
def State.quiet (s : State) (a : Nat) : State :=
  if s.running then { s with outbox := s.outbox ++ [.resp a .abortReset []] } else s

/-- CKG_GATE bit of a domain: it runs (R506). -/
def State.domainOn (s : State) (d : Nat) : Bool := bitAt (s.reg (CKG_GATE_0 + 4 * (d / 32))) (d % 32)

def State.setDomain (s : State) (d : Nat) (on : Bool) : State :=
  s.setB (CKG_GATE_0 + 4 * (d / 32)) (d % 32) on

/-- The domain whose gating empties a page (R578). -/
def pageDomain (p : Nat) : Option Nat :=
  if 0x200 ≤ p ∧ p < 0x224 then some (p - 0x200)
  else if 0x250 ≤ p ∧ p < 0x254 then some (41 + (p - 0x250))
  else if 0x260 ≤ p ∧ p < 0x2A0 then some (41 + (p - 0x260) / 16)
  else if 0x2A0 ≤ p ∧ p < 0x2A8 then some (73 + (p - 0x2A0))
  else if p = 0x2A8 then some 81
  else if 0x2B0 ≤ p ∧ p < 0x2B8 then some 81
  else if 0x2C0 ≤ p ∧ p < 0x2C8 then some (91 + (p - 0x2C0))
  else none

/-- Whether a page's domain is gated. -/
def State.gated (s : State) (p : Nat) : Bool :=
  match pageDomain p with
  | some d => !s.domainOn d
  | none => false

/-- RESET_BUSY of a page (R54, R533). -/
def State.busy (s : State) (p : Nat) : Bool := tabGet (fun _ => false) s.resetting p
def State.setBusy (s : State) (p : Nat) (b : Bool) : State :=
  { s with resetting := tabPut (fun _ => false) s.resetting p b }

/-- A drain or abort of a page runs (R55, R301). -/
def State.inDrain (s : State) (p : Nat) : Bool := tabGet (fun _ => false) s.draining p
def State.setDrain (s : State) (p : Nat) (b : Bool) : State :=
  { s with draining := tabPut (fun _ => false) s.draining p b }

/-- Return the registers selected by `keep = false` on pages [first, first + n) to their reset values: an entry stays only where `keep` holds (R10, R509). -/
def State.clearRegs (s : State) (first n : Nat) (keep : Nat → Bool) : State :=
  { s with regs := s.regs.filter fun e =>
      !(decide (first ≤ e.1 / 0x1000 ∧ e.1 / 0x1000 < first + n)) || keep e.1 }

/-- Whether the table marks a register as kept across warm reset (R509). -/
def keptWarm (a : Nat) : Bool :=
  match pageInfo (a / 0x1000) with
  | none => false
  | some (r, _) =>
    match rowAt r.block (a % 0x1000) with
    | some row => row.keep
    | none => false

/-! Memory. HBM bytes are kept by their place in the stacks, which the address map of R350 and R351 gives, so that a change of HBM_MAP leaves the physical contents and moves the addresses (R352). -/

abbrev GiB : Nat := 2 ^ 30

/-- Capacity of one stack in GiB (R349). -/
def State.stackGiB (s : State) : Nat :=
  match s.variant with
  | .e96 => 24
  | .e144 => 36

/-- Bytes of HBM (R17). -/
def State.hbmSize (s : State) : Nat := 4 * s.stackGiB * GiB

/-- AFF_GIB in force (R352). -/
def State.affGiB (s : State) : Nat := s.f (HBM_MAP 0) 5 0

/-- PCX7 of granule `g` (R351). -/
def pcx7 (g : Nat) : Nat := (g ^^^ (g >>> 7) ^^^ (g >>> 14) ^^^ (g >>> 21) ^^^ (g >>> 28)) % 128

/-- PCX5 of granule `g` of an affine region (R351). -/
def pcx5 (g : Nat) : Nat :=
  (g ^^^ (g >>> 5) ^^^ (g >>> 10) ^^^ (g >>> 15) ^^^ (g >>> 20) ^^^ (g >>> 25)) % 32

/-- Where a local address lies: pseudo-channel 0-127 (stack in [6:5]) and offset in it, for stacks of `c` GiB with `aff` affine (R350, R351). -/
def hbmPlace (c aff a : Nat) : Nat × Nat :=
  if a < 4 * (c - aff) * GiB then
    let g := a / 256
    (pcx7 g, g / 128 * 256 + a % 256)
  else
    let b := a - 4 * (c - aff) * GiB
    let g := b % (aff * GiB) / 256
    (b / (aff * GiB) * 32 + pcx5 g, (c - aff) * GiB / 32 + g / 32 * 256 + a % 256)

/-- The cell of a local address: pseudo-channel times its size, plus the offset. -/
def State.cell (s : State) (a : Nat) : Nat :=
  let p := hbmPlace s.stackGiB s.affGiB a
  p.1 * (s.stackGiB * GiB / 32) + p.2

/-- The stack that serves a local address (R350). -/
def State.stackOf (s : State) (a : Nat) : Nat := (hbmPlace s.stackGiB s.affGiB a).1 / 32

/-- The local address of a cell's place in the stacks: the inverse of `hbmPlace` (R351: every address maps to exactly one location). -/
def hbmAddr (c aff p off : Nat) : Nat :=
  let cut := (c - aff) * GiB / 32
  if off < cut then
    let g := off / 256 * 128
    (g + (p ^^^ pcx7 g)) * 256 + off % 256
  else
    let g := (off - cut) / 256 * 32
    4 * (c - aff) * GiB + p / 32 * (aff * GiB) + (g + (p % 32 ^^^ pcx5 g)) * 256 + off % 256

/-- Where a sector lies: stack, PCX, SID, BANK and ROW; rows of 1 KiB rotate over banks, then over stack IDs (R351). -/
structure HbmLoc where
  stack : Nat
  pcx : Nat
  sid : Nat
  bank : Nat
  row : Nat
  deriving DecidableEq, Repr

/-- Location of the cell `x`. -/
def State.locOf (s : State) (x : Nat) : HbmLoc :=
  let size := s.stackGiB * GiB / 32
  let r := x % size / 1024
  { stack := x / size / 32, pcx := x / size % 32, sid := r / Config.hbmBanks % Config.hbmSids, bank := r % Config.hbmBanks,
    row := r / Config.hbmBanks / Config.hbmSids }

/-- What an unlisted byte of HBM or of host memory reads as (DESIGN CHOICE, log entry 3). -/
def memDefault : Nat → Byte := fun _ => 0

/-- What an unlisted byte of HBM reads as: as memory after power-on, or an open byte in a stack whose contents were lost (R363). -/
def State.hbmDefault (s : State) (x : Nat) : Byte :=
  match tabGet (fun _ => 0) s.memSeed (x / (s.stackGiB * GiB)) with
  | 0 => memDefault x
  | n + 1 => Config.freeByte (n + x)

/-- The same of the poison tags. -/
def State.poisonDefault (s : State) (k : Nat) : Bool :=
  match tabGet (fun _ => 0) s.memSeed (k * 32 / (s.stackGiB * GiB)) with
  | 0 => false
  | n + 1 => Config.freeBool (n + k)

/-- The HBM byte at a local address. -/
def State.hbmByte (s : State) (a : Nat) : Byte := tabGet s.hbmDefault s.hbm (s.cell a)
/-- `n` bytes of HBM from a local address. -/
def State.hbmBytes (s : State) (a n : Nat) : List Byte := (span a n).map s.hbmByte
def State.setHbmByte (s : State) (a : Nat) (b : Byte) : State :=
  { s with hbm := tabPut s.hbmDefault s.hbm (s.cell a) b }
/-- Whether a FLIP2 injection waits in a sector, whose next read finds it uncorrectable (R539). -/
def State.flipped (s : State) (k : Nat) : Bool :=
  match s.inject with
  | some (_, 2, some j) => j == k
  | _ => false

/-- Poison of the 32-byte sector that holds a local address, as a read finds it (R364, R365). -/
def State.poisonAt (s : State) (a : Nat) : Bool := tabGet s.poisonDefault s.poison (s.cell a / 32) || s.flipped (s.cell a / 32)
def State.setPoison (s : State) (a : Nat) (b : Bool) : State :=
  { s with poison := tabPut s.poisonDefault s.poison (s.cell a / 32) b }

/-- The sectors a range touches, by their first addresses. -/
def sectors (a n : Nat) : List Nat := if n = 0 then [] else (span (a / 32) ((a + n - 1) / 32 + 1 - a / 32)).map (· * 32)

/-- Whether a read of a range meets a poisoned sector: the response is OK_POISON (R19, R364). -/
def State.poisoned (s : State) (a n : Nat) : Bool := (sectors a n).any s.poisonAt

/-- Write bytes one after another at increasing addresses. -/
def State.storeHbm (s : State) (a : Nat) : List Byte → State
  | [] => s
  | b :: bs => (s.setHbmByte a b).storeHbm (a + 1) bs

/-- The tags of a write: a poisoned write sets the tag of each sector it touches; a clean write clears the tag of each sector it covers whole and keeps the others (R365, R293). -/
def State.writeTags (s : State) (a n : Nat) (pois : Bool) : State :=
  s.each (sectors a n) fun t b =>
    if pois then t.setPoison b true
    else if a ≤ b ∧ b + 32 ≤ a + n then t.setPoison b false else t

/-- Count bytes that a read moves, by stack (R370 HBM_RD_BYTES). -/
def State.countHbm (s : State) (lo hi : Nat → Nat) (a n : Nat) : State :=
  s.each (span 0 4) fun t i =>
    let k := ((span a n).filter fun x => s.stackOf x == i).length
    if k = 0 then t else t.setPair (lo i) (hi i) ((t.pair (lo i) (hi i) + k) % 2 ^ 64)

/-- The host's byte at an address. -/
def State.hostByte (s : State) (a : Nat) : Byte := tabGet memDefault s.host a
def State.hostBytes (s : State) (a n : Nat) : List Byte := (span a n).map s.hostByte
def State.hostWrite (s : State) (a : Nat) : List Byte → State
  | [] => s
  | b :: bs => { s with host := tabPut memDefault s.host a b }.hostWrite (a + 1) bs

/-- Whether a range lies in HBM (R17). -/
def State.inHbm (s : State) (a n : Nat) : Bool := decide (a + n ≤ s.hbmSize)

/-! Time (R22, R423, R530). -/

/-- The media time counter runs (MTC CTL.EN; R423). -/
def State.mtcOn (s : State) : Bool := s.bit (hCTL pgMTC) 0

/-- PTP time as a number of nanoseconds. -/
def PtpTime.nat (t : PtpTime) : Nat := t.sec.toNat * 1000000000 + t.ns.toNat

/-- PTP time from a number of nanoseconds. -/
def PtpTime.ofNat (n : Nat) : PtpTime :=
  { sec := BitVec.ofNat 48 (n / 1000000000), ns := BitVec.ofNat 32 (n % 1000000000) }

/-- The host's function of a ring or an access. -/
def State.d0 (s : State) (k : Nat) : Bool := !(s.fn k).d3

/-- Whether the function's host memory can be reached: in D0, Bus Master Enable set, link up (R43, R61, R284). -/
def State.hostReach (s : State) (k : Nat) : Bool := s.d0 k && (s.fn k).bme && s.hif.linkUp

/-! The record of a fault (R525). -/

/-- The page whose FLT_SYND and STAT.FAULT a source concerns (R524, R525 step 2; DEDUCED for 178 to 180 DEV, 186 to 191 CKG, 192 to 196 SMB). -/
def fltPage (n : Nat) : Option Nat :=
  if n = 0 then none
  else if n ≤ 36 then some (pgCORE (n - 1))
  else if n ≤ 72 then some (pgCORE (n - 37))
  else if n ≤ 108 then some (pgCORE (n - 73))
  else if n ≤ 112 then some (pgHDG (n - 109))
  else if n ≤ 116 then some (pgHDG (n - 113))
  else if n ≤ 120 then some (pgHDG (n - 117))
  else if n ≤ 124 then some (pgHDG (n - 121))
  else if n = 125 then some pgCSW
  else if n ≤ 129 then some (pgCMP (n - 126))
  else if n ≤ 133 then some (pgCMP (n - 130))
  else if n ≤ 137 then some (pgHBM (n - 134))
  else if n ≤ 141 then some (pgHBM (n - 138))
  else if n ≤ 145 then some (pgHBT (n - 142))
  else if n ≤ 149 then some (pgHBT (n - 146))
  else if n ≤ 153 then some (pgHBM (n - 150))
  else if n ≤ 161 then some (pgTPT (n - 154))
  else if n ≤ 169 then some (pgTPT (n - 162))
  else if n ≤ 177 then some (pgMPE (n - 170))
  else if n ≤ 180 then some pgDEV
  else if n = 181 then some 0x040
  else if n ≤ 183 then none
  else if n ≤ 185 then some pgPOOL
  else if n ≤ 191 then some pgCKG
  else if n ≤ 196 then some pgSMB
  else none

/-- SEQ after `n`: 65,535 is followed by 1 (R529). -/
def seqAfter (n : Nat) : Nat := if n = 65535 then 1 else n + 1

/-- How many entries ago a SEQ was issued; 0 names no entry and lies before all (R529). -/
def State.seqAge (s : State) (q : Nat) : Nat :=
  if q = 0 then 65536 else (s.f FLT_HIST_PTR 31 16 + 65535 - 1 - q) % 65535

/-- Whether the history entry in slot `i` is unread: its SEQ lies after FLT_HIST_ACK (R529). -/
def State.histUnread (s : State) (i : Nat) : Bool :=
  let q := s.f (FLT_HIST_SEQ i) 15 0
  q != 0 && decide (s.seqAge q < s.seqAge (s.f FLT_HIST_ACK 15 0))

/-- Write a history entry (R529, R530, R542). -/
def State.histWrite (s : State) (src agent code : Nat) (detail : W32) : State :=
  let i := s.f FLT_HIST_PTR 4 0
  let q := s.f FLT_HIST_PTR 31 16
  let s := s.whenB (s.histUnread i) fun s => (s.satF FLT_HIST_OVF 31 0).event pgFLT 1
  let t := if s.mtcOn then s.mtc.time else {}
  let s := s.setReg (FLT_HIST_NS i) t.ns
  let s := s.setReg (FLT_HIST_SEC_LO i) (BitVec.ofNat 32 t.sec.toNat)
  let s := s.setReg (FLT_HIST_SEC_HI i) (BitVec.ofNat 32 (t.sec.toNat / 2 ^ 32 + b2n s.mtcOn <<< 16))
  let s := s.setReg (FLT_HIST_ID i) (BitVec.ofNat 32 (fltClass src <<< 24 ||| code <<< 16 ||| agent <<< 8 ||| src))
  let s := s.setReg (FLT_HIST_DETAIL i) detail
  let s := s.setReg (FLT_HIST_UPTIME_US i) s.uptime
  let s := s.setReg (FLT_HIST_SEQ i) (BitVec.ofNat 32 q)
  let s := s.setReg FLT_HIST_PTR (BitVec.ofNat 32 (seqAfter q <<< 16 ||| (i + 1) % 32))
  { s with histTotal := s.histTotal + 1 }

/-- The syndrome of the raising block, if none is held (R525 step 2). -/
def State.syndrome (s : State) (src agent code : Nat) : State :=
  match fltPage src with
  | none => s
  | some p =>
    if s.bit (hSYND p) 31 then s
    else s.setReg (hSYND p) (BitVec.ofNat 32 (1 <<< 31 ||| agent <<< 16 ||| code <<< 8 ||| src))

/-- FAULT_N for a raise with action N (R531): a pulse if armed, which disarms. -/
def State.pinPulse (s : State) : State :=
  if s.bit FLT_PIN_CTL 1 then
    let s := (s.setB FLT_PIN_CTL 1 false).event pgFLT 2
    { s with power := { s.power with pulse := true } }
  else s

/-- Pages that a block reset of the page takes together (R585: the pool manager's sixteen). -/
def resetPages (p : Nat) : List Nat := if 0x30 ≤ p ∧ p < 0x40 then span 0x30 16 else [p]

/-- A warm reset is asked for: kept for the restart while no synthesized clock runs; a second request during one is merged (R510, R519, R543). -/
def State.askReset (s : State) (cause : Nat) : State :=
  if s.running then
    if s.resetReq.isSome then s else { s with resetReq := some cause }
  else if s.clock.heldReset.isSome then s
  else { s with clock := { s.clock with heldReset := some cause } }

/-- Step 5 of R525 for R: a CONTAINED source starts the reset of its block, a FATAL one a warm reset with cause 5 (R526, R534). The sources of DEV, CKG and SMB name no block that a host can reset (log entry 17). -/
def State.rAction (s : State) (src : Nat) : State :=
  if fltClass src = 3 then s.askReset 5
  else if fltClass src = 2 ∧ 72 < src ∧ s.bit (FLT_ACT src) 3 then
    match fltPage src with
    | some p => if p = pgDEV ∨ p = pgCKG ∨ p = pgSMB ∨ p = pgCSW then s else s.each (resetPages p) fun t q => t.setBusy q true
    | none => s
  else s

/-- A raise of a source: R525, but for a promotion and the end of an injection, which Faults adds. -/
def State.noteFault (s : State) (src agent code : Nat) (detail : W32 := 0) : State :=
  if !fltRaised src then s
  else
    let s := s.incF (FLT_ACT src) 31 16
    let act := s.f (FLT_ACT src) 4 0
    let s := s.whenB (fltClass src == 2) fun s =>
      match fltPage src with
      | some p => s.setB (hSTAT p) 2 true
      | none => s
    if act = 0 then s
    else
      let s := s.latch 40 0
      let s := s.whenB (act.testBit 0) fun s => s.histWrite src agent code detail
      let s := s.syndrome src agent code
      let s := s.whenB (act.testBit 1) fun s => (s.setB (FLT_PEND (src / 32)) (src % 32) true).event pgFLT 0
      let s := s.whenB (act.testBit 2) State.pinPulse
      s.rAction src

/-! HBM accesses as the controllers serve them, with their corrections (R359, R364, R365) and an injection that fires (R539). -/

/-- An injection is spent: DONE is set and GO falls (R539, R541). -/
def State.injectSpent (s : State) : State :=
  (({ s with inject := none }).setB FLT_INJ_STAT 1 true).setB FLT_INJ_CTL 16 false

/-- DETAIL of an HBM source (R542). -/
def HbmLoc.detail (l : HbmLoc) : W32 := BitVec.ofNat 32 (l.pcx ||| (l.sid % 4) <<< 5 ||| (l.bank % 64) <<< 7 ||| (l.row % 2 ^ 18) <<< 13)

/-- A corrected sector (R364). -/
def State.corrected (s : State) (k : Nat) : State :=
  let l := s.locOf (k * 32)
  ((s.satF (HBM_ECC_CE l.stack) 31 0).event (pgHBM l.stack) 0).noteFault (134 + l.stack) 255 0 l.detail

/-- An uncorrectable sector: rewritten with a poison code, counted, and logged if the log is free (R364, R365, R370). -/
def State.uncorrectable (s : State) (k : Nat) : State :=
  let l := s.locOf (k * 32)
  let i := l.stack
  let s := { s with poison := tabPut s.poisonDefault s.poison k true }
  let s := (s.satF (HBM_ECC_UE i) 31 0).event (pgHBM i) 1
  let size := s.stackGiB * GiB / 32
  let s := s.whenB (!s.bit (HBM_ERRLOG_ROW i) 31) fun s =>
    let s := s.setPair (HBM_ERRLOG_ADDR_LO i) (HBM_ERRLOG_ADDR_HI i) (hbmAddr s.stackGiB s.affGiB (k * 32 / size) (k * 32 % size))
    let s := s.setReg (HBM_ERRLOG_LOC i) (BitVec.ofNat 32 (l.pcx ||| (l.sid % 4) <<< 5 ||| (l.bank % 64) <<< 8))
    s.setReg (HBM_ERRLOG_ROW i) (BitVec.ofNat 32 (l.row % 2 ^ 18 ||| 1 <<< 31))
  s.noteFault (138 + i) 255 0 l.detail

/-- A stored injection is read: the real correction path fires (R539). -/
def State.injectFire (s : State) (pred : Nat → Bool) : State :=
  match s.inject with
  | some (_, bits, some k) =>
    if pred k then
      let s := s.injectSpent
      if bits = 1 then s.corrected k else s.uncorrectable k
    else s
  | _ => s

/-- A write takes an armed injection at its first sector in the stack, and one that covers the stored sector whole arms it again (R539; DESIGN CHOICE for the latter, log entry 25). -/
def State.injectTake (s : State) (a n : Nat) : State :=
  match s.inject with
  | some (src, bits, place) =>
    if 134 ≤ src ∧ src < 142 then
      match place with
      | none =>
        match (sectors a n).find? fun b => s.stackOf b == (src - 134) % 4 with
        | some b => { s with inject := some (src, bits, some (s.cell b / 32)) }
        | none => s
      | some k =>
        if (sectors a n).any fun b => s.cell b / 32 == k && decide (a ≤ b ∧ b + 32 ≤ a + n) then
          { s with inject := some (src, bits, none) }
        else s
    else s
  | none => s

/-- A read of HBM as the controller serves it: corrections are made and the bytes counted; the data is `hbmBytes`, its poison `poisoned`. -/
def State.hbmRead (s : State) (a n : Nat) : State :=
  (s.injectFire fun k => (sectors a n).any fun b => s.cell b / 32 == k).countHbm HBM_RD_BYTES_LO HBM_RD_BYTES_HI a n

/-- A write of HBM as the controller serves it (R359, R365): a sector written in part is read first. -/
def State.hbmWrite (s : State) (a : Nat) (bs : List Byte) (pois : Bool) : State :=
  let n := bs.length
  let s := s.injectFire fun k => (sectors a n).any fun b => s.cell b / 32 == k && !decide (a ≤ b ∧ b + 32 ≤ a + n)
  (((s.storeHbm a bs).writeTags a n pois).countHbm HBM_WR_BYTES_LO HBM_WR_BYTES_HI a n).injectTake a n

end Sys2Proof.Machine
end

