-- ==== Sys2Proof/Machine/Access.lean ====
section
/-! DEFINITION. Who reaches which page, and what an access meets on its way (R10, R19, R20, R34, R38, R43, R48, R56, R499). -/

namespace Sys2Proof.Machine

/-- The function a ring belongs to (R284). -/
def State.owner (s : State) (r : Nat) : Nat := s.f (RING_CFG r) 20 16

/-- Rings of a function, ascending (R38). -/
def State.ringsOf (s : State) (k : Nat) : List Nat := (span 0 256).filter fun r => s.owner r == k

/-- VF n exists: VF Enable is set and NumVFs covers it; VFs 8 to 31 fall outside the device without ARI (R33). -/
def State.vfExists (s : State) (k : Nat) : Bool := s.hif.vfEnable && decide (0 < k ∧ k ≤ s.hif.numVFs) && (decide (k ≤ 7) || s.hif.ari)

/-- Functions, and ICs, that exist: PF0's always, a VF's while the VF exists (R313). -/
def State.fnExists (s : State) (i : Nat) : Bool := i == 0 || s.vfExists i

/-- Whether a PCIe function's BAR0 reaches a PF page: PF0 every page, VF n its IC instance and its rings (R34, R38). -/
def State.reaches (s : State) (k p : Nat) : Bool :=
  if k = 0 then true
  else s.vfExists k &&
    (p == pgIC k || (decide (0x100 ≤ p ∧ p < 0x200) && s.owner (p - 0x100) == k &&
      decide (((s.ringsOf k).take 8).contains (p - 0x100))))

/-- The PF offset that an offset of a function's BAR0 shows; none where that BAR0 reads zero and ignores writes (R38, R582). The identity page, VF page 15, is the caller's. -/
def State.barMap (s : State) (k off : Nat) : Option Nat :=
  if k = 0 then some off
  else if !s.vfExists k then none
  else
    let p := off / 0x1000
    if p = 0 then some (pgIC k * 0x1000 + off % 0x1000)
    else if p ≤ 8 then
      match (s.ringsOf k)[p - 1]? with
      | some r => some (pgRING r * 0x1000 + off % 0x1000)
      | none => none
    else none

/-- A host write to a page that a sequencer serves latches its REG event: a hedge's own page; CSW, HBT and SMB for the management sequencer (R391). -/
def State.regLatch (s : State) (p : Nat) : State :=
  if 0x230 ≤ p ∧ p < 0x234 then s.latch (36 + (p - 0x230)) 7
  else if p = pgCSW ∨ p = pgSMB ∨ (0x248 ≤ p ∧ p < 0x24C) then s.latch 40 3
  else s

/-- Whether a host access arrives at all: the synthesized clocks run and the link is up (R48, R499). -/
def State.hostUp (s : State) : Bool := s.clocked && s.hif.linkUp

/-- A configuration write of a function: until configuration space is ready it is answered with Configuration Request Retry Status (R30). -/
def State.config (s : State) (k : Nat) (f : State → State) : State :=
  if s.hif.readyIn = 0 then f s else s.emit (.configRetry k)

/-- A request of a function in D3hot ends as Unsupported Request (R43), which AER records: bit 20 of the uncorrectable status; the first error since the status was clear is pointed to and its header logged (R41; PRESUMED, PCI Express: log entry 92). -/
def State.unsupported (s : State) (k : Nat) : State :=
  let f := s.fn k
  let g := { f with aerUncor := f.aerUncor ||| 0x100000 }
  let s := if f.aerUncor = 0 then
      { s.setFn k { g with aerFirst := 20, aerHeader := (span s.fresh 4).map Config.freeWord } with fresh := s.fresh + 4 }
    else s.setFn k g
  s.emit (.unsupportedRequest k)

/-- An access of the body of page `p`, by `who`: `f` is what it does when it takes effect. A host access of a function in D3hot ends as Unsupported Request (R43); a host write to a gated or resetting page, or one the function does not reach, is dropped (R8, R10, R56); an agent's request is answered ABORT_GATED or ABORT_RESET instead (R19, R20). -/
def State.access (s : State) (who : Who) (p : Nat) (f : State → State) : State :=
  match who with
  | .pcie k =>
    if !s.hostUp then s
    else if !s.d0 k.val then s.unsupported k.val
    else if !s.reaches k.val p then s
    else if s.gated p || s.busy p then s
    else f (s.regLatch p)
  | .agent a =>
    if !s.clocked then s.quiet a
    else if s.gated p then s.emit (.resp a .abortGated [])
    else if s.busy p then s.emit (.resp a .abortReset [])
    else (f s).emit (.resp a .ok [])

/-- The same for the common header of a page, which a resetting page still serves to the host (R56). -/
def State.accessHdr (s : State) (who : Who) (p : Nat) (f : State → State) : State :=
  match who with
  | .pcie k =>
    if !s.hostUp then s
    else if !s.d0 k.val then s.unsupported k.val
    else if !s.reaches k.val p then s
    else if s.gated p then s
    else f (s.regLatch p)
  | .agent a =>
    if !s.clocked then s.quiet a
    else if s.gated p then s.emit (.resp a .abortGated [])
    else if s.busy p then s.emit (.resp a .abortReset [])
    else (f s).emit (.resp a .ok [])

/-- A read that answers a word, or `n` bytes of one: as `access`, with the word the read returns (0 where the page is gated, resetting or out of reach). -/
def State.accessRd (s : State) (who : Who) (p : Nat) (f : State → State × W32) (n : Nat := 4) : State :=
  match who with
  | .pcie k =>
    if !s.hostUp then s
    else if !s.d0 k.val then s.unsupported k.val
    else if !s.reaches k.val p || s.gated p || s.busy p then s.emit (.readData 0)
    else let r := f s; r.1.emit (.readData r.2)
  | .agent a =>
    if !s.clocked then s.quiet a
    else if s.gated p then s.emit (.resp a .abortGated [])
    else if s.busy p then s.emit (.resp a .abortReset [])
    else let r := f s; r.1.emit (.resp a .ok (leBytes n r.2.toNat))

end Sys2Proof.Machine
end

