-- ==== Sys2Proof/Machine/Ic.lean ====
section
/-! DEFINITION. The interrupt controller (10_interrupts.md R313 to R330): sources, CLAIM and COMPLETE, messages, moderation, PME, and the commands of the family. -/

namespace Sys2Proof.Machine

/-- The page whose EVT_STAT AND EVT_EN a level source shows (R315). -/
def srcPage (n : Nat) : Option Nat :=
  if n = 1 then some pgFLT
  else if n = 2 then some pgCKG
  else if n = 3 then some pgRST
  else if n = 4 then some pgDEV
  else if 5 ≤ n ∧ n ≤ 8 then some (pgHBM (n - 5))
  else if 9 ≤ n ∧ n ≤ 12 then some (pgHBT (n - 9))
  else if n = 13 then some pgCSW
  else if n = 14 then some pgSMB
  else if 16 ≤ n ∧ n ≤ 23 then some (pgTPT (n - 16))
  else if n = 24 then some pgTSW
  else if n = 25 then some pgTRT
  else if 48 ≤ n ∧ n ≤ 55 then some (pgMPE (n - 48))
  else if n = 56 then some pgMTC
  else if 80 ≤ n ∧ n ≤ 83 then some (pgCMP (n - 80))
  else if 132 ≤ n ∧ n ≤ 135 then some (pgHDG (n - 132))
  else if n = 136 then some pgPOOL
  else none

/-- An edge source: core n - 96 leaves service (R315). -/
def srcEdge (n : Nat) : Bool := decide (96 ≤ n ∧ n ≤ 131)

/-- A ring source: its ring is n - 144 (R315). -/
def srcRing (n : Nat) : Bool := decide (144 ≤ n ∧ n ≤ 399)

/-- A source that exists (R315: the others are reserved and never pending). -/
def srcExists (n : Nat) : Bool := (srcPage n).isSome || srcEdge n || srcRing n

/-- EVT_STAT AND EVT_EN of a page is nonzero. -/
def State.evtAsserted (s : State) (p : Nat) : Bool := (s.reg (hEVT p) &&& s.reg (hEVTEN p)) != 0

/-- Whether a source is pending, enabled or not (R315). -/
def State.srcPending (s : State) (n : Nat) : Bool :=
  if srcRing n then (s.ring (n - 144)).modFired || s.evtAsserted (pgRING (n - 144))
  else if srcEdge n then tabGet (fun _ => false) s.edges n
  else match srcPage n with
    | some p => s.evtAsserted p
    | none => false

/-- The instance a source is routed to (R314). -/
def State.srcInst (s : State) (n : Nat) : Nat := if srcRing n then s.owner (n - 144) else 0

/-- Whether an instance has a source pending with its enable bit set. -/
def State.icHit (s : State) (i n : Nat) : Bool :=
  srcExists n && s.srcInst n == i && s.srcPending n && s.bit (IC_EN i (n / 32)) (n % 32)

/-- The lowest source pending and enabled in an instance (R317). -/
def State.icBest (s : State) (i : Nat) : Option Nat := (span 1 399).find? (s.icHit i)

/-- The active source of an instance, 0 = none. -/
def State.icActive (s : State) (i : Nat) : Nat := s.f (IC_ACTIVE i) 9 0

/-- Why a message cannot be sent: the lowest code that applies (R319, R325). -/
def State.holdCause (s : State) (i : Nat) : Nat :=
  let k := s.fn i
  if !s.bit (hCTL (pgIC i)) 0 then 1
  else if !k.msixEn || k.funcMask then 2
  else if k.vecMask then 3
  else if !k.bme then 4
  else if k.d3 then 5
  else if !s.hif.linkUp then 6
  else 0

/-- A PM_PME falls due: sent, or held while the link is down (R322). -/
def State.sendPme (s : State) (i : Nat) : State :=
  if s.hif.linkUp then (s.setFn i { s.fn i with pmeHeld := false }).emit (.pme i)
  else s.setFn i { s.fn i with pmeHeld := true }

/-- The message leaves (R316). -/
def State.icSend (s : State) (i : Nat) : State :=
  let k := s.fn i
  let s := (s.setFn i { k with pba := false }).setF (IC_STATE i) 4 0 1
  (s.inc (IC_MSGS i)).emit (.msix i k.vecAddr k.vecData)

/-- The message is held, with its cause; a function not in D0 gets PME_Status and, if enabled, a PM_PME (R319, R322). -/
def State.icHold (s : State) (i : Nat) : State :=
  let c := s.holdCause i
  let s := (s.setFn i { s.fn i with pba := true }).setF (IC_STATE i) 4 1 (c <<< 1 ||| 1)
  if (s.fn i).d3 then
    let s := s.setFn i { s.fn i with pmeStatus := true }
    if (s.fn i).pmeEn then s.sendPme i else s
  else s

/-- An evaluation of an instance (R316, R318, R319). -/
def State.icEval (s : State) (i : Nat) : State :=
  let free := s.icActive i == 0 && !s.bit (IC_STATE i) 0 && (s.icBest i).isSome
  if s.bit (IC_STATE i) 1 then
    if s.holdCause i = 0 then
      if free then s.icSend i
      else (s.setFn i { s.fn i with pba := false }).setF (IC_STATE i) 4 1 0
    else s.setF (IC_STATE i) 4 2 (s.holdCause i)
  else if free then
    if s.holdCause i = 0 then s.icSend i else s.icHold i
  else s

/-- The effect and value of a read of IC_CLAIM (R317). -/
def State.icClaim (s : State) (i : Nat) : State × W32 :=
  if s.icActive i != 0 then (s, BitVec.ofNat 32 (s.icActive i))
  else match s.icBest i with
    | some n =>
      let s := (s.setReg (IC_ACTIVE i) (BitVec.ofNat 32 n)).setB (IC_STATE i) 0 false
      let s :=
        if srcEdge n then { s with edges := tabPut (fun _ => false) s.edges n false }
        else if srcRing n then s.setRing (n - 144) { s.ring (n - 144) with modFired := false }
        else s
      (s, BitVec.ofNat 32 n)
    | none =>
      if s.bit (IC_STATE i) 0 then (s.setB (IC_STATE i) 0 false, 1023) else (s, 0)

/-- The effect of a write of IC_COMPLETE (R318). -/
def State.icComplete (s : State) (i : Nat) (v : W32) : State :=
  let n := fld v 9 0
  if n ≠ 0 ∧ n = s.icActive i then (s.setReg (IC_ACTIVE i) 0).icEval i
  else s.event (pgIC i) 0

/-! Moderation (R321). -/

/-- COUNT and TIME of a ring's moderation, in the instance it is routed to. -/
def State.modCount (s : State) (r : Nat) : Nat := s.f (IC_MOD (s.owner r) r) 7 0
def State.modTime (s : State) (r : Nat) : Nat := s.f (IC_MOD (s.owner r) r) 31 16

/-- The ring fires: MOD_FIRED is set, C and the timer return to 0. -/
def State.modFire (s : State) (r : Nat) : State :=
  s.setRing r { s.ring r with modFired := true, modC := 0, modUs := 0 }

/-- One completion of a ring: RING_DONE counts it, and moderation (R273, R296, R306, R321). -/
def State.ringCompletion (s : State) (r : Nat) : State :=
  let s := s.inc (RING_DONE r)
  let c := (s.ring r).modC
  let s := s.setRing r { s.ring r with modC := c + 1, modUs := if c = 0 then 0 else (s.ring r).modUs }
  if s.modCount r ≤ c + 1 then s.modFire r else s

/-- A write of IC_MOD, which acts at once; ignored for a ring that is not routed here (R321, R325). -/
def State.icModWrite (s : State) (i r : Nat) (v : W32) : State :=
  if s.owner r = i then
    let t := if fld v 31 16 = 0 then 1 else fld v 31 16
    let c := if fld v 7 0 = 0 then 1 else fld v 7 0
    let s := s.setReg (IC_MOD i r) (BitVec.ofNat 32 (t <<< 16 ||| c))
    let g := s.ring r
    if g.modC ≠ 0 ∧ (c ≤ g.modC ∨ t ≤ g.modUs) then s.modFire r else s
  else s

/-- Moderation state of a ring cleared (R302, R314, R323). -/
def State.modClear (s : State) (r : Nat) : State :=
  s.setRing r { s.ring r with modFired := false, modC := 0, modUs := 0 }

/-- A reset of an instance (R323, R10). -/
def State.icReset (s : State) (i : Nat) : State :=
  let rs := s.ringsOf i
  let s := s.clearRegs (pgIC i) 1 fun _ => false
  let s := s.setFn i { s.fn i with pba := false }
  s.each rs State.modClear

/-- Core `c` leaves service: edge source 96 + c (R91, R315). -/
def State.coreEdge (s : State) (c : Nat) : State :=
  { s with edges := tabPut (fun _ => false) s.edges (96 + c) true }

/-- A function with dword `off` of its MSI-X table's region written: the one entry takes it, the PBA and the rest ignore it (R37, R38). -/
def Func.tableWrite (k : Func) (off : Nat) (v : W32) : Func :=
  match off with
  | 0x0 => { k with vecAddr := BitVec.ofNat 64 (k.vecAddr.toNat / 2 ^ 32 * 2 ^ 32 + v.toNat) }
  | 0x4 => { k with vecAddr := BitVec.ofNat 64 (k.vecAddr.toNat % 2 ^ 32 + 2 ^ 32 * v.toNat) }
  | 0x8 => { k with vecData := v }
  | 0xC => { k with vecMask := bitAt v 0 }
  | _ => k

/-- A write of a function's MSI-X table, and the evaluation it may allow (R319). -/
def State.msixTable (s : State) (i off : Nat) (v : W32) : State := (s.setFn i ((s.fn i).tableWrite off v)).icEval i

/-- A change of a configuration field of MSI-X, and the evaluation it may allow (R319); a write of the table is a memory access, which a function in D3hot does not decode (R43). -/
def State.msixControl (s : State) (i : Nat) (f : MsixField) : State :=
  match f with
  | .enable b => (s.setFn i { s.fn i with msixEn := b }).icEval i
  | .functionMask b => (s.setFn i { s.fn i with funcMask := b }).icEval i
  | .table off v => if s.d0 i then s.msixTable i off v else s.unsupported i


/-! The commands. -/

/-- IC_CLAIM (R317). -/
def execIcClaim (who : Who) (inst : FnId) (s : State) : Out :=
  .next (s.accessRd who (pgIC inst.val) fun s => s.icClaim inst.val)

/-- IC_COMPLETE (R318). -/
def execIcComplete (who : Who) (inst : FnId) (v : W32) (s : State) : Out :=
  .next (s.access who (pgIC inst.val) fun s => s.icComplete inst.val v)

/-- MSIX_SEND (R316, R319): an evaluation of the instance. -/
def execMsixSend (inst : FnId) (s : State) : Out :=
  .next (if s.clocked then s.icEval inst.val else s)

/-- IC_MOD_WRITE (R321). -/
def execIcModWrite (who : Who) (inst : FnId) (r : RingId) (v : W32) (s : State) : Out :=
  .next (s.access who (pgIC inst.val) fun s => s.icModWrite inst.val r.val v)

/-- MODERATION_TIMER (R321): the timer of a ring with unsignalled completions reaches TIME. -/
def execModerationTimer (r : RingId) (s : State) : Out :=
  .next (if s.clocked && (s.ring r.val).modC != 0 then s.modFire r.val else s)

/-- PME_REPEAT (R322): 100 ms have passed in D3hot with PME_Status and PME_En set. -/
def execPmeRepeat (fn : FnId) (s : State) : Out :=
  let k := s.fn fn.val
  .next (if s.clocked && k.d3 && k.pmeStatus && k.pmeEn then s.sendPme fn.val else s)

/-- MSIX_CONTROL_WRITE (R319): a configuration write, or a write of the MSI-X table. -/
def execMsixControlWrite (inst : FnId) (f : MsixField) (s : State) : Out :=
  .next (if s.hostUp && s.fnExists inst.val then
      (match f with
       | .table .. => s.msixControl inst.val f
       | _ => s.config inst.val fun s => s.msixControl inst.val f)
    else s)

end Sys2Proof.Machine
end

