-- ==== Sys2Proof/Machine/PoolBase.lean ====
section
/-! DEFINITION. The pool manager's operations on buffers and their state records (11_buffer_pools.md R331 to R344): handles, references, allocation, freeing. Waiters and jobs are in Pools. -/

namespace Sys2Proof.Machine

def State.poolEn (s : State) (p : Nat) : Bool := s.bit (POOL_CFG p) 0
/-- Enabled, or draining and not yet IDLE (R334, R345). -/
def State.poolOn (s : State) (p : Nat) : Bool := s.poolEn p || (s.pool p).draining
/-- CLASS = NAMED (R348). -/
def State.poolNamed (s : State) (p : Nat) : Bool := s.bit (POOL_CFG p) 2
/-- A frame pool (R348). -/
def State.poolFrame (s : State) (p : Nat) : Bool := s.bit (POOL_CFG p) 3
/-- Buffer size in bytes (R331). -/
def State.poolSize (s : State) (p : Nat) : Nat := 2 ^ s.f (POOL_CFG p) 8 4
def State.poolCount (s : State) (p : Nat) : Nat := s.f (POOL_COUNT p) 20 0
def State.poolBase (s : State) (p : Nat) : Nat := s.pair (POOL_BASE_LO p) (POOL_BASE_HI p)

/-- Key of a buffer among all buffers. -/
def bufKey (p i : Nat) : Nat := p * 2 ^ 20 + i

/-- Current generation of a buffer (R334, R335). -/
def State.bufGen (s : State) (p i : Nat) : Nat :=
  ((s.pool p).startGen - 1 + (s.buf (bufKey p i)).frees) % 63 + 1

/-- The handle that names a buffer now. -/
def State.bufHandle (s : State) (p i : Nat) : W32 := mkHandle p (s.bufGen p i) i

/-- A live handle (R334). -/
def State.live (s : State) (h : W32) : Bool :=
  let p := hPool h
  let i := hIndex h
  s.poolOn p && decide (i < s.poolCount p) && hGen h == s.bufGen p i && (s.buf (bufKey p i)).live

/-- The buffer a handle names. -/
def State.hbuf (s : State) (h : W32) : Buf := s.buf (bufKey (hPool h) (hIndex h))
def State.setHbuf (s : State) (h : W32) (b : Buf) : State := s.setBuf (bufKey (hPool h) (hIndex h)) b

/-- Local address of a buffer's first byte (R331). -/
def State.bufAddr (s : State) (h : W32) : Nat := s.poolBase (hPool h) + hIndex h * s.poolSize (hPool h)

/-- Free buffers of a pool (R348 POOL_FREE). -/
def State.poolFree (s : State) (p : Nat) : Nat :=
  if s.poolOn p then s.poolCount p - (s.pool p).nextNew + (s.pool p).freed.length else 0

/-- POOL_STAT.ACTIVE: a buffer is allocated or a waiter waits (R345). -/
def State.poolActive (s : State) (p : Nat) : Bool := decide (0 < (s.pool p).live) || !(s.pool p).waiters.isEmpty

/-- What an operation answers. -/
inductive PoolRes
  | ok (h : W32) (count : Nat)
  | none
  | err (cause : Nat)
  deriving DecidableEq, Repr

/-- A failed operation is dropped, logged and raises POOL_ERR (R342, R347). -/
def State.poolError (s : State) (a op cause : Nat) (h : W32) : State :=
  let s := s.satF POOL_ERRCNT 31 0
  let s := if s.bit POOL_ERRLOG 31 then s
    else (s.setReg POOL_ERRLOG_HANDLE h).setReg POOL_ERRLOG (BitVec.ofNat 32 (1 <<< 31 ||| cause <<< 12 ||| op <<< 8 ||| a))
  s.event pgPOOL 0

/-- Subscribers are woken; a sequencer among them has its LINES event (R22, R341, R391). -/
def State.wakeOut (s : State) (subs : List Nat) (h : W32) (lines : Nat) (complete : Bool) : State :=
  let s := s.each subs fun t a => if a < 36 then t.latch a 1 else if a < 40 then t.latch a 3 else t
  s.emit (.wake subs h lines complete)

/-- Subscriptions of a buffer end, each subscriber woken with the state the buffer has (R341). -/
def State.wakeAll (s : State) (h : W32) : State :=
  let b := s.hbuf h
  if b.subs.isEmpty then s
  else (s.setHbuf h { b with subs := [] }).wakeOut (b.subs.map Prod.fst) h b.linesDone b.complete

/-- A draining pool whose last buffer is freed reaches IDLE (R345). -/
def State.poolSettle (s : State) (p : Nat) : State :=
  if (s.pool p).draining && !s.poolActive p then
    (s.setPool p { s.pool p with draining := false }).event pgPOOL 5
  else s

/-- POOL_MINFREE follows the lowest POOL_FREE (R348). -/
def State.poolMin (s : State) (p : Nat) : State :=
  s.setReg (POOL_MINFREE p) (BitVec.ofNat 32 (min (s.f (POOL_MINFREE p) 20 0) (s.poolFree p)))

/-- A buffer is freed: generation, slots and metadata cleared, back in the pool (R336, R341). -/
def State.bufFree (s : State) (h : W32) : State :=
  let p := hPool h
  let s := s.wakeAll h
  let s := s.setHbuf h { frees := (s.hbuf h).frees + 1 }
  let q := s.pool p
  (s.setPool p { q with freed := q.freed ++ [hIndex h], live := q.live - 1 }).poolSettle p

/-- A buffer whose state record reads poisoned is withdrawn (R528). -/
def State.bufWithdraw (s : State) (p i : Nat) : State :=
  let h := s.bufHandle p i
  let s := s.wakeAll h
  let b := s.buf (bufKey p i)
  let q := s.pool p
  let s := s.setBuf (bufKey p i) { b with live := false, withdrawn := true, holders := [], untracked := 0 }
  let q := { q with live := (if b.live then q.live - 1 else q.live), gone := q.gone + 1, freed := q.freed.filter (· != i) }
  (s.setPool p q).poolSettle p

/-- Whether the state record of a buffer reads OK_POISON (R332, R528). -/
def State.recPoisoned (s : State) (p i : Nat) : Bool :=
  s.poisoned (s.pair POOL_META_BASE_LO POOL_META_BASE_HI + (s.f (POOL_FIRST p) 19 0 + i) * 64) 64

/-- The state record of a buffer is read before an operation on it: poison withdraws the buffer and raises source 184 (R528). -/
def State.recRead (s : State) (p i : Nat) : State :=
  if s.poolOn p && decide (i < s.poolCount p) && s.recPoisoned p i && !(s.buf (bufKey p i)).withdrawn then
    (s.bufWithdraw p i).noteFault 184 128 0
  else s

/-! Holder slots (R337). -/

/-- Record `n` references under an agent; a seventeenth slot is untracked. -/
def State.addHold (s : State) (h : W32) (a n : Nat) : State :=
  let b := s.hbuf h
  let k := tabGet (fun _ => 0) b.holders a
  if n = 0 then s
  else if k ≠ 0 ∨ b.holders.length < 16 then
    s.setHbuf h { b with holders := tabPut (fun _ => 0) b.holders a (k + n) }
  else
    ((s.setHbuf h { b with untracked := b.untracked + n }).satF POOL_LEDGER_OVF 31 0 n).event pgPOOL 3

/-- The slot a release of an agent takes its reference from: its own, else an untracked reference (none), else the lowest agent's. -/
def holdFrom (b : Buf) (a : Nat) : Option Nat :=
  if tabGet (fun _ => 0) b.holders a ≠ 0 then some a
  else if b.untracked ≠ 0 then none
  else (b.holders.head?).map Prod.fst

/-- Take one reference out of the slots. -/
def dropHold (b : Buf) (a : Nat) : Buf :=
  match holdFrom b a with
  | some k => { b with holders := tabPut (fun _ => 0) b.holders k (tabGet (fun _ => 0) b.holders k - 1) }
  | none => { b with untracked := b.untracked - 1 }

/-! Operations (R336). The op codes are those of R263. -/

/-- The next free buffer, past withdrawn ones: fresh indexes first, then the oldest freed. -/
def nextFree (s : State) (p : Nat) : Nat → Nat → Option Nat
  | 0, _ => none
  | fuel + 1, i =>
    if i < s.poolCount p then
      if (s.buf (bufKey p i)).withdrawn then nextFree s p fuel (i + 1) else some i
    else (s.pool p).freed.head?

/-- Who owns a NAMED buffer that agent `a` gets: a core never does, the sequencer of its hedge owns it on its behalf (R16). -/
def ownerOf (a : Nat) : Nat := if a < 36 then 36 + a / 9 else a

/-- Take buffer `i` of the pool: initial references by agent, owner and producer `a` (R336, R341). -/
def State.bufTake (s : State) (a p i : Nat) (holds : List (Nat × Nat)) : State :=
  let b := s.buf (bufKey p i)
  let named := s.poolNamed p
  let total := (holds.map Prod.snd).sum
  let s := s.setBuf (bufKey p i)
    { frees := b.frees, live := true, count := (if named then 0 else total), owner := (if named then ownerOf a else 255), producer := some a }
  let h := s.bufHandle p i
  let s := if named then s else s.each holds fun t x => t.addHold h x.1 x.2
  let q := s.pool p
  let s := s.setPool p { q with nextNew := (if q.nextNew ≤ i then i + 1 else q.nextNew), freed := q.freed.filter (· != i), live := q.live + 1 }
  (s.inc (POOL_ALLOCS p)).poolMin p

/-- Serve one allocation from the free list, past records that read poisoned (R339, R528). -/
def State.poolServe (s : State) (a p : Nat) (holds : List (Nat × Nat)) : Nat → State × Option W32
  | 0 => (s, none)
  | fuel + 1 =>
    match nextFree s p ((s.pool p).gone + 1) (s.pool p).nextNew with
    | none => (s, none)
    | some i =>
      if s.recPoisoned p i then (s.recRead p i).poolServe a p holds fuel
      else
        let s := s.bufTake a p i holds
        (s, some (s.bufHandle p i))

/-- An allocation that finds nothing: POOL_NONE and NONE (R339, R346). -/
def State.poolNone (s : State) (p : Nat) : State := (s.satF (POOL_NONE p) 31 0).event pgPOOL 1

/-- ALLOC without waiting: served when a buffer is free beyond those owed to waiters (R336, R339). -/
def State.poolAlloc (s : State) (a p : Nat) (holds : List (Nat × Nat)) : State × PoolRes :=
  if !s.poolEn p then (s.poolError a 0 4 0, .err 4)
  else if !s.poolNamed p && decide (255 < (holds.map Prod.snd).sum) then (s.poolError a 0 5 0, .err 5)
  else if s.poolFree p ≤ (s.pool p).waiters.length then (s.poolNone p, .none)
  else
    let r := s.poolServe a p holds (if s.memSeed.isEmpty then s.poison.length + 1 else s.poolCount p + 1)
    match r.2 with
    | some h => (r.1, .ok h (r.1.hbuf h).count)
    | none => (r.1.poolNone p, .none)

/-- The check every operation on a handle makes first: the error of a handle that is not live (R342). -/
def State.handleErr (s : State) (h : W32) : Option Nat :=
  if !s.poolOn (hPool h) then some 4 else if !s.live h then some 1 else none

/-- ADDREF (R336). -/
def State.poolAddref (s : State) (a : Nat) (h : W32) : State × PoolRes :=
  let s := s.recRead (hPool h) (hIndex h)
  match s.handleErr h with
  | some c => (s.poolError a 1 c h, .err c)
  | none =>
    let b := s.hbuf h
    if b.count = 255 then (s.poolError a 1 5 h, .err 5)
    else
      let s := (s.setHbuf h { b with count := b.count + 1 }).addHold h a 1
      (s, .ok h (b.count + 1))

/-- RELEASE (R336); `op` is the code that an error logs. -/
def State.poolReleaseAs (s : State) (op a : Nat) (h : W32) : State × PoolRes :=
  let s := s.recRead (hPool h) (hIndex h)
  match s.handleErr h with
  | some c => (s.poolError a op c h, .err c)
  | none =>
    let b := s.hbuf h
    if b.count = 0 then (s.poolError a op 2 h, .err 2)
    else
      let b := dropHold { b with count := b.count - 1 } a
      let s := s.setHbuf h b
      if b.count = 0 ∧ (!s.poolNamed (hPool h) ∨ b.freePending) then (s.bufFree h, .ok h 0)
      else (s, .ok h b.count)

def State.poolRelease (s : State) (a : Nat) (h : W32) : State × PoolRes := s.poolReleaseAs 2 a h

/-- TRANSFER (R336, R337, R341). -/
def State.poolTransfer (s : State) (a : Nat) (h : W32) (dst : Nat) : State × PoolRes :=
  let s := s.recRead (hPool h) (hIndex h)
  match s.handleErr h with
  | some c => (s.poolError a 3 c h, .err c)
  | none =>
    let b := s.hbuf h
    let moves := b.producer == some a && b.linesDone == 0
    if s.poolNamed (hPool h) then
      if b.owner ≠ a ∨ b.freePending then (s.poolError a 3 3 h, .err 3)
      else (s.setHbuf h { b with owner := ownerOf dst, producer := (if moves then some dst else b.producer) }, .ok h b.count)
    else
      let own := tabGet (fun _ => 0) b.holders a != 0
      let b := dropHold b a
      let s := (s.setHbuf h { b with producer := if moves && own then some dst else b.producer }).addHold h dst 1
      (s, .ok h b.count)

/-- FREE (R336). -/
def State.poolFreeOp (s : State) (a : Nat) (h : W32) : State × PoolRes :=
  if !s.poolNamed (hPool h) then s.poolReleaseAs 4 a h
  else
    let s := s.recRead (hPool h) (hIndex h)
    match s.handleErr h with
    | some c => (s.poolError a 4 c h, .err c)
    | none =>
      let b := s.hbuf h
      if b.owner ≠ a ∨ b.freePending then (s.poolError a 4 3 h, .err 3)
      else if b.count = 0 then (s.bufFree h, .ok h 0)
      else (s.setHbuf h { b with freePending := true, owner := 255 }, .ok h b.count)

/-- Release every reference that an agent holds on one buffer, and free it if the agent owns it: the state and what RECLAIMED counts (R336, R343, R344). -/
def State.bufReclaim (s : State) (victim : Nat) (borrows : Bool) (k : Nat) : State × Nat :=
  let p := k / 2 ^ 20
  let b := s.buf k
  let h := s.bufHandle p (k % 2 ^ 20)
  if !b.live then (s, 0)
  else
    let n := tabGet (fun _ => 0) b.holders victim
    let named := s.poolNamed p
    let n := if named && !borrows then 0 else n
    let b1 := { b with count := b.count - n, holders := if n = 0 then b.holders else tabPut (fun _ => 0) b.holders victim 0 }
    let s := s.setBuf k b1
    if named then
      if b1.owner = victim ∧ !b1.freePending then
        if b1.count = 0 then (s.bufFree h, n + 1)
        else (s.setBuf k { b1 with freePending := true, owner := 255 }, n + 1)
      else if b1.freePending ∧ b1.count = 0 ∧ n ≠ 0 then (s.bufFree h, n + 1)
      else (s, n)
    else if b1.count = 0 ∧ n ≠ 0 then (s.bufFree h, n + 1)
    else (s, n)

/-- Every buffer of the table, in index order. -/
def State.bufKeys (s : State) : List Nat := s.bufs.map Prod.fst

/-- Reclaim over a list of buffers. -/
def State.reclaimKeys (s : State) (victim : Nat) (borrows : Bool) (ks : List Nat) : State × Nat :=
  ks.foldl (fun r k => let x := r.1.bufReclaim victim borrows k; (x.1, r.2 + x.2)) (s, 0)

/-- An agent is reset or leaves service: every reference, waiter, producer right and owned buffer it has ends (R343). -/
def State.releaseAgent (s : State) (a : Nat) : State :=
  let s := (s.reclaimKeys a true s.bufKeys).1
  let ps := tabMap (fun _ => ({} : Pool)) (fun _ q => { q with waiters := q.waiters.filter fun w => w.agent != a }) s.pools
  let bs := tabMap (fun _ => ({} : Buf)) (fun _ b => { b with producer := if b.producer = some a then none else b.producer }) s.bufs
  { s with pools := ps, bufs := bs }

/-- LINES_DONE or PIC_COMPLETE of a frame buffer is advanced by its producer; the subscribers whose lines are now present are woken (R22, R341). -/
def State.linesDone (s : State) (a : Nat) (h : W32) (lines : Nat) (complete : Bool) : State :=
  let s := s.recRead (hPool h) (hIndex h)
  match s.handleErr h with
  | some c => s.poolError a 6 c h
  | none =>
    let b := s.hbuf h
    if !s.poolFrame (hPool h) || b.producer != some a then s.poolError a 6 3 h
    else
      let n := max b.linesDone lines
      let woken := b.subs.filter fun x => decide (x.2 < n) || complete
      let s := s.setHbuf h { b with linesDone := n, complete := b.complete || complete, subs := b.subs.filter fun x => !(decide (x.2 < n) || complete) }
      if woken.isEmpty then s else s.wakeOut (woken.map Prod.fst) h n (b.complete || complete)

/-- Consumer `a` waits for line `y` of a frame buffer: it subscribes at the pool manager (R22). -/
def State.subscribe (s : State) (a : Nat) (h : W32) (y : Nat) : State :=
  let b := s.hbuf h
  if s.poolFrame (hPool h) && s.live h && decide (b.linesDone ≤ y) && !b.subs.contains (a, y) then s.setHbuf h { b with subs := b.subs ++ [(a, y)] } else s

/-- Whether line `y` of a buffer may be read: every line of a buffer that is not of a frame pool (R22, R257). -/
def State.lineReady (s : State) (h : W32) (y : Nat) : Bool :=
  !s.poolFrame (hPool h) || decide (y < (s.hbuf h).linesDone)

end Sys2Proof.Machine
end

