-- ==== Sys2Proof/Machine/View.lean ====
section
/-! DEFINITION. What a read of a register returns, without its side effects: the stored value, and the registers that show other state (19_register_index.md R578 to R584 and the register tables of the block chapters). Also memory as the module's units read it over the NoC (R17, R19). -/

namespace Sys2Proof.Machine

/-- Whether a block holds accepted work: STAT.ACTIVE (R54, R55, R301, R324, R481). -/
def State.pageActive (s : State) (p : Nat) : Bool :=
  s.inDrain p ||
  match pageInfo p with
  | none => false
  | some (r, i) =>
    match r.block with
    | .ic => s.icActive i != 0
    | .ring => !(s.ring i).descs.isEmpty || (s.ring i).stream.isSome
    | .core => (s.core i).job.isSome
    | .hdg => (span (9 * i) 9).any fun c => (s.core c).job.isSome
    | .dma => s.rings.any (fun e => !e.2.descs.isEmpty || e.2.stream.isSome) || s.chans.any fun e => e.2.isSome
    | .dch => (span (8 * i) 8).any fun c => (s.chan c).isSome
    | .cmp => (s.pipe i).picture.isSome
    | .tpt => !(s.port i).queue.isEmpty || s.bit (TPT_LINK i) 0
    | .tsw => s.e2e.any fun e => !e.2.store.isEmpty
    | .mpe => (span (16 * i) 16).any fun f => !(s.rxf f).pics.isEmpty || (s.rxf f).draining || !(s.txf f).pics.isEmpty || !(s.txf f).units.isEmpty
        || !(s.rxf f).staged.isEmpty || (s.txf f).draining
    | _ => false

/-- CTL.EN of a page: the pages whose EN the module itself controls show their service (R92, R370, R371). -/
def State.ctlEn (s : State) (p : Nat) : Bool :=
  match pageInfo p with
  | none => false
  | some (r, i) =>
    match r.block with
    | .core => s.f (HDG_ROLES (i / 9)) (2 * (i % 9) + 1) (2 * (i % 9)) == 0
    | .hbm => s.bit (HBT_STAT i) 1 && !s.bit (HBT_CTL i) 1
    | .hbt => s.bit (HBT_STAT i) 1
    | _ => s.bit (hCTL p) 0

/-- STAT of a page: FAULT and the block's own bits as stored, RESET_BUSY, IDLE and ACTIVE as they are (R54, R58). -/
def State.stat (s : State) (p : Nat) : W32 :=
  let a := s.pageActive p
  let b := s.busy p
  let w := setBit (setBit (s.reg (hSTAT p)) 0 a) 3 b
  let w := setBit w 1 (!s.ctlEn p && !a && !b)
  if p = pgDEV then setBit w 8 (s.clock.st == .onB) else w

/-- The common header (R54, R57, R578). -/
def State.viewHdr (s : State) (p off : Nat) : W32 :=
  match pageInfo p with
  | none => 0
  | some (r, i) =>
    match off with
    | 0x0 => s.reg (hID p) ||| s.rev.setWidth 32
    | 0x4 =>
      match r.block with
      | .dev =>
        setBit (setBit (setFld (s.reg (hCAP p)) 15 0 (4 * s.stackGiB)) 28 s.testEn) 27 s.signReq
      | .ic => setFld (s.reg (hCAP p)) 23 16 (s.ringsOf i).length
      | .hbm => setFld (setFld (s.reg (hCAP p)) 11 8 (s.stackGiB / 3)) 7 0 s.stackGiB
      | _ => s.reg (hCAP p)
    | 0x8 => setBit (setBit (s.reg (hCTL p)) 0 (s.ctlEn p)) 2 (s.busy p)
    | 0xC => s.stat p
    | 0x10 => s.reg (hEVT p)
    | 0x14 => s.reg (hEVTEN p)
    | 0x1C => s.reg (hSYND p)
    | _ => 0

/-- FAULT_N is driven low (R531). -/
def State.pinLow (s : State) : Bool := s.power.good && (s.power.pulse || s.bit FLT_PIN_CTL 0 || s.clock.st == .clockLost)

/-- A word of 32 bits from a predicate of bit numbers. -/
def bitsWord (f : Nat → Bool) : W32 := BitVec.ofNat 32 ((span 0 32).foldl (fun n j => n + b2n (f j) * 2 ^ j) 0)

/-- POOL_STAT (R348). -/
def State.viewPoolStat (s : State) (p : Nat) : W32 :=
  let a := s.poolActive p
  let w := setBit (setBit (s.reg (POOL_STAT p)) 0 a) 1 (!s.poolEn p && !a)
  setFld w 14 8 (s.pool p).waiters.length

/-- POOL_Q_STATE (R347). -/
def State.viewPoolQ (s : State) : W32 :=
  let h := s.reg POOL_Q_HANDLE
  let p := hPool h
  let b := s.hbuf h
  if !s.poolOn p || decide (s.poolCount p ≤ hIndex h) then 0
  else
    let base := b2n (s.poolNamed p) <<< 2 ||| s.bufGen p (hIndex h) <<< 24
    if s.live h then
      BitVec.ofNat 32 (1 ||| b2n b.freePending <<< 1 ||| base ||| b.holders.length <<< 3 ||| b.count <<< 8 |||
        (if s.poolNamed p && !b.freePending then b.owner else 255) <<< 16)
    else BitVec.ofNat 32 (base ||| 255 <<< 16)

/-- Entry of a composer table after reset (R213, R217, R219, R235): table and dword. -/
def cltDefault (k : Nat) : W32 :=
  let t := k / 8192
  let d := k % 8192
  if t < 0x10 then
    if d < 2048 then
      let i := d / 2
      let v := i <<< 6 ||| i >>> 4
      BitVec.ofNat 32 (if d % 2 = 0 then v ||| v <<< 16 else v)
    else 0
  else if t < 0x18 then
    if d < 256 then
      let ph := d / 4
      if d % 4 = 1 then BitVec.ofNat 32 ((1024 - 16 * ph) <<< 16)
      else if d % 4 = 2 then BitVec.ofNat 32 (16 * ph) else 0
    else 0
  else if t < 0x20 then
    if d < 192 then
      let ph := d / 3
      if d % 3 = 1 then BitVec.ofNat 32 ((1024 - 16 * ph) ||| (16 * ph) <<< 16) else 0
    else 0
  else if t = 0x20 then
    let i := d / 2
    let v := (if i < 256 then 2 * i else (256 + i % 256) <<< (i / 256)) >>> 8
    BitVec.ofNat 32 (if d % 2 = 0 then v ||| v <<< 16 else v)
  else if t = 0x21 then
    if d = 0 ∨ d = 4 ∨ d = 8 then 8192 else 0
  else 0

/-- Dwords of a composer table (R235). -/
def cltSize (t : Nat) : Nat :=
  if t < 0x10 then 2048 else if t < 0x18 then 256 else if t < 0x20 then 192
  else if t = 0x20 then 8192 else if t = 0x21 then 12 else 0

/-- The pending dword a CLT window shows at CLT_DATA(j) (R235). -/
def State.viewClt (s : State) (p j : Nat) : W32 :=
  let pipe := (p - 0x260) / 16
  let sel := s.reg (p * 0x1000 + 0x40)
  let t := fld sel 7 0
  let d := fld sel 11 8 * 512 + j
  if d < cltSize t then tabGet cltDefault (s.pipe pipe).tabPend (t * 8192 + d) else 0

/-- The sequencer and bank that CSW_SEL selects (R407). -/
def State.cswSeq (s : State) : Nat := s.f CSW_SEL 5 0
def State.cswBank (s : State) : Bank := if s.bit CSW_SEL 8 then (s.seq s.cswSeq).bankB else (s.seq s.cswSeq).bankA

/-- Spare rows a stack has left (R367, R370). -/
def State.sparesLeft (s : State) (i : Nat) : Nat :=
  Config.spareRows i + 1 - ((s.stack i).repaired ++ (s.stack i).soft).length

/-- RUN of a sequencer as CSW_SEQSTAT shows it: a gated core reads GATED (R407). -/
def State.seqRun (s : State) (q : Nat) : Nat := if q < 36 && !s.domainOn q then 4 else (s.seq q).run

/-- CORE_STATE (R92). -/
def State.viewCoreState (s : State) (c : Nat) : W32 :=
  let q := s.seq c
  let w := q.bankA.pers <<< 4 ||| q.bankB.pers <<< 8 ||| b2n q.activeB <<< 12
  match (s.core c).job with
  | some (se, _, _) => BitVec.ofNat 32 (w ||| se <<< 16 ||| 1 <<< 24)
  | none => BitVec.ofNat 32 w

/-- Sessions placed wholly or partly in a hedge (R93). -/
def State.inHedge (x : Sess) (h : Nat) : Bool :=
  x.phase != .closed && ((x.shares.any fun e => e.1 / 9 == h) || (x.parts.any fun e => e.1 == h) || x.decParts.any fun e => e.1 == h)

/-- RXF_STAT (R441). -/
def State.viewRxStat (s : State) (f : Nat) : W32 :=
  let x := s.rxf f
  let a := !x.pics.isEmpty || !x.staged.isEmpty || x.draining
  let up (n : Nat) : Bool := s.bit (TPT_LINK n) 0 && !s.gated (pgTPT n) && decide (2 ≤ s.f (TPT_MODE n) 1 0)
  BitVec.ofNat 32 (b2n a ||| b2n (!a && !s.bit (RXF_CTL f) 0) <<< 1 ||| x.pics.length <<< 2 ||| b2n (up (s.f (RXF_CTL f) 6 4)) <<< 5 |||
    b2n (s.bit (RXF_CTL f) 3 && up (s.f (RXF_CTL f) 10 8)) <<< 6)

/-- TXF_STAT (R443). -/
def State.viewTxStat (s : State) (f : Nat) : W32 :=
  let x := s.txf f
  let a := !x.pics.isEmpty || !x.units.isEmpty || x.draining
  BitVec.ofNat 32 (b2n a ||| b2n (!a && !s.bit (TXF_CTL f) 0) <<< 1 ||| b2n x.bound.isSome <<< 2)

/-- The body of a page at offset `off` (0x40 and above). -/
def State.viewBody (s : State) (p off : Nat) : W32 :=
  let a := pg p off
  match pageInfo p with
  | none => 0
  | some (r, i) =>
    match r.block with
    | .ic =>
      if off = 0x40 then 0
      else if 0x180 ≤ off ∧ off < 0x200 then
        let k := (off - 0x180) / 4
        bitsWord fun j => srcExists (32 * k + j) && s.srcInst (32 * k + j) == i && s.srcPending (32 * k + j)
      else if 0x400 ≤ off ∧ off < 0x800 then
        if s.owner ((off - 0x400) / 4) = i then s.reg a else 0
      else if 0x800 ≤ off ∧ off < 0xC00 then
        let n := (off - 0x800) / 4
        let g := s.ring n
        if s.owner n = i then BitVec.ofNat 32 (g.modUs <<< 16 ||| b2n g.modFired <<< 8 ||| g.modC) else 0
      else s.reg a
    | .flt =>
      if (off = 0x54 ∨ off = 0x58 ∨ off = 0x5C) ∧ !s.bit FLT_INJ_STAT 0 then 0 else s.reg a
    | .poolc => if off = 0x5C then s.viewPoolQ else s.reg a
    | .poolt =>
      if 0x800 ≤ off then
        let n := 16 * (p - 0x31) + (off - 0x800) / 0x80
        let o := off % 0x80
        if o = 0x14 then s.viewPoolStat n
        else if o = 0x18 then BitVec.ofNat 32 (s.poolFree n)
        else s.reg a
      else s.reg a
    | .dma =>
      if off = 0x40 ∨ off = 0x44 then bitsWord fun j => (s.chan ((off - 0x40) * 8 + j)).isSome
      else if 0x48 ≤ off ∧ off < 0x68 then bitsWord fun j => s.pageActive (pgRING ((off - 0x48) * 8 + j))
      else s.reg a
    | .csw =>
      let q := s.seq s.cswSeq
      let b := s.cswBank
      if off = 0x5C then
        BitVec.ofNat 32 (s.seqRun s.cswSeq ||| b2n q.activeB <<< 3 ||| b2n q.inEvent <<< 4 ||| q.stack.length <<< 8 |||
          q.lastEvent <<< 12 ||| q.pc <<< 16)
      else if off = 0x60 then BitVec.ofNat 32 (b.st ||| b.source <<< 2 ||| b.pers <<< 4 ||| b.seqType <<< 8)
      else if off = 0x64 then (if b.source = 3 then 0 else b.version)
      else if off = 0x68 then BitVec.ofNat 32 (q.faultCause ||| q.faultCount <<< 8 ||| b2n q.faultValid <<< 31)
      else s.reg a
    | .core => if off = 0x40 then s.viewCoreState i else s.reg a
    | .hdg =>
      if off = 0x44 then bitsWord fun j => decide (j < 9) && s.domainOn (9 * i + j)
      else if off = 0x4C then BitVec.ofNat 32 (s.sessions.countP fun e => State.inHedge e.2 i)
      else s.reg a
    | .hbm => if off = 0x40 then s.reg (HBM_MAP 0)
      else if off = 0x78 then
        setFld (setFld (s.reg a) 3 1 (s.stack i).hard.length) 15 8 (s.sparesLeft i)
      else s.reg a
    | .clt => if 0x800 ≤ off then s.viewClt p ((off - 0x800) / 4) else s.reg a
    | .tsw => if off = 0x58 then BitVec.ofNat 32 ((s.e2e.map fun e => (e.2.store.map fun x => 32 + x.2.1.length).sum).sum) else s.reg a
    | .mpe =>
      if off = 0x6C then BitVec.ofNat 32 (64 - (s.htxq i).length)
      else if 0x400 ≤ off ∧ off < 0x800 ∧ off % 0x40 = 4 then s.viewRxStat (16 * i + (off - 0x400) / 0x40)
      else if 0x800 ≤ off ∧ off % 0x80 = 4 then s.viewTxStat (16 * i + (off - 0x800) / 0x80)
      else s.reg a
    | .mtc =>
      if off = 0x40 then s.mtc.time.ns
      else if off = 0x64 then setBit (setBit (s.reg a) 1 (s.mtc.slew != 0)) 2 (s.clock.st == .onB)
      else s.reg a
    | .smb =>
      if off = 0x44 then BitVec.ofNat 32 (s.rev.toNat ||| (4 * s.stackGiB) <<< 8)
      else if off = 0x48 then
        BitVec.ofNat 32 (b2n (s.power.feedALow || s.power.feedBLow) <<< 15 ||| b2n s.pinLow <<< 14 |||
          b2n s.power.limited <<< 13 ||| b2n s.power.trip <<< 12 ||| b2n (s.clock.st == .onB) <<< 11 |||
          fld (s.reg (hSTAT pgDEV)) 9 9 <<< 10 ||| fld (s.reg (hSTAT pgDEV)) 5 4 <<< 4)
      else if off = 0x84 then (Config.fruByte (s.f SMB_FRU_ADDR 7 0)).setWidth 32
      else if 0x88 ≤ off ∧ off < 0x98 then
        BitVec.ofNat 32 (s.pair DEV_SERIAL_LO DEV_SERIAL_HI / 2 ^ (4 * (off - 0x88)) % 65536)
      else s.reg a
    | _ => s.reg a

/-- What a read of the register at PF BAR0 offset `a` returns (R10, R56, R581). -/
def State.view (s : State) (a : Nat) : W32 :=
  let p := a / 0x1000
  let off := a % 0x1000
  if (pageInfo p).isNone || s.gated p then 0
  else if off < 0x40 then s.viewHdr p off
  else if s.busy p then 0
  else
    match rowAt ((pageInfo p).elim Block.dev fun x => x.1.block) off with
    | some _ => s.viewBody p off
    | none => if 0x260 ≤ p ∧ p < 0x2A0 ∧ 0x800 ≤ off then s.viewBody p off else 0

/-- The identity page of VF n: page 15 of its BAR0, with its MSI-X table entry and PBA (R38, R39, R582). -/
def State.viewIdentity (s : State) (k off : Nat) : W32 :=
  match off with
  | 0x0 => BitVec.ofNat 32 (0x0D01 <<< 16 ||| k <<< 8 ||| s.rev.toNat)
  | 0x4 => BitVec.ofNat 32 (s.ringsOf k).length
  | 0x8 => 1
  | 0x1C => 0x00FF0000
  | 0x800 => (s.fn k).vecAddr.setWidth 32
  | 0x804 => ((s.fn k).vecAddr >>> 32).setWidth 32
  | 0x808 => (s.fn k).vecData
  | 0x80C => BitVec.ofNat 32 (b2n (s.fn k).vecMask)
  | 0xC00 => BitVec.ofNat 32 (b2n (s.fn k).pba)
  | _ => 0

/-- The word at offset `off` of a function's BAR0. -/
def State.viewBar (s : State) (k off : Nat) : W32 :=
  match s.barMap k off with
  | some a => s.view a
  | none => if k ≠ 0 ∧ off / 0x1000 = 15 ∧ s.vfExists k then s.viewIdentity k (off % 0x1000) else 0

/-! Memory over the NoC. -/

/-- Base of the register space mirror (R17). -/
abbrev mirrorBase : Nat := 0xF00000000000

/-- Whether a local range lies in the register space mirror (R17). -/
def inMirror (a n : Nat) : Bool := decide (mirrorBase ≤ a ∧ a + n ≤ mirrorBase + 0x1000000)

/-- The response of a target page to an agent's request (R19, R20). -/
def State.pageResp (s : State) (p : Nat) : Resp :=
  if s.gated p then .abortGated else if s.busy p then .abortReset else .ok

/-- Bytes of the mirror as a plain read returns them. -/
def State.mirrorBytes (s : State) (a n : Nat) : List Byte :=
  (span (a - mirrorBase) n).map fun x => BitVec.ofNat 8 ((s.view (x / 4 * 4)).toNat >>> (8 * (x % 4)))

/-- A read of a local range: the response and the data (R17, R19). The counting of HBM bytes is `hbmRead`. -/
def State.localRead (s : State) (a n : Nat) : Resp × List Byte :=
  if s.inHbm a n then (if s.poisoned a n then .okPoison else .ok, s.hbmBytes a n)
  else if inMirror a n then
    match s.pageResp ((a - mirrorBase) / 0x1000) with
    | .ok => (.ok, s.mirrorBytes a n)
    | x => (x, [])
  else (.abortUnmapped, [])

/-- Window of VF n's BAR2: base and size, none while DEV_VFBAR2.LOG2 is 0 (R40). -/
def State.vfWindow (s : State) (k : Nat) : Option (Nat × Nat) :=
  let l := s.f DEV_VFBAR2 5 0
  if l = 0 then none else some (s.pair (DEV_VF_WIN_LO (k - 1)) (DEV_VF_WIN_HI (k - 1)), 2 ^ l)

/-- Whether function `k` may use a local range: PF0 any, VF n only inside its window (R289, R586). -/
def State.mayUse (s : State) (k a n : Nat) : Bool :=
  if k = 0 then true
  else match s.vfWindow k with
    | some (b, z) => decide (b ≤ a ∧ a + n ≤ b + z)
    | none => false

end Sys2Proof.Machine
end

