-- ==== Sys2Proof/Machine/Rings.lean ====
section
/-! DEFINITION. Descriptor rings and status records as shared operations (08_job_formats.md R244 to R248, R264 to R273, R278; 09_rings_dma.md R282 to R285, R586, R587): indices, fetching, records, and a ring's drain state. -/

namespace Sys2Proof.Machine

/-- The first element that satisfies `p` replaced by `f` of it. -/
def modFirst {α : Type} (p : α → Bool) (f : α → α) : List α → List α
  | [] => []
  | x :: t => if p x then f x :: t else x :: modFirst p f t

/-! A ring's configuration (R306). -/

def State.ringKind (s : State) (r : Nat) : Nat := s.f (RING_CFG r) 2 0
def State.ringLocal (s : State) (r : Nat) : Bool := s.bit (RING_CFG r) 3
/-- Entries: 2^LOG2_SIZE. -/
def State.ringSize (s : State) (r : Nat) : Nat := 2 ^ s.f (RING_CFG r) 8 4
def State.ringBase (s : State) (r : Nat) : Nat := s.pair (RING_BASE_LO r) (RING_BASE_HI r)
def State.ringHead (s : State) (r : Nat) : Nat := s.f (RING_HEAD r) 15 0
def State.ringTail (s : State) (r : Nat) : Nat := s.f (RING_TAIL r) 15 0
def State.setHead (s : State) (r i : Nat) : State := s.setReg (RING_HEAD r) (BitVec.ofNat 32 i)
/-- Bytes of an entry (R282). -/
def entryBytes (kind : Nat) : Nat :=
  match kind with
  | 1 => 128
  | 2 => 64
  | _ => 32
/-- Outstanding entries: from RING_HEAD up to RING_TAIL (R283). -/
def State.ringOut (s : State) (r : Nat) : Nat :=
  (s.ringTail r + s.ringSize r - s.ringHead r % s.ringSize r) % s.ringSize r
/-- The ring is RUNNING: EN = 1 and not resetting (R55, R301). -/
def State.ringRun (s : State) (r : Nat) : Bool := s.bit (hCTL (pgRING r)) 0 && !s.busy (pgRING r)
/-- Address of entry `i`. -/
def State.entryAddr (s : State) (r i : Nat) : Nat := s.ringBase r + i % s.ringSize r * entryBytes (s.ringKind r)

/-! ERR codes (R294). -/
abbrev eNONE : Nat := 0
abbrev eFORMAT : Nat := 1
abbrev eHANDLE : Nat := 2
abbrev eWINDOW : Nat := 3
abbrev eLINK_DOWN : Nat := 4
abbrev eBME_OFF : Nat := 8
abbrev ePOISON_FETCH : Nat := 14

/-- ERR of a NoC response (R294). -/
def respErr (r : Resp) : Nat :=
  match r with
  | .abortGated => 9
  | .abortReset => 10
  | .abortUnmapped => 11
  | .abortWindow => 12
  | _ => 0

/-- Status code of a NoC response that ends a job (R266). -/
def respCode (r : Resp) : Nat :=
  match r with
  | .abortGated => 0x40
  | .abortReset => 0x41
  | .abortUnmapped => 0x42
  | .abortWindow => 0x43
  | .okPoison => 0x45
  | .ok => 0

/-- What a fetch of a ring entry gives: it waits (host memory out of reach), it fails with an ERR, or the bytes (R284, R586, R587). -/
inductive Fetch
  | wait
  | bad (err : Nat)
  | ok (bytes : List Byte)
  deriving DecidableEq, Repr

/-- Fetch entry `i` of a ring (R587). -/
def State.fetchEntry (s : State) (r i : Nat) : Fetch :=
  let a := s.entryAddr r i
  let n := entryBytes (s.ringKind r)
  if s.ringLocal r then
    if !s.mayUse (s.owner r) a n then .bad 12
    else if !s.inHbm a n then .bad 11
    else if s.poisoned a n then .bad ePOISON_FETCH
    else .ok (s.hbmBytes a n)
  else if s.hostReach (s.owner r) then .ok (s.hostBytes a n)
  else .wait

/-- An entry or a record write ended BAD: RING_BAD counts it and BAD is raised (R295, R306, R587). -/
def State.ringBad (s : State) (r : Nat) : State := (s.satF (RING_BAD r) 31 0).event (pgRING r) 0

/-- RING_LASTERR (R306). -/
def State.ringLast (s : State) (r i err : Nat) : State :=
  s.setReg (RING_LASTERR r) (BitVec.ofNat 32 (i % 65536 ||| err <<< 16))

/-- Where a unit of the module reads or writes: host memory through a function, or a local address. -/
def State.unitRead (s : State) (loc : Bool) (k a n : Nat) : Resp × List Byte :=
  if loc then
    if s.mayUse k a n then s.localRead a n else (.abortWindow, [])
  else (.ok, s.hostBytes a n)

/-- Write bytes of a structure of the module's own to HBM or to host memory. -/
def State.unitWrite (s : State) (loc : Bool) (a : Nat) (bs : List Byte) : State :=
  if loc then s.hbmWrite a bs false else s.hostWrite a bs

/-- Write a status record: bytes 0x00 to 0x3B, then, as a write of its own, the completion dword (R246). -/
def State.recordWrite (s : State) (loc : Bool) (a : Nat) (bs : List Byte) : State :=
  (s.unitWrite loc a (bs.take 0x3C)).unitWrite loc (a + 0x3C) (bs.drop 0x3C)

/-! Status records (R246, R265). -/

/-- The 64 bytes of a record: header, the body's fields by offset, DONE_NS, and the completion dword. -/
def State.recordBytes (s : State) (tag : W32) (typ sess flags : Nat) (body : List (Nat × List Byte)) (phase : Bool) (code : Nat) : List Byte :=
  let b := List.replicate 64 (0 : Byte)
  let b := putAt b 0 (leBytes 4 tag.toNat)
  let b := putAt b 4 (leBytes 1 typ)
  let b := putAt b 5 (leBytes 1 sess)
  let b := putAt b 6 (leBytes 2 flags)
  let b := body.foldl (fun b x => putAt b x.1 x.2) b
  let b := putAt b 0x38 (leBytes 4 s.mtc.time.ns.toNat)
  putAt b 0x3C (leBytes 4 (1 <<< 31 ||| b2n phase <<< 30 ||| code))

/-- A PTP time in a record: ten bytes, nanoseconds first (R265). -/
def timeBytes (t : PtpTime) : List Byte := leBytes 4 t.ns.toNat ++ leBytes 6 t.sec.toNat

/-- Job types that name a session (R247). -/
def jobNamesSess (t : Nat) : Bool := decide (1 ≤ t ∧ t ≤ 4)

/-- Write 64 bytes at a job's STATUS_ADDR: written and counted as a completion; held for a function in D3hot; or lost, which counts as a BAD completion (R43, R248, R278, R586). -/
def State.writeStatus (s : State) (j : JobRef) (bs : List Byte) : State :=
  let k := s.owner j.ring
  let a := j.statusAddr.toNat
  if a % 64 ≠ 0 then s.ringBad j.ring
  else if j.statusLocal then
    if s.mayUse k a 64 && s.inHbm a 64 then (s.recordWrite true a bs).ringCompletion j.ring
    else s.ringBad j.ring
  else if !s.hif.linkUp || !(s.fn k).bme then s.ringBad j.ring
  else if !s.d0 k then s.setRing j.ring { s.ring j.ring with held := (s.ring j.ring).held ++ [{ job := j, bytes := bs }] }
  else (s.recordWrite false a bs).ringCompletion j.ring

/-- A job completes: its record is written, and the ring no longer waits for it (R264, R272, R273). -/
def State.finishJob (s : State) (j : JobRef) (flags : Nat) (body : List (Nat × List Byte)) (code : Nat) : State :=
  let bs := s.recordBytes j.tag j.typ (if jobNamesSess j.typ then j.sess else 0) flags body false code
  let s := s.writeStatus j bs
  s.setRing j.ring { s.ring j.ring with openJobs := (s.ring j.ring).openJobs.erase j }

/-- A record of an earlier D3hot is written on the return to D0, in record order (R43), with the DONE_NS of that write (R265). -/
def State.flushHeld (s : State) (r : Nat) : State :=
  let h := (s.ring r).held
  let s := s.setRing r { s.ring r with held := [] }
  s.each h fun t x => t.writeStatus x.job (putAt x.bytes 0x38 (leBytes 4 t.mtc.time.ns.toNat))

/-- A record due to a STATUS ring is written at RING_HEAD, or lost and counted (R283, R246). -/
def State.statusRing (s : State) (r : Nat) (bs : Bool → List Byte) : State :=
  let k := s.owner r
  let a := s.entryAddr r (s.ringHead r)
  let full := (s.ringHead r + 1) % s.ringSize r == s.ringTail r
  let reach := if s.ringLocal r then s.mayUse k a 64 && s.inHbm a 64 else s.hostReach k
  if s.ringRun r && s.ringKind r == 2 && !full && reach then
    let s := s.recordWrite (s.ringLocal r) a (bs (s.ring r).phase)
    let h := (s.ringHead r + 1) % s.ringSize r
    let s := s.setHead r h
    let s := if h = 0 then s.setRing r { s.ring r with phase := !(s.ring r).phase } else s
    s.ringCompletion r
  else (s.satF (RING_DROP r) 31 16).event (pgRING r) 3

/-! Jobs (R247, R248). -/

/-- The reference of a job: what its record needs. -/
def jobRefOf (r : Nat) (b : List Byte) : JobRef :=
  { ring := r, typ := leAt b 0 1, tag := BitVec.ofNat 32 (leAt b 4 4), statusLocal := bitIn b 1 0,
    statusAddr := BitVec.ofNat 64 (leAt b 8 8), sess := leAt b 2 1 }

/-- A host-addressed ring by its memory, its circular buffer or what it has fetched (R285). -/
def State.hostAddressed (s : State) (r : Nat) : Bool :=
  !s.ringLocal r || (s.ringKind r == 3 && !s.bit (RING_CBUF_CFG r) 5) ||
  ((s.ring r).descs.any fun d =>
    let c := dctlOf (BitVec.ofNat 32 (leAt d.bytes 0x14 4))
    c.srcKind == .host || c.dstKind == .host || (c.crcEn && c.crcHost)) ||
  ((s.ring r).openJobs.any fun j => !j.statusLocal) ||
  (match (s.ring r).fenceWait with
   | some (_, w, l, _, _) => w && !l
   | none => false)

/-- A host-addressed ring of a function in D3hot fetches nothing (R311). -/
def State.fetchHeld (s : State) (r : Nat) : Bool := !s.d0 (s.owner r) && s.hostAddressed r

/-- The next job of a COMMAND ring, if the ring is running, has an outstanding entry, waits for no FENCE, and the fetch succeeds (R244, R264, R283, R311). -/
def State.nextJob (s : State) (r : Nat) : Option (List Byte) :=
  if s.clocked && s.ringKind r == 1 && s.ringRun r && !(s.ring r).stopped && (s.ring r).fenceWait.isNone && !s.fetchHeld r && decide (0 < s.ringOut r) then
    match s.fetchEntry r (s.ringHead r) with
    | .ok b => some b
    | _ => none
  else none

/-- The job is fetched: RING_HEAD passes its slot, and the ring has one more open job (R244, R283). -/
def State.takeJob (s : State) (r : Nat) (j : JobRef) : State :=
  let s := if s.ringLocal r then s.hbmRead (s.entryAddr r (s.ringHead r)) 128 else s
  let s := s.setHead r ((s.ringHead r + 1) % s.ringSize r)
  s.setRing r { s.ring r with openJobs := (s.ring r).openJobs ++ [j] }

/-- Reserved bytes of a job are those no table names (R247, R255 to R264): whether every byte of `rs` is 0. -/
def zerosIn (b : List Byte) (rs : List (Nat × Nat)) : Bool := rs.all fun x => zeroAt b x.1 x.2

/-- The rate update block lies within its encodings (R153, R252). -/
def rateBlockOk (b : List Byte) : Bool := decide (leAt b 0 1 ≤ 51) && decide (leAt b 1 1 ≤ 4) && decide (leAt b 3 1 ≤ 120)

/-- Step 2 of R248 for the header and, by type, the body; `shared` tells whether a pool is SHARED (COUNT of an ALLOC, R263). -/
def jobFormatOk (b : List Byte) (shared : Nat → Bool) : Bool :=
  let hdr := decide (leAt b 1 1 < 2) && zeroAt b 3 1 && decide (leAt b 8 8 % 64 = 0) && decide (jobNamesSess (leAt b 0 1) ∨ leAt b 2 1 = 0)
  let body := match leAt b 0 1 with
    | 1 => decide (leAt b 0x10 8 % 64 = 0) && decide (leAt b 0x18 1 < 2) && zerosIn b [(0x19, 0x67)]
    | 2 => decide (leAt b 0x10 1 < 2) && zerosIn b [(0x11, 0x6F)]
    | 3 => decide (leAt b 0x14 2 < 32) && zerosIn b [(0x16, 2), (0x22, 14), (0x40, 64)] && (!bitIn b 0x14 2 || rateBlockOk (slice b 0x30 16))
    | 4 => decide (leAt b 0x1C 2 < 16) && zerosIn b [(0x1E, 2), (0x24, 4), (0x32, 0x4E)] && decide (0 < leAt b 0x18 4)
    | 5 => decide (leAt b 0x10 1 < 4) && decide (leAt b 0x11 1 < 2) && decide (0 < leAt b 0x12 2) && decide (leAt b 0x18 8 % 8 = 0) && zerosIn b [(0x14, 4), (0x20, 0x60)]
    | 6 => decide (leAt b 0x10 1 < 4) && decide (leAt b 0x11 1 < 4) && decide (leAt b 0x14 4 < 2 ^ 17) && zerosIn b [(0x18, 0x68)]
    | 7 => decide (leAt b 0x10 1 < 3) && decide (leAt b 0x11 1 < 41) && decide (leAt b 0x12 1 < 2) && decide (leAt b 0x18 8 % 64 = 0) && zerosIn b [(0x13, 1), (0x20, 0x60)]
    | 8 => decide (leAt b 0x10 1 < 6) && decide (leAt b 0x11 1 < 64) && decide (leAt b 0x12 1 < 2) && zerosIn b [(0x19, 0x67)] &&
        (leAt b 0x10 1 != 0 || !shared (leAt b 0x11 1) || leAt b 0x13 1 != 0)
    | 9 => zerosIn b [(0x10, 0x70)]
    | 10 => decide (leAt b 0x10 1 < 4) && decide (leAt b 0x18 8 % 8 = 0) && zerosIn b [(0x11, 7), (0x28, 0x58)]
    | _ => true
  hdr && body

/-- Checks 2 to 5 of R248: the code of the first that fails, 0 when all pass. LENGTH of a DECODE_UNIT reaches at most the end of its buffer (R258). -/
def State.jobCheck (s : State) (r : Nat) (b : List Byte) : Nat :=
  let t := leAt b 0 1
  let x := s.sess (leAt b 2 1)
  if !jobFormatOk b (fun p => !s.poolNamed p) || (t == 4 && decide (s.poolSize (hPool (BitVec.ofNat 32 (leAt b 0x10 4))) < leAt b 0x14 4 + leAt b 0x18 4)) then 0x21
  else if t = 1 then (if x.phase = .closed then 0 else 0x24)
  else if !jobNamesSess t then 0
  else if x.phase ≠ .opened then 0x22
  else if x.fn ≠ s.owner r then 0x23
  else if t = 3 ∧ leAt x.desc 2 1 = 1 then 0x25
  else if t = 4 ∧ (leAt x.desc 2 1 = 0 ∨ leAt x.desc 0xA0 1 ≠ 0) then 0x25
  else 0

/-- The hedges that a session is placed in have their JOB event (R391). -/
def State.jobLatch (s : State) (n : Nat) : State :=
  let x := s.sess n
  s.each ((x.shares.map fun e => Prod.fst e / 9) ++ (x.parts ++ x.decParts).map Prod.fst).eraseDups fun t h => t.latch (36 + h) 1

/-- Run the next job of ring `r` when it is one of type `typ` that `pick` accepts: it is fetched, checked, and either completes with the failed check's code or is carried out by `f`. Any other next job is left for its own command. -/
def State.withJob (s : State) (r typ : Nat) (pick : List Byte → Bool) (f : State → JobRef → List Byte → State) : State :=
  match s.nextJob r with
  | none => s
  | some b =>
    if leAt b 0 1 = typ ∧ pick b then
      let j := jobRefOf r b
      let code := s.jobCheck r b
      let s := s.takeJob r j
      let s := if code = 0 ∧ 2 ≤ typ ∧ typ ≤ 4 then s.jobLatch j.sess else s
      if code = 0 then f s j b else s.finishJob j 0 [] code
    else s

/-- The LTR row in force (R44): none is no requirement. -/
def State.ltrRow (s : State) : Option W32 :=
  if s.bit DEV_HOSTCTL 1 then some (s.reg DEV_LTR)
  else
    let on := (span 0 256).filter fun r => s.bit (hCTL (pgRING r)) 0 && s.hostAddressed r
    if on.any fun r => s.sessions.any fun e =>
        e.2.phase != .closed && leAt e.2.desc 0x24 1 == 0 && leAt e.2.desc 0x25 1 == r && leAt e.2.desc 2 1 != 1 && leAt e.2.desc 0x9A 1 == 0
    then some (BitVec.ofNat 32 (20 ||| 2 <<< 10))
    else if on.isEmpty then none
    else some (BitVec.ofNat 32 (200 ||| 2 <<< 10))

/-- A change of the LTR row in force sends a new LTR message while PF0 is in D0 (R44). -/
def State.ltrUpdate (s : State) : State :=
  if s.clocked && s.d0 0 && s.ltrRow != s.hif.ltr then
    ({ s with hif := { s.hif with ltr := s.ltrRow } }).whenB s.hif.linkUp fun t => t.emit (.ltr s.ltrRow)
  else s

end Sys2Proof.Machine
end

