-- ==== Sys2Proof/Machine/FabBase.lean ====
section
/-! DEFINITION. The fabric as every sender uses it (15_tolac_fabric_espalier.md R452, R457, R459 to R469): ports, routing, credits, the end-to-end store, and requests to other nodes. -/

namespace Sys2Proof.Machine

/-- The module's node ID (R462). -/
def State.nodeId (s : State) : Nat := s.f TSW_NODE 11 0

/-- A port carries fabric traffic: NATIVE, UP, its clock running (R452, R464). -/
def State.nativeUp (s : State) (n : Nat) : Bool :=
  s.f (TPT_MODE n) 1 0 == 2 && s.bit (TPT_LINK n) 0 && !s.gated (pgTPT n)

/-- Flits of a packet (R459). -/
def flitsOf (payload : List Byte) : Nat := ceilDiv (32 + payload.length) 64

/-- First packet of a virtual channel that has its credits and its room in the replay buffer (R457, R461). -/
def State.sendable (s : State) (n v : Nat) : Option (FabHeader × List Byte) :=
  match (s.port n).queue.find? fun x => x.1.vc == v with
  | some x =>
    if flitsOf x.2 ≤ s.f (TPT_CREDIT n v) 9 0 ∧ (s.port n).replay + flitsOf x.2 ≤ 512 then some x else none
  | none => none

/-- The packet the arbiter sends next: CTRL, then MEDIA, then MEM and BULK in turn (R461). -/
def State.arbitrate (s : State) (n : Nat) : Option (FabHeader × List Byte) :=
  let order := if (s.port n).bulkLast then [0, 1, 2, 3] else [0, 1, 3, 2]
  order.findSome? (s.sendable n)

/-- Send queued packets of a port while credits last; at most `k`. -/
def State.portPump (s : State) (n : Nat) : Nat → State
  | 0 => s
  | k + 1 =>
    if !s.nativeUp n then s
    else match s.arbitrate n with
      | none => s
      | some x =>
        let fl := flitsOf x.2
        let p := s.port n
        let s := s.setPort n { p with queue := p.queue.erase x, replay := p.replay + fl, bulkLast := if 2 ≤ x.1.vc then x.1.vc == 3 else p.bulkLast }
        let s := s.setF (TPT_CREDIT n x.1.vc) 9 0 (s.f (TPT_CREDIT n x.1.vc) 9 0 - fl)
        (((s.inc (TPT_TX_FLITS n) fl).emit (.fabric n x.1 x.2))).portPump n k

/-- Queue a packet at a port and send what can be sent. -/
def State.portSend (s : State) (n : Nat) (h : FabHeader) (payload : List Byte) : State :=
  let s := s.setPort n { s.port n with queue := (s.port n).queue ++ [(h, payload)] }
  s.portPump n (s.port n).queue.length

/-- Whether traffic of a virtual channel to a node still routes by the alternate (R465): ON_ALT for MEDIA and CTRL, the destination's own mark for MEM and BULK. -/
def State.onAlt (s : State) (dst vc : Nat) : Bool :=
  s.bit (TRT_ENTRY dst) 9 || (decide (2 ≤ vc) && (s.e2eOf dst vc).onAlt)

/-- A port takes new packets: it carries fabric traffic and is not being drained (R481). -/
def State.portTakes (s : State) (n : Nat) : Bool := s.nativeUp n && s.bit (hCTL (pgTPT n)) 0

/-- The output port of a packet (R464, R465). -/
def State.route (s : State) (h : FabHeader) : Option Nat :=
  let e := s.reg (TRT_ENTRY h.dst)
  let prim := fld e 2 0
  let alt := fld e 6 4
  let pOk := bitAt e 8 && s.portTakes prim
  let aOk := bitAt e 8 && bitAt e 7 && s.portTakes alt
  if h.dst = 0 ∨ 4095 ≤ h.dst then none
  else if h.alt then (if aOk then some alt else none)
  else if pOk && !(s.onAlt h.dst h.vc && aOk) then some prim
  else if aOk then some alt
  else none

/-- A packet without a route is dropped and counted (R464). -/
def State.noRoute (s : State) : State := (s.satF TSW_NOROUTE 31 0).event pgTSW 2

/-- Send a packet of this node by the route table; with the switch disabled it is dropped (R464, R483). -/
def State.fabOut (s : State) (h : FabHeader) (payload : List Byte) : State :=
  if !s.bit (hCTL pgTSW) 0 then s
  else match s.route h with
    | some n => s.portSend n h payload
    | none => s.noRoute

/-- A message of an espalier group to another member: it leaves if the table has a route for it, or is dropped and counted (R464, R474, R476). Its place in a packet is not given, so it leaves as a message (log entry 32). -/
def State.espOut (s : State) (node vc : Nat) (alt : Bool) (o : Output) : State :=
  if !s.bit (hCTL pgTSW) 0 then s
  else match s.route { ptype := if vc = 0 then 3 else 5, vc := vc, alt := alt, poison := false, hops := 63, dst := node, src := s.nodeId,
                       len := 0, seq := 0, tag := 0, addr := 0, resp := 0, sync := false } with
    | some _ => s.emit o
    | none => s.noRoute

/-! Outstanding requests to other nodes. -/

/-- Replace a descriptor in flight. -/
def State.setDesc (s : State) (r : Nat) (d : Desc) : State :=
  s.setRing r { s.ring r with descs := modFirst (fun x => x.index == d.index) (fun _ => d) (s.ring r).descs }

/-- The descriptor of a ring at an index, while it has not ended. -/
def State.descAt (s : State) (r i : Nat) : Option Desc := (s.ring r).descs.find? fun d => d.index == i && d.ended.isNone

/-- A request to another node ends without its response: its requester learns the response given (R20, R466, R533). -/
def State.remoteFail (s : State) (r : Remote) (resp : Resp) : State :=
  let fail (x : Xfer) : Xfer := { x with waits := x.waits - 1, err := if x.err = 0 then respErr resp else x.err }
  match r.req with
  | .seq q => s.setSeq q { s.seq q with busWait := false, busAbort := true }
  | .desc ring i _ =>
    match s.descAt ring i with
    | some d => s.setDesc ring { d with xfer := fail d.xfer }
    | none => s
  | .chan c _ =>
    match s.chan c with
    | some x => s.setChan c (some { x with xfer := fail x.xfer })
    | none => s

/-- Outstanding remote requests that satisfy `p` end without their responses. -/
def State.remotesFail (s : State) (p : Remote → Bool) (resp : Resp) : State :=
  let hit := s.remotes.filter p
  let s := { s with remotes := s.remotes.filter fun r => !p r }
  s.each hit fun t r => t.remoteFail r resp

/-! Reliable delivery (R466). -/

/-- Bytes the retransmit store holds: header and payload of every packet (R466, R484 TSW_RETX_FILL). -/
def State.retxFill (s : State) : Nat := (s.e2e.map fun e => (e.2.store.map fun x => 32 + x.2.1.length).sum).sum

/-- Store of 2 MiB (R466). -/
abbrev retxSize : Nat := 2 ^ 21

/-- A stored packet leaves, or has no route; the local agent of a request without a route learns ABORT_UNMAPPED (R464). -/
def State.e2eOut (s : State) (h : FabHeader) (payload : List Byte) : State :=
  let t := s.fabOut h payload
  let request := h.ptype == 6 || h.ptype == 7 || h.ptype == 9 || h.ptype == 10
  if request && s.bit (hCTL pgTSW) 0 && (s.route h).isNone then t.remotesFail (fun r => r.tag == h.tag && r.node == h.dst && r.vc == h.vc) .abortUnmapped else t

/-- Number, store and send one packet to a node on MEM or BULK. -/
def State.e2ePush (s : State) (node vc : Nat) (h : FabHeader) (payload : List Byte) : State :=
  let x := s.e2eOf node vc
  let h := { h with dst := node, vc := vc, src := s.nodeId, hops := 63, seq := x.nextSeq, sync := x.sync }
  let s := s.setE2e node vc { x with nextSeq := (x.nextSeq + 1) % 2 ^ 32, sync := false, store := x.store ++ [(h, payload, 0)] }
  s.e2eOut h payload

/-- Send on MEM or BULK, or wait while the store is full (R466). -/
def State.e2eSend (s : State) (node vc : Nat) (h : FabHeader) (payload : List Byte) : State :=
  let x := s.e2eOf node vc
  if !x.waiting.isEmpty || decide (retxSize < s.retxFill + 32 + payload.length) then
    (s.setE2e node vc { x with waiting := x.waiting ++ [(h, payload)] }).event pgTSW 5
  else s.e2ePush node vc h payload

/-- Waiting packets of one destination enter the store as room appears; at most `k`. -/
def State.e2ePump (s : State) (node vc : Nat) : Nat → State
  | 0 => s
  | k + 1 =>
    match (s.e2eOf node vc).waiting with
    | [] => s
    | (h, b) :: t =>
      if retxSize < s.retxFill + 32 + b.length then s
      else ((s.setE2e node vc { s.e2eOf node vc with waiting := t }).e2ePush node vc h b).e2ePump node vc k

/-- An unused request tag (log entry 19). -/
def State.newTag (s : State) : W32 := BitVec.ofNat 32 ((s.remotes.map fun r => r.tag.toNat).foldl max 0 + 1)

/-- Header of a request (R459). -/
def reqHeader (typ vc node addr len src : Nat) (t : W32) (pois : Bool) : FabHeader :=
  { ptype := typ, vc := vc, alt := false, poison := pois, hops := 63, dst := node, src := src, len := len,
    seq := 0, tag := t, addr := addr, resp := 0, sync := false }

/-- Whether a request of this node to another can be sent at all; otherwise its response is ABORT_UNMAPPED (R18, R462, R464, R469). -/
def State.remoteOk (s : State) (node vc : Nat) : Bool :=
  s.nodeId != 0 && node != 0 && decide (node < 4095) &&
  (!s.bit (hCTL pgTSW) 0 || (s.route (reqHeader 0 vc node 0 0 0 0 false)).isSome)

/-- A request to another node: MEM_RD 6, MEM_WR 7, BULK_WR 9, BULK_RD 10 (R460, R469). -/
def State.remoteSend (s : State) (req : Requester) (typ node addr len : Nat) (pois : Bool) (payload : List Byte) : State :=
  let vc := if typ ≤ 8 then 2 else 3
  let t := s.newTag
  let s := { s with remotes := s.remotes ++ [({ tag := t, req := req, len := len, node := node, vc := vc, write := typ == 7 || typ == 9 } : Remote)] }
  s.e2eSend node vc (reqHeader typ vc node addr len s.nodeId t pois) payload

/-- A global request to a node with no route: dropped and counted as R464 says, when the switch forwards. -/
def State.remoteRefused (s : State) (node : Nat) : State :=
  if s.nodeId != 0 && node != 0 && decide (node < 4095) && s.bit (hCTL pgTSW) 0 then s.noRoute else s

end Sys2Proof.Machine
end

