-- ==== Sys2Proof/Machine/Pools.lean ====
section
/-! DEFINITION. The pool manager's commands (11_buffer_pools.md R333, R336 to R345, R585; 08_job_formats.md R263, R270): enabling and disabling pools, waiters, reclaim, and the POOL_OP jobs. -/

namespace Sys2Proof.Machine

/-! Sessions and hedges, as far as the pool manager needs them. -/

/-- The first hedge of a session (R338). -/
def Sess.firstHedge (x : Sess) : Nat :=
  ((x.parts ++ x.decParts).map Prod.fst).foldl min ((x.shares.map fun (e : Nat × Nat) => e.1 / 9).foldl min 3)

/-- The agent that holds a session's references: the hedge sequencer of its first hedge (R14, R338). -/
def State.sessAgent (s : State) (n : Nat) : Nat := 36 + (s.sess n).firstHedge

/-- Microseconds since `t`, saturated to 16 bits (R268 WAIT_US). -/
def State.waited (s : State) (t : W32) : Nat := min (s.uptime - t).toNat 65535

/-- The picture of a session that waits for a reconstruction buffer goes on: with buffer `h`, or at the floor without one (R106). -/
def State.encGoOn (s : State) (h : Option W32) (p : EncPic) : EncPic :=
  let p := { p with waitUs := p.waiting.elim 0 s.waited, waiting := none }
  match h with
  | some h => { p with recon := h }
  | none => { p with noRecon := true, floorPic := true }

/-- The decode picture that waits for a reference buffer goes on (R176). -/
def decGoOn (h : Option W32) (p : DecPic) : DecPic :=
  match h with
  | some h => { p with recon := h, waiting := none }
  | none => { p with waiting := none }

/-- What a blocking allocation of session `n` answers reaches the picture that waited for it (R106, R176). -/
def State.reconAnswer (s : State) (n : Nat) (h : Option W32) : State :=
  let x := s.sess n
  if x.pics.any fun p => p.waiting.isSome then
    s.setSess n { x with pics := modFirst (fun p => p.waiting.isSome) (s.encGoOn h) x.pics }
  else s.setSess n { x with dec := modFirst (fun p => p.waiting.isSome) (decGoOn h) x.dec }

/-! Answers. -/

/-- The record body of a POOL_OP (R270). -/
def poolBody (h : W32) (count cause reclaimed : Nat) : List (Nat × List Byte) :=
  [(0x08, leBytes 4 h.toNat), (0x0C, leBytes 1 count), (0x0D, leBytes 1 cause), (0x10, leBytes 4 reclaimed)]

/-- The status code and body for what an operation answers; `h` is the job's handle. -/
def State.poolFinish (s : State) (j : JobRef) (h : W32) (x : PoolRes) : State :=
  match x with
  | .ok g c => s.finishJob j 0 (poolBody g c 0 0) 0
  | .none => s.finishJob j 0 (poolBody h 0 0 0) 0x39
  | .err c => s.finishJob j 0 (poolBody h 0 c 0) 0x38

/-- The answer to an agent. -/
def State.poolTell (s : State) (a : Nat) (x : PoolRes) : State :=
  match x with
  | .ok h _ => s.emit (.poolHandle a h)
  | .none => s.emit (.poolNone a)
  | .err c => s.emit (.poolError a c)

/-- NONE to one waiter (R340, R345). -/
def State.waiterNone (s : State) (p : Nat) (w : Waiter) : State :=
  let s := s.poolNone p
  match w.job, w.sess with
  | some j, _ => s.poolFinish j 0 .none
  | none, some n => s.reconAnswer n none
  | none, none => s.poolTell w.agent .none

/-- Every waiter of a pool receives NONE. -/
def State.waitersNone (s : State) (p : Nat) : State :=
  let ws := (s.pool p).waiters
  let s := s.setPool p { s.pool p with waiters := [] }
  s.each ws fun t w => t.waiterNone p w

/-- The initial references of an allocation by `a` of `n`. -/
def State.allocHolds (s : State) (p a n : Nat) : List (Nat × Nat) := if s.poolNamed p then [] else [(a, n)]

/-- A blocking allocation: served, refused, or one more waiter; none = it waits (R339, R340). -/
def State.poolBlocking (s : State) (w : Waiter) (p : Nat) : State × Option PoolRes :=
  let room := decide (s.poolFree p ≤ (s.pool p).waiters.length)
  if s.poolEn p && (s.poolNamed p || decide (w.count ≤ 255)) && room then
    if (s.pool p).waiters.length < 64 then
      (s.setPool p { s.pool p with waiters := (s.pool p).waiters ++ [w] }, none)
    else ((s.poolNone p).event pgPOOL 2, some .none)
  else
    let r := s.poolAlloc w.agent p (s.allocHolds p w.agent w.count)
    (r.1, some r.2)

/-- The oldest waiter is served when a buffer is free (R339, R340). -/
def State.waiterServe (s : State) (p : Nat) : State :=
  match (s.pool p).waiters with
  | [] => s
  | w :: ws =>
    let r := s.poolServe w.agent p (s.allocHolds p w.agent w.count) (if s.memSeed.isEmpty then s.poison.length + 1 else s.poolCount p + 1)
    match r.2 with
    | none => r.1
    | some h =>
      let s := r.1.setPool p { r.1.pool p with waiters := ws }
      let s := if 36 ≤ w.agent ∧ w.agent < 40 then s.latch w.agent 4 else s
      match w.job, w.sess with
      | some j, _ => s.poolFinish j 0 (.ok h (s.hbuf h).count)
      | none, some n => s.reconAnswer n (some h)
      | none, none => s.poolTell w.agent (.ok h 0)

/-! Enabling and disabling (R333, R335, R345, R55). -/

/-- Two ranges overlap. -/
def overlap (a n b m : Nat) : Bool := decide (a < b + m ∧ b < a + n)

/-- Bytes of a pool's memory. -/
def State.poolBytes (s : State) (p : Nat) : Nat := s.poolCount p * s.poolSize p

/-- The first check of R333 that fails, 0 when all pass. -/
def State.poolCheck (s : State) (p : Nat) : Nat :=
  let l := s.f (POOL_CFG p) 8 4
  let others := (span 0 64).filter fun q => q != p && s.poolOn q
  let meta_ := s.pair POOL_META_BASE_LO POOL_META_BASE_HI
  let first := s.f (POOL_FIRST p) 19 0
  if l < 12 ∨ 28 < l then 1
  else if s.poolCount p = 0 ∨ 1048576 < s.poolCount p then 2
  else if s.poolBase p % s.poolSize p ≠ 0 then 3
  else if s.hbmSize < s.poolBase p + s.poolBytes p || overlap (s.poolBase p) (s.poolBytes p) meta_ (2 ^ 26) ||
      others.any fun q => overlap (s.poolBase p) (s.poolBytes p) (s.poolBase q) (s.poolBytes q) then 4
  else if 1048576 < first + s.poolCount p ||
      others.any fun q => overlap first (s.poolCount p) (s.f (POOL_FIRST q) 19 0) (s.poolCount q) then 5
  else 0

/-- EN is written 1: ignored unless the pool is IDLE, else checked and started (R55, R333, R335). -/
def State.poolStart (s : State) (p : Nat) : State :=
  if s.poolEn p || s.poolActive p then s
  else
    let c := s.poolCheck p
    let s := s.setF (POOL_STAT p) 4 2 c
    if c ≠ 0 then s.event pgPOOL 4
    else
      let g := s.f (POOL_GEN p) 5 0
      let s := { s with bufs := s.bufs.filter fun e => e.1 / 2 ^ 20 != p }
      let s := (s.setPool p { startGen := g }).setF (POOL_GEN p) 5 0 (genNext g)
      (s.setB (POOL_CFG p) 0 true)

/-- EN is cleared with DRAIN_MODE 0 (R345). -/
def State.poolStopDrain (s : State) (p : Nat) : State :=
  let s := s.setB (POOL_CFG p) 0 false
  let s := s.setPool p { s.pool p with draining := true }
  (s.waitersNone p).poolSettle p

/-- Every allocated buffer of a pool, by handle. -/
def State.poolHandles (s : State) (p : Nat) : List W32 :=
  (s.bufs.filter fun e => e.1 / 2 ^ 20 == p && e.2.live).map fun e => s.bufHandle p (e.1 % 2 ^ 20)

/-- EN is cleared with DRAIN_MODE 1, or a drain becomes an abort (R55, R345). -/
def State.poolStopAbort (s : State) (p : Nat) : State :=
  let s := s.setB (POOL_CFG p) 0 false
  let s := s.setPool p { s.pool p with draining := true }
  let s := s.waitersNone p
  (s.each (s.poolHandles p) State.bufFree).poolSettle p

/-- A write of POOL_CFG.EN = 0 with a drain mode (R55): a running pool stops, a draining pool takes only the change to ABORT, an idle pool keeps the mode. -/
def State.poolStop (s : State) (p : Nat) (abort : Bool) : State :=
  if s.poolEn p then
    let s := s.setB (POOL_CFG p) 1 abort
    if abort then s.poolStopAbort p else s.poolStopDrain p
  else if (s.pool p).draining then
    if abort then (s.setB (POOL_CFG p) 1 true).poolStopAbort p else s
  else s.setB (POOL_CFG p) 1 abort

/-- A write of POOL_CFG: EN and DRAIN_MODE act as above; bits [8:2] are taken only while the pool is IDLE (R345, R348). -/
def State.poolCfgWrite (s : State) (p : Nat) (v : W32) : State :=
  let idle := !s.poolEn p && !s.poolActive p
  let s := if idle then s.setF (POOL_CFG p) 8 2 (fld v 8 2) else s
  if bitAt v 0 then
    if idle then (s.setB (POOL_CFG p) 1 (bitAt v 1)).poolStart p
    else if s.poolEn p then s.setB (POOL_CFG p) 1 (bitAt v 1) else s
  else s.poolStop p (bitAt v 1)

/-- The reset of the pool manager (R585): every pool aborted and unconfigured; the state region's base and every GEN_NEXT kept. -/
def State.poolMgrReset (s : State) : State :=
  let s := s.each (span 0 64) fun t p => if t.poolOn p then t.poolStopAbort p else t
  let s := { s with pools := [], bufs := [] }
  s.clearRegs 0x30 16 fun a =>
    a == POOL_META_BASE_LO || a == POOL_META_BASE_HI || decide (pgPOOL < a / 0x1000 ∧ 0x800 ≤ a % 0x1000 ∧ a % 0x80 = 0x28)

/-! Reclaim (R344). -/

/-- The end of a scan: the references and buffers of the agent are released, the record says how many, RECLAIM_DONE is raised. -/
def State.scanEnd (s : State) (p : Nat) : State :=
  match (s.pool p).scan with
  | none => s
  | some (victim, job, _) =>
    let ks := s.bufKeys.filter fun k => k / 2 ^ 20 == p
    let r := s.reclaimKeys victim (!s.poolNamed p) ks
    let s := r.1.setPool p { r.1.pool p with scan := none }
    let s := s.event pgPOOL 6
    match job with
    | some j => s.finishJob j 0 (poolBody 0 0 0 r.2) 0
    | none => s

/-- The start of a scan: one at a time on a pool; a second waits behind the first by ending it at once (log entry 18). -/
def State.scanStart (s : State) (a p victim : Nat) (job : Option JobRef) : State :=
  let s := s.scanEnd p
  if !s.poolOn p then
    let s := s.poolError a 5 4 0
    match job with
    | some j => s.poolFinish j 0 (.err 4)
    | none => s.poolTell a (.err 4)
  else s.setPool p { s.pool p with scan := some (victim, job, 0) }

/-! Commands. -/

/-- Whether the pool manager serves requests: clocked and not resetting (R19, R585). -/
def State.poolUp (s : State) : Bool := s.clocked && !s.busy pgPOOL

/-- An operation from an agent: answered, or ABORT_RESET while the pool manager resets. -/
def State.poolFor (s : State) (a : Nat) (f : State → State) : State :=
  if !s.clocked then s.quiet a
  else if s.busy pgPOOL then s.emit (.resp a .abortReset [])
  else f s

/-- The agent ID of a ring's function (R14). -/
def State.ringAgent (s : State) (r : Nat) : Nat := 64 + s.owner r

/-- A POOL_OP job of one OP: carried out, or ended ABORT_RESET while the pool manager resets. -/
def State.poolJob (s : State) (r op : Nat) (f : State → JobRef → List Byte → State) : State :=
  s.withJob r 8 (fun b => leAt b 0x10 1 == op || !jobFormatOk b (fun p => !s.poolNamed p)) fun s j b =>
    if s.busy pgPOOL then s.finishJob j 0 (poolBody (BitVec.ofNat 32 (leAt b 0x14 4)) 0 0 0) 0x41 else f s j b

/-- An operation on a handle, from a job or an agent. -/
def State.poolOnHandle (s : State) (op : Nat) (src : PoolSrc) (h : W32) (dst : Nat) (f : State → Nat → W32 → Nat → State × PoolRes) : State :=
  match src with
  | .agent a => s.poolFor a fun s => let r := f s a h dst; r.1.poolTell a r.2
  | .job r => s.poolJob r.val op fun s j b =>
      let h := BitVec.ofNat 32 (leAt b 0x14 4)
      let x := f s (s.ringAgent r.val) h (leAt b 0x18 1)
      match x.2 with
      | .ok _ c => x.1.poolFinish j h (.ok h c)
      | e => x.1.poolFinish j h e

/-- ALLOC (R336, R339, R340, R263). -/
def execAlloc (src : PoolSrc) (pool : PoolId) (count : Nat) (blocking : Bool) (s : State) : Out :=
  .next (match src with
    | .agent a => s.poolFor a fun s =>
        if blocking then
          let r := s.poolBlocking { agent := a, count := count } pool.val
          r.2.elim r.1 fun x => r.1.poolTell a x
        else let r := s.poolAlloc a pool.val (s.allocHolds pool.val a count); r.1.poolTell a r.2
    | .job g => s.poolJob g.val 0 fun s j b =>
        let p := leAt b 0x11 1
        let a := s.ringAgent g.val
        let n := leAt b 0x13 1
        if bitIn b 0x12 0 then
          let r := s.poolBlocking { agent := a, count := n, job := some j } p
          r.2.elim r.1 fun x => r.1.poolFinish j 0 x
        else let r := s.poolAlloc a p (s.allocHolds p a n); r.1.poolFinish j 0 r.2)

/-- ADDREF (R336). -/
def execAddref (src : PoolSrc) (h : W32) (s : State) : Out :=
  .next (s.poolOnHandle 1 src h 0 fun s a h _ => s.poolAddref a h)

/-- RELEASE (R336). -/
def execRelease (src : PoolSrc) (h : W32) (s : State) : Out :=
  .next (s.poolOnHandle 2 src h 0 fun s a h _ => s.poolRelease a h)

/-- TRANSFER (R336, R337). -/
def execTransfer (src : PoolSrc) (h : W32) (dst : Nat) (s : State) : Out :=
  .next (s.poolOnHandle 3 src h dst fun s a h d => s.poolTransfer a h d)

/-- FREE (R336). -/
def execFree (src : PoolSrc) (h : W32) (s : State) : Out :=
  .next (s.poolOnHandle 4 src h 0 fun s a h _ => s.poolFreeOp a h)

/-- RECLAIM_BY_OWNER (R344): the scan starts. -/
def execReclaimByOwner (src : PoolSrc) (pool : PoolId) (victim : Nat) (s : State) : Out :=
  .next (match src with
    | .agent a => s.poolFor a fun s => s.scanStart a pool.val victim none
    | .job g => s.poolJob g.val 5 fun s j b => s.scanStart (s.ringAgent g.val) (leAt b 0x11 1) (leAt b 0x18 1) (some j))

/-- RECLAIM_DONE (R344): the scan ends. -/
def execReclaimDone (pool : PoolId) (s : State) : Out := .next (if s.poolUp then s.scanEnd pool.val else s)

/-- POOL_WAITER_SERVED (R339, R340). -/
def execPoolWaiterServed (pool : PoolId) (s : State) : Out := .next (if s.poolUp then s.waiterServe pool.val else s)

/-- The page of a pool's registers (R348). -/
def poolPage (p : Nat) : Nat := 0x31 + p / 16

/-- POOL_ENABLE (R333, R335). -/
def execPoolEnable (who : Who) (pool : PoolId) (s : State) : Out :=
  .next (s.access who (poolPage pool.val) fun s => s.poolStart pool.val)

/-- POOL_DRAIN (R345). -/
def execPoolDrain (who : Who) (pool : PoolId) (s : State) : Out :=
  .next (s.access who (poolPage pool.val) fun s => s.poolStop pool.val false)

/-- POOL_ABORT (R345). -/
def execPoolAbort (who : Who) (pool : PoolId) (s : State) : Out :=
  .next (s.access who (poolPage pool.val) fun s => s.poolStop pool.val true)

/-- LINES_DONE_ADVANCE (R22, R341). -/
def execLinesDoneAdvance (a : Nat) (h : W32) (lines : Nat) (complete : Bool) (s : State) : Out :=
  .next (s.poolFor a fun s => s.linesDone a h lines complete)

end Sys2Proof.Machine
end

