-- ==== Sys2Proof/Machine/Jobs.lean ====
section
/-! DEFINITION. Command rings as such (08_job_formats.md R244, R248, R264, R276; 09_rings_dma.md R283, R301, R587): doorbells, owners, failed fetches, NOP, FENCE, undefined types, and the end of a ring by drain, abort and reset. The value write of a FENCE, which may reach a register, is in Late. -/

namespace Sys2Proof.Machine

/-- A write of RING_TAIL: bits at and above LOG2_SIZE read 0 (R283, R306). -/
def State.tailWrite (s : State) (r : Nat) (v : W32) : State :=
  s.setReg (RING_TAIL r) (BitVec.ofNat 32 (fld v 15 0 % s.ringSize r))

/-- Bit masks of IC_EN: source `n` disabled in every instance (R314). -/
def State.icUnroute (s : State) (r : Nat) : State :=
  let n := 144 + r
  s.each (span 0 32) fun t i =>
    let t := if t.bit (IC_EN i (n / 32)) (n % 32) then t.setB (IC_EN i (n / 32)) (n % 32) false else t
    t.setReg (IC_MOD i r) (regDefault (IC_MOD i r))

/-- A write of RING_CFG.OWNER (R39, R284, R314): only through PF0 and only while IDLE; a ninth ring of a VF is refused; the ring's source loses its pending and moderation state and its enables. -/
def State.ownerWrite (s : State) (who : Who) (r o : Nat) : State :=
  let viaPf := match who with
    | .pcie k => k.val == 0
    | .agent _ => true
  let idle := !s.bit (hCTL (pgRING r)) 0 && !s.pageActive (pgRING r)
  if !viaPf || !idle || s.owner r == o then s
  else if o ≠ 0 && decide (8 ≤ (s.ringsOf o).length) then s
  else ((s.setF (RING_CFG r) 20 16 o).modClear r).icUnroute r

/-- The next entry to fetch: behind those in flight (R283, R296). -/
def State.fetchIndex (s : State) (r : Nat) : Nat := (s.ringHead r + (s.ring r).descs.length) % s.ringSize r

/-- The ring may fetch: a DMA or COMMAND ring that runs, is not stopped by a link loss, and has an outstanding entry not yet fetched (R61, R283, R311). -/
def State.mayFetch (s : State) (r : Nat) : Bool :=
  s.clocked && decide (s.ringKind r < 2) && s.ringRun r && !(s.ring r).stopped && (s.ring r).fenceWait.isNone && !s.fetchHeld r &&
  decide ((s.ring r).descs.length < s.ringOut r) && decide ((s.ring r).descs.length < 8)

/-- An entry ends BAD (R295, R306, R303): counted, recorded, raised. -/
def State.entryBad (s : State) (r i err : Nat) : State :=
  let s := (s.ringBad r).ringLast r i err
  if s.ringKind r = 0 then s.satF DMA_BADCNT 15 0 else s

/-- The error of a fetch at index `i`: what the state itself tells, else the host error a sender reports, else none (R587). -/
def State.fetchErr (s : State) (r i err : Nat) : Option Nat :=
  match s.fetchEntry r i with
  | .bad e => some e
  | .wait => none
  | .ok _ => if !s.ringLocal r && (err == 5 || err == 6 || err == 7 || err == 14) then some err else none

/-! How a ring ends (R301, R302). -/

/-- Jobs that wait in a pool's list and came from ring `r` complete ABORTED (R276, R340). -/
def State.abortWaiters (s : State) (r : Nat) : State :=
  s.each (span 0 64) fun t p =>
    let mine (w : Waiter) : Bool := w.job.any fun j => j.ring == r
    let ws := (t.pool p).waiters.filter mine
    if ws.isEmpty then t
    else
      let t := t.setPool p { t.pool p with waiters := (t.pool p).waiters.filter fun w => !mine w }
      t.each ws fun t w => w.job.elim t fun j => t.finishJob j 0 (poolBody 0 0 0 0) 3

/-- Outstanding jobs of a COMMAND ring complete ABORTED, in ring order; `n` bounds the walk (R276, R301). -/
def State.abortJobs (s : State) (r : Nat) : Nat → State
  | 0 => s
  | n + 1 =>
    if s.ringOut r = 0 then s
    else match s.fetchEntry r (s.ringHead r) with
      | .wait => s
      | .bad e =>
        let i := s.ringHead r
        ((s.entryBad r i e).setHead r ((i + 1) % s.ringSize r)).abortJobs r n
      | .ok b =>
        let j := jobRefOf r b
        ((s.takeJob r j).finishJob j 0 [] 3).abortJobs r n

/-- The slice a STREAM ring was writing is dropped: counted, raised (R298, R301). -/
def State.sliceDropped (s : State) (r : Nat) : State :=
  ((s.setRing r { s.ring r with stream := none }).satF (RING_DROP r) 15 0).event (pgRING r) 2

/-! Commands. -/

/-- RING_DOORBELL (R283). -/
def execRingDoorbell (who : Who) (r : RingId) (tail : W32) (s : State) : Out :=
  .next (s.access who (pgRING r.val) fun s => s.tailWrite r.val tail)

/-- RING_OWNER_CHANGE (R39, R314). -/
def execRingOwnerChange (who : Who) (r : RingId) (owner : FnId) (s : State) : Out :=
  .next (s.access who (pgRING r.val) fun s => s.ownerWrite who r.val owner.val)

/-- JOB_BAD_TYPE (R248). -/
def execJobBadType (r : RingId) (s : State) : Out :=
  .next (match s.nextJob r.val with
    | some b =>
      if leAt b 0 1 = 0 ∨ 10 < leAt b 0 1 then
        let j := jobRefOf r.val b
        (s.takeJob r.val j).finishJob j 0 [] 0x20
      else s
    | none => s)

/-- NOP (R264). -/
def execNop (r : RingId) (s : State) : Out :=
  .next (s.withJob r.val 9 (fun _ => true) fun s j _ => s.finishJob j 0 [] 0)

/-- FENCE (R264): the ring waits. -/
def execFence (r : RingId) (s : State) : Out :=
  .next (s.withJob r.val 10 (fun _ => true) fun s j b =>
    s.setRing r.val { s.ring r.val with fenceWait := some (j, bitIn b 0x10 0, bitIn b 0x10 1, BitVec.ofNat 64 (leAt b 0x18 8), BitVec.ofNat 64 (leAt b 0x20 8)) })

end Sys2Proof.Machine
end

