-- ==== Sys2Proof/Machine/DmaBase.lean ====
section
/-! DEFINITION. DMA descriptors as shared operations (09_rings_dma.md R287 to R296, R301, R310, R312; 02_host_attachment.md R61): checks, where addresses lead, poison on the way, ends in ring order, aborts. The data moves that may reach registers are in Dma. -/

namespace Sys2Proof.Machine

/-! Fields (R287). -/

def Desc.dctl (d : Desc) : Dctl := dctlOf (BitVec.ofNat 32 (leAt d.bytes 0x14 4))
def Desc.len (d : Desc) : Nat := leAt d.bytes 0x10 4
def Desc.crcAddr (d : Desc) : Nat := leAt d.bytes 0x18 8
/-- The handle of a HANDLE address at offset `o` (0 SRC, 8 DST). -/
def Desc.handle (d : Desc) (o : Nat) : W32 := BitVec.ofNat 32 (leAt d.bytes o 4)

/-- Where a transfer reads or writes. -/
inductive Place
  | host (a : Nat)
  | loc (a : Nat)
  | node (n a : Nat)
  deriving DecidableEq, Repr

/-- A global address: this module, another node, or node 0 or 4095, which no request reaches (R18). -/
def State.globalPlace (s : State) (g : Nat) : Place :=
  let n := g / 2 ^ 48 % 4096
  let a := g % 2 ^ 48
  if n ≠ 0 ∧ n ≠ 4095 ∧ n = s.nodeId then .loc a else .node n a

/-- Where an address of a descriptor leads (R287). -/
def State.descPlace (s : State) (d : Desc) (o : Nat) (k : AddrKind) : Place :=
  match k with
  | .host => .host (leAt d.bytes o 8)
  | .localA => .loc (leAt d.bytes o 6)
  | .global => s.globalPlace (leAt d.bytes o 8)
  | .handle => .loc (s.bufAddr (d.handle o) + leAt d.bytes (o + 4) 4)

/-- Whether a descriptor needs host memory (R285). -/
def Desc.needsHost (d : Desc) : Bool :=
  let c := d.dctl
  c.srcKind == .host || c.dstKind == .host || (c.crcEn && c.crcHost)

/-! The checks of R289. -/

/-- A field of one of the four address forms is within its layout (R287). -/
def addrFormOk (d : Desc) (o : Nat) (k : AddrKind) : Bool :=
  match k with
  | .localA => zeroAt d.bytes (o + 6) 2
  | .global => decide (leAt d.bytes (o + 7) 1 < 16)
  | _ => true

/-- Step 1. -/
def descForm (d : Desc) : Bool :=
  let c := d.dctl
  c.own && decide (c.reserved = 0) && decide (c.swap < 5) && decide (0 < d.len ∧ d.len ≤ (if c.control then 2 ^ 20 else 2 ^ 30)) &&
  addrFormOk d 0 c.srcKind && addrFormOk d 8 c.dstKind &&
  (if c.crcEn then decide (d.crcAddr % 4 = 0) && (c.crcHost || decide (d.crcAddr < 2 ^ 48)) else decide (d.crcAddr = 0)) &&
  (!c.peer || c.dstKind == .host) && (!c.relSrc || c.srcKind == .handle) &&
  (c.circ == 0 || decide (12 ≤ c.circ ∧ c.circ ≤ 30))

/-- The address a swap group is measured on: the offset in the buffer of a HANDLE counts from an aligned base. -/
def Desc.addrLow (d : Desc) (o : Nat) (k : AddrKind) : Nat := if k = .handle then leAt d.bytes (o + 4) 4 else leAt d.bytes o 8

/-- Step 2: the class rules and the circular rules (R290, R291). -/
def descClass (d : Desc) : Bool :=
  let c := d.dctl
  let g := swapGroup c.swap
  (if c.control then !c.crcEn else c.swap == 0) &&
  decide (d.len % g = 0 ∧ d.addrLow 0 c.srcKind % g = 0 ∧ d.addrLow 8 c.dstKind % g = 0) &&
  (c.circ == 0 || ((c.dstKind == .host || c.dstKind == .localA) && !c.peer && decide (d.len ≤ 2 ^ c.circ)))

/-- A range that function `k` may use, circular when `n` is not 0 (R289 step 3, R291). -/
def State.mayUseCirc (s : State) (k n a len : Nat) : Bool :=
  if n = 0 then s.mayUse k a len
  else if a % 2 ^ n + len ≤ 2 ^ n then s.mayUse k a len
  else
    let m := a % 2 ^ n + len - 2 ^ n
    s.mayUse k a (len - m) && s.mayUse k (a / 2 ^ n * 2 ^ n) m

/-- Step 3 for one address of a ring of function `k`. -/
def State.descWindow (s : State) (k : Nat) (d : Desc) (o : Nat) (kind : AddrKind) : Bool :=
  if k = 0 then true
  else match kind with
    | .host => true
    | .localA => s.mayUseCirc k (if o = 8 then d.dctl.circ else 0) (leAt d.bytes o 6) d.len
    | .global => false
    | .handle => (s.vfWindow k).isSome

/-- Step 4 for one address: a live buffer that holds the range. -/
def State.descHandle (s : State) (d : Desc) (o : Nat) (kind : AddrKind) : Bool :=
  if kind = .handle then
    let h := d.handle o
    s.live h && (s.poolNamed (hPool h) || (s.hbuf h).count != 0) && decide (leAt d.bytes (o + 4) 4 + d.len ≤ s.poolSize (hPool h))
  else true

/-- Step 3 of a HANDLE once it is resolved. -/
def State.descHandleWin (s : State) (k : Nat) (d : Desc) (o : Nat) (kind : AddrKind) : Bool :=
  if kind = .handle then s.mayUse k (s.bufAddr (d.handle o) + leAt d.bytes (o + 4) 4) d.len else true

/-- The first check of R289 that fails, as its ERR; 0 when all pass. -/
def State.descCheck (s : State) (k : Nat) (d : Desc) : Nat :=
  let c := d.dctl
  if !descForm d || !descClass d then eFORMAT
  else if !s.descWindow k d 0 c.srcKind || !s.descWindow k d 8 c.dstKind || (c.crcEn && !c.crcHost && !s.mayUse k d.crcAddr 4) then eWINDOW
  else if !s.descHandle d 0 c.srcKind || !s.descHandle d 8 c.dstKind then eHANDLE
  else if !s.descHandleWin k d 0 c.srcKind || !s.descHandleWin k d 8 c.dstKind then eWINDOW
  else eNONE

/-! Data with poison. -/

/-- HBM bytes with the poison tag of their sectors. -/
def State.hbmTagged (s : State) (a n : Nat) : List (Byte × Bool) := (span a n).map fun x => (s.hbmByte x, s.poisonAt x)

/-- Write bytes at local addresses of HBM: a sector that receives a poisoned byte becomes poisoned; one written whole and clean becomes clean; another keeps its tag (R293, R365). -/
def State.putCells (s : State) (cs : List (Nat × Byte × Bool)) : State :=
  let s := s.each cs fun t c => t.setHbmByte c.1 c.2.1
  let s := s.each ((cs.map fun c => c.1 / 32 * 32).eraseDups) fun t b =>
    let mine := cs.filter fun c => c.1 / 32 * 32 == b
    if mine.any fun c => c.2.2 then t.setPoison b true
    else if (mine.map fun c => c.1).eraseDups.length = 32 then t.setPoison b false
    else t
  let s := s.each ((cs.map fun c => c.1 / 32 * 32).eraseDups) fun t b =>
    t.injectTake b (cs.filter fun c => c.1 / 32 * 32 == b).length
  s.each (span 0 4) fun t i =>
    let k := (cs.filter fun c => t.stackOf c.1 == i).length
    if k = 0 then t else t.setPair (HBM_WR_BYTES_LO i) (HBM_WR_BYTES_HI i) ((t.pair (HBM_WR_BYTES_LO i) (HBM_WR_BYTES_HI i) + k) % 2 ^ 64)

/-- Bytes with their addresses, linear or circular in a block of 2^n bytes (R291). -/
def placed (n a : Nat) (bs : List (Byte × Bool)) : List (Nat × Byte × Bool) :=
  (List.range bs.length).map fun i => let b := bs.getD i (0, false); (circAddr n a i, b.1, b.2)

/-- Write to host memory: zeros in place of poisoned bytes (R293). -/
def State.putHost (s : State) (cs : List (Nat × Byte × Bool)) : State :=
  s.each cs fun t c => t.hostWrite c.1 [if c.2.2 then 0 else c.2.1]

/-- A subset of the bytes of a transfer, of which nothing is known (R293, R295). -/
def State.someOf (s : State) (cs : List (Nat × Byte × Bool)) : List (Nat × Byte × Bool) :=
  ((List.range cs.length).zip cs).filterMap fun x => if Config.freeBool (s.fresh + x.1) then some x.2 else none

/-- The bytes that a transfer holds, in order. -/
def Xfer.bytes (x : Xfer) : List (Byte × Bool) := (x.got.map fun e => e.2.1.map fun b => (b, e.2.2 || x.poison)).flatten

/-- The data of a descriptor's source as a read without side effects gives it; none where it cannot be read whole. -/
def State.descData (s : State) (d : Desc) : List (Byte × Bool) :=
  match s.descPlace d 0 d.dctl.srcKind with
  | .host a => (s.hostBytes a d.len).map fun b => (b, false)
  | .loc a =>
    if s.inHbm a d.len then s.hbmTagged a d.len
    else (s.localRead a d.len).2.map fun b => (b, false)
  | .node _ _ => d.xfer.bytes

/-- A descriptor in flight is cut off: some undefined part of its data has landed (R293). -/
def State.descPartial (s : State) (d : Desc) : State :=
  let c := d.dctl
  let cs := fun a => s.someOf (placed c.circ a (s.descData d))
  let t := match s.descPlace d 8 c.dstKind with
    | .host a => s.putHost (cs a)
    | .loc a => s.putCells ((cs a).filter fun x => s.inHbm x.1 1)
    | .node _ _ => s
  { t with fresh := s.fresh + d.len }

/-! Ends. -/

/-- The DCTL write of the oldest ended descriptor: its success (R296, R587). -/
def State.dctlWrite (s : State) (r : Nat) (d : Desc) (status err : Nat) : State × Nat :=
  let k := s.owner r
  let a := s.entryAddr r d.index + 0x14
  let w := leBytes 4 (dctlEnd (BitVec.ofNat 32 (leAt d.bytes 0x14 4)) status err).toNat
  if s.ringLocal r then
    if !s.mayUse k a 4 then (s, 12) else if !s.inHbm a 4 then (s, 11) else (s.hbmWrite a w false, 0)
  else if !s.hif.linkUp then (s, 4)
  else if !(s.fn k).bme then (s, 8)
  else (s.hostWrite a w, 0)

/-- Whether the ends of a ring wait: its memory is in host memory, and the link is lost until the ring is reset, or the owner is in D3hot (R43, R61). -/
def State.endsWait (s : State) (r : Nat) : Bool := !s.ringLocal r && ((s.ring r).stopped || !s.d0 (s.owner r))

/-- Write the ends that stand at the front of the ring, in ring order; at most `n`. -/
def State.dmaRetire (s : State) (r : Nat) : Nat → State
  | 0 => s
  | n + 1 =>
    match (s.ring r).descs with
    | [] => s
    | d :: ds =>
      match d.ended with
      | none => s
      | some (st, err) =>
        if s.endsWait r then s
        else
          let x := s.dctlWrite r d st err
          let s := x.1.setRing r { x.1.ring r with descs := ds }
          let s := s.setHead r ((d.index + 1) % s.ringSize r)
          let s := if x.2 = 0 then s.ringCompletion r else (s.ringBad r).ringLast r d.index x.2
          s.dmaRetire r n

/-- Nothing waits any more for the answers of some requests to other nodes. -/
def State.dropRemotes (s : State) (p : Requester → Bool) : State := { s with remotes := s.remotes.filter fun x => !p x.req }

/-- REL_SRC of a descriptor is made under the owner's agent (R293, R302). -/
def State.relSource (s : State) (r : Nat) (d : Desc) : State :=
  if d.dctl.relSrc && d.dctl.srcKind == .handle then (s.poolRelease (s.ringAgent r) (d.handle 0)).1 else s

/-- A descriptor ends: REL_SRC is released, a BAD end is counted, a POISONED one raised, LINK_DOWN among them raised as well, and ends are written in order (R293, R295, R296, R305). -/
def State.descEnd (s : State) (r : Nat) (d : Desc) (status err : Nat) : State :=
  let s := s.relSource r d
  let s := if status = 1 then s.entryBad r d.index err else if status = 3 then s.event (pgRING r) 1 else s
  let s := if status = 1 ∧ err = eLINK_DOWN then s.event (pgRING r) 5 else s
  let s := (s.setDesc r { d with ended := some (status, err) }).dropRemotes fun q => match q with | .desc a i _ => a == r && i == d.index | _ => false
  s.dmaRetire r 8

/-- Every descriptor in flight that satisfies `p` ends with a status and an ERR; one that has started leaves an undefined part of its data (R61, R293). -/
def State.cutDescs (s : State) (r status err : Nat) (p : Desc → Bool) : State :=
  s.each ((s.ring r).descs.filter fun d => d.ended.isNone && p d) fun t d =>
    (if d.started then t.descPartial d else t).descEnd r d status err

/-- An entry of a DMA ring that could not be read ends with a status and an ERR: the host's fields of its DCTL are not known (R587; with no read possible at an abort, log entry 124). -/
def State.descUnread (s : State) (r i status err : Nat) : State :=
  let d : Desc := { index := i, bytes := List.replicate 20 0 ++ leBytes 4 s.freeWord.toNat, ended := some (status, err) }
  let s := s.draw
  let s := if status = 1 then s.entryBad r i err else s
  (s.setRing r { s.ring r with descs := (s.ring r).descs ++ [d] }).dmaRetire r 8

/-- Outstanding descriptors not yet fetched end ABORTED, in ring order, up to the tail; at most `n` (R301). -/
def State.abortRest (s : State) (r : Nat) : Nat → State
  | 0 => s
  | n + 1 =>
    if s.ringOut r ≤ (s.ring r).descs.length then s
    else
      let i := s.fetchIndex r
      let put (t : State) (d : Desc) : State := t.setRing r { t.ring r with descs := (t.ring r).descs ++ [d] }
      match s.fetchEntry r i with
      | .ok b => ((put s { index := i, bytes := b }).descEnd r { index := i, bytes := b } 2 0).abortRest r n
      | .bad e => (s.descUnread r i 1 e).abortRest r n
      | .wait => (s.descUnread r i 2 0).abortRest r n

/-- ABORT of a DMA ring (R301). -/
def State.abortDma (s : State) (r : Nat) : State :=
  ((s.cutDescs r 2 0 fun _ => true).abortRest r (s.ringOut r))

/-- Accepted work of a ring ended with ABORT semantics, by its kind (R276, R301). -/
def State.ringAbortWork (s : State) (r : Nat) : State :=
  match s.ringKind r with
  | 0 => s.abortDma r
  | 1 =>
    let s := (s.abortJobs r (s.ringOut r)).abortWaiters r
    s.setRing r { s.ring r with openJobs := (s.ring r).openJobs.filter fun j => j.typ != 6 }
  | 3 => if (s.ring r).stream.isSome then s.sliceDropped r else s
  | _ => s

/-- Registers of a ring that SRST, FLR and a host-interface reset keep (R302). -/
def ringKept (r a : Nat) : Bool :=
  a == RING_CFG r || a == RING_BASE_LO r || a == RING_BASE_HI r || a == RING_CBUF_CFG r || a == RING_CBUF_BASE_LO r || a == RING_CBUF_BASE_HI r

/-- Outstanding entries of a DMA ring that are not fetched, as far as they can be read (R283, R302). -/
def State.unfetched (s : State) (r : Nat) : List Desc :=
  if s.ringKind r ≠ 0 then []
  else (List.range (s.ringOut r - (s.ring r).descs.length)).filterMap fun i =>
    match s.fetchEntry r ((s.fetchIndex r + i) % s.ringSize r) with
    | .ok b => some { index := (s.fetchIndex r + i) % s.ringSize r, bytes := b }
    | _ => none

/-- The reset of a ring: nothing is written; outstanding descriptors are discarded with their releases; indices, offsets and counters return to 0; moderation clears (R302, R321). Dispatched jobs go on by their own rules. -/
def State.ringReset (s : State) (r : Nat) : State :=
  let rest := s.unfetched r
  let s := s.each ((s.ring r).descs.filter fun d => d.ended.isNone) fun t d => (if d.started then t.descPartial d else t).relSource r d
  let s := s.each rest fun t d => t.relSource r d
  let s := s.dropRemotes fun q => match q with | .desc a _ _ => a == r | _ => false
  let s := if (s.ring r).stream.isSome then s.sliceDropped r else s
  let s := s.setRing r { openJobs := (s.ring r).openJobs, held := (s.ring r).held, fenceWait := (s.ring r).fenceWait }
  ((s.clearRegs (pgRING r) 1 (ringKept r)).setDrain (pgRING r) false).setBusy (pgRING r) false

end Sys2Proof.Machine
end

