-- ==== Sys2Proof/Machine/Place.lean ====
section
/-! DEFINITION. Sessions' descriptors as streams, hedge capacity, loads and placement (03_codec_cores_sessions.md R66 to R78, R94; 04_encoding.md R106, R109; 05_rate_control_latency.md R145, R147; 15_tolac_fabric_espalier.md R471). -/

namespace Sys2Proof.Machine

/-! The stream that a descriptor names (R249, R253). -/

structure Stream where
  codec : Nat
  prof : Nat
  level : Nat
  tier : Nat
  chroma : Nat
  depth : Nat
  w : Nat
  h : Nat
  deriving DecidableEq, Repr

/-- KIND: 0 encode, 1 decode, 2 transcode. -/
def kindOf (d : List Byte) : Nat := leAt d 2 1

def mainStream (d : List Byte) : Stream :=
  { codec := leAt d 3 1, prof := leAt d 4 1, level := leAt d 5 1, tier := leAt d 6 1, chroma := leAt d 7 1,
    depth := leAt d 8 1, w := leAt d 0xC 2, h := leAt d 0xE 2 }

/-- The decoded stream: the descriptor's own for DECODE, the DEC_ fields for TRANSCODE. -/
def decStream (d : List Byte) : Stream :=
  if kindOf d = 2 then
    { codec := leAt d 0xAC 1, prof := leAt d 0xAD 1, level := leAt d 0xAE 1, tier := leAt d 0xAF 1, chroma := leAt d 0xB0 1,
      depth := leAt d 0xB1 1, w := leAt d 0xB2 2, h := leAt d 0xB4 2 }
  else mainStream d

def rateNum (d : List Byte) : Nat := leAt d 0x10 2
def rateDen (d : List Byte) : Nat := leAt d 0x12 2
/-- REFRESH mode (R153). -/
def refresh (d : List Byte) : Bool := leAt d 0x9A 1 == 1
def hasEnc (d : List Byte) : Bool := kindOf d != 1
def hasDec (d : List Byte) : Bool := kindOf d != 0
def sliceRows (d : List Byte) : Nat := max 1 (leAt d 0x4D 1)

/-- CTU height in lines, four macroblock rows for AVC (R109). -/
def ctuLines (codec : Nat) : Nat := if codec = 2 then 128 else 64
/-- CTU rows of a height. -/
def ctuRows (codec h : Nat) : Nat := ceilDiv h (ctuLines codec)
/-- Units in a CTU row of width `w` (R147). -/
def rowUnits (codec w : Nat) : Nat :=
  match codec with
  | 0 => 4 * ceilDiv w 16
  | 2 => ceilDiv w 128
  | _ => ceilDiv w 64
/-- Floor of a unit, and the row header H (R147). -/
def unitFloor (codec : Nat) (intra : Bool) : Nat :=
  match codec, intra with
  | 0, false => 3
  | 0, true => 16
  | 1, false => 6
  | 1, true => 40
  | 2, false => 8
  | 2, true => 72
  | _, false => 8
  | _, true => 48
def rowHeader (codec : Nat) : Nat :=
  match codec with
  | 0 => 40
  | 1 => 48
  | 2 => 64
  | _ => 32
/-- Floor of a row with `ni` intra units among `n` (R147, R160). -/
def rowFloor (codec n ni : Nat) : Nat := (n - ni) * unitFloor codec false + ni * unitFloor codec true + rowHeader codec
/-- A whole picture at the floor without its overhead. -/
def picFloor (st : Stream) (intra : Bool) : Nat :=
  let n := rowUnits st.codec st.w
  ctuRows st.codec st.h * rowFloor st.codec n (if intra then n else 0)

/-- Personality of a codec and direction (R79). -/
def persOf (codec : Nat) (dec : Bool) : Nat := 2 * codec + 1 + b2n dec

/-! The cost of work (R69), in two-hundredths of a cycle per pixel. -/

def cost200 (st : Stream) (dec inherit : Bool) : Nat :=
  let av1 := st.codec == 3
  let c := if dec then (if av1 then 250 else 200) else if inherit then (if av1 then 400 else 320) else if av1 then 500 else 400
  if st.chroma = 3 then c * 3 / 2 else c

/-- Load of a part `w` samples wide (R70). -/
def loadOf (st : Stream) (d : List Byte) (w cost : Nat) : Nat :=
  ceilDiv (w * st.h * rateNum d * cost * 1024) (rateDen d * 200 * 1500000000)

/-! Hedges and cores. -/

/-- Role of a slot: 0 ACTIVE, 1 SPARE, 2 FAILED, 3 RETIRED (R93). -/
def State.role (s : State) (h slot : Nat) : Nat := s.f (HDG_ROLES h) (2 * slot + 1) (2 * slot)
def State.setRole (s : State) (h slot v : Nat) : State := s.setF (HDG_ROLES h) (2 * slot + 1) (2 * slot) v
def State.coreRole (s : State) (c : Nat) : Nat := s.role (c / 9) (c % 9)
/-- The active cores of a hedge, in order. -/
def State.activeCores (s : State) (h : Nat) : List Nat := (span (9 * h) 9).filter fun c => s.coreRole c == 0
/-- The spare of a hedge. -/
def State.spareOf (s : State) (h : Nat) : Option Nat := (span (9 * h) 9).find? fun c => s.coreRole c == 1

/-- Core clock at a DVFS point in MHz (R71). -/
def dvfsMHz (p : Nat) : Nat :=
  match p with
  | 0 => 1500
  | 1 => 1200
  | 2 => 1000
  | 3 => 800
  | 4 => 600
  | _ => 400
/-- Clock in force: HDG_DVFS.CUR. -/
def State.hedgeMHz (s : State) (h : Nat) : Nat := dvfsMHz (s.f (HDG_DVFS h) 6 4)

/-- Capacity of a hedge at a clock (R70). -/
def State.capacityAt (s : State) (h mhz : Nat) : Nat := (s.activeCores h).length * 1024 * mhz / 1500

/-- Load a session places in a hedge. -/
def Sess.loadIn (x : Sess) (h : Nat) : Nat :=
  if x.phase = .closed then 0
  else ((x.shares.filter fun e => e.1 / 9 == h).map Prod.snd).sum + (((x.parts ++ x.decParts).filter fun e => e.1 == h).map fun e => e.2.1).sum

/-- ADMITTED of a hedge. -/
def State.admitted (s : State) (h : Nat) : Nat := (s.sessions.map fun e => e.2.loadIn h).sum

/-- HDG_LOAD shows ADMITTED and CAPACITY (R93). -/
def State.loadUpdate (s : State) (h : Nat) : State :=
  s.setReg (HDG_LOAD h) (BitVec.ofNat 32 (s.capacityAt h (s.hedgeMHz h) <<< 16 ||| s.admitted h % 65536))

def State.loadsUpdate (s : State) : State := s.each (span 0 4) State.loadUpdate

/-- Free units of a hedge (R76). -/
def State.freeUnits (s : State) (h : Nat) : Nat := s.capacityAt h (s.hedgeMHz h) - s.admitted h

/-- Units of pinned shares on a core. -/
def State.coreUnits (s : State) (c : Nat) : Nat :=
  (s.sessions.map fun e => if e.2.phase = .closed then 0 else ((e.2.shares.filter fun x => x.1 == c).map Prod.snd).sum).sum

/-- Personalities of the sessions pinned to a core. -/
def State.pinnedPers (s : State) (c : Nat) : List Nat :=
  ((s.sessions.filter fun e => e.2.phase != .closed && e.2.shares.any fun x => x.1 == c).map fun e => persOf (mainStream e.2.desc).codec false).eraseDups

/-- Personalities of the sessions that run pooled in a hedge. -/
def State.pooledPers (s : State) (h : Nat) : List Nat :=
  ((s.sessions.map fun e =>
    if e.2.phase = .closed then []
    else (if e.2.parts.any fun x => x.1 == h then [persOf (mainStream e.2.desc).codec false] else []) ++
      (if e.2.decParts.any fun x => x.1 == h then [persOf (decStream e.2.desc).codec true] else [])).flatten).eraseDups

/-- Personalities that placed sessions need on a core: those pinned there, and those resident there that the hedge's pooled sessions use. -/
def State.neededPers (s : State) (c : Nat) : List Nat :=
  let res := [(s.seq c).bankA.pers, (s.seq c).bankB.pers].filter fun p => (s.pooledPers (c / 9)).contains p
  (s.pinnedPers c ++ res).eraseDups

/-- Core limit: floor(1024 x f / 1.5 GHz), 32 less with two personalities (R70). -/
def coreLimit (mhz pers : Nat) : Nat := 1024 * mhz / 1500 - (if 2 ≤ pers then 32 else 0)

/-- Units left on a core for work of personality `p`; none where it cannot run it. -/
def State.coreLeft (s : State) (c p : Nat) : Option Nat :=
  let ps := s.neededPers c
  let ps' := if ps.contains p then ps else p :: ps
  if 2 < ps'.length then none else some (coreLimit (s.hedgeMHz (c / 9)) ps'.length - s.coreUnits c)

/-! Core count of a pinned session (R78). -/

/-- Lines of the picture period that the source delivers, and the source height. -/
def State.rasterLines (s : State) (d : List Byte) (srcH : Nat) : Nat :=
  if kindOf d = 2 then (if leAt d 0xA6 2 = 0 then (decStream d).h else leAt d 0xA6 2)
  else if leAt d 0x18 1 = 1 then
    let p := leAt d 0x19 1
    if s.f (CMP_LINES p) 13 0 = 0 then srcH else s.f (CMP_LINES p) 13 0
  else if leAt d 0x26 2 = 0 then srcH else leAt d 0x26 2

/-- The smallest n with n x T_row at least 2 t_c + 10 us. -/
def State.coreCount (s : State) (d : List Byte) (srcH cost mhz : Nat) : Nat :=
  let st := mainStream d
  let rows := sliceRows d * ctuLines st.codec
  let a := rows * srcH * rateDen d
  let b := st.h * rateNum d * s.rasterLines d srcH
  let c := st.w * rows * cost
  let k := 200 * mhz * 1000000
  ceilDiv ((200000 * c + k) * b) (100000 * k * a)

/-! Placement (R76). -/

/-- Hedges a mask allows, most free units first, ties to the lower number. -/
def State.hedgeOrder (s : State) (mask : Nat) : List Nat :=
  sortBy (fun a b => decide (s.freeUnits b ≤ s.freeUnits a)) ((span 0 4).filter fun h => mask == 0 || mask.testBit h)

/-- The same order with one hedge first, where it is allowed: an inheriting rung tries its analysing rung's hedge first (step 2). -/
def State.placeOrder (s : State) (mask : Nat) (first : Option Nat) : List Nat :=
  let o := s.hedgeOrder mask
  match first with
  | some h => (o.filter fun k => k == h) ++ o.filter fun k => k != h
  | none => o

/-- Step 3: give the shares one by one; `k` still to give. -/
def State.giveShares (s : State) (n h p units : Nat) : Nat → Option State
  | 0 => some s
  | k + 1 =>
    let x := s.sess n
    let ok := (s.activeCores h).filterMap fun c =>
      match s.coreLeft c p with
      | some l => if units ≤ l ∧ !(x.shares.any fun e => e.1 == c) then some (c, l) else none
      | none => none
    match ok with
    | [] => none
    | e :: es =>
      let best := es.foldl (fun b y => if b.2 < y.2 then y else b) e
      (s.setSess n { x with shares := x.shares ++ [(best.1, units)] }).giveShares n h p units k

/-- Steps 2 and 3 in one hedge for a pinned session of load `l`. -/
def State.tryPinned (s : State) (n h cost l srcH : Nat) : Option State :=
  let d := (s.sess n).desc
  let k := s.coreCount d srcH cost (s.hedgeMHz h)
  if k = 0 ∨ 8 < k then none
  else (s.setSess n { s.sess n with n := k }).giveShares n h (persOf (mainStream d).codec false) (ceilDiv l k) k

/-- Step 4: whether pooled work of load `l` fits a hedge. -/
def State.pooledFits (s : State) (h p l : Nat) : Bool :=
  let left := ((s.activeCores h).filterMap fun c => s.coreLeft c p).sum
  let others := (s.sessions.map fun e =>
    if e.2.phase = .closed then 0 else (((e.2.parts ++ e.2.decParts).filter fun x => x.1 == h).map fun x => x.2.1).sum).sum
  decide (l ≤ s.freeUnits h) && decide (l + others ≤ left)

/-- Add a pooled part. -/
def State.addPart (s : State) (n : Nat) (dec : Bool) (x : Nat × Nat × Nat) : State :=
  let y := s.sess n
  s.setSess n (if dec then { y with decParts := y.decParts ++ [x] } else { y with parts := y.parts ++ [x] })

/-- Step 4 in one hedge. -/
def State.tryPooled (s : State) (n h : Nat) (dec : Bool) (p l w : Nat) : Option State :=
  if s.pooledFits h p l then some (s.addPart n dec (h, l, w)) else none

/-- Boundaries that divide `total` columns in proportion to weights: whole columns from the left. -/
def divide (total : Nat) (ws : List Nat) : List Nat :=
  let sum := ws.sum
  let cum := ws.foldl (fun (a : List Nat × Nat) w => (a.1 ++ [if sum = 0 then 0 else total * (a.2 + w) / sum], a.2 + w)) ([], 0)
  cum.1

/-- First CTU column of tile column `i` of `t` over `c` columns: equal widths, wider leftmost (R109). -/
def tileStart (c t i : Nat) : Nat := if t = 0 then 0 else i * (c / t) + min i (c % t)

/-- The narrowest tile column of a standard, in luma samples (R109). -/
def minTile (codec : Nat) : Nat := if codec = 1 then 256 else 1

/-- As many tile columns of a region as are wanted and no narrower than the standard allows, one at least (R109). A TILE_COLS that a region cannot hold gives way to the minimum width; R109 does not say which of the two does (DESIGN CHOICE, log entry 108). -/
def tilesThat (codec width want : Nat) : Nat :=
  let cu := if codec = 2 then 128 else 64
  let cc := ceilDiv width cu
  let fits (t : Nat) : Bool := (span 0 t).all fun i => decide (tileStart cc t i * cu + minTile codec ≤ min width (tileStart cc t (i + 1) * cu))
  ((List.range want).map (want - ·)).find? fits |>.getD 1

/-- Step 5: a split over the first `k` hedges of the order; columns are CTU columns, or tile columns where their number is fixed. -/
def State.trySplit (s : State) (n : Nat) (dec : Bool) (st : Stream) (cost cols : Nat) (hs : List Nat) : Option State :=
  let d := (s.sess n).desc
  let p := persOf st.codec dec
  let cu := if st.codec = 2 then 128 else 64
  let cc := ceilDiv st.w cu
  let ends := divide cols (hs.map s.freeUnits)
  let x (i : Nat) : Nat := if dec then st.w * i / cols else min st.w (tileStart cc cols i * cu)
  (hs.zip ((0 :: ends).zip ends)).foldl (fun (acc : Option State) e =>
    match acc with
    | none => none
    | some t =>
      let w := x e.2.2 - x e.2.1
      let l := loadOf st d w cost
      if w = 0 ∨ (dec = false ∧ w < minTile st.codec) then none else t.tryPooled n e.1 dec p l w) (some s)

/-- The fewest allowed hedges, in order of most free units, that take a split. -/
def State.placeSplit (s : State) (n : Nat) (dec : Bool) (st : Stream) (cost limit cols : Nat) : Option State :=
  let order := s.hedgeOrder (leAt (s.sess n).desc 0xB 1 % 16)
  [2, 3, 4].findSome? fun k =>
    if k ≤ order.length ∧ k ≤ limit then s.trySplit n dec st cost cols (order.take k) else none

/-- Place the decode part. -/
def State.placeDec (s : State) (n : Nat) (order : List Nat) : Option State :=
  let d := (s.sess n).desc
  let st := decStream d
  let cost := cost200 st true false
  let promise := leAt d 0xB6 1
  match order.findSome? fun h => s.tryPooled n h true (persOf st.codec true) (loadOf st d st.w cost) st.w with
  | some t => some t
  | none => if 2 ≤ promise then s.placeSplit n true st cost promise promise else none

/-- Whether an encode session is pinned (R76 step 3). -/
def pinned (d : List Byte) : Bool := !refresh d || (mainStream d).codec == 0

/-- Place the encode part, of width `w` (the region of an espalier part). -/
def State.placeEnc (s : State) (n : Nat) (inherit : Bool) (srcH w : Nat) (order : List Nat) : Option State :=
  let d := (s.sess n).desc
  let st := { mainStream d with w := w }
  let cost := cost200 st false inherit
  let l := loadOf st d w cost
  if pinned d then order.findSome? fun h => s.tryPinned n h cost l srcH
  else match order.findSome? fun h => s.tryPooled n h false (persOf st.codec false) l w with
    | some t => some t
    | none =>
      let t := if leAt d 0x4E 1 = 0 then 0 else tilesThat st.codec w (leAt d 0x4E 1)
      let cu := if st.codec = 2 then 128 else 64
      s.placeSplit n false st cost (if t = 0 then 4 else t) (if t = 0 then ceilDiv w cu else t)

/-- Placement of a session, `first` the hedge to try first: a transcode pair in one hedge where one has room (R74, R76). -/
def State.place (s : State) (n : Nat) (inherit : Bool) (srcH w : Nat) (first : Option Nat) : Option State :=
  let d := (s.sess n).desc
  let mask := leAt d 0xB 1 % 16
  let order := s.placeOrder mask first
  match kindOf d with
  | 0 => s.placeEnc n inherit srcH w order
  | 1 => s.placeDec n order
  | _ =>
    match order.findSome? fun h => (s.placeDec n [h]).bind fun t => t.placeEnc n inherit srcH w [h] with
    | some t => some t
    | none => (s.placeDec n order).bind fun t => t.placeEnc n inherit srcH w (t.placeOrder mask first)

/-- Cores a session may run on: its shares, or every active core of its parts' hedges. -/
def State.sessCores (s : State) (n : Nat) : List Nat :=
  let x := s.sess n
  let pooled := (span 0 36).filter fun c => s.coreRole c == 0 && (x.parts ++ x.decParts).any fun e => e.1 == c / 9
  ((span 0 36).filter fun c => pooled.contains c || x.shares.any fun e => e.1 == c)

/-- A core's clock runs while a session is placed on it and it is in service (R64). Where a core is gated because its last session closed, its page's counters return to their reset values; R92 does not say whether they survive (DESIGN CHOICE, log entry 98). -/
def State.coreClock (s : State) (c : Nat) : State :=
  let on := s.coreRole c == 0 && s.sessions.any fun e => e.2.phase != .closed && (s.sessCores e.1).contains c
  if s.domainOn c = on then s
  else if on then s.setDomain c true
  else (s.setDomain c false).clearRegs (pgCORE c) 1 fun _ => false

def State.coreClocks (s : State) : State := s.each (span 0 36) State.coreClock

end Sys2Proof.Machine
end

