-- ==== Sys2Proof/Machine/Headers.lean ====
section
/-! DEFINITION. What an encode picture carries outside its coded blocks (04_encoding.md R104 to R106, R109, R110, R128, R131; 05_rate_control_latency.md R141, R144, R146, R147, R153, R157 to R159): picture types, lists and slots, non-coded units and their size. -/

namespace Sys2Proof.Machine

/-- CPB_RATE in 1000 bit/s and CPB_SIZE in 1000 bits in force (R144). -/
def cpbRate (d : List Byte) : Nat :=
  let st := mainStream d
  if leAt d 0x90 4 = 0 then Config.levelCpbRate st.codec st.prof st.level st.tier else leAt d 0x90 4
def cpbSize (d : List Byte) : Nat :=
  let st := mainStream d
  if leAt d 0x94 4 = 0 then Config.levelCpbSize st.codec st.prof st.level st.tier else leAt d 0x94 4

/-! Fields (R132, R153). -/

/-- STRUCT = LDB; AVC REFRESH sessions code with LDP (R158). -/
def structLdb (d : List Byte) : Bool := leAt d 0x40 1 == 1 && !(refresh d && (mainStream d).codec == 0)
def numRef (d : List Byte) : Nat := leAt d 0x41 1 + 1
/-- A bit of LF_OFF and of TOOL_OFF. -/
def lfOff (d : List Byte) (k : Nat) : Bool := bitIn d 0x49 k
def toolOff (d : List Byte) (k : Nat) : Bool := bitIn d 0x4B k
/-- REFRESH_PERIOD (R153). -/
def refreshPeriod (d : List Byte) : Nat := if leAt d 0x82 1 = 0 then 60 else leAt d 0x82 1
/-- HRD_SIGNAL (R146). -/
def hrdSignal (d : List Byte) : Bool := leAt d 0x9B 1 == 1
/-- Luma width of a unit column (R157): a macroblock for AVC. -/
def columnWide (codec : Nat) : Nat := if codec = 0 then 16 else if codec = 2 then 128 else 64
/-- Unit columns of the whole picture, in macroblocks for AVC (R157). -/
def unitColumns (st : Stream) : Nat := ceilDiv st.w (columnWide st.codec)
/-- The picture of a sweep of period `p` at which recovery completes: K of R157 and R159. -/
def recoveryPic (st : Stream) (p : Nat) : Nat := let c := unitColumns st; ceilDiv c (max 1 (ceilDiv c (max 1 p))) - 1

/-! A picture's signalling. -/

/-- The type of a picture (R104, R159). -/
def picKind (d : List Byte) (key sweepFirst : Bool) : PicKind :=
  match (mainStream d).codec, key with
  | 0, true => .idr
  | 3, true => .keyFrame
  | _, true => .idrNLp
  | 3, false => .interFrame
  | 2, false => if sweepFirst then .gdr else if structLdb d then .b else .p
  | _, false => if structLdb d then .b else .p

/-- The slots of AV1 hold the most recent pictures in order (R105). -/
def refSlots (refs : List Nat) : List (RefSlot × Nat) := [RefSlot.last, .last2, .last3, .golden].zip refs

/-- Filter parameters of a picture: defaults for a key picture and for the first after one, otherwise from the picture before, named by its seed (R128). `qp` is the start QP, `units` the number of 64 x 64 units. -/
def filterParams (d : List Byte) (qp units : Nat) (prev : Option Nat) : FilterParams :=
  let c := (mainStream d).codec
  { deblock := !lfOff d 0, level := if c = 3 ∧ !lfOff d 0 then qp else 0, sao := (c == 1 || c == 2) && !lfOff d 1,
    alf := if c = 2 ∧ !lfOff d 2 then prev.map Config.alfFrom else none,
    cdef := if c = 3 ∧ !lfOff d 3 then some (prev.elim (4, 1) Config.cdefFrom) else none,
    restoration := if c = 3 ∧ !lfOff d 4 then prev.map fun s => (span 0 units).map (Config.restorationFrom s) else none,
    lmcs := c == 2 && leAt d 0x4C 1 == 1 }

/-- The signalling of a picture: its count, whether it is a key picture, its index in a sweep, its references' counts, whether it is stored, its start QP, and the seed of the picture whose statistics it uses. -/
def picSyntax (d : List Byte) (poc : Nat) (key : Bool) (sweep : Option Nat) (len : Nat) (refs : List Nat) (stored : Bool) (qp : Nat) (prev : Option Nat) : PicSyntax :=
  let st := mainStream d
  let c := st.codec
  let first := sweep == some 0
  let refs := if key then [] else refs
  { kind := picKind d key first, poc := poc, list0 := refs, list1 := if structLdb d && c != 3 then refs else [], slots := if c = 3 then refSlots refs else [],
    nonRef := !stored, tmvp := !key && !refresh d && !toolOff d 1 && c != 0,
    primaryRefNone := c == 3 && refresh d, errorResilient := c == 3 && first,
    highPrecisionMv := c == 3 && leAt d 0x47 1 == 0, wpp := (c == 1 || c == 2) && leAt d 0x4F 1 == 1,
    acrossSlices := false, acrossTiles := if c = 3 then true else refresh d && leAt d 0x4A 1 == 0,
    baseQIdx := if c = 3 then some (5 * min qp 51) else none,
    filters := filterParams d qp (ceilDiv st.w 64 * ceilDiv st.h 64) prev,
    recoveryCount := if first then some (recoveryPic st len) else none }

/-! Non-coded units (R131, R146, R159). -/

/-- The colour description fields, the stream fields, and the metadata fields of a descriptor. -/
def colourFields (d : List Byte) : List Byte := slice d 0x51 4
def streamFields (d : List Byte) : List Byte := slice d 2 18 ++ slice d 0x40 20

/-- The initial removal delay S x 8 / CPB_RATE in seconds, as a fraction (R146). -/
def removalDelay (d : List Byte) : Nat × Nat := (cpbSize d, cpbRate d)

/-- The units of a picture in their order; `params` says whether parameter sets go with it. -/
def picUnits (d : List Byte) (params : Bool) (x : PicSyntax) : List HdrUnit :=
  let c := (mainStream d).codec
  let keep (b : Bool) (l : List HdrUnit) : List HdrUnit := if b then l else []
  let hdr := keep (params && bitIn d 0x50 2) [.mastering (slice d 0x58 24), .lightLevel (slice d 0x70 4)]
  if c = 3 then
    [.temporalDelimiter] ++ keep params [.sequenceHeader (streamFields d) (colourFields d) (hrdSignal d)] ++ hdr ++ [.frameHeader x]
  else
    [.accessUnitDelimiter] ++
    keep params (keep (c == 1) [.vps (streamFields d)] ++
      [.sps (streamFields d) (colourFields d) (hrdSignal d) (c == 2 && refresh d), .pps (streamFields d) x.wpp x.acrossSlices x.acrossTiles]) ++
    keep (c == 2 && (params || x.filters.alf.isSome)) [.aps x.filters.alf] ++
    hdr ++
    keep (params && hrdSignal d) [.bufferingPeriod (removalDelay d), .pictureTiming x.poc] ++
    keep (c ≤ 1) (x.recoveryCount.toList.map fun k => .recoveryPoint k true false) ++
    keep (c == 2) [.pictureHeader x.kind x.poc x.recoveryCount] ++
    keep (bitIn d 0x50 1 && c != 0) [.pictureHash]

/-- O of R147: the bytes of a picture's non-coded units. -/
def unitsBytes (l : List HdrUnit) : List Byte := (l.map Config.unitBytes).flatten
def overheadOf (d : List Byte) (params : Bool) (x : PicSyntax) : Nat := (unitsBytes (picUnits d params x)).length

/-- The largest overhead that the session can emit: parameter sets and every enabled unit, on a key picture or on the first of a sweep (R145). -/
def overheadMax (d : List Byte) : Nat :=
  let o (key : Bool) : Nat := overheadOf d true (picSyntax d 0 key (if key then none else some 0) (refreshPeriod d) [] true 0 none)
  if refresh d then max (o true) (o false) else o true

end Sys2Proof.Machine
end

