-- ==== Sys2Proof/Machine/Open.lean ====
section
/-! DEFINITION. SESSION_OPEN (03_codec_cores_sessions.md R66, R68, R73, R75; 04_encoding.md R105, R106, R112, R122, R133; 05_rate_control_latency.md R145; 06_decoding_concealment.md R175, R176; 08_job_formats.md R249 to R254, R270; 15_tolac_fabric_espalier.md R471, R472). -/

namespace Sys2Proof.Machine

/-! Step 2: the descriptor's own fields, each with its byte offset. -/

/-- Profiles with their chroma formats and depths (R66, R250). -/
def profileOk (st : Stream) (enc : Bool) : Bool :=
  let c := st.chroma
  let b8 := st.depth == 8
  let b10 := b8 || st.depth == 10
  let b12 := b10 || st.depth == 12
  match st.codec, st.prof with
  | 0, 0 => decide (c ≤ 1) && b8
  | 0, 1 => decide (c ≤ 1) && b10
  | 0, 2 => decide (c ≤ 2) && b10
  | 1, 0 => c == 1 && b8
  | 1, 1 => decide (c ≤ 1) && b10
  | 1, 2 => decide (c ≤ 2) && b10
  | 1, 3 => decide (c ≤ 3) && b10
  | 1, 4 => !enc && decide (c ≤ 3) && b12
  | 2, 0 => decide (c ≤ 1) && b10
  | 2, 1 => decide (c ≤ 3) && b10
  | 3, 0 => decide (c ≤ 1) && b10
  | 3, 1 => (decide (c ≤ 1) || c == 3) && b10
  | _, _ => false

/-- Profile numbers of a codec (R250). -/
def profileKnown (st : Stream) (enc : Bool) : Bool :=
  match st.codec with
  | 0 => decide (st.prof ≤ 2)
  | 1 => decide (st.prof ≤ (if enc then 3 else 4))
  | _ => decide (st.prof ≤ 1)

/-- Levels up to the maximum of one module, or the espalier level (R66, R250). -/
def levelOk (st : Stream) (esp : Bool) : Bool :=
  match st.codec with
  | 0 => decide (st.level ≤ 62)
  | 1 => decide (st.level ≤ 186) || (esp && st.level == 255)
  | 2 => decide (st.level ≤ 102) || (esp && st.level == 255)
  | _ => decide (st.level ≤ 19) || (esp && st.level == 31)

/-- The checks of one stream's fields, at their offsets. -/
def streamChecks (st : Stream) (enc esp : Bool) (oCodec oProf oLevel oTier oChroma oDepth oW oH : Nat) : List (Nat × Bool) :=
  [(oCodec, decide (st.codec ≤ 3)), (oProf, profileKnown st enc), (oLevel, levelOk st esp),
   (oTier, decide (st.tier ≤ 1) && (st.codec != 0 || st.tier == 0)),
   (oChroma, decide (st.chroma ≤ 3) && (profileOk { st with depth := 8 } enc || profileOk { st with depth := 10 } enc || profileOk { st with depth := 12 } enc)),
   (oDepth, profileOk st enc),
   (oW, decide (128 ≤ st.w ∧ st.w ≤ (if esp then 32768 else 8192) ∧ st.w % 2 = 0)),
   (oH, decide (128 ≤ st.h ∧ st.h ≤ 4352 ∧ st.h % 2 = 0))]

/-- Reserved or unused bytes are 0: one check per byte, so that the offset names the byte. -/
def zeroChecks (d : List Byte) (o n : Nat) : List (Nat × Bool) := (span o n).map fun i => (i, leAt d i 1 == 0)

/-- A byte at most a bound. -/
def atMost (d : List Byte) (o m : Nat) : Nat × Bool := (o, decide (leAt d o 1 ≤ m))

/-- The common block (R249). `srcH` is the height of the source of a HOST or FLOW session. -/
def commonChecks (d : List Byte) (esp : Bool) (srcH : Nat) : List (Nat × Bool) :=
  let enc := kindOf d == 0
  let host := enc && leAt d 0x18 1 == 0
  [(0, leAt d 0 2 == 1), atMost d 2 2] ++
  streamChecks (mainStream d) (hasEnc d) esp 3 4 5 6 7 8 0xC 0xE ++
  [(0xB, decide (leAt d 0xB 1 < 16)), (0x10, rateNum d != 0), (0x12, rateDen d != 0), atMost d 0x15 1] ++
  zeroChecks d 0x16 2 ++
  [(0x18, !enc || decide (leAt d 0x18 1 ≤ 2)),
   (0x19, !enc || (leAt d 0x18 1 == 0) || decide (leAt d 0x19 1 < (if leAt d 0x18 1 = 1 then 4 else 128))),
   (0x1A, !host || decide (leAt d 0x1A 1 ≤ 5))] ++
  zeroChecks d 0x1B 1 ++
  [atMost d 0x24 1, (0x25, !(hasEnc d && leAt d 0x24 1 == 1) || decide (leAt d 0x25 1 < 128)),
   (0x26, !enc || leAt d 0x18 1 == 1 || leAt d 0x26 2 == 0 || decide (srcH ≤ leAt d 0x26 2))] ++
  zeroChecks d 0x28 24

/-- The encode block (R132, R251). With MF_EN = 0 the byte at 0x56 names no pool whatever MF_POOL holds: R132 gives the zero value the meaning none, R251 says that MF_POOL reads 0x3F then, and neither says what another value does (DESIGN CHOICE, log entry 114). -/
def encodeChecks (d : List Byte) : List (Nat × Bool) :=
  if !hasEnc d then zeroChecks d 0x40 64
  else
    [atMost d 0x40 1, atMost d 0x41 3, atMost d 0x44 8, atMost d 0x45 8, atMost d 0x46 8, atMost d 0x47 3, atMost d 0x48 3,
     atMost d 0x49 31, atMost d 0x4A 1, atMost d 0x4B 15, (0x4C, leAt d 0x4C 1 == 0 || (leAt d 0x4C 1 == 1 && (mainStream d).codec == 2)),
     atMost d 0x4D 16, atMost d 0x4E 32, atMost d 0x4F 1, atMost d 0x50 7, atMost d 0x51 1, atMost d 0x52 2, atMost d 0x53 1,
     atMost d 0x54 1, atMost d 0x55 63, (0x56, !bitIn d 0x56 6)] ++
    zeroChecks d 0x57 1 ++ zeroChecks d 0x74 12

/-- The rate block (R153, R252). -/
def rateChecks (d : List Byte) : List (Nat × Bool) :=
  if !hasEnc d then zeroChecks d 0x80 32
  else [atMost d 0x80 51, atMost d 0x81 4, atMost d 0x83 120, atMost d 0x9A 1, atMost d 0x9B 1] ++ zeroChecks d 0x9C 4

/-- The decode block (R175, R253). -/
def decodeChecks (d : List Byte) : List (Nat × Bool) :=
  if !hasDec d then zeroChecks d 0xA0 32
  else
    [atMost d 0xA0 1, (0xA1, leAt d 0xA0 1 != 1 || decide (leAt d 0xA1 1 < 128)), atMost d 0xA2 63, atMost d 0xA3 63,
     (0xA6, decide (leAt d 0xA6 2 ≤ 8192)), atMost d 0xA8 1, atMost d 0xA9 1,
     (0xAA, kindOf d == 2 || decide (leAt d 0xAA 1 ≤ 2)), (0xAB, kindOf d == 2 || leAt d 0xAA 1 != 1 || decide (leAt d 0xAB 1 < 128))] ++
    (if kindOf d = 2 then streamChecks (decStream d) false false 0xAC 0xAD 0xAE 0xAF 0xB0 0xB1 0xB2 0xB4 else zeroChecks d 0xAC 10) ++
    [(0xB6, leAt d 0xB6 1 == 0 || (decide (2 ≤ leAt d 0xB6 1 ∧ leAt d 0xB6 1 ≤ 64) && (decStream d).codec != 0))] ++
    zeroChecks d 0xB7 9

/-- The first failed check, by its offset. -/
def firstBad (cs : List (Nat × Bool)) : Option Nat := (cs.find? fun c => !c.2).map Prod.fst

/-! Sources (R249). -/

/-- Chroma format of a frame buffer format (R209). -/
def fmtChroma (f : Nat) : Nat :=
  match f with
  | 0 | 4 => 2
  | 3 => 1
  | _ => 3

/-- Width, height and format of an encode session's source. -/
def State.sourceGeom (s : State) (d : List Byte) : Nat × Nat × Nat :=
  if kindOf d = 2 then let x := decStream d; (x.w, x.h, if x.chroma = 3 then 5 else if x.chroma = 2 then 4 else 3)
  else
    let i := leAt d 0x19 1
    match leAt d 0x18 1 with
    | 1 =>
      let live := fun o => tabGet (fun _ => (0 : W32)) (s.pipe i).live o
      (fld (live 0x50) 15 0, fld (live 0x50) 31 16, fld (live 0x54) 19 16)
    | 2 => (s.f (RXF_SIZE i) 15 0, s.f (RXF_SIZE i) 31 16, s.f (RXF_CTL i) 15 12)
    | _ => (leAt d 0x1C 2, leAt d 0x1E 2, leAt d 0x1A 1)

/-! Espalier groups (R471, R485). -/

/-- The stream, encode and rate fields of a descriptor, which JOIN hashes (R249, R472). -/
def espFields (d : List Byte) : List Byte := slice d 3 6 ++ slice d 0xC 4 ++ slice d 0x40 0x40 ++ slice d 0x80 0x20

/-- The enabled group whose session is `n`. -/
def State.espOf (s : State) (n : Nat) : Option Nat := (span 0 8).find? fun g => s.bit (ESP_CTL g) 0 && s.f (ESP_CTL g) 15 8 == n
def State.espLast (s : State) (g : Nat) : Nat := s.f (ESP_CTL g) 18 16
def State.espSelf (s : State) (g : Nat) : Nat := s.f (ESP_CTL g) 22 20
def State.espAnchor (s : State) (g : Nat) : Nat := s.f (ESP_CTL g) 26 24
/-- Node of member `m`, and its first CTU column. -/
def State.espNode (s : State) (g m : Nat) : Nat := s.f (ESP_NODE_0 g + 4 * (m / 2)) (16 * (m % 2) + 11) (16 * (m % 2))
def State.espStart (s : State) (g m : Nat) : Nat := if m = 0 then 0 else s.f (ESP_START_0 g + 4 * (m / 2)) (16 * (m % 2) + 8) (16 * (m % 2))
/-- HALO in luma samples. -/
def State.espHalo (s : State) (g : Nat) : Nat := 64 * (s.f (ESP_CTL g) 29 28 + 1)

/-- Region of member `m` in luma samples: first column and width. -/
def State.espRegion (s : State) (g m : Nat) (st : Stream) : Nat × Nat :=
  let cu := if st.codec = 2 then 128 else 64
  let a := s.espStart g m * cu
  let b := if m = s.espLast g then st.w else min st.w (s.espStart g (m + 1) * cu)
  (a, b - a)

/-- Width of the part that this module codes. -/
def State.partWidth (s : State) (n : Nat) (d : List Byte) : Nat :=
  match s.espOf n with
  | some g => (s.espRegion g (s.espSelf g) (mainStream d)).2
  | none => (mainStream d).w

/-! Step 4 (R73, R78, R133). -/

/-- Bytes of a reconstructed picture (R106), `extra` more samples in width. -/
def reconBytes (st : Stream) (extra : Nat) : Nat :=
  let u := if st.codec = 2 then 128 else 64
  let luma := alignUp (st.w + extra) u * alignUp st.h u * 2
  let chroma := match st.chroma with
    | 1 => luma / 2
    | 2 => luma
    | 3 => 2 * luma
    | _ => 0
  luma + chroma + ceilDiv (st.w + extra) 16 * ceilDiv st.h 16 * 16

/-- Bytes of a motion field (R106, R122). -/
def motionBytes (st : Stream) : Nat := ceilDiv st.w 16 * ceilDiv st.h 16 * 16

/-- A decode reference with its concealment map of one byte per 64 x 64 block (R176, R195). -/
def decRefBytes (st : Stream) : Nat := alignUp (reconBytes st 0) 4096 + ceilDiv st.w 64 * ceilDiv st.h 64

/-- R145 for a descriptor and a rate update block: each condition with the offset of its field. -/
def capChecks (d rb : List Byte) : List (Nat × Bool) :=
  let st := mainStream d
  let o := overheadMax d
  let intra := o + picFloor st true
  let f := o + picFloor st false
  let units := rowUnits st.codec st.w
  [(0x84, leAt rb 4 4 == 0 || decide (intra ≤ leAt rb 4 4)),
   (0x88, leAt rb 3 1 == 0 || decide (intra + (leAt rb 3 1 - 1) * f ≤ leAt rb 8 4)),
   (0x8C, refresh d || leAt rb 12 4 == 0 || decide (sliceRows d * rowFloor st.codec units units ≤ leAt rb 12 4)),
   (0x90, decide (f * rateNum d ≤ 125 * cpbRate d * rateDen d)),
   (0x94, decide (intra ≤ 125 * cpbSize d))]

/-- Open sessions of a ladder, with the session that analyses. -/
def State.ladder (s : State) (l : Nat) : List (Nat × Sess) :=
  if l = 0 then [] else s.sessions.filter fun e => e.2.phase != .closed && hasEnc e.2.desc && leAt e.2.desc 0xA 1 == l

/-- The rung that a ladder's other rungs may not exceed: the analysing one, or, where it has closed, the remaining rung that takes its place: largest area, ties to the lower number (R73, R100; DEDUCED, log entry 97). -/
def ladderHead (l : List (Nat × Sess)) : Option Nat :=
  let area (y : Sess) : Nat := (mainStream y.desc).w * (mainStream y.desc).h
  let left := l.filter fun e => e.2.phase == .opened
  ((l.find? fun e => e.2.analysing).or (left.find? fun e => left.all fun f => decide (area f.2 < area e.2 ∨ (area f.2 = area e.2 ∧ e.1 ≤ f.1)))).map Prod.fst

/-- A ring of function `k` and of a kind. -/
def State.ringIs (s : State) (k r kind : Nat) : Bool := s.owner r == k && s.ringKind r == kind

/-- A STREAM ring that an open session uses (R297). -/
def State.ringServes (s : State) (r : Nat) : Bool :=
  s.sessions.any fun e => e.2.phase != .closed && hasEnc e.2.desc && leAt e.2.desc 0x24 1 == 0 && leAt e.2.desc 0x25 1 == r

/-- A transmit flow free for a producer, of a KIND (R434). -/
def State.flowFree (s : State) (f kind : Nat) : Bool := (s.txf f).bound.isNone && s.f (TXF_CTL f) 2 2 == kind

/-- Whether the session runs without jobs and so must name a status ring (R245). -/
def needsStatus (d : List Byte) : Bool :=
  (kindOf d == 0 && leAt d 0x18 1 != 0) || (hasDec d && leAt d 0xA0 1 == 1)

/-- Whether an espalier part writes no stream of its own (R471). -/
def State.espSilent (s : State) (n : Nat) : Bool :=
  match s.espOf n with
  | some g => s.espSelf g != s.espAnchor g
  | none => false

/-- The eligibility conditions, each with an offset. -/
def State.eligChecks (s : State) (n k : Nat) (d : List Byte) (geom : Nat × Nat × Nat) : List (Nat × Bool) :=
  let st := mainStream d
  let l := s.ladder (leAt d 0xA 1)
  let mine := { st with w := s.partWidth n d }
  let esp := s.espOf n
  let (gw, gh, gf) := geom
  let clock := ((s.hedgeOrder (leAt d 0xB 1 % 16)).map s.hedgeMHz).foldl max 400
  let enc : List (Nat × Bool) :=
    if !hasEnc d then []
    else
      [(0x7, decide (st.chroma = 0 ∨ (st.chroma = 1 ∧ 0 < fmtChroma gf) ∨ st.chroma ≤ fmtChroma gf)),
       (0xA, decide (l.length < 6) && l.all fun e =>
          (mainStream e.2.desc).codec == st.codec && slice e.2.desc 0x18 2 == slice d 0x18 2 && slice e.2.desc 0x10 4 == slice d 0x10 4 &&
          ((ladderHead l).all fun k => k != e.1 || decide (st.w ≤ (mainStream e.2.desc).w ∧ st.h ≤ (mainStream e.2.desc).h))),
       (0xC, decide (mine.w ≤ gw ∧ gw ≤ 4 * mine.w)), (0xE, decide (st.h ≤ gh ∧ gh ≤ 4 * st.h)),
       (0x19, kindOf d != 0 || leAt d 0x18 1 != 2 || (s.bit (RXF_CTL (leAt d 0x19 1)) 0 && !s.bit (RXF_CTL (leAt d 0x19 1)) 2)),
       (0x25, s.espSilent n || (if leAt d 0x24 1 = 0 then s.ringIs k (leAt d 0x25 1) 3 && !s.ringServes (leAt d 0x25 1) else s.flowFree (leAt d 0x25 1) 1)),
       (0x41, decide (leAt d 0x41 1 + 2 ≤ Config.levelDpb st.codec st.level st.w st.h)),
       (0x4C, leAt d 0x4C 1 == 0 || leAt d 0x52 1 == 1),
       (0x55, decide (reconBytes mine (match esp with
          | some g => s.espHalo g * (b2n (s.espSelf g != 0) + b2n (s.espSelf g != s.espLast g))
          | none => 0) ≤ s.poolSize (leAt d 0x55 1))),
       (0x56, !(bitIn d 0x56 7 && l.isEmpty && leAt d 0xA 1 != 0) || decide (motionBytes st ≤ s.poolSize (bitsIn d 0x56 5 0)))] ++
      capChecks d (slice d 0x80 16) ++
      [(0x9A, !pinned d || decide (s.coreCount d gh (cost200 st false (l.any fun e => e.2.analysing && bitIn e.2.desc 0x56 7)) clock ≤ 8))] ++
      (match esp with
       | some _ => [(0x2, kindOf d == 0), (0x3, st.codec != 0), (0x18, decide (leAt d 0x18 1 ≤ 1)), (0x9A, refresh d),
                    (0xC, decide ((if st.codec = 3 then 64 else 256) ≤ mine.w))]
       | none => [])
  let dec : List (Nat × Bool) :=
    if !hasDec d then []
    else
      [(0xA2, decide (decRefBytes (decStream d) ≤ s.poolSize (leAt d 0xA2 1))),
       (0xAB, kindOf d != 1 || leAt d 0xAA 1 != 1 || s.flowFree (leAt d 0xAB 1) 0)]
  [(0x14, leAt d 0x15 1 == 0 || s.ringIs k (leAt d 0x14 1) 2), (0x15, !needsStatus d || leAt d 0x15 1 == 1)] ++ enc ++ dec

/-! Images (R75 step 3, R400). -/

/-- A verified image of a personality is held. -/
def State.imageHeld (s : State) (p : Nat) : Bool := (tabGet (fun _ => none) s.store.slots (2 * (p - 1))).isSome

/-- Personalities that a session needs. -/
def persNeeded (d : List Byte) : List Nat :=
  (if hasEnc d then [persOf (mainStream d).codec false] else []) ++ (if hasDec d then [persOf (decStream d).codec true] else [])

/-- A read that a job makes for itself: the data, or the code that ends the job (R254, R262, R266, R586). -/
def State.jobRead (s : State) (r : Nat) (loc : Bool) (a n : Nat) : Nat × List Byte :=
  let k := s.owner r
  if loc then
    if !s.mayUse k a n then (0x43, [])
    else let x := s.localRead a n; (respCode x.1, x.2)
  else if !s.hif.linkUp || !(s.fn k).bme then (0x44, [])
  else (0, s.hostBytes a n)

/-- Such a read is counted where it touches HBM. -/
def State.jobReadCount (s : State) (loc : Bool) (a n : Nat) : State := if loc && s.inHbm a n then s.hbmRead a n else s

/-- A job that needs host memory waits while its function is in D3hot (R43). -/
def State.jobHostWaits (s : State) (r : Nat) (host : Bool) : Bool := host && !s.d0 (s.owner r)

/-! Opening: the checks and the record. -/

/-- The record body of SESSION_OPEN (R270). -/
def State.openBody (s : State) (n : Nat) (ok : Bool) (field : Nat) : List (Nat × List Byte) :=
  if ok then
    let mask := ((s.sessCores n).map fun c => 2 ^ c).sum
    [(0x08, leBytes 8 mask), (0x10, ((span 0 4).map fun h => leBytes 2 ((s.sess n).loadIn h)).flatten), (0x18, leBytes 2 0xFFFF)]
  else [(0x18, leBytes 2 field)]

/-- Producers of a transmit flow: a pipe by its agent ID, session `n` as 256 + n when it encodes and 512 + n when it decodes (R434). -/
def encProducer (n : Nat) : Nat := 256 + n
def decProducer (n : Nat) : Nat := 512 + n

/-- Bind or release a transmit flow (R434, R440 BOUND). -/
def State.bindFlow (s : State) (f : Nat) (p : Option Nat) : State :=
  s.setTxf f { s.txf f with bound := p }

/-- The anchor admits a member; when every member has joined, GO is sent to all, one picture period ahead (R472). -/
def State.espAdmit (s : State) (g m : Nat) : State :=
  let s := s.setB (ESP_STAT g) m true
  let all := (List.range (s.espLast g + 1)).all fun i => s.bit (ESP_STAT g) i
  if !all then s
  else
    let s := s.event pgTSW 8
    let d := (s.sess (s.f (ESP_CTL g) 15 8)).desc
    let t := PtpTime.ofNat (s.mtc.time.nat + rateDen d * 1000000000 / max 1 (rateNum d))
    let s := (s.setEsp g { s.esp g with startTime := some t }).setB (ESP_STAT g) 8 true
    s.each ((List.range (s.espLast g + 1)).filter fun i => i != s.espSelf g) fun u i => u.espOut (u.espNode g i) 0 false (.espGo (u.espNode g i) t.sec t.ns)

/-- An opened part joins its group (R472). -/
def State.espJoinOwn (s : State) (n : Nat) : State :=
  match s.espOf n with
  | none => s
  | some g =>
    let s := (s.setEsp g {}).setReg (ESP_STAT g) 0
    if s.espSelf g = s.espAnchor g then s.espAdmit g (s.espSelf g)
    else s.espOut (s.espNode g (s.espAnchor g)) 0 false (.espJoin (s.espNode g (s.espAnchor g)) (s.espSelf g) (Config.espHash (espFields (s.sess n).desc)))

/-- Steps 1 to 5 of R75 on a descriptor that has been read: the opened state, or the failing code and FIELD_OFFSET. -/
def State.openCheck (s : State) (n k : Nat) (d : List Byte) : Sum State (Nat × Nat) :=
  let esp := (s.espOf n).isSome
  let geom := s.sourceGeom d
  if !s.bit (hSTAT pgDEV) 4 then .inr (0x28, 0xFFFF)
  else match firstBad (commonChecks d esp geom.2.1 ++ encodeChecks d ++ rateChecks d ++ decodeChecks d ++ zeroChecks d 0xC0 64) with
    | some o => .inr (0x29, o)
    | none =>
      if esp && decide (8192 < s.partWidth n d) then .inr (0x29, 0xC)
      else if !(persNeeded d).all s.imageHeld then .inr (0x2A, 0xFFFF)
      else match firstBad (s.eligChecks n k d geom) with
        | some o => .inr (0x2B, o)
        | none =>
          let l := s.ladder (leAt d 0xA 1)
          let an := l.find? fun e => e.2.analysing
          let inherit := an.any fun e => bitIn e.2.desc 0x56 7
          let x : Sess := { phase := .opened, fn := k, desc := d, analysing := leAt d 0xA 1 != 0 && l.isEmpty && hasEnc d,
                            srcGeom := geom, cpb := if hasEnc d then 125 * cpbSize d * rateNum d else 0 }
          match (s.setSess n x).place n inherit geom.2.1 (s.partWidth n d) (an.map fun e => e.2.firstHedge) with
          | some t => .inl t
          | none => .inr (0x2C, 0xFFFF)

end Sys2Proof.Machine
end

