-- ==== Sys2Proof/Machine/Rate.lean ====
section
/-! DEFINITION. Rate control as functions (05_rate_control_latency.md R141 to R151, R157, R160): QPs and their offsets, floors, estimates, budgets and row limits. -/

namespace Sys2Proof.Machine

/-- QP_MAX (R141). -/
def qpMax (codec : Nat) : Nat := if codec = 2 then 63 else 51
/-- QL (R153). -/
def qlOf (d : List Byte) : Nat := leAt d 0x80 1
/-- AQ_STRENGTH in halves (R153). -/
def aqHalves (d : List Byte) : Nat :=
  match leAt d 0x81 1 with
  | 0 => 2
  | 1 => 0
  | 2 => 1
  | 3 => 3
  | _ => 4
/-- WIN_LEN, PIC_CAP, WIN_CAP, SLICE_CAP (R153, R252). -/
def winLen (d : List Byte) : Nat := leAt d 0x83 1
def picCap (d : List Byte) : Nat := leAt d 0x84 4
def winCap (d : List Byte) : Nat := leAt d 0x88 4
def sliceCap (d : List Byte) : Nat := if refresh d then 0 else leAt d 0x8C 4

/-- How many half-steps of 3k log2(p/q) lie at or beyond j - 1/2, for j = 1 to 6: the rounded size of an offset (R142). -/
def aqSteps (p q k : Nat) : Nat := (span 1 6).countP fun j => decide (2 ^ (2 * j - 1) * q ^ (3 * k) ≤ p ^ (3 * k))

/-- The offset of a CTU of activity `a` against a mean of `sum` over `cnt` CTUs (R142). An exact tie is rounded away from zero; R142 does not say how round() breaks one (DESIGN CHOICE, log entry 111). -/
def aqOffset (d : List Byte) (a : Nat) (m : Nat × Nat) : Int :=
  let p := (a + 16) * m.2
  let q := m.1 + 16 * m.2
  if q ≤ p then (aqSteps p q (aqHalves d) : Int) else -(aqSteps q p (aqHalves d) : Int)

/-- QP of a CTU (R142). -/
def ctuQp (d : List Byte) (m : Nat × Nat) (rowQp a : Nat) : Nat :=
  (clampInt 0 (qpMax (mainStream d).codec) ((rowQp : Int) + aqOffset d a m)).toNat

/-- round(3 x clamp(m / 128, 0.5, 2)) for a mean of `sum` over `cnt` (R143). -/
def firstOffset (m : Nat × Nat) : Nat := max 2 (min 6 ((6 * m.1 + 128 * m.2) / (256 * max 1 m.2)))

/-! Estimates (R149). -/

/-- The whole part of a sixth root. -/
def root6 (n : Nat) : Nat := (List.range 40).reverse.foldl (fun a i => if (a + 2 ^ i) ^ 6 ≤ n then a + 2 ^ i else a) 0

/-- num / den x 2^((q0 - q) / 6), by its whole part and the open rounding of a real figure. -/
def qpScale (num den q0 q : Nat) : Nat :=
  let n := num ^ 6 * 2 ^ (q0 - q) / (den ^ 6 * 2 ^ (q - q0))
  root6 n + b2n (Config.estRoundUp num q0 q)

/-- Bytes of a row scaled to another QP. -/
def RowDone.at_ (r : RowDone) (q : Nat) : Nat := qpScale r.bytes 1 r.qp q

/-- Luma width of a job and luma pixels of one of its rows. -/
def ctuWide (codec : Nat) : Nat := if codec = 2 then 128 else 64
def EncJob.width (st : Stream) (j : EncJob) : Nat :=
  if st.codec = 0 then st.w else min (j.units * ctuWide st.codec) (st.w - j.firstUnit * ctuWide st.codec)
def EncJob.rowPixels (st : Stream) (j : EncJob) (row : Nat) : Nat :=
  j.width st * min (ctuLines st.codec) (st.h - row * ctuLines st.codec)

/-- The activity model of a first picture (R149). -/
def modelEst (pixels : Nat) (m : Nat × Nat) (q : Nat) : Nat := qpScale (pixels * (32 * m.2 + m.1)) (1024 * max 1 m.2) 22 q

/-- The estimate of one row from what the snapshot and the job supply; `base` is the first figure. -/
def estRow (base : Option Nat) (latest : Option RowDone) (opn q : Nat) : Nat :=
  match base, latest with
  | some b, some l => max b (l.at_ q)
  | some b, none => b
  | none, some l => l.at_ q
  | none, none => opn

/-! Floors (R147, R160). -/

/-- The refresh column of picture `i` of a sweep of `p`: first and one past the last (R157). -/
def refreshColumn (st : Stream) (i p : Nat) : Nat × Nat :=
  let c := unitColumns st
  let w := ceilDiv c p
  if c ≤ i * w then (0, 0) else (i * w, min c ((i + 1) * w))

/-- Intra units in a row of a job. -/
def intraUnits (st : Stream) (j : EncJob) (key : Bool) (col : Nat × Nat) : Nat :=
  if key then j.units
  else if st.codec = 0 then 4 * (col.2 - col.1)
  else min (j.firstUnit + j.units) col.2 - max j.firstUnit col.1

/-- The refresh column of a picture. -/
def EncPic.column (p : EncPic) (st : Stream) (period : Nat) : Nat × Nat :=
  match p.sweep with
  | some i => refreshColumn st i period
  | none => (0, 0)

/-- row_floor of a job (R147). -/
def EncJob.rowFloor (st : Stream) (p : EncPic) (period : Nat) (j : EncJob) : Nat :=
  Sys2Proof.Machine.rowFloor st.codec j.units (intraUnits st j p.key (p.column st period))

/-! Budgets (R144). -/

/-- A slice job that has its allowance and has not completed (R148 committed, R152). -/
def EncJob.inFlight (j : EncJob) : Bool := j.taken && j.phase != .done && j.phase != .ended
/-- Allowances of a picture's jobs in flight. -/
def EncPic.committed (p : EncPic) : Nat := ((p.jobs.filter EncJob.inFlight).map EncJob.allowance).sum
/-- b_i of a picture not yet in the history (R144). -/
def EncPic.size (p : EncPic) : Nat := p.spent + p.committed
/-- The largest overhead and the inter floor f (R145). -/
def interFloor (d : List Byte) : Nat := overheadMax d + picFloor (mainStream d) false
def intraFloor (d : List Byte) : Nat := overheadMax d + picFloor (mainStream d) true

/-- F after a picture of `b` bytes, in units of one byte over RATE_NUM (R144). -/
def cpbAfter (d : List Byte) (f b : Nat) : Nat :=
  min (125 * cpbSize d * rateNum d) (f - b * rateNum d + 125 * cpbRate d * rateDen d)

/-- The window term, with the sizes of the earlier pictures, newest first (R144). -/
def windowTerm (d : List Byte) (bs : List Nat) : Nat :=
  ((span 0 (winLen d)).map fun t => winCap d - (bs.take t).sum - (winLen d - 1 - t) * interFloor d).foldl min (winCap d)

/-- B_n, for the pictures still in flight before this one, oldest first (R144). -/
def Sess.budget (x : Sess) (before : List EncPic) : Nat :=
  let d := x.desc
  let f := before.foldl (fun f p => cpbAfter d f p.size) x.cpb
  let b := f / max 1 (rateNum d)
  let b := if picCap d = 0 then b else min b (picCap d)
  let bs := (before.reverse.map EncPic.size ++ x.sizes).take x.windowCount
  if winLen d = 0 then b else min b (windowTerm d bs)

/-! The snapshot and the row limit (R148, R149). -/

/-- free of R148, with `floor` the reserve of the rows not yet started. -/
def freeBytes (p : EncPic) (reserve : Nat) : Nat := p.budget - p.spent - p.committed - reserve

/-- L of row `r` of a job (R149 step 1). -/
def EncJob.limit (j : EncJob) (rf : Nat) : Nat :=
  j.allowance - (j.done.map RowDone.bytes).sum - (j.rows - 1 - j.done.length) * rf

/-- Bytes of a job's rows so far. -/
def EncJob.bytes (j : EncJob) : Nat := (j.done.map RowDone.bytes).sum

/-- Where a row of the job at `row` finds its first figure: the co-located row of the previous picture, or the activity model. -/
def EncJob.base (j : EncJob) (first : Bool) (st : Stream) (job row q : Nat) (m : Nat × Nat) : Option Nat :=
  if first then some (modelEst (j.rowPixels st row) m q)
  else (j.snapPrev.find? fun r => r.job == job && r.row == row).map fun r => r.at_ q

/-- P of R149 step 4 at a QP: `act` is the activity of the present row. -/
def EncJob.project (j : EncJob) (first : Bool) (st : Stream) (act m : Nat × Nat) (q : Nat) : Nat :=
  let latest := (j.done.getLast?).or j.snapLatest
  let row := j.firstRow + j.done.length
  let now := estRow (j.base first st j.idx row q act) latest j.snapOpen q
  let later := (span (row + 1) (j.rows - 1 - j.done.length)).map fun r => estRow (j.base first st j.idx r q m) latest j.snapOpen q
  let rest := j.snapRest.map fun x => estRow (j.base first st x.1 x.2 q m) latest j.snapOpen q
  j.snapSpent + j.snapCommitted + j.bytes + now + later.sum + rest.sum

/-- The units of a row of a job, in coding order: macroblocks of the four rows, or CTUs (R147). -/
def EncJob.unitBlocks (st : Stream) (j : EncJob) (row : Nat) : List PixBlock :=
  if st.codec = 0 then
    ((span (4 * row) (min 4 (ceilDiv st.h 16 - 4 * row))).map fun y => (span 0 (ceilDiv st.w 16)).map fun x => ({ x := 16 * x, y := 16 * y, w := 16, h := 16 } : PixBlock)).flatten
  else
    let k := ctuLines st.codec
    (span j.firstUnit j.units).map fun x => { x := k * x, y := k * row, w := k, h := k }

/-- The row QP (R149 steps 3 and 4): raised from `q0` while a test fails. -/
def EncJob.rowQp (j : EncJob) (first : Bool) (st : Stream) (budget limit q0 : Nat) (act m : Nat × Nat) : Nat :=
  let latest := (j.done.getLast?).or j.snapLatest
  let row := j.firstRow + j.done.length
  let top := min (q0 + 6) (qpMax st.codec)
  let ok (q : Nat) : Bool := decide (j.project first st act m q ≤ budget) &&
    decide (estRow (j.base first st j.idx row q act) latest j.snapOpen q ≤ limit)
  ((span q0 (top - q0)).find? ok).getD (max q0 top)

/-- How a unit ends: coded as decided, recoded at the floor by the unit guard, at the floor for poison, at the floor with its whole row or picture. -/
inductive Coding
  | coded | guarded | poisoned | atFloor
  deriving DecidableEq, Repr

/-- A row's units under the unit guard (R150), with the floor of each and whether poison puts it there; `bytes` is the row so far. The answer tells how each ends and its bytes. A later unit holds back its own floor (R147). -/
def guardRow (limit : Nat) (all : Bool) : Nat → List (Nat × Bool × CodedUnit) → List (Coding × Nat)
  | _, [] => []
  | bytes, (uf, bad, u) :: rest =>
    let later := (rest.map Prod.fst).sum
    let how : Coding := if all then .atFloor else if bad then .poisoned else if limit - bytes - later < u.coded then .guarded else .coded
    let k := if how = .coded then u.coded else min u.floor uf
    (how, k) :: guardRow limit all (bytes + k) rest

end Sys2Proof.Machine
end

