-- ==== Sys2Proof/Machine/EncBase.lean ====
section
/-! DEFINITION. Encode pictures as shared operations (05_rate_control_latency.md R144, R151, R154; 08_job_formats.md R257, R265 to R268, R272; 01_architecture.md R24): pictures and jobs in place, what a picture's end releases, its history and its record. -/

namespace Sys2Proof.Machine

/-- Decode jobs stand above this index in `Core.job`. -/
abbrev decBase : Nat := 65536

/-- A session whose pictures come without jobs: a pipe, a flow, or its own decode part (R245, R249). -/
def encBound (d : List Byte) : Bool := kindOf d == 2 || leAt d 0x18 1 != 0

def State.modSess (s : State) (n : Nat) (f : Sess → Sess) : State := s.setSess n (f (s.sess n))
def State.modPic (s : State) (n i : Nat) (f : EncPic → EncPic) : State :=
  s.modSess n fun x => { x with pics := x.pics.map fun p => if p.idx = i then f p else p }
def State.modJob (s : State) (n i k : Nat) (f : EncJob → EncJob) : State :=
  s.modPic n i fun p => { p with jobs := p.jobs.map fun j => if j.idx = k then f j else j }
def State.pic (s : State) (n i : Nat) : Option EncPic := (s.sess n).pics.find? fun p => p.idx == i
def State.encJob (s : State) (n i k : Nat) : Option (EncPic × EncJob) :=
  (s.pic n i).bind fun p => (p.jobs.find? fun j => j.idx == k).map fun j => (p, j)

/-- Hedges a session runs in. -/
def Sess.hedges (x : Sess) : List Nat :=
  (span 0 4).filter fun h => (x.shares.any fun e => e.1 / 9 == h) || ((x.parts ++ x.decParts).any fun e => e.1 == h)

/-- A hedge of the session has CTL.EN = 0 (R93). -/
def State.hedgeOff (s : State) (n : Nat) : Bool := (s.sess n).hedges.any fun h => !s.bit (hCTL (pgHDG h)) 0

/-- The session's agents hold references by its first hedge's agent ID (R14, R338). -/
def State.sessRelease (s : State) (n : Nat) (h : W32) : State := if h = 0 then s else (s.poolRelease (s.sessAgent n) h).1

/-- A reconstruction leaves the reference list: its NAMED buffer is freed (R106). -/
def State.reconFree (s : State) (n : Nat) (h : W32) : State := if h = 0 then s else (s.poolFreeOp (s.sessAgent n) h).1

/-- Rows of a picture that have completed. -/
def EncPic.rows (p : EncPic) : List RowDone := (p.jobs.map EncJob.done).flatten

/-- Whether the session holds the references of its picture until its last slice job (R24): each is released. -/
def State.picRelease (s : State) (n : Nat) (p : EncPic) : State :=
  let s := s.sessRelease n p.src
  if p.releaseSrc then s.sessRelease n p.src else s

/-- A 16-bit counter of a record saturates (R268). -/
def sat16 (n : Nat) : List Byte := leBytes 2 (min n 65535)

/-- The mean of R151 in sixteenths. -/
def EncPic.qpAvg (p : EncPic) : Nat :=
  let c := (p.rows.map RowDone.ctus).sum
  if c = 0 then 0 else 16 * (p.rows.map RowDone.qpSum).sum / c

/-- The body of an encode picture record (R268). -/
def EncPic.body (p : EncPic) : List (Nat × List Byte) :=
  let rows := if p.floorPic then [] else p.rows
  [(0x08, timeBytes p.capture), (0x12, leBytes 2 p.qpAvg), (0x14, leBytes 4 p.spent), (0x18, leBytes 4 p.idx),
   (0x1C, sat16 (rows.countP fun r => !r.endgame && decide (r.start < r.qp))), (0x1E, sat16 (rows.countP RowDone.endgame)),
   (0x20, sat16 (p.rows.map RowDone.floors).sum), (0x22, sat16 (p.jobs.map fun j => j.noInherit.length).sum),
   (0x24, sat16 (p.jobs.countP EncJob.late)), (0x26, sat16 (p.jobs.countP EncJob.retried)),
   (0x28, sat16 (p.rows.map RowDone.poison).sum), (0x2A, sat16 p.sqOverrun), (0x2C, sat16 p.dropped), (0x2E, sat16 p.waitUs),
   (0x30, leBytes 4 p.src.toNat), (0x34, sat16 p.jobs.length)]

/-- FLAGS of an encode picture record (R267). -/
def State.encFlags (s : State) (n : Nat) (p : EncPic) : Nat :=
  b2n (p.jobs.any EncJob.late) ||| b2n ((s.sess n).hedges.any fun h => (s.hedge h).overload) <<< 1 ||| b2n (s.sess n).overloadEnd <<< 2 |||
  b2n p.shed <<< 3 ||| b2n p.floorPic <<< 4 ||| b2n (p.key || p.sweep == some 0) <<< 5 ||| b2n p.keyDeferred <<< 6 |||
  b2n p.rcRefused <<< 7 ||| b2n p.sceneCut <<< 8 ||| b2n p.noRecon <<< 13

/-- The records of a picture: to the status ring of a bound session, and to every job that addressed it (R245, R272). -/
def State.picRecord (s : State) (n : Nat) (p : EncPic) : State :=
  let x := s.sess n
  let fl := s.encFlags n p
  let code := if p.aborted then 3 else 0
  let s := s.each p.jobRefs fun t j => t.finishJob j fl p.body code
  let s := if encBound x.desc && leAt x.desc 0x15 1 == 1 then
      s.statusRing (leAt x.desc 0x14 1) fun ph => s.recordBytes 0 0x10 n fl p.body ph code
    else s
  s.modSess n fun x => { x with overloadEnd := false }

/-- The picture enters the session's history: sizes, CPB, totals, rows (R144, R149, R154). -/
def histFold (x : Sess) (p : EncPic) : Sess :=
  if p.jobs.isEmpty then x
  else { x with sizes := p.spent :: x.sizes.take 119, cpb := cpbAfter x.desc x.cpb p.spent, picsDone := x.picsDone + b2n (!p.aborted),
                totalBytes := x.totalBytes + p.spent, prevRows := p.rows }

/-- Pictures leave in order once every slice has been acted on and what it made has left (R271, R272); at most `k`. -/
def State.picRetire (s : State) (n : Nat) : Nat → State
  | 0 => s
  | k + 1 =>
    match (s.sess n).pics with
    | [] => s
    | p :: ps =>
      if p.ended && p.jobs.all EncJob.sent then
        ((s.picRecord n p).modSess n fun x => { histFold x p with pics := ps }).picRetire n k
      else s

/-- The same, for as many pictures as there are. -/
def State.picsRetire (s : State) (n : Nat) : State := s.picRetire n (s.sess n).pics.length

/-- The consumer has acted on a slice; `sent` when nothing of it is left to leave (R164, R272). -/
def State.sliceOut (s : State) (n i k : Nat) (sent dropped : Bool) : State :=
  let s := s.modJob n i k fun j => { j with out := true, sent := sent || j.sent }
  let s := if dropped then s.modPic n i fun p => { p with dropped := p.dropped + 1 } else s
  s.picsRetire n

/-- The next slice of a session in SLICE order: picture and index (R164). -/
def State.nextSlice (s : State) (n : Nat) : Option (Nat × Nat) :=
  (s.sess n).pics.findSome? fun p => (p.jobs.find? fun j => !j.out).map fun j => (p.idx, j.idx)

/-- The picture's coded units are all in: the carry, the end of what it holds, and its record if nothing is left to leave (R24, R122, R142). -/
def State.picEnd (s : State) (n : Nat) (p : EncPic) : State :=
  let s := s.picRelease n p
  let s := if p.motion = 0 then s else s.sessRelease n p.motion
  let mine := (s.sess n).motions.filter fun m => m.src == p.src && m.capture == p.capture
  let s := s.each mine fun t m => t.sessRelease n m.buf
  let rows := p.rows
  let raise := (rows.map fun r => (if r.endgame then qpMax (mainStream (desc s n)).codec else r.qp) - r.start).sum
  let act := ((rows.map RowDone.act).sum, (rows.map RowDone.ctus).sum)
  let s := s.modSess n fun x =>
    { x with motions := x.motions.filter fun m => !(m.src == p.src && m.capture == p.capture),
             carry := if p.floorPic || rows.isEmpty then x.carry else some (raise / rows.length - 1, act.1, act.2) }
  (s.modPic n p.idx fun p => { p with ended := true }).picsRetire n
where
  /-- the session's descriptor -/
  desc (s : State) (n : Nat) : List Byte := (s.sess n).desc

/-- A picture whose jobs have all ended, ends. -/
def State.picMaybeEnd (s : State) (n i : Nat) : State :=
  match s.pic n i with
  | some p => if p.started && !p.ended && p.jobs.all (fun j => j.phase == .done || j.phase == .ended) then s.picEnd n p else s
  | none => s

/-- A picture arrives from a bound source: its size and format as delivered (R249). One that does not match what SESSION_OPEN read is released and coded at the floor (R26). -/
def State.encSource (s : State) (n : Nat) (h : W32) (capture : PtpTime) (geom : Nat × Nat × Nat) : State :=
  let x := s.sess n
  let fits := geom == x.srcGeom
  let s := if fits then s else s.sessRelease n h
  s.modSess n fun x =>
    { x with pics := x.pics ++ [({ idx := x.picCount, src := if fits then h else 0, capture := capture, floorPic := !fits } : EncPic)], picCount := x.picCount + 1 }

end Sys2Proof.Machine
end

