-- ==== Sys2Proof/Machine/Slices.lean ====
section
/-! DEFINITION. Slice queues and their consumers (05_rate_control_latency.md R161 to R166; 09_rings_dma.md R297 to R300; 14_network_media.md R437; 15_tolac_fabric_espalier.md R478): words, credits, banks, STREAM rings, and what a consumer does with a whole slice. -/

namespace Sys2Proof.Machine

/-! Words (R161, R162, R166). -/

/-- Even parity of 32 data bits. R161 gives one parity bit for each 32 bits and not its sense, which nothing shows (DESIGN CHOICE, log entry 112). -/
def parity32 (bs : List Byte) : Bool := ((List.range 8).countP fun k => (bs.foldl (fun a b => a ^^^ b) (0 : Byte)).getLsbD k) % 2 == 1
/-- The parity bits of a word. -/
def sqParity (data : List Byte) : BitVec 8 := BitVec.ofNat 8 (((List.range 8).map fun i => b2n (parity32 (slice data (4 * i) 4)) <<< i).sum)
/-- A word as it is written. -/
def sqWord (data : List Byte) (endMark : Bool) : SqWord := { data := data, endMark := endMark, parity := sqParity data }
/-- A word reads poisoned: by what is stored, or by the read of a path. -/
def SqWord.badOn (w : SqWord) (second : Bool) : Bool := w.parity != sqParity w.data || (if second then w.failedB else w.failed)
abbrev SqWord.poison (w : SqWord) : Bool := w.badOn false

def tagWord (n i k : Nat) (first last key retry : Bool) (t : PtpTime) : List Byte :=
  leBytes 2 n ++ leBytes 2 k ++ leBytes 4 i ++ leBytes 8 (b2n first ||| b2n last <<< 1 ||| b2n key <<< 2 ||| b2n retry <<< 3) ++
  timeBytes t ++ leBytes 6 0

def trailerWord (bytes : Nat) (dropped endgame poison : Bool) : List Byte :=
  leBytes 4 bytes ++ leBytes 28 (b2n dropped ||| b2n endgame <<< 1 ||| b2n poison <<< 2)

/-- Session, picture and slice of a tag word. -/
def tagSess (w : List Byte) : Nat := leAt w 0 1
def tagSlice (w : List Byte) : Nat := leAt w 2 2
def tagPic (w : List Byte) : Nat := leAt w 4 4

/-- Which STREAM ring takes the slices of a session, if one does. -/
def State.sliceRing (s : State) (n : Nat) : Option Nat :=
  let d := (s.sess n).desc
  if s.espSilent n || leAt d 0x24 1 != 0 then none else some (leAt d 0x25 1)

/-! A STREAM ring writes (R297 to R300). -/

def State.cbufLocal (s : State) (r : Nat) : Bool := s.bit (RING_CBUF_CFG r) 5
def State.cbufSize (s : State) (r : Nat) : Nat := 2 ^ s.f (RING_CBUF_CFG r) 4 0
def State.cbufWr (s : State) (r : Nat) : Nat := (s.reg (RING_CBUF_WR r)).toNat
def State.cbufRd (s : State) (r : Nat) : Nat := (s.reg (RING_CBUF_RD r)).toNat
/-- Free space (R297). -/
def State.cbufFree (s : State) (r : Nat) : Nat := (s.cbufRd r + 2 * s.cbufSize r - s.cbufWr r - 1) % s.cbufSize r

/-- Whether the ring can write its memory and its buffer now (R61, R284, R286). -/
def State.streamReach (s : State) (r : Nat) : Bool :=
  let k := s.owner r
  let buf := s.pair (RING_CBUF_BASE_LO r) (RING_CBUF_BASE_HI r)
  let ent := s.entryAddr r (s.ringHead r)
  !(s.ring r).stopped &&
  (if s.cbufLocal r then s.mayUse k buf (s.cbufSize r) && s.inHbm buf (s.cbufSize r) else s.hostReach k) &&
  (if s.ringLocal r then s.mayUse k ent 32 && s.inHbm ent 32 else s.hostReach k)

/-- Write bytes of the slice in progress at its end, or drop the slice where a byte would reach RD (R298 steps 4 and 5). -/
def State.streamPut (s : State) (r : Nat) (bs : List Byte) : State :=
  match (s.ring r).stream with
  | none => s
  | some x =>
    let z := s.cbufSize r
    let ahead := (x.start + z - s.cbufWr r % z) % z + x.bytes + bs.length
    if s.cbufFree r < ahead || !s.streamReach r then s.sliceDropped r
    else
      let base := s.pair (RING_CBUF_BASE_LO r) (RING_CBUF_BASE_HI r)
      let s := s.each ((List.range bs.length).zip bs) fun t b => t.unitWrite (t.cbufLocal r) (base + (x.start + x.bytes + b.1) % z) [b.2]
      let s := s.setPair DMA_BYTES_LO DMA_BYTES_HI (s.pair DMA_BYTES_LO DMA_BYTES_HI + bs.length)
      s.setRing r { s.ring r with stream := some { x with bytes := x.bytes + bs.length } }

/-- Put aside the word that may hold padding. -/
def State.streamHold (s : State) (r : Nat) (w : Option SqWord) : State :=
  match (s.ring r).stream with
  | none => s
  | some x => s.setRing r { s.ring r with stream := some { x with lastWord := w, poison := x.poison || w.any SqWord.poison } }

/-- Bytes of a word as a ring writes them: zeros where it carries poison (R299). -/
def wordBytes (w : SqWord) : List Byte := if w.poison then List.replicate 32 0 else w.data

/-- A word of the slice in progress reaches the ring: data, or the trailer (R298 steps 4 to 6). -/
def State.streamWord (s : State) (r : Nat) (w : SqWord) : State :=
  match (s.ring r).stream with
  | none => s
  | some x =>
    if w.endMark then
      if bitIn w.data 4 0 then s.sliceDropped r
      else
        let s := match x.lastWord with
          | some l => s.streamPut r ((wordBytes l).take (leAt w.data 0 4 - x.bytes))
          | none => s
        match (s.ring r).stream with
        | none => s
        | some y => s.setRing r { s.ring r with stream := some { y with lastWord := none, trailer := some w.data } }
    else
      let s := match x.lastWord with
        | some l => s.streamPut r (wordBytes l)
        | none => s
      s.streamHold r (some w)

/-- A slice begins at a ring: the entry at RING_HEAD is reserved, or the slice is dropped (R298 steps 2 and 3). -/
def State.streamBegin (s : State) (r c : Nat) (tag : List Byte) : State :=
  if s.ringRun r && decide (0 < s.ringOut r) && s.streamReach r then
    s.setRing r { s.ring r with stream := some { tag := tag, start := alignUp (s.cbufWr r) 64 % s.cbufSize r, core := c } }
  else s.sliceDropped r

/-- The filled entry of a slice (R299). -/
def streamEntry (x : StreamSlice) (trailer : List Byte) : List Byte :=
  leBytes 4 x.start ++ leBytes 4 x.bytes ++ slice x.tag 0 1 ++
  leBytes 1 (leAt x.tag 8 1 % 16 ||| (leAt trailer 4 1 / 2 % 4) <<< 4) ++ slice x.tag 2 2 ++ slice x.tag 4 4 ++
  slice x.tag 16 4 ++ leBytes 4 (if x.poison then 3 <<< 24 else 0) ++ slice x.tag 20 6 ++ [0, 0]

/-- The end of a whole slice at a ring: the entry is filled, WR and RING_HEAD move, the completion counts (R298 steps 6 and 7). -/
def State.streamFinish (s : State) (r : Nat) : State :=
  match (s.ring r).stream with
  | none => s
  | some x =>
    match x.trailer with
    | none => s
    | some t =>
      let n := tagSess x.tag
      if !s.streamReach r then (s.sliceDropped r).sliceOut n (tagPic x.tag) (tagSlice x.tag) true true
      else
        let s := s.unitWrite (s.ringLocal r) (s.entryAddr r (s.ringHead r)) (streamEntry x t)
        let s := s.setReg (RING_CBUF_WR r) (BitVec.ofNat 32 ((x.start + x.bytes) % s.cbufSize r))
        let s := s.setHead r ((s.ringHead r + 1) % s.ringSize r)
        let s := if x.poison then s.event (pgRING r) 1 else s
        let s := (s.setRing r { s.ring r with stream := none }).ringCompletion r
        s.sliceOut n (tagPic x.tag) (tagSlice x.tag) true false

/-! The consumer's side of a core's queue (R163, R164). -/

/-- One word more of the consumer's bank is taken. -/
def Core.took (x : Core) (ws : List SqWord) (w : SqWord) (tag : List Byte) : Core :=
  { x with cons := ws, cur := if w.endMark then none else some tag, slices := if w.endMark then x.slices - 1 else x.slices }

/-- The consumer empties its bank as far as it may: a packet engine stages every word, a ring takes the words of the slice it has begun; a tag of a ring's slice waits for the ring. At most `k` words. -/
def State.drainBank (s : State) (c : Nat) : Nat → State
  | 0 => s
  | k + 1 =>
    let x := s.core c
    match x.cons with
    | [] => s
    | w :: ws =>
      match x.cur with
      | none =>
        if w.endMark then (s.setCore c { x with cons := ws }).drainBank c k
        else if (s.sliceRing (tagSess w.data)).isSome then s
        else (s.setCore c { x.took ws w w.data with staged := x.staged ++ [w] }).drainBank c k
      | some tag =>
        match s.sliceRing (tagSess tag) with
        | none => (s.setCore c { x with cons := ws, cur := if w.endMark then none else some tag, staged := x.staged ++ [w] }).drainBank c k
        | some r =>
          let s := s.setCore c (x.took ws w tag)
          let lost := (s.ring r).stream.isNone
          let s := s.streamWord r w
          let s := if w.endMark && (lost || (s.ring r).stream.isNone) then s.sliceOut (tagSess tag) (tagPic tag) (tagSlice tag) true true else s
          s.drainBank c k

/-- Trailers owed for slices lost to overrun enter the producer's bank as soon as it has room (R165). -/
def State.payOwed (s : State) (c : Nat) : State :=
  let x := s.core c
  let n := min x.credits x.owed.length
  if n = 0 then s
  else s.setCore c { x with prod := x.prod ++ x.owed.take n, owed := x.owed.drop n, credits := x.credits - n }

/-- A swap (R163): it takes place only while the consumer's bank is empty and the producer's holds words. -/
def State.bankSwap (s : State) (c : Nat) : State :=
  let x := s.core c
  if x.cons.isEmpty && !x.prod.isEmpty then
    (((s.setCore c { x with cons := x.prod, prod := [], credits := 1024 }).latch c 4).drainBank c 1024).payOwed c
  else s

/-- A word enters the producer's bank. -/
def State.pushWord (s : State) (c : Nat) (w : SqWord) : State :=
  let s := if (s.core c).credits = 0 then s.bankSwap c else s
  let x := s.core c
  if x.overrun then s
  else if x.credits = 0 || !x.owed.isEmpty then s.setCore c { x with overrun := true }
  else s.setCore c { x with prod := x.prod ++ [w], credits := x.credits - 1 }

/-- Bitstream bytes enter the queue in whole words; what does not fill one waits (R161). -/
def State.pushBytes (s : State) (c : Nat) (bs : List Byte) : State :=
  let x := s.core c
  let all := x.pack ++ bs
  let n := all.length / 32
  let s := s.setCore c { x with pack := all.drop (32 * n), sliceBytes := x.sliceBytes + bs.length }
  s.each (List.range n) fun t i => t.pushWord c (sqWord (slice all (32 * i) 32) false)

/-- A slice begins: its tag word (R161). -/
def State.sliceBegin (s : State) (c : Nat) (tag : List Byte) : State :=
  let s := s.setCore c { s.core c with overrun := false, pack := [], sliceBytes := 0 }
  let s := s.pushWord c (sqWord tag false)
  s.setCore c { s.core c with tagIn := !(s.core c).overrun }

/-- A slice ends: the padded last word and the trailer, or the trailer of a slice lost to overrun (R161, R165). The answer is whether it was lost, and whether anything of it is in the queue. -/
def State.sliceFinish (s : State) (c : Nat) (endgame poison : Bool) : State × Bool × Bool :=
  let x := s.core c
  let n := x.sliceBytes
  let s := if x.pack.isEmpty then s else s.pushWord c (sqWord (x.pack ++ List.replicate (32 - x.pack.length) 0) false)
  let s := s.pushWord c (sqWord (trailerWord n false endgame poison) true)
  let x := s.core c
  let lost := x.overrun
  let y := { x with pack := [], overrun := false, slices := if x.tagIn then x.slices + 1 else x.slices }
  let y := if lost then { y with owed := y.owed ++ [sqWord (trailerWord n true endgame poison) true] } else y
  ((s.setCore c y).payOwed c, lost, x.tagIn)

/-- A promotion discards the aborted job's words: the tail of the queue from its tag on, in the banks, in staging, and beyond WR of its ring (R86 step 4, R164, R300). -/
def dropTail (ws : List SqWord) : List SqWord := ((ws.reverse.dropWhile fun w => !w.endMark)).reverse

def State.abortMark (s : State) (c : Nat) : State :=
  let x := s.core c
  let s := match x.cur with
    | some tag =>
      match s.sliceRing (tagSess tag) with
      | some r => if (x.cons ++ x.prod).any SqWord.endMark then s else s.setRing r { s.ring r with stream := none }
      | none => s
    | none => s
  let whole := (x.cons ++ x.prod).any SqWord.endMark
  let prod := dropTail x.prod
  let cons := if x.prod.any SqWord.endMark then x.cons else dropTail x.cons
  let s := s.setCore c { x with prod := prod, cons := cons, pack := [], sliceBytes := 0, overrun := false, tagIn := false,
                                credits := 1024 - prod.length, cur := if whole then x.cur else none,
                                staged := if whole then x.staged else dropTail x.staged }
  s.payOwed c

/-! Whole slices that a packet engine has staged, or an espalier part that has arrived (R164, R437, R478). -/

/-- The staged slices of a core, oldest first, each with its tag, data words and trailer; the words after the last end mark are not whole. -/
def splitStaged : List SqWord → List SqWord → List (List SqWord)
  | _, [] => []
  | acc, w :: ws => if w.endMark then (acc ++ [w]) :: splitStaged [] ws else splitStaged (acc ++ [w]) ws

/-- A slice goes to a transmit flow; nothing is sent by a flow that does not run (R428, R437). -/
def State.flowSlice (s : State) (f : Nat) (u : TxUnit) : State :=
  if s.bit (TXF_CTL f) 0 && s.bit (hCTL (pgMPE (f / 16))) 0 then
    (s.setTxf f { s.txf f with units := (s.txf f).units ++ [u] }).sliceOut u.sess u.pic u.job false false
  else s.sliceOut u.sess u.pic u.job true true

/-- An espalier member sends a slice to the anchor as ESP_PART on BULK, reliably (R466, R478); what the header's TAG and ADDR hold then is open (log entry 32). -/
def State.partSend (s : State) (g : Nat) (tile : Nat) (t : PtpTime) (bs : List Byte) : State :=
  let node := s.espNode g (s.espAnchor g)
  let s := s.emit (.espPart node tile t bs)
  s.each (span 0 (max 1 (ceilDiv bs.length 4096))) fun u i =>
    let b := slice bs (4096 * i) 4096
    (u.e2eSend node 3 (reqHeader 12 3 node u.freeWord.toNat b.length u.nodeId u.freeWord false) b).draw

/-- What the consumer does with a whole slice in its turn: bytes, words poisoned on each path, DROPPED (R164, R437, R478). A slice that overrun took from a flow counts in SQ_OVERRUN alone (R165). -/
def State.sliceAct (s : State) (n i k : Nat) (bs : List Byte) (bad badB : List Nat) (lost : Bool) : State :=
  let d := (s.sess n).desc
  match s.encJob n i k with
  | none => s
  | some (p, _) =>
    if lost then s.sliceOut n i k true false
    else if s.espSilent n then
      ((s.espOf n).elim s fun g => s.partSend g k p.capture bs).sliceOut n i k true false
    else s.flowSlice (leAt d 0x25 1) { sess := n, pic := i, job := k, bytes := bs, bad := bad, badB := badB, capture := p.capture, last := p.jobs.all fun j => decide (j.idx ≤ k),
                                        newSeq := p.key && p.jobs.all fun j => decide (k ≤ j.idx) }

/-- The picture's non-coded units, with its session's descriptor (R131); a part that an anchor assembles has none. -/
def EncPic.header (p : EncPic) (d : List Byte) : List Byte := (unitsBytes (picUnits d p.params p.syn)).take p.overhead

/-- The parts of other members that the anchor holds and whose turn has come are emitted to its output (R478); at most `k`. -/
def State.espEmit (s : State) (n : Nat) : Nat → State
  | 0 => s
  | k + 1 =>
    match s.espOf n, s.nextSlice n with
    | some g, some (i, q) =>
      match s.encJob n i q with
      | some (p, j) =>
        if j.hedge < 4 || j.phase != .done then s
        else
          let m := j.hedge - 4
          let mine (e : EspPart) : Bool := e.member == m && e.time == p.capture && e.job == q
          let bs := ((s.esp g).parts.find? mine).elim [] EspPart.bytes
          let bs := if p.jobs.all fun x => decide (q ≤ x.idx) then p.header (s.sess n).desc ++ bs else bs
          let s := s.setEsp g { s.esp g with parts := (s.esp g).parts.filter fun e => !mine e }
          let s := match s.sliceRing n with
            | some r =>
              let tag := tagWord n i q (p.jobs.all fun x => decide (q ≤ x.idx)) (p.jobs.all fun x => decide (x.idx ≤ q)) (p.key || p.sweep == some 0) false p.capture
              let s := (s.streamBegin r 36 tag).streamPut r bs
              match (s.ring r).stream with
              | some x => (s.setRing r { s.ring r with stream := some { x with trailer := some (trailerWord bs.length false false false) } }).streamFinish r
              | none => s.sliceOut n i q true true
            | none => s.sliceAct n i q bs [] [] false
          s.espEmit n k
      | none => s
    | _, _ => s

/-- The parts that follow a slice just emitted. -/
def State.espFlush (s : State) (n : Nat) : State := if (s.espOf n).isSome && !s.espSilent n then s.espEmit n 2048 else s

/-- The first staged slice of a core whose turn has come. -/
def State.stagedNext (s : State) (c : Nat) : Option (List SqWord) :=
  (splitStaged [] (s.core c).staged).find? fun ws =>
    match ws with
    | t :: _ => s.nextSlice (tagSess t.data) == some (tagPic t.data, tagSlice t.data)
    | [] => false

/-- The consumer acts on it. -/
def State.stagedAct (s : State) (c : Nat) (ws : List SqWord) : State :=
  match ws, ws.getLast? with
  | t :: rest, some e =>
    let body := rest.dropLast
    let n := tagSess t.data
    let rem := ((splitStaged [] (s.core c).staged).erase ws).flatten ++ ((s.core c).staged.reverse.takeWhile fun w => !w.endMark).reverse
    let s := s.setCore c { s.core c with staged := rem, slices := (s.core c).slices - 1 }
    let bad (second : Bool) : List Nat := (List.range body.length).filter fun i => (body.getD i {}).badOn second
    (s.sliceAct n (tagPic t.data) (tagSlice t.data) (((body.map SqWord.data).flatten).take (leAt e.data 0 4)) (bad false) (bad true) (bitIn e.data 4 0)).espFlush n
  | _, _ => s

/-- The core whose bank holds, at its head, the tag of the next slice of a ring's session. -/
def State.ringNextCore (s : State) (r : Nat) : Option (Nat × List Byte) :=
  (span 0 36).findSome? fun c =>
    let x := s.core c
    match x.cur, x.cons with
    | none, w :: _ =>
      let n := tagSess w.data
      if !w.endMark && s.sliceRing n == some r && s.nextSlice n == some (tagPic w.data, tagSlice w.data) then some (c, w.data) else none
    | _, _ => none

/-- A ring begins its session's next slice from a core's bank (R298 steps 1 and 2). -/
def State.streamStart (s : State) (r : Nat) : State :=
  if (s.ring r).stream.isSome then s
  else match s.ringNextCore r with
    | none => s
    | some (c, tag) =>
      let s := s.streamBegin r c tag
      (s.setCore c { s.core c with cons := (s.core c).cons.drop 1, cur := some tag }).drainBank c 1024

/-- The bank of a core begins with the tag of a ring's slice: that ring. -/
def State.bankRing (s : State) (c : Nat) : Option Nat :=
  match (s.core c).cur, (s.core c).cons with
  | some tag, _ => s.sliceRing (tagSess tag)
  | none, w :: _ => if w.endMark then none else s.sliceRing (tagSess w.data)
  | none, [] => none

/-- The session of the slice a ring has in progress. -/
def State.streamSess (s : State) (r : Nat) : Nat := (s.ring r).stream.elim 0 fun x => tagSess x.tag

/-! Commands. -/

/-- SQ_BANK_SWAP (R163): the producer's bank is full or holds an end mark. -/
def execSqBankSwap (core : CoreId) (s : State) : Out :=
  .next (let x := s.core core.val
    if s.clocked && (x.credits == 0 || x.prod.any SqWord.endMark) then s.bankSwap core.val else s)

/-- SQ_TIMEOUT (R163, R170). -/
def execSqTimeout (core : CoreId) (s : State) : Out := .next (if s.clocked then s.bankSwap core.val else s)

/-- SLICE_TRAILER (R164). -/
def execSliceTrailer (core : CoreId) (s : State) : Out :=
  .next (if !s.clocked then s
    else match s.stagedNext core.val with
      | some ws => s.stagedAct core.val ws
      | none =>
        match s.bankRing core.val with
        | some r =>
          let s := s.streamStart r
          let n := s.streamSess r
          (s.streamFinish r).espFlush n
        | none => s)

/-- STREAM_SLICE_START (R298). -/
def execStreamSliceStart (r : RingId) (s : State) : Out := .next (if s.clocked then s.streamStart r.val else s)

/-- STREAM_SLICE_END (R298). -/
def execStreamSliceEnd (r : RingId) (s : State) : Out :=
  .next (if s.clocked then let n := s.streamSess r.val; (s.streamFinish r.val).espFlush n else s)

/-- A write of RING_CBUF_RD: ignored outside the cyclic range from the present RD to WR (R306). -/
def State.rdWrite (s : State) (r : Nat) (v : W32) : State :=
  let z := s.cbufSize r
  if v.toNat < z ∧ (v.toNat + z - s.cbufRd r % z) % z ≤ (s.cbufWr r + z - s.cbufRd r % z) % z then s.setReg (RING_CBUF_RD r) v else s

/-- CBUF_RD_WRITE (R297, R306). -/
def execCbufRdWrite (who : Who) (r : RingId) (v : W32) (s : State) : Out :=
  .next (s.access who (pgRING r.val) fun s => s.rdWrite r.val v)

end Sys2Proof.Machine
end

