-- ==== Sys2Proof/Machine/Planes.lean ====
section
/-! DEFINITION. Where pictures lie in their buffers (04_encoding.md R106, R107; 06_decoding_concealment.md R176, R181); how samples and motion records are written there; and deadlines on the UPTIME clock (03_codec_cores_sessions.md R82; 05_rate_control_latency.md R155). -/

namespace Sys2Proof.Machine

/-- Segments of a plane: lines `[y0, y1)`, bytes `[x0, x0 + n)` of each. -/
def planeSegs (base stride x0 n y0 y1 : Nat) : List (Nat × Nat) := (span y0 (y1 - y0)).map fun y => (base + y * stride + x0, n)

/-- The three planes of a picture `w` x `h` with 16-bit samples: base, stride, and divisors of width and height (R106, R181). -/
def planesOf (base w h chroma : Nat) : List (Nat × Nat × Nat × Nat) :=
  let luma := 2 * w * h
  match chroma with
  | 1 => [(base, 2 * w, 1, 1), (base + luma, w, 2, 2), (base + luma + luma / 4, w, 2, 2)]
  | 2 => [(base, 2 * w, 1, 1), (base + luma, w, 2, 1), (base + luma + luma / 2, w, 2, 1)]
  | 3 => [(base, 2 * w, 1, 1), (base + luma, 2 * w, 1, 1), (base + 2 * luma, 2 * w, 1, 1)]
  | _ => [(base, 2 * w, 1, 1)]

/-- Bytes of the planes. -/
def planeBytes (w h chroma : Nat) : Nat :=
  let luma := 2 * w * h
  match chroma with
  | 1 => luma + luma / 2
  | 2 => 2 * luma
  | 3 => 3 * luma
  | _ => luma

/-- A rectangle of samples of every plane. -/
def rectSegs (ps : List (Nat × Nat × Nat × Nat)) (x0 x1 y0 y1 : Nat) : List (Nat × Nat) :=
  (ps.map fun p => planeSegs p.1 p.2.1 (2 * (x0 / p.2.2.1)) (2 * (x1 / p.2.2.1 - x0 / p.2.2.1)) (y0 / p.2.2.2) (y1 / p.2.2.2)).flatten

/-- Size of a reconstructed picture in its buffer (R106), with the halos of an espalier part. -/
def reconSize (st : Stream) (w halo : Nat) : Nat × Nat :=
  let u := if st.codec = 2 then 128 else 64
  (alignUp (w + halo) u, alignUp st.h u)

/-- Samples of a rectangle of a picture, from a function of component, column and line in that component's own samples: columns `[x0, x1)` and lines `[y0, y1)` of luma, as 16-bit containers. `col` and `line` give a luma column's and line's place in the buffer. -/
def State.writeSamples (s : State) (ps : List (Nat × Nat × Nat × Nat)) (depth : Nat) (f : Nat → Nat → Nat → Nat) (col line : Nat → Nat) (x0 x1 y0 y1 : Nat) : State :=
  s.each ((List.range ps.length).zip ps) fun t e =>
    let (base, stride, dx, dy) := e.2
    t.each (span (y0 / dy) (ceilDiv y1 dy - y0 / dy)) fun u y =>
      u.hbmWrite (base + line (y * dy) / dy * stride + 2 * (col x0 / dx))
        (((span (x0 / dx) (x1 / dx - x0 / dx)).map fun x => leBytes 2 (f e.1 x y % 2 ^ depth)).flatten) false

/-- The motion records of lines `[y0, y1)` and columns `[x0, x1)` go to a field of `cols` columns, whose column 0 is the picture's column `a`. -/
def State.recordsWrite (s : State) (base cols a : Nat) (recs : Nat → Nat → List Byte) (x0 x1 y0 y1 : Nat) : State :=
  s.each (span (y0 / 16) (ceilDiv y1 16 - y0 / 16)) fun t cy =>
    t.hbmWrite (base + 16 * (cy * cols + (x0 - a) / 16)) (((span (x0 / 16) (ceilDiv x1 16 - x0 / 16)).map fun cx => recs (16 * cx) (16 * cy)).flatten) false

/-! Deadlines, in nanoseconds of UPTIME_US, which wraps. -/

abbrev clockSpan : Nat := 2 ^ 32 * 1000
def State.nowNs (s : State) : Nat := s.uptime.toNat * 1000
/-- `a` lies after `b` on the wrapping clock. -/
def afterNs (a b : Nat) : Bool := decide ((a + clockSpan - b) % clockSpan ≠ 0 ∧ (a + clockSpan - b) % clockSpan < clockSpan / 2)
/-- A moment `d` nanoseconds from now; `d` may be past. -/
def State.inNs (s : State) (d : Int) : Nat := (((s.nowNs : Int) + d) % (clockSpan : Int)).toNat

/-- Time a core takes for some pixels, in ns (R69). -/
def codeNs (pixels cost mhz : Nat) : Nat := pixels * cost * 1000 / (200 * max 1 mhz)

end Sys2Proof.Machine
end

