-- ==== Sys2Proof/Machine/Banks.lean ====
section
/-! DEFINITION. Control-store banks, images and the image store (13_microcode.md R381, R382, R398 to R405, R407, R408, R411; 03_codec_cores_sessions.md R79, R80; 08_job_formats.md R262). -/

namespace Sys2Proof.Machine

/-! Banks and swaps (R382, R399). -/

def Seqr.active (q : Seqr) : Bank := if q.activeB then q.bankB else q.bankA
def Seqr.inactive (q : Seqr) : Bank := if q.activeB then q.bankA else q.bankB
def Seqr.setBank (q : Seqr) (b : Bool) (x : Bank) : Seqr := if b then { q with bankB := x } else { q with bankA := x }
def Seqr.setInactive (q : Seqr) (x : Bank) : Seqr := q.setBank (!q.activeB) x

/-- What a swap does to a sequencer: `at_` is where it starts (R399, R408). -/
def Seqr.swapTo (q : Seqr) (at_ : Nat) : Seqr :=
  { q with activeB := !q.activeB, run := 1, stack := [], g := [], lc := [], era := 0, inEvent := false, depthE := 0, pc := at_, phase := 0, yielded := false, swapReq := none }

/-- The current image of a personality in the image store: version and bytes (R400). -/
def State.image (s : State) (p : Nat) : Option (W32 × List Byte) := tabGet (fun _ => none) s.store.slots (2 * (p - 1))
/-- The previous image of a personality. -/
def State.imagePrev (s : State) (p : Nat) : Option (W32 × List Byte) := tabGet (fun _ => none) s.store.slots (2 * (p - 1) + 1)
def State.setSlot (s : State) (k : Nat) (x : Option (W32 × List Byte)) : State :=
  { s with store := { s.store with slots := tabPut (fun _ => none) s.store.slots k x } }
/-- The version that a changeover of a personality replaces (R401). -/
def State.changing (s : State) (p : Nat) : Option W32 := tabGet (fun _ => none) s.store.change p
def State.setChanging (s : State) (p : Nat) (v : Option W32) : State :=
  { s with store := { s.store with change := tabPut (fun _ => none) s.store.change p v } }
/-- Local address of a slot (R400). -/
def State.slotAddr (s : State) (k : Nat) : Nat := s.pair CSW_STORE_BASE_LO CSW_STORE_BASE_HI + k * 2 ^ 19

/-- Whether the hedge sequencer uses a bank for personality `p`: VALID, and, if a LOAD or the window filled it, the store's current version (R402). -/
def State.usable (s : State) (b : Bank) (p : Nat) : Bool :=
  b.st == 2 && b.pers == p && p != 0 && (b.source == 1 || (b.source == 2 && (s.image p).any fun i => i.1 == b.version))

/-- The bank that holds a personality: the active one first. -/
inductive Resident
  | active | inactive | absent
  deriving DecidableEq, Repr

def State.resident (s : State) (c p : Nat) : Resident :=
  let q := s.seq c
  if s.usable q.active p then .active
  else if s.usable q.inactive p then .inactive
  else .absent

/-! Images (R403). -/

def imgWords (b : List Byte) : Nat := leAt b 0x10 4
def imgVersion (b : List Byte) : W32 := BitVec.ofNat 32 (leAt b 0xC 4)
/-- Microword `w` of an image. -/
def imgWord (b : List Byte) (w : Nat) : W128 := BitVec.ofNat 128 (leAt b (0x200 + 16 * w) 16)
/-- Step 1 of R404. -/
def imgFormed (b : List Byte) (len : Nat) : Bool :=
  let n := imgWords b
  decide (512 ≤ b.length) && decide (leAt b 0 4 = 0x4D445A4F) && decide (leAt b 4 2 = 1) && decide (leAt b 6 2 = 0x200) &&
  decide (32 ≤ n ∧ n ≤ 16384) && decide (0x20 ≤ leAt b 0x14 4 ∧ leAt b 0x14 4 < n) && decide (leAt b 0x18 4 = 16 * n) &&
  zeroAt b 0x110 0xF0 && decide (leAt b 0xA 1 < 2) && decide (leAt b 0xB 1 < 4) && (bitIn b 0xA 0 || decide (leAt b 0xB 1 = 0)) &&
  (bitIn b 0xA 0 || zeroAt b 0x50 0xC0) && decide (len = 512 + 16 * n)
/-- Sequencer type of SEQ (R379). -/
def seqTypeOf (q : Nat) : Nat := if q < 36 then 0 else if q < 40 then 1 else 2
/-- PERSONALITY suits SEQ_TYPE (R403). -/
def imgPersOk (b : List Byte) : Bool :=
  if leAt b 8 1 = 0 then decide (1 ≤ leAt b 9 1 ∧ leAt b 9 1 ≤ 8) else decide (leAt b 9 1 = 0)
/-- Steps 3 and 4 of R404: 0, or REFUSE. -/
def State.imgSigned (s : State) (b : List Byte) : Nat :=
  let dig := leBytes 48 (Config.sha384 (b.take 0x20 ++ b.drop 0x200)).toNat
  let k := leAt b 0xB 1
  if slice b 0x20 48 ≠ dig then 1
  else if bitIn b 0xA 0 then
    if Config.sha384 (slice b 0xB0 96) = Config.fusedHash k ∧ s.bit CSW_KEYS k ∧ !s.bit CSW_KEYS (4 + k) ∧
        Config.ecdsaVerify dig (slice b 0x50 48) (slice b 0x80 48) (slice b 0xB0 96) then 0 else 2
  else if s.signReq then 2 else 0
/-- A bank holding an image: words N and above are HALT (R382, R403). -/
def imgBank (b : List Byte) (source : Nat) (word : Nat → W128) : Bank :=
  { st := 2, source := source, pers := leAt b 9 1, seqType := leAt b 8 1, version := imgVersion b, entry := leAt b 0x14 4,
    words := (List.range (imgWords b)).map fun w => (w, some (word w)) }

/-! Sessions on a sequencer (R402, R408). -/

/-- Core `c` has a session placed on it. -/
def State.corePlaced (s : State) (c : Nat) : Bool := s.sessions.any fun e => e.2.phase != .closed && (s.sessCores e.1).contains c
/-- Core `c` is its hedge's spare. -/
def State.isSpare (s : State) (c : Nat) : Bool := s.coreRole c == 1
/-- Hedge `h` has sessions placed. -/
def State.hedgePlaced (s : State) (h : Nat) : Bool :=
  s.sessions.any fun e => e.2.phase != .closed && ((e.2.shares.any fun x => x.1 / 9 == h) || ((e.2.parts ++ e.2.decParts).any fun x => x.1 == h))
/-- A session of a personality is open (R401). -/
def State.persOpen (s : State) (p : Nat) : Bool := s.sessions.any fun e => e.2.phase != .closed && (persNeeded e.2.desc).contains p
def major (v : W32) : Nat := fld v 31 24

/-! Changeover (R401). -/

/-- Some bank of the module holds a version of a personality. -/
def State.versionHeld (s : State) (p : Nat) (v : W32) : Bool :=
  (span 0 36).any fun c => [(s.seq c).bankA, (s.seq c).bankB].any fun b => b.st == 2 && b.pers == p && b.version == v

/-- The image bytes of a slot reach HBM. -/
def State.slotWrite (s : State) (k : Nat) (b : List Byte) : State :=
  let a := s.slotAddr k
  if s.inHbm a b.length then s.hbmWrite a b false else s

/-- An image becomes the current one of its personality, and its job's record is written; a changeover begins where a bank holds the old version. -/
def State.storeImage (s : State) (j : JobRef) (b : List Byte) : State :=
  let p := leAt b 9 1
  let k := 2 * (p - 1)
  let s := match s.image p with
    | some old =>
      if s.versionHeld p old.1 && old.1 != imgVersion b then
        ((s.slotWrite (k + 1) old.2).setSlot (k + 1) (some old)).setChanging p (some old.1)
      else s
    | none => s
  let s := (s.slotWrite k b).setSlot k (some (imgVersion b, b))
  (s.event pgCSW 0).finishJob j 0 [(0x08, leBytes 1 p), (0x0C, leBytes 4 (imgVersion b).toNat)] 0

/-- A changeover ends when no bank holds the old version: its slot is released, CHANGEOVER_DONE is raised, and the oldest INSTALL that waits for it goes on. -/
def State.changeSettle (s : State) (p : Nat) : State :=
  match s.changing p with
  | none => s
  | some v =>
    if s.versionHeld p v then s
    else
      let s := (((s.setChanging p none).setSlot (2 * (p - 1) + 1) none)).event pgCSW 5
      match s.store.waiting.find? fun w => leAt w.2 9 1 == p with
      | some w => ({ s with store := { s.store with waiting := s.store.waiting.erase w } } : State).storeImage w.1 w.2
      | none => s

/-- The store's copy of the image that runs on a hedge or management sequencer: held while its source is HOST (R400). -/
def State.hostCopy (s : State) (q : Nat) : State :=
  let k := 16 + (q - 36)
  let b := (s.seq q).active
  if q < 36 then s
  else if b.source == 2 && b.st == 2 then (s.slotWrite k b.image).setSlot k (some (b.version, b.image))
  else s.setSlot k none

/-- A swap of a sequencer's banks: a bank that a changeover replaced becomes EMPTY, a LOAD_SWAP job's record is written (R262, R272, R399, R401). `at_` is the start. -/
def State.bankSwapped (s : State) (q at_ : Nat) : State :=
  let x := (s.seq q).swapTo at_
  let p := x.active.pers
  let x := if p != 0 && x.inactive.pers == p then x.setInactive {} else x
  let job := x.swapJob
  let s := s.setSeq q { x with swapJob := none }
  let s := if q < 36 then s.incF (CORE_SWAPS q) 15 0 else s
  let s := (s.changeSettle p).hostCopy q
  match job with
  | some j => (s.event pgCSW 0).finishJob j.1 0 j.2 0
  | none => s

/-- A core's banks swap at an idle point (R79, R92 CORE_SWAPS, R399). -/
def State.coreSwap (s : State) (c : Nat) : State := s.bankSwapped c (s.seq c).inactive.entry

/-- Make a resident personality active (R79). -/
def State.activate (s : State) (c p : Nat) : State :=
  match s.resident c p with
  | .inactive => s.coreSwap c
  | _ => s

/-! Reload (R79, R80, R400). -/

/-- A reload of a slot into a core's inactive bank: the words come from HBM; poison leaves the bank and the slot empty. -/
def State.slotLoad (s : State) (c k : Nat) : State :=
  match tabGet (fun _ => none) s.store.slots k with
  | none => s
  | some img =>
    let a := s.slotAddr k
    let p := (s.seq c).inactive.pers
    let s := s.hbmRead a img.2.length
    let s := s.incF (CORE_SWAPS c) 31 16
    let s :=
      if s.poisoned a img.2.length then
        ((s.setSeq c ((s.seq c).setInactive {})).setSlot k none).event pgCSW 6
      else s.setSeq c ((s.seq c).setInactive (imgBank img.2 1 fun w => BitVec.ofNat 128 (leNat (s.hbmBytes (a + 0x200 + 16 * w) 16))))
    s.changeSettle p

/-- The slot that holds a version of a personality, or its current image when no version is asked for. -/
def State.slotFor (s : State) (p : Nat) (v : Option W32) : Option Nat :=
  match v with
  | none => if (s.image p).isSome then some (2 * (p - 1)) else none
  | some v =>
    if (s.image p).any fun i => i.1 == v then some (2 * (p - 1))
    else if (s.imagePrev p).any fun i => i.1 == v then some (2 * (p - 1) + 1) else none

/-- Make a personality, in a version if one is given, active on a core, by swap or reload; `keep` are the personalities it should go on holding. -/
def State.ensure (s : State) (c p : Nat) (v : Option W32) (keep : List Nat) : State :=
  let q := s.seq c
  let has (b : Bank) : Bool := s.usable b p && v.all fun x => x == b.version
  if has q.active then s
  else if has q.inactive then s.coreSwap c
  else match s.slotFor p v with
    | none => s
    | some k =>
      let s := if keep.contains q.inactive.pers && !keep.contains q.active.pers && q.inactive.st == 2 then s.coreSwap c else s
      let s := s.slotLoad c k
      if s.usable (s.seq c).inactive p then s.coreSwap c else s

/-- The personalities a hedge's spare holds (R80): those pinned, or the two with the largest admitted load. -/
def State.spareWants (s : State) (h : Nat) : List Nat :=
  let pin := s.f (HDG_PERS_PIN h) 7 0
  if pin ≠ 0 then (span 1 8).filter fun p => pin.testBit (p - 1)
  else
    let load (p : Nat) : Nat := (s.sessions.map fun e =>
      if e.2.phase = .closed then 0
      else (if persOf (mainStream e.2.desc).codec false = p then ((e.2.shares.filter fun x => x.1 / 9 == h).map Prod.snd).sum + ((e.2.parts.filter fun x => x.1 == h).map fun x => x.2.1).sum else 0) +
        (if persOf (decStream e.2.desc).codec true = p then ((e.2.decParts.filter fun x => x.1 == h).map fun x => x.2.1).sum else 0)).sum
    (sortBy (fun a b => decide (load b ≤ load a)) ((span 1 8).filter fun p => decide (0 < load p))).take 2

/-- The hedge sequencer reloads the spare where it lacks a personality of the choice (R80). -/
def State.spareLoad (s : State) (h : Nat) : State :=
  match s.spareOf h with
  | none => s
  | some c =>
    let w := s.spareWants h
    if w.all fun p => s.resident c p != .absent then s else s.each w.reverse fun t p => t.ensure c p none w

/-- OVERLOAD of a hedge begins (R83). -/
def State.overloadBegin (s : State) (h : Nat) : State :=
  if (s.hedge h).overload then s else (s.setHedge h { s.hedge h with overload := true }).event (pgHDG h) 2

/-- OVERLOAD of a hedge begins when its capacity is below its admitted load, and ends when it is not: the sessions placed there report the end (R83). -/
def State.overloadUpdate (s : State) (h : Nat) : State :=
  let full := decide (s.capacityAt h (s.hedgeMHz h) < s.admitted h)
  let x := s.hedge h
  if full && !x.overload then s.overloadBegin h
  else if !full && x.overload then
    let s := (s.setHedge h { x with overload := false }).event (pgHDG h) 3
    { s with sessions := tabMap (fun _ => ({} : Sess)) (fun _ e =>
        if e.phase != .closed && (e.shares.any (fun y => y.1 / 9 == h) || (e.parts ++ e.decParts).any fun y => y.1 == h) then { e with overloadEnd := true } else e) s.sessions }
  else s

def State.overloads (s : State) : State := s.each (span 0 4) State.overloadUpdate

/-- Whether a reload of personality `p` delays work of a hedge: a job of a placed session waits there past its deadline (R83; DEDUCED, log entry 90). -/
def State.workWaits (s : State) (h p : Nat) : Bool :=
  s.sessions.any fun e =>
    (persOf (mainStream e.2.desc).codec false == p && e.2.pics.any fun q => q.jobs.any fun j =>
      j.phase == .ready && j.hedge == h && j.deadline.any fun t => afterNs s.nowNs t) ||
    (persOf (decStream e.2.desc).codec true == p && e.2.dec.any fun q => q.jobs.any fun j =>
      j.phase == .ready && j.hedge == h && afterNs s.nowNs j.deadline)

/-- Whether a placed session needs what a core's inactive bank holds. -/
def State.inactiveNeeded (s : State) (c : Nat) : Bool :=
  let p := (s.seq c).inactive.pers
  (s.seq c).inactive.st == 2 && p != (s.seq c).active.pers && (s.neededPers c).contains p

/-- A core holds an old version of a personality that a changeover can replace now: in its inactive bank, or in its active one while the other is not needed and no swap is due (R401 steps 1 and 2). -/
def State.replaceable (s : State) (p : Nat) (v : W32) (c : Nat) : Bool :=
  let q := s.seq c
  let stale (b : Bank) : Bool := b.st == 2 && b.pers == p && b.version != v
  stale q.inactive || (stale q.active && !s.inactiveNeeded c && q.swapReq.isNone)

/-- The changeover has come to core `c`: its hedge has none before it to replace, in ascending core ID with the spare last (R401). -/
def State.changeTurn (s : State) (p : Nat) (v : W32) (c : Nat) : Bool :=
  (span (9 * (c / 9)) 9).all fun k =>
    k == c || (if s.isSpare c then false else s.isSpare k || decide (c < k)) || !s.replaceable p v k

/-- STORE_RELOAD of a personality on a core: a stale inactive bank is replaced; a stale active one gets its new version in the other bank, with a swap at the next idle point, where that bank is not needed; an absent one is loaded and made active, at once on a core between jobs, else at its next idle point and not over what placed sessions need (R79, R400, R401). -/
def State.storeReload (s : State) (c p : Nat) : State :=
  match s.image p with
  | none => s
  | some img =>
    let q := s.seq c
    let stale (b : Bank) : Bool := b.st == 2 && b.pers == p && b.version != img.1
    if stale q.inactive then (if s.changeTurn p img.1 c then s.slotLoad c (2 * (p - 1)) else s)
    else if stale q.active then
      if s.inactiveNeeded c || !s.changeTurn p img.1 c then s
      else
        let s := s.slotLoad c (2 * (p - 1))
        s.setSeq c { s.seq c with swapReq := some none }
    else if s.resident c p = .absent then
      let h := c / 9
      let s := if s.corePlaced c && s.workWaits h p then s.overloadBegin h else s
      if (s.core c).job.isNone then s.ensure c p none (s.neededPers c)
      else if s.inactiveNeeded c then s
      else
        let s := s.slotLoad c (2 * (p - 1))
        s.setSeq c { s.seq c with swapReq := some none }
    else s

/-! The LOAD_IMAGE job (R262, R270, R401, R402, R404). -/

/-- Whether the inactive bank of sequencer `q` is free for a load: no load of it is in progress, and a core serves no session and is no spare (R402). -/
def State.loadFree (s : State) (q : Nat) : Bool := (s.seq q).swapJob.isNone && (decide (36 ≤ q) || (!s.corePlaced q && !s.isSpare q))

/-- The conditions of R402 for a load of sequencer `q`. -/
def State.loadAllowed (s : State) (q : Nat) (b : List Byte) : Bool :=
  s.loadFree q && (decide (q < 36 ∨ 40 ≤ q) || !s.hedgePlaced (q - 36) || major (imgVersion b) == major (s.seq q).active.version)

/-- Step 2 of R404. -/
def State.imgSuits (s : State) (act q : Nat) (b : List Byte) : Bool :=
  let p := leAt b 9 1
  decide (leAt b 8 1 = if act = 0 then 0 else seqTypeOf q) && imgPersOk b && decide (leAt b 0x1C 4 ≤ s.rev.toNat) &&
  (if act = 0 then !(s.persOpen p && (s.image p).any fun i => major i.1 != major (imgVersion b)) else s.loadAllowed q b)

/-- REFUSE of an image for an action, 0 when it passes (R404). -/
def State.imgCheck (s : State) (act q len : Nat) (b : List Byte) : Nat :=
  if !imgFormed b len then 4 else if !s.imgSuits act q b then 3 else s.imgSigned b

/-- The image a job names: the code that ends the job, or the bytes. -/
def State.imgRead (s : State) (r : Nat) (b : List Byte) : Nat × List Byte :=
  s.jobRead r (leAt b 0x12 1 == 1) (leAt b 0x18 8) (min (leAt b 0x14 4) (512 + 16 * 16384))

/-- The record body of a LOAD_IMAGE. -/
def imgBody (b : List Byte) (refuse : Nat) : List (Nat × List Byte) :=
  [(0x08, leBytes 1 (leAt b 9 1)), (0x09, leBytes 1 (leAt b 8 1)), (0x0C, leBytes 4 (leAt b 0xC 4)), (0x10, leBytes 1 refuse)]

/-- A refused or unreadable image: a load leaves the target bank EMPTY (R262, R404), except a bank that it may not touch (DEDUCED, log entry 128). -/
def State.imgRefuse (s : State) (j : JobRef) (act q : Nat) (b : List Byte) (refuse code : Nat) : State :=
  let s := if act != 0 && s.loadFree q then s.setSeq q ((s.seq q).setInactive {}) else s
  (s.event pgCSW 1).finishJob j 0 (imgBody b refuse) code

/-- The image is loaded into the inactive bank of a sequencer. -/
def State.imgLoad (s : State) (q : Nat) (b : List Byte) : State :=
  s.setSeq q ((s.seq q).setInactive { imgBank b 2 (imgWord b) with image := if q < 36 then [] else b })

/-- What the three actions share: the image is read and checked, then `f` carries it out. -/
def State.imgJob (s : State) (r : Nat) (act : Nat) (f : State → JobRef → Nat → List Byte → State) : State :=
  s.withJob r 7 (fun b => leAt b 0x10 1 == act && !s.jobHostWaits r (leAt b 0x12 1 == 0)) fun s j b =>
    let q := leAt b 0x11 1
    let s := s.latch 40 2
    let x := s.imgRead r b
    let s := s.jobReadCount (leAt b 0x12 1 == 1) (leAt b 0x18 8) x.2.length
    if x.1 ≠ 0 then s.imgRefuse j act q [] 0 x.1
    else
      let c := s.imgCheck act q (leAt b 0x14 4) x.2
      if c ≠ 0 then s.imgRefuse j act q x.2 c 0x30 else f s j q x.2

/-- INSTALL (R401): a changeover of the same personality is waited for. -/
def execInstall (r : RingId) (s : State) : Out :=
  .next (s.imgJob r.val 0 fun s j _ b =>
    if (s.changing (leAt b 9 1)).isSome then { s with store := { s.store with waiting := s.store.waiting ++ [(j, b)] } }
    else s.storeImage j b)

/-- LOAD (R262, R402). -/
def execLoad (r : RingId) (s : State) : Out :=
  .next (s.imgJob r.val 1 fun s j q b => (((s.imgLoad q b).event pgCSW 0)).finishJob j 0 (imgBody b 0) 0)

/-- LOAD_SWAP (R262, R402): the banks swap at the sequencer's next idle point, after which the record is written. -/
def execLoadSwap (r : RingId) (s : State) : Out :=
  .next (s.imgJob r.val 2 fun s j q b =>
    let s := s.imgLoad q b
    s.setSeq q { s.seq q with swapReq := some none, swapJob := some (j, imgBody b 0) })

/-- STORE_RELOAD (R79, R400, R401). -/
def execStoreReload (core : CoreId) (personality : Fin 16) (s : State) : Out :=
  .next (if s.clocked && decide (1 ≤ personality.val ∧ personality.val ≤ 8) then s.storeReload core.val personality.val else s)

/-! Swaps and the window (R399, R405, R407, R408, R411). -/

/-- The sequencer is at an idle point (R392, R399): a core between slice jobs, another sequencer waiting at a DISPATCH word or halted. -/
def State.idlePoint (s : State) (q : Nat) : Bool :=
  let x := s.seq q
  !x.inEvent && (if q < 36 then (s.core q).job.isNone else x.run == 2 || x.run == 0)

/-- BANK_SWAP (R399, R408): a requested swap takes place at an idle point if the inactive bank is VALID. -/
def execBankSwap (q : SeqId) (s : State) : Out :=
  .next (match (s.seq q.val).swapReq with
    | none => s
    | some e =>
      if !s.clocked || !s.idlePoint q.val || (s.seq q.val).inactive.st != 2 then s
      else
        let t := s.bankSwapped q.val (e.getD (s.seq q.val).inactive.entry)
        if (s.seq q.val).swapJob.isSome then t else t.event pgCSW 0)

/-- The conditions of R408 for sequencer `q`: the bank that CSW_SEL selects is inactive, and the sequencer's own is free (for CSW_SWAP: log entry 129). -/
def State.winAllowed (s : State) (q : Nat) : Bool := !s.signReq && s.bit CSW_SEL 8 != (s.seq s.cswSeq).activeB && s.loadFree q

/-- A keyed write of CSW_KICK raises event 15 (R407); a sequencer that does not exist refuses it (R406 WIN_REFUSED). -/
def State.cswKick (s : State) (v : W32) : State :=
  if fld v 15 8 ≠ 0x3C then s
  else
    let q := fld v 5 0
    if 40 < q then s.event pgCSW 4 else s.setSeq q { s.seq q with pend := (s.seq q).pend ||| 0x8000 }

/-- A keyed write of CSW_SWAP (R408). -/
def State.cswSwap (s : State) (v : W32) : State :=
  if fld v 15 8 ≠ 0x5C then s
  else
    let q := fld v 5 0
    let x := s.seq q
    let win := x.inactive.source == 3 && x.inactive.st == 1
    if 40 < q || !s.winAllowed q || !(win || x.inactive.st == 2) then s.event pgCSW 4
    else
      let x := if win then x.setInactive { x.inactive with st := 2, entry := fld v 29 16 } else x
      s.setSeq q { x with swapReq := some (if win || x.inactive.source == 3 then some (fld v 29 16) else none) }

/-- The word at an address of a bank (R381, R398, R403): the ROM image, or what was written, or HALT. -/
def bankWord (q : Nat) (b : Bank) (a : Nat) : W128 :=
  match tabGet (fun _ => none) b.words a with
  | some w => w
  | none => if b.source = 0 ∧ b.st = 2 then Config.romWord q a else haltWord

/-- The eight parity bits of a word, one for 16 bits (R381); even or odd is open (log entry 22). -/
def wordParity (w : W128) : Nat :=
  (List.range 8).foldl (fun n k => n + ((((span (16 * k) 16).countP fun i => w.toNat.testBit i) + b2n Config.parityOdd) % 2) * 2 ^ k) 0

/-- CSW_ADDR after an access (R407). -/
def State.cswAdvance (s : State) : State := if s.bit CSW_ADDR 31 then s.setF CSW_ADDR 13 0 (s.f CSW_ADDR 13 0 + 1) else s

/-- A read of CSW_DATA0 fetches the selected word into all four (R407). -/
def State.cswFetch (s : State) : State × W32 :=
  let w := bankWord s.cswSeq s.cswBank (s.f CSW_ADDR 13 0)
  let s := s.each (span 0 4) fun t k => t.setReg (CSW_DATA k) (BitVec.ofNat 32 (w.toNat >>> (32 * k)))
  ((s.setReg CSW_PARITY (BitVec.ofNat 32 (wordParity w))).cswAdvance, BitVec.ofNat 32 w.toNat)

/-- A write of CSW_DATA3 writes the word (R407, R408). -/
def State.cswStore (s : State) (v : W32) : State :=
  let s := s.setReg (CSW_DATA 3) v
  let q := s.cswSeq
  let sel := s.bit CSW_SEL 8
  if !s.winAllowed q then s.event pgCSW 4
  else
    let w : W128 := BitVec.ofNat 128 ((span 0 4).foldl (fun n k => n + (s.reg (CSW_DATA k)).toNat * 2 ^ (32 * k)) 0)
    let b := s.cswBank
    let words := if b.source = 0 ∧ b.st = 2 then (List.range 16384).map fun a => (a, some (bankWord q b a)) else b.words
    let b : Bank := { st := 1, source := 3, words := tabPut (fun _ => none) words (s.f CSW_ADDR 13 0) (some w) }
    (s.setSeq q ((s.seq q).setBank sel b)).cswAdvance

/-- A keyed write of CSW_REVOKE: never the last valid slot (R405). -/
def State.cswRevoke (s : State) (v : W32) : State :=
  let k := fld v 1 0
  let left := (span 0 4).any fun i => i != k && s.bit CSW_KEYS i && !s.bit CSW_KEYS (4 + i)
  if fld v 15 8 = 0x96 ∧ left then s.setB CSW_KEYS (4 + k) true else s

/-- CSW_KICK (R407). -/
def execCswKick (who : Who) (v : W32) (s : State) : Out := .next (s.access who pgCSW fun s => s.cswKick v)

/-- CSW_SWAP (R408). -/
def execCswSwap (who : Who) (v : W32) (s : State) : Out := .next (s.access who pgCSW fun s => s.cswSwap v)

/-- CSW_DATA0_READ (R407). -/
def execCswData0Read (who : Who) (s : State) : Out := .next (s.accessRd who pgCSW State.cswFetch)

/-- CSW_DATA3_WRITE (R408). -/
def execCswData3Write (who : Who) (v : W32) (s : State) : Out := .next (s.access who pgCSW fun s => s.cswStore v)

/-- CSW_REVOKE (R405). -/
def execCswRevoke (who : Who) (v : W32) (s : State) : Out := .next (s.access who pgCSW fun s => s.cswRevoke v)

end Sys2Proof.Machine
end

