-- ==== Sys2Proof/Machine/Hbm.lean ====
section
/-! DEFINITION. The HBM controllers and their training (12_hbm_memory.md R349 to R378). -/

namespace Sys2Proof.Machine

/-! Requests (R358 to R361, R357, R365). -/

/-- The stack serves requests: TRAINED and no full training of it runs (R357, R370). -/
def State.stackServes (s : State) (i : Nat) : Bool := s.bit (HBT_STAT i) 1 && !s.bit (HBT_CTL i) 1

/-- Key of a bank of a pseudo-channel over its stack IDs. -/
def HbmLoc.bankKey (l : HbmLoc) : Nat := l.sid * Config.hbmBanks + l.bank

/-- A request takes its place in its pseudo-channel's queue. A read that meets a write of its bank and row still pending puts the bank in in-order mode (R358, R360). -/
def State.queuePlace (s : State) (write : Bool) (sector : Nat) : State :=
  let l := s.locOf (sector * 32)
  let c := 32 * l.stack + l.pcx
  let x := s.pch c
  let b := l.bankKey
  let q : HbmReq := { write := write, addr := sector, bank := b, row := l.row }
  let pendingWrites := (x.queue.filter fun e => e.write && e.bank == b).length
  let enter := !write && tabGet (fun _ => 0) x.inOrder b == 0 && x.queue.any fun e => e.write && e.bank == b && e.row == l.row
  let x' := { x with queue := x.queue ++ [q], inOrder := if enter then tabPut (fun _ => 0) x.inOrder b pendingWrites else x.inOrder }
  (s.setPch c x').whenB enter fun t => t.inc (HBM_INORDER l.stack)

/-- A range's requests take their places, one for each sector. -/
def State.queueRange (s : State) (write : Bool) (a n : Nat) : State :=
  s.each (sectors a n) fun t b => t.queuePlace write (t.cell b / 32)

/-- A read that the stacks serve: the answer is the data, as of its place in the queue (R359, R364, R365). -/
def State.serveRead (s : State) (agent a n : Nat) : State :=
  let s := s.queueRange false a n
  let bs := s.hbmBytes a n
  let s := s.hbmRead a n
  s.emit (.resp agent (if s.poisoned a n then .okPoison else .ok) bs)

/-- A write that the stacks serve: answered OK with its place in the queue; every later read returns it (R359). -/
def State.serveWrite (s : State) (agent a : Nat) (bs : List Byte) (pois : Bool) : State :=
  ((s.queueRange true a bs.length).hbmWrite a bs pois).emit (.resp agent .ok [])

/-- The first stack of a range that holds requests. -/
def State.holding (s : State) (a n : Nat) : Option Nat :=
  ((sectors a n).map s.stackOf).find? fun i => !s.stackServes i

/-- A request is served, or waits at a stack that holds requests: it is never refused (R356, R357). -/
def State.hbmRequest (s : State) (h : HbmHeld) : State :=
  match s.holding h.addr h.len with
  | some i => s.setStack i { s.stack i with waiting := (s.stack i).waiting ++ [h] }
  | none => if h.write then s.serveWrite h.agent h.addr h.bytes h.poison else s.serveRead h.agent h.addr h.len

/-- Whether a request may be issued by now: the first to its sector, and in an in-order bank the first of its bank (R359, R360). -/
def Pch.eligible (x : Pch) (i : Nat) (q : HbmReq) : Bool :=
  !((x.queue.take i).any fun e => e.addr == q.addr || (e.bank == q.bank && tabGet (fun _ => 0) x.inOrder q.bank != 0))

/-- The request to issue: one that has waited AGE_MAX, oldest first; else one to an open row; else the oldest (R358). A bank in in-order mode gives no row-hit preference (R360). -/
def Pch.pick (x : Pch) (ageMax : Nat) : Option Nat :=
  let c := (List.range x.queue.length).filter fun i => x.eligible i (x.queue.getD i {})
  let q (i : Nat) := x.queue.getD i {}
  match c.find? fun i => decide (ageMax ≤ (q i).age) with
  | some i => some i
  | none =>
    match c.find? fun i => tabGet (fun _ => 0) x.openRow (q i).bank == (q i).row + 1 && tabGet (fun _ => 0) x.inOrder (q i).bank == 0 with
    | some i => some i
    | none => c.head?

/-- The request leaves the queue; its row is open after it, unless IDLE_CYC is 0 (R361); the last write that was pending at entry ends in-order mode (R360). -/
def Pch.issue (x : Pch) (i idle : Nat) : Pch :=
  let q := x.queue.getD i {}
  let left := tabGet (fun _ => 0) x.inOrder q.bank
  { queue := x.queue.eraseIdx i,
    openRow := tabPut (fun _ => 0) x.openRow q.bank (if idle = 0 then 0 else q.row + 1),
    inOrder := if q.write then tabPut (fun _ => 0) x.inOrder q.bank (left - 1) else x.inOrder }

/-- HBM_REQUEST_ISSUE (R358, R360). -/
def execHbmRequestIssue (pcx : Fin 128) (s : State) : Out :=
  let i := pcx.val / 32
  let x := s.pch pcx.val
  .next (
    if !s.clocked || !s.stackServes i then s
    else match x.pick (s.f (HBM_SCHED i) 25 16) with
      | some k => s.setPch pcx.val (x.issue k (s.f (HBM_SCHED i) 9 0))
      | none => s)

/-- ROW_IDLE_CLOSE: a bank idle for IDLE_CYC closes its row; one with requests waiting is not idle (R361). -/
def execRowIdleClose (pcx : Fin 128) (bank : Nat) (s : State) : Out :=
  let x := s.pch pcx.val
  .next (
    if !s.clocked || (x.queue.any fun q => q.bank == bank) then s
    else s.setPch pcx.val { x with openRow := tabPut (fun _ => 0) x.openRow bank 0 })

/-! Training (R353 to R357). -/

/-- DEV_STAT.MEM_READY holds while all four stacks are TRAINED (R353, R58, R59). -/
def State.memUpdate (s : State) : State :=
  let r := (span 0 4).all fun i => s.bit (HBT_STAT i) 1
  if r == s.bit (hSTAT pgDEV) 4 then s else (s.setB (hSTAT pgDEV) 4 r).event pgDEV 2

/-- The longest run of consecutive passing taps in [lo, hi], the lower of two equally long, as first and length (R354). -/
def longestRun (passing : List Nat) (lo hi : Nat) : Nat × Nat :=
  let step (acc : (Nat × Nat) × (Nat × Nat)) (t : Nat) : (Nat × Nat) × (Nat × Nat) :=
    let cur := if passing.contains t then (if acc.2.2 = 0 then (t, 1) else (acc.2.1, acc.2.2 + 1)) else (0, 0)
    (if acc.1.2 < cur.2 then cur else acc.1, cur)
  ((span lo (hi + 1 - lo)).foldl step ((0, 0), (0, 0))).1

/-- The stored tap of a run (R354). -/
def runTap (r : Nat × Nat) : Nat := (r.1 + (r.1 + r.2 - 1)) / 2

/-- The sweep of a lane in one direction: its passing taps, none where a training reports none. A single failed bit is first mapped onto the channel's spare data lane, if that is free, and the lane swept again (R354; how long the mapping lasts: log entry 127). -/
def State.laneSwept (s : State) (i : Nat) (sw : List LaneSweep) (j : Nat) (write : Bool) : State × List Nat :=
  match sw.find? fun e => e.lane == j && e.write == write with
  | none => (s, [])
  | some e =>
    match e.again with
    | none => (s, e.passing)
    | some ps =>
      if (s.stack i).spareLanes.any fun k => k / 8 == j / 8 then (s, e.passing)
      else (s.setStack i { s.stack i with spareLanes := (s.stack i).spareLanes ++ [j] }, ps)

/-- Half of HBT_LANE: the low half is read, the high half write (R371). -/
def laneHalf (write : Bool) : Nat := if write then 16 else 0

/-- Store a lane's tap and width in one direction, with its marginal mark (R354, R371). -/
def State.laneStore (s : State) (i j : Nat) (write : Bool) (tap width : Nat) : State :=
  let o := laneHalf write
  let marg := b2n (decide (width < s.f (HBT_CTL i) 31 24))
  s.setF (HBT_LANE i j) (o + 15) o (tap % 128 ||| marg <<< 7 ||| width <<< 8)

/-- Lanes with a marginal direction. -/
def State.marginalLanes (s : State) (i : Nat) : List Nat :=
  (span 0 128).filter fun j => s.bit (HBT_LANE i j) 7 || s.bit (HBT_LANE i j) 23

/-- A training's marginal lanes are counted in HBT_STAT and raised (R354, R524, R525). -/
def State.marginalNote (s : State) (i : Nat) (lanes : List Nat) : State :=
  let s := s.setF (HBT_STAT i) 15 8 (s.marginalLanes i).length
  s.each (lanes.filter fun j => (s.marginalLanes i).contains j) fun t _ => (t.event (pgHBT i) 1).noteFault (142 + i) 255 1

/-- Temperature drift from T_train (R356). -/
def State.drift (s : State) (i : Nat) : Nat := ((s.stack i).temp - signed 8 (s.f (HBT_TTRAIN i) 7 0)).natAbs

/-- Start of a full training of a stack out of service: power-up, or a warm reset that finds no stored results (R353, R355). -/
def State.trainStart (s : State) (i : Nat) : State := (s.setB (HBT_STAT i) 0 true).setB (HBT_STAT i) 1 false

/-- FULL is written 1 (R357). -/
def State.fullStart (s : State) (i : Nat) : State :=
  let s := s.each (span (32 * i) 32) fun t c => t.setPch c { t.pch c with queue := [], inOrder := [] }
  (s.setB (HBT_CTL i) 1 true).setB (HBT_STAT i) 0 true

/-- A write of HBT_CTL, ignored while TRACK or FULL is 1 (R357, R371): TRACK waits for its sweeps; of both, FULL is taken. -/
def State.hbtWrite (s : State) (i : Nat) (v : W32) : State :=
  if s.f (HBT_CTL i) 1 0 ≠ 0 then s
  else
    let s := s.setReg (HBT_CTL i) (BitVec.ofNat 32 (b2n (bitAt v 2) <<< 2 ||| max 1 (fld v 15 8) <<< 8 ||| fld v 31 24 <<< 24))
    if bitAt v 1 then s.fullStart i
    else if bitAt v 0 && !s.bit (HBT_STAT i) 0 then
      ((s.setStack i { s.stack i with driftDue := true }).setB (HBT_CTL i) 0 true).setB (HBT_STAT i) 0 true
    else s

/-- HBM_FULL_TRAINING: a write of HBT_CTL.FULL drains the stack's queues and holds its requests until the training ends; a write while TRACK or FULL is 1 is ignored (R357, R371). -/
def execHbmFullTraining (who : Who) (stack : StackId) (s : State) : Out :=
  let i := stack.val
  .next (s.access who (pgHBT i) fun s =>
    if s.f (HBT_CTL i) 1 0 ≠ 0 then s
    else s.fullStart i)

/-- Requests that a stack held are served in order (R357). -/
def State.releaseHeld (s : State) (i : Nat) : State :=
  (s.setStack i { s.stack i with waiting := [] }).each (s.stack i).waiting State.hbmRequest

/-- The results of a full training: every lane's taps are stored, a lane below 4 taps fails the stack (R353, R354). -/
def State.trainEnd (s : State) (i : Nat) (temp : BitVec 8) (sw : List LaneSweep) (us : W32) : State :=
  let lanes := span 0 128
  let full (t : State) (j : Nat) (write : Bool) : State :=
    let p := t.laneSwept i sw j write
    let r := longestRun p.2 0 127
    p.1.laneStore i j write (runTap r) r.2
  let s := s.each lanes fun t j => full (full t j false) j true
  let failed := lanes.any fun j => decide (s.f (HBT_LANE i j) 15 8 < 4) || decide (s.f (HBT_LANE i j) 31 24 < 4)
  let s := s.marginalNote i lanes
  let s := (s.setReg (HBT_LAST_US i) us).incF (HBT_COUNT i) 31 16
  let s := (s.setB (HBT_CTL i) 1 false).setB (HBT_STAT i) 0 false
  let s := s.setReg (HBT_TTRAIN i) (temp.setWidth 32)
  let s := s.setStack i { s.stack i with temp := temp.toInt, driftDue := false, selfRefresh := false }
  let s := s.setF (HBM_TEMP i) 7 0 temp.toNat
  if failed then
    let s := ((s.setB (HBT_STAT i) 1 false).setB (HBT_STAT i) 2 false).setB (HBT_STAT i) 3 true
    ((s.event (pgHBT i) 2).noteFault (146 + i) 255 0).memUpdate
  else
    let s := ((s.setB (HBT_STAT i) 1 true).setB (HBT_STAT i) 2 true).setB (HBT_STAT i) 3 false
    ((s.event (pgHBT i) 0).memUpdate).releaseHeld i

/-- HBM_TRAINING_DONE: a full training that runs ends (R353, R354). -/
def execHbmTrainingDone (stack : StackId) (temp : BitVec 8) (sweeps : List LaneSweep) (us : W32) (s : State) : Out :=
  let i := stack.val
  .next (if s.clocked && s.bit (HBT_STAT i) 0 && !s.bit (HBT_CTL i) 0 && !(s.stack i).driftDue then s.trainEnd i temp sweeps us else s)

/-- A tracking sweep of one lane and direction: the window of 17 taps about the stored tap, moved once to centre on a run that touches its edge. None where the lane keeps its values (R356). -/
def trackLane (passing : List Nat) (tap : Nat) : Option (Nat × Nat) :=
  let win (c : Nat) : Nat × Nat := (c - 8, min (c + 8) 127)
  let touches (r w : Nat × Nat) : Bool := r.2 != 0 && (r.1 == w.1 || r.1 + r.2 - 1 == w.2)
  let w := win tap
  let r := longestRun passing w.1 w.2
  if touches r w then
    let w2 := win (runTap r)
    let r2 := longestRun passing w2.1 w2.2
    if touches r2 w2 || decide (r2.2 < 4) then none else some (runTap r2, r2.2)
  else if r.2 < 4 then none
  else some (runTap r, r.2)

/-- A tracking retrain of a stack (R356): every lane first read, then write; T_train becomes the present temperature. -/
def State.trackRun (s : State) (i : Nat) (sw : List LaneSweep) (us : W32) : State :=
  let one (t : State) (j : Nat) (write : Bool) : State × Bool :=
    let o := laneHalf write
    let p := t.laneSwept i sw j write
    match trackLane p.2 (t.f (HBT_LANE i j) (o + 6) o) with
    | some r => (p.1.laneStore i j write r.1 r.2, true)
    | none => (p.1, false)
  let lane (acc : State × List Nat) (j : Nat) : State × List Nat :=
    let a := one acc.1 j false
    let b := one a.1 j true
    let t := if a.2 && b.2 then b.1 else (b.1.event (pgHBT i) 2).noteFault (142 + i) 255 2
    (t, if a.2 || b.2 then acc.2 ++ [j] else acc.2)
  let r := (span 0 128).foldl lane (s, [])
  let s := r.1.marginalNote i r.2
  let s := (s.setReg (HBT_LAST_US i) us).incF (HBT_COUNT i) 15 0
  let s := s.setReg (HBT_TTRAIN i) (BitVec.ofNat 32 (unsignedOf 8 (s.stack i).temp))
  let s := s.setStack i { s.stack i with driftDue := false }
  let s := (((s.setB (HBT_CTL i) 0 false).setB (HBT_STAT i) 0 false).setB (HBT_STAT i) 1 true).event (pgHBT i) 0
  (s.memUpdate).releaseHeld i

/-- HBM_TRACKING_RETRAIN: the retrain that drift or a reset has made due runs (R355, R356); else a write of HBT_CTL.TRACK runs one, ignored while TRACK or FULL is 1 or a training runs (R371). -/
def execHbmTrackingRetrain (who : Who) (stack : StackId) (sweeps : List LaneSweep) (us : W32) (s : State) : Out :=
  let i := stack.val
  .next (
    if s.clocked && (s.stack i).driftDue then s.trackRun i sweeps us
    else s.access who (pgHBT i) fun s =>
      if s.f (HBT_CTL i) 1 0 ≠ 0 ∨ s.bit (HBT_STAT i) 0 then s else s.trackRun i sweeps us)

/-- HBM_TEMP_POLL: the temperature is read; the hot flags follow it, and a drift above DRIFT_C with AUTO starts a tracking retrain (R356, R362). DRIFT_C 0 is stored as 1. -/
def execHbmTempPoll (stack : StackId) (temp : BitVec 8) (s : State) : Out :=
  let i := stack.val
  .next (
    if !s.clocked then s
    else
      let t := temp.toInt
      let was := s.bit (HBM_TEMP i) 8
      let hot := decide (85 < t)
      let s := s.setStack i { s.stack i with temp := t }
      let s := s.setReg (HBM_TEMP i) (BitVec.ofNat 32 (temp.toNat ||| b2n hot <<< 8))
      let s := s.whenB (hot && !was) fun s => s.event (pgHBM i) 2
      let s := s.whenB (decide (95 < t)) fun s => s.event (pgHBM i) 3
      if s.bit (HBT_CTL i) 2 && s.stackServes i && !s.bit (HBT_STAT i) 0 && decide (s.f (HBT_CTL i) 15 8 < s.drift i) then
        (s.setStack i { s.stack i with driftDue := true }).setB (HBT_STAT i) 0 true
      else s)

/-- HBM_REFRESH: a refresh is issued to the stack, per bank or of all banks, at the doubled rate while it is above 85 °C (R362). -/
def execHbmRefresh (stack : StackId) (s : State) : Out :=
  let i := stack.val
  .next (
    if !s.clocked || (s.stack i).selfRefresh then s
    else s.emit (.hbmCommand i (b2n (s.bit (HBM_SCHED i) 28) + 2 * b2n (s.bit (HBM_TEMP i) 8))))

/-! Scrubbing and repair (R366, R367, R352). -/

/-- SCRUB_READ: the scrubber reads its next sector, which holds `errs` bad symbols: one is corrected and written back, more make it uncorrectable; an injection there fires. At the end of the stack a pass is complete (R364, R366). -/
def execScrubRead (stack : StackId) (errs : Nat) (s : State) : Out :=
  let i := stack.val
  let total := s.stackGiB * GiB / 32
  let p := (s.stack i).scrubPos
  let k := i * total + p
  .next (
    if !s.clocked || !s.stackServes i || s.f (HBM_SCRUB i) 15 0 == 0 then s
    else
      let s := s.injectFire (· == k)
      let s :=
        if tabGet s.poisonDefault s.poison k || errs = 0 then s
        else if errs = 1 then s.corrected k else s.uncorrectable k
      let q := if p + 1 < total then p + 1 else 0
      let s := s.setStack i { s.stack i with scrubPos := q }
      let s := s.setF (HBM_SCRUB_POS i) 15 0 (q * 65536 / total)
      s.whenB (q == 0) fun s => (s.incF (HBM_SCRUB_POS i) 31 16).event (pgHBM i) 6)

/-- A write of HBM_MAP: AFF_GIB above C is stored as C, while every pool has EN = 0; else dropped with MAP_LOCKED (R352, R370). -/
def State.mapWrite (s : State) (v : W32) : State :=
  if (span 0 64).all fun p => !s.poolEn p then s.setReg (HBM_MAP 0) (BitVec.ofNat 32 (min (fld v 5 0) s.stackGiB))
  else s.event (pgHBM 0) 7

/-- HBM_MAP_WRITE (R352). -/
def execHbmMapWrite (who : Who) (v : W32) (s : State) : Out := .next (s.access who (pgHBM 0) (·.mapWrite v))

/-- The row that HBM_PPR_ADDR names, if it lies in the stack. -/
def State.pprRow (s : State) (i : Nat) : Nat := s.pair (HBM_PPR_ADDR_LO i) (HBM_PPR_ADDR_HI i)

/-- Whether a repair can take effect: a spare row is left; for an address outside the stack the manual gives no answer (free, log entry 26). -/
def State.pprOpen (s : State) (i : Nat) : Bool :=
  let a := s.pprRow i
  decide (0 < s.sparesLeft i) && ((s.inHbm a 1 && s.stackOf a == i) || s.freeBool)

/-- A SOFT repair: the row's data is copied out and back, so memory is as before (R367). -/
def State.pprSoft (s : State) (i : Nat) : State :=
  let a := s.pprRow i
  let ok := s.pprOpen i
  let s := s.draw
  if ok then (s.setStack i { s.stack i with soft := (s.stack i).soft ++ [a] }).event (pgHBM i) 4
  else s.event (pgHBM i) 5

/-- A HARD repair is queued, up to four (R367). -/
def State.pprHard (s : State) (i : Nat) : State :=
  let a := s.pprRow i
  let ok := s.pprOpen i && decide ((s.stack i).hard.length < 4)
  let s := s.draw
  if ok then (s.setStack i { s.stack i with hard := (s.stack i).hard ++ [a] }).event (pgHBM i) 4
  else s.event (pgHBM i) 5

/-- A write of HBM_PPR_CMD (R370). -/
def State.pprWrite (s : State) (i : Nat) (v : W32) : State :=
  if fld v 15 8 ≠ 0xC3 then s
  else if fld v 1 0 = 1 then s.pprSoft i
  else if fld v 1 0 = 2 then s.pprHard i
  else s

/-- PPR_SOFT: the keyed command with SOFT alone (R367, R370). -/
def execPprSoft (who : Who) (stack : StackId) (key : Byte) (s : State) : Out :=
  .next (s.access who (pgHBM stack.val) fun s => s.pprWrite stack.val (BitVec.ofNat 32 (key.toNat <<< 8 ||| 1)))

/-- PPR_HARD: the keyed command with HARD alone (R367, R370). -/
def execPprHard (who : Who) (stack : StackId) (key : Byte) (s : State) : Out :=
  .next (s.access who (pgHBM stack.val) fun s => s.pprWrite stack.val (BitVec.ofNat 32 (key.toNat <<< 8 ||| 2)))

/-- At a warm or cold reset the queued HARD repairs are applied while spare rows last; a cold reset ends SOFT repairs (R367). -/
def State.pprApply (s : State) (i : Nat) (cold : Bool) : State :=
  let x := s.stack i
  let soft := if cold then [] else x.soft
  let room := Config.spareRows i - (x.repaired ++ soft).length
  s.setStack i { x with repaired := x.repaired ++ x.hard.take room, hard := [], soft := soft }

/-- A microsecond passes for the requests that wait: 1200 controller cycles (R358, R498). -/
def agesAdvance (s : State) : State :=
  let older (x : Pch) : Pch := { x with queue := x.queue.map fun q => { q with age := min (q.age + 1200) 1200 } }
  { s with pchs := tabMap (fun _ => ({} : Pch)) (fun _ x => older x) s.pchs }

end Sys2Proof.Machine
end

