-- ==== Sys2Proof/Machine/Motion.lean ====
section
/-! DEFINITION. Motion search as functions (04_encoding.md R107, R115 to R121, R123, R134, R139; 05_rate_control_latency.md R158): vectors and their limits, costs, candidate lists, refinement, the global model, and motion-field records. -/

namespace Sys2Proof.Machine

/-- Whether a block holds a sample. -/
def holds (b : PixBlock) (x y : Nat) : Bool := decide (b.x ≤ x ∧ x < b.x + b.w ∧ b.y ≤ y ∧ y < b.y + b.h)

/-! Vectors. -/

/-- The nearest multiple of `k`, halves away from zero (R107, R123). -/
def nearestTo (k : Nat) (z : Int) : Int := if 0 ≤ z then ((2 * z + k) / (2 * k)) * k else -(((2 * -z + k) / (2 * k)) * k)

/-- num / den to the nearest integer, halves away from zero. -/
def roundDiv (num : Int) (den : Nat) : Int :=
  let d : Int := max 1 den
  if 0 ≤ num then (2 * num + d) / (2 * d) else -((2 * -num + d) / (2 * d))

def mvZero : Mv := {}
def mvAdd (a b : Mv) : Mv := { x := a.x + b.x, y := a.y + b.y }
/-- A vector in whole luma samples, and in quarters. -/
def mvOf (x y : Int) : Mv := { x := 16 * x, y := 16 * y }
def mvOfQuarter (x y : Int) : Mv := { x := 4 * x, y := 4 * y }
/-- Components rounded to a step in sixteenths. -/
def mvTo (m : Mv) (k : Nat) : Mv := { x := nearestTo k m.x, y := nearestTo k m.y }
/-- A vector scaled by num / den, another factor for each direction, to the nearest quarter sample, halves away from zero (R115, R123, R187). -/
def mvScale2 (m : Mv) (nx dx ny dy : Nat) : Mv := { x := 4 * roundDiv (m.x * nx) (4 * dx), y := 4 * roundDiv (m.y * ny) (4 * dy) }
def mvScale (m : Mv) (num den : Nat) : Mv := mvScale2 m num den num den

/-- The probe vectors (R118). -/
def probes : List Mv :=
  [(64, 0), (-64, 0), (0, 64), (0, -64), (32, 0), (-32, 0), (0, 32), (0, -32), (16, 0), (-16, 0), (0, 16), (0, -16), (16, 16), (-16, 16), (16, -16), (-16, -16)].map
    fun e => mvOf e.1 e.2

/-- The candidate list: what the sources of R115 give, then probes, each vector once, 16 entries at most. -/
def candList (own : List Mv) : List Mv := ((own ++ probes).eraseDups).take 16

/-! Costs (R114, R116). -/

/-- z to the k-th power with its sign kept. -/
def signPow (k : Nat) (z : Int) : Int := if 0 ≤ z then z ^ k else -((-z) ^ k)

/-- a + sqrt(lambda) b, with lambda = 0.57 x 2^((QP - 12) / 3): at most that of another pair, compared exactly by sixth powers. -/
def vectorLe (qp : Nat) (a b : Nat × Nat) : Bool :=
  decide (signPow 6 ((a.1 : Int) - b.1) * 100 ^ 3 * 2 ^ (12 - qp) ≤ signPow 6 ((b.2 : Int) - a.2) * 57 ^ 3 * 2 ^ (qp - 12))

/-- J = D + lambda R of one pair at most that of another, compared exactly by cubes. -/
def jLe (qp : Nat) (a b : Nat × Nat) : Bool :=
  decide (signPow 3 ((a.1 : Int) - b.1) * 100 ^ 3 * 2 ^ (12 - qp) ≤ signPow 3 ((b.2 : Int) - a.2) * 57 ^ 3 * 2 ^ (qp - 12))

/-- The least element by an order, the first among equals. -/
def leastBy {α : Type} (le : α → α → Bool) : List α → Option α
  | [] => none
  | a :: t => some (t.foldl (fun b x => if le b x then b else x) a)

/-! Limits (R117, R139, R158). -/

/-- Reach of the in-loop filters across a vertical edge: G (R158, R182). -/
def filterReach (codec : Nat) : Nat := if codec ≤ 1 then 4 else if codec = 2 then 12 else 16

/-- Samples that the standards' luma interpolation reads right of a block (PRESUMED, log entry 103). -/
def tapsRight (codec : Nat) : Nat := if codec = 0 then 3 else 4
def tapsLeft (codec : Nat) : Nat := if codec = 0 then 2 else 3

/-- The columns `[x0, x1)` and lines `[y0, y1)` of a reference of `w` x `h` samples that the prediction of a block at (x, y) reads: `l` and `r` taps more on either side in a direction whose component lies between samples. Samples outside repeat those of the edge. Bounds are even, so that they bound chroma samples too. -/
def footprint (w h l r : Nat) (x y : Int) (b : PixBlock) (m : Mv) : Nat × Nat × Nat × Nat :=
  let tap (z : Int) (k : Nat) : Int := if z % 16 = 0 then 0 else k
  let at_ (n : Nat) (z : Int) : Nat := (clampInt 0 ((n : Int) - 1) z).toNat
  (at_ w (x + m.x / 16 - tap m.x l) / 2 * 2, alignUp (at_ w (x + b.w - 1 + m.x / 16 + tap m.x r) + 1) 2,
   at_ h (y + m.y / 16 - tap m.y l) / 2 * 2, alignUp (at_ h (y + b.h - 1 + m.y / 16 + tap m.y r) + 1) 2)

/-- ME_RANGE_H and ME_RANGE_V in luma samples (R132). -/
def meRangeH (d : List Byte) : Nat := if leAt d 0x45 1 = 0 then 256 else 64 * leAt d 0x45 1
def meRangeV (d : List Byte) : Nat := if leAt d 0x46 1 = 0 then 128 else 32 * leAt d 0x46 1

/-- A reference as motion search sees it: its picture count, the columns that a prediction which reads the lines from `top` to `bottom` may use (the last one past the end), and the right edge of its clean region, none when all of it is clean. -/
structure RefView where
  poc : Nat
  left : Int → Int → Int
  right : Int → Int → Int
  clean : Option Nat

/-- What a picture gives motion search. `edge` is the picture's own clean edge (R157); `readable` tells whether no sample that a prediction reads is poisoned (R134). -/
structure SearchView where
  codec : Nat
  seed : Nat
  height : Nat
  rangeH : Nat
  rangeV : Nat
  subpel : Nat
  inherit : Bool
  edge : Nat
  refs : List RefView
  readable : Nat → PixBlock → Mv → Bool

/-- The right end of what a block may be predicted from: the reference's own, or, left of the clean edge, its clean region less the guard, with the interpolation taps inside. -/
def SearchView.rightEnd (v : SearchView) (r : RefView) (b : PixBlock) (right : Int) : Int :=
  match r.clean with
  | some e => if b.x < v.edge then min right ((e : Int) - filterReach v.codec - tapsRight v.codec) else right
  | none => right

/-- First and last line that a prediction at a vertical vector reads, its interpolation taps included. -/
def SearchView.top (v : SearchView) (b : PixBlock) (y : Int) : Int := b.y + y / 16 - tapsLeft v.codec
def SearchView.bottom (v : SearchView) (b : PixBlock) (y : Int) : Int := (b.y + b.h : Nat) + y / 16 + tapsRight v.codec

/-- Lowest and highest components of a vector, in sixteenths: the search range, and at most 64 samples outside the reference. The horizontal ones depend on the lines read (R477). -/
def SearchView.loX (v : SearchView) (r : RefView) (b : PixBlock) (y : Int) : Int :=
  16 * max (-(v.rangeH : Int)) (r.left (v.top b y) (v.bottom b y) - b.x)
def SearchView.hiX (v : SearchView) (r : RefView) (b : PixBlock) (y : Int) : Int :=
  16 * min (v.rangeH : Int) (v.rightEnd r b (r.right (v.top b y) (v.bottom b y)) - (b.x + b.w : Nat))
def SearchView.loY (v : SearchView) (b : PixBlock) : Int := 16 * max (-(v.rangeV : Int)) (-64 - (b.y : Int))
def SearchView.hiY (v : SearchView) (b : PixBlock) : Int := 16 * min (v.rangeV : Int) ((v.height : Int) + 64 - (b.y + b.h : Nat))

/-- A vector that a block may use. -/
def SearchView.permits (v : SearchView) (r : RefView) (b : PixBlock) (m : Mv) : Bool :=
  decide (v.loX r b m.y ≤ m.x ∧ m.x ≤ v.hiX r b m.y ∧ v.loY b ≤ m.y ∧ m.y ≤ v.hiY b)

/-- The nearest permitted vector, where there is one. -/
def SearchView.clip (v : SearchView) (r : RefView) (b : PixBlock) (m : Mv) : Option Mv :=
  let y := max (v.loY b) (min (v.hiY b) m.y)
  let c : Mv := { x := max (v.loX r b y) (min (v.hiX r b y) m.x), y := y }
  if v.permits r b c then some c else none

/-! The search of a block (R116). -/

/-- SATD of a prediction: the sum over its 8 x 8 blocks. -/
def satd (seed poc : Nat) (b : PixBlock) (m : Mv) : Nat :=
  ((span 0 (b.h / 8)).map fun j => ((span 0 (b.w / 8)).map fun i => Config.satd8 seed poc (b.x + 8 * i) (b.y + 8 * j) m).sum).sum

/-- The two parts of a vector's cost: SATD or SAD, and bits. -/
def SearchView.costSatd (v : SearchView) (r : RefView) (b : PixBlock) (m : Mv) : Nat × Nat := (satd v.seed r.poc b m, Config.mvBits v.seed r.poc b m)
def SearchView.costSad (v : SearchView) (r : RefView) (b : PixBlock) (m : Mv) : Nat × Nat := (Config.sad v.seed r.poc b m, Config.mvBits v.seed r.poc b m)

/-- A square of positions around a vector, the centre first. -/
def square (c : Mv) (n : Nat) (step : Int) : List Mv :=
  c :: ((span 0 (2 * n + 1)).map fun j => ((span 0 (2 * n + 1)).filter fun i => i != n || j != n).map fun i =>
    mvAdd c { x := step * ((i : Int) - n), y := step * ((j : Int) - n) }).flatten

/-- The permitted positions of a list that poison does not touch. -/
def SearchView.usable (v : SearchView) (i : Nat) (r : RefView) (b : PixBlock) (l : List Mv) : List Mv := (l.filterMap (v.clip r b)).filter (v.readable i b)

/-- One stage: the best position of a square, by SAD or SATD. -/
def SearchView.stage (v : SearchView) (i qp : Nat) (r : RefView) (b : PixBlock) (sad : Bool) (n : Nat) (step : Int) (c : Mv) : Mv :=
  let cost := if sad then v.costSad r b else v.costSatd r b
  (leastBy (fun x y => vectorLe qp (cost x) (cost y)) (v.usable i r b (square c n step))).getD c

/-- The stages of R116 from a candidate, with an integer square of ±n. A candidate between samples starts from the nearest whole sample, and the 1/16 stage tries every position nearer than the next quarter (DESIGN CHOICE, log entry 104). In AV1 its result is rounded to 1/8; AVC and HEVC vectors carry no such precision, and in VVC it concerns affine control points alone. -/
def SearchView.refine (v : SearchView) (i qp : Nat) (r : RefView) (b : PixBlock) (n : Nat) (c : Mv) : Mv :=
  let c := v.stage i qp r b true n 16 (mvTo c 16)
  if v.subpel = 3 then c
  else
    let c := v.stage i qp r b false 1 8 c
    if v.subpel = 2 then c
    else
      let c := v.stage i qp r b false 1 4 c
      if v.subpel = 1 ∨ v.codec ≠ 3 then c else mvTo (v.stage i qp r b false 3 1 c) 2

/-- Candidates in order of cost, equal ones as they stand. -/
def SearchView.ranked (v : SearchView) (qp : Nat) (r : RefView) (b : PixBlock) (l : List Mv) : List Mv :=
  sortBy (fun x y => vectorLe qp (v.costSatd r b x) (v.costSatd r b y)) l

/-- The search of a 16 x 16 block in reference `i`: the list is ranked, the best three are refined. -/
def SearchView.block (v : SearchView) (i qp : Nat) (r : RefView) (b : PixBlock) (own : List Mv) : Found :=
  let l := (candList own).filterMap (v.clip r b)
  let good := l.filter (v.readable i b)
  let best := (v.ranked qp r b good).take 3
  { x := b.x, y := b.y, ref := i, mvs := v.ranked qp r b (best.map (v.refine i qp r b (if v.inherit then 4 else 8))), poison := good.isEmpty && !l.isEmpty }

/-- The search of an 8 x 8 partition: its block's three best vectors again, around an integer square of ±2. -/
def SearchView.part8 (v : SearchView) (i qp : Nat) (r : RefView) (b : PixBlock) (parent : List Mv) : Option Mv :=
  (v.ranked qp r b ((v.usable i r b parent).map (v.refine i qp r b 2))).head?

/-! A row of search blocks. -/

/-- What was found for a block and a reference. -/
def foundAt (l : List Found) (x y i : Nat) : Option Found := l.find? fun f => f.x == x && f.y == y && f.ref == i

/-- Spatial candidates: left, above, above right, above left, as far as they have been searched (R115). -/
def spatial (l : List Found) (b : PixBlock) (i : Nat) : List Mv :=
  let at_ (dx dy : Nat → Option Nat) : List Mv :=
    match dx b.x, dy b.y with
    | some x, some y => (((foundAt l x y i).bind fun f => f.mvs.head?)).toList
    | _, _ => []
  let less (z : Nat) : Option Nat := if 16 ≤ z then some (z - 16) else none
  at_ less some ++ at_ some less ++ at_ (fun x => some (x + 16)) less ++ at_ less less

/-- The blocks of lines `[y, y + k)`, columns `[x0, x1)`, in 16-line strips (R155). -/
def stripBlocks (x0 x1 y k : Nat) : List PixBlock :=
  ((span 0 (k / 16)).map fun j => (span 0 ((x1 - x0) / 16)).map fun i => ({ x := x0 + 16 * i, y := y + 16 * j, w := 16, h := 16 } : PixBlock)).flatten

/-- The search of a row: `above` is what the job's row before found, `qp` the QP of a block's CTU, `others` the candidates of R115 after the spatial ones. -/
def SearchView.row (v : SearchView) (above : List Found) (qp : PixBlock → Nat) (others : Nat → PixBlock → List Mv) (bs : List PixBlock) : List Found :=
  bs.foldl (fun acc b =>
    acc ++ ((List.range v.refs.length).zip v.refs).map fun e =>
      v.block e.1 (qp b) e.2 b (mvZero :: spatial (above ++ acc) b e.1 ++ others e.1 b)) []

/-! Motion-field records (R107). -/

/-- A record as it is read. -/
structure MvRecord where
  mv0 : Mv
  mv1 : Mv
  ref0 : Int
  ref1 : Int
  intra : Bool
  poison : Bool
  deriving DecidableEq, Repr

def recordOf (b : List Byte) : MvRecord :=
  { mv0 := mvOfQuarter (signed 16 (leAt b 0 2)) (signed 16 (leAt b 2 2)), mv1 := mvOfQuarter (signed 16 (leAt b 4 2)) (signed 16 (leAt b 6 2)),
    ref0 := signed 8 (leAt b 8 1), ref1 := signed 8 (leAt b 9 1), intra := bitIn b 10 0, poison := bitIn b 10 1 }

/-- A component to the nearest quarter, halves away from zero, as 16 bits. -/
def quarterBytes (z : Int) : List Byte := leBytes 2 (unsignedOf 16 (nearestTo 4 z / 4))

/-- The bytes of a record: list 0, list 1, FLAGS, COST. -/
def recordBytes16 (l0 l1 : Option RefMv) (intra poison : Bool) (cost : Nat) : List Byte :=
  let vec (l : Option RefMv) : List Byte := l.elim (leBytes 4 0) fun e => quarterBytes e.2.x ++ quarterBytes e.2.y
  let idx (l : Option RefMv) : List Byte := [BitVec.ofNat 8 (l.elim 255 Prod.fst)]
  vec l0 ++ vec l1 ++ idx l0 ++ idx l1 ++ [BitVec.ofNat 8 (b2n intra ||| b2n poison <<< 1), 0] ++ leBytes 4 (min cost (2 ^ 32 - 1))

/-- A record's vector into a reference list: list 0, else list 1; none for an intra or poisoned record (R115, R119). -/
def MvRecord.vector (r : MvRecord) : Option (Nat × Mv) :=
  if r.intra || r.poison then none
  else if 0 ≤ r.ref0 then some (r.ref0.toNat, r.mv0)
  else if 0 ≤ r.ref1 then some (r.ref1.toNat, r.mv1)
  else none

/-- The median of components (R121); for an even number the rule names none. -/
def median (l : List Int) : Int :=
  let s := sortBy (fun a b => decide (a ≤ b)) l
  let k := s.length / 2
  if s.length % 2 = 1 then s.getD k 0 else if s.isEmpty then 0 else Config.evenMedian (s.getD (k - 1) 0) (s.getD k 0)

/-- The component-wise median of a motion field, intra records excluded. -/
def medianMv (l : List MvRecord) : Mv :=
  let vs := l.filterMap fun r => r.vector.map Prod.snd
  { x := median (vs.map Mv.x), y := median (vs.map Mv.y) }

/-! The prepass's global model (R120). -/

/-- A block of the prepass: its centre, its best vector, whether it is reliable. -/
structure PreBlock where
  x : Int
  y : Int
  mv : Mv
  deriving DecidableEq, Repr

/-- The least-squares model of translation, zoom and rotation at a point: v = t + a p + b p-turned, over the reliable blocks; zero without any. Its value is taken to the nearest quarter (log entry 105). -/
def globalAt (l : List PreBlock) (x y : Int) : Mv :=
  let n : Int := l.length
  if l.isEmpty then {}
  else
    let sx := (l.map PreBlock.x).sum
    let sy := (l.map PreBlock.y).sum
    let su := (l.map fun e => e.mv.x).sum
    let sv := (l.map fun e => e.mv.y).sum
    -- coordinates and vectors less their means, times n
    let cs := l.map fun e => (n * e.x - sx, n * e.y - sy, n * e.mv.x - su, n * e.mv.y - sv)
    let s := (cs.map fun c => c.1 * c.1 + c.2.1 * c.2.1).sum
    let a := (cs.map fun c => c.1 * c.2.2.1 + c.2.1 * c.2.2.2).sum
    let b := (cs.map fun c => c.1 * c.2.2.2 - c.2.1 * c.2.2.1).sum
    let px := n * x - sx
    let py := n * y - sy
    if s = 0 then { x := 4 * roundDiv su (4 * l.length), y := 4 * roundDiv sv (4 * l.length) }
    else { x := 4 * roundDiv (su * s + a * px - b * py) (4 * (n * s).toNat), y := 4 * roundDiv (sv * s + b * px + a * py) (4 * (n * s).toNat) }

end Sys2Proof.Machine
end

