-- ==== Sys2Proof/Machine/Pixel.lean ====
section
/-! DEFINITION. The composer's arithmetic on samples, as pure functions (07_composer.md R209, R212 to R220): sample layout, chroma upsampling, the two scaler passes, look-up tables, blending, output matrix and packing. A reader gives the byte at an address, a table gives the dword of a table. -/

namespace Sys2Proof.Machine

abbrev Rgb : Type := Nat × Nat × Nat

/-- A quotient whose rounding the manual does not give (R217 to R219): the whole part, or one more where the open rounding says so. -/
def ratio (a b : Nat) : Nat := if b = 0 then 0 else if a % b = 0 then a / b else a / b + b2n (Config.roundUp a b)

/-- Clamp to 16 bits. -/
def clamp16 (v : Int) : Nat := (clampInt 0 65535 v).toNat

/-- Widening by bit replication (R216). -/
def widen (d v : Nat) : Nat := if 16 ≤ d then v % 65536 else v <<< (16 - d) ||| v >>> (2 * d - 16)

/-! Formats (R209). -/

/-- A format a video layer or the output may have. -/
def fmtVideo (f : Nat) : Bool := decide (f ≤ 5)
def fmtGraphic (f : Nat) : Bool := f == 8 || f == 9
def fmtPlanar (f : Nat) : Bool := decide (3 ≤ f ∧ f ≤ 5)
/-- Pixels and bytes of a pgroup; one pixel for the other formats. -/
def pgroup (f : Nat) : Nat × Nat :=
  match f with
  | 0 => (2, 5)
  | 1 => (4, 15)
  | 2 => (2, 9)
  | 8 => (1, 4)
  | 9 => (1, 8)
  | _ => (1, 2)
/-- Default stride for a width. -/
def defStride (f w : Nat) : Nat :=
  match f with
  | 0 => alignUp (ceilDiv (5 * w) 2) 64
  | 1 => alignUp (ceilDiv (15 * w) 4) 64
  | 2 => alignUp (ceilDiv (9 * w) 2) 64
  | 8 => 4 * w
  | 9 => 8 * w
  | _ => 2 * w
/-- Bytes of a picture of `h` lines with a stride. -/
def fmtBytes (f stride h : Nat) : Nat :=
  match f with
  | 3 => stride * h + stride * h / 2
  | 4 => 2 * stride * h
  | 5 => 3 * stride * h
  | _ => stride * h
/-- Bits of a component. -/
def fmtDepth (f : Nat) : Nat :=
  match f with
  | 0 => 10
  | 1 => 10
  | 2 => 12
  | 8 => 8
  | _ => 16

/-- Where a source lies and which part of it is read (R209, R212). -/
structure Src where
  fmt : Nat
  base : Nat
  stride : Nat
  /-- lines of the picture (they place the chroma planes), bits of a planar container -/
  lines : Nat
  depth : Nat
  x0 : Nat
  y0 : Nat
  w : Nat
  h : Nat
  csc : Nat
  full : Bool

/-- `n` bits, most significant first, from bit `o` of a group of `k` bytes. -/
def groupBits (rd : Nat → Byte) (a k o n : Nat) : Nat := (beNat ((span a k).map rd) >>> (8 * k - o - n)) % 2 ^ n

/-- A 16-bit container. -/
def le16 (rd : Nat → Byte) (a : Nat) : Nat := leNat [rd a, rd (a + 1)]

/-- A plane's sample, widened. -/
def planeAt (rd : Nat → Byte) (s : Src) (base stride x y : Nat) : Nat :=
  widen s.depth (le16 rd (base + y * stride + 2 * x) % 2 ^ min 16 s.depth)

/-- The full-resolution component of a subsampled format, or all three of a 4:4:4 one (R209): components in ST 2110-20 order for the pgroups. -/
def lumaAt (rd : Nat → Byte) (s : Src) (x y : Nat) : Nat :=
  if s.fmt = 0 then widen 10 (groupBits rd (s.base + y * s.stride + 5 * (x / 2)) 5 (if x % 2 = 0 then 10 else 30) 10)
  else planeAt rd s s.base s.stride x y

/-- Chroma sample `k` of chroma line `y`: Cb and Cr (R209). -/
def chromaAt (rd : Nat → Byte) (s : Src) (k y : Nat) : Nat × Nat :=
  if s.fmt = 0 then
    let a := s.base + y * s.stride + 5 * k
    (widen 10 (groupBits rd a 5 0 10), widen 10 (groupBits rd a 5 20 10))
  else
    let cs := s.stride / 2
    let rows := if s.fmt = 3 then s.lines / 2 else s.lines
    let cb := s.base + s.stride * s.lines
    (planeAt rd s cb cs k y, planeAt rd s (cb + cs * rows) cs k y)

/-- The fixed upsampling filter, clamped (R216 gives no rounding). -/
def upFilter (a b c d : Nat) : Nat := min 65535 (ratio (576 * (b + c) - 64 * (a + d)) 1024)

/-- An index moved by `d`, limited to a range. -/
def near (lo hi k : Nat) (d : Int) : Nat := (clampInt lo hi ((k : Int) + d)).toNat

/-- Chroma at a luma column of a chroma line: co-sited samples are copied, the others interpolated (R216). -/
def chromaH (rd : Nat → Byte) (s : Src) (x y : Nat) : Nat × Nat :=
  let k := x / 2
  if x % 2 = 0 then chromaAt rd s k y
  else
    let at_ (d : Int) : Nat × Nat := chromaAt rd s (near (s.x0 / 2) ((s.x0 + s.w - 1) / 2) k d) y
    let (a, b, c, e) := (at_ (-1), at_ 0, at_ 1, at_ 2)
    (upFilter a.1 b.1 c.1 e.1, upFilter a.2 b.2 c.2 e.2)

/-- Chroma at a luma position. -/
def chromaUp (rd : Nat → Byte) (s : Src) (x y : Nat) : Nat × Nat :=
  if s.fmt = 3 then
    let k := y / 2
    if y % 2 = 0 then chromaH rd s x k
    else
      let at_ (d : Int) : Nat × Nat := chromaH rd s x (near (s.y0 / 2) ((s.y0 + s.h - 1) / 2) k d)
      let (a, b, c, e) := (at_ (-1), at_ 0, at_ 1, at_ 2)
      (upFilter a.1 b.1 c.1 e.1, upFilter a.2 b.2 c.2 e.2)
  else chromaH rd s x y

/-- The three components of a source pixel at 4:4:4, widened: Y, Cb, Cr or R, G, B (R209, R216). -/
def pixelAt (rd : Nat → Byte) (s : Src) (x y : Nat) : Rgb :=
  let order (a b c : Nat) : Rgb := if s.csc = 0 then (a, b, c) else (b, a, c)
  match s.fmt with
  | 1 => let a := s.base + y * s.stride + 15 * (x / 4); let o := 30 * (x % 4)
         order (widen 10 (groupBits rd a 15 o 10)) (widen 10 (groupBits rd a 15 (o + 10) 10)) (widen 10 (groupBits rd a 15 (o + 20) 10))
  | 2 => let a := s.base + y * s.stride + 9 * (x / 2); let o := 36 * (x % 2)
         order (widen 12 (groupBits rd a 9 o 12)) (widen 12 (groupBits rd a 9 (o + 12) 12)) (widen 12 (groupBits rd a 9 (o + 24) 12))
  | 5 => let n := s.stride * s.lines
         (planeAt rd s s.base s.stride x y, planeAt rd s (s.base + n) s.stride x y, planeAt rd s (s.base + 2 * n) s.stride x y)
  | _ => let c := chromaUp rd s x y; (lumaAt rd s x y, c.1, c.2)

/-- Matrix decoding (R216): R'G'B' of full range is itself; the other matrices' figures are the standards'. -/
def decodeRgb (s : Src) (c : Rgb) : Rgb :=
  if s.csc = 0 ∧ s.full then c
  else let r := Config.cscDecode s.csc s.full (if fmtPlanar s.fmt then s.depth else fmtDepth s.fmt) c.1 c.2.1 c.2.2; (min 65535 r.1, min 65535 r.2.1, min 65535 r.2.2)

/-! Scaling (R212, R213). -/

/-- STEP of an axis. -/
def scaleStep (src dst : Nat) : Nat := (2 ^ 21 * src + dst) / (2 * max 1 dst)

/-- Integer position and phase of a destination position. -/
def scalePos (o step x : Nat) : Int × Nat :=
  let p : Int := (o : Int) * 2 ^ 20 + ((2 * (x : Int) + 1) * step - 2 ^ 20) / 2
  let i := p / 2 ^ 20
  let f := ((p % 2 ^ 20).toNat + 2 ^ 13) / 2 ^ 14
  if f = 64 then (i + 1, 0) else (i, f)

/-- A coefficient: 12 bits, signed (R213). -/
def coeff (v : Nat) : Int := signed 12 (v % 4096)

/-- Tap `k` of a phase in a table of `n` dwords a phase (R235). -/
def tapOf (tab : Nat → W32) (n ph k : Nat) : Int :=
  let w := (tab (n * ph + k / 2)).toNat
  coeff (if k % 2 = 0 then w else w / 65536)

/-- One scaler pass over samples already gathered. -/
def scalePass (tab : Nat → W32) (n ph : Nat) (l : List Nat) : Nat :=
  clamp16 ((((List.range l.length).map fun k => tapOf tab n ph k * (l.getD k 0 : Int)).sum + 512) / 1024)

/-- The same on three components. -/
def scalePass3 (tab : Nat → W32) (n ph : Nat) (l : List Rgb) : Rgb :=
  (scalePass tab n ph (l.map fun c => c.1), scalePass tab n ph (l.map fun c => c.2.1), scalePass tab n ph (l.map fun c => c.2.2))

/-- The source lines that destination line `y` of a layer reads (R212). -/
def linesRead (y0 h step y : Nat) : List Nat :=
  let i := (scalePos y0 step y).1
  (List.range 6).map fun (k : Nat) => (clampInt y0 (y0 + h - 1) (i - 2 + k)).toNat

/-- A scaled pixel of a video layer of which the first `have_` source lines are present; the nearest one stands for an absent one, luma and chroma alike (R207). -/
def scaledAt (rd : Nat → Byte) (s : Src) (ht vt : Nat → W32) (dw dh x y have_ : Nat) : Rgb :=
  let cut := { s with h := min s.h (have_ - s.y0) }
  let hs := scaleStep s.w dw
  let vs := scaleStep s.h dh
  let hp := scalePos s.x0 hs x
  let cols := (List.range 8).map fun (k : Nat) => (clampInt s.x0 (s.x0 + s.w - 1) (hp.1 - 3 + k)).toNat
  let line (q : Nat) : Rgb := scalePass3 ht 4 hp.2 (cols.map fun c => decodeRgb s (pixelAt rd cut c (min q (have_ - 1))))
  scalePass3 vt 3 (scalePos s.y0 vs y).2 ((linesRead s.y0 s.h vs y).map line)

/-! Look-up tables (R217, R219). -/

/-- Entry of a table of R, G, B (R235). -/
def lutEntry (tab : Nat → W32) (i : Nat) : Rgb := (fld (tab (2 * i)) 15 0, fld (tab (2 * i)) 31 16, fld (tab (2 * i + 1)) 15 0)

/-- Linear interpolation with weight `f / n`. -/
def lerp (a b f n : Nat) : Nat := ratio (a * (n - f) + b * f) n

/-- The input LUT, of one component chosen by `pick`. -/
def lutIn (tab : Nat → W32) (pick : Rgb → Nat) (v : Nat) : Nat :=
  let i := v / 64
  if 1023 ≤ i then pick (lutEntry tab 1023) else lerp (pick (lutEntry tab i)) (pick (lutEntry tab (i + 1))) (v % 64) 64

def lutIn3 (tab : Nat → W32) (c : Rgb) : Rgb := (lutIn tab (fun e => e.1) c.1, lutIn tab (fun e => e.2.1) c.2.1, lutIn tab (fun e => e.2.2) c.2.2)

/-- The output LUT, indexed by octaves. -/
def lutOut (tab : Nat → W32) (pick : Rgb → Nat) (v : Nat) : Nat :=
  let e := if v < 512 then 1 else Nat.log2 v - 8
  let i := if v < 512 then v / 2 else 256 * e + v / 2 ^ e - 256
  if 4095 ≤ i then pick (lutEntry tab 4095) else lerp (pick (lutEntry tab i)) (pick (lutEntry tab (i + 1))) (v % 2 ^ e) (2 ^ e)

/-! Blending (R217, R218). -/

/-- Effective alpha, 0 to 65536, from a pixel alpha of `n` and PLANE_ALPHA. -/
def alphaOf (a n plane : Nat) : Nat := (2 * 65536 * a * plane + 255 * n) / (2 * 255 * n)

/-- What a layer contributes to a pixel: its linear value times A / 65536, and A. -/
def premul (v : Rgb) (a : Nat) : Rgb × Nat := ((ratio (v.1 * a) 65536, ratio (v.2.1 * a) 65536, ratio (v.2.2 * a) 65536), a)

/-- One layer onto the canvas. -/
def blend (v p a : Nat) : Nat := min (2 ^ 24 - 1) (p + (v * (65536 - a) + 32768) / 65536)

def blend3 (v : Rgb) (l : Rgb × Nat) : Rgb := (blend v.1 l.1.1 l.2, blend v.2.1 l.1.2.1 l.2, blend v.2.2 l.1.2.2 l.2)

/-- A pixel of a graphic layer (R209, R217): un-premultiplied, linear, premultiplied again. -/
def graphicAt (rd : Nat → Byte) (s : Src) (lut : Nat → W32) (shift plane x y : Nat) : Rgb × Nat :=
  let n := if s.fmt = 9 then 8 else 4
  let a := s.base + y * s.stride + n * x
  let c (k : Nat) : Nat := if s.fmt = 9 then le16 rd (a + 2 * k) else widen 8 (rd (a + k)).toNat
  let al := c 3
  if al = 0 then ((0, 0, 0), 0)
  else
    let un (v : Nat) : Nat := min 65535 (ratio (v * 65535) al)
    let e := lutIn3 lut (un (c 2), un (c 1), un (c 0))
    premul (e.1 <<< shift, e.2.1 <<< shift, e.2.2 <<< shift) (alphaOf al 65535 plane)

/-! Output (R219, R220). -/

/-- Signed 16-bit entry of the matrix table. -/
def matEntry (tab : Nat → W32) (k : Nat) : Int := signed 16 (fld (tab k) 15 0)

/-- A row of the output matrix. -/
def matRow (tab : Nat → W32) (r : Nat) (v : Rgb) : Nat :=
  let m := matEntry tab (3 * r) * (v.1 : Int) + matEntry tab (3 * r + 1) * (v.2.1 : Int) + matEntry tab (3 * r + 2) * (v.2.2 : Int)
  let q := m / 8192 + (if m % 8192 = 0 then 0 else (b2n (Config.roundUp m.natAbs 8192) : Int))
  (clampInt 0 (2 ^ 24 - 1) (q + matEntry tab (9 + r) * 256)).toNat

/-- The canvas value of a blended pixel, R', G', B' of 16 bits. -/
def outRgb (mat lut : Nat → W32) (v : Rgb) : Rgb :=
  (lutOut lut (fun e => e.1) (matRow mat 0 v), lutOut lut (fun e => e.2.1) (matRow mat 1 v), lutOut lut (fun e => e.2.2) (matRow mat 2 v))

/-- The codes of a canvas pixel: Y, Cb, Cr or R, G, B (R220). -/
def outCodes (fmt csc : Nat) (full : Bool) (c : Rgb) : Rgb := Config.cscEncode csc full (fmtDepth fmt) c.1 c.2.1 c.2.2

/-- Decimation of chroma on co-sited samples (R220). -/
def decimate (a b c : Nat) : Nat := (256 * a + 512 * b + 256 * c + 512) / 1024

def decimate2 (l : List (Nat × Nat)) (k : Nat) : Nat × Nat :=
  let at_ (i : Nat) : Nat × Nat := l.getD (min i (l.length - 1)) (0, 0)
  let (a, b, c) := (at_ (k - 1), at_ k, at_ (k + 1))
  (decimate a.1 b.1 c.1, decimate a.2 b.2 c.2)

/-- Bits packed most significant first into `n` bytes. -/
def packBits (l : List (Nat × Nat)) (n : Nat) : List Byte :=
  let v := l.foldl (fun a e => a * 2 ^ e.1 + e.2 % 2 ^ e.1) 0
  let used := (l.map Prod.fst).sum
  beBytes n (v * 2 ^ (8 * n - used))

/-- A line of a pgroup format. -/
def pgLine (fmt csc : Nat) (l : List Rgb) : List Byte :=
  let g := pgroup fmt
  let px (i : Nat) : Rgb := l.getD i (0, 0, 0)
  let one (i : Nat) : List (Nat × Nat) :=
    let c := px i
    let d := fmtDepth fmt
    if csc = 0 then [(d, c.1), (d, c.2.1), (d, c.2.2)] else [(d, c.2.1), (d, c.1), (d, c.2.2)]
  ((List.range (ceilDiv l.length g.1)).map fun k =>
    if fmt = 0 then
      let c := decimate2 (l.map fun e => e.2) (2 * k)
      packBits [(10, c.1), (10, (px (2 * k)).1), (10, c.2), (10, (px (2 * k + 1)).1)] g.2
    else packBits ((span (g.1 * k) g.1).map one).flatten g.2).flatten

/-- A line of 16-bit containers. -/
def planeLine (l : List Nat) : List Byte := (l.map fun v => leBytes 2 v).flatten

end Sys2Proof.Machine
end

