-- ==== Sys2Proof/Machine/Conceal.lean ====
section
/-! DEFINITION. Concealment (06_decoding_concealment.md R187 to R189, R192 to R195, R202): the coding units of a decoded picture, its references and its map, the vector of a missing block, bilinear prediction, and what a concealed block leaves in the buffers. -/

namespace Sys2Proof.Machine

def State.modDec (s : State) (n i : Nat) (f : DecPic → DecPic) : State :=
  s.modSess n fun x => { x with dec := x.dec.map fun p => if p.idx = i then f p else p }
def State.decPic (s : State) (n i : Nat) : Option DecPic := (s.sess n).dec.find? fun p => p.idx == i
def State.modDecJob (s : State) (n i k : Nat) (f : DecJob → DecJob) : State :=
  s.modDec n i fun p => { p with jobs := p.jobs.map fun j => if j.idx = k then f j else j }

/-- The stream of a decoded picture, at its own size and format. -/
def DecPic.stream (p : DecPic) (d : List Byte) : Stream := { decStream d with w := p.width, h := p.height, chroma := p.chroma, depth := p.depth }

/-! Coding units and rows (R67, R177). -/

/-- Columns of coding units, and the first of a tile column. -/
def DecPic.cols (p : DecPic) : Nat := ceilDiv p.width p.cell
def DecPic.tileX (p : DecPic) (t : Nat) : Nat := (p.tiles.take t).sum
def DecPic.tileW (p : DecPic) (t : Nat) : Nat := max 1 (p.tiles.getD t 0)
/-- The coding unit that is `k`-th in raster order within a tile column. -/
def DecPic.cellOf (p : DecPic) (t k : Nat) : Nat := k / p.tileW t * p.cols + p.tileX t + k % p.tileW t
/-- Lines of a row: a CTU row; for AVC four macroblock rows, as R109 has it for the encoder (DEDUCED, log entry 117). -/
def DecPic.rowLines (p : DecPic) : Nat := if p.cell = 16 then 64 else max 1 p.cell
/-- The row that holds a coding unit, and the block of samples it covers. -/
def DecPic.rowOf (p : DecPic) (c : Nat) : Nat := c / max 1 p.cols * p.cell / p.rowLines
def DecPic.cellBlock (p : DecPic) (c : Nat) : PixBlock :=
  let x := c % max 1 p.cols * p.cell
  let y := c / max 1 p.cols * p.cell
  { x := x, y := y, w := min p.cell (p.width - x), h := min p.cell (p.height - y) }

def DecJob.cells (p : DecPic) (j : DecJob) : List Nat := (span j.first j.count).map (p.cellOf j.tile)
/-- First row of a job and number of its rows. -/
def DecJob.firstRow (p : DecPic) (j : DecJob) : Nat := p.rowOf (p.cellOf j.tile j.first)
def DecJob.rows (p : DecPic) (j : DecJob) : Nat :=
  if j.count = 0 then 0 else p.rowOf (p.cellOf j.tile (j.first + j.count - 1)) + 1 - j.firstRow p
def DecJob.rowCells (p : DecPic) (j : DecJob) (r : Nat) : List Nat := (j.cells p).filter fun c => p.rowOf c == r

/-- Luma pixels of coding units. -/
def DecPic.pixels (p : DecPic) (cs : List Nat) : Nat := (cs.map fun c => (p.cellBlock c).w * (p.cellBlock c).h).sum

/-- The 16 x 16 blocks of coding units, cut at the picture's edges. -/
def DecPic.blocks16 (p : DecPic) (cs : List Nat) : List PixBlock :=
  (cs.map fun c =>
    let b := p.cellBlock c
    ((span 0 (ceilDiv b.h 16)).map fun j => (span 0 (ceilDiv b.w 16)).map fun i =>
      ({ x := b.x + 16 * i, y := b.y + 16 * j, w := min 16 (b.w - 16 * i), h := min 16 (b.h - 16 * j) } : PixBlock)).flatten).flatten

def DecPic.state (p : DecPic) (c : Nat) : Nat := p.cells.getD c 9
def DecPic.setCells (p : DecPic) (cs : List Nat) (f : Nat → Nat) : DecPic :=
  { p with cells := (List.range p.cells.length).map fun i => if cs.contains i then f (p.cells.getD i 0) else p.cells.getD i 0 }

/-! Concealment maps (R195). -/

/-- Map entries that a block of samples touches, in a picture `w` samples wide. -/
def mapBlocks (w : Nat) (b : PixBlock) : List Nat :=
  ((span (b.y / 64) (ceilDiv (b.y + b.h) 64 - b.y / 64)).map fun j => (span (b.x / 64) (ceilDiv (b.x + b.w) 64 - b.x / 64)).map fun i => j * ceilDiv w 64 + i).flatten

/-- Mark blocks: the highest code is kept. -/
def markMap (m : List Nat) (bs : List Nat) (code : Nat) : List Nat :=
  (List.range m.length).map fun i => if bs.contains i then max (m.getD i 0) code else m.getD i 0

/-- Mark what a block of samples touches in the reference's map, and in the output's where its samples go there. -/
def DecPic.mark (p : DecPic) (b : PixBlock) (code : Nat) (toRef toOut : Bool) : DecPic :=
  let bs := mapBlocks p.width b
  { p with refMap := (if toRef then markMap p.refMap bs code else p.refMap), outMap := (if toOut then markMap p.outMap bs code else p.outMap) }

/-- Offset of a map in a reference buffer and in an output buffer (R176, R181). -/
def refMapOff (st : Stream) : Nat := alignUp (reconBytes st 0) 4096
def outMapOff (w h chroma : Nat) : Nat := alignUp (planeBytes w h chroma) 4096

/-- The maps are written to the buffers. -/
def State.mapsWrite (s : State) (n : Nat) (p : DecPic) : State :=
  let bytes (m : List Nat) : List Byte := m.map fun c => BitVec.ofNat 8 c
  let s := if p.recon = 0 then s else s.hbmWrite (s.bufAddr p.recon + refMapOff (p.stream (s.sess n).desc)) (bytes p.refMap) false
  if p.out = 0 then s else s.hbmWrite (s.bufAddr p.out + outMapOff p.crop.2.2.1 p.crop.2.2.2 p.chroma) (bytes p.outMap) false

/-! Where samples go (R176, R181). -/

/-- Planes and motion field of a reference buffer of a stream. -/
def State.dpbPlanes (s : State) (st : Stream) (h : W32) : List (Nat × Nat × Nat × Nat) :=
  let z := reconSize st st.w 0
  planesOf (s.bufAddr h) z.1 z.2 st.chroma
def State.dpbField (s : State) (st : Stream) (h : W32) : Nat :=
  let z := reconSize st st.w 0
  s.bufAddr h + planeBytes z.1 z.2 st.chroma

/-- Samples of a block go to the reference buffer and, cropped, to the output buffer. -/
def State.picWrite (s : State) (n : Nat) (p : DecPic) (f : Nat → Nat → Nat → Nat) (b : PixBlock) (toRef toOut : Bool) : State :=
  let st := p.stream (s.sess n).desc
  let s := if p.recon = 0 || !toRef then s else s.writeSamples (s.dpbPlanes st p.recon) st.depth f id id b.x (b.x + b.w) b.y (b.y + b.h)
  let (cx, cy, cw, ch) := p.crop
  let x0 := max b.x cx
  let x1 := min (b.x + b.w) (cx + cw)
  let y0 := max b.y cy
  let y1 := min (b.y + b.h) (cy + ch)
  if p.out = 0 || !toOut || decide (x1 ≤ x0 ∨ y1 ≤ y0) then s
  else s.writeSamples (planesOf (s.bufAddr p.out) cw ch st.chroma) st.depth f (fun x => x - cx) (fun y => y - cy) x0 x1 y0 y1

/-- A motion record of a decoded or concealed block (R107, R176); what its COST holds is open. -/
def State.decRecord (s : State) (n : Nat) (p : DecPic) (x y : Nat) (l0 l1 : Option RefMv) (intra poison : Bool) : State :=
  let st := p.stream (s.sess n).desc
  if p.recon = 0 then s
  else s.hbmWrite (s.dpbField st p.recon + 16 * (y / 16 * ceilDiv st.w 16 + x / 16)) (recordBytes16 l0 l1 intra poison (Config.decCost p.seed x y % 2 ^ 32)) false

/-! References (R188, R192, R193). -/

def DecPic.asRef (p : DecPic) : DpbPic := { idx := p.idx, handle := p.recon, w := p.width, h := p.height, poc := p.poc, vecs := p.vecs }

/-- A picture that the session holds as a reference, by its number: in the DPB, or decoded and not yet there. -/
def Sess.refPic (x : Sess) (i : Nat) : Option DpbPic :=
  (x.dpb.find? fun r => r.idx == i).or ((x.dec.find? fun p => p.idx == i && !p.unref && p.recon != 0).map DecPic.asRef)

/-- The substitute source, where it has the picture's size (R192, R204). -/
def Sess.substFor (x : Sess) (p : DecPic) : Option DpbPic := x.substitute.filter fun r => r.w == p.width && r.h == p.height

/-- Sources for concealment, best first: received references of list 0 with their indexes, then the substitute (R188, R189, R192). `bad` names pictures whose reads returned poison. -/
def Sess.concealRefs (x : Sess) (p : DecPic) (bad : List Nat) : List (Option Nat × DpbPic) :=
  let l := if p.key then [] else ((List.range p.list0.length).zip p.list0).filterMap fun e =>
    ((x.refPic e.2).filter fun r => r.w == p.width && r.h == p.height).map fun r => (some e.1, r)
  (l ++ (x.substFor p).toList.map fun r => (none, r)).filter fun e => !bad.contains e.2.idx

/-- Whether a prediction from a reference reads poison, with `l` and `r` interpolation taps left and right. -/
def State.predPoisoned (s : State) (st : Stream) (h : W32) (l r : Nat) (b : PixBlock) (m : Mv) : Bool :=
  let f := footprint st.w st.h l r b.x b.y b m
  (rectSegs (s.dpbPlanes st h) f.1 f.2.1 f.2.2.1 f.2.2.2).any fun e => s.poisoned e.1 e.2

/-- Whether it reads samples of blocks that the reference's map marks (R194). -/
def State.predMarked (s : State) (st : Stream) (h : W32) (b : PixBlock) (m : Mv) : Bool :=
  let f := footprint st.w st.h (tapsLeft st.codec) (tapsRight st.codec) b.x b.y b m
  (mapBlocks st.w { x := f.1, y := f.2.2.1, w := f.2.1 - f.1, h := f.2.2.2 - f.2.2.1 }).any fun i => (s.hbmByte (s.bufAddr h + refMapOff st + i)).toNat % 8 != 0

/-! The vector of a missing block (R187). -/

/-- The vector of a 16 x 16 block, by its place in blocks. -/
def vecAt (l : List VecAt) (x y : Int) : Option VecAt := l.find? fun v => (v.x : Int) == 16 * x && (v.y : Int) == 16 * y

/-- Vectors by weight, each scaled from its own distance to `d`, their mean rounded once to the nearest quarter sample, halves away from zero. A distance of 0, from which nothing can be scaled, leaves a vector as it is (DESIGN CHOICE, log entry 116). -/
def vecMean (d : Int) (l : List (Nat × VecAt)) : Mv :=
  let den (v : VecAt) : Nat := if v.dist = 0 then 1 else v.dist.natAbs
  let num (v : VecAt) : Int := if v.dist = 0 then 1 else if v.dist < 0 then -d else d
  let k := (l.map fun e => den e.2).foldl (· * ·) 1
  let part (f : Mv → Int) : Int := (l.map fun e => (e.1 : Int) * f e.2.mv * num e.2 * (k / den e.2 : Nat)).sum
  let w := (l.map Prod.fst).sum
  { x := 4 * roundDiv (part Mv.x) (4 * w * k), y := 4 * roundDiv (part Mv.y) (4 * w * k) }

/-- Rules 1 to 3 for the block whose top left sample is (x, y): weights and vectors of the correct blocks used. -/
def neighbours (vs : List VecAt) (x y : Nat) : List (Nat × VecAt) :=
  let bx : Int := (x / 16 : Nat)
  let by_ : Int := (y / 16 : Nat)
  let near_ (f : Nat → Option VecAt) : Option (Nat × VecAt) := [1, 2, 3, 4].findSome? fun k => (f k).map fun v => (k, v)
  match near_ fun k => vecAt vs bx (by_ - k), near_ fun k => vecAt vs bx (by_ + k) with
  | some a, some b => [(b.1, a.2), (a.1, b.2)]
  | some a, none => [(1, a.2)]
  | none, some b => [(1, b.2)]
  | none, none => ((near_ fun k => (vecAt vs (bx - k) by_).or (vecAt vs (bx + k) by_)).map fun v => (1, v.2)).toList

/-- Rule 4: the co-located record of the chosen reference, with that vector's own distance. -/
def State.recordVec (s : State) (st : Stream) (r : DpbPic) (x y : Nat) : Option VecAt :=
  let a := s.dpbField st r.handle + 16 * (y / 16 * ceilDiv st.w 16 + x / 16)
  if s.poisoned a 16 then none
  else match (recordOf (s.hbmBytes a 16)).vector, vecAt r.vecs (x / 16 : Nat) (y / 16 : Nat) with
    | some m, some v => some { v with mv := m.2 }
    | _, _ => none

/-- Rules 1 to 4 against a reference; an intra picture has no vectors (R189). A picture of which no slice with a list 0 came counts as one (DEDUCED, log entry 116). -/
def State.concealVec (s : State) (st : Stream) (p : DecPic) (vs : List VecAt) (r : DpbPic) (x y : Nat) : Option Mv :=
  if p.key || p.list0.isEmpty then none
  else match neighbours vs x y with
    | [] => (s.recordVec st r x y).map fun v => vecMean (p.poc - r.poc) [(1, v)]
    | l => some (vecMean (p.poc - r.poc) l)

/-! Prediction (R188, R189, R202). -/

/-- Bilinear prediction of a sample from samples at whole positions; `dx`, `dy` divide the component's size, so that a quarter luma sample is 1 / (4 dx) of its own. R188 gives no rounding of the quotient. -/
def bilinear (at_ : Int → Int → Nat) (dx dy : Nat) (m : Mv) (x y : Nat) : Nat :=
  let kx := 4 * dx
  let ky := 4 * dy
  let u : Int := (kx * x : Nat) + m.x / 4
  let v : Int := (ky * y : Nat) + m.y / 4
  let fx := (u % kx).toNat
  let fy := (v % ky).toNat
  let i := u / kx
  let j := v / ky
  ratio ((kx - fx) * (ky - fy) * at_ i j + fx * (ky - fy) * at_ (i + 1) j + (kx - fx) * fy * at_ i (j + 1) + fx * fy * at_ (i + 1) (j + 1)) (kx * ky)

/-- A sample of a plane, its coordinates clamped to the picture. -/
def State.planeSample (s : State) (e : Nat × Nat × Nat × Nat) (w h : Nat) (x y : Int) : Nat :=
  let u := (clampInt 0 ((w / e.2.2.1 : Nat) - 1 : Int) x).toNat
  let v := (clampInt 0 ((h / e.2.2.2 : Nat) - 1 : Int) y).toNat
  leNat (s.hbmBytes (e.1 + v * e.2.1 + 2 * u) 2)

/-- What fills a block: a source with its list 0 index, the vector into it, the map code. -/
structure Fill where
  src : Option (Option Nat × DpbPic) := none
  mv : Mv := {}
  code : Nat := 5
  deriving DecidableEq, Repr

/-- The first source of a missing block that its prediction reads without poison; without any, mid-grey. -/
def State.fillOf (s : State) (n : Nat) (p : DecPic) (vs : List VecAt) (bad : List Nat) (b : PixBlock) : Fill :=
  let st := p.stream (s.sess n).desc
  let go (e : Option Nat × DpbPic) : Option Fill :=
    let v := s.concealVec st p vs e.2 b.x b.y
    let m := v.getD {}
    if s.predPoisoned st e.2.handle 0 1 b m then none else some { src := some e, mv := m, code := if v.isSome then 3 else 4 }
  (((s.sess n).concealRefs p bad).findSome? go).getD {}

/-- The samples of a fill. -/
def State.fillSample (s : State) (st : Stream) (f : Fill) (c x y : Nat) : Nat :=
  match f.src with
  | none => 2 ^ (st.depth - 1)
  | some e =>
    let pl := (s.dpbPlanes st e.2.handle).getD c (0, 0, 1, 1)
    bilinear (s.planeSample pl st.w st.h) pl.2.2.1 pl.2.2.2 f.mv x y

/-- Whether a coding unit's samples still go to the output (R190). -/
def DecPic.shows (p : DecPic) (b : PixBlock) : Bool := !p.late.contains (b.y / max 1 p.cell * p.cols + b.x / max 1 p.cell)

/-- A block is concealed in both buffers (R186 to R189), and its record holds the vector used: into list 0, or into no reference of the list, where a substitute or grey fills it (DESIGN CHOICE, log entry 116). -/
def State.concealBlock (s : State) (n i : Nat) (vs : List VecAt) (bad : List Nat) (poison : Bool) (b : PixBlock) : State :=
  match s.decPic n i with
  | none => s
  | some p =>
    let f := s.fillOf n p vs bad b
    let t := s.picWrite n p (s.fillSample (p.stream (s.sess n).desc) f) b true (p.shows b)
    let t := t.decRecord n p b.x b.y ((f.src.bind Prod.fst).map fun k => (k, f.mv)) none false poison
    t.modDec n i fun p => p.mark b f.code true (p.shows b)

/-- A block is concealed in the output alone, at its deadline (R190). -/
def State.concealOut (s : State) (n i : Nat) (b : PixBlock) : State :=
  match s.decPic n i with
  | none => s
  | some p =>
    (s.picWrite n p (s.fillSample (p.stream (s.sess n).desc) (s.fillOf n p p.vecs [] b)) b false true).modDec n i fun p => p.mark b 6 false true

end Sys2Proof.Machine
end

