-- ==== Sys2Proof/Machine/Dec.lean ====
section
/-! DEFINITION. Decoding (06_decoding_concealment.md R174 to R186, R190 to R204; 08_job_formats.md R258, R269): units, pictures, jobs and their rows, output, errors, concealment jobs and the picture record. What only a decoder of the codec can tell comes with the command (`SliceInfo`). -/

namespace Sys2Proof.Machine

def outDelay (d : List Byte) : Nat := leAt d 0xA4 2

/-- A reference passes from one agent to another without any operation of the manual's list: the producer stays (R181, R210). -/
def State.passRef (s : State) (a b : Nat) (h : W32) : State :=
  if s.live h then (s.setHbuf h (dropHold (s.hbuf h) a)).addHold h b 1 else s

/-- The first error of a picture is kept (R196). -/
def DecPic.err (p : DecPic) (e : Nat) : DecPic := { p with firstErr := if p.firstErr = 0 then e else p.firstErr }

/-! Output (R181, R182). -/

/-- A coding unit's output samples are there: decoded, concealed, or concealed at their deadline. -/
def DecPic.cellOut (p : DecPic) (c : Nat) : Bool := p.state c == 2 || p.state c == 3 || p.late.contains c

/-- The lines above the bottom edge of a coding unit still wait for the one below: filtering is enabled across it, and the one below is neither decoded nor to be concealed. -/
def DecPic.bottomWaits (p : DecPic) (c : Nat) : Bool :=
  (p.edges.getD c 0).testBit 2 && p.state c == 2 && !p.late.contains c && (p.state (c + p.cols) == 0 || p.state (c + p.cols) == 1)

/-- Leading lines of the picture whose output samples are final. -/
def DecPic.finalLines (p : DecPic) (codec : Nat) : Nat :=
  let n := ceilDiv p.height p.rowLines
  let row (r : Nat) : List Nat := (List.range p.cells.length).filter fun c => p.rowOf c == r
  let done := ((List.range n).takeWhile fun r => (row r).all p.cellOut).length
  if n ≤ done then p.height
  else
    let y := min p.height (done * p.rowLines)
    let last := (row (done - 1)).filter fun c => decide (y ≤ (p.cellBlock c).y + (p.cellBlock c).h)
    if done ≠ 0 && last.any p.bottomWaits then y - filterReach codec else y

/-- LINES_DONE of the output follows the rows; the last completes the picture. -/
def State.outLines (s : State) (n : Nat) (p : DecPic) : State :=
  if p.out = 0 then s
  else
    let z := p.finalLines (decStream (s.sess n).desc).codec
    let (_, cy, _, ch) := p.crop
    let y := if p.height ≤ z then ch else min ch (z - cy)
    let b := s.hbuf p.out
    if y ≤ b.linesDone && !(y == ch && !b.complete) then s else s.linesDone (s.sessAgent n) p.out y (decide (y = ch))

/-- Format of a decoded output (R181, R209). -/
def outFmt (st : Stream) : Nat := if st.chroma = 3 then 5 else if st.chroma = 2 then 4 else 3

/-- A published picture that was never latched counts as DROPPED at the pipe whose layer is bound to the session (R210, R253). -/
def State.pictureDropped (s : State) (n : Nat) : State :=
  let bound (p : Nat) : Bool := (span 0 8).any fun l =>
    let c := tabGet (fun _ => 0) (s.pipe p).live (0x400 + 0x40 * l)
    bitAt c 0 && fld c 3 2 == 2 && (tabGet (fun _ => 0) (s.pipe p).live (0x404 + 0x40 * l)).toNat % 256 == n
  match (span 0 4).find? bound with
  | some p => s.satF (CMP_NOSRC p) 31 16
  | none => s

/-- The standard outputs a picture: it is published to the session's consumer once it has its buffer (R181, R253, R435). -/
def State.decPublish (s : State) (n i : Nat) : State :=
  match s.decPic n i with
  | none => s
  | some p =>
    let s := s.modDec n i fun p => { p with due := true }
    if p.published || p.out = 0 then s
    else
      let x := s.sess n
      let d := x.desc
      let st := { p.stream d with w := p.crop.2.2.1, h := p.crop.2.2.2 }
      let s := s.modDec n i fun p => { p with published := true }
      if kindOf d = 2 then s.encSource n p.out p.capture (st.w, st.h, outFmt st)
      else match leAt d 0xAA 1 with
        | 0 => s
        | 1 =>
          let f := leAt d 0xAB 1
          s.setTxf f { s.txf f with offers := (s.txf f).offers ++ [{ handle := p.out, agent := s.sessAgent n, width := st.w, height := st.h, fmt := outFmt st, chroma := st.chroma, depth := st.depth, capture := p.capture }] }
        | _ =>
          let s := match x.published with
            | some o => (s.sessRelease n o.1).pictureDropped n
            | none => s
          s.modSess n fun x => { x with published := some (p.out, st.w, st.h, st.depth) }

/-- The output buffer is asked for when the picture's first job starts, without waiting (R181, R198, R200). -/
def State.decOutTake (s : State) (n i : Nat) : State :=
  match s.decPic n i with
  | none => s
  | some p =>
    if p.outTried || p.hold then s
    else
      let pool := leAt (s.sess n).desc 0xA3 1
      let r := s.poolAlloc (s.sessAgent n) pool (s.allocHolds pool (s.sessAgent n) 1)
      match r.2 with
      | .ok h _ =>
        let s := (r.1.setHbuf h { r.1.hbuf h with capture := p.capture }).modDec n i fun p => { p with outTried := true, out := h }
        if p.due then s.decPublish n i else s
      | _ => r.1.modDec n i fun p => { p with outTried := true, noBuffer := true }

/-! References (R176, R192, R193). -/

/-- Whether a reference buffer is still wanted: by the DPB or as the substitute source. -/
def Sess.wants (x : Sess) (h : W32) : Bool := (x.dpb.any fun r => r.handle == h) || x.substitute.any fun r => r.handle == h

/-- Free reference buffers that nothing wants. -/
def State.refsFree (s : State) (n : Nat) (hs : List W32) : State :=
  s.each hs fun t h => if h = 0 || (t.sess n).wants h then t else t.reconFree n h

/-- Every coding unit is decoded or concealed. -/
def DecPic.whole (p : DecPic) : Bool := p.cells.all fun c => c == 2 || c == 3

/-- A named reference: complete, being decoded, or missing. -/
inductive RefState
  | complete | partly | missing
  deriving DecidableEq, Repr

def Sess.refState (x : Sess) (i : Nat) : RefState :=
  if x.dpb.any fun r => r.idx == i then .complete
  else match x.dec.find? fun p => p.idx == i && !p.unref && (p.recon != 0 || p.waiting.isSome) with
    | some p => if p.whole then .complete else .partly
    | none => .missing

/-- Reference buffers a session holds beside its DPB: of pictures being decoded, and the substitute source (R176). -/
def Sess.extraRefs (x : Sess) : Nat :=
  x.dec.countP (fun p => p.recon != 0 || p.waiting.isSome) + (x.substitute.toList.countP fun r => !x.dec.any fun p => p.recon == r.handle)

/-- D + 2 (R176). -/
def refLimit (d : List Byte) : Nat :=
  let st := decStream d
  Config.levelDpb st.codec st.level st.w st.h + 2

/-- A new picture finds a reference buffer within D + 2 once the bitstream's list, at worst emptied, leaves one; until then its first slice waits (DESIGN CHOICE, log entry 115). -/
def Sess.refRoom (x : Sess) : Bool := decide (x.extraRefs < refLimit x.desc)

/-! Opening and closing pictures (R185). -/

/-- Runs of entries that satisfy `f`: first and length. -/
def runsOf (f : Nat → Bool) : Nat → List Nat → List (Nat × Nat)
  | _, [] => []
  | k, c :: cs =>
    match runsOf f (k + 1) cs with
    | rest => if !f c then rest else
      match rest with
      | (a, m) :: t => if a = k + 1 then (k, m + 1) :: t else (k, 1) :: (a, m) :: t
      | [] => [(k, 1)]

/-- Ranges of coding units, in raster order within their tile columns: tile column, first, count. -/
def DecPic.runs (p : DecPic) (f : Nat → Bool) : List (Nat × Nat × Nat) :=
  ((List.range p.tiles.length).map fun t =>
    (runsOf f 0 ((span 0 (p.tileW t * ceilDiv p.height p.cell)).map fun k => p.state (p.cellOf t k))).map fun e => (t, e)).flatten

/-- Missing ranges. -/
def DecPic.missing (p : DecPic) : List (Nat × Nat × Nat) := p.runs fun c => c == 0

/-- A picture closes: what no slice brought is missing (R185); each such range that neither a loss mark nor a corrupt slice accounts for is one lost slice. -/
def DecPic.close (p : DecPic) : DecPic :=
  if p.closed then p
  else { p with closed := true, lostSlices := p.lostSlices + ((p.runs fun c => c == 0 || c == 3 || c == 5).length - p.lossMarks - p.corrupt) }

/-- Every picture still being received closes. -/
def State.decCloseAll (s : State) (n : Nat) : State := s.modSess n fun x => { x with dec := x.dec.map DecPic.close }

/-- A new picture as its headers give it (R178, R181, R198). A HOST picture whose first job has CT_VALID = 0 has capture time 0 (DESIGN CHOICE, log entry 118). -/
def Sess.newPic (x : Sess) (seed : Nat) (cap : Option PtpTime) (i : PicInfo) : DecPic :=
  { idx := x.decCount, seed := seed, width := i.width, height := i.height, chroma := i.chroma, depth := i.depth, crop := (i.cropX, i.cropY, i.outW, i.outH),
    poc := i.poc, cell := i.ctu, tiles := i.tiles, capture := cap.getD {},
    cells := List.replicate (ceilDiv i.width i.ctu * ceilDiv i.height i.ctu) 0, edges := List.replicate (ceilDiv i.width i.ctu * ceilDiv i.height i.ctu) 0,
    refMap := List.replicate (ceilDiv i.width 64 * ceilDiv i.height 64) 0, outMap := List.replicate (ceilDiv i.width 64 * ceilDiv i.height 64) 0,
    hold := leAt x.desc 0xA9 1 == 1 && !x.recovered && !i.recovers && !i.key, key := i.key, recovers := i.recovers,
    lossMarks := x.lossMarks, lostSlices := x.lossMarks, lostPics := i.lost, lateSlices := x.lateUnits, firstErr := if x.lossMarks = 0 then 0 else 1 }

/-- A new picture opens: the one before closes, the DPB takes the bitstream's list, a reference buffer is asked for, pictures due for output are published (R176, R181, R185, R193, R204). A picture whose allocation ends in NONE or an error is decoded without a reference buffer, and no later picture finds it (R25 and R106 speak of coding only: DESIGN CHOICE, log entry 119). -/
def State.decOpen (s : State) (n : Nat) (cap : Option PtpTime) (i : PicInfo) : State :=
  let s := s.decCloseAll n
  let x := s.sess n
  let kept := x.dpb.filter fun r => i.keep.contains r.idx
  let x := { x with substitute := x.substitute.filter fun r => r.w == i.width && r.h == i.height }
  let dpb := kept.take (refLimit x.desc - 1 - x.extraRefs)
  let old := (s.sess n).dpb.map DpbPic.handle ++ (s.sess n).substitute.toList.map DpbPic.handle
  let x := { x with dpb := dpb, dec := x.dec.map fun p => { p with unref := p.unref || !i.keep.contains p.idx } }
  let s := (s.setSess n x).refsFree n old.eraseDups
  let a := s.poolBlocking { agent := s.sessAgent n, count := 1, sess := some n } (leAt x.desc 0xA2 1)
  let recon := match a.2 with
    | some (.ok h _) => h
    | _ => 0
  let p := { x.newPic s.fresh cap i with recon := recon, waiting := if a.2.isNone then some s.uptime else none }
  let s := a.1.draw.modSess n fun x => { x with dec := x.dec ++ [p], decCount := x.decCount + 1, lossMarks := 0, lateUnits := 0, started := true }
  s.each i.outputs fun t i => t.decPublish n i

/-! The end of a picture (R193, R196, R198, R269, R272). -/

/-- The body of a decode picture record (R269). -/
def Sess.decBody (x : Sess) (p : DecPic) : List (Nat × List Byte) :=
  [(0x08, timeBytes p.capture), (0x12, leBytes 1 p.firstErr), (0x14, leBytes 4 (if p.published then p.out.toNat else 0)), (0x18, leBytes 4 (x.decClosed + 1)),
   (0x1C, sat16 (p.outMap.countP fun c => decide (2 ≤ c))), (0x1E, sat16 (p.outMap.count 1)), (0x20, sat16 p.lostSlices), (0x22, sat16 p.corrupt),
   (0x24, sat16 p.lostPics), (0x26, sat16 p.substRefs), (0x28, sat16 p.lateRows), (0x2A, sat16 p.lateSlices), (0x2C, leBytes 4 (outMapOff p.crop.2.2.1 p.crop.2.2.2 p.chroma)),
   (0x30, sat16 p.lateJobs), (0x32, sat16 x.discarded), (0x34, sat16 x.paramIgnored)]

/-- FLAGS of a decode record (R267). -/
def State.decFlags (s : State) (n : Nat) (p : DecPic) : Nat :=
  let x := s.sess n
  b2n (p.lateJobs != 0) ||| b2n (x.hedges.any fun h => (s.hedge h).overload) <<< 1 ||| b2n x.overloadEnd <<< 2 ||| b2n p.hashBad <<< 9 |||
  b2n p.noBuffer <<< 10 ||| b2n (!x.recovered && (p.recovers || p.key)) <<< 11

/-- Units whose jobs have all completed are consumed: buffers released, UNIT_ONLY records written (R258, R272). -/
def State.unitsDone (s : State) (n i : Nat) : State :=
  match s.decPic n i with
  | none => s
  | some p =>
    let ended (k : Nat) : Bool := p.jobs.all fun j => decide (k ≤ j.idx) || j.conceal || j.phase == .done || j.phase == .ended
    let s := s.modDec n i fun p => { p with unitJobs := p.unitJobs.filter (fun e => !ended e.2), unitRefs := p.unitRefs.filter fun e => !ended e.2 }
    let s := s.each (p.unitRefs.filter fun e => ended e.2) fun t e => t.sessRelease n e.1
    s.each (p.unitJobs.filter fun e => ended e.2) fun t e => t.finishJob e.1 (1 <<< 12) [(0x08, timeBytes p.capture)] 0

/-- Whether a picture is through: closed, every coding unit in the reference, every job ended, published or not to be. -/
def DecPic.through (p : DecPic) : Bool :=
  p.closed && p.whole && (p.jobs.all fun j => j.phase == .done || j.phase == .ended) && (p.published || p.hold || p.noBuffer) && p.waiting.isNone

/-- A correctly decoded picture: every slice received, decoded without error and no block of it concealed (R191). -/
def DecPic.correct (p : DecPic) : Bool :=
  (p.cells.all fun c => c == 2) && p.corrupt == 0 && p.lostSlices == 0 && p.refMap.all fun c => decide (c < 3)

/-- The substitute source after a picture: the correctly decoded picture that is last in output order (R192, R193). -/
def Sess.nextSubst (x : Sess) (p : DecPic) : Option DpbPic :=
  if p.correct && p.recon != 0 && x.substitute.all fun r => decide (r.poc ≤ p.poc) then some p.asRef else x.substitute

/-- The oldest picture leaves with its record; at most `k` (R271, R272). -/
def State.decRetire (s : State) (n : Nat) : Nat → State
  | 0 => s
  | k + 1 =>
    match (s.sess n).dec with
    | [] => s
    | p :: ps =>
      if !p.through then s
      else
        let s := s.unitsDone n p.idx
        let x := s.sess n
        let d := x.desc
        let fl := s.decFlags n p
        let body := x.decBody p
        let old := x.substitute.toList.map DpbPic.handle
        let s := s.setSess n { x with dec := ps, decClosed := x.decClosed + 1, discarded := 0, paramIgnored := 0, overloadEnd := false,
                                      recovered := x.recovered || p.recovers || p.key, substitute := x.nextSubst p,
                                      dpb := (if p.unref || p.recon = 0 then [] else [p.asRef]) ++ x.dpb }
        let s := s.refsFree n (p.recon :: old).eraseDups
        let s := if kindOf d = 1 && leAt d 0xAA 1 == 0 && p.published then s.passRef (s.sessAgent n) (64 + x.fn) p.out else s
        let s := if !p.published then s.sessRelease n p.out else s
        let s := match p.job with
          | some j => s.finishJob j fl body 0
          | none => if leAt d 0xA0 1 == 1 && leAt d 0x15 1 == 1 then s.statusRing (leAt d 0x14 1) fun ph => s.recordBytes 0 0x11 n fl body ph 0 else s
        s.decRetire n k

def State.decsRetire (s : State) (n : Nat) : State := s.decRetire n (s.sess n).dec.length

/-! Jobs (R74, R77, R82, R177, R180). -/

/-- The part of a split session that holds a tile column: whole columns from the left in proportion to the parts' loads, at least one each (DESIGN CHOICE, log entry 120); with fewer tile columns than parts, the leftmost part holds them all. -/
def partOf (parts : List (Nat × Nat × Nat)) (tiles t : Nat) : Nat :=
  let total := max 1 (parts.map fun e => e.2.1).sum
  let ends := (List.range parts.length).map fun i =>
    max (i + 1) (min (tiles - (parts.length - 1 - i)) (tiles * ((parts.take (i + 1)).map fun e => e.2.1).sum / total))
  if tiles < parts.length then 0 else (ends.takeWhile fun e => decide (e ≤ t)).length

/-- D(y) of R180 as nanoseconds of PTP time. -/
def outDeadline (d : List Byte) (p : DecPic) (y : Nat) : Nat :=
  let total := if leAt d 0xA6 2 = 0 then p.height else leAt d 0xA6 2
  p.capture.nat + outDelay d * 1000 + y * rateDen d * 1000000000 / (max 1 (rateNum d) * max 1 total)

/-- Cost of a job's pixels in two-hundredths of a cycle: decoding, or concealment at 0.25 cycles (R69, R177). -/
def DecJob.cost (st : Stream) (j : DecJob) : Nat := if j.conceal then 50 else cost200 st true false

/-- Time of some rows of a job. -/
def State.decRowsNs (s : State) (n : Nat) (p : DecPic) (j : DecJob) (from_ k : Nat) : Nat :=
  codeNs (p.pixels ((span from_ k).map (j.rowCells p)).flatten) (j.cost (p.stream (s.sess n).desc)) (s.hedgeMHz j.hedge)

/-- The deadline of a job that is ready now (R180). -/
def State.decDeadline (s : State) (n : Nat) (p : DecPic) (j : DecJob) : Nat :=
  let d := (s.sess n).desc
  if outDelay d = 0 then s.inNs (2 * s.decRowsNs n p j (j.firstRow p) (j.rows p) + 10000 : Nat)
  else s.inNs ((outDeadline d p (p.cellBlock (p.cellOf j.tile j.first)).y : Int) - (s.mtc.time.nat : Int))

/-- A job of a picture joins its list, in the hedge that holds its tile column. -/
def State.decAddJob (s : State) (n : Nat) (p : DecPic) (j : DecJob) : State :=
  let parts := (s.sess n).decParts
  let j := { j with idx := p.jobs.length, hedge := (parts.getD (partOf parts p.tiles.length j.tile) (0, 0, 0)).1, vecs := p.vecs }
  let j := { j with deadline := s.decDeadline n p j }
  s.modDec n p.idx fun q => { q with jobs := q.jobs ++ [j] }

/-- A concealment job for a missing range (R186). -/
def State.concealStart (s : State) (n : Nat) (p : DecPic) (run : Nat × Nat × Nat) : State :=
  let j : DecJob := { tile := run.1, first := run.2.1, count := run.2.2, conceal := true }
  let s := s.decAddJob n p j
  s.modDec n p.idx fun q => q.setCells (j.cells p) fun _ => 5

/-! Edges between coding units (R179, R188). -/

/-- Edge bits of the coding units of a slice (`DecPic.edges`). -/
def DecPic.sliceEdges (p : DecPic) (si : SliceInfo) (cs : List Nat) : DecPic :=
  let bits (c : Nat) : Nat :=
    let cols := p.cols
    let up := decide (cols ≤ c) && cs.contains (c - cols)
    let left := c % max 1 cols != 0 && cs.contains (c - 1)
    let down := cs.contains (c + cols)
    let right := (c + 1) % max 1 cols != 0 && cs.contains (c + 1)
    let on (own other : Bool) : Nat := b2n (if own then si.filterIn else other)
    on up si.filterAbove ||| on left si.filterLeft <<< 1 ||| on down si.filterBelow <<< 2 ||| on right si.filterRight <<< 3 ||| b2n up <<< 4 ||| b2n left <<< 5
  { p with edges := (List.range p.edges.length).map fun i => if cs.contains i then bits i else p.edges.getD i 0 }

/-- Pairs of neighbours with one of some coding units among them: the upper or left one, the lower or right one, whether one lies above the other. -/
def DecPic.pairs (p : DecPic) (cs : List Nat) : List (Nat × Nat × Bool) :=
  let w := max 1 p.cols
  (cs.map fun c =>
    (if w ≤ c then [(c - w, c, true)] else []) ++ (if c + w < p.cells.length then [(c, c + w, true)] else []) ++
    (if c % w ≠ 0 then [(c - 1, c, false)] else []) ++ (if (c + 1) % w ≠ 0 then [(c, c + 1, false)] else [])).flatten.eraseDups

/-- The samples of a pair within the filters' reach of the edge between them. -/
def DecPic.strips (p : DecPic) (g : Nat) (e : Nat × Nat × Bool) : PixBlock × PixBlock :=
  let a := p.cellBlock e.1
  let b := p.cellBlock e.2.1
  if e.2.2 then ({ a with y := a.y + a.h - min g a.h, h := min g a.h }, { b with h := min g b.h })
  else ({ a with x := a.x + a.w - min g a.w, w := min g a.w }, { b with w := min g b.w })

/-- The edge of a pair, one of which has just been decoded or concealed. Between two jobs' decoded units it is filtered where the bitstream enables that; what is decoded within reach of a concealed unit is PROPAGATED. The edge is filtered once both sides are decoded, whichever comes last (DEDUCED, log entry 117). -/
def State.pairEdge (s : State) (n i : Nat) (e : Nat × Nat × Bool) : State :=
  match s.decPic n i with
  | none => s
  | some p =>
    let z := p.strips (filterReach (decStream (s.sess n).desc).codec) e
    let hi := p.edges.getD e.1 0
    let lo := p.edges.getD e.2.1 0
    let k := if e.2.2 then 0 else 1
    match p.state e.1, p.state e.2.1 with
    | 2, 2 =>
      if lo.testBit k && !lo.testBit (4 + k) then
        let f := Config.filteredSample p.seed
        (s.picWrite n p f z.1 true (p.shows z.1)).picWrite n p f z.2 true (p.shows z.2)
      else s
    | 2, 3 => if hi.testBit (2 + k) then s.modDec n i fun p => p.mark z.1 1 true (p.shows z.1) else s
    | 3, 2 => if lo.testBit k then s.modDec n i fun p => p.mark z.2 1 true (p.shows z.2) else s
    | _, _ => s

/-- Coding units change state; their edges follow, and the maps and LINES_DONE. -/
def State.cellsDone (s : State) (n i : Nat) (cs : List Nat) (f : Nat → Nat) : State :=
  let s := s.modDec n i fun p => p.setCells cs f
  match s.decPic n i with
  | none => s
  | some p =>
    let s := s.each (p.pairs cs) fun t e => t.pairEdge n i e
    match s.decPic n i with
    | some q => (s.mapsWrite n q).outLines n q
    | none => s

/-! Rows (R77, R183, R184, R188, R192, R194). -/

/-- What a block predicts from: pictures and vectors. -/
def slicePreds (si : SliceInfo) (e : DecBlock) : List (Nat × Mv) :=
  (e.l0.bind fun m => si.list0[m.1]?.map fun i => (i, m.2)).toList ++ (e.l1.bind fun m => si.list1[m.1]?.map fun i => (i, m.2)).toList

/-- The samples that two blocks share. -/
def blockMeet (a b : PixBlock) : PixBlock :=
  let x := max a.x b.x
  let y := max a.y b.y
  { x := x, y := y, w := min (a.x + a.w) (b.x + b.w) - x, h := min (a.y + a.h) (b.y + b.h) - y }

/-- Whether intra prediction of a block reads marked samples: those left of it and above it in its own job. -/
def DecPic.intraMarked (p : DecPic) (j : DecJob) (b : PixBlock) : Bool :=
  let own := b.y / max 1 p.cell * p.cols + b.x / max 1 p.cell
  let above : PixBlock := { x := b.x - 1, y := b.y - 1, w := 2 * b.w + min 1 b.x, h := min 1 b.y }
  let left : PixBlock := { x := b.x - 1, y := b.y - 1, w := min 1 b.x, h := 2 * b.h + min 1 b.y }
  ((j.cells p).filter fun c => decide (c ≤ own)).any fun c => [above, left].any fun r =>
    let m := blockMeet r (p.cellBlock c)
    m.w != 0 && m.h != 0 && (mapBlocks p.width m).any fun k => p.refMap.getD k 0 != 0

/-- A block's map code, and the pictures whose reads for it return poison. -/
def State.blockState (s : State) (n : Nat) (p : DecPic) (j : DecJob) (si : SliceInfo) (e : DecBlock) : Nat × List Nat :=
  let x := s.sess n
  let st := p.stream x.desc
  let bad (r : DpbPic) (m : Mv) : List Nat := if s.predPoisoned st r.handle (tapsLeft st.codec) (tapsRight st.codec) e.block m then [r.idx] else []
  match slicePreds si e with
  | [] => (b2n (p.intraMarked j e.block), [])
  | l => l.foldl (fun acc m => match x.refPic m.1 with
      | some r => (max acc.1 (b2n (s.predMarked st r.handle e.block m.2)), acc.2 ++ bad r m.2)
      | none => (max acc.1 2, acc.2 ++ (x.substFor p).toList.flatMap fun r => bad r m.2)) (0, [])

/-- The vector of a block's motion record and the distance to what it points at (R107, R187): list 0 before list 1; a missing reference stands at its substitute's distance. -/
def Sess.blockVec (x : Sess) (p : DecPic) (si : SliceInfo) (b : PixBlock) (e : DecBlock) : Option VecAt :=
  (slicePreds si e).head?.map fun m =>
    { x := b.x, y := b.y, mv := mvTo m.2 4, dist := ((x.refPic m.1).or (x.substFor p)).elim 0 fun r => p.poc - r.poc }

/-- The block that covers a 16 x 16 block's centre sample. -/
def sliceCentre (si : SliceInfo) (b : PixBlock) : Option DecBlock := si.blocks.find? fun e => holds e.block (b.x + 8) (b.y + 8)

/-- A decoded row: samples, marks, poisoned blocks concealed, motion records. -/
def State.decodeRow (s : State) (n : Nat) (p : DecPic) (j : DecJob) (si : SliceInfo) (cs : List Nat) (r : Nat) : State :=
  let x := s.sess n
  let bs := si.blocks.filter fun e => e.block.y / p.rowLines == r
  let spoilt (e : DecBlock) : List Nat := (s.blockState n p j si e).2
  let b16 := p.blocks16 cs
  let vs := b16.filterMap fun b => (sliceCentre si b).bind fun e => if (spoilt e).isEmpty then x.blockVec p si b e else none
  let t := s.each cs fun t c => t.picWrite n p (Config.sample p.seed) (p.cellBlock c) true (!p.late.contains c)
  let t := t.each b16 fun t b =>
    let e := sliceCentre si b
    t.decRecord n p b.x b.y (e.bind (·.l0)) (e.bind (·.l1)) (e.all fun e => (slicePreds si e).isEmpty) false
  let t := t.each bs fun t e =>
    match t.decPic n p.idx with
    | none => t
    | some q =>
      let z := t.blockState n q j si e
      let t := if z.1 = 0 then t else t.modDec n p.idx fun q => q.mark e.block z.1 true (q.shows e.block)
      if z.2.isEmpty then t else (t.concealBlock n p.idx (j.vecs ++ vs) z.2 true e.block).modDec n p.idx fun q => q.err 4
  (t.modDec n p.idx fun q => { q with vecs := q.vecs ++ vs }).cellsDone n p.idx cs fun _ => 2

/-- A concealed row. -/
def State.concealRow (s : State) (n : Nat) (p : DecPic) (j : DecJob) (cs : List Nat) : State :=
  (s.each (p.blocks16 cs) fun t b => t.concealBlock n p.idx j.vecs [] false b).cellsDone n p.idx cs fun _ => 3

/-- Whether the bytes of a unit that hold a row read poisoned (R183). -/
def State.rowPoisoned (s : State) (p : DecPic) (j : DecJob) (r : Nat) : Bool :=
  match j.base, j.info with
  | some a, some si =>
    let q := r - j.firstRow p
    let x := if q = 0 then si.start else si.ends.getD (q - 1) si.start
    s.poisoned (a + x) (si.ends.getD q x - x)
  | _, _ => false

/-- The row a job is at, where its error lies, and whether that row is its last. -/
def DecJob.row (p : DecPic) (j : DecJob) : Nat := j.firstRow p + j.done
def State.jobStop (s : State) (p : DecPic) (j : DecJob) : Option (Nat × Nat) :=
  j.stop.filter (fun e => decide (e.1 ≤ j.row p)) |>.or (if s.rowPoisoned p j (j.row p) then some (j.row p, 3) else none)
def State.jobLast (s : State) (p : DecPic) (j : DecJob) : Bool := decide (j.rows p ≤ j.done + 1) || (s.jobStop p j).isSome

/-- The row a job is at is coded; the row that holds an error leaves nothing. -/
def State.decRow (s : State) (n : Nat) (p : DecPic) (j : DecJob) : State :=
  let cs := j.rowCells p (j.row p)
  let stop := s.jobStop p j
  let s := match j.info with
    | none => s.concealRow n p j cs
    | some si => if stop.isSome then s else s.decodeRow n p j si cs (j.row p)
  s.modDecJob n p.idx j.idx fun j => { j with done := j.done + 1, stop := stop.or j.stop }

/-- A job has completed: what it did not decode is missing, its error is counted (R83, R183, R184). -/
def State.decJobEnd (s : State) (n i k : Nat) : State :=
  match s.decPic n i with
  | none => s
  | some p =>
    match p.jobs.find? fun j => j.idx == k with
    | none => s
    | some j =>
      let late := afterNs s.nowNs j.deadline
      let s := if late then s.satF (HDG_OVL j.hedge) 15 0 else s
      let bad := j.stop.isSome
      let hash := j.info.any SliceInfo.hashBad
      let s := s.modDec n i fun q =>
        let q := if bad then DecPic.err { q with corrupt := q.corrupt + 1 } (j.stop.elim 0 Prod.snd) else q
        let q := if hash then DecPic.err { q with hashBad := true } 9 else q
        let q := if j.conceal then q else q.setCells (j.cells q) fun c => if c = 1 then 0 else c
        { q with lateJobs := q.lateJobs + b2n late, jobs := q.jobs.map fun x => if x.idx = k then { x with phase := .done, core := none } else x }
      let s := match s.decPic n i with
        | some q => (s.mapsWrite n q).outLines n q
        | none => s
      (s.unitsDone n i).decsRetire n

/-! Commands. -/

/-- A loss mark counts a lost slice of the picture being received, or of the next (R183, R196). -/
def State.lossIn (s : State) (n : Nat) : State :=
  match (s.sess n).dec.getLast? with
  | some p =>
    if p.closed then s.modSess n fun x => { x with lossMarks := x.lossMarks + 1 }
    else s.modDec n p.idx fun q => DecPic.err { q with lossMarks := q.lossMarks + 1, lostSlices := q.lostSlices + 1 } 1
  | none => s.modSess n fun x => { x with lossMarks := x.lossMarks + 1 }

/-- Loss marks at the head of the queue take effect; at most `k`. -/
def State.lossUnits (s : State) (n : Nat) : Nat → State
  | 0 => s
  | k + 1 =>
    match (s.sess n).units with
    | u :: us =>
      if !u.loss then s
      else
        let s := (s.modSess n fun x => { x with units := us }).lossIn n
        (if u.closes then s.decCloseAll n else s).lossUnits n k
    | [] => s

/-- The oldest unit is parsed to its end: it leaves the queue, and its record and buffer wait for the jobs made so far (R258, R272). -/
def State.unitPop (s : State) (n : Nat) : State :=
  let x := s.sess n
  match x.units with
  | [] => s
  | u :: us =>
    let s := s.setSess n { x with units := us }
    let s := match x.dec.getLast? with
      | some p =>
        let k := p.jobs.length
        let s := s.modDec n p.idx fun q =>
          { q with unitJobs := (if u.closes then q.unitJobs else q.unitJobs ++ (u.job.toList.map fun j => (j, k))),
                   job := (if u.closes then u.job else q.job),
                   unitRefs := (if u.release then q.unitRefs ++ [(u.handle, k)] else q.unitRefs) }
        let s := if u.closes then s.modDec n p.idx DecPic.close else s
        (s.unitsDone n p.idx).decsRetire n
      | none =>
        let s := if u.release then s.sessRelease n u.handle else s
        u.job.elim s fun j => s.finishJob j (if u.closes then 0 else 1 <<< 12) [] 0
    s.lossUnits n us.length

/-- Where the parse of a slice stops: its row in the picture and the code of FIRST_ERR (R183, R269). -/
def sliceStop (si : SliceInfo) (crcBad : Bool) (firstRow : Nat) : Option (Nat × Nat) :=
  if crcBad then some (firstRow, 2)
  else match si.result with
    | .syntaxError r => some (firstRow + r, 5)
    | .unsupported => some (firstRow, 6)
    | _ => none

/-- A picture outside the session's fields, whose parameter set is ignored (R183). -/
def picOutside (d : List Byte) (i : PicInfo) : Bool :=
  let st := decStream d
  decide (st.w < i.width ∨ st.h < i.height ∨ st.chroma < i.chroma ∨ st.depth < i.depth)

/-- A slice of the picture being received: its coding units are received, and its job is made; one that comes too late, twice, or lies outside the picture is discarded (R178, R184, R192, R201). -/
def State.sliceTake (s : State) (n : Nat) (p : DecPic) (si : SliceInfo) (u : DecUnit) : State :=
  let j : DecJob := { tile := si.tile, first := si.first, count := si.count, info := some si, src := u.handle, base := u.addr }
  let cs := j.cells p
  let st := cs.map p.state
  if p.closed || st.any fun c => c == 3 || c == 5 then s.modDec n p.idx fun q => { q with lateSlices := q.lateSlices + 1 }
  else if decide (p.tiles.length ≤ si.tile) || st.any fun c => c != 0 then s.modDec n p.idx fun q => DecPic.err { q with corrupt := q.corrupt + 1 } 5
  else
    let miss := (si.list0 ++ si.list1).eraseDups.countP fun i => (s.sess n).refState i == .missing
    let s := s.modDec n p.idx fun q =>
      let q := { q with substRefs := q.substRefs + miss, list0 := if q.list0.isEmpty then si.list0 else q.list0 }
      let q := (q.setCells cs fun _ => 1).sliceEdges si cs
      if miss = 0 then q else q.err 8
    s.decAddJob n p { j with stop := sliceStop si u.crcBad (j.firstRow p) }

/-- One slice of the oldest unit, or, with no coding units, its other units: a parameter set outside the session's fields is ignored and counted (R178, R183, R184, R197). A slice that needs a parameter set which is missing, or was ignored, is missing; where it would begin a picture, nothing of that picture can be told. -/
def State.sliceIn (s : State) (n : Nat) (si : SliceInfo) (u : DecUnit) : State :=
  let x := s.sess n
  let bare := si.result == .missingParam || picOutside x.desc si.pic
  let skip := (si.newPicture && si.pic.rasl) || (!x.started && ((leAt x.desc 0xA8 1 == 0 && !si.pic.startPoint) || bare))
  if si.count = 0 then (if si.result = .unsupported then s.modSess n fun x => { x with paramIgnored := x.paramIgnored + 1 } else s)
  else if skip then s.modSess n fun x => { x with discarded := x.discarded + 1 }
  else if bare then
    if si.newPicture then s.decCloseAll n
    else match x.dec.getLast? with
      | some p => s.modDec n p.idx fun q => q.err 7
      | none => s
  else
    let s := if si.newPicture then s.decOpen n u.capture si.pic else s
    match (s.sess n).dec.getLast? with
    | some p => s.sliceTake n p si u
    | none => s.modSess n fun x => { x with lateUnits := x.lateUnits + 1 }

/-- DECODE_JOB_READY (R178): nothing while a named reference is incomplete, or a new picture has no room for its reference buffer. -/
def execDecodeJobReady (sess : SessId) (si : SliceInfo) (s : State) : Out :=
  .next (let n := sess.val
    let s := if s.clocked then s.lossUnits n (s.sess n).units.length else s
    let x := s.sess n
    match x.units with
    | u :: _ =>
      if s.clocked && x.phase == .opened && hasDec x.desc && !s.hedgeOff n && (si.list0 ++ si.list1).all (fun i => x.refState i != .partly) && (!si.newPicture || x.refRoom) then
        let s := s.sliceIn n si u
        if si.lastOfUnit then s.unitPop n else s
      else s
    | [] => s)

/-- The first missing range of a picture that may be concealed: the picture is closed, or the slice behind the range has been decoded (R186 events 1 and 2). -/
def DecPic.concealable (p : DecPic) : Option (Nat × Nat × Nat) :=
  p.missing.find? fun r =>
    let k := r.2.1 + r.2.2
    p.closed || (p.state (p.cellOf r.1 k) == 2 && p.jobs.any fun j => !j.conceal && j.phase == .done && j.tile == r.1 && decide (j.first ≤ k ∧ k < j.first + j.count))

/-- CONCEALMENT_JOB_READY (R186). -/
def execConcealmentJobReady (sess : SessId) (pic : Nat) (s : State) : Out :=
  .next (if !s.clocked then s
    else match s.decPic sess.val pic with
      | none => s
      | some p => match p.concealable with
        | none => s
        | some r => s.concealStart sess.val p r)

/-- CONCEAL_LATEST_START (R186 event 3): only with an output deadline. -/
def execConcealLatestStart (sess : SessId) (pic : Nat) (s : State) : Out :=
  .next (if !s.clocked || outDelay (s.sess sess.val).desc = 0 then s
    else match s.decPic sess.val pic with
      | none => s
      | some p => match p.missing.head? with
        | none => s
        | some r => s.concealStart sess.val p r)

/-- OUTPUT_DEADLINE (R190): received coding units of a row not decoded at its deadline are concealed in the output only and published. -/
def execOutputDeadline (sess : SessId) (row : Nat) (s : State) : Out :=
  .next (let n := sess.val
    let cells (p : DecPic) : List Nat := (List.range p.cells.length).filter fun c => p.rowOf c == row && p.state c == 1 && !p.late.contains c
    if !s.clocked || outDelay (s.sess n).desc = 0 then s
    else match (s.sess n).dec.find? fun p => p.out != 0 && !(cells p).isEmpty with
      | none => s
      | some p =>
        let s := s.each (p.blocks16 (cells p)) fun t b => t.concealOut n p.idx b
        let s := s.modDec n p.idx fun q => { q with late := q.late ++ cells p, lateRows := q.lateRows + 1 }
        match s.decPic n p.idx with
        | some q => (s.mapsWrite n q).outLines n q
        | none => s)

/-- DECODE_UNIT (R248, R258, R93, R183). -/
def execDecodeUnit (r : RingId) (s : State) : Out :=
  .next (s.withJob r.val 4 (fun _ => true) fun s j b =>
    let n := j.sess
    let h := BitVec.ofNat 32 (leAt b 0x10 4)
    let off := leAt b 0x14 4
    let len := leAt b 0x18 4
    if s.hedgeOff n then s.finishJob j 0 [] 0x2D
    else
      let a := s.bufAddr h + off
      let crc := bitIn b 0x1C 1 && crc32c (s.hbmBytes a len) != BitVec.ofNat 32 (leAt b 0x20 4)
      let u : DecUnit := { job := some j, handle := h, release := bitIn b 0x1C 3, closes := bitIn b 0x1C 0, crcBad := crc, addr := some a,
                           capture := if bitIn b 0x1C 2 then some { ns := BitVec.ofNat 32 (leAt b 0x28 4), sec := BitVec.ofNat 48 (leAt b 0x2C 6) } else none }
      (s.hbmRead a len).modSess n fun x => { x with units := x.units ++ [u] })

end Sys2Proof.Machine
end

