-- ==== Sys2Proof/Machine/Cores.lean ====
section
/-! DEFINITION. Cores as the hedge sequencer sees them (03_codec_cores_sessions.md R64, R77 to R82; 13_microcode.md R382, R399): personalities and bank swaps, which core may take which job, and what a slice job needs to be ready. -/

namespace Sys2Proof.Machine

/-! Dispatch (R77, R82, R93). -/

/-- A core that may take a job now: in service, clocked, free, its hedge enabled, no promotion of it running or asked for. -/
def State.coreFree (s : State) (c : Nat) : Bool :=
  let h := s.hedge (c / 9)
  s.clocked && s.coreRole c == 0 && s.domainOn c && s.bit (hCTL (pgHDG (c / 9))) 0 && (s.core c).job.isNone && !s.busy (pgCORE c) &&
  (h.promo.all fun p => p.failed != c) && h.faults.all fun f => f.1 != c

/-- A job a core could take: deadline (none while unknown), session, picture, job as `Core.job` numbers it, personality. -/
structure Cand where
  deadline : Option Nat
  sess : Nat
  pic : Nat
  job : Nat
  pers : Nat
  deriving DecidableEq, Repr

/-- Source lines that must be present before rows up to `last` of a picture are coded (R112, R155). -/
def linesNeeded (st : Stream) (srcH lastRow : Nat) : Nat :=
  let y := min st.h ((lastRow + 1) * ctuLines st.codec)
  min srcH (ceilDiv (y * srcH) (max 1 st.h) + (if st.h < srcH then 2 else 0))

/-- Whether the source of a picture has its first `k` lines (R22). -/
def State.linesHere (s : State) (p : EncPic) (k : Nat) : Bool := p.src == 0 || k == 0 || s.lineReady p.src (k - 1)

/-- Source lines that a row of a session's picture needs. -/
def State.rowLines (s : State) (n row : Nat) : Nat := linesNeeded (mainStream (s.sess n).desc) (s.sess n).srcGeom.2.1 row

/-- Whether the lines of a row of a job's picture are present. -/
def State.rowHere (s : State) (n : Nat) (p : EncPic) (row : Nat) : Bool :=
  s.linesHere p (s.rowLines n row)

/-- The hedge sequencer of a job waits for the lines of a row of its picture (R22). -/
def State.rowWait (s : State) (n : Nat) (p : EncPic) (j : EncJob) (row : Nat) : State :=
  if p.src = 0 then s else s.subscribe (36 + j.hedge) p.src (s.rowLines n row - 1)

/-- The motion field that a picture of an inheriting rung holds (R122). -/
def State.motionOf (s : State) (n : Nat) (p : EncPic) : Option MotionRef :=
  (s.sess n).motions.find? fun m => m.src == p.src && m.capture == p.capture

/-- The rung of a session's ladder that writes motion fields, if it is another one. -/
def State.analyser (s : State) (n : Nat) : Option (Nat × Sess) :=
  (s.ladder (leAt (s.sess n).desc 0xA 1)).find? fun e => e.2.analysing && e.1 != n && bitIn e.2.desc 0x56 7

/-- A session is an inheriting rung. -/
def State.inherits (s : State) (n : Nat) : Bool := leAt (s.sess n).desc 0xA 1 != 0 && !(s.sess n).analysing && (s.analyser n).isSome

/-- The cost of an encode session now: less for a rung that inherits (R69, R122). -/
def State.encCost (s : State) (n : Nat) : Nat := cost200 (mainStream (s.sess n).desc) false (s.inherits n)

/-- The analysing rung has not yet started a picture of an inheriting rung, which therefore has no motion field of it so far (R124). -/
def State.awaits (s : State) (n : Nat) (p : EncPic) : Bool :=
  s.inherits n && p.src != 0 && (s.motionOf n p).isNone && (s.analyser n).any fun e => e.2.lastCapture.all fun t => decide (t.nat < p.capture.nat)

/-- Coding time of some rows of a job, in ns (R78, R82). -/
def State.rowsNs (s : State) (n : Nat) (j : EncJob) (from_ k : Nat) : Nat :=
  let st := mainStream (s.sess n).desc
  codeNs (((span from_ k).map fun r => j.rowPixels st r).sum) (s.encCost n) (s.hedgeMHz j.hedge)

/-- Cycles that a core spent in a slice job (R92 CORE_BUSY). -/
def State.coreBusy (s : State) (c cycles : Nat) : State :=
  s.setPair (CORE_BUSY_LO c) (CORE_BUSY_HI c) ((s.pair (CORE_BUSY_LO c) (CORE_BUSY_HI c) + cycles) % 2 ^ 64)

/-- A core leaves its job: its source reference goes (R16). -/
def State.coreFreed (s : State) (c : Nat) (src : W32) : State :=
  let s := s.latch (36 + c / 9) 2
  let s := s.setCore c { s.core c with job := none }
  if src = 0 then s else (s.poolRelease c src).1

/-- A slice job completes on a core (R92 CORE_SLICES). -/
def State.coreDone (s : State) (c : Nat) (src : W32) : State := (s.inc (CORE_SLICES c)).coreFreed c src

/-- Reference samples are fetched through the hedge's cache: line hits and misses, as many as its contents give (R64, R93; their numbers are open, log entry 96). -/
def State.cacheUse (s : State) (c : Nat) : State :=
  let h := c / 9
  let s := (s.setReg (HDG_RC_HIT h) (s.reg (HDG_RC_HIT h) + s.freeWord)).draw
  (s.setReg (HDG_RC_MISS h) (s.reg (HDG_RC_MISS h) + s.freeWord)).draw

/-- Ready decode and concealment jobs that core `c` could take. A row's deadline is its job's less the time of its later rows (R77). -/
def State.decCands (s : State) (c : Nat) : List Cand :=
  (s.sessions.map fun e =>
    if e.2.phase = .closed then []
    else (e.2.dec.map fun p => p.jobs.filterMap fun j =>
      if j.phase = .ready ∧ j.hedge = c / 9 ∧ p.waiting = none then
        let later := s.decRowsNs e.1 p j (j.row p + 1) (j.rows p - 1 - j.done)
        some { deadline := some ((j.deadline + clockSpan - later) % clockSpan), sess := e.1, pic := p.idx, job := decBase + j.idx, pers := persOf (decStream e.2.desc).codec true : Cand }
      else none).flatten).flatten

/-- Earliest deadline first; a job without one yet last; ties to the lower session, picture and job (R82). -/
def Cand.before (a b : Cand) : Bool :=
  match a.deadline, b.deadline with
  | some x, some y => if x = y then decide (a.sess < b.sess ∨ (a.sess = b.sess ∧ (a.pic < b.pic ∨ (a.pic = b.pic ∧ a.job < b.job)))) else afterNs y x
  | some _, none => true
  | none, some _ => false
  | none, none => decide (a.sess < b.sess ∨ (a.sess = b.sess ∧ (a.pic < b.pic ∨ (a.pic = b.pic ∧ a.job < b.job))))

def firstCand (l : List Cand) : Option Cand :=
  match l with
  | [] => none
  | c :: cs => some (cs.foldl (fun b x => if x.before b then x else b) c)

/-! What an inheriting job waits for (R122 to R125, R137, R138). -/

/-- Analysing CTU rows whose source lines meet those of row `r` of a rung. -/
def coveringRows (st : Stream) (an : Stream) (srcH r : Nat) : List Nat :=
  let lo := r * ctuLines st.codec * srcH / max 1 st.h
  let hi := ceilDiv (min st.h ((r + 1) * ctuLines st.codec) * srcH) (max 1 st.h)
  (span 0 (ctuRows an.codec an.h)).filter fun q =>
    decide (q * ctuLines an.codec * srcH / max 1 an.h < hi ∧ lo < ceilDiv (min an.h ((q + 1) * ctuLines an.codec) * srcH) (max 1 an.h))

/-- Analysing rows that cover a row of a session's picture with a motion field. -/
def State.covers (s : State) (n : Nat) (m : MotionRef) (r : Nat) : List Nat :=
  coveringRows (mainStream (s.sess n).desc) { mainStream (s.sess n).desc with codec := m.codec, w := m.w, h := m.h } (s.sess n).srcGeom.2.1 r

/-- Rows of a job some of whose covering records are missing: every row where there is no motion field yet, none where the picture inherits nothing. -/
def State.missingRecords (s : State) (n : Nat) (p : EncPic) (j : EncJob) : List Nat :=
  match s.motionOf n p with
  | some m => (span j.firstRow j.rows).filter fun r => !(s.covers n m r).all m.rows.contains
  | none => if s.awaits n p then span j.firstRow j.rows else []

/-- Analysing rows without records that cover the job. -/
def State.lostRows (s : State) (n : Nat) (p : EncPic) (j : EncJob) : List Nat :=
  (s.motionOf n p).elim [] fun m => (((span j.firstRow j.rows).map (s.covers n m)).flatten.filter fun q => !m.rows.contains q).eraseDups

/-- Records of a motion field in a line: ceil(W / 16) of them (R106, R122). -/
def recordLine (w : Nat) : Nat := 16 * ceilDiv w 16

/-- Whether records that cover a row read poisoned (R137). -/
def State.recordsPoisoned (s : State) (n : Nat) (p : EncPic) (row : Nat) : Bool :=
  (s.motionOf n p).any fun m =>
    m.buf != 0 &&
    (s.covers n m row).any fun q =>
      let k := ctuLines m.codec / 16
      s.poisoned (s.bufAddr m.buf + q * k * recordLine m.w) ((min (ceilDiv m.h 16) ((q + 1) * k) - q * k) * recordLine m.w)

/-! A session opens (R75, R80). -/

/-- What follows a successful placement: clocks, loads, flows, the espalier join, the spares. -/
def State.openDone (s : State) (n : Nat) : State :=
  let d := (s.sess n).desc
  let s := s.coreClocks.loadsUpdate
  let s := if hasEnc d && leAt d 0x24 1 == 1 && !s.espSilent n then s.bindFlow (leAt d 0x25 1) (some (encProducer n)) else s
  let s := if kindOf d = 1 ∧ leAt d 0xAA 1 = 1 then s.bindFlow (leAt d 0xAB 1) (some (decProducer n)) else s
  let s := (s.espJoinOwn n).ltrUpdate
  s.each (s.sess n).hedges State.spareLoad

/-- SESSION_OPEN (R75, R248, R254). -/
def execSessionOpen (r : RingId) (s : State) : Out :=
  .next (s.withJob r.val 1 (fun b => !s.jobHostWaits r.val (leAt b 0x18 1 == 0)) fun s j b =>
    let loc := leAt b 0x18 1 == 1
    let a := leAt b 0x10 8
    let x := s.jobRead r.val loc a 256
    let s := s.jobReadCount loc a 256
    if x.1 ≠ 0 then s.finishJob j 0 (s.openBody j.sess false 0xFFFF) x.1
    else match s.openCheck j.sess (s.owner r.val) x.2 with
      | .inr e => s.finishJob j 0 (s.openBody j.sess false e.2) e.1
      | .inl t => let t := t.openDone j.sess; t.finishJob j 0 (t.openBody j.sess true 0xFFFF) 0)

end Sys2Proof.Machine
end

