-- ==== Sys2Proof/Machine/DecRun.lean ====
section
/-! DEFINITION. Decode and concealment jobs on cores, row by row (01_architecture.md R16; 03_codec_cores_sessions.md R69, R77, R79, R81 to R83, R92; 06_decoding_concealment.md R177, R181, R182). -/

namespace Sys2Proof.Machine

/-- A core holds a reference on the buffer of a unit while it decodes from it (R16); units in a NAMED buffer have no references. -/
def State.unitHold (s : State) (c : Nat) (h : W32) : State := if h = 0 || s.poolNamed (hPool h) then s else (s.poolAddref c h).1
def State.unitDrop (s : State) (h : W32) : W32 := if s.poolNamed (hPool h) then 0 else h

/-- A row of a decode job starts on a core, whose personality is made active; the picture's first job asks for its output buffer (R79, R181). -/
def State.decBegin (s : State) (c n i k pers : Nat) : State :=
  let s := s.activate c pers
  let s := s.decOutTake n i
  let src := ((s.decPic n i).bind fun p => p.jobs.find? fun j => j.idx == k - decBase).elim 0 DecJob.src
  let s := s.modDecJob n i (k - decBase) fun j => { j with phase := .running, core := some c, version := j.version.or (some (s.seq c).active.version) }
  (s.setCore c { s.core c with job := some (n, i, k), strip := none }).unitHold c src

/-- The picture and the job of a session's decode work. -/
def State.decJob (s : State) (n i k : Nat) : Option (DecPic × DecJob) := (s.decPic n i).bind fun p => (p.jobs.find? fun j => j.idx == k).map fun j => (p, j)

/-- Cycles of a row: its pixels at the job's cost; with a decode job's last row, half a cycle for each bin above two per pixel (R177). -/
def rowCycles (st : Stream) (p : DecPic) (j : DecJob) (last : Bool) : Nat :=
  p.pixels (j.rowCells p (j.row p)) * j.cost st / 200 + if last then (j.info.elim 0 SliceInfo.bins - 2 * p.pixels (j.cells p)) / 2 else 0

/-- The row that core `c` codes of a job is coded: its cycles count, and the core lets the unit's buffer go. -/
def State.decRowEnd (s : State) (c n : Nat) (p : DecPic) (j : DecJob) (last : Bool) : State :=
  let s := (s.coreBusy c (rowCycles (p.stream (s.sess n).desc) p j last)).cacheUse c
  let src := s.unitDrop j.src
  let s := if last then s.coreDone c src else s.coreFreed c src
  s.decRow n p j

/-- The last row of a decode job completes on a core (R83, R182). -/
def State.decComplete (s : State) (c n i k : Nat) : State :=
  match s.decJob n i k with
  | none => s.setCore c { s.core c with job := none }
  | some (p, j) => if s.jobLast p j then (s.decRowEnd c n p j true).decJobEnd n i k else s

/-- Another row of a running decode job completes; its next row is ready and goes to the free core of its hedge with the lowest ID, else it waits for one (R77). -/
def State.decNext (s : State) (n i k : Nat) : State :=
  match s.decJob n i k with
  | none => s
  | some (p, j) =>
    match j.core with
    | none => s
    | some c =>
      if j.phase != .running || s.jobLast p j then s
      else
        let s := (s.decRowEnd c n p j false).modDecJob n i k fun j => { j with phase := .ready, core := none }
        let pers := persOf (decStream (s.sess n).desc).codec true
        match (span (9 * j.hedge) 9).find? fun c => s.coreFree c && s.resident c pers != .absent with
        | some c => s.decBegin c n i (decBase + k) pers
        | none => s

end Sys2Proof.Machine
end

