-- ==== Sys2Proof/Machine/EncStart.lean ====
section
/-! DEFINITION. The start of an encode picture (R26, R84, R104 to R108, R121, R122, R142 to R148, R154 to R157, R160; 08_job_formats.md R256, R257; 15_tolac_fabric_espalier.md R472 to R475): ENCODE_PICTURE, PICTURE_START and PREPASS. -/

namespace Sys2Proof.Machine

/-! The jobs of a picture (R109, R156). -/

/-- The part of a descriptor's picture that this module codes, in unit columns of the whole picture: first and number. -/
def State.ownColumns (s : State) (n : Nat) : Nat × Nat :=
  let d := (s.sess n).desc
  let st := mainStream d
  match s.espOf n with
  | some g =>
    let r := s.espRegion g (s.espSelf g) st
    (r.1 / ctuWide st.codec, ceilDiv r.2 (ctuWide st.codec))
  | none => (0, rowUnits st.codec st.w)

/-- Tile columns of a region of a given load: TILE_COLS, or one core's work each, none narrower than the standard's minimum (R109). -/
def tileCount (d : List Byte) (st : Stream) (load width : Nat) : Nat :=
  tilesThat st.codec width (if leAt d 0x4E 1 ≠ 0 then leAt d 0x4E 1 else max 1 (ceilDiv load 1024))

/-- Columns `[a, a + k)` divided into `t` tile columns: first and number of each. -/
def tilesOf (a k t : Nat) : List (Nat × Nat) :=
  (List.range t).map fun i => (a + tileStart k t i, tileStart k t (i + 1) - tileStart k t i)

/-- The tile-column groups of this module's part: hedge, first column and number of columns. With TILE_COLS fixed the columns of the whole region are shared by the parts in order; otherwise each part has its own. -/
def State.groupsOf (s : State) (n : Nat) : List (Nat × Nat × Nat) :=
  let x := s.sess n
  let d := x.desc
  let st := mainStream d
  let (a, k) := s.ownColumns n
  let cu := ctuWide st.codec
  if leAt d 0x4E 1 ≠ 0 then
    let ends := x.parts.foldl (fun (acc : List (Nat × Nat) × Nat) e => (acc.1 ++ [(e.1, acc.2 + e.2.2)], acc.2 + e.2.2)) ([], 0)
    (tilesOf a k (tileCount d st 0 (s.partWidth n d))).map fun c =>
      (((ends.1.find? fun e => decide ((c.1 - a) * cu < e.2)).map Prod.fst).getD 0, c.1, c.2)
  else
    (x.parts.foldl (fun (acc : List (Nat × Nat × Nat) × Nat) e =>
      let w := ceilDiv e.2.2 cu
      (acc.1 ++ (tilesOf acc.2 w (tileCount d st e.2.1 e.2.2)).map fun c => (e.1, c.1, c.2), acc.2 + w)) ([], a)).1

/-- Tile-column groups of member `m` of an espalier group, as the anchor knows them. -/
def State.memberGroups (s : State) (g m n : Nat) : List (Nat × Nat) :=
  let d := (s.sess n).desc
  let st := mainStream d
  let r := s.espRegion g m st
  let cu := ctuWide st.codec
  tilesOf (r.1 / cu) (ceilDiv r.2 cu) (tileCount d st (loadOf st d r.2 (cost200 st false false)) r.2)

/-- The slices of a pinned session, dealt round its shares (R78, R109). -/
def sliceJobs (x : Sess) : List EncJob :=
  let st := mainStream x.desc
  let sr := sliceRows x.desc
  let rows := ctuRows st.codec st.h
  (List.range (ceilDiv rows sr)).map fun i =>
    let c := (x.shares.getD (i % max 1 x.shares.length) (0, 0)).1
    { idx := i, firstRow := i * sr, rows := min sr (rows - i * sr), units := rowUnits st.codec st.w, hedge := c / 9, pin := some c }

/-- The jobs of the next picture of a session. An anchor's list has the groups of every member in member order; those of others stand under hedge 4 + member. -/
def State.jobsOf (s : State) (n : Nat) : List EncJob :=
  let x := s.sess n
  let st := mainStream x.desc
  let rows := ctuRows st.codec st.h
  if pinned x.desc then sliceJobs x
  else
    let own := s.groupsOf n
    let all := match s.espOf n with
      | some g =>
        if s.espSelf g = s.espAnchor g then
          ((List.range (s.espLast g + 1)).map fun m =>
            if m = s.espSelf g then own else (s.memberGroups g m n).map fun c => (4 + m, c.1, c.2)).flatten
        else own
      | none => own
    ((List.range all.length).zip all).map fun e =>
      ({ idx := e.1, rows := rows, hedge := e.2.1, firstUnit := e.2.2.1, units := e.2.2.2 } : EncJob)

/-! Allowances fixed at picture start (R148, R475). -/

/-- Estimated bytes of a group: in an espalier its size in the previous picture; else, and where nothing gave it, the estimates of its rows at the start QP (R148, R149), with the floor for a row that has no figure. -/
def State.groupEst (s : State) (n : Nat) (p : EncPic) (prev : List RowDone) (first : Bool) (m : Nat × Nat) (rf : Nat) (j : EncJob) : Nat :=
  let st := mainStream (s.sess n).desc
  let known := (s.espOf n).elim 0 fun g =>
    if j.hedge < 4 then ((prev.filter fun r => r.job == j.idx).map RowDone.bytes).sum
    else tabGet (fun _ => 0) (s.esp g).sizes ((j.hedge - 4) * 64 + j.idx % 64)
  if known = 0 then ((span 0 j.rows).map fun r => (({ j with snapPrev := prev } : EncJob).base first st j.idx r p.startQp m).getD rf).sum
  else known

/-- The mean activity that an estimate of a snapshot uses: where a first picture has measured none yet, it is open (R143, R149). -/
def State.estMean (s : State) (p : EncPic) : Nat × Nat := if p.mean.2 = 0 then (s.freeWord.toNat % 65536, 1) else p.mean

/-- Every group takes its snapshot at the picture's start (R148 REFRESH rule). -/
def State.refreshTake (s : State) (n : Nat) (p : EncPic) (period : Nat) (prev : List RowDone) (first : Bool) : EncPic :=
  let st := mainStream (s.sess n).desc
  let rf := fun (j : EncJob) => j.rowFloor st p period
  let reserve := (p.jobs.map fun j => j.rows * rf j).sum
  let free := p.budget - p.spent - reserve
  let es := p.jobs.map fun j => s.groupEst n p prev first (s.estMean p) (rf j) j
  let all := max 1 es.sum
  let al := (p.jobs.zip es).map fun e => e.1.rows * rf e.1 + free * e.2 / all
  let jobs := (p.jobs.zip al).map fun e =>
    { e.1 with taken := true, allowance := e.2, snapSpent := p.spent, snapCommitted := al.sum - e.2, snapPrev := prev, snapOpen := s.freeWord.toNat }
  { p with jobs := jobs }

/-- The anchor sends each other member its allowances (R474, R475). -/
def State.allowanceSend (s : State) (n : Nat) (p : EncPic) : State :=
  match s.espOf n with
  | none => s
  | some g =>
    s.each ((List.range (s.espLast g + 1)).filter fun m => m != s.espSelf g) fun t m =>
      t.espOut (t.espNode g m) 0 false (.espAllowance (t.espNode g m) p.capture ((p.jobs.filter fun j => j.hedge == 4 + m).map EncJob.allowance))

/-! Substituted parts (R480). -/

/-- Width of the buffer's left halo, and of both. -/
def State.haloWidths (s : State) (n : Nat) : Nat × Nat :=
  match s.espOf n with
  | some g => (if s.espSelf g = 0 then 0 else s.espHalo g, s.espHalo g * (b2n (s.espSelf g != 0) + b2n (s.espSelf g != s.espLast g)))
  | none => (0, 0)

/-- Columns of the reference buffer that hold member `m`'s side: its own region, or the halo of a neighbour; none for others. -/
def State.memberColumns (s : State) (g n m : Nat) : Option (Nat × Nat) :=
  let w := s.partWidth n (s.sess n).desc
  let l := (s.haloWidths n).1
  let me := s.espSelf g
  if m = me then some (l, l + w) else if m + 1 = me then some (0, l) else if m = me + 1 then some (l + w, l + w + s.espHalo g) else none

/-- Reference buffers with their capture times, newest first. -/
def State.espBufs (s : State) (g n : Nat) : List (PtpTime × W32) := (s.esp g).refs.zip ((s.sess n).refs.map RefPic.handle)

/-- Segments of columns `c` of a reference buffer, lines `[y0, y1)`. -/
def State.refSegs (s : State) (n : Nat) (h : W32) (c : Nat × Nat) (y0 y1 : Nat) : List (Nat × Nat) :=
  let st := mainStream (s.sess n).desc
  let z := reconSize st (s.partWidth n (s.sess n).desc) (s.haloWidths n).2
  rectSegs (planesOf (s.bufAddr h) z.1 z.2 st.chroma) c.1 c.2 y0 (min z.2 y1)

/-- The reconstruction of member `m`'s side of the picture of a time becomes the co-located one of its first reference, and its halo rows are there (R480). -/
def State.substCopy (s : State) (g n m : Nat) (t : PtpTime) : State :=
  let bufs := (s.espBufs g n).dropWhile fun e => e.1 != t
  let rows := ctuRows (mainStream (s.sess n).desc).codec (mainStream (s.sess n).desc).h
  let s := match s.memberColumns g n m, bufs with
    | some c, a :: b :: _ =>
      s.each ((s.refSegs n a.2 c 0 8704).zip (s.refSegs n b.2 c 0 8704)) fun u e => u.hbmWrite e.1.1 (u.hbmBytes e.2.1 e.2.2) (u.poisoned e.2.1 e.2.2)
    | _, _ => s
  if m = s.espSelf g then s
  else s.setEsp g { s.esp g with rows := (s.esp g).rows ++ ((List.range rows).map fun r => (m, false, r, t)).filter fun x => !(s.esp g).rows.contains x }

/-- The refresh sweep restarts at the next picture, and every reference so far counts as outside the clean region (R480). -/
def Sess.sweepRestart (x : Sess) : Sess := { x with sweep := 0, refs := x.refs.map fun r => { r with clean := some 0 } }

/-- The anchor codes floor tiles for member `m`'s region of a picture, tells the members, and restarts the refresh sweep at the next picture (R480). -/
def State.espSubstitute (s : State) (n i m : Nat) : State :=
  match s.espOf n, s.pic n i with
  | some g, some p =>
    let st := mainStream (s.sess n).desc
    let gone := p.jobs.filter fun j => j.hedge == 4 + m && j.phase != .done && j.phase != .ended
    if gone.isEmpty then s
    else
      let size (j : EncJob) : Nat := j.rows * EncJob.rowFloor st { p with key := false, sweep := none } 1 j
      let s := s.modPic n i fun q =>
        { q with spent := q.spent + (gone.map size).sum, jobs := q.jobs.map fun j => if gone.any (fun x => x.idx == j.idx) then { j with phase := .done } else j }
      let e := s.esp g
      let parts := (e.parts.filter fun x => !(x.member == m && x.time == p.capture && gone.any fun j => j.idx == x.job)) ++
        gone.map fun j => ({ member := m, time := p.capture, job := j.idx, whole := true, bytes := (List.range (size j)).map (Config.codedByte p.seed j.idx) } : EspPart)
      let s := s.setEsp g { e with parts := parts, substituted := (e.substituted ++ [(m, p.capture)]).reverse.take 64 |>.reverse }
      let s := ((s.satF (ESP_SUBST g) 15 0).event pgTSW 7).substCopy g n m p.capture
      let s := s.modSess n Sess.sweepRestart
      let s := s.each ((List.range (s.espLast g + 1)).filter fun k => k != s.espSelf g) fun t k => t.espOut (t.espNode g k) 0 false (.espSubst (t.espNode g k) m p.capture)
      (s.espFlush n).picMaybeEnd n i
  | _, _ => s

/-- Parts of other members that have arrived whole complete their groups of a picture that has started; their bytes count, and become the estimates of the next picture (R475, R478). -/
def State.espTake (s : State) (n i : Nat) : State :=
  match s.espOf n, s.pic n i with
  | some g, some p =>
    let waits (x : EspPart) : Bool := p.jobs.any fun j => j.idx == x.job && j.hedge == 4 + x.member && j.phase != .done && j.phase != .ended
    let hit := (s.esp g).parts.filter fun x => x.whole && x.time == p.capture && waits x
    if !p.started || hit.isEmpty then s
    else
      let s := s.modPic n i fun q =>
        { q with spent := q.spent + (hit.map fun x => x.bytes.length).sum,
                 jobs := q.jobs.map fun j => if hit.any (fun x => x.job == j.idx) then { j with phase := .done } else j }
      let s := s.each hit fun t x =>
        t.setEsp g { t.esp g with sizes := tabPut (fun _ => 0) (t.esp g).sizes (x.member * 64 + x.job % 64) x.bytes.length }
      (s.espFlush n).picMaybeEnd n i
  | _, _ => s

/-- Members that left are substituted in every later picture (R480). -/
def State.espLeftSubst (s : State) (n i : Nat) : State :=
  match s.espOf n with
  | some g => s.each (s.esp g).left fun t m => t.espSubstitute n i m
  | none => s

/-! Motion fields (R122, R125, R138). -/

/-- The rungs that inherit from an analysing session: the other open encode sessions of its ladder. -/
def State.heirs (s : State) (n : Nat) : List Nat :=
  let l := leAt (s.sess n).desc 0xA 1
  (s.ladder l).filterMap fun e => if e.1 ≠ n ∧ e.2.phase = .opened then some e.1 else none

/-- The analysing rung's motion-field buffer for a picture, or none (R122, R138). -/
def State.motionTake (s : State) (n : Nat) (p : EncPic) : State × EncPic :=
  let x := s.sess n
  if x.analysing && bitIn x.desc 0x56 7 then
    let heirs := s.heirs n
    let r := s.poolAlloc (s.sessAgent n) (bitsIn x.desc 0x56 5 0) ((n :: heirs).map fun k => (s.sessAgent k, 1))
    let h := match r.2 with
      | .ok h _ => h
      | _ => 0
    let st := mainStream x.desc
    let m : MotionRef := { src := p.src, capture := p.capture, buf := h, by_ := n, codec := st.codec, w := st.w, h := st.h }
    (r.1.each heirs fun t k => t.modSess k fun y => { y with motions := y.motions ++ [m] }, { p with motion := h })
  else (s, p)

/-! The start itself. -/

/-- Session fields that a rate update changes (R154): the window's history restarts when the window changes. -/
def rateApply (x : Sess) (u : Option (List Byte)) : Sess :=
  match u with
  | none => x
  | some b =>
    let d := putAt x.desc 0x80 (b.take 16)
    { x with desc := d, windowCount := if winLen d = winLen x.desc ∧ winCap d = winCap x.desc then x.windowCount else 0 }

/-- The oldest unfinished picture of an encode session is a picture period behind its ready time (R84). -/
def State.behind (s : State) (x : Sess) : Bool :=
  let period := rateDen x.desc * 1000000000 / max 1 (rateNum x.desc)
  x.phase != .closed && hasEnc x.desc &&
  ((x.pics.find? fun p => p.started && !p.ended).bind EncPic.readyAt).any fun t => !afterNs ((t + period) % clockSpan) s.nowNs

/-- Whether overload sheds this session's picture: it is a picture period behind, and no session behind in the same overloaded hedge has a lower PRIORITY, or an equal one and a higher number (R84). -/
def State.sheds (s : State) (n : Nat) : Bool :=
  s.behind (s.sess n) &&
  (s.sess n).hedges.any fun h =>
    (s.hedge h).overload &&
    s.sessions.all fun e =>
      e.1 == n || !(s.behind e.2 && e.2.hedges.contains h) ||
      decide (leAt (s.sess n).desc 9 1 < leAt e.2.desc 9 1 ∨ (leAt (s.sess n).desc 9 1 = leAt e.2.desc 9 1 ∧ e.1 < n))

/-- Rows of the previous picture, from the picture in flight before this one or from the last that left (R149). -/
def Sess.prevOf (x : Sess) (before : List EncPic) : List RowDone :=
  match before.getLast? with
  | some p => p.rows
  | none => x.prevRows

/-- Mean activity for a picture (R142, R143): its prepass, the carry picture's, or what the first picture has measured; none leaves it to the jobs of a first picture. -/
def Sess.meanOf (x : Sess) (p : EncPic) (before : List EncPic) (ladder : Option (List PreCost)) : Nat × Nat :=
  match p.prepass.or ladder with
  | some a => ((a.map PreCost.activity).sum, a.length)
  | none =>
    match x.carry with
    | some (_, c) => c
    | none => let r := before.head?.elim [] EncPic.rows; ((r.map RowDone.act).sum, (r.map RowDone.ctus).sum)

/-- The prepass figures of the ladder's analysing rung for the same source (R121). -/
def State.ladderPrepass (s : State) (n : Nat) (p : EncPic) : Option EncPic :=
  ((s.ladder (leAt (s.sess n).desc 0xA 1)).find? fun e => e.2.analysing && e.1 != n).bind fun e =>
    e.2.pics.find? fun q => q.src == p.src && q.capture == p.capture && q.prepass.isSome

/-- The references of a session when a sweep begins: those of a sweep whose recovery had completed are wholly clean, the others lie outside the clean region (R158, R480). -/
def Sess.refsAt (x : Sess) (sweep : Option Nat) : List RefPic :=
  let recovered := decide (x.sweep = 0 ∨ recoveryPic (mainStream x.desc) x.sweepLen < x.sweep)
  if sweep = some 0 then x.refs.map fun r => { r with clean := r.clean.bind fun e => if e = 0 ∨ !recovered then some 0 else none } else x.refs

/-- The picture as a reference of later ones: its clean edge, none where all of it is clean (R157, R158). -/
def EncPic.asRef (p : EncPic) (st : Stream) : RefPic :=
  let edge (i : Nat) : Option Nat :=
    let e := (i + 1) * ceilDiv (unitColumns st) (max 1 p.sweepLen)
    if unitColumns st ≤ e then none else some (e * columnWide st.codec)
  { handle := p.recon, time := p.capture, poc := p.idx, clean := p.sweep.bind edge, seed := p.seed, list := p.refs.map RefPic.poc }

/-- The rate block in force for a picture, in its session's descriptor (R154). -/
def EncPic.desc (p : EncPic) (d : List Byte) : List Byte := if p.rate.isEmpty then d else putAt d 0x80 p.rate

/-- The picture starts, with its reconstruction buffer had or refused. -/
def State.picGo (s : State) (n : Nat) (p : EncPic) : State :=
  let x0 := s.sess n
  let p := if encBound x0.desc then
      { p with forceKey := x0.forceKey, rateUpdate := x0.pendingRate, jobRefs := p.jobRefs ++ x0.pendingJobs, rcRefused := x0.pendingRefused }
    else { p with forceKey := p.forceKey || x0.forceKey }
  let x1 := rateApply { x0 with forceKey := false, pendingRate := none, pendingJobs := [], pendingRefused := false } p.rateUpdate
  let first := !x1.keyed
  if p.noRecon && first then
    let s := s.setSess n { x1 with forceKey := p.forceKey && refresh x1.desc, keyDue := x1.keyDue }
    let s := s.picRelease n p
    (s.modPic n p.idx fun _ => { p with started := true, ended := true, jobs := [] }).picsRetire n
  else
    let d := x1.desc
    let shed := s.sheds n
    let p := { p with shed := shed, floorPic := p.floorPic || shed }
    let before := x1.pics.filter fun q => decide (q.idx < p.idx)
    let budget := x1.budget before
    -- key pictures and sweeps
    let due := first || (!refresh d && (p.forceKey || x1.keyDue || (leAt d 0x42 2 != 0 && decide (leAt d 0x42 2 ≤ x1.sinceKey))))
    let key := first || (due && !p.noRecon && decide (intraFloor d ≤ budget))
    let sweep := if !refresh d || key || p.noRecon then none else some (if p.forceKey then 0 else x1.sweep)
    let len := match sweep with
      | some 0 => refreshPeriod d
      | _ => x1.sweepLen
    let params := key || sweep == some 0 || bitIn d 0x50 0
    let silent := s.espSilent n
    -- start QP and mean
    let lad := s.ladderPrepass n p
    let mean := x1.meanOf p before (lad.bind EncPic.prepass)
    let measured := decide (mean.2 ≠ 0)
    let mean := if measured then mean else if first then (0, 0) else (s.freeWord.toNat % 65536, 1)
    let s := s.draw
    let qp := if first then qlOf d + (if measured then firstOffset mean else 0) else qlOf d + x1.carry.elim 0 Prod.fst
    let st := mainStream d
    let refs := x1.refsAt sweep
    let own := if key then [] else refs.take (numRef d)
    let syn := picSyntax d p.idx key sweep len (own.map RefPic.poc) (!p.noRecon) qp (if key || decide (x1.sinceKey ≤ 1) then none else refs.head?.map RefPic.seed)
    let o := if silent then 0 else overheadOf d params syn
    let p := { p with started := true, seed := s.fresh, key := key, keyDeferred := due && !key, sweep := sweep, sweepLen := len, budget := budget, overhead := o,
                      spent := o, startQp := qp, mean := mean, sceneCut := p.sceneCut || (lad.any EncPic.sceneCut),
                      refs := own, rate := slice d 0x80 16, syn := syn, params := params }
    let s := match s.espOf n with
      | some g => s.setEsp g { s.esp g with refs := (if key then [] else (s.esp g).refs.take (numRef d - 1)) }
      | none => s
    let drop := if key && p.recon != 0 then x1.refs else []
    let s := s.draw.setSess n
      { x1 with keyed := true, keyDue := due && !key, sinceKey := if key then 1 else x1.sinceKey + 1,
                sweep := (match sweep with
                  | some i => (i + 1) % max 1 len
                  | none => if key then 0 else x1.sweep),
                sweepLen := len, windowCount := min 120 (x1.windowCount + 1), forceKey := refresh d && p.forceKey && sweep.isNone && !key,
                lastCapture := some p.capture, refs := (if p.recon = 0 then [] else [p.asRef st]) ++ (if key && p.recon != 0 then [] else refs) }
    let s := s.each drop fun t r => t.reconFree n r.handle
    let s := if shed then s.each ((s.sess n).hedges.filter fun h => (s.hedge h).overload) fun t h => t.satF (HDG_OVL h) 31 16 else s
    let m := s.motionTake n p
    let s := m.1
    let p := { m.2 with jobs := s.jobsOf n }
    let p := if pinned d || silent then p else s.refreshTake n p len (x1.prevOf before) first
    let s := s.draw.modPic n p.idx fun _ => p
    let s := match s.espOf n with
      | some g => if p.recon = 0 then s else s.setEsp g { s.esp g with refs := p.capture :: (s.esp g).refs }
      | none => s
    if silent then s else ((s.allowanceSend n p).espLeftSubst n p.idx).espTake n p.idx

/-- The reconstruction buffer: the reference list is trimmed, then the allocation is made; the picture waits, or goes on (R25, R106, R340). -/
def State.picAlloc (s : State) (n : Nat) (p : EncPic) : State :=
  if p.recon != 0 || p.noRecon then s.picGo n p
  else
    let x := s.sess n
    let keep := numRef x.desc
    let s := s.each (x.refs.drop keep) fun t r => t.reconFree n r.handle
    let s := s.modSess n fun x => { x with refs := x.refs.take keep }
    let r := s.poolBlocking { agent := s.sessAgent n, count := 1, sess := some n } (leAt x.desc 0x55 1)
    match r.2 with
    | none => r.1.modPic n p.idx fun p => { p with waiting := some r.1.uptime }
    | some (.ok h _) => r.1.picGo n { p with recon := h }
    | some _ => r.1.picGo n { p with noRecon := true, floorPic := true }

/-- A picture of an espalier member before the group's start time is passed over (R472 step 4): what it held is released, its record written. -/
def State.picSkip (s : State) (n : Nat) (p : EncPic) : State :=
  let s := s.picRelease n p
  (s.modPic n p.idx fun _ => { p with started := true, ended := true, jobs := [] }).picsRetire n

/-- The load of a session at its present cost (R69, R70, R100). -/
def State.recharge (s : State) (n : Nat) : State :=
  let c := s.encCost n
  s.modSess n fun x =>
    let d := x.desc
    let st := mainStream d
    { x with shares := x.shares.map fun e => (e.1, ceilDiv (loadOf st d st.w c) (max 1 x.n)), parts := x.parts.map fun e => (e.1, loadOf st d e.2.2 c, e.2.2) }

/-- A ladder that has lost its analysing rung: at the next picture of any of its rungs the largest remaining one becomes it, and the ladder's loads and spares follow (R80, R100, R125). -/
def State.ladderTake (s : State) (n : Nat) : State :=
  let rungs := s.ladder (leAt (s.sess n).desc 0xA 1)
  if (s.sess n).phase = .closed ∨ !hasEnc (s.sess n).desc ∨ rungs.any (fun e => e.2.analysing) then s
  else match ladderHead rungs with
    | none => s
    | some m =>
      let s := s.modSess m fun x => { x with analysing := true }
      let s := (s.each (rungs.map Prod.fst) State.recharge).loadsUpdate.overloads
      s.each (span 0 4) State.spareLoad

/-- The prepass that runs for a session (R121): none in SLICE mode, and in a ladder only the analysing rung's. -/
def Sess.prepassDepth (x : Sess) : Nat := if refresh x.desc && (leAt x.desc 0xA 1 == 0 || x.analysing) then leAt x.desc 0x44 1 else 0

/-- A prepass of depth d delays each picture by d picture periods, and its figures are there before the picture is coded (R120, R121). A picture period is a PICTURE_START of the session (DESIGN CHOICE, log entry 109); a picture without a source has no prepass, and a closing session waits for none. -/
def Sess.mayStart (x : Sess) (p : EncPic) : Bool :=
  x.phase != .opened || p.src == 0 || (decide (x.prepassDepth ≤ p.age) && (p.prepass.isSome || x.prepassDepth == 0))

/-- Waiting pictures grow older by a picture period. -/
def Sess.older (x : Sess) : Sess := { x with pics := x.pics.map fun p => if p.started then p else { p with age := p.age + 1 } }

/-- The next picture of a session starts. A bound session with no picture from its source codes one at the floor (R26); its capture time is open. -/
def State.picStart (s : State) (n : Nat) : State :=
  let s := s.ladderTake n
  let x := s.sess n
  if !s.clocked || x.phase == .closed || !hasEnc x.desc || s.hedgeOff n then s
  else
    let s := s.modSess n Sess.older
    match x.pics.find? fun p => !p.started with
    | some p =>
      if p.waiting.isSome || !x.mayStart p then s
      else match s.espOf n with
        | some g =>
          match (s.esp g).startTime with
          | none => s
          | some t => if p.capture.nat < t.nat then s.picSkip n p else s.picAlloc n p
        | none => s.picAlloc n p
    | none =>
      if encBound x.desc && x.phase == .opened then
        let p : EncPic := { idx := x.picCount, floorPic := true,
                            capture := { sec := (s.freeWord).setWidth 48, ns := Config.freeWord (s.fresh + 1) } }
        (({ s with fresh := s.fresh + 2 }).setSess n { x with pics := x.pics ++ [p], picCount := x.picCount + 1 }).picAlloc n p
      else s

/-! Commands. -/

/-- Capture time of a HOST picture (R257). -/
def State.jobCapture (s : State) (b : List Byte) (h : W32) : PtpTime :=
  let m := (s.hbuf h).capture
  if bitIn b 0x14 3 then { ns := BitVec.ofNat 32 (leAt b 0x18 4), sec := BitVec.ofNat 48 (leAt b 0x1C 6) }
  else if s.poolFrame (hPool h) && m != {} then m
  else s.mtc.time

/-- ENCODE_PICTURE (R248, R256, R257, R93). -/
def execEncodePicture (r : RingId) (s : State) : Out :=
  .next (s.withJob r.val 3 (fun _ => true) fun s j b =>
    let n := j.sess
    let x := s.sess n
    let d := x.desc
    let bound := encBound d
    if bitIn b 0x14 0 == bound then s.finishJob j 0 [] 0x25
    else if s.hedgeOff n then s.finishJob j 0 [] 0x2D
    else
      let rb := slice b 0x30 16
      let upd := bitIn b 0x14 2
      let bad := upd && (firstBad (capChecks d rb)).isSome
      let rate := if upd && !bad then some rb else none
      if bound then
        s.setSess n { x with forceKey := x.forceKey || bitIn b 0x14 1, pendingRate := rate.or x.pendingRate,
                             pendingJobs := x.pendingJobs ++ [j], pendingRefused := x.pendingRefused || bad }
      else
        let h := BitVec.ofNat 32 (leAt b 0x10 4)
        let a := s.poolAddref (s.sessAgent n) h
        match a.2 with
        | .ok _ _ =>
          let s := if bitIn b 0x14 4 then (a.1.poolTransfer (a.1.ringAgent r.val) h (a.1.sessAgent n)).1 else a.1
          let p : EncPic := { idx := x.picCount, src := h, capture := s.jobCapture b h, jobRefs := [j], forceKey := bitIn b 0x14 1,
                              rateUpdate := rate, rcRefused := bad, releaseSrc := bitIn b 0x14 4 }
          s.setSess n { x with pics := x.pics ++ [p], picCount := x.picCount + 1 }
        | .err c => a.1.finishJob j 0 [(0x36, leBytes 1 c)] 0x38
        | .none => a.1)

/-- PICTURE_START (R144). -/
def execPictureStart (sess : SessId) (s : State) : Out := .next (s.picStart sess.val)

/-- What the prepass records for a picture that waits (R120): SCENE_CUT when the intra estimate is below the inter estimate in at least half the blocks. -/
def EncPic.measure (p : EncPic) (blocks : List PreCost) : EncPic :=
  if p.started || p.src = 0 then p
  else { p with prepass := some blocks, sceneCut := decide (max 1 blocks.length ≤ 2 * blocks.countP fun b => decide (b.intra < b.inter)) }

/-- PREPASS (R120, R121): the figures of the picture's 16 x 16 blocks, in raster order. -/
def execPrepass (sess : SessId) (pic : Nat) (activity : List Nat) (costs : List (Nat × Nat)) (vectors : List Mv) (s : State) : Out :=
  .next (let x := s.sess sess.val
    if s.clocked && x.phase != .closed && hasEnc x.desc && x.prepassDepth != 0 then s.modPic sess.val pic fun p => p.measure (preCosts activity costs vectors) else s)

end Sys2Proof.Machine
end

