-- ==== Sys2Proof/Machine/Tools.lean ====
section
/-! DEFINITION. Tools and mode decision as functions (04_encoding.md R102, R103, R113, R114, R126, R128, R130, R134; 05_rate_control_latency.md R147, R158): what a session may use, intra candidates, the candidates of a coding unit, splits, and the signalling of a coded unit. -/

namespace Sys2Proof.Machine

/-! Tool sets (R102, R103). -/

/-- The tools of a standard (R102), with its entropy coder (R130). -/
def codecTools (codec : Nat) : List Tool :=
  match codec with
  | 0 => [.intra4x4, .intra8x8, .intra16x16, .spatialDirect, .transform4x4, .transform8x8, .deblocking, .cabac]
  | 1 => [.merge, .amvp, .tmvp, .dct, .dst4x4, .transformSkip, .residualQuadtree, .signHiding, .deblocking, .sao, .cabac]
  | 2 => [.cclm, .merge, .amvp, .amvr, .tmvp, .affine4, .affine6, .dmvr, .bdof, .dct, .mts, .transformSkip, .depQuant, .deblocking, .sao, .alf, .lmcs, .cabac]
  | _ => [.angleDelta, .smooth, .paeth, .cfl, .newMv, .nearestMv, .nearMv, .globalMv, .compoundAverage, .dct, .adst, .flipAdst, .identity,
          .deblocking, .cdef, .loopRestoration, .multiSymbol]

/-- What the encoder never produces (R103, R130). -/
def neverTools : List Tool :=
  [.weightedPrediction, .scalingList, .fieldCoding, .lossless, .pcm, .intraBlockCopy, .palette, .isp, .mip, .lfnst, .bcw, .ciip, .gpm, .sbTmvp, .ccAlf,
   .obmc, .localWarp, .interIntra, .superres, .filmGrain, .cavlc]

/-- RDOQ level (R126, R132). -/
def rdoqLevel (d : List Byte) : Nat := if leAt d 0x48 1 = 0 then 2 else leAt d 0x48 1

/-- Whether the descriptor lets a tool be used: TOOL_OFF, LF_OFF, LMCS_EN, STRUCT, the RDOQ level, and no temporal vectors in REFRESH mode (R126, R128, R132, R158). -/
def toolAllowed (d : List Byte) (t : Tool) : Bool :=
  match t with
  | .transformSkip => !toolOff d 0
  | .tmvp => !toolOff d 1 && !refresh d
  | .affine4 | .affine6 => !toolOff d 2
  | .compoundAverage => !toolOff d 3 && structLdb d
  | .spatialDirect => structLdb d
  | .deblocking => !lfOff d 0
  | .sao => !lfOff d 1
  | .alf => !lfOff d 2
  | .cdef => !lfOff d 3
  | .loopRestoration => !lfOff d 4
  | .lmcs => leAt d 0x4C 1 == 1
  | .signHiding | .depQuant => rdoqLevel d == 3
  | _ => true

/-- The tools of a session. -/
def toolsOf (d : List Byte) : List Tool := (codecTools (mainStream d).codec).filter (toolAllowed d)

/-! Intra candidates (R113). -/

/-- The first `k` modes of a list by SATD. -/
def bestModes (seed : Nat) (b : PixBlock) (k : Nat) (l : List Nat) : List Nat :=
  (sortBy (fun x y => decide (Config.intraSatd seed b x ≤ Config.intraSatd seed b y)) l).take k

/-- Numbers of AVC modes: 4 x 4 from 0, 8 x 8 from 16, 16 x 16 from 32. -/
def avcModes (seed : Nat) (b : PixBlock) : List Nat :=
  bestModes seed b 2 (span 32 4) ++ bestModes seed b 2 (span 16 9) ++ bestModes seed b 2 (span 0 9)

/-- HEVC: all 35 modes; an 8 x 8 unit may also code N x N, whose modes stand from 64. -/
def hevcModes (seed : Nat) (b : PixBlock) : List Nat :=
  bestModes seed b 3 (span 0 35) ++ (span 0 3).map (Config.mostProbable seed b) ++ (if b.w = 8 then bestModes seed b 3 (span 64 35) else [])

/-- VVC: planar, DC and the even angular modes, then the odd modes beside the best three. -/
def vvcModes (seed : Nat) (b : PixBlock) : List Nat :=
  let base := [0, 1] ++ (span 1 33).map fun i => 2 * i
  let odd := (((bestModes seed b 3 base).filter fun m => decide (2 ≤ m)).map fun m => [m - 1, m + 1]).flatten.filter fun m => decide (2 ≤ m ∧ m ≤ 66)
  bestModes seed b 3 (base ++ odd).eraseDups ++ (span 0 6).map (Config.mostProbable seed b)

/-- AV1: DC, smooth, smooth horizontal and vertical, Paeth from 0; direction i with angle delta j - 3 is 16 + 8 i + j. -/
def av1Modes (seed : Nat) (b : PixBlock) : List Nat :=
  let flat := span 0 5
  let dirs := (span 0 8).map fun i => 16 + 8 * i + 3
  let deltas := ((bestModes seed b 2 dirs).map fun m => span (m - 3) 7).flatten
  bestModes seed b 3 (flat ++ dirs ++ deltas).eraseDups

/-- The modes passed to mode decision, each once. -/
def intraModes (codec seed : Nat) (b : PixBlock) : List Nat :=
  (match codec with
   | 0 => avcModes seed b
   | 1 => hevcModes seed b
   | 2 => vvcModes seed b
   | _ => av1Modes seed b).eraseDups

/-! Mode decision (R114). -/

/-- What mode decision sees beside motion search: the session's tools, the picture's width, the searches made, whether intra neighbours are free of poison, and the right edge that intra prediction may not cross (R158), none when nothing limits it. -/
structure DecideView where
  search : SearchView
  /-- picture width and height in luma samples -/
  width : Nat
  tools : List Tool
  ldb : Bool
  found : List Found
  intraReads : PixBlock → Bool
  /-- a unit that is coded intra: key picture or refresh column -/
  intraOnly : PixBlock → Bool
  intraEdge : Option Nat

/-- Merge candidates of a standard: skip or direct, merge, or the three predicted modes of AV1. -/
def mergeCount (codec : Nat) : Nat :=
  match codec with
  | 0 => 1
  | 1 => 5
  | 2 => 6
  | _ => 3

/-- A list entry made permitted: its index within the references, its vector clipped; none when no permitted or readable vector is left (R134, R139, R158). -/
def DecideView.fit (v : DecideView) (b : PixBlock) (e : RefMv) : Option RefMv :=
  let i := e.1 % max 1 v.search.refs.length
  match v.search.refs[i]? with
  | none => none
  | some r => ((v.search.clip r b e.2).filter (v.search.readable i b)).map fun m => (i, m)

/-- A list entry that cannot be changed: none when its vector is not permitted or not readable. -/
def DecideView.exact (v : DecideView) (b : PixBlock) (e : RefMv) : Option RefMv := (v.fit b e).filter fun f => f.2 == e.2

/-- Skip or merge candidates: their vectors are derived, so one that may not be used takes the candidate away (R134, R139, R158). -/
def DecideView.merges (v : DecideView) (b : PixBlock) : List Pred :=
  (span 0 (mergeCount v.search.codec)).filterMap fun k =>
    let c := Config.mergeMv v.search.seed b k
    let l1 := if v.ldb then c.2 else none
    if (c.1.toList ++ l1.toList).all (fun e => (v.exact b e).isSome) && (c.1.isSome || l1.isSome) then
      some (.merge k (c.1.bind (v.exact b)) (l1.bind (v.exact b)))
    else none

/-- The 16 x 16 search blocks that a block meets, and the 8 x 8 partitions of a block smaller than one (R116). -/
def gridIn (b : PixBlock) (g : Nat) : List PixBlock :=
  ((span (b.y / g) (ceilDiv (b.y + b.h) g - b.y / g)).map fun j => (span (b.x / g) (ceilDiv (b.x + b.w) g - b.x / g)).map fun i =>
    ({ x := g * i, y := g * j, w := g, h := g } : PixBlock)).flatten

/-- Vectors from motion search for a block in reference `i`: its search blocks' best, and for a smaller partition the 8 x 8 searches. -/
def DecideView.searched (v : DecideView) (qp : Nat) (b : PixBlock) (i : Nat) : List RefMv :=
  match v.search.refs[i]? with
  | none => []
  | some r =>
    let big := (gridIn b 16).filterMap fun g => (foundAt v.found g.x g.y i).bind fun f => f.mvs.head?
    let small := if b.w < 16 ∨ b.h < 16 then
        (gridIn b 8).filterMap fun g => (foundAt v.found (16 * (g.x / 16)) (16 * (g.y / 16)) i).bind fun f => v.search.part8 i qp r g f.mvs
      else []
    ((big ++ small).eraseDups.filterMap fun m => v.fit b (i, m))

/-- The best inter predictions: one list, and with two lists pairs of references (R104 LDB, AV1 compound). -/
def DecideView.inters (v : DecideView) (qp : Nat) (b : PixBlock) : List Pred :=
  let per := (List.range v.search.refs.length).map (v.searched qp b)
  let firsts := per.filterMap List.head?
  let pairs := if v.ldb && (v.search.codec != 3 || v.tools.contains .compoundAverage) then (firsts.map fun a => firsts.map fun c => Pred.inter (some a) (some c)).flatten else []
  (per.flatten.map fun a => Pred.inter (some a) none) ++ pairs

/-- Intra candidates: not where a neighbour reads poisoned (R134), not for a partition that carries no mode of its own, and in reach of the refresh column (R158). -/
def DecideView.intras (v : DecideView) (b : PixBlock) (part : Bool) : List Pred :=
  let c := v.search.codec
  if part || !v.intraReads b || (c == 0 && !(b.w == 16 && b.h == 16)) then []
  else
    let ms := intraModes c v.search.seed b
    let ms := match v.intraEdge with
      | some e => if b.x < e ∧ e < b.x + 2 * b.w then ms.filter fun m => !Config.readsRight c b m else ms
      | none => ms
    ms.map .intra

/-- The candidates of a coding unit. -/
def DecideView.cands (v : DecideView) (qp : Nat) (b : PixBlock) (part : Bool) : List Pred :=
  (if v.intraOnly b then [] else v.merges b ++ v.inters qp b) ++ v.intras b part

/-- The tools that a unit's coding uses, among the session's. -/
def DecideView.used (v : DecideView) (qp : Nat) (b : PixBlock) (p : Pred) : List Tool := v.tools.filter (Config.usesTool v.search.seed qp b p)

/-- D and R of a candidate. -/
def DecideView.cost (v : DecideView) (qp : Nat) (b : PixBlock) (p : Pred) : Nat × Nat :=
  (Config.distortion v.search.seed qp b p, Config.predBits v.search.seed qp b p)

/-- The candidate of least J. -/
def DecideView.leaf (v : DecideView) (qp : Nat) (path : List Split) (b : PixBlock) : Option (List Cu × Nat × Nat) :=
  let part := decide (v.search.codec ≤ 1) && path.any fun s => s != .quad
  (leastBy (fun x y => jLe qp (v.cost qp b x) (v.cost qp b y)) (v.cands qp b part)).map fun p =>
    let k := v.cost qp b p
    ([{ block := b, path := path, pred := p, tools := v.used qp b p }], k)

/-- The splits a standard allows of a block (R102). -/
def splitsOf (codec : Nat) (path : List Split) (b : PixBlock) : List Split :=
  let parts := path.filter fun s => s != .quad
  match codec with
  | 0 => if b.w = 16 ∧ b.h = 16 then [.quad, .horz, .vert] else []
  | 1 => if parts.isEmpty then (if 8 < b.w then [.quad] else []) ++ [.horz, .vert] else []
  | 2 => (if parts.isEmpty ∧ 8 < b.w then [.quad] else []) ++
      (if parts.length < 2 then
        (if 8 ≤ b.h then [Split.horz] else []) ++ (if 8 ≤ b.w then [Split.vert] else []) ++
        (if 16 ≤ b.h then [Split.ternHorz] else []) ++ (if 16 ≤ b.w then [Split.ternVert] else [])
       else [])
  | _ => if parts.isEmpty ∧ 8 < b.w then [.quad, .horz, .vert] else []

/-- The parts of a split block. -/
def splitParts (b : PixBlock) (s : Split) : List PixBlock :=
  let at_ (x y w h : Nat) : PixBlock := { x := b.x + x, y := b.y + y, w := w, h := h }
  match s with
  | .quad => [at_ 0 0 (b.w / 2) (b.h / 2), at_ (b.w / 2) 0 (b.w / 2) (b.h / 2), at_ 0 (b.h / 2) (b.w / 2) (b.h / 2), at_ (b.w / 2) (b.h / 2) (b.w / 2) (b.h / 2)]
  | .horz => [at_ 0 0 b.w (b.h / 2), at_ 0 (b.h / 2) b.w (b.h / 2)]
  | .vert => [at_ 0 0 (b.w / 2) b.h, at_ (b.w / 2) 0 (b.w / 2) b.h]
  | .ternHorz => [at_ 0 0 b.w (b.h / 4), at_ 0 (b.h / 4) b.w (b.h / 2), at_ 0 (3 * (b.h / 4)) b.w (b.h / 4)]
  | .ternVert => [at_ 0 0 (b.w / 4) b.h, at_ (b.w / 4) 0 (b.w / 2) b.h, at_ (3 * (b.w / 4)) 0 (b.w / 4) b.h]

/-- The sum of the parts of a split, if each has a candidate. -/
def sumParts (l : List (Option (List Cu × Nat × Nat))) : Option (List Cu × Nat × Nat) :=
  l.foldl (fun acc x =>
    match acc, x with
    | some a, some y => some (a.1 ++ y.1, a.2.1 + y.2.1, a.2.2 + y.2.2)
    | _, _ => none) (some ([], 0, 0))

/-- A block that lies outside the picture, and one that reaches over its edge, which is never coded whole above 8 x 8. An AVC picture holds whole macroblocks. -/
def DecideView.outside (v : DecideView) (b : PixBlock) : Bool := v.search.codec != 0 && decide (v.width ≤ b.x ∨ v.search.height ≤ b.y)
def DecideView.crosses (v : DecideView) (b : PixBlock) : Bool :=
  v.search.codec != 0 && decide (8 < b.w ∧ 8 < b.h) && decide (alignUp v.width 8 < b.x + b.w ∨ alignUp v.search.height 8 < b.y + b.h)

/-- Split decisions: the unit itself against the summed costs of its parts, `n` levels down. -/
def DecideView.tree (v : DecideView) (qp : Nat) : Nat → List Split → PixBlock → Option (List Cu × Nat × Nat)
  | 0, path, b => v.leaf qp path b
  | n + 1, path, b =>
    if v.outside b then some ([], 0, 0)
    else
      let splits := if v.crosses b then [Split.quad] else splitsOf v.search.codec path b
      let alts := splits.map fun s => sumParts ((splitParts b s).map fun c => v.tree qp n (path ++ [s]) c)
      leastBy (fun x y => jLe qp x.2 y.2) (((if v.crosses b then none else v.leaf qp path b) :: alts).filterMap id)

/-! A coded unit (R147, R150). -/

/-- A unit of R147 at the floor: DC at the largest transform, or skip with index 0. -/
def DecideView.floorUnit (v : DecideView) (qpTop : Nat) (dq : Option Int) (b : PixBlock) (intra poison : Bool) : UnitSyntax :=
  let mv := ((Config.mergeMv v.search.seed b 0).1.bind (v.fit b))
  { qp := qpTop, floor := true, poison := poison, deltaQ := dq,
    cus := [{ block := b, pred := if intra then .floorIntra else .floorInter mv }] }

/-- A unit as mode decision codes it; one left without any candidate is coded at the floor for poison (R134). -/
def DecideView.unit (v : DecideView) (qp qpTop : Nat) (dq : Nat → Option Int) (b : PixBlock) (intra : Bool) : UnitSyntax :=
  match v.tree qp 6 [] b with
  | some t => { qp := qp, deltaQ := dq qp, cus := t.1 }
  | none => v.floorUnit qpTop (dq qpTop) b intra true

/-! SAO (R128). -/

/-- The SAO mode of a CTU: off, an edge class or band, by J. -/
def saoMode (seed qp x y : Nat) : SaoMode :=
  (leastBy (fun a b => jLe qp (Config.saoCost seed x y a) (Config.saoCost seed x y b)) [.off, .edge 0, .edge 1, .edge 2, .edge 3, .band]).getD .off

/-! The record of a search block (R107, R134). -/

/-- The vectors of a prediction; none for an intra one. -/
def predLists (p : Pred) : Option (Option RefMv × Option RefMv) :=
  match p with
  | .merge _ l0 l1 | .inter l0 l1 => some (l0, l1)
  | .floorInter l0 => some (l0, none)
  | .intra _ | .floorIntra => none

/-- sqrt(lambda) x bits in whole units; the rounding of the real figure is open. -/
def vectorCost (qp bits : Nat) : Nat :=
  let n := bits ^ 6 * 57 ^ 3 * 2 ^ (qp - 12) / (100 ^ 3 * 2 ^ (12 - qp))
  root6 n + b2n (Config.estRoundUp bits qp 12)

/-- The record of the 16 x 16 block at (x, y): the unit that holds its centre sample. -/
def DecideView.record (v : DecideView) (us : List UnitSyntax) (x y : Nat) : List Byte :=
  let b : PixBlock := { x := x, y := y, w := 16, h := 16 }
  let lost := !v.search.refs.isEmpty && (List.range v.search.refs.length).all fun i => (foundAt v.found x y i).any fun f => f.poison
  let hit := us.findSome? fun u => (u.cus.find? fun c => holds c.block (x + 8) (y + 8)).map fun c => (u, c)
  match hit with
  | none => recordBytes16 none none true false 0
  | some (u, c) =>
    match predLists c.pred with
    | none =>
      let m := match c.pred with
        | .intra m => m
        | _ => 0
      recordBytes16 none none true (u.poison || lost) (Config.intraSatd v.search.seed b m)
    | some (l0, l1) =>
      let part (e : RefMv) : Nat := (v.search.refs[e.1]?).elim 0 fun r => let k := v.search.costSatd r b e.2; k.1 + vectorCost u.qp k.2
      recordBytes16 l0 l1 false (u.poison || lost) (((l0.or l1).map part).getD 0)

/-- Blocks that poison took every reference from, and units coded at the floor for it (R85, R134, R268 POISON_BLOCKS). -/
def poisonCount (refs : Nat) (found : List Found) (us : List UnitSyntax) (bs : List PixBlock) : Nat :=
  us.countP UnitSyntax.poison +
  bs.countP fun b => refs != 0 && ((List.range refs).all fun i => (foundAt found b.x b.y i).any fun f => f.poison)

end Sys2Proof.Machine
end

