-- ==== Sys2Proof/Machine/Search.lean ====
section
/-! DEFINITION. What a core reads to code a row, and what it writes (04_encoding.md R106, R107, R111, R112, R115, R117, R119 to R124, R128, R134 to R137; 05_rate_control_latency.md R142, R157, R158; 15_tolac_fabric_espalier.md R476, R477): source samples and their activity, motion-field records, candidates, limits, reconstructed samples. -/

namespace Sys2Proof.Machine

/-! Where a session's picture lies. Columns are those of the whole coded picture. -/

/-- First luma column of this module's region, and the samples of left halo before it in a buffer. -/
def State.partOrigin (s : State) (n : Nat) : Nat × Nat :=
  let st := mainStream (s.sess n).desc
  ((if st.codec = 0 then 0 else (s.ownColumns n).1 * ctuWide st.codec), (s.haloWidths n).1)
/-- The buffer's column of a picture's column. -/
def State.bufCol (s : State) (n x : Nat) : Nat := x + (s.partOrigin n).2 - (s.partOrigin n).1
/-- Padded size of a reference buffer, and its width before padding. -/
def State.reconDims (s : State) (n : Nat) : Nat × Nat := reconSize (mainStream (s.sess n).desc) (s.partWidth n (s.sess n).desc) (s.haloWidths n).2
def State.reconWide (s : State) (n : Nat) : Nat := s.partWidth n (s.sess n).desc + (s.haloWidths n).2

/-! Source fetch (R112). -/

/-- The source of a picture: a pipe, a flow, the session's own decoder, or a host buffer (R245, R249). -/
def State.encSrc (s : State) (n : Nat) (p : EncPic) : Src :=
  let x := s.sess n
  let d := x.desc
  let (w, h, f) := x.srcGeom
  let given := if kindOf d = 2 then 0
    else match leAt d 0x18 1 with
      | 1 => 0
      | 2 => (s.reg (RXF_STRIDE (leAt d 0x19 1))).toNat
      | _ => leAt d 0x20 4
  { fmt := f, base := s.bufAddr p.src, stride := if given = 0 then defStride f w else given, lines := h,
    depth := if kindOf d = 2 then (decStream d).depth else fmtDepth f, x0 := 0, y0 := 0, w := w, h := h, csc := 1, full := false }

/-- A luma sample of the source, with the bits of its format. -/
def srcLuma (rd : Nat → Byte) (r : Src) (x y : Nat) : Nat :=
  let v := if r.fmt = 1 ∨ r.fmt = 2 then (pixelAt rd r x y).1 else lumaAt rd r x y
  v >>> (16 - min 16 r.depth)

/-- One axis of the scaler: four samples around a position and the filter of its phase; a ratio of 1 passes them through. -/
def fetchAxis (src dst x : Nat) (at_ : Nat → Nat) : Nat :=
  if src = dst then at_ x
  else
    let e := scalePos 0 (scaleStep src dst) x
    Config.scale4 e.2 ((List.range 4).map fun (k : Nat) => at_ (clampInt 0 ((src : Int) - 1) (e.1 - 1 + k)).toNat)

/-- Bits `a` to bits `b`: a shift left, or to the nearest. -/
def fetchDepth (a b v : Nat) : Nat := if a ≤ b then v <<< (b - a) else min (2 ^ b - 1) ((v + 2 ^ (a - b - 1)) >>> (a - b))

/-- A luma sample as the session codes it; `x` counts from the region's first column. -/
def fetchLuma (rd : Nat → Byte) (r : Src) (w h depth x y : Nat) : Nat :=
  fetchDepth r.depth depth (fetchAxis r.h h y fun v => fetchAxis r.w w x fun u => srcLuma rd r u v)

/-- Sum and sum of squares of an 8 x 8 block give 64 squared times its variance. -/
def varOf (l : List Nat) : Nat := 64 * (l.map fun v => v * v).sum - l.sum * l.sum

/-- The activity of a CTU: the mean variance of its 8 x 8 luma blocks at 8-bit precision (R142); a CTU without a source has none. -/
def State.ctuActivity (s : State) (n : Nat) (p : EncPic) (b : PixBlock) : Nat :=
  if p.src = 0 then 0
  else
    let d := (s.sess n).desc
    let st := mainStream d
    let r := s.encSrc n p
    let w := s.partWidth n d
    let a := (s.partOrigin n).1
    let xs := (span 0 (b.w / 8)).filterMap fun i => if b.x + 8 * i < a + w then some (b.x + 8 * i - a) else none
    let ys := (span 0 (b.h / 8)).filterMap fun j => if b.y + 8 * j < st.h then some (b.y + 8 * j) else none
    let one (x y : Nat) : Nat :=
      varOf ((span 0 64).map fun k => fetchLuma s.hbmByte r w st.h st.depth (min (w - 1) (x + k % 8)) (min (st.h - 1) (y + k / 8)))
    ratio ((ys.map fun y => (xs.map fun x => one x y).sum).sum) (4096 * (xs.length * ys.length) * 4 ^ (st.depth - 8))

/-- Bytes of a source that hold columns `[x0, x1)` of lines `[y0, y1)`. -/
def srcSegs (r : Src) (x0 x1 y0 y1 : Nat) : List (Nat × Nat) :=
  let (px, by_) := pgroup r.fmt
  let plane (base stride dx dy : Nat) : List (Nat × Nat) := planeSegs base stride (2 * (x0 / dx)) (2 * (ceilDiv x1 dx - x0 / dx)) (y0 / dy) (ceilDiv y1 dy)
  let luma := r.stride * r.lines
  match r.fmt with
  | 3 => plane r.base r.stride 1 1 ++ plane (r.base + luma) (r.stride / 2) 2 2 ++ plane (r.base + luma + luma / 4) (r.stride / 2) 2 2
  | 4 => plane r.base r.stride 1 1 ++ plane (r.base + luma) (r.stride / 2) 2 1 ++ plane (r.base + luma + luma / 2) (r.stride / 2) 2 1
  | 5 => plane r.base r.stride 1 1 ++ plane (r.base + luma) r.stride 1 1 ++ plane (r.base + 2 * luma) r.stride 1 1
  | _ => planeSegs r.base r.stride (by_ * (x0 / px)) (by_ * (ceilDiv x1 px - x0 / px)) y0 y1

/-- Source columns or lines that `[a, b)` of the coded picture is made from, with the scaler's taps. -/
def fetchSpan (src dst a b : Nat) : Nat × Nat :=
  let k := if src = dst then 0 else 2
  (a * src / max 1 dst - k, min src (ceilDiv (b * src) (max 1 dst) + k))

/-- Whether a CTU is made from poisoned samples (R85). -/
def State.srcPoisoned (s : State) (n : Nat) (p : EncPic) (b : PixBlock) : Bool :=
  p.src != 0 &&
  (let d := (s.sess n).desc
   let r := s.encSrc n p
   let a := (s.partOrigin n).1
   let c := fetchSpan r.w (s.partWidth n d) (b.x - a) (b.x + b.w - a)
   let l := fetchSpan r.h (mainStream d).h b.y (b.y + b.h)
   (srcSegs r c.1 c.2 l.1 l.2).any fun e => s.poisoned e.1 e.2)

/-! Motion-field records (R107, R122). -/

/-- A record of a field of `cols` columns; none where it reads poisoned. -/
def State.recordAt (s : State) (base cols cx cy : Nat) : Option MvRecord :=
  let a := base + 16 * (cy * cols + cx)
  if s.poisoned a 16 then none else some (recordOf (s.hbmBytes a 16))

/-- Where the motion field of a reference buffer begins, and its columns. -/
def State.fieldOf (s : State) (n : Nat) (r : RefPic) : Nat × Nat :=
  let z := s.reconDims n
  (s.bufAddr r.handle + planeBytes z.1 z.2 (mainStream (s.sess n).desc).chroma, ceilDiv (s.reconWide n) 16)

/-- The record of a 16 x 16 block of a reference, by the block's column and line in samples; none outside the field. -/
def State.refRecord (s : State) (n : Nat) (r : RefPic) (x y : Nat) : Option MvRecord :=
  let f := s.fieldOf n r
  let cx := s.bufCol n x / 16
  if cx < f.2 ∧ y < (mainStream (s.sess n).desc).h then s.recordAt f.1 f.2 cx (y / 16) else none

/-! Candidates (R115, R119, R120, R121, R123). -/

/-- A temporal candidate: the vector of a record of the nearest reference, scaled by picture distance. -/
def temporal (poc : Nat) (near_ : RefPic) (target : RefPic) (e : MvRecord) : Option Mv :=
  e.vector.bind fun v => (near_.list[v.1]?).bind fun t =>
    if t < near_.poc then some (mvScale v.2 (poc - target.poc) (near_.poc - t)) else none

/-- The prepass's reliable blocks (R120); `cols` blocks stand in a line, from luma column `a`. -/
def reliable (a cols : Nat) (l : List PreCost) : List PreBlock :=
  ((List.range l.length).zip l).filterMap fun e =>
    if 2 * e.2.inter < e.2.intra then some { x := a + 16 * (e.1 % max 1 cols) + 8, y := 16 * (e.1 / max 1 cols) + 8, mv := mvOfQuarter e.2.x e.2.y } else none

/-- The median vector of the previous picture's motion field, over this module's region (R121). -/
def State.fieldMedian (s : State) (n : Nat) (r : RefPic) : Mv :=
  let d := (s.sess n).desc
  let o := s.partOrigin n
  let rows := ceilDiv (mainStream d).h 16
  medianMv (((span 0 rows).map fun j => (span 0 (ceilDiv (s.partWidth n d) 16)).filterMap fun i => s.refRecord n r (o.1 + 16 * i) (16 * j)).flatten)

/-- The record of the analysing rung for a point of an inheriting rung's picture, `dx`, `dy` blocks away: only from rows that cover the job and are written (R123, R124). -/
def State.ladderRecord (s : State) (n : Nat) (m : MotionRef) (rows : List Nat) (x y : Nat) (dx dy : Int) : Option MvRecord :=
  let st := mainStream (s.sess n).desc
  let cx : Int := ((x * m.w / max 1 st.w / 16 : Nat) : Int) + dx
  let cy : Int := ((y * m.h / max 1 st.h / 16 : Nat) : Int) + dy
  let cols := ceilDiv m.w 16
  if m.buf = 0 ∨ cx < 0 ∨ cy < 0 ∨ (cols : Int) ≤ cx ∨ (ceilDiv m.h 16 : Int) ≤ cy ∨ !rows.contains (16 * cy.toNat / ctuLines m.codec) then none
  else s.recordAt (s.bufAddr m.buf) cols cx.toNat cy.toNat

/-- What motion search of a row takes from other pictures and rungs: its picture's session, the analysing rows it may read, and what does not depend on the block. -/
structure Outside where
  field : Option MotionRef
  rows : List Nat
  pre : List PreCost
  preCols : Nat
  origin : Nat
  model : List PreBlock
  middle : Mv

/-- The same for a row of a job: a row that goes without its records, or a picture without a motion field, has no analysing rows to read (R119, R124, R138). -/
def State.outside (s : State) (n : Nat) (p : EncPic) (j : EncJob) (row : Nat) : Outside :=
  let d := (s.sess n).desc
  let m := s.motionOf n p
  let cols := ceilDiv (s.partWidth n d) 16
  let a := (s.partOrigin n).1
  let gone := j.noInherit.contains row && j.lost.isEmpty
  { field := m, rows := if gone then [] else m.elim [] fun m => (((span j.firstRow j.rows).map (s.covers n m)).flatten.eraseDups).filter fun q => !j.lost.contains q,
    pre := p.prepass.getD [], preCols := cols, origin := a, model := reliable a cols (p.prepass.getD []),
    middle := match p.prepass, p.refs.head? with
      | none, some r => s.fieldMedian n r
      | _, _ => mvZero }

/-- The co-located record of the analysing rung for a block. -/
def State.colocated (s : State) (n : Nat) (o : Outside) (b : PixBlock) : Option MvRecord :=
  o.field.bind fun m => s.ladderRecord n m o.rows (b.x + 8) (b.y + 8) 0 0

/-- Whether a block of a picture has the candidate list of R119: its co-located reference record is intra or poisoned, or it inherits and has no usable record (R119, R124, R135, R137, R138; an intra record of the analysing rung is DEDUCED from R135, log entry 106). -/
def State.reduced (s : State) (n : Nat) (p : EncPic) (o : Outside) (b : PixBlock) : Bool :=
  let own := p.refs.head?.bind fun r => s.refRecord n r b.x b.y
  own.all (fun e => e.intra || e.poison) || ((o.field.isSome || s.awaits n p) && (s.colocated n o b).all fun e => e.intra || e.poison)

/-- Candidates 6 to 14 of R115 for a block in reference `i`. -/
def State.candsOutside (s : State) (n : Nat) (p : EncPic) (o : Outside) (i : Nat) (b : PixBlock) : List Mv :=
  match p.refs[i]?, p.refs.head? with
  | some target, some near_ =>
    let st := mainStream (s.sess n).desc
    let small := s.reduced n p o b
    let temporals := if small then []
      else ([(b.x, b.y), (b.x + 16, b.y + 16)].filterMap fun c => (s.refRecord n near_ c.1 c.2).bind (temporal p.idx near_ target))
    let whole := if small then mvZero else if p.prepass.isSome then globalAt o.model (b.x + 8) (b.y + 8) else o.middle
    let pre := (o.pre[(b.y / 16) * o.preCols + (b.x - o.origin) / 16]?).toList.map fun e => mvOfQuarter e.x e.y
    let ladder := o.field.elim [] fun m =>
      ([((0 : Int), (0 : Int)), (-1, 0), (0, -1), (1, 0), (0, 1)].filterMap fun e =>
        (s.ladderRecord n m o.rows (b.x + 8) (b.y + 8) e.1 e.2).bind fun k => k.vector.bind fun v =>
          if v.1 = i then some (mvScale2 v.2 st.w m.w st.h m.h) else none)
    temporals ++ [whole] ++ pre ++ ladder
  | _, _ => []

/-! Limits (R117, R134, R157, R158, R476, R477). -/

/-- Whether the halo rows of a neighbour that hold the lines `[top, bottom]` are there for a reference (R477). -/
def State.haloHere (s : State) (n g m : Nat) (t : PtpTime) (top bottom : Int) : Bool :=
  let st := mainStream (s.sess n).desc
  let k := ctuLines st.codec
  let a := (clampInt 0 ((st.h : Int) - 1) top).toNat / k
  let b := (clampInt 0 ((st.h : Int) - 1) bottom).toNat / k
  (span a (b + 1 - a)).all fun r => (s.esp g).rows.contains (m, false, r, t)

/-- A reference as motion search of a session sees it. -/
def State.refView (s : State) (n : Nat) (p : EncPic) (r : RefPic) : RefView :=
  let d := (s.sess n).desc
  let st := mainStream d
  let clean := if p.sweep.isSome then r.clean else none
  match s.espOf n with
  | none => { poc := r.poc, left := fun _ _ => -64, right := fun _ _ => (st.w : Int) + 64, clean := clean }
  | some g =>
    let me := s.espSelf g
    let reg := s.espRegion g me st
    let a : Int := reg.1
    let b : Int := reg.1 + reg.2
    let h : Int := s.espHalo g
    { poc := r.poc, clean := clean,
      left := fun t u => if me = 0 then -64 else (if s.haloHere n g (me - 1) r.time t u then a - h else a) + tapsLeft st.codec
      right := fun t u => if me = s.espLast g then (st.w : Int) + 64 else (if s.haloHere n g (me + 1) r.time t u then b + h else b) - tapsRight st.codec }

/-- No sample that a prediction reads is poisoned; samples outside the picture repeat those of its edge. -/
def State.refReadable (s : State) (n : Nat) (r : RefPic) (b : PixBlock) (m : Mv) : Bool :=
  let st := mainStream (s.sess n).desc
  let z := s.reconDims n
  let o := s.partOrigin n
  let f := footprint (s.reconWide n) st.h (tapsLeft st.codec) (tapsRight st.codec) ((b.x + o.2 : Nat) - (o.1 : Int)) b.y b m
  (rectSegs (planesOf (s.bufAddr r.handle) z.1 z.2 st.chroma) f.1 f.2.1 f.2.2.1 f.2.2.2).all fun e => !s.poisoned e.1 e.2

/-- The picture's clean edge in luma samples: the right end of its refresh column (R157). -/
def EncPic.cleanEdge (p : EncPic) (st : Stream) : Nat :=
  match p.sweep with
  | some i => min st.w ((i + 1) * ceilDiv (unitColumns st) (max 1 p.sweepLen) * columnWide st.codec)
  | none => 0

/-- A block lies in the picture's refresh column. -/
def EncPic.inColumn (p : EncPic) (st : Stream) (b : PixBlock) : Bool :=
  let c := p.column st p.sweepLen
  decide (c.1 ≤ b.x / columnWide st.codec ∧ b.x / columnWide st.codec < c.2)

/-- What a picture gives motion search. -/
def State.searchView (s : State) (n : Nat) (p : EncPic) : SearchView :=
  let d := (s.sess n).desc
  let st := mainStream d
  { codec := st.codec, seed := p.seed, height := st.h, rangeH := meRangeH d, rangeV := meRangeV d, subpel := leAt d 0x47 1, inherit := s.inherits n,
    edge := p.cleanEdge st, refs := p.refs.map (s.refView n p),
    readable := fun i b m => (p.refs[i]?).all fun r => s.refReadable n r b m }

/-- The neighbours that intra prediction of a block reads, within its own job, are not poisoned (R134). -/
def State.intraClean (s : State) (n : Nat) (p : EncPic) (j : EncJob) (b : PixBlock) : Bool :=
  if p.recon = 0 then true
  else
    let st := mainStream (s.sess n).desc
    let z := s.reconDims n
    let x0 := if st.codec = 0 then 0 else j.firstUnit * ctuWide st.codec
    let l := max x0 (b.x - 1)
    let r := min (x0 + j.width st) (b.x + 2 * b.w)
    let t := max (j.firstRow * ctuLines st.codec) (b.y - 1)
    let u := min st.h (b.y + 2 * b.h)
    let ps := planesOf (s.bufAddr p.recon) z.1 z.2 st.chroma
    let above := if t < b.y then rectSegs ps (s.bufCol n l) (s.bufCol n r) t b.y else []
    let left := if l < b.x then rectSegs ps (s.bufCol n l) (s.bufCol n b.x) b.y u else []
    (above ++ left).all fun e => !s.poisoned e.1 e.2

/-- What a row gives mode decision; `found` is what motion search found in it. -/
def State.decideView (s : State) (n : Nat) (p : EncPic) (j : EncJob) (found : List Found) : DecideView :=
  let d := (s.sess n).desc
  let st := mainStream d
  { search := s.searchView n p, width := st.w, tools := toolsOf d, ldb := structLdb d, found := found, intraReads := s.intraClean n p j,
    intraOnly := fun b => p.key || p.inColumn st b, intraEdge := if p.sweep.isSome then some (p.cleanEdge st) else none }

/-- The search blocks of a row of a job. -/
def EncJob.searchBlocks (st : Stream) (j : EncJob) (row : Nat) : List PixBlock :=
  let x0 := if st.codec = 0 then 0 else j.firstUnit * ctuWide st.codec
  stripBlocks x0 (alignUp (x0 + j.width st) 16) (row * ctuLines st.codec) (alignUp (min st.h ((row + 1) * ctuLines st.codec) - row * ctuLines st.codec) 16)

/-- Motion search of a row; `qp` gives the QP of a block's CTU. A key picture has no references and no search. -/
def State.rowSearch (s : State) (n : Nat) (p : EncPic) (j : EncJob) (row : Nat) (qp : PixBlock → Nat) : List Found :=
  if p.refs.isEmpty || p.floorPic then []
  else
    let o := s.outside n p j row
    (s.searchView n p).row ((j.done.getLast?).elim [] RowDone.search) qp (s.candsOutside n p o) (j.searchBlocks (mainStream (s.sess n).desc) row)

/-! What a row leaves in HBM (R106, R107, R111, R122). -/

/-- Samples go into the reconstruction buffer of a picture. -/
def State.reconWrite (s : State) (n : Nat) (p : EncPic) (f : Nat → Nat → Nat → Nat) (x0 x1 y0 y1 : Nat) : State :=
  let st := mainStream (s.sess n).desc
  let z := s.reconDims n
  if p.recon = 0 then s
  else s.writeSamples (planesOf (s.bufAddr p.recon) z.1 z.2 st.chroma) st.depth f (s.bufCol n) id x0 x1 y0 (min z.2 y1)

/-- A coded row leaves its reconstruction and its motion records; the records go to the ladder's motion field as well. A retried row leaves the same bytes: they follow from the picture's seed and from what was coded (R81, R136). -/
def State.rowWrite (s : State) (n : Nat) (p : EncPic) (j : EncJob) (done : RowDone) : State :=
  let st := mainStream (s.sess n).desc
  let o := s.partOrigin n
  let x0 := if st.codec = 0 then 0 else j.firstUnit * ctuWide st.codec
  let x1 := x0 + j.width st
  let y0 := done.row * ctuLines st.codec
  let y1 := y0 + ctuLines st.codec
  let recs := (s.decideView n p j done.search).record done.units
  let t := s.reconWrite n p (Config.sample p.seed) x0 (if x1 = o.1 + s.partWidth n (s.sess n).desc then alignUp x1 (ctuWide st.codec) else x1) y0 y1
  let f := s.fieldOf n { handle := p.recon }
  let t := if p.recon = 0 then t else t.recordsWrite f.1 f.2 (o.1 - o.2) recs x0 x1 y0 (min st.h y1)
  if p.motion = 0 then t else t.recordsWrite (t.bufAddr p.motion) (ceilDiv st.w 16) 0 recs x0 x1 y0 (min st.h y1)

/-! Filtering across edges (R111, R129, R476). -/

/-- The edge that a job filters: the left edge of a tile-column group of HEVC, VVC or AV1 in REFRESH mode, unless LF_ACROSS (HEVC, VVC) leaves it alone. AV1 filters every tile edge, so its tile columns have it as its tile rows do (DEDUCED, log entry 107). -/
def filtersAcross (d : List Byte) : Bool :=
  let c := (mainStream d).codec
  refresh d && c != 0 && (c == 3 || leAt d 0x4A 1 == 0)

/-- AV1 with any of deblocking, CDEF and loop restoration on changes the lines above a tile edge, which the job below it filters. -/
def filtersAbove (d : List Byte) : Bool := (mainStream d).codec == 3 && !refresh d && !(lfOff d 0 && lfOff d 3 && lfOff d 4)

/-- The job to the left of a job, on this module or on the neighbour. -/
def EncPic.leftJob (p : EncPic) (j : EncJob) : Option EncJob := p.jobs.find? fun e => e.firstUnit + e.units == j.firstUnit && e.idx != j.idx

/-- The job across a boundary of a job has written row `row`, or the neighbour's strip of it is here (R111, R476): the job to the left, and at the right end of an espalier region the next member. -/
def State.sidesWrote (s : State) (n : Nat) (p : EncPic) (j : EncJob) (row : Nat) : Bool :=
  let wrote (e : EncJob) : Bool := e.phase == .ended || e.done.any fun r => r.row == row
  if !filtersAcross (s.sess n).desc then true
  else match s.espOf n with
    | some g =>
      let own := s.ownColumns n
      let strip (m : Nat) : Bool := (s.esp g).rows.contains (m, true, row, p.capture)
      (if j.firstUnit = own.1 then s.espSelf g == 0 || strip (s.espSelf g - 1) else (p.leftJob j).all wrote) &&
      (j.firstUnit + j.units != own.1 + own.2 || s.espSelf g == s.espLast g || strip (s.espSelf g + 1))
    | none => j.firstUnit == 0 || (p.leftJob j).all wrote

/-- A job may go on to its next row: the boundary of the row before it, which it filters first, has both its sides (R111). -/
def State.sidesReady (s : State) (n : Nat) (p : EncPic) (j : EncJob) : Bool :=
  j.done.isEmpty || s.sidesWrote n p j (j.firstRow + j.done.length - 1)

/-- The tile above a job has been written, for a job that filters the lines above its edge. -/
def State.aboveReady (s : State) (n : Nat) (p : EncPic) (j : EncJob) : Bool :=
  !filtersAbove (s.sess n).desc || p.jobs.all fun e => decide (e.firstRow + e.rows ≠ j.firstRow) || e.phase == .ended || decide (e.rows ≤ e.done.length)

/-- The boundaries of a row that the job filters: the samples within the filters' reach on both sides of its left edge, and of the right end of an espalier region. -/
def State.edgeFilter (s : State) (n : Nat) (p : EncPic) (j : EncJob) (row : Nat) : State :=
  let d := (s.sess n).desc
  let st := mainStream d
  let g := filterReach st.codec
  let y := row * ctuLines st.codec
  let at_ (t : State) (u : Nat) : State :=
    let x := u * ctuWide st.codec
    t.reconWrite n p (Config.filteredSample p.seed) (x - g) (x + g) y (y + ctuLines st.codec)
  if !filtersAcross d then s
  else
    let s := if j.firstUnit = 0 then s else at_ s j.firstUnit
    match s.espOf n with
    | some e =>
      let own := s.ownColumns n
      if j.firstUnit + j.units = own.1 + own.2 ∧ s.espSelf e ≠ s.espLast e then at_ s (j.firstUnit + j.units) else s
    | none => s

/-- The lines above a tile edge are filtered by the job below it. -/
def State.aboveFilter (s : State) (n : Nat) (p : EncPic) (j : EncJob) : State :=
  let st := mainStream (s.sess n).desc
  let y := j.firstRow * ctuLines st.codec
  if !filtersAbove (s.sess n).desc || j.firstRow = 0 then s
  else s.reconWrite n p (Config.filteredSample p.seed) 0 (alignUp st.w (ctuWide st.codec)) (y - filterReach st.codec) y

end Sys2Proof.Machine
end

