-- ==== Sys2Proof/Machine/EncRun.lean ====
section
/-! DEFINITION. Slice jobs from readiness to completion (03_codec_cores_sessions.md R77 to R83; 04_encoding.md R122, R124, R137, R138; 05_rate_control_latency.md R148 to R152, R155, R156; 15_tolac_fabric_espalier.md R475 to R477, R479). -/

namespace Sys2Proof.Machine

/-! Readiness (R124, R155, R156). -/

/-- T_row of a SLICE session, in ns (R78). -/
def State.rowPeriod (s : State) (n : Nat) : Nat :=
  let x := s.sess n
  let d := x.desc
  let st := mainStream d
  let srcH := x.srcGeom.2.1
  sliceRows d * ctuLines st.codec * srcH * rateDen d * 1000000000 / max 1 (st.h * rateNum d * s.rasterLines d srcH)

/-- The deadline of a job that is ready now (R155, R156). -/
def State.encDeadline (s : State) (n : Nat) (j : EncJob) : Nat :=
  let x := s.sess n
  if pinned x.desc then s.inNs ((x.n * s.rowPeriod n : Nat) : Int)
  else
    let t := s.rowsNs n j j.firstRow j.rows
    s.inNs ((t / max 1 j.rows + t + 10000 : Nat) : Int)

/-- An espalier member's job takes the anchor's allowance for its picture, or the fallback, which is counted (R475). -/
def State.memberTake (s : State) (n : Nat) (p : EncPic) (j : EncJob) : State :=
  match s.espOf n with
  | none => s
  | some g =>
    let rf := j.rowFloor (mainStream (s.sess n).desc) p p.sweepLen
    let found := ((s.esp g).allowances.find? fun a => a.1 == p.capture).bind fun a => a.2[j.idx]?
    let s := match found with
      | some _ => s
      | none => s.satF (ESP_SUBST g) 31 16
    s.modJob n p.idx j.idx fun j => { j with taken := true, allowance := found.getD (j.rows * rf), snapOpen := s.freeWord.toNat }

/-- The picture is ready once the last of this module's jobs of it is (R84; DEDUCED, log entry 102). -/
def State.readyMark (s : State) (n i : Nat) : State :=
  s.modPic n i fun p =>
    if p.readyAt.isNone && p.jobs.all fun j => decide (4 ≤ j.hedge) || (j.phase != .waiting && j.deadline.isSome) then { p with readyAt := some s.nowNs } else p

/-- The job becomes ready; the rows `miss` go without their covering records, of which the analysing rows `lost` are not written. -/
def State.jobReady (s : State) (n : Nat) (p : EncPic) (j : EncJob) (deadline : Option Nat) (miss lost : List Nat) : State :=
  let s := if s.espSilent n && !j.taken then s.memberTake n p j else s
  (s.modJob n p.idx j.idx fun j => { j with phase := (if j.phase = .waiting then .ready else j.phase), deadline := deadline, noInherit := miss, lost := lost }).readyMark n p.idx

/-- A job whose lines and covering records are present becomes ready; a tile-column group is released with its first row and has its deadline once its last row's lines are present (R124, R155, R156). -/
def State.encReady (s : State) (n i k : Nat) : State :=
  match s.encJob n i k with
  | none => s
  | some (p, j) =>
    if !s.clocked || !p.started || 4 ≤ j.hedge then s
    else
      let last := s.rowHere n p (j.firstRow + j.rows - 1)
      let first := s.rowHere n p j.firstRow
      let bare := (s.motionOf n p).any fun m => m.buf == 0
      let recs := bare || (s.missingRecords n p j).isEmpty
      let miss := if bare then span j.firstRow j.rows else j.noInherit
      if j.phase = .waiting then
        if !recs then s
        else if last then s.jobReady n p j (some (s.encDeadline n j)) miss j.lost
        else if j.pin.isNone && first then s.jobReady n p j none miss j.lost
        else s.rowWait n p j (if j.pin.isNone then j.firstRow else j.firstRow + j.rows - 1)
      else if j.deadline.isNone && last && (j.phase == .ready || j.phase == .running || j.phase == .paused) then
        (s.modJob n i k fun j => { j with deadline := some (s.encDeadline n j) }).readyMark n i
      else s

/-! The snapshot (R148, R152). -/

/-- The job takes its rate-control snapshot and its allowance, once, under the rate block of its picture. A slice of an AVC REFRESH session takes the w of SLICE mode, as it is timed like one and groups that start together are tile columns; R148 does not name it (DESIGN CHOICE, log entry 110). -/
def State.snapTake (s : State) (n : Nat) (p : EncPic) (j : EncJob) : State :=
  if j.taken then s
  else
    let x := s.sess n
    let d := p.desc x.desc
    let st := mainStream d
    let rf := fun (e : EncJob) => e.rowFloor st p p.sweepLen
    let open_ := p.jobs.filter fun e => !e.taken
    let reserve := (open_.map fun e => e.rows * rf e).sum
    let free := freeBytes p reserve
    let before := x.pics.filter fun q => decide (q.idx < p.idx)
    let prev := x.prevOf before
    let firstPic := before.isEmpty && x.sizes.isEmpty && prev.isEmpty
    let qp := (p.rows.map RowDone.qp).foldl max 0
    let snap := if p.rows.isEmpty then none else some qp
    let j := { j with snapSpent := p.spent, snapCommitted := p.committed, snapQp := snap, snapLatest := p.latest, snapPrev := prev, snapOpen := s.freeWord.toNat }
    let est := fun (e : EncJob) =>
      ((span e.firstRow e.rows).map fun r => estRow (j.base firstPic st e.idx r (snap.getD p.startQp) (s.estMean p)) j.snapLatest j.snapOpen (snap.getD p.startQp)).sum
    let mine := est j
    let rem := (open_.map est).sum
    let share := max 1 (min x.n open_.length)
    -- w = min(1, max(mine / rem, 1 / share))
    let extra := if free * rem ≤ share * mine * free then (if rem = 0 then free else min free (free * mine / rem)) else free / share
    let a := j.rows * rf j + max extra (free / share)
    let a := if sliceCap d = 0 then a else min (sliceCap d) a
    let rest := (open_.filter fun e => e.idx != j.idx).map fun e => (span e.firstRow e.rows).map fun r => (e.idx, r)
    s.draw.modJob n p.idx j.idx fun _ => { j with taken := true, allowance := a, snapRest := rest.flatten }

/-! Dispatch (R77, R79, R82). -/

/-- Ready encode jobs that core `c` could take. A pooled row's deadline is the job's less the time of its later rows (R77). -/
def State.encCands (s : State) (c : Nat) : List Cand :=
  (s.sessions.map fun e =>
    if e.2.phase = .closed then []
    else (e.2.pics.map fun p => p.jobs.filterMap fun j =>
      if j.phase = .ready ∧ (j.pin = some c ∨ (j.pin = none ∧ j.hedge = c / 9)) then
        let next := j.firstRow + j.done.length
        if j.pin = none ∧ (!s.rowHere e.1 p next || !s.sidesReady e.1 p j) then none
        else
          let later := if j.pin = none then s.rowsNs e.1 j (next + 1) (j.rows - 1 - j.done.length) else 0
          some { deadline := j.deadline.map fun t => (t + clockSpan - later) % clockSpan, sess := e.1, pic := p.idx, job := j.idx, pers := persOf (mainStream e.2.desc).codec false : Cand }
      else none).flatten).flatten

/-- The job starts on a core, whose personality is made active: the core's reference, the tag word and the non-coded units of a slice that goes straight to the queue. -/
def State.encBegin (s : State) (c n i k pers : Nat) : State :=
  let s := s.activate c pers
  match s.encJob n i k with
  | none => s
  | some (p, j) =>
    let s := s.snapTake n p j
    let s := s.modJob n i k fun j => { j with phase := .running, core := some c, version := j.version.or (some (s.seq c).active.version) }
    let s := s.setCore c { s.core c with job := some (n, i, k), strip := none }
    let s := if p.src = 0 then s else (s.poolAddref c p.src).1
    if j.pin.isNone then s
    else
      let s := s.sliceBegin c (tagWord n i k (k == 0) (decide (k + 1 = p.jobs.length)) (p.key || p.sweep == some 0) j.retried p.capture)
      if k = 0 then s.pushBytes c (p.header (s.sess n).desc) else s

def State.candBegin (s : State) (c : Nat) (x : Cand) : State :=
  if decBase ≤ x.job then s.decBegin c x.sess x.pic x.job x.pers else s.encBegin c x.sess x.pic x.job x.pers

/-- A free core takes its first ready job, if that job's personality is resident; otherwise it waits for the reload (R79). -/
def State.dispatch (s : State) (c : Nat) : State :=
  if !s.coreFree c then s
  else match firstCand (s.encCands c ++ s.decCands c) with
    | none => s
    | some x => if s.resident c x.pers = .absent then s else (s.candBegin c x).overloadUpdate (c / 9)

/-! Rows (R149 to R151). -/

/-- What the entropy coder delivers for one row. -/
structure RowIn where
  header : Nat
  units : List CodedUnit

/-- The QP of the CTU that holds a block. -/
def qpAt (us : List (PixBlock × Nat)) (b : PixBlock) : Nat := (us.find? fun e => holds e.1 b.x b.y).elim 0 Prod.snd

/-- AV1: what delta_q adds to base_q_idx for a QP (R141). -/
def deltaOf (st : Stream) (startQp q : Nat) : Option Int := if st.codec = 3 then some (5 * ((q : Int) - min startQp 51)) else none

/-- The next row of a job as motion search, mode decision, the controller and the unit guard make it (R113 to R116, R142, R143, R147, R149, R150). `first` tells a first picture, `silent` an espalier member that is not the anchor. -/
def State.codeRow (s : State) (n : Nat) (p : EncPic) (j : EncJob) (first silent : Bool) (acts : List Nat) (r : RowIn) : RowDone :=
  let d := p.desc (s.sess n).desc
  let st := mainStream d
  let row := j.firstRow + j.done.length
  let bs := j.unitBlocks st row
  let act := (acts.sum, acts.length)
  let rf := j.rowFloor st p p.sweepLen
  let lim := j.limit rf
  let hdr := min r.header (rowHeader st.codec)
  let mean := j.mean.getD p.mean
  let start := j.startQp.getD p.startQp
  let endgame := !p.floorPic && decide (lim < 2 * rf)
  let all := p.floorPic || endgame
  let q0 := match j.done.getLast? with
    | some l => if l.endgame then (j.done.map RowDone.qp).foldl max start else l.qp
    | none => j.snapQp.getD start
  let budget := if silent then j.allowance else p.budget
  let top := qpMax st.codec
  let qp := if all then top else j.rowQp first st budget lim q0 act mean
  let qps := acts.map fun a => if all then top else ctuQp d mean qp a
  let found := s.rowSearch n p j row (qpAt (bs.zip qps))
  let v := s.decideView n p j found
  let intra (b : PixBlock) : Bool := p.key || p.inColumn st b
  let dq := deltaOf st p.startQp
  let floor (b : PixBlock) (poison : Bool) : UnitSyntax := v.floorUnit top (dq top) b (intra b) poison
  let want := (bs.zip qps).map fun e => if all then floor e.1 false else if s.srcPoisoned n p e.1 then floor e.1 true else v.unit e.2 top dq e.1 (intra e.1)
  let ufs := bs.map fun b => unitFloor st.codec (intra b)
  let given := r.units ++ (ufs.drop r.units.length).map fun uf => ({ coded := uf, floor := uf } : CodedUnit)
  let g := guardRow lim all hdr ((ufs.zip ((want.map UnitSyntax.floor).zip given)).map fun e => (e.1, e.2.1 && !all, e.2.2))
  let units := (bs.zip (want.zip g)).map fun e => if e.2.2.1 = .guarded then floor e.1 false else e.2.1
  { job := j.idx, row := row, qp := qp, bytes := hdr + (g.map Prod.snd).sum, endgame := endgame, act := act.1, ctus := act.2,
    qpSum := (units.map UnitSyntax.qp).sum, start := start, floors := g.countP fun e => e.1 == .guarded,
    poison := poisonCount p.refs.length found units (j.searchBlocks st row), units := units, search := found,
    sao := if p.syn.filters.sao && !all then (bs.zip qps).map fun e => saoMode p.seed e.2 (e.1.x / ctuLines st.codec) row else [] }

/-- The signalling of a coded row, and its bytes (R130). A row coded again has the same. -/
def RowDone.rowSyntax (r : RowDone) (d : List Byte) (p : EncPic) : RowSyntax :=
  { pic := p.syn, job := r.job, row := r.row, units := r.units, sao := r.sao, rdoq := rdoqLevel d, chromaQpOffset := 0, substream := p.syn.wpp }
def RowDone.coded (r : RowDone) (d : List Byte) (p : EncPic) : List Byte := (span 0 r.bytes).map (Config.rowByte (r.rowSyntax d p))

/-- The halo rows an espalier member needs and lacks when row `row` starts: counted once for each row, with its search blocks, all of which are restricted (R477, R479). -/
def State.haloCheck (s : State) (n : Nat) (p : EncPic) (j : EncJob) (row : Nat) : State :=
  match s.espOf n with
  | none => s
  | some g =>
    if j.halos.contains row || p.key then s
    else
      let d := (s.sess n).desc
      let st := mainStream d
      let me := s.espSelf g
      let v := ceilDiv (meRangeV d + 4) (ctuLines st.codec)
      let sides := (if me = 0 then [] else [me - 1]) ++ (if me = s.espLast g then [] else [me + 1])
      let refs := p.refs.map RefPic.time
      let want := (refs.map fun t => (sides.map fun m => (List.range (min (ctuRows st.codec st.h) (row + v + 1))).map fun q => (m, false, q, t)).flatten).flatten
      let late := want.countP fun w => !(s.esp g).rows.contains w
      let s := s.modJob n p.idx j.idx fun j => { j with halos := row :: j.halos }
      if late = 0 then s
      else ((s.satF (ESP_HALO_LATE g) 15 0 late).satF (ESP_HALO_LATE g) 31 16 (j.searchBlocks st row).length).event pgTSW 6

/-- Samples of a row in luma columns `[x0, x1)` of the whole picture, plane by plane (R476). -/
def rowSamples (st : Stream) (f : Nat → Nat → Nat → Nat) (row x0 x1 : Nat) : List Byte :=
  let y0 := row * ctuLines st.codec
  let y1 := min st.h (y0 + ctuLines st.codec)
  let ps := planesOf 0 0 0 st.chroma
  (((List.range ps.length).zip ps).map fun e =>
    let (_, _, dx, dy) := e.2
    ((span (y0 / dy) (y1 / dy - y0 / dy)).map fun y =>
      ((span (x0 / dx) (x1 / dx - x0 / dx)).map fun x => leBytes 2 (f e.1 x y % 2 ^ st.depth)).flatten).flatten).flatten

/-- What a strip or a halo row holds on the side of neighbour `m`: twice the filter reach of unfiltered samples, or HALO of final ones as the reference buffer holds them (R476). -/
def State.espRowBytes (s : State) (g n : Nat) (p : EncPic) (m : Nat) (strip : Bool) (row : Nat) : List Byte :=
  let st := mainStream (s.sess n).desc
  let reg := s.espRegion g (s.espSelf g) st
  let k := if strip then 2 * filterReach st.codec else s.espHalo g
  let left := decide (m < s.espSelf g)
  let x := if left then reg.1 else reg.1 + reg.2 - k
  if strip then rowSamples st (Config.sample p.seed) row x (x + k)
  else if p.recon = 0 then rowSamples st (Config.filteredSample p.seed) row x (x + k)
  else
    let l := (s.haloWidths n).1
    let c := if left then (l, l + k) else (l + reg.2 - k, l + reg.2)
    ((s.refSegs n p.recon c (row * ctuLines st.codec) (row * ctuLines st.codec + ctuLines st.codec)).map fun e => s.hbmBytes e.1 e.2).flatten

/-- Strips and halo rows leave for the neighbours from the group at the boundary (R476). -/
def State.haloSend (s : State) (n : Nat) (p : EncPic) (j : EncJob) (row : Nat) : State :=
  match s.espOf n with
  | none => s
  | some g =>
    let d := (s.sess n).desc
    let st := mainStream d
    let own := s.ownColumns n
    let filtered := st.codec == 3 || leAt d 0x4A 1 == 0
    let final := if row + 1 = ctuRows st.codec st.h then span (row - 2) (row + 1 - (row - 2)) else if 2 ≤ row then [row - 2] else []
    let sides := (if j.firstUnit == own.1 && s.espSelf g != 0 then [s.espSelf g - 1] else []) ++
      (if j.firstUnit + j.units == own.1 + own.2 && s.espSelf g != s.espLast g then [s.espSelf g + 1] else [])
    let copies := (sides.map fun m => [(m, false), (m, true)]).flatten
    let send (t : State) (strip : Bool) (r : Nat) (c : Nat × Bool) : State :=
      t.espOut (t.espNode g c.1) 1 c.2 (.espRow (t.espNode g c.1) c.2 strip r p.capture (t.espRowBytes g n p c.1 strip r))
    let s := if filtered then s.each copies fun t c => send t true row c else s
    s.each final fun t r => t.each copies fun u c => send u false r c

/-- A row of the picture's motion field is written once every group of the picture has coded it: inheriting rungs may read it (R122, R124). -/
def State.fieldMark (s : State) (n i row : Nat) : State :=
  match s.pic n i with
  | none => s
  | some p =>
    if p.motion = 0 || !(p.jobs.all fun j => decide (row < j.firstRow ∨ j.firstRow + j.rows ≤ row) || j.done.any fun r => r.row == row) then s
    else s.each (s.sessions.map Prod.fst) fun t k => t.modSess k fun x =>
      { x with motions := x.motions.map fun m => if m.by_ = n ∧ m.src = p.src ∧ m.capture = p.capture ∧ !m.rows.contains row then { m with rows := row :: m.rows } else m }

/-- The next row of the job that a core runs is coded (R149). The boundary of the row before it is filtered first (R111). -/
def State.rowCode (s : State) (c : Nat) (r : RowIn) : State :=
  match (s.core c).job with
  | none => s
  | some (n, i, k) =>
    match s.encJob n i k with
    | none => s
    | some (p, j) =>
      let row := j.firstRow + j.done.length
      if j.rows ≤ j.done.length || j.phase != .running || !s.rowHere n p row || !s.sidesReady n p j then s
      else
        let x := s.sess n
        let d := p.desc x.desc
        let st := mainStream d
        let before := x.pics.filter fun q => decide (q.idx < p.idx)
        let first := before.isEmpty && x.sizes.isEmpty
        let again := j.past[j.done.length]?
        let s := s.haloCheck n p j row
        let acts := (j.unitBlocks st row).map (s.ctuActivity n p)
        let act := (acts.sum, acts.length)
        let j := if again.isNone && s.recordsPoisoned n p row && !j.noInherit.contains row then { j with noInherit := row :: j.noInherit } else j
        let j := if p.mean.2 = 0 && j.startQp.isNone then { j with startQp := some (qlOf d + firstOffset act), mean := some act } else j
        let done := again.getD (s.codeRow n p j first (s.espSilent n) acts r)
        let stop := j.pin.isNone && decide (j.done.length + 1 < j.rows)
        let s := s.modPic n i fun q =>
          { q with latest := some done, jobs := q.jobs.map fun e =>
              if e.idx = k then { e with done := e.done ++ [done], startQp := j.startQp, mean := j.mean, noInherit := j.noInherit, phase := (if stop then .paused else .running), core := (if stop then none else some c) } else e }
        let s := (s.rowWrite n p j done).fieldMark n i row
        let s := if j.done.isEmpty then s else s.edgeFilter n p j (row - 1)
        let s := s.coreBusy c (j.rowPixels st row * s.encCost n / 200)
        let s := if p.key then s else s.cacheUse c
        let s := if again.isSome then s else s.haloSend n p j row
        let s := if stop then s.coreFreed c p.src else s
        if j.pin.isNone then s else s.pushBytes c (done.coded d p)

/-! Completion (R83, R148, R161). -/

/-- The slice of a completed job enters the queue whole, or ends there. -/
def State.sliceEnd (s : State) (c : Nat) (n : Nat) (p : EncPic) (j : EncJob) : State :=
  let eg := j.done.any RowDone.endgame
  let po := j.done.any fun r => r.poison != 0
  let s := if j.pin.isSome then s
    else
      let s := s.sliceBegin c (tagWord n p.idx j.idx (j.idx == 0) (decide (j.idx + 1 = p.jobs.length)) (p.key || p.sweep == some 0) j.retried p.capture)
      let d := p.desc (s.sess n).desc
      let s := if j.idx = 0 then s.pushBytes c (p.header d) else s
      s.pushBytes c ((j.done.map fun r => r.coded d p).flatten)
  let r := s.sliceFinish c eg po
  let s := if r.2.1 then r.1.modPic n p.idx fun p => { p with sqOverrun := p.sqOverrun + 1 } else r.1
  if r.2.2 then s
  else
    let s := match s.sliceRing n with
      | some g => (s.satF (RING_DROP g) 15 0).event (pgRING g) 2
      | none => s
    s.sliceOut n p.idx j.idx true (s.sliceRing n).isSome

/-- Cycles of a job beyond its cost: half a cycle for each bin above one per luma pixel (R127). -/
def EncJob.extraCycles (st : Stream) (j : EncJob) (bins : Nat) : Nat := (bins - ((span j.firstRow j.rows).map (j.rowPixels st)).sum) / 2

/-- The running job of a core completes, once the boundaries it filters have both their sides (R111). -/
def State.jobComplete (s : State) (c : Nat) : State :=
  match (s.core c).job with
  | none => s
  | some (n, i, k) =>
    if decBase ≤ k then s.decComplete c n i (k - decBase)
    else match s.encJob n i k with
      | none => s.setCore c { s.core c with job := none }
      | some (p, j) =>
        if j.done.length < j.rows || !s.sidesReady n p j || !s.aboveReady n p j then s
        else
          let late := j.deadline.any fun t => afterNs s.nowNs t
          let d := p.desc (s.sess n).desc
          let s := (s.edgeFilter n p j (j.firstRow + j.rows - 1)).aboveFilter n p j
          let s := s.coreBusy c (j.extraCycles (mainStream d) ((j.done.map fun r => Config.rowBins (r.rowSyntax d p)).sum))
          let s := s.sliceEnd c n p j
          let s := s.coreDone c p.src
          let s := if late then s.satF (HDG_OVL j.hedge) 15 0 else s
          let s := s.modPic n i fun q =>
            { q with spent := q.spent + j.bytes, jobs := q.jobs.map fun e => if e.idx = k then { e with phase := .done, core := none, late := late, entries := (if p.syn.wpp then j.done.map RowDone.bytes else []) } else e }
          (s.picMaybeEnd n i).picsRetire n

/-! Commands. -/

/-- SLICE_JOB_READY (R124, R155, R156). -/
def execSliceJobReady (sess : SessId) (pic job : Nat) (s : State) : Out := .next (s.encReady sess.val pic job)

/-- INHERIT_LATEST_START (R124): the deadline is 2 x (t_c + 10 us) away. -/
def execInheritLatestStart (sess : SessId) (pic job : Nat) (s : State) : Out :=
  .next (match s.encJob sess.val pic job with
    | none => s
    | some (p, j) =>
      let miss := s.missingRecords sess.val p j
      if s.clocked && p.started && j.phase == .waiting && !miss.isEmpty && s.rowHere sess.val p (j.firstRow + j.rows - 1) then
        s.jobReady sess.val p j (some (s.inNs ((2 * (s.rowsNs sess.val j j.firstRow j.rows + 10000) : Nat) : Int))) miss (s.lostRows sess.val p j)
      else s)

/-- SLICE_JOB_DISPATCH (R79, R82, R148, R152). -/
def execSliceJobDispatch (core : CoreId) (s : State) : Out := .next (s.dispatch core.val)

/-- The job of a SLICE or AVC REFRESH session on whose strips a free core may begin: its first 16 source lines are present and it is not yet ready (R155, R156). -/
def State.stripJob (s : State) (c : Nat) : Option (Nat × Nat × Nat) :=
  s.sessions.findSome? fun e =>
    if e.2.phase = .closed ∨ !pinned e.2.desc then none
    else e.2.pics.findSome? fun p => (p.jobs.find? fun j =>
        p.started && j.phase == .waiting && j.pin == some c && !j.retried &&
        s.linesHere p (let st := mainStream e.2.desc; min e.2.srcGeom.2.1 (j.firstRow * ctuLines st.codec * e.2.srcGeom.2.1 / max 1 st.h + 16))).map
      fun j => (e.1, p.idx, j.idx)

/-- STRIP_START (R155): motion search begins; neither the job's output nor its cost changes. -/
def execStripStart (core : CoreId) (s : State) : Out :=
  .next (if s.coreFree core.val then
      match s.stripJob core.val with
      | some j => s.setCore core.val { s.core core.val with strip := some j }
      | none => s
    else s)

/-- CTU_ROW_START (R149). -/
def execCtuRowStart (core : CoreId) (headerBytes : Nat) (coded floors : List Nat) (s : State) : Out :=
  .next (if s.clocked then s.rowCode core.val { header := headerBytes, units := codedUnits coded floors } else s)

/-- POOLED_ROW_READY (R77): the next row goes to the free core of its hedge with the lowest ID, else it waits for one. -/
def execPooledRowReady (sess : SessId) (pic job : Nat) (s : State) : Out :=
  .next (if decBase ≤ job then (if s.clocked then s.decNext sess.val pic (job - decBase) else s)
    else match s.encJob sess.val pic job with
    | none => s
    | some (p, j) =>
      if s.clocked && j.phase == .paused && s.rowHere sess.val p (j.firstRow + j.done.length) && s.sidesReady sess.val p j then
        let s := s.modJob sess.val pic job fun j => { j with phase := .ready }
        let pers := persOf (mainStream (s.sess sess.val).desc).codec false
        match (span (9 * j.hedge) 9).find? fun c => s.coreFree c && s.resident c pers != .absent with
        | some c => s.encBegin c sess.val pic job pers
        | none => s
      else s)

/-- SLICE_JOB_COMPLETE (R83, R148, R161). -/
def execSliceJobComplete (core : CoreId) (s : State) : Out := .next (if s.clocked then s.jobComplete core.val else s)

end Sys2Proof.Machine
end

