-- ==== Sys2Proof/Machine/Hedges.lean ====
section
/-! DEFINITION. Promotion and removal of cores, host promotion, spares and self-tests, DVFS points and the spare's personalities (03_codec_cores_sessions.md R12, R80, R83 to R101; 11_buffer_pools.md R343). -/

namespace Sys2Proof.Machine

/-! Where the work of a core that leaves goes (R12, R87). -/

/-- The share of one session moves from core `c` to core `dst`; jobs that must run on `c` follow. -/
def shareMove (c dst : Nat) (x : Sess) : Sess :=
  { x with shares := x.shares.map fun e => if e.1 = c then (dst, e.2) else e,
           pics := x.pics.map fun p => { p with jobs := p.jobs.map fun j => if j.pin = some c then { j with pin := some dst, hedge := dst / 9 } else j } }

/-- The spare takes the failed core's place in every core set (R12). -/
def State.takePlace (s : State) (c dst : Nat) : State :=
  { s with sessions := tabMap (fun _ => ({} : Sess)) (fun _ x => shareMove c dst x) s.sessions }

/-- Free units of a core, below zero when it exceeds its limit. -/
def State.coreRoom (s : State) (c : Nat) : Int :=
  (coreLimit (s.hedgeMHz (c / 9)) (s.neededPers c).length : Int) - (s.coreUnits c : Int)

/-- The element with the largest figure, the first among equals. -/
def bestOf (l : List Nat) (f : Nat → Int) : Option Nat :=
  match l with
  | [] => none
  | a :: t => some (t.foldl (fun b y => if f b < f y then y else b) a)

/-- The core that takes a share of session `n` when core `c` leaves without a spare (R87). -/
def State.shareHeir (s : State) (n c : Nat) : Option Nat :=
  let x := s.sess n
  let p := persOf (mainStream x.desc).codec false
  let rest := s.activeCores (c / 9)
  let fits := rest.filter fun k => !(x.shares.any fun e => e.1 == k) && (s.coreLeft k p).isSome
  let least (k : Nat) : Int := -(s.coreUnits k : Int)
  ((bestOf fits s.coreRoom).or (bestOf (rest.filter fun k => s.resident k p != .absent) least)).or (bestOf rest least)

/-- The shares of a core that leaves without a spare move, session by session. -/
def State.sharesMove (s : State) (c : Nat) : State :=
  s.each (s.sessions.filterMap fun e => if e.2.shares.any (fun x => x.1 == c) then some e.1 else none) fun t n =>
    match t.shareHeir n c with
    | some k => t.modSess n (shareMove c k)
    | none => t

/-- The core that the aborted job of a pinned session is reissued to when there is no spare (R87). -/
def State.jobHeir (s : State) (n c : Nat) : Option Nat :=
  let set := ((s.sess n).shares.map Prod.fst).filter fun k => k != c && s.coreRole k == 0
  (bestOf set s.coreRoom).or (bestOf (s.activeCores (c / 9)) fun k => -(s.coreUnits k : Int))

/-! A core leaves service (R86 step 7, R91). -/

/-- Soft reset and gating of a core: its registers and its sequencer; whole slices in its queue stay for their consumer. -/
def State.coreStop (s : State) (c : Nat) : State :=
  let s := s.setCore c { s.core c with job := none, strip := none, stages := 0, wordBuf := [], bitsOut := [], bitsIn := [] }
  let s := s.setSeq c { bankA := (s.seq c).bankA, bankB := (s.seq c).bankB, activeB := (s.seq c).activeB }
  (((s.setDomain c false).clearRegs (pgCORE c) 1 fun _ => false).setBusy (pgCORE c) false)

/-- HDG_LASTPROMO. SETUP is the time from the fault to the reissue: whole microseconds of UPTIME_US, and an open part of one below that (log entry 96); where nothing was reissued there is no such time, and the field is 0 (R93 gives no value: DESIGN CHOICE, log entry 99). -/
def State.lastPromo (s : State) (h fr : Nat) (dst : Option Nat) (host retried : Bool) : State :=
  let since := (s.hedge h).promo.elim 0 fun p => (s.uptime - p.startUs).toNat
  let setup := if retried then min 65535 (100 * since + s.freeWord.toNat % 100) else 0
  (s.setReg (HDG_LASTPROMO h) (BitVec.ofNat 32 (fr ||| (dst.getD 15) <<< 4 ||| b2n host <<< 8 ||| b2n retried <<< 9 ||| setup <<< 16))).draw

/-- The failed or released core leaves: roles, references, clocks, events, the interrupt edge (R86 steps 6 and 7, R89, R91). -/
def State.coreLeaves (s : State) (c : Nat) (spare : Option Nat) (host retried : Bool) : State :=
  let h := c / 9
  let s := s.releaseAgent c
  let s := (s.coreStop c).setRole h (c % 9) 2
  let s := s.setCore c { s.core c with test := none }
  let s := if spare.isSome then s.event (pgHDG h) 0 else s
  let s := s.event (pgHDG h) 1
  ((s.lastPromo h (c % 9) (spare.map fun k => k % 9) host retried).coreEdge c).coreClocks.loadsUpdate.overloads

/-! Self-test (R88). -/

/-- A self-test ends. -/
def State.bistEnd (s : State) (h : Nat) (pass : Bool) : State :=
  match (s.hedge h).bist with
  | none => s
  | some slot =>
    let s := s.setHedge h { s.hedge h with bist := none }
    let s := s.setRole h slot (if pass then 2 else 3)
    let s := s.setCore (9 * h + slot) { s.core (9 * h + slot) with test := some pass }
    let s := ((s.setB (HDG_BIST h) 8 false).setB (HDG_BIST h) 9 pass).setB (HDG_BIST h) 10 true
    s.event (pgHDG h) 5

/-- A self-test of the slot in HDG_BIST starts, if the slot is FAILED or RETIRED and none runs; it destroys the core's control store, and the slot has no ended test until it ends. PASS and DONE read 0 while it runs; R88 and R93 do not say what they read then (DESIGN CHOICE, log entry 100). -/
def State.bistBegin (s : State) (h : Nat) : State :=
  let slot := s.f (HDG_BIST h) 3 0
  let ok := decide (slot < 9) && decide (2 ≤ s.role h slot) && (s.hedge h).bist.isNone
  if !ok then s
  else
    let s := s.setHedge h { s.hedge h with bist := some slot }
    let s := ((s.setB (HDG_BIST h) 8 true).setB (HDG_BIST h) 9 false).setB (HDG_BIST h) 10 false
    let s := s.setCore (9 * h + slot) { s.core (9 * h + slot) with test := none }
    s.setSeq (9 * h + slot) { s.seq (9 * h + slot) with bankA := {}, bankB := {} }

/-- A write of HDG_BIST (R93). -/
def State.bistWrite (s : State) (h : Nat) (v : W32) : State :=
  let s := s.setF (HDG_BIST h) 3 0 (fld v 3 0)
  if bitAt v 8 then s.bistBegin h else s

/-! Faults of cores (R85, R86 steps 1 and 2, R95 to R97). -/

/-- The promotion of core `c` begins: its job is aborted, the spare's clock starts. -/
def State.promoBegin (s : State) (c : Nat) (replace : Bool) : State :=
  let h := c / 9
  let x := s.hedge h
  let spare := if replace then s.spareOf h else none
  let job := (s.core c).job
  let s := s.setHedge h { x with promo := some { failed := c, spare := spare, job := job, startUs := s.uptime }, hostPromote := if x.hostPromote = some c then none else x.hostPromote }
  let s := s.setCore c { s.core c with job := none, strip := none }
  let s := s.setBusy (pgCORE c) true
  let s := s.setSeq c (if (s.seq c).inactive.st = 1 then (s.seq c).setInactive {} else s.seq c)
  match spare with
  | some k => s.setDomain k true
  | none => s

/-- A CONTAINED fault of a core reaches its hedge sequencer (R85). -/
def State.coreFault (s : State) (c : Nat) (replace : Bool) : State :=
  let h := c / 9
  let s := s.latch (36 + h) 0
  let x := s.hedge h
  if x.bist = some (c % 9) then s.bistEnd h false
  else match s.coreRole c with
    | 0 =>
      if (x.faults.any fun f => f.1 == c) || x.promo.any fun p => p.failed == c then s
      else if x.promo.isSome then s.setHedge h { x with faults := x.faults ++ [(c, replace)] }
      else s.promoBegin c replace
    | 1 =>
      if x.promo.any fun p => p.spare == some c then s.setHedge h { x with faults := x.faults ++ [(c, replace)] }
      else
        let s := (s.setRole h (c % 9) 2).setDomain c false
        let s := s.setCore c { s.core c with test := none }
        s.event (pgHDG h) 1
    | _ => s

/-! The reissue (R81, R86 steps 5 to 7, R87). -/

/-- Rows of a motion field that a job codes again are written again before an inheriting job that waits may read them (R136). -/
def State.fieldForget (s : State) (n i k : Nat) : State :=
  match s.encJob n i k with
  | none => s
  | some (p, j) =>
    if p.motion = 0 || j.pin.isNone then s
    else s.each (s.sessions.map Prod.fst) fun t q => t.modSess q fun x =>
      { x with motions := x.motions.map fun m => if m.by_ = n ∧ m.src = p.src ∧ m.capture = p.capture then { m with rows := m.rows.filter fun r => decide (r < j.firstRow ∨ j.firstRow + j.rows ≤ r) } else m }

/-- The aborted job waits again, with its original inputs; `dst` is the core a pinned job must run on. -/
def State.jobRetry (s : State) (j : Nat × Nat × Nat) (dst : Option Nat) : State :=
  let (n, i, k) := j
  if decBase ≤ k then
    s.modSess n fun x => { x with dec := x.dec.map fun p => if p.idx = i then
      { p with jobs := p.jobs.map fun e => if e.idx = k - decBase then { e with phase := .ready, core := none, retried := true } else e } else p }
  else (s.fieldForget n i k).modJob n i k fun e =>
    let e := { e with phase := .ready, core := none, retried := true }
    if e.pin.isSome then { e with pin := dst.or e.pin, past := e.done ++ e.past.drop e.done.length, done := [] } else e

/-- Personality of a job, and the version its first attempt ran. -/
def State.jobImage (s : State) (j : Nat × Nat × Nat) : Nat × Option W32 :=
  let (n, i, k) := j
  let d := (s.sess n).desc
  if decBase ≤ k then
    (persOf (decStream d).codec true, ((s.sess n).dec.find? fun p => p.idx == i).bind fun p => (p.jobs.find? fun e => e.idx == k - decBase).bind DecJob.version)
  else (persOf (mainStream d).codec false, (s.encJob n i k).bind fun e => e.2.version)

/-- The reissued job starts on the spare. -/
def State.reissueOn (s : State) (c : Nat) (j : Nat × Nat × Nat) : State :=
  let (n, i, k) := j
  let p := (s.jobImage j).1
  if decBase ≤ k then s.decBegin c n i k p else s.encBegin c n i k p

/-- A keyed write of HDG_PROMOTE asks for a host promotion (R89). One that comes while an earlier one waits for its core's idle point replaces it; R89 does not say (DESIGN CHOICE, log entry 101). -/
def State.promoteWrite (s : State) (h : Nat) (v : W32) : State :=
  let slot := fld v 3 0
  if fld v 15 8 = 0x5A ∧ slot < 9 ∧ s.role h slot = 0 ∧ (s.spareOf h).isSome ∧ (s.hedge h).promo.isNone then
    s.setHedge h { s.hedge h with hostPromote := some (9 * h + slot) }
  else s

/-- A keyed write of HDG_SPARE (R88 step 4). -/
def State.spareWrite (s : State) (h : Nat) (v : W32) : State :=
  let slot := fld v 3 0
  if fld v 15 8 ≠ 0x5A then s
  else if slot < 9 ∧ s.role h slot = 2 ∧ (s.core (9 * h + slot)).test = some true ∧ (s.hedge h).bist ≠ some slot ∧ s.spareOf h = none then
    (s.setRole h slot 1).spareLoad h
  else s.event (pgHDG h) 7

/-- Whether a DVFS point is refused: capacity below ADMITTED, a pinned session that would need more cores than it holds, or a core whose shares would exceed its limit (R94). -/
def State.dvfsRefused (s : State) (h p : Nat) : Bool :=
  let mhz := dvfsMHz p
  decide (s.capacityAt h mhz < s.admitted h) ||
  (s.sessions.any fun e => e.2.phase != .closed && (e.2.shares.any fun x => x.1 / 9 == h) &&
    decide (e.2.n < s.coreCount e.2.desc e.2.srcGeom.2.1 (s.encCost e.1) mhz)) ||
  (s.activeCores h).any fun c => decide (coreLimit mhz (s.neededPers c).length < s.coreUnits c)

/-- A write of HDG_DVFS.POINT (R94). -/
def State.dvfsWrite (s : State) (h : Nat) (v : W32) : State :=
  let p := min (fld v 2 0) 5
  if s.dvfsRefused h p then s.event (pgHDG h) 4 else s.setF (HDG_DVFS h) 2 0 p

/-- The accepted point takes effect; a thermal limit holds CUR below it (R94, R562). -/
def State.dvfsTake (s : State) (h : Nat) : State :=
  let p := s.f (HDG_DVFS h) 2 0
  if s.bit (HDG_DVFS h) 7 && decide (p < s.f (HDG_DVFS h) 6 4) then s
  else (((s.setF (HDG_DVFS h) 6 4 p).setB (HDG_DVFS h) 7 false).loadUpdate h).overloadUpdate h

/-- One of the three writes that wait for the end of a promotion (R99). -/
def State.hdgLate (s : State) (h : Nat) (w : Nat × W32) : State :=
  if w.1 = 0x50 then s.dvfsWrite h w.2 else if w.1 = 0x54 then s.promoteWrite h w.2 else s.spareWrite h w.2

/-- Such a write, at once or after step 7. -/
def State.hdgWrite (s : State) (h off : Nat) (v : W32) : State :=
  if (s.hedge h).promo.isSome then s.setHedge h { s.hedge h with deferred := (s.hedge h).deferred ++ [(off, v)] }
  else s.hdgLate h (off, v)

/-- After step 7: the writes that waited, then the next fault that waited (R95, R99). -/
def State.promoEnd (s : State) (h : Nat) : State :=
  let ws := (s.hedge h).deferred
  let fs := (s.hedge h).faults
  let s := s.setHedge h { s.hedge h with promo := none, deferred := [], faults := [] }
  let s := s.each ws fun t w => t.hdgLate h w
  match fs with
  | [] => s
  | c :: rest => let s := s.setHedge h { s.hedge h with faults := rest }; s.coreFault c.1 c.2

/-- Steps 3 and 4: replies owed are answered ABORT_RESET, the words of the aborted job are discarded (R86). -/
def State.promoReplies (s : State) (h : Nat) : State :=
  match (s.hedge h).promo with
  | none => s
  | some p =>
    if p.repliesDone then s
    else
      let s := s.setHedge h { s.hedge h with promo := some { p with repliesDone := true } }
      let s := { s with remotes := s.remotes.filter fun r => r.req != Requester.seq p.failed }
      let s := s.setSeq p.failed { s.seq p.failed with busWait := false, busAbort := true }
      match p.job with
      | some (n, i, k) => if k < decBase ∧ (s.encJob n i k).any (fun e => e.2.pin.isSome) then s.abortMark p.failed else s
      | none => s

/-- Steps 5 to 7. The spare takes the failed core's place whatever becomes of its banks; a job whose personality it cannot be given yet waits for it, and a reload is one that delays work (R83). -/
def State.promoReissue (s : State) (h : Nat) : State :=
  match (s.hedge h).promo with
  | none => s
  | some p =>
    if !p.repliesDone then s
    else match p.spare with
      | some k =>
        let s := ((s.setRole h (k % 9) 0).setRole h (p.failed % 9) 2).takePlace p.failed k
        match p.job with
        | none => (s.coreLeaves p.failed (some k) false false).promoEnd h
        | some j =>
          let i := s.jobImage j
          let s := if s.resident k i.1 = .absent then s.overloadBegin h else s
          let s := (s.ensure k i.1 i.2 (s.spareWants h)).jobRetry j (some k)
          let ready := s.resident k i.1 == .active
          let s := if ready then s.reissueOn k j else s
          (s.coreLeaves p.failed (some k) false ready).promoEnd h
      | none =>
        let s := s.setRole h (p.failed % 9) 2
        let s := match p.job with
          | some j => s.jobRetry j (s.jobHeir j.1 p.failed)
          | none => s
        ((s.sharesMove p.failed).coreLeaves p.failed none false p.job.isSome).promoEnd h

/-- The host's promotion takes place at the core's idle point (R89). -/
def State.hostTakeover (s : State) (h : Nat) : State :=
  match (s.hedge h).hostPromote, s.spareOf h with
  | some c, some k =>
    if (s.core c).job.isSome || (s.hedge h).promo.isSome then s
    else
      let s := s.setHedge h { s.hedge h with hostPromote := none }
      if s.coreRole c ≠ 0 then s
      else
        let s := ((s.setRole h (k % 9) 0).setDomain k true).setRole h (c % 9) 2
        (s.takePlace c k).coreLeaves c (some k) true false
  | some _, none => s.setHedge h { s.hedge h with hostPromote := none }
  | none, _ => s

/-! Commands. -/

/-- PROMOTION_REPLY_TIMEOUT (R86 steps 3 and 4). -/
def execPromotionReplyTimeout (hedge : HedgeId) (s : State) : Out := .next (if s.clocked then s.promoReplies hedge.val else s)

/-- PROMOTION_REISSUE (R86 steps 5 to 7, R87, R97). -/
def execPromotionReissue (hedge : HedgeId) (s : State) : Out := .next (if s.clocked then s.promoReissue hedge.val else s)

/-- HDG_PROMOTE (R89, R99). -/
def execHdgPromote (who : Who) (hedge : HedgeId) (v : W32) (s : State) : Out :=
  .next (s.access who (pgHDG hedge.val) fun s => s.hdgWrite hedge.val 0x54 v)

/-- HOST_PROMOTE_TAKEOVER (R89). -/
def execHostPromoteTakeover (hedge : HedgeId) (s : State) : Out := .next (if s.clocked then s.hostTakeover hedge.val else s)

/-- HDG_SPARE (R88, R99). -/
def execHdgSpare (who : Who) (hedge : HedgeId) (v : W32) (s : State) : Out :=
  .next (s.access who (pgHDG hedge.val) fun s => s.hdgWrite hedge.val 0x58 v)

/-- BIST_START (R88): a write of HDG_BIST with START = 1. -/
def execBistStart (who : Who) (hedge : HedgeId) (slot : Fin 16) (s : State) : Out :=
  .next (s.access who (pgHDG hedge.val) fun s => s.bistWrite hedge.val (BitVec.ofNat 32 (0x100 ||| slot.val)))

/-- BIST_DONE (R88). -/
def execBistDone (hedge : HedgeId) (pass : Bool) (s : State) : Out := .next (if s.clocked then s.bistEnd hedge.val pass else s)

/-- HDG_DVFS_WRITE (R94, R99). -/
def execHdgDvfsWrite (who : Who) (hedge : HedgeId) (v : W32) (s : State) : Out :=
  .next (s.access who (pgHDG hedge.val) fun s => s.hdgWrite hedge.val 0x50 v)

/-- DVFS_APPLY (R94). -/
def execDvfsApply (hedge : HedgeId) (s : State) : Out := .next (if s.clocked then s.dvfsTake hedge.val else s)

/-- A write of HDG_PERS_PIN: at most two personalities (R80, R93). -/
def State.persPinWrite (s : State) (h : Nat) (v : W32) : State :=
  if 2 < (span 0 8).countP fun i => bitAt v i then s
  else (s.setReg (HDG_PERS_PIN h) (BitVec.ofNat 32 (fld v 7 0))).spareLoad h

/-- HDG_PERS_PIN_WRITE (R80). -/
def execHdgPersPinWrite (who : Who) (hedge : HedgeId) (v : W32) (s : State) : Out :=
  .next (s.access who (pgHDG hedge.val) fun s => s.persPinWrite hedge.val v)

end Sys2Proof.Machine
end

