-- ==== Sys2Proof/Machine/Closes.lean ====
section
/-! DEFINITION. The end of a session (08_job_formats.md R255, R270, R272, R275; 03_codec_cores_sessions.md R98, R100; 05_rate_control_latency.md R171; 06_decoding_concealment.md R203), and the ending of work that a hedge or a session stops (R93). -/

namespace Sys2Proof.Machine

/-! Slices in queues are discarded (R255, R301). -/

/-- Words of a bank without the whole slices of one session: `drop` tells whether the slice in progress is dropped, `ends` how many end marks are still to come. -/
def dropSlices (n : Nat) : Option Bool → Nat → List SqWord → List SqWord × Option Bool × Nat
  | o, e, [] => ([], o, e)
  | o, e, w :: ws =>
    let cur := o.getD (tagSess w.data == n && e != 0)
    let r := if w.endMark then dropSlices n none (e - 1) ws else dropSlices n (some cur) e ws
    (if cur then r.1 else w :: r.1, r.2)

/-- Picture and slice of the whole slices of a session in a list of words. -/
def slicesIn (n : Nat) : Option (Nat × Nat × Nat) → List SqWord → List (Nat × Nat)
  | _, [] => []
  | o, w :: ws =>
    let cur := o.getD (tagSess w.data, tagPic w.data, tagSlice w.data)
    if w.endMark then (if cur.1 = n then [(cur.2.1, cur.2.2)] else []) ++ slicesIn n none ws else slicesIn n (some cur) ws

/-- The whole slices of a session in a core's queue are discarded and counted. -/
def State.coreDiscard (s : State) (n c : Nat) : State :=
  let x := s.core c
  let all := x.staged ++ x.cons ++ x.prod
  let o := if x.staged.isEmpty then x.cur.map fun t => (tagSess t, tagPic t, tagSlice t) else none
  let gone := slicesIn n o all
  if gone.isEmpty then s
  else
    let r := (x.cur.bind fun t => if x.staged.isEmpty && tagSess t == n then s.sliceRing n else none)
    let a := dropSlices n (o.map fun t => t.1 == n) (all.countP SqWord.endMark) x.staged
    let b := dropSlices n a.2.1 a.2.2 x.cons
    let d := dropSlices n b.2.1 b.2.2 x.prod
    let s := match r with
      | some r => if (s.ring r).stream.isSome then s.sliceDropped r else s
      | none => s
    let s := s.setCore c { x with staged := a.1, cons := b.1, prod := d.1, credits := 1024 - d.1.length, slices := x.slices - gone.length,
                                  cur := if (x.cur.map tagSess) = some n then none else x.cur }
    s.each gone fun t e => t.sliceOut n e.1 e.2 true true

def State.slicesDiscard (s : State) (n : Nat) : State := s.each (span 0 36) fun t c => t.coreDiscard n c

/-! Work not yet started ends ABORTED (R93, R255). -/

/-- A running job is taken from its core. -/
def State.coreAbort (s : State) (c : Nat) : State :=
  match (s.core c).job with
  | none => s
  | some (n, i, k) =>
    let s := s.latch c 0
    if decBase ≤ k then s.coreFreed c (s.unitDrop ((s.decJob n i (k - decBase)).elim 0 fun e => e.2.src))
    else match s.encJob n i k with
      | some (p, j) => let s := if j.pin.isSome then s.abortMark c else s; s.coreFreed c p.src
      | none => s.coreFreed c 0

/-- The slice jobs of an encode session that `which` selects are ended; their pictures carry ABORTED and end when their other jobs have. -/
def State.encCut (s : State) (n : Nat) (which : EncJob → Bool) : State :=
  let live (j : EncJob) : Bool := which j && j.phase != .done && j.phase != .ended
  let hit (p : EncPic) : Bool := p.jobs.any live
  let ps := (s.sess n).pics.filter fun p => p.started && hit p
  let s := s.each (ps.map fun p => (p.jobs.filter which).filterMap EncJob.core).flatten State.coreAbort
  let endJob (j : EncJob) : EncJob := if live j then { j with phase := .ended, core := none, out := true, sent := true } else j
  let cutPic (p : EncPic) : EncPic := if p.started && hit p then { p with aborted := true, jobs := p.jobs.map endJob } else p
  let s := s.modSess n fun x => { x with pics := x.pics.map cutPic }
  (s.each (ps.map EncPic.idx) fun t i => t.picMaybeEnd n i).picsRetire n

/-- Pictures of an encode session that have not started end ABORTED, their sources released. -/
def State.picsCut (s : State) (n : Nat) : State :=
  let ps := (s.sess n).pics.filter fun p => !p.started
  let s := s.each ps fun t p => t.picRelease n p
  let s := s.modSess n fun x => { x with pics := x.pics.map fun p => if p.started then p else { p with aborted := true, ended := true, started := true, src := 0, releaseSrc := false } }
  s.picsRetire n

/-- The decode jobs of a session that `which` selects are ended. -/
def State.decCut (s : State) (n : Nat) (which : DecJob → Bool) : State :=
  let cs := (((s.sess n).dec.map fun p => (p.jobs.filter which).filterMap DecJob.core)).flatten
  let s := s.each cs State.coreAbort
  let endJob (j : DecJob) : DecJob := if which j && j.phase != .done && j.phase != .ended then { j with phase := .ended, core := none } else j
  s.modSess n fun x => { x with dec := x.dec.map fun p => { p with jobs := p.jobs.map endJob } }

/-- Units handed over and not parsed end ABORTED. -/
def State.unitsCut (s : State) (n : Nat) : State :=
  let us := (s.sess n).units
  let s := s.modSess n fun x => { x with units := [] }
  s.each us fun t u =>
    let t := if u.release then t.sessRelease n u.handle else t
    u.job.elim t fun j => t.finishJob j 0 [] 3

/-- A job that has not started: waiting or ready, with no row coded and no attempt made. -/
def EncJob.unstarted (j : EncJob) : Bool := (j.phase == .waiting || j.phase == .ready) && j.done.isEmpty && !j.retried && j.core.isNone

/-! The close (R98, R171, R203, R272). -/

/-- The session takes no more work; its close waits. -/
def State.closeBegin (s : State) (n : Nat) (j : JobRef) : State := s.modSess n fun x => { x with phase := .closing, closeJob := some j }

/-- ABORT: what has not started ends, slices in queues are discarded; pictures being received count as partial. -/
def State.closeAbort (s : State) (n : Nat) : State :=
  let s := ((s.picsCut n).encCut n EncJob.unstarted).slicesDiscard n
  let s := (s.unitsCut n).decCut n fun j => j.phase == .ready && !j.retried
  s.modSess n fun x => { x with dec := x.dec.map fun p => { p with closed := false } }

/-- Nothing of a closing session is left in flight. -/
def Sess.closeReady (x : Sess) : Bool :=
  x.phase == .closing && x.pics.isEmpty && x.units.isEmpty &&
  x.dec.all fun p => !p.closed && p.jobs.all fun j => j.phase == .done || j.phase == .ended

/-- No further picture starts: the pictures still held back for their output order are output in it (DEDUCED, log entry 121). -/
def State.decFlush (s : State) (n : Nat) : State :=
  let x := s.sess n
  if x.phase != .closing || !x.units.isEmpty then s
  else (s.each (sortBy (fun a b => decide (a.poc ≤ b.poc)) (x.dec.filter fun p => p.closed && p.whole)) fun t p => t.decPublish n p.idx).decsRetire n

/-- A partial picture is discarded without concealment (R203). -/
def State.decDiscard (s : State) (n : Nat) (p : DecPic) : State :=
  let s := if p.published then s else s.sessRelease n p.out
  let s := s.reconFree n p.recon
  let s := s.each p.unitRefs fun t e => t.sessRelease n e.1
  let s := s.each p.unitJobs fun t e => t.finishJob e.1 (1 <<< 12) [(0x08, timeBytes p.capture)] 0
  p.job.elim s fun j => s.finishJob j 0 [] 3

/-- The transmit flows bound to a session's producers are free again; pictures not yet handed over are released (R434). -/
def State.flowsFree (s : State) (n : Nat) : State :=
  let fs := (span 0 128).filter fun f => (s.txf f).bound == some (encProducer n) || (s.txf f).bound == some (decProducer n)
  s.each fs fun t f =>
    let os := (t.txf f).offers
    let t := (t.setTxf f { t.txf f with offers := [] }).bindFlow f none
    t.each os fun u o => (u.poolRelease o.agent o.handle).1

/-- A member that closes its part tells the anchor (R480). -/
def State.espLeaveOwn (s : State) (n : Nat) : State :=
  match s.espOf n with
  | none => s
  | some g => if s.espSelf g = s.espAnchor g then s else s.espOut (s.espNode g (s.espAnchor g)) 0 false (.espLeave (s.espNode g (s.espAnchor g)) (s.espSelf g))

/-- The close completes: buffers, flows and load are released, the record is written (R98, R106, R270, R272). -/
def State.closeDone (s : State) (n : Nat) : State :=
  let x := s.sess n
  let s := s.each x.dec fun t p => t.decDiscard n p
  let refs := (x.refs.map RefPic.handle ++ x.dpb.map DpbPic.handle ++ x.substitute.toList.map DpbPic.handle).eraseDups
  let s := s.each refs fun t h => t.reconFree n h
  let s := s.each x.motions fun t m => t.sessRelease n m.buf
  let s := x.published.elim s fun o => s.sessRelease n o.1
  let s := s.flowsFree n
  let s := s.espLeaveOwn n
  let s := s.each x.pendingJobs fun t j => t.finishJob j 0 [] 3
  let body := [(0x08, leBytes 4 (x.picsDone + x.decClosed)), (0x10, leBytes 8 x.totalBytes)]
  let s := x.closeJob.elim s fun j => s.finishJob j 0 body 0
  let s := (s.setSess n {}).coreClocks.loadsUpdate.overloads.ltrUpdate
  s.each x.hedges State.spareLoad

/-! Commands. -/

/-- SESSION_CLOSE_FINISH (R255). -/
def execSessionCloseFinish (r : RingId) (s : State) : Out :=
  .next (s.withJob r.val 2 (fun b => leAt b 0x10 1 == 0) fun s j _ => s.closeBegin j.sess j)

/-- SESSION_CLOSE_ABORT (R255). -/
def execSessionCloseAbort (r : RingId) (s : State) : Out :=
  .next (s.withJob r.val 2 (fun b => leAt b 0x10 1 != 0) fun s j _ => (s.closeBegin j.sess j).closeAbort j.sess)

/-- SESSION_CLOSE_COMPLETE (R98, R171, R203). -/
def execSessionCloseComplete (sess : SessId) (s : State) : Out :=
  .next (if !s.clocked then s
    else
      let s := s.decFlush sess.val
      if (s.sess sess.val).closeReady then s.closeDone sess.val else s)

end Sys2Proof.Machine
end

