-- ==== Sys2Proof/Machine/RegBase.lean ====
section
/-! DEFINITION. What a write does to a stored register by its access codes (R7, R8), and to a pair of registers (R53). -/

namespace Sys2Proof.Machine

/-- The register row of a BAR0 offset, with its block. -/
def regRow (a : Nat) : Option RegRow := (pageInfo (a / 0x1000)).bind fun r => rowAt r.1.block (a % 0x1000)

/-- The value a register holds after a write: RW bits stored, W1C bits cleared (R7). -/
def maskedValue (r : RegRow) (old v : W32) : W32 :=
  let rw := BitVec.ofNat 32 r.rw
  ((old &&& ~~~rw) ||| (v &&& rw)) &&& ~~~(v &&& BitVec.ofNat 32 r.w1c)

/-- A write of one register by its masks. -/
def State.maskWrite (s : State) (a : Nat) (v : W32) : State :=
  match regRow a with
  | some r => s.setReg a (maskedValue r (s.reg a) v)
  | none => s

def State.loOf (s : State) (a : Nat) : Option W32 := tabGet (fun _ => none) s.loHeld a
def State.setLo (s : State) (a : Nat) (v : Option W32) : State := { s with loHeld := tabPut (fun _ => none) s.loHeld a v }

/-- A write of a register that has no effect beyond its value: a _LO is held, a _HI takes effect with it (R53). -/
def State.rawWrite (s : State) (a : Nat) (v : W32) : State :=
  match regRow a with
  | none => s
  | some r =>
    if r.pair = 1 then (if r.rw = 0 then s else s.setLo a (some v))
    else if r.pair = 2 then
      match s.loOf (a - 4) with
      | some l => ((s.maskWrite (a - 4) l).maskWrite a v).setLo (a - 4) none
      | none => s.maskWrite a v
    else s.maskWrite a v

end Sys2Proof.Machine
end

