-- ==== Sys2Proof/Machine/Compose.lean ====
section
/-! DEFINITION. The composer pipes (07_composer.md R205 to R243; 08_job_formats.md R260, R261, R270): pending and live copies, flip groups, flip points, latching, and writing canvas lines. -/

namespace Sys2Proof.Machine

/-! Copies and locks (R221). -/

abbrev OUTPUT : Nat := 16
abbrev oLAYER (l : Nat) : Nat := 0x400 + 0x40 * l

def State.pend (s : State) (p off : Nat) : W32 := s.reg (pg (pgCMP p) off)
/-- Live dword at an offset of the page. -/
def Pipe.liveAt (x : Pipe) (off : Nat) : W32 := tabGet (fun _ => 0) x.live off
def State.live_ (s : State) (p off : Nat) : W32 := (s.pipe p).liveAt off
def State.group (s : State) (p g : Nat) : Group := tabGet (fun _ => {}) (s.pipe p).groups g
def State.setGroup (s : State) (p g : Nat) (x : Group) : State :=
  s.setPipe p { s.pipe p with groups := tabPut (fun _ => {}) (s.pipe p).groups g x }
def State.shownOf (s : State) (p l : Nat) : Shown := tabGet (fun _ => {}) (s.pipe p).shown l
def State.setShown (s : State) (p l : Nat) (x : Shown) : State :=
  s.setPipe p { s.pipe p with shown := tabPut (fun _ => {}) (s.pipe p).shown l x }
/-- Whether a member belongs to a pending group. -/
def State.locked (s : State) (p m : Nat) : Bool := (span 0 4).any fun g => (s.group p g).pending && bitAt (s.reg (GRP_MEMBERS p g)) m
/-- Offsets of a member's registers. -/
def memberOffs (m : Nat) : List Nat := if m = OUTPUT then [0x50, 0x54, 0x58, 0x5C] else (span 0 12).map fun k => oLAYER m + 4 * k
/-- Tables of a member. -/
def memberTabs (m : Nat) : List Nat := if m = OUTPUT then [0x20, 0x21] else if m < 8 then [m, 0x10 + m, 0x18 + m] else [m]
/-- The member that a table locks with (R235). -/
def tabMember (t : Nat) : Nat := if t < 0x20 then (if t < 0x10 then t else t % 8) else OUTPUT

/-! Fields of a layer, in a copy given by `rd`. -/

structure Layer where
  en : Bool
  gang : Bool
  bind : Nat
  hold : Bool
  fmt : Nat
  csc : Nat
  full : Bool
  zpos : Nat
  shift : Nat
  alpha : Nat
  src : W32
  sx : Nat
  sy : Nat
  sw : Nat
  sh : Nat
  dx : Nat
  dy : Nat
  dw : Nat
  dh : Nat
  stride : Nat

def layerOf (rd : Nat → W32) (l : Nat) : Layer :=
  let c := rd (oLAYER l)
  let w (k : Nat) : W32 := rd (oLAYER l + 4 * k)
  { en := bitAt c 0, gang := bitAt c 1, bind := fld c 3 2, hold := bitAt c 4, fmt := fld c 11 8, csc := fld c 13 12, full := bitAt c 14,
    zpos := fld c 19 16, shift := fld c 23 20, alpha := fld c 31 24, src := w 1, sx := fld (w 2) 15 0, sy := fld (w 2) 31 16,
    sw := fld (w 3) 15 0, sh := fld (w 3) 31 16, dx := fld (w 4) 15 0, dy := fld (w 4) 31 16, dw := fld (w 5) 15 0, dh := fld (w 5) 31 16,
    stride := (w 6).toNat }

/-- Size and bit depth of a bound layer's source picture, if its binding gives one (R210): for a decode session those of `shown`, else of the picture it has published, else the session's maximum. -/
def State.srcGeom (s : State) (x : Layer) (shown : Option (Nat × Nat × Nat)) : Option (Nat × Nat × Nat) :=
  match x.bind with
  | 1 => let f := x.src.toNat % 128; some (s.f (RXF_SIZE f) 15 0, s.f (RXF_SIZE f) 31 16, 16)
  | 2 =>
    let y := s.sess (x.src.toNat % 256)
    let st := decStream y.desc
    some ((shown.or (y.published.map Prod.snd)).getD (st.w, st.h, st.depth))
  | _ => none
def State.srcSize (s : State) (x : Layer) : Option (Nat × Nat) := (s.srcGeom x none).map fun g => (g.1, g.2.1)

/-- Where a layer's source lies. A HANDLE source has no size of its own: its picture ends where the source rectangle does (log entry 23). -/
def State.srcOf (s : State) (x : Layer) (y : Shown) : Src :=
  let (w, lines, depth) := (s.srcGeom x y.geom).getD (x.sx + x.sw, x.sy + x.sh, 16)
  { fmt := x.fmt, base := s.bufAddr y.handle, stride := if x.stride = 0 then defStride x.fmt w else x.stride, lines := lines, depth := depth,
    x0 := x.sx, y0 := x.sy, w := x.sw, h := x.sh, csc := x.csc, full := x.full }

/-! Validation (R205, R214, R215, R225, R239, R240). -/

/-- The canvas an OUTPUT copy gives. -/
def canvasOf (rd : Nat → W32) : Nat × Nat := (fld (rd 0x50) 15 0, fld (rd 0x50) 31 16)

/-- Another layer of the pipe holds a picture: a pipe holds one reference on each picture it shows (R211). -/
def State.heldElse (s : State) (p l : Nat) (h : W32) : Bool := (span 0 16).any fun k => k != l && (s.shownOf p k).held && (s.shownOf p k).handle == h

/-- Reason code of a layer's first failure, 0 when it passes; `rd` is the configuration the flip would produce. R225 names no reason for CSC = 3 or a stride off its multiple (R209): FORMAT (DEDUCED, log entry 123). -/
def State.layerCheck (s : State) (p : Nat) (rd : Nat → W32) (l : Nat) : Nat :=
  let x := layerOf rd l
  let (cw, ch) := canvasOf rd
  -- R215, R225 code 2, R239: seen from either layer of a ganged pair
  let pair := (l < 8 && l % 2 = 1 && x.en && (layerOf rd (l - 1)).gang) || (l < 8 && l % 2 = 0 && x.gang && (layerOf rd (l + 1)).en) || (x.gang && (l % 2 = 1 || 8 ≤ l))
  let lb := if x.gang then 16384 else 8192
  let size := s.srcSize x
  let stride := if x.stride = 0 then defStride x.fmt (size.getD (x.sx + x.sw, 0)).1 else x.stride
  let lines := (size.getD (0, x.sy + x.sh)).2
  let px := (pgroup x.fmt).1
  let timing := s.f (CMP_TIMING p) 7 4
  if !x.en then
    if pair then 2
    else if s.bit (CMP_TIMING p) 0 && timing = l then 9 else 0
  else if l < 8 && lb < x.dw then 1
  else if pair then 2
  else if x.sw = 0 ∨ x.sh = 0 ∨ x.dw = 0 ∨ x.dh = 0 then 3
  else if l < 8 && (decide (8 * x.dw < x.sw) || decide (64 * x.sw < x.dw) || decide (4 * x.dh < x.sh) || decide (64 * x.sh < x.dh) ||
      (decide (2 * x.dh < x.sh) && decide (2 * cw * x.dh < x.dw * x.sh))) then 3
  else if 8 ≤ l && (x.sw ≠ x.dw || x.sh ≠ x.dh) then 3
  else if cw < x.dx + x.dw ∨ ch < x.dy + x.dh then 4
  else if (size.any fun z => decide (z.1 < x.sx + x.sw ∨ z.2 < x.sy + x.sh)) ∨
      (x.bind = 0 ∧ s.live x.src ∧ s.poolSize (hPool x.src) < fmtBytes x.fmt stride lines) then 5
  else if !(if l < 8 then fmtVideo x.fmt else fmtGraphic x.fmt) ∨ x.sx % px ≠ 0 ∨ x.sw % px ≠ 0 ∨ (8 ≤ l ∧ x.csc ≠ 0) ∨ x.csc = 3 ∨ x.stride % (if x.fmt < 3 then 64 else 2) ≠ 0 then 6
  else if (span 0 16).any fun k => k ≠ l && (layerOf rd k).en && (layerOf rd k).zpos = x.zpos then 7
  else if x.bind = 0 ∧ !((s.shownOf p l).held && (s.shownOf p l).handle == x.src) ∧ !s.heldElse p l x.src ∧ (!s.live x.src ∨ (s.hbuf x.src).count = 255) then 8
  else if x.bind = 3 ∨ (x.bind = 2 ∧ ((s.sess (x.src.toNat % 256)).phase = .closed ∨ !hasDec (s.sess (x.src.toNat % 256)).desc)) then 9
  else if s.bit (CMP_TIMING p) 0 ∧ timing = l ∧ x.bind = 0 then 9
  else 0

/-- Reason code of OUTPUT. -/
def State.outputCheck (s : State) (p : Nat) (rd : Nat → W32) : Nat :=
  let (w, h) := canvasOf rd
  let o := rd 0x54
  let fmt := fld o 19 16
  if w < 16 ∨ 16384 < w ∨ h < 16 ∨ 8640 < h ∨ w % 2 = 1 ∨ h % 2 = 1 ∨ !fmtVideo fmt ∨ fld o 21 20 = 3 ∨
      s.poolSize (fld o 5 0) < fmtBytes fmt (defStride fmt w) h then 10
  else if 4800000000 * s.f (CMP_RATE p) 31 16 < w * h * s.f (CMP_RATE p) 15 0 then 11
  else 0

/-- The first failing member and its reason. -/
def State.groupCheck (s : State) (p : Nat) (members : List Nat) (rd : Nat → W32) : Option (Nat × Nat) :=
  members.findSome? fun m =>
    let r := if m = OUTPUT then s.outputCheck p rd else s.layerCheck p rd m
    if r = 0 then none else some (m, r)

/-! Fences (R223). -/

/-- A member's fence at a flip point: met, unmet, or a failed read. A fence on another node is read through the fabric; what it holds is open (log entry 24). -/
inductive FenceRead
  | met | unmet | failed
  deriving DecidableEq, Repr

def State.fenceRead (s : State) (p m : Nat) : FenceRead :=
  if m = OUTPUT then .met
  else
    let w (k : Nat) : W32 := s.pend p (oLAYER m + 4 * k)
    let c := w 7
    if !bitAt c 0 then .met
    else
      let a := (w 8).toNat + 2 ^ 32 * (w 9).toNat
      let want := (w 10).toNat + 2 ^ 32 * (w 11).toNat
      let cmp (bs : List Byte) : FenceRead := if want ≤ leNat bs then .met else .unmet
      if bitAt c 1 then
        let k := fld c 6 2
        if s.hostReach k && s.fnExists k then cmp (s.hostBytes a 8) else .failed
      else
        let node := a / 2 ^ 48 % 4096
        let l := a % 2 ^ 48
        if bitAt c 7 && (node == 0 || node == 4095) then .failed
        else if bitAt c 7 && node != s.nodeId then
          if !s.remoteOk node 2 then .failed
          else if Config.freeBool (s.fresh + m) then (if want ≤ (Config.freeWord (s.fresh + m)).toNat + 2 ^ 32 * (Config.freeWord (s.fresh + 17 + m)).toNat then .met else .unmet)
          else .failed
        else let r := s.localRead l 8; if r.1 = .ok then cmp r.2 else .failed

/-! Groups leave pending (R226 to R228). -/

/-- GRP_STAT of a group that leaves pending with LAST. -/
def State.groupOut (s : State) (p g last : Nat) : State :=
  let s := s.setReg (GRP_STAT p g) (setFld (setBit (s.reg (GRP_STAT p g)) 0 false) 3 2 last)
  s.setB (GRP_CTL p g) 0 false

/-- The record of the FLIP job that armed a group; that of a ring ended by an abort only if the ring runs again (R276). -/
def State.flipRecord (s : State) (p g code layer reason : Nat) (t : PtpTime) : State :=
  match (s.group p g).job with
  | none => s
  | some j =>
    if !(s.ring j.ring).openJobs.contains j && !s.ringRun j.ring then s
    else
    let d := s.f (GRP_STAT p g) 31 16
    s.finishJob j 0 [(0x08, leBytes 1 p), (0x09, leBytes 1 g), (0x0A, leBytes 1 layer), (0x0B, leBytes 1 reason), (0x0C, leBytes 2 d), (0x10, timeBytes t)] code

/-- A group ends. -/
def State.groupEnd (s : State) (p g last code layer reason : Nat) (t : PtpTime) : State :=
  let s := (s.groupOut p g last).flipRecord p g code layer reason t
  s.setGroup p g {}

/-- CANCEL (R222). -/
def State.groupCancel (s : State) (p g : Nat) : State :=
  if (s.group p g).pending then s.groupEnd p g 3 2 0 0 {} else s

/-- ARM (R222, R227): the state, and whether it was accepted. -/
def State.groupArm (s : State) (p g : Nat) (job : Option JobRef) : State × Bool :=
  let mask := s.reg (GRP_MEMBERS p g)
  let meets := (span 0 4).any fun k => k != g && (s.group p k).pending && (s.reg (GRP_MEMBERS p k) &&& mask) != 0
  if (s.group p g).pending || mask == 0 || meets then (s.event (pgCMP p) 9, false)
  else
    let s := s.setGroup p g { pending := true, job := job }
    let s := s.setB (GRP_CTL p g) 0 true
    (s.setReg (GRP_STAT p g) (setFld (s.reg (GRP_STAT p g) &&& 0xC) 0 0 1), true)

/-! Register writes of the pages (R221, R230, R232 to R235). -/

/-- A write of GRP_CTL (R234). -/
def State.grpCtlWrite (s : State) (p g : Nat) (v : W32) : State :=
  let s := s.setF (GRP_CTL p g) 23 8 (max 1 (fld v 23 8))
  let s := if bitAt v 1 then s.groupCancel p g else s
  if bitAt v 0 then (s.groupArm p g none).1 else s

/-- The stored form of a layer or timing register. -/
def cmpFix (off : Nat) (v : W32) : W32 :=
  if off = 0x40 then (if 8 ≤ fld v 7 4 then setFld v 7 4 15 else v)
  else if off = 0x44 then setFld (setFld v 15 0 (max 1 (fld v 15 0))) 31 16 (max 1 (fld v 31 16))
  else if 0x400 ≤ off ∧ off < 0x800 ∧ off % 0x40 = 0 then
    let l := (off - 0x400) / 0x40
    let v := if 9 ≤ fld v 23 20 then setFld v 23 20 8 else v
    if l % 2 = 1 ∨ 8 ≤ l then setBit v 1 false else v
  else v

/-- The member a pending register belongs to. -/
def cmpMember (off : Nat) : Option Nat :=
  if 0x50 ≤ off ∧ off < 0x60 then some OUTPUT
  else if 0x400 ≤ off ∧ off < 0x800 ∧ off % 0x40 < 0x30 then some ((off - 0x400) / 0x40)
  else none

/-- A write of the body of a CMP page. -/
def State.cmpWrite (s : State) (p off : Nat) (v : W32) : State :=
  let a := pg (pgCMP p) off
  match cmpMember off with
  | some m => if s.locked p m then s.event (pgCMP p) 10 else s.rawWrite a (cmpFix off v)
  | none =>
    if off < 0x50 then (if s.bit (hCTL (pgCMP p)) 0 then s else s.rawWrite a (cmpFix off v))
    else if 0x100 ≤ off ∧ off < 0x140 then
      let g := (off - 0x100) / 0x10
      if off % 0x10 = 0 then (if (s.group p g).pending then s else s.rawWrite a v)
      else if off % 0x10 = 4 then s.grpCtlWrite p g v
      else s
    else s

/-- The stored form of a table's dword (R235). -/
def cltFix (t d : Nat) (v : W32) : W32 :=
  let sx (n : Nat) : Nat := unsignedOf 16 (signed 12 (n % 4096))
  if t < 0x10 ∨ t = 0x20 then (if d % 2 = 1 then BitVec.ofNat 32 (fld v 15 0) else v)
  else if t < 0x20 then BitVec.ofNat 32 (sx (fld v 15 0) + 65536 * sx (fld v 31 16))
  else BitVec.ofNat 32 (fld v 15 0)

/-- A write of CLT_DATA(j) of window `k` of a pipe. -/
def State.cltWrite (s : State) (p k j : Nat) (v : W32) : State :=
  let sel := s.reg (CLT_SEL (16 * p + k))
  let t := fld sel 7 0
  let d := fld sel 11 8 * 512 + j
  if cltSize t ≤ d then s
  else if s.locked p (tabMember t) then s.event (pgCMP p) 10
  else s.setPipe p { s.pipe p with tabPend := tabPut cltDefault (s.pipe p).tabPend (t * 8192 + d) (cltFix t d v) }

/-! Flipping (R210, R211, R224). -/

/-- The configuration after the flip of some members: their pending copies, the live copies of the others. -/
def State.after (s : State) (p : Nat) (members : List Nat) (off : Nat) : W32 :=
  match cmpMember off with
  | some m => if members.contains m then s.pend p off else s.live_ p off
  | none => s.pend p off

/-- A layer lets go of the picture it shows. -/
def State.shownDrop (s : State) (p l : Nat) : State :=
  let x := s.shownOf p l
  let s := if x.held && !s.heldElse p l x.handle then (s.poolRelease (40 + p) x.handle).1 else s
  s.setShown p l {}

/-- One member's live copy is replaced; a HANDLE layer's new source gets its reference, a flow named by OUTPUT is bound (R211, R434). -/
def State.memberFlip (s : State) (p m : Nat) : State :=
  let x := s.pipe p
  let was := layerOf x.liveAt m
  let wasOut := x.liveAt 0x54
  let live := (memberOffs m).foldl (fun t o => tabPut (fun _ => 0) t o (s.pend p o)) x.live
  let tl := x.tabLive.filter fun e => !(memberTabs m).contains (e.1 / 8192)
  let tp := x.tabPend.filter fun e => (memberTabs m).contains (e.1 / 8192)
  let s := s.setPipe p { x with live := live, tabLive := tp.foldl (fun t e => tabPut cltDefault t e.1 e.2) tl }
  let y := layerOf (s.pipe p).liveAt m
  if m = OUTPUT then
    let o := (s.pipe p).liveAt 0x54
    let mine (f : Nat) : Bool := (s.txf f).bound == some (40 + p)
    let s := if bitAt wasOut 7 && mine (fld wasOut 14 8) && !(bitAt o 7 && fld o 14 8 == fld wasOut 14 8) then s.bindFlow (fld wasOut 14 8) none else s
    let f := fld o 14 8
    if bitAt o 7 && !mine f then
      if s.flowFree f 0 then s.bindFlow f (some (40 + p)) else s.event (pgMPE (f / 16)) 9
    else s
  else if !y.en then s.shownDrop p m
  else if y.bind = 0 then
    if was.en && was.bind == 0 && (s.shownOf p m).handle == y.src && (s.shownOf p m).held then s
    else
      let s := if s.heldElse p m y.src || ((s.shownOf p m).held && (s.shownOf p m).handle == y.src) then s else (s.poolAddref (40 + p) y.src).1
      let s := if (s.shownOf p m).handle = y.src then s.setShown p m {} else s.shownDrop p m
      s.setShown p m { handle := y.src, held := true }
  else if was.en && was.bind == y.bind && was.src == y.src then s
  else s.shownDrop p m

/-- CMP_LIVE shows the live enables (R232). -/
def State.liveUpdate (s : State) (p : Nat) : State :=
  let v := (span 0 16).foldl (fun n l => n + b2n (bitAt (s.live_ p (oLAYER l)) 0) * 2 ^ l) 0
  s.setReg (CMP_LIVE p) (BitVec.ofNat 32 (v + b2n (bitAt (s.live_ p 0x54) 6) * 65536))

/-- Members of a group's mask, OUTPUT last. -/
def State.membersOf (s : State) (p g : Nat) : List Nat := (span 0 17).filter fun m => bitAt (s.reg (GRP_MEMBERS p g)) m

/-- One pending group at a flip point, `unmet` being the members whose fences were not met (R224, R226, R227). -/
def State.groupDecide (s : State) (p g : Nat) (unmet : List Nat) (t : PtpTime) : State :=
  if !(s.group p g).pending then s
  else
    let ms := s.membersOf p g
    if ms.any unmet.contains then
      let s := s.satF (GRP_STAT p g) 31 16
      if s.f (GRP_STAT p g) 31 16 = s.f (GRP_CTL p g) 23 8 ∧ !s.bit (GRP_STAT p g) 1 then
        (s.setB (GRP_STAT p g) 1 true).event (pgCMP p) 2
      else s
    else match s.groupCheck p ms (s.after p ms) with
      | some (m, r) =>
        let s := if r = 8 then (s.poolAddref (40 + p) (layerOf (s.pend p) m).src).1 else s
        let s := (s.event (pgCMP p) 1).setReg (CMP_REJECT p) (BitVec.ofNat 32 (m ||| r <<< 8 ||| g <<< 12))
        s.groupEnd p g 2 0x10 m r t
      | none =>
        let s := s.each ms fun u m => u.memberFlip p m
        ((s.liveUpdate p).event (pgCMP p) 0).groupEnd p g 1 1 0 0 t

/-! Latching (R210, R211, R241, R242). -/

/-- The newest picture a bound layer's producer has not yet had latched: handle, agent that holds it, older ones, geometry of a decoded one. -/
def State.newPicture (s : State) (y : Layer) : Option (W32 × Nat × List W32 × Option (Nat × Nat × Nat)) :=
  match y.bind with
  | 1 =>
    let f := y.src.toNat % 128
    match (s.rxf f).started with
    | h :: older => some (h, 44 + f / 16, older, none)
    | [] => none
  | 2 =>
    let n := y.src.toNat % 256
    (s.sess n).published.map fun o => (o.1, s.sessAgent n, [], some o.2)
  | _ => none

/-- Layers of a pipe that are bound to what layer `l` is bound to. -/
def State.boundLike (s : State) (p l : Nat) : List Nat :=
  let y := layerOf (s.pipe p).liveAt l
  let z (w : W32) : Nat := w.toNat % (if y.bind = 1 then 128 else 256)
  (span 0 16).filter fun k => let x := layerOf (s.pipe p).liveAt k; x.en && x.bind == y.bind && z x.src == z y.src

/-- A bound layer at a flip point, with the others of the pipe that are bound alike: the producer's one reference passes to the pipe. -/
def State.layerLatch (s : State) (p l : Nat) : State :=
  let y := layerOf (s.pipe p).liveAt l
  if !y.en || y.bind = 0 then s
  else match s.newPicture y with
    | some (h, a, older, g) =>
      let ls := s.boundLike p l
      let s := s.each ls fun t k => t.shownDrop p k
      let s := s.passRef a (40 + p) h
      let s := s.each older fun t o => (t.poolRelease a o).1.satF (CMP_NOSRC p) 31 16
      let s := if y.bind = 1 then s.setRxf (y.src.toNat % 128) { s.rxf (y.src.toNat % 128) with started := [] }
        else s.modSess (y.src.toNat % 256) fun x => { x with published := none }
      s.each ls fun t k => t.setShown p k { handle := h, held := true, geom := g }
    | none => s

/-- The layers latch: those with a new picture take it; another with HOLD = 0 is transparent, and counted. -/
def State.layersLatch (s : State) (p : Nat) : State :=
  let old := (span 0 16).filter fun l => let y := layerOf (s.pipe p).liveAt l; y.en && y.bind != 0 && !y.hold && (s.newPicture y).isNone
  let s := s.each (span 0 16) fun t l => t.layerLatch p l
  s.each old fun t l => ((t.shownDrop p l).satF (CMP_NOSRC p) 15 0).event (pgCMP p) 5

/-! Canvas lines (R207, R218 to R220). -/

/-- Enabled live layers, by ZPOS from the bottom. -/
def State.layersUp (s : State) (p : Nat) : List (Nat × Layer) :=
  sortBy (fun a b => decide (a.2.zpos ≤ b.2.zpos)) (((span 0 16).map fun l => (l, layerOf (s.pipe p).liveAt l)).filter fun e => e.2.en)

/-- A live table of a pipe. -/
def State.tab (s : State) (p t : Nat) (d : Nat) : W32 := tabGet cltDefault (s.pipe p).tabLive (t * 8192 + d)

/-- Source lines that a layer reads for canvas line `y`; none outside its destination rectangle. A 4:2:0 source also reads the chroma lines the vertical filter takes. -/
def layerLines (l : Nat) (x : Layer) (y : Nat) : List Nat :=
  if y < x.dy ∨ x.dy + x.dh ≤ y then []
  else if 8 ≤ l then [x.sy + (y - x.dy)]
  else
    let ls := linesRead x.sy x.sh (scaleStep x.sh x.dh) (y - x.dy)
    if x.fmt = 3 then ls ++ ls.map fun q => min (x.sy + x.sh - 1) (if q % 2 = 0 then q else q + 3) else ls

/-- Lines present of the picture a layer shows, counted from line 0; all of them for a buffer outside the frame pools (R207). -/
def State.linesPresent (s : State) (h : W32) : Option Nat := if s.poolFrame (hPool h) then some (s.hbuf h).linesDone else none

/-- The pipe waits for the source lines of canvas line `y` that are not there yet (R22). -/
def State.lineSubs (s : State) (p y : Nat) : State :=
  s.each (s.layersUp p) fun t e => t.each (layerLines e.1 e.2 y) fun u q => u.subscribe (40 + p) (t.shownOf p e.1).handle q

/-- Every source line that canvas line `y` needs is present (R207). -/
def State.lineNeeds (s : State) (p y : Nat) : Bool :=
  (s.layersUp p).all fun e =>
    let x := s.shownOf p e.1
    x.handle == 0 || match s.linesPresent x.handle with
      | none => true
      | some k => (layerLines e.1 e.2 y).all fun q => decide (q < k)

/-- One layer's contribution to a pixel of canvas line `y`, none where it is transparent (R207, R208, R212, R216 to R218). -/
def State.layerPixel (s : State) (p : Nat) (e : Nat × Layer) (y cx : Nat) : Option (Rgb × Nat) :=
  let l := e.1
  let x := e.2
  let sh := s.shownOf p l
  if sh.handle = 0 || cx < x.dx || x.dx + x.dw ≤ cx || y < x.dy || x.dy + x.dh ≤ y then none
  else
    let k := (s.linesPresent sh.handle).getD (x.sy + x.sh)
    if k ≤ x.sy && !(layerLines l x y).all (fun q => decide (q < k)) then none
    else
      let sub (q : Nat) : Nat := if q < k then q else k - 1
      let src := s.srcOf x sh
      if 8 ≤ l then some (graphicAt s.hbmByte src (s.tab p l) x.shift x.alpha (x.sx + (cx - x.dx)) (sub (x.sy + (y - x.dy))))
      else
        let c := lutIn3 (s.tab p l) (scaledAt s.hbmByte src (s.tab p (0x10 + l)) (s.tab p (0x18 + l)) x.dw x.dh (cx - x.dx) (y - x.dy) k)
        some (premul (c.1 <<< x.shift, c.2.1 <<< x.shift, c.2.2 <<< x.shift) (alphaOf 1 1 x.alpha))

/-- The background, in the blend space (R218). -/
def State.background (s : State) (p : Nat) : Rgb :=
  (fld (s.live_ p 0x58) 15 0 <<< 8, fld (s.live_ p 0x58) 31 16 <<< 8, fld (s.live_ p 0x5C) 15 0 <<< 8)

/-- The codes of canvas line `y`; `bg` leaves the layers out (R230). -/
def State.canvasLine (s : State) (p y : Nat) (bg : Bool) : List Rgb :=
  let o := s.live_ p 0x54
  let ls := if bg then [] else s.layersUp p
  (List.range (canvasOf (s.pipe p).liveAt).1).map fun cx =>
    let v := (ls.filterMap fun e => s.layerPixel p e y cx).foldl blend3 (s.background p)
    outCodes (fld o 19 16) (fld o 21 20) (bitAt o 22) (outRgb (s.tab p 0x21) (s.tab p 0x20) v)

/-- What writing line `y` stores: segments of address and bytes; 4:2:0 chroma is written once the line below is known (R209, R220). -/
def State.lineStores (s : State) (p : Nat) (h : W32) (y : Nat) (l : List Rgb) (hist : List (List (Nat × Nat))) : List (Nat × List Byte) :=
  let o := s.live_ p 0x54
  let fmt := fld o 19 16
  let csc := fld o 21 20
  let (w, lines) := canvasOf (s.pipe p).liveAt
  let base := s.bufAddr h
  let st := defStride fmt w
  let luma := planeLine (l.map fun c => c.1)
  let cc := l.map fun c => c.2
  match fmt with
  | 3 =>
    let cb := base + st * lines
    let cr := cb + st / 2 * (lines / 2)
    let row (k : Nat) (a b c : List (Nat × Nat)) : List (Nat × List Byte) :=
      let v := (List.range (w / 2)).map fun i =>
        let (x, y, z) := (decimate2 a (2 * i), decimate2 b (2 * i), decimate2 c (2 * i))
        (decimate x.1 y.1 z.1, decimate x.2 y.2 z.2)
      [(cb + k * (st / 2), planeLine (v.map Prod.fst)), (cr + k * (st / 2), planeLine (v.map Prod.snd))]
    (base + y * st, luma) :: (if y % 2 = 1 then row (y / 2) (hist.getD 1 (hist.getD 0 cc)) (hist.getD 0 cc) cc else [])
  | 4 =>
    let cb := base + st * lines
    let v := (List.range (w / 2)).map fun i => decimate2 cc (2 * i)
    [(base + y * st, luma), (cb + y * (st / 2), planeLine (v.map Prod.fst)), (cb + st / 2 * lines + y * (st / 2), planeLine (v.map Prod.snd))]
  | 5 => [(base + y * st, luma), (base + st * lines + y * st, planeLine (cc.map Prod.fst)), (base + 2 * st * lines + y * st, planeLine (cc.map Prod.snd))]
  | _ => [(base + y * st, pgLine fmt csc l)]

/-- Sources whose last line the picture has read are released: bound layers with HOLD = 0 (R211). -/
def State.sourcesRead (s : State) (p y : Nat) (last : Bool) : State :=
  s.each (s.layersUp p) fun t e =>
    let x := t.shownOf p e.1
    if e.2.bind ≠ 0 && !e.2.hold && x.held && (last || decide (e.2.dy + e.2.dh ≤ y + 1)) then
      (if t.heldElse p e.1 x.handle then t else (t.poolRelease (40 + p) x.handle).1).setShown p e.1 { x with held := false }
    else t

/-- The next line of the picture in progress is written; the last completes it (R207, R229). -/
def State.lineOut (s : State) (p : Nat) (bg : Bool) : State :=
  match (s.pipe p).picture with
  | none => s
  | some (h, y, t) =>
    let lines := (canvasOf (s.pipe p).liveAt).2
    let l := s.canvasLine p y bg
    let x := s.pipe p
    let s := s.each (s.lineStores p h y l x.hist) fun u e => u.hbmWrite e.1 e.2 false
    let last := decide (lines ≤ y + 1)
    let s := s.setPipe p { s.pipe p with picture := (if last then none else some (h, y + 1, t)), hist := if last then [] else (l.map fun c => c.2) :: x.hist.take 1 }
    let s := s.linesDone (40 + p) h (y + 1) last
    let s := s.sourcesRead p y last
    if last then ((s.poolRelease (40 + p) h).1).inc (CMP_PICS p) else s

/-- A line whose sources are late is written with what is there, and counted (R207). -/
def State.lineLate (s : State) (p : Nat) : State :=
  match (s.pipe p).picture with
  | none => s
  | some (_, y, _) =>
    if s.lineNeeds p y then s.lineOut p false
    else (((s.satF (CMP_LATE p) 31 0).event (pgCMP p) 4)).lineOut p false

/-- The rest of the picture in progress, at most `k` lines. -/
def State.linesRest (s : State) (p : Nat) (bg : Bool) : Nat → State
  | 0 => s
  | k + 1 => if (s.pipe p).picture.isNone then s else (if bg then s.lineOut p true else s.lineLate p).linesRest p bg k

/-! A flip point (R206, R224, R229). -/

/-- Encode sessions bound to the pipe. -/
def State.pipeSessions (s : State) (p : Nat) : List Nat :=
  s.sessions.filterMap fun e => if e.2.phase = .opened ∧ kindOf e.2.desc = 0 ∧ leAt e.2.desc 0x18 1 = 1 ∧ leAt e.2.desc 0x19 1 = p then some e.1 else none

/-- Capture time of the output picture (R23). -/
def State.pipeCapture (s : State) (p : Nat) : PtpTime :=
  let l := s.f (CMP_TIMING p) 7 4
  let x := s.shownOf p l
  if 8 ≤ l || x.handle = 0 then s.mtc.time else (s.hbuf x.handle).capture

/-- The output buffer of the new picture (R229). -/
def State.pipeAlloc (s : State) (p : Nat) : State :=
  let o := s.live_ p 0x54
  if !bitAt o 6 then s
  else
    let ns := s.pipeSessions p
    let flow := bitAt o 7
    let a := s.poolAlloc (40 + p) (fld o 5 0) ((40 + p, 1 + b2n flow) :: ns.map fun n => (s.sessAgent n, 1))
    match a.2 with
    | .ok h _ =>
      let s := a.1
      let t := s.pipeCapture p
      let s := s.setHbuf h { s.hbuf h with capture := t }
      let (w, lines) := canvasOf (s.pipe p).liveAt
      let fmt := fld o 19 16
      let s := s.setPipe p { s.pipe p with picture := some (h, 0, s.mtc.time), hist := [] }
      let s := s.each ns fun u n => u.encSource n h t (w, lines, fmt)
      let f := fld o 14 8
      if flow then
        if (s.txf f).bound = some (40 + p) then
          s.setTxf f { s.txf f with offers := (s.txf f).offers ++ [{ handle := h, agent := 40 + p, width := w, height := lines, fmt := fmt, chroma := (if fmt = 3 then 1 else if fmt = 0 ∨ fmt = 4 then 2 else 3), depth := fmtDepth fmt, rgb := fld o 21 20 == 0, capture := t }] }
        else ((s.poolRelease (40 + p) h).1).event (pgMPE (f / 16)) 9
      else s
    | _ => a.1.event (pgCMP p) 3

/-- The pipe accepts work: enabled, its clock running, not tripped (R55, R563). -/
def State.pipeRuns (s : State) (p : Nat) : Bool :=
  s.clocked && s.bit (hCTL (pgCMP p)) 0 && !s.busy (pgCMP p) && s.domainOn (41 + p) && !(s.pipe p).tripped

/-- The flip point: the picture in progress ends, fences are read once, groups decide in order, layers latch, the new picture begins. Lines of the picture in progress that are still owed are finished at once; R207 does not say what becomes of them (DESIGN CHOICE, log entry 113). -/
def State.flipNow (s : State) (p : Nat) : State :=
  let s := s.linesRest p false 8640
  let t := s.mtc.time
  let ms := ((span 0 4).filter fun g => (s.group p g).pending).map (s.membersOf p)
  let reads := ms.flatten.map fun m => (m, s.fenceRead p m)
  let s := { s with fresh := s.fresh + 34 }
  let bad := reads.countP fun r => r.2 == .failed
  let s := if bad = 0 then s else (s.satF (CMP_FENCE_ERR p) 31 0 bad).event (pgCMP p) 6
  let unmet := (reads.filter fun r => r.2 != .met).map Prod.fst
  let s := s.each (span 0 4) fun u g => u.groupDecide p g unmet t
  let s := (s.layersLatch p).pipeAlloc p
  if (s.pipe p).picture.isNone then s.sourcesRead p 0 true else s

/-- The timing layer of a LOCKED pipe has a new picture to latch. -/
def State.timingReady (s : State) (p : Nat) : Bool :=
  let l := s.f (CMP_TIMING p) 7 4
  decide (l < 8) && (layerOf (s.pipe p).liveAt l).en && (s.newPicture (layerOf (s.pipe p).liveAt l)).isSome

/-! The end of output (R230). -/

/-- Output ends: sources are released, pending groups are cancelled. -/
def State.pipeClose (s : State) (p : Nat) : State :=
  let s := s.each (span 0 16) fun t l => t.shownDrop p l
  s.each (span 0 4) fun t g => t.groupCancel p g

/-- ABORT: the remaining lines are written with the background at once. -/
def State.pipeAbort (s : State) (p : Nat) : State := (s.linesRest p true 8640).pipeClose p

/-! Commands. -/

/-- FLIP_POINT (R206, R224): in PTP mode the media time counter must run; in LOCKED mode the timing layer has a new picture. -/
def execFlipPoint (pipe : PipeId) (s : State) : Out :=
  .next (let p := pipe.val
    if !s.pipeRuns p then s
    else if s.bit (CMP_TIMING p) 0 then (if s.timingReady p then s.flipNow p else s)
    else if s.mtcOn then s.flipNow p else s.event (pgCMP p) 8)

/-- FREEWHEEL_FLIP (R206, R210, R241). -/
def execFreewheelFlip (pipe : PipeId) (s : State) : Out :=
  .next (let p := pipe.val
    if s.pipeRuns p && s.bit (CMP_TIMING p) 0 && !s.timingReady p then (s.event (pgCMP p) 7).flipNow p else s)

/-- The pipe works on a picture: enabled, or draining its last one (R230). -/
def State.pipeBusy (s : State) (p : Nat) : Bool := s.clocked && !s.busy (pgCMP p) && s.domainOn (41 + p)

/-- A line of the picture in progress; the end of the last picture of a drained pipe closes it (R230). -/
def State.lineStep (s : State) (p : Nat) (f : State → State) : State :=
  if !s.pipeBusy p || (s.pipe p).picture.isNone then s
  else
    let s := f s
    if (s.pipe p).picture.isNone && s.inDrain (pgCMP p) then (s.pipeClose p).setDrain (pgCMP p) false else s

/-- CANVAS_LINE_WRITE (R207): the next line, once its source lines are present. -/
def execCanvasLineWrite (pipe : PipeId) (s : State) : Out :=
  .next (s.lineStep pipe.val fun s =>
    match (s.pipe pipe.val).picture with
    | some (_, y, _) => if s.lineNeeds pipe.val y then s.lineOut pipe.val false else s.lineSubs pipe.val y
    | none => s)

/-- LATE_LINE (R207): the next line at its deadline. -/
def execLateLine (pipe : PipeId) (s : State) : Out := .next (s.lineStep pipe.val fun s => s.lineLate pipe.val)

/-- GROUP_ARM (R222). -/
def execGroupArm (who : Who) (pipe : PipeId) (group : GroupId) (s : State) : Out :=
  .next (s.access who (pgCMP pipe.val) fun s => (s.groupArm pipe.val group.val none).1)

/-- GROUP_CANCEL (R222). -/
def execGroupCancel (who : Who) (pipe : PipeId) (group : GroupId) (s : State) : Out :=
  .next (s.access who (pgCMP pipe.val) fun s => s.groupCancel pipe.val group.val)

/-- The code that ends a composer job whose pipe cannot be reached (R19, R266). -/
def State.pipeAbsent (s : State) (p : Nat) : Option Nat :=
  if s.gated (pgCMP p) then some 0x40 else if s.busy (pgCMP p) then some 0x41 else none

/-- FLIP (R228, R261). -/
def execFlip (r : RingId) (s : State) : Out :=
  .next (s.withJob r.val 6 (fun _ => true) fun s j b =>
    let p := leAt b 0x10 1
    let g := leAt b 0x11 1
    let body := [(0x08, leBytes 1 p), (0x09, leBytes 1 g)]
    match s.pipeAbsent p with
    | some c => s.finishJob j 0 body c
    | none =>
      if (s.group p g).pending then (s.event (pgCMP p) 9).finishJob j 0 body 0x11
      else
        let s := if leAt b 0x12 2 = 0 then s else s.setF (GRP_CTL p g) 23 8 (leAt b 0x12 2)
        let s := s.setReg (GRP_MEMBERS p g) (BitVec.ofNat 32 (leAt b 0x14 4))
        let a := s.groupArm p g (some j)
        if a.2 then a.1 else a.1.finishJob j 0 body 0x11)

/-- An entry of a COMPOSE_CONFIG list: page selector, offset, value (R260). -/
def entryOf (b : List Byte) (k : Nat) : Nat × Nat × W32 := (leAt b (8 * k) 2, leAt b (8 * k + 2) 2, BitVec.ofNat 32 (leAt b (8 * k + 4) 4))

/-- What bars an entry: 0x21 outside the allowed set, 0x12 locked, 0 nothing (R260). The state is the one earlier entries would leave. -/
def State.entryCheck (s : State) (p : Nat) (e : Nat × Nat × W32) : Nat :=
  let off := e.2.1
  if off % 4 ≠ 0 ∨ 16 < e.1 then 0x21
  else if e.1 = 0 then
    match cmpMember off with
    | some m => if m < 16 ∧ 0x30 ≤ off % 0x40 then 0x21 else if s.locked p m then 0x12 else 0
    | none => if 0x100 ≤ off ∧ off < 0x140 ∧ off % 0x10 = 0 ∧ !(s.group p ((off - 0x100) / 0x10)).pending then 0 else 0x21
  else if off = 0x40 then 0
  else if 0x800 ≤ off ∧ off < 0x1000 then
    if s.locked p (tabMember (s.f (CLT_SEL (16 * p + (e.1 - 1))) 7 0)) then 0x12 else 0
  else 0x21

/-- The write of an entry. -/
def State.entryWrite (s : State) (p : Nat) (e : Nat × Nat × W32) : State :=
  if e.1 = 0 then s.cmpWrite p e.2.1 e.2.2
  else if e.2.1 = 0x40 then s.rawWrite (CLT_SEL (16 * p + (e.1 - 1))) e.2.2
  else s.cltWrite p (e.1 - 1) ((e.2.1 - 0x800) / 4) e.2.2

/-- Entries from `k` on, `n` of them: the state after all, or the first barred entry with its code. -/
def State.entriesRun (s : State) (p : Nat) (b : List Byte) : Nat → Nat → Sum State (Nat × Nat)
  | _, 0 => .inl s
  | k, n + 1 =>
    let e := entryOf b k
    let c := s.entryCheck p e
    if c ≠ 0 then .inr (k, c) else (s.entryWrite p e).entriesRun p b (k + 1) n

/-- COMPOSE_CONFIG (R260, R270). -/
def execComposeConfig (r : RingId) (s : State) : Out :=
  .next (s.withJob r.val 5 (fun b => !s.jobHostWaits r.val (leAt b 0x11 1 == 0)) fun s j b =>
    let p := leAt b 0x10 1
    let n := leAt b 0x12 2
    let body (w f : Nat) : List (Nat × List Byte) := [(0x08, leBytes 2 w), (0x0A, leBytes 2 f)]
    let x := s.jobRead r.val (leAt b 0x11 1 == 1) (leAt b 0x18 8) (8 * n)
    let s := s.jobReadCount (leAt b 0x11 1 == 1) (leAt b 0x18 8) (8 * n)
    if x.1 ≠ 0 then s.finishJob j 0 (body 0 0xFFFF) x.1
    else match s.pipeAbsent p with
      | some c => s.finishJob j 0 (body 0 0xFFFF) c
      | none =>
        match s.entriesRun p x.2 0 n with
        | .inl t => t.finishJob j 0 (body n 0xFFFF) 0
        | .inr e => s.finishJob j 0 (body 0 e.1) e.2)

end Sys2Proof.Machine
end

