-- ==== Sys2Proof/Machine/Ether.lean ====
section
/-! DEFINITION. The wire formats of the media packet engines (14_network_media.md R416, R422, R426, R429, R435 to R438): Ethernet frames, IP and UDP, RTP, sample row data headers, and the payloads of coded streams. The layouts are those of the standards that the rules name (PRESUMED, log entry 29). -/

namespace Sys2Proof.Machine

def byteAt (b : List Byte) (i : Nat) : Nat := (b.getD i 0).toNat
def byteOf (n : Nat) : Byte := BitVec.ofNat 8 n

/-! Checksums (R416, R422). -/

/-- One's complement sum of 16-bit words, folded. -/
def ipSum (b : List Byte) : Nat :=
  let rec go : List Byte → Nat
    | x :: y :: t => x.toNat * 256 + y.toNat + go t
    | [x] => x.toNat * 256
    | [] => 0
  let n := go b
  let m := n % 65536 + n / 65536
  let m := m % 65536 + m / 65536
  m % 65536 + m / 65536

/-- A UDP frame with its checksum made right; another frame as it is (R422). -/
def udpFix (b : List Byte) : List Byte :=
  let l := if beNat (slice b 12 2) = 0x8100 then 4 else 0
  let ty := beNat (slice b (12 + l) 2)
  let ip := 14 + l
  let fix (u : Nat) (pseudo : List Byte) : List Byte :=
    let len := beNat (slice b (u + 4) 2)
    let c := putAt b (u + 6) [0, 0]
    let m := 65535 - ipSum (pseudo ++ [0, 17] ++ beBytes 2 len ++ slice c u len)
    putAt b (u + 6) (beBytes 2 (if m = 0 then 65535 else m))
  if ty = 0x0800 ∧ byteAt b (ip + 9) = 17 then fix (ip + 4 * (byteAt b ip % 16)) (slice b (ip + 12) 8)
  else if ty = 0x86DD ∧ byteAt b (ip + 6) = 17 then fix (ip + 40) (slice b (ip + 8) 32)
  else b

/-! Received frames (R416, R417). -/

/-- VLAN tags from the type field on; at most `k` are counted. -/
def tagCount : Nat → List Byte → Nat
  | 0, _ => 0
  | k + 1, b => if beNat (b.take 2) = 0x8100 ∨ beNat (b.take 2) = 0x88A8 then 1 + tagCount k (b.drop 4) else 0

def frameMac (fr : Frame) : List Byte := fr.bytes.take 6
def frameTags (fr : Frame) : Nat := tagCount 3 (fr.bytes.drop 12)
def frameVid (fr : Frame) : Nat := beNat (slice fr.bytes 14 2) % 4096
/-- The frame's type field, behind its tags, and what follows it. -/
def frameType (fr : Frame) : Nat := beNat (slice fr.bytes (12 + 4 * frameTags fr) 2)
def frameBody (fr : Frame) : List Byte := fr.bytes.drop (14 + 4 * frameTags fr)
/-- A PAUSE or a priority flow control frame (R415). -/
def framePause (fr : Frame) : Bool := frameType fr == 0x8808 && (let op := beNat ((frameBody fr).take 2); op == 0x0001 || op == 0x0101)

/-- An IP address as sixteen octets, IPv4 as ::ffff:a.b.c.d (R441). -/
def ip16 (a : List Byte) : List Byte := if a.length = 4 then List.replicate 10 0 ++ [0xFF, 0xFF] ++ a else a

/-- A UDP packet inside a frame: destination address, destination port, whether its checks pass, and its payload. -/
structure UdpIn where
  dst : List Byte
  port : Nat
  good : Bool
  payload : List Byte
  deriving DecidableEq, Repr

/-- A UDP packet of an IP packet whose addresses are given. -/
def udpIn (pseudo dst : List Byte) (headGood needSum : Bool) (u : List Byte) : UdpIn :=
  let len := beNat (slice u 4 2)
  let sum := beNat (slice u 6 2)
  let whole := decide (8 ≤ len ∧ len ≤ u.length)
  let summed := if sum = 0 then !needSum else ipSum (pseudo ++ [0, 17] ++ beBytes 2 len ++ u.take len) == 65535
  { dst := ip16 dst, port := beNat (slice u 2 2), good := headGood && whole && summed, payload := slice u 8 (len - 8) }

/-- The UDP packet of a frame that a flow may match: never of a fragment, of IPv4 with options or of IPv6 with extension headers (R416). -/
def frameUdp (fr : Frame) : Option UdpIn :=
  let b := frameBody fr
  if frameType fr = 0x0800 then
    if byteAt b 0 = 0x45 ∧ beNat (slice b 6 2) % 16384 = 0 ∧ byteAt b 9 = 17 then
      some (udpIn (slice b 12 8) (slice b 16 4) (ipSum (b.take 20) == 65535) false (slice b 20 (beNat (slice b 2 2) - 20)))
    else none
  else if frameType fr = 0x86DD then
    if byteAt b 0 / 16 = 6 ∧ byteAt b 6 = 17 then some (udpIn (slice b 8 32) (slice b 24 16) true true (slice b 40 (beNat (slice b 4 2)))) else none
  else none

/-- Sample row data headers, at most `k`, each as length, row and offset, and the data behind them; none when more follow or the packet ends. -/
def rowHeads : Nat → List Byte → Option (List (Nat × Nat × Nat) × List Byte)
  | 0, _ => none
  | k + 1, b =>
    if b.length < 6 then none
    else
      let e := (beNat (slice b 0 2), beNat (slice b 2 2) % 32768, beNat (slice b 4 2) % 32768)
      if beNat (slice b 4 2) < 32768 then some ([e], b.drop 6) else (rowHeads k (b.drop 6)).map fun r => (e :: r.1, r.2)

/-- The data of each header in turn. -/
def rowData : List (Nat × Nat × Nat) → List Byte → Option (List RowHeader)
  | [], _ => some []
  | (n, row, off) :: t, b => if b.length < n then none else (rowData t (b.drop n)).map fun r => { row := row, offset := off, bytes := b.take n } :: r

/-- The rows of an ST 2110-20 payload behind its extended sequence number. One whose headers are malformed reads as more headers than a packet may carry (R431). -/
def rowsOf (b : List Byte) : List RowHeader :=
  ((rowHeads 3 b).bind fun r => rowData r.1 r.2).getD (List.replicate 4 { row := 0, offset := 0, bytes := [] })

/-- The packet that RTP bytes spell: `video` for ST 2110-20, whose payload begins with the upper half of the sequence number (R429). -/
def rtpIn (video good : Bool) (b : List Byte) : MediaPacket :=
  let csrc := 12 + 4 * (byteAt b 0 % 16)
  let head := csrc + (if byteAt b 0 / 16 % 2 = 1 then 4 + 4 * beNat (slice b (csrc + 2) 2) else 0)
  let pad := if byteAt b 0 / 32 % 2 = 1 then byteAt b (b.length - 1) else 0
  let pay := slice b head (b.length - head - pad)
  let low := beNat (slice b 2 2)
  { seq := if video then beNat (pay.take 2) * 65536 + low else low, timestamp := BitVec.ofNat 32 (beNat (slice b 4 4)),
    marker := byteAt b 1 / 128 == 1, payloadType := byteAt b 1 % 128,
    good := good && byteAt b 0 / 64 == 2 && decide (head + pad + b2n video * 2 ≤ b.length),
    rows := if video then rowsOf (pay.drop 2) else [], units := [pay] }

/-! Frames sent (R416, R427, R438). -/

/-- An address of sixteen octets that holds an IPv4 address. -/
def isV4 (ip : List Byte) : Bool := ip.take 12 == List.replicate 10 0 ++ [0xFF, 0xFF]

/-- The MAC address of a multicast group; none for a unicast address (R438). -/
def groupMac (ip : List Byte) : Option (List Byte) :=
  if isV4 ip then
    (if byteAt ip 12 / 16 = 14 then some [0x01, 0x00, 0x5E, byteOf (byteAt ip 13 % 128), byteOf (byteAt ip 14), byteOf (byteAt ip 15)] else none)
  else if byteAt ip 0 = 0xFF then some ([0x33, 0x33] ++ ip.drop 12)
  else none

/-- What a UDP/IP frame of a flow is made of. `ident`, `ttl` and `label` are the header fields that the manual leaves open (log entry 130). -/
structure UdpOut where
  dstMac : List Byte
  srcMac : List Byte
  /-- PCP and VID of a tagged flow -/
  tag : Option (Nat × Nat)
  src4 : List Byte
  src6 : List Byte
  dst : List Byte
  dscp : Nat
  sport : Nat
  dport : Nat
  ident : Nat
  ttl : Byte
  label : Nat
  payload : List Byte
  deriving DecidableEq, Repr

/-- One's complement of a header's sum. -/
def ipCheck (b : List Byte) : List Byte := beBytes 2 (65535 - ipSum b)

/-- The frame, without its FCS, padded to the shortest that Ethernet allows. -/
def udpFrame (u : UdpOut) : List Byte :=
  let v4 := isV4 u.dst
  let n := 8 + u.payload.length
  let udp := beBytes 2 u.sport ++ beBytes 2 u.dport ++ beBytes 2 n ++ [0, 0] ++ u.payload
  let ip :=
    if v4 then
      let h (c : List Byte) : List Byte := [0x45, byteOf (4 * u.dscp)] ++ beBytes 2 (20 + n) ++ beBytes 2 u.ident ++ [0, 0, u.ttl, 17] ++ c ++ u.src4 ++ u.dst.drop 12
      h (ipCheck (h [0, 0]))
    else beBytes 4 (6 * 2 ^ 28 + 4 * u.dscp * 2 ^ 20 + u.label % 2 ^ 20) ++ beBytes 2 n ++ [17, u.ttl] ++ u.src6 ++ u.dst
  let tag := u.tag.elim [] fun t => [0x81, 0x00] ++ beBytes 2 (t.1 * 8192 + t.2)
  let b := udpFix (u.dstMac ++ u.srcMac ++ tag ++ (if v4 then [0x08, 0x00] else [0x86, 0xDD]) ++ ip ++ udp)
  b ++ List.replicate (60 - b.length) 0

/-- Payload header of ST 2110-20: the extended sequence number and one sample row data header (R429, R435; PRESUMED layout, log entry 29). -/
def rowHeaderBytes (seq len row offset : Nat) : List Byte := beBytes 2 (seq / 65536) ++ beBytes 2 len ++ beBytes 2 row ++ beBytes 2 offset

/-! Payloads of ST 2110-22 (R426), received. The formats are those of the documents that R426 names (PRESUMED, log entry 29). -/

/-- A piece of a payload: a whole unit, or a fragment. -/
structure Frag where
  first : Bool
  last : Bool
  bytes : List Byte
  deriving DecidableEq, Repr

/-- Units behind 16-bit sizes: STAP-A and the aggregation packets. None when a size runs past the end. -/
def aggUnits : Nat → List Byte → Option (List Frag)
  | 0, b => if b.isEmpty then some [] else none
  | k + 1, b =>
    if b.isEmpty then some []
    else
      let n := beNat (b.take 2)
      if b.length < 2 + n || n = 0 then none
      else (aggUnits k (b.drop (2 + n))).map fun r => { first := true, last := true, bytes := slice b 2 n } :: r

/-- A leb128 number: its value and its length; none past eight bytes. -/
def leb128 : Nat → List Byte → Nat → Option (Nat × Nat)
  | 0, _, _ => none
  | k + 1, b, i =>
    match b with
    | [] => none
    | x :: t =>
      if x.toNat < 128 then some (x.toNat * 2 ^ (7 * i), i + 1)
      else (leb128 k t (i + 1)).map fun r => (x.toNat % 128 * 2 ^ (7 * i) + r.1, r.2)

/-- OBU elements of an AV1 payload: `w` elements with the last without a length, or all with lengths when `w` is 0. -/
def obuElements (w : Nat) : Nat → Nat → List Byte → Option (List (List Byte))
  | 0, _, b => if b.isEmpty then some [] else none
  | k + 1, i, b =>
    if b.isEmpty then (if w = 0 ∨ i = w then some [] else none)
    else if w ≠ 0 ∧ i + 1 = w then some [b]
    else match leb128 8 b 0 with
      | none => none
      | some (n, l) => if b.length < l + n then none else (obuElements w k (i + 1) (b.drop (l + n))).map fun r => slice b l n :: r

/-- The pieces of a payload; none for a format that receive does not accept (R426). -/
def fragsOf (codec : Nat) (b : List Byte) : Option (List Frag) :=
  let whole : Option (List Frag) := some [{ first := true, last := true, bytes := b }]
  let b0 := byteAt b 0
  let b1 := byteAt b 1
  let b2 := byteAt b 2
  match codec with
  | 0 =>
    let t := b0 % 32
    if 1 ≤ t ∧ t ≤ 23 then whole
    else if t = 24 then aggUnits b.length (b.drop 1)
    else if t = 28 ∧ 2 ≤ b.length then
      let s := 128 ≤ b1
      some [{ first := s, last := b1 / 64 % 2 == 1, bytes := (if s then [byteOf (b0 / 32 * 32 + b1 % 32)] else []) ++ b.drop 2 }]
    else none
  | 1 =>
    let t := b0 / 2 % 64
    if b.length < 2 then none
    else if t < 48 then whole
    else if t = 48 then aggUnits b.length (b.drop 2)
    else if t = 49 ∧ 3 ≤ b.length then
      let s := 128 ≤ b2
      some [{ first := s, last := b2 / 64 % 2 == 1, bytes := (if s then [byteOf (b0 / 128 * 128 + b2 % 64 * 2 + b0 % 2), byteOf b1] else []) ++ b.drop 3 }]
    else none
  | 2 =>
    let t := b1 / 8
    if b.length < 2 then none
    else if t = 28 then aggUnits b.length (b.drop 2)
    else if t = 29 then
      if b.length < 3 then none
      else
        let s := 128 ≤ b2
        some [{ first := s, last := b2 / 64 % 2 == 1, bytes := (if s then [byteOf b0, byteOf (b2 % 32 * 8 + b1 % 8)] else []) ++ b.drop 3 }]
    else whole
  | _ =>
    match obuElements (b0 / 16 % 4) b.length 0 (b.drop 1) with
    | none => none
    | some es =>
      if b.isEmpty || es.isEmpty then none
      else some ((List.range es.length).map fun i =>
        { first := i != 0 || b0 < 128, last := i + 1 != es.length || b0 / 64 % 2 == 0, bytes := es.getD i [] })

/-! Payloads of ST 2110-22 (R426), sent. -/

/-- Positions of the 4-byte start codes (R259). -/
def startCodes : Nat → List Byte → List Nat
  | _, [] => []
  | i, x :: t => if x = 0 ∧ t.take 3 = [0, 0, 1] then i :: startCodes (i + 1) t else startCodes (i + 1) t

/-- The NAL units between start codes: first byte and length. -/
def nalSpans (n : Nat) : List Nat → List (Nat × Nat)
  | [] => []
  | i :: t => (i + 4, t.headD n - (i + 4)) :: nalSpans n t

/-- An OBU as it is sent: its header without the size field, its extension byte, and where its payload lies. -/
structure ObuOut where
  head : List Byte
  at_ : Nat
  first : Nat
  len : Nat
  deriving DecidableEq, Repr

/-- The OBUs of a low-overhead stream, from byte `i` on, temporal delimiters left out; bytes that spell no OBU size are taken as one to the end. At most `k`. -/
def obuOuts : Nat → Nat → List Byte → List ObuOut
  | 0, _, _ => []
  | _ + 1, _, [] => []
  | k + 1, i, x :: t =>
    let ext := x.toNat / 4 % 2
    let head := byteOf (x.toNat - x.toNat / 2 % 2 * 2) :: t.take ext
    match if x.toNat / 2 % 2 = 1 then leb128 8 (t.drop ext) 0 else none with
    | none => [{ head := head, at_ := i, first := i + 1 + ext, len := t.length - ext }]
    | some (n, l) =>
      let rest := obuOuts k (i + 1 + ext + l + n) (t.drop (ext + l + n))
      if x.toNat / 8 % 16 = 2 then rest else { head := head, at_ := i, first := i + 1 + ext + l, len := n } :: rest

/-- A packet's payload: what it begins with, the stream bytes that follow it, and the stream byte from which its words are read. -/
structure Piece where
  head : List Byte
  from_ : Nat
  at_ : Nat
  len : Nat
  deriving DecidableEq, Repr

/-- A run of `n` bytes at `at_` in pieces of `m`; `head` has the first and last piece's marks. -/
def cutPieces (head : Bool → Bool → List Byte) (first at_ n m : Nat) : List Piece :=
  let k := ceilDiv n (max 1 m)
  (List.range k).map fun i =>
    { head := head (i == 0) (i + 1 == k), from_ := if i = 0 then first else at_ + i * max 1 m, at_ := at_ + i * max 1 m, len := min (max 1 m) (n - i * max 1 m) }

/-- The pieces of a NAL unit: whole when it fits in `n` bytes, else fragmentation units (FU-A of AVC, FU of HEVC and VVC). -/
def nalPieces (codec n : Nat) (b : List Byte) (u : Nat × Nat) : List Piece :=
  if u.2 ≤ n then [{ head := [], from_ := u.1, at_ := u.1, len := u.2 }]
  else
    let h0 := byteAt b u.1
    let h1 := byteAt b (u.1 + 1)
    let mark (s e : Bool) : Nat := b2n s * 128 + b2n e * 64
    match codec with
    | 0 => cutPieces (fun s e => [byteOf (h0 / 32 * 32 + 28), byteOf (mark s e + h0 % 32)]) u.1 (u.1 + 1) (u.2 - 1) (n - 2)
    | 1 => cutPieces (fun s e => [byteOf (h0 / 128 * 128 + 49 * 2 + h0 % 2), byteOf h1, byteOf (mark s e + h0 / 2 % 64)]) u.1 (u.1 + 2) (u.2 - 2) (n - 3)
    | _ => cutPieces (fun s e => [byteOf h0, byteOf (29 * 8 + h1 % 8), byteOf (mark s e + h1 / 8)]) u.1 (u.1 + 2) (u.2 - 2) (n - 3)

/-- The pieces of an OBU behind the aggregation header: one element, whole or fragmented; `newSeq` begins a coded video sequence. -/
def obuPieces (n : Nat) (newSeq : Bool) (o : ObuOut) : List Piece :=
  let agg (z y s : Bool) : List Byte := [byteOf (b2n z * 128 + b2n y * 64 + 16 + b2n (newSeq && s) * 8)]
  let hl := o.head.length
  if 1 + hl + o.len ≤ n then [{ head := agg false false true ++ o.head, from_ := o.at_, at_ := o.first, len := o.len }]
  else
    let m0 := n - 1 - hl
    { head := agg false true true ++ o.head, from_ := o.at_, at_ := o.first, len := m0 } ::
      cutPieces (fun _ e => agg true (!e) false) (o.first + m0) (o.first + m0) (o.len - m0) (n - 1)

/-- The packets of a slice (R426, R437), each of at most `n` bytes; `newSeq`: it opens a coded video sequence of AV1. -/
def slicePieces (codec n : Nat) (newSeq : Bool) (b : List Byte) : List Piece :=
  if codec = 3 then
    let os := obuOuts b.length 0 b
    ((List.range os.length).map fun i => obuPieces n (newSeq && i == 0) (os.getD i ⟨[], 0, 0, 0⟩)).flatten
  else
    let st := startCodes 0 b
    let lead := st.headD b.length
    (((0, lead) :: nalSpans b.length st).filter fun u => u.2 != 0).flatMap (nalPieces codec n b)

/-- The payload of a piece. -/
def pieceBytes (b : List Byte) (p : Piece) : List Byte := p.head ++ slice b p.at_ p.len
/-- A data word of 32 bytes that a piece carries. -/
def pieceWord (p : Piece) (w : Nat) : Bool := decide (32 * w < p.at_ + p.len ∧ p.from_ < 32 * w + 32)

end Sys2Proof.Machine
end

