-- ==== Sys2Proof/Machine/Media.lean ====
section
/-! DEFINITION. Media packet engines (14_network_media.md R415 to R451): receive flows with the ST 2022-7 merge, transmit flows, their enables, and the host's frames. -/

namespace Sys2Proof.Machine

/-! Engines, ports and times. -/

/-- Agent of the engine of flow `f`. -/
def mpeAgent (f : Nat) : Nat := 44 + f / 16

/-- The engine is clocked and not resetting. -/
def State.engineUp (s : State) (e : Nat) : Bool := s.clocked && s.domainOn (91 + e) && !s.busy (pgMPE e)

/-- Mode of a port (R452): 0 CASTLE, 1 DOWN, 2 NATIVE, 3 ETHERNET. -/
def State.portMode (s : State) (n : Nat) : Nat := s.f (TPT_MODE n) 1 0
/-- The port's link is up. -/
def State.portUp (s : State) (n : Nat) : Bool := s.bit (TPT_LINK n) 0 && !s.gated (pgTPT n)
/-- An Ethernet link that is up. -/
def State.etherUp (s : State) (n : Nat) : Bool := s.portMode n == 3 && s.portUp n

/-- A flow runs: its EN and its engine's (R428). -/
def State.rxRuns (s : State) (f : Nat) : Bool := s.engineUp (f / 16) && s.bit (hCTL (pgMPE (f / 16))) 0 && s.bit (RXF_CTL f) 0
def State.txRuns (s : State) (f : Nat) : Bool := s.engineUp (f / 16) && s.bit (hCTL (pgMPE (f / 16))) 0 && s.bit (TXF_CTL f) 0

/-- Capture time of a received RTP timestamp: the largest k that equals it modulo 2^32 and lies no later than a second from now (R430). -/
def captureOf (ts : W32) (now : PtpTime) : PtpTime :=
  let top : Int := (now.sec.toNat + 1 : Nat) * 90000 + (min 89999 ((9 * (now.ns.toNat + 1) - 1) / 100000) : Nat)
  let k : Int := top - (top - (ts.toNat : Int)) % 4294967296
  { sec := BitVec.ofInt 48 (k / 90000), ns := BitVec.ofNat 32 ((k % 90000).toNat * 100000 / 9) }

/-- The RTP timestamp of a capture time (R430). -/
def rtpOf (t : PtpTime) : W32 := BitVec.ofNat 32 (t.sec.toNat * 90000 + t.ns.toNat * 9 / 100000)

/-! Sequence numbers (R429). -/

/-- `a` lies before `b` among 32-bit sequence numbers. -/
def seqBefore (a b : Nat) : Bool :=
  let d := (b + 2 ^ 32 - a % 2 ^ 32) % 2 ^ 32
  decide (0 < d ∧ d < 2 ^ 31)

/-- A 16-bit number extended on arrival: the nearest to the highest seen. -/
def seqExtend (next seq : Nat) : Nat :=
  if next = 0 then seq
  else
    let h := next - 1
    let d := (seq + 65536 - h % 65536) % 65536
    if d < 32768 then (h + d) % 2 ^ 32 else (h + 2 ^ 32 + d - 65536) % 2 ^ 32

/-- RXC_SKEW after a second copy: the delay of path B behind path A (R429, R442). -/
def State.skewNote (s : State) (f : Nat) (first : RxUsed) (pathB : Bool) : State :=
  let d := (if pathB then s.uptime - first.us else first.us - s.uptime).toInt
  let s := s.setF (RXC_SKEW f) 15 0 (unsignedOf 16 (clampInt (-32768) 32767 d))
  s.setF (RXC_SKEW f) 31 16 (max (s.f (RXC_SKEW f) 31 16) (min d.natAbs 65535))

/-- A good packet's number on its way through the merge: the state, and whether this copy is used (R429). A jump ahead makes the numbers between missing. -/
def State.rxMerge (s : State) (f n : Nat) (pathB : Bool) : State × Bool :=
  let x := s.rxf f
  let u : RxUsed := { num := n, pathB := pathB, us := s.uptime }
  if x.next = 0 then (s.setRxf f { x with next := n + 1, used := [u], closed := n, expect := n }, true)
  else if n = x.next % 2 ^ 32 ∨ seqBefore x.next n then
    let gap := (n + 2 ^ 32 - x.next % 2 ^ 32) % 2 ^ 32
    (s.setRxf f { x with next := n + 1, missing := x.missing ++ (span x.next gap).map (· % 2 ^ 32), used := x.used ++ [u] }, true)
  else if x.missing.contains n && !seqBefore n x.closed then
    (s.setRxf f { x with missing := x.missing.filter (· != n), used := x.used ++ [u] }, true)
  else match x.used.find? fun e => e.num == n with
    | some e => (if e.pathB == pathB then s else s.skewNote f e pathB, false)
    | none => (s.satF (RXC_LATE f) 15 0, false)

/-! Pictures of an ST 2110-20 flow (R431, R432). -/

def State.rxFmt (s : State) (f : Nat) : Nat := s.f (RXF_CTL f) 15 12
def State.rxW (s : State) (f : Nat) : Nat := s.f (RXF_SIZE f) 15 0
def State.rxH (s : State) (f : Nat) : Nat := s.f (RXF_SIZE f) 31 16
def State.rxStride (s : State) (f : Nat) : Nat :=
  if s.reg (RXF_STRIDE f) = 0 then defStride (s.rxFmt f) (s.rxW f) else (s.reg (RXF_STRIDE f)).toNat
def State.rxPool (s : State) (f : Nat) : Nat := s.f (RXF_CTL f) 29 24

/-- Bytes of a line of a pgroup format. -/
def pgLineBytes (fmt w : Nat) : Nat := ceilDiv w (pgroup fmt).1 * (pgroup fmt).2

/-- Byte ranges of `[0, n)` that a cover leaves out; the cover is taken in rising order. -/
def gapsIn (cover : List (Nat × Nat)) (n : Nat) : List (Nat × Nat) :=
  let step (acc : Nat × List (Nat × Nat)) (e : Nat × Nat) : Nat × List (Nat × Nat) :=
    (max acc.1 (e.1 + e.2), if acc.1 < e.1 then acc.2 ++ [(acc.1, e.1 - acc.1)] else acc.2)
  let r := (sortBy (fun a b => decide (a.1 ≤ b.1)) cover).foldl step (0, [])
  if r.1 < n then r.2 ++ [(r.1, n - r.1)] else r.2

/-- What is missing of a line. -/
def RxPic.gaps (p : RxPic) (y n : Nat) : List (Nat × Nat) := gapsIn (tabGet (fun _ => []) p.cover y) n

/-- A line is complete when all of it has been written, or when it has been repaired (R432). -/
def RxPic.lineDone (p : RxPic) (y n : Nat) : Bool := p.repaired.contains y || (p.gaps y n).isEmpty

/-- The run of complete lines from `y` on; at most `k` more. -/
def RxPic.run (p : RxPic) (n : Nat) : Nat → Nat → Nat
  | 0, y => y
  | k + 1, y => if p.lineDone y n then p.run n k (y + 1) else y

/-- Narrow-range black of a line (R432). Of a 4:4:4 flow nothing tells whether it carries Y'CbCr (`ycc`, free: log entry 28). -/
def blackLine (fmt w : Nat) (ycc : Bool) : List Byte :=
  let d := fmtDepth fmt
  let y := 2 ^ (d - 4)
  let c := if ycc then 2 ^ (d - 1) else y
  let g := pgroup fmt
  let one := if fmt = 0 then packBits [(10, 512), (10, 64), (10, 512), (10, 64)] g.2
    else packBits ((List.range g.1).map fun _ => [(d, c), (d, y), (d, c)]).flatten g.2
  ((List.range (ceilDiv w g.1)).map fun _ => one).flatten

def State.modRxPic (s : State) (f : Nat) (ts : W32) (g : RxPic → RxPic) : State :=
  s.setRxf f { s.rxf f with pics := (s.rxf f).pics.map fun p => if p.ts = ts then g p else p }

/-- LINES_DONE follows the run of complete lines (R432). -/
def State.rxLines (s : State) (f : Nat) (p : RxPic) : State :=
  if p.dropped then s
  else s.linesDone (mpeAgent f) p.handle (p.run (pgLineBytes (s.rxFmt f) (s.rxW f)) (s.rxH f - (s.hbuf p.handle).linesDone) (s.hbuf p.handle).linesDone) false

/-- Repair of a line: each missing range from the line above, or black (R432). -/
def State.rxRepair (s : State) (f : Nat) (ts : W32) (y : Nat) : State :=
  match (s.rxf f).pics.find? fun p => p.ts == ts with
  | none => s
  | some p =>
    let n := pgLineBytes (s.rxFmt f) (s.rxW f)
    if p.dropped || p.lineDone y n then s
    else
      let at_ := s.bufAddr p.handle + y * s.rxStride f
      let up := at_ - s.rxStride f
      let black := blackLine (s.rxFmt f) (s.rxW f) s.freeBool
      let s := s.draw
      let s := s.each (p.gaps y n) fun t g =>
        if y = 0 then t.hbmWrite (at_ + g.1) (slice black g.1 g.2) false
        else t.hbmWrite (at_ + g.1) (t.hbmBytes (up + g.1) g.2) (t.poisoned (up + g.1) g.2)
      let s := s.modRxPic f ts fun q => { q with repaired := q.repaired ++ [y] }
      (s.satF (RXC_REPAIR f) 15 0).event (pgMPE (f / 16)) 1

/-- Repair of lines in order, then LINES_DONE. -/
def State.rxRepairs (s : State) (f : Nat) (ts : W32) (ys : List Nat) : State :=
  let s := s.each ys fun t y => t.rxRepair f ts y
  match (s.rxf f).pics.find? fun p => p.ts == ts with
  | some p => s.rxLines f p
  | none => s

/-- A composer layer is bound to the flow (R210). -/
def State.rxBound (s : State) (f : Nat) : Bool :=
  (span 0 4).any fun p => (span 0 16).any fun l =>
    let y := layerOf (s.pipe p).liveAt l
    y.en && y.bind == 1 && y.src.toNat % 128 == f

/-- A drained receive flow that holds nothing reaches IDLE (R428). -/
def State.rxSettle (s : State) (f : Nat) : State :=
  let x := s.rxf f
  if x.draining && x.pics.isEmpty && x.staged.isEmpty then
    (s.setRxf f { x with draining := false }).event (pgMPE (f / 16)) 10
  else s

/-- A picture closes: lines are repaired, LINES_DONE reaches HEIGHT, PIC_COMPLETE is set; with no layer bound the engine lets go of the pictures closed before it (R431). -/
def State.rxClose (s : State) (f : Nat) (ts : W32) (counted : Bool) : State :=
  match (s.rxf f).pics.find? fun p => p.ts == ts with
  | none => s
  | some p =>
    let s := s.rxRepairs f ts (span 0 (s.rxH f))
    let s := if p.dropped then s else s.linesDone (mpeAgent f) p.handle (s.rxH f) true
    let s := if counted then s.satF (RXC_LATE f) 31 16 else s
    let x := s.rxf f
    let rest := x.pics.filter fun q => q.ts != ts
    let old := if s.rxBound f || p.dropped then [] else x.started.filter fun h => h != p.handle && !rest.any fun q => q.handle == h
    let top := if seqBefore x.closed (p.top + 1) then p.top + 1 else x.closed
    let s := s.setRxf f { x with pics := rest, closed := top, started := x.started.filter fun h => !old.contains h,
                                 used := x.used.filter fun u => !seqBefore u.num top }
    (s.each old fun t h => (t.poolRelease (mpeAgent f) h).1).rxSettle f

/-- A picture that may close now: its marker has been used and nothing before it is missing, or a later timestamp has started and nothing before that is missing (R431). -/
def RxFlow.closable (x : RxFlow) : Option W32 :=
  let none_ (m : Nat) : Bool := !x.missing.any fun n => seqBefore n m
  let rec go : List RxPic → Option W32
    | [] => none
    | p :: rest =>
      if p.marker.any none_ || rest.any fun q => none_ q.first then some p.ts else go rest
  go x.pics

/-- Close what may close; at most `k` pictures. -/
def State.rxCloses (s : State) (f : Nat) : Nat → State
  | 0 => s
  | k + 1 =>
    match (s.rxf f).closable with
    | some ts => (s.rxClose f ts false).rxCloses f k
    | none => s

/-- Encode sessions whose source is the flow. -/
def State.flowSessions (s : State) (f : Nat) : List Nat :=
  s.sessions.filterMap fun e => if e.2.phase = .opened ∧ kindOf e.2.desc = 0 ∧ leAt e.2.desc 0x18 1 = 2 ∧ leAt e.2.desc 0x19 1 = f then some e.1 else none

/-- Timestamp order modulo 2^32. -/
def tsBefore (a b : W32) : Bool := seqBefore a.toNat b.toNat

/-- A picture enters the open ones, in timestamp order. -/
def insertPic (p : RxPic) : List RxPic → List RxPic
  | [] => [p]
  | q :: t => if tsBefore p.ts q.ts then p :: q :: t else q :: insertPic p t

/-- The first packet of a new timestamp starts a picture (R431, R446). `ahead`: it is the newest number of the flow. -/
def State.rxStart (s : State) (f : Nat) (ts : W32) (n : Nat) (ahead : Bool) : State :=
  let back := ahead && (s.rxf f).pics.any fun q => tsBefore ts q.ts
  let s := if back then s.each ((s.rxf f).pics.map RxPic.ts) fun t o => t.rxClose f o true else s
  let s := if (s.rxf f).pics.length < 4 then s else match (s.rxf f).pics with
    | q :: _ => s.rxClose f q.ts true
    | [] => s
  let ns := s.flowSessions f
  let a := s.poolAlloc (mpeAgent f) (s.rxPool f) ((mpeAgent f, 1) :: ns.map fun m => (s.sessAgent m, 1))
  match a.2 with
  | .ok h _ =>
    let s := a.1
    let t := captureOf ts s.mtc.time
    let s := s.setHbuf h { s.hbuf h with capture := t }
    let x := s.rxf f
    let s := s.setRxf f { x with pics := insertPic { ts := ts, handle := h, first := n, top := n } x.pics, started := h :: x.started }
    s.each ns fun u m => u.encSource m h t (u.rxW f, u.rxH f, u.rxFmt f)
  | _ =>
    let s := a.1
    let x := s.rxf f
    let s := s.setRxf f { x with pics := insertPic { ts := ts, dropped := true, first := n, top := n } x.pics }
    (s.satF (RXC_REPAIR f) 31 16).event (pgMPE (f / 16)) 2

/-- A sample row data header lies inside the picture (R431). -/
def State.rowFits (s : State) (f : Nat) (r : RowHeader) : Bool :=
  let g := pgroup (s.rxFmt f)
  decide (r.row < s.rxH f) && decide (r.offset % g.1 = 0 ∧ r.bytes.length % g.2 = 0 ∧ r.offset + r.bytes.length / g.2 * g.1 ≤ s.rxW f)

/-- First byte of a header's pixels in its line. -/
def State.rowByte (s : State) (f : Nat) (r : RowHeader) : Nat := r.offset / (pgroup (s.rxFmt f)).1 * (pgroup (s.rxFmt f)).2

/-- One header's pixels are written, unless its line has been repaired (R431, R432). -/
def State.rxRowWrite (s : State) (f : Nat) (ts : W32) (r : RowHeader) : State :=
  match (s.rxf f).pics.find? fun p => p.ts == ts with
  | none => s
  | some p =>
    if p.dropped || p.repaired.contains r.row then s
    else
      let o := s.rowByte f r
      let s := s.hbmWrite (s.bufAddr p.handle + r.row * s.rxStride f + o) r.bytes false
      s.modRxPic f ts fun q => { q with cover := tabPut (fun _ => []) q.cover r.row (tabGet (fun _ => []) q.cover r.row ++ [(o, r.bytes.length)]) }

/-- A used packet of an ST 2110-20 flow (R431). -/
def State.rxVideo (s : State) (f : Nat) (p : MediaPacket) (n : Nat) (ahead : Bool) : State :=
  if !(decide (p.rows.length ≤ 3) && p.rows.all fun r => s.rowFits f r) then s.satF (RXC_BAD f) 31 16
  else
    let known := (s.rxf f).pics.any fun q => q.ts == p.timestamp
    if !known && (s.rxf f).draining then s
    else
      let s := if known then s else s.rxStart f p.timestamp n ahead
      let pos : Option (Nat × Nat) := p.rows.head?.map fun r => (r.row, s.rowByte f r)
      let s := s.each p.rows fun t r => t.rxRowWrite f p.timestamp r
      let s := s.modRxPic f p.timestamp fun q =>
        { q with first := (if seqBefore n q.first then n else q.first), top := (if seqBefore q.top n then n else q.top),
                 marker := (if p.marker then some n else q.marker),
                 pos := pos.elim q.pos fun e => tabIns q.pos n e }
      let s := match (s.rxf f).pics.find? fun q => q.ts == p.timestamp with
        | some q => s.rxLines f q
        | none => s
      s.rxCloses f 5

/-! ST 2110-22 flows (R426, R433). -/

/-- The decode session, or the decode part of a transcode pair, that a flow feeds (R174, R433). -/
def State.decSession (s : State) (f : Nat) : Option Nat :=
  (s.sessions.find? fun e => e.2.phase == .opened && hasDec e.2.desc && leAt e.2.desc 0xA0 1 == 1 && leAt e.2.desc 0xA1 1 == f).map Prod.fst

/-- A unit is passed to the session; `closes` with the marker (R185). -/
def State.passUnit (s : State) (n : Nat) (bs : List Byte) (closes : Bool) (t : PtpTime) : State :=
  s.modSess n fun x => { x with units := x.units ++ [({ closes := closes, capture := some t, bytes := bs } : DecUnit)] }

def DecUnit.marked (u : DecUnit) : DecUnit := { u with closes := true }

/-- The picture being received is closed behind the units already passed (R185). -/
def State.passClose (s : State) (n : Nat) : State :=
  match (s.sess n).units.getLast? with
  | some _ => s.modSess n fun x => { x with units := x.units.dropLast ++ (x.units.getLast?.toList.map DecUnit.marked) }
  | none => s.decCloseAll n

/-- A loss mark is passed in place of a unit, behind the units already passed (R183). -/
def State.passLoss (s : State) (n : Nat) : State :=
  if (s.sess n).units.isEmpty then s.lossIn n else s.modSess n fun x => { x with units := x.units ++ [({ loss := true } : DecUnit)] }

/-- One piece joins the unit in reassembly; a whole one is passed. -/
def State.passFrag (s : State) (f n : Nat) (g : Frag) (closes : Bool) (t : PtpTime) : State :=
  let x := s.rxf f
  let u := if g.first then some g.bytes else x.unit.map (· ++ g.bytes)
  let s := s.setRxf f { x with unit := if g.last then none else u, skipping := x.skipping && !g.first }
  match u with
  | some bs => if g.last then s.passUnit n bs closes t else s
  | none => if g.last && closes then s.passClose n else s

/-- A staged packet's turn has come (R433). -/
def State.passPacket (s : State) (f n : Nat) (q : RxStaged) : State :=
  let x := s.rxf f
  let s := if q.ts != x.ts && !x.marked then s.passClose n else s
  let s := s.setRxf f { s.rxf f with ts := q.ts, marked := q.marker }
  let t := captureOf q.ts s.mtc.time
  let s := match fragsOf (decStream (s.sess n).desc).codec q.payload with
    | none => s.satF (RXC_BAD f) 31 16
    | some gs => s.each (List.range gs.length) fun u i => u.passFrag f n (gs.getD i ⟨true, true, []⟩) (q.marker && i + 1 == gs.length) t
  (s.poolRelease (mpeAgent f) q.handle).1

/-- Packets are passed in sequence order; a number that is neither staged nor missing is lost, and costs the unit it belongs to (R433). At most `k` numbers. -/
def State.rxPass (s : State) (f n : Nat) : Nat → State
  | 0 => s
  | k + 1 =>
    let x := s.rxf f
    if x.expect = x.next % 2 ^ 32 then s
    else match x.staged.find? fun q => q.num == x.expect with
      | some q =>
        let s := s.setRxf f { x with staged := x.staged.filter fun e => e.num != q.num, expect := (x.expect + 1) % 2 ^ 32, closed := x.expect + 1,
                                     used := x.used.filter fun u => u.num != x.expect }
        (s.passPacket f n q).rxPass f n k
      | none =>
        if x.missing.contains x.expect then s
        else
          let s := s.setRxf f { x with expect := (x.expect + 1) % 2 ^ 32, closed := x.expect + 1, unit := none, skipping := true }
          (if x.skipping then s else s.passLoss n).rxPass f n k

/-- A used packet of an ST 2110-22 flow: staged, then passed in its turn (R433). -/
def State.rxStage (s : State) (f n : Nat) (p : MediaPacket) (num : Nat) : State :=
  let pay := p.units.flatten
  let a := s.poolAlloc (mpeAgent f) (s.rxPool f) [(mpeAgent f, 1)]
  let s := match a.2 with
    | .ok h _ =>
      let t := a.1.hbmWrite (a.1.bufAddr h) (pay.take (a.1.poolSize (s.rxPool f))) false
      t.setRxf f { t.rxf f with staged := (t.rxf f).staged ++ [({ num := num, ts := p.timestamp, marker := p.marker, handle := h, payload := pay } : RxStaged)] }
    | _ => a.1.event (pgMPE (f / 16)) 2
  s.rxPass f n ((s.rxf f).staged.length + (s.rxf f).missing.length + 2)

/-- A packet of a receive flow arrives on a path (R416, R429, R431, R433, R441 PT). -/
def State.rxPacket (s : State) (f : Nat) (pathB : Bool) (p : MediaPacket) : State :=
  if !s.rxRuns f && !((s.rxf f).draining && s.engineUp (f / 16)) then s
  else
    let s := s.inc (if pathB then RXC_PKTS_B f else RXC_PKTS_A f)
    let pt := s.f (RXF_CTL f) 22 16
    if !p.good || (pt ≠ 0 && p.payloadType != pt) then s.satF (RXC_BAD f) 15 0
    else if s.bit (RXF_CTL f) 2 then
      match s.decSession f with
      | none => s
      | some n =>
        let num := seqExtend (s.rxf f).next (p.seq % 65536)
        let r := s.rxMerge f num pathB
        if r.2 then (r.1.rxStage f n p num).rxSettle f else r.1
    else
      let num := p.seq % 2 ^ 32
      let ahead := (s.rxf f).next == 0 || num == (s.rxf f).next % 2 ^ 32 || seqBefore (s.rxf f).next num
      let r := s.rxMerge f num pathB
      if r.2 then r.1.rxVideo f p num ahead else r.1

/-- Lines that a lost number carried part of: those before the first byte of the packet that follows it, once that packet is in (R432; DEDUCED, log entry 30). -/
def State.rxLostLines (s : State) (f n : Nat) : State :=
  match (s.rxf f).pics.find? fun p => p.pos.any fun e => e.1 == (n + 1) % 2 ^ 32 with
  | none => s
  | some p =>
    let e := tabGet (fun _ => (0, 0)) p.pos ((n + 1) % 2 ^ 32)
    let lineN := pgLineBytes (s.rxFmt f) (s.rxW f)
    let here := (p.gaps e.1 lineN).any fun g => decide (g.1 < e.2)
    s.rxRepairs f p.ts (span 0 (e.1 + b2n here))

/-- The deadline of the oldest missing number passes (R429, R432, R433). -/
def State.rxLost (s : State) (f : Nat) : State :=
  match (s.rxf f).missing with
  | [] => s
  | n :: rest =>
    let s := s.setRxf f { s.rxf f with missing := rest }
    let s := (s.satF (RXC_LOST f) 31 0).event (pgMPE (f / 16)) 0
    if s.bit (RXF_CTL f) 2 then
      match s.decSession f with
      | some m => (s.rxPass f m ((s.rxf f).staged.length + rest.length + 2)).rxSettle f
      | none => s
    else (s.rxLostLines f n).rxCloses f 5

/-! Enabling and disabling (R428). -/

/-- Destination octets of a path, as RXF_DST holds them. -/
def State.rxDst (s : State) (f : Nat) (pathB : Bool) : List Byte :=
  (span 0 4).map (fun k => leBytes 4 (s.reg ((if pathB then RXF_DST_B_0 f else RXF_DST_A_0 f) + 4 * k)).toNat) |>.flatten

/-- A path of a receive flow: port, destination, UDP port and VLAN. -/
def State.rxPath (s : State) (f : Nat) (pathB : Bool) : Nat × List Byte × Nat × Nat :=
  (if pathB then s.f (RXF_CTL f) 10 8 else s.f (RXF_CTL f) 6 4, s.rxDst f pathB,
   if pathB then s.f (RXF_UDP f) 31 16 else s.f (RXF_UDP f) 15 0, s.f (RXF_VLAN f) 12 0)

/-- The paths a flow has. -/
def State.rxPaths (s : State) (f : Nat) : List (Nat × List Byte × Nat × Nat) :=
  s.rxPath f false :: (if s.bit (RXF_CTL f) 3 then [s.rxPath f true] else [])

/-- A port in a mode a path can use. -/
def State.pathMode (s : State) (n : Nat) : Bool := s.portMode n == 2 || s.portMode n == 3

/-- The check made when EN is set (R428). -/
def State.rxCheck (s : State) (f : Nat) : Bool :=
  let mine := s.rxPaths f
  let others := ((span 0 128).filter fun g => g != f && s.bit (RXF_CTL g) 0).map s.rxPaths
  !(others.flatten.any fun p => mine.contains p) && s.poolEn (s.rxPool f) &&
  (s.bit (RXF_CTL f) 2 || decide (s.rxStride f * s.rxH f ≤ s.poolSize (s.rxPool f))) &&
  mine.all fun p => s.pathMode p.1

def State.txPorts (s : State) (f : Nat) : List (Nat × Bool) :=
  (s.f (TXF_CTL f) 6 4, false) :: (if s.bit (TXF_CTL f) 3 then [(s.f (TXF_CTL f) 10 8, true)] else [])

/-- A flow holds work: its STAT.ACTIVE. -/
def State.flowActive (s : State) (tx : Bool) (f : Nat) : Bool :=
  if tx then !(s.txf f).pics.isEmpty || !(s.txf f).units.isEmpty || (s.txf f).draining
  else !(s.rxf f).pics.isEmpty || !(s.rxf f).staged.isEmpty || (s.rxf f).draining

def flowCtl (tx : Bool) (f : Nat) : Nat := if tx then TXF_CTL f else RXF_CTL f

/-- EN of a flow is set: ignored unless the flow is IDLE; a failed check leaves EN at 0 and raises CFG_ERR (R55, R428). -/
def State.flowEnable (s : State) (tx : Bool) (f : Nat) : State :=
  if s.bit (flowCtl tx f) 0 || s.flowActive tx f then s
  else if (if tx then (s.txPorts f).all fun p => s.pathMode p.1 else s.rxCheck f) then
    let s := s.setB (flowCtl tx f) 0 true
    if tx then s else (s.setRxf f { started := (s.rxf f).started }).setF (RXC_SKEW f) 31 16 0
  else s.event (pgMPE (f / 16)) 8

/-- What a transmit flow had queued is let go: a slice counts as gone (R272, R428). -/
def State.txDrop (s : State) (ps : List TxPic) (us : List TxUnit) : State :=
  let s := s.each ps fun t p => (t.poolRelease p.agent p.handle).1
  s.each us fun t u => t.sliceOut u.sess u.pic u.job true true

/-- A drained transmit flow that holds nothing reaches IDLE. -/
def State.txSettle (s : State) (f : Nat) : State :=
  let x := s.txf f
  if x.draining && x.pics.isEmpty && x.units.isEmpty then (s.setTxf f { x with draining := false }).event (pgMPE (f / 16)) 10 else s

/-- EN of a flow is cleared with DRAIN_MODE 0 (R428): a transmit flow keeps only the picture or slice in progress. -/
def State.flowDrain (s : State) (tx : Bool) (f : Nat) : State :=
  if !s.bit (flowCtl tx f) 0 then s
  else
    let s := (s.setB (flowCtl tx f) 0 false).setB (flowCtl tx f) 1 false
    if tx then
      let x := s.txf f
      let k := if x.off = 0 then 0 else 1
      let s := s.setTxf f { x with draining := true, units := x.units.take k }
      (s.txDrop [] (x.units.drop k)).txSettle f
    else (s.setRxf f { s.rxf f with draining := true }).rxSettle f

/-- EN of a flow is cleared with DRAIN_MODE 1, or a drain is turned into an abort (R55, R428). -/
def State.flowAbort (s : State) (tx : Bool) (f : Nat) : State :=
  if !s.bit (flowCtl tx f) 0 && !s.flowActive tx f then s
  else
    let s := (s.setB (flowCtl tx f) 0 false).setB (flowCtl tx f) 1 true
    if tx then
      let x := s.txf f
      let s := s.setTxf f { x with pics := [], units := [], off := 0, late := false, draining := true }
      (s.txDrop x.pics x.units).txSettle f
    else
      let x := s.rxf f
      let s := s.setRxf f { draining := true }
      let s := s.each (x.started ++ x.staged.map RxStaged.handle) fun t h => (t.poolRelease (mpeAgent f) h).1
      s.rxSettle f

/-- A write of a flow's CTL register (R428, R441, R443). The other fields are accepted only while the flow is IDLE. -/
def State.flowCtlWrite (s : State) (tx : Bool) (f : Nat) (v : W32) : State :=
  let a := flowCtl tx f
  let on := s.bit a 0
  if on && !bitAt v 0 then (if bitAt v 1 then s.flowAbort tx f else s.flowDrain tx f)
  else if on then s.setB a 1 (bitAt v 1)
  else if s.flowActive tx f then (if !bitAt v 0 && bitAt v 1 then s.flowAbort tx f else s)
  else
    let s := s.maskWrite a (setBit v 0 false)
    if bitAt v 0 then s.flowEnable tx f else s

/-! Transmit flows (R434 to R438, R450). -/

/-- PAYLOAD in force. -/
def State.txPayload (s : State) (f : Nat) : Nat := if s.f (TXF_PAYLOAD f) 13 0 = 0 then 1200 else s.f (TXF_PAYLOAD f) 13 0

/-- The pgroup format a picture is sent in (R436). -/
def State.txFmt (s : State) (f : Nat) (p : TxPic) : Nat :=
  if p.fmt < 3 then p.fmt else if p.chroma = 3 then (if s.bit (TXF_CTL f) 29 then 2 else 1) else 0

/-- Packets of a line, and pgroups of each but the last (R435). -/
def State.txLine (s : State) (f : Nat) (p : TxPic) : Nat × Nat :=
  let g := pgroup (s.txFmt f p)
  let per := max 1 (s.txPayload f / g.2)
  (ceilDiv (ceilDiv p.width g.1) per, per)

/-- A sample brought from depth `d` to depth `t`: widened by a shift, narrowed to nearest with saturation (R436). -/
def toDepth (d t v : Nat) : Nat := if d ≤ t then v <<< (t - d) else min (2 ^ t - 1) ((v + 2 ^ (d - t - 1)) >>> (d - t))

/-- A line of a planar picture as a pgroup line (R436). -/
def State.txConvert (s : State) (p : TxPic) (fmt y : Nat) : List Byte :=
  let t := fmtDepth fmt
  let base := s.bufAddr p.handle
  let w := p.width
  let n := 2 * w * p.height
  let at_ (a : Nat) : Nat := toDepth p.depth t (leNat (s.hbmBytes a 2) % 2 ^ min 16 p.depth)
  let luma (x : Nat) : Nat := at_ (base + y * 2 * w + 2 * x)
  let plane (c : Nat) : Nat := base + n + c * (if p.chroma = 1 then n / 4 else if p.chroma = 2 then n / 2 else n)
  let sub (c x : Nat) : Nat :=
    match p.chroma with
    | 1 =>
      let k := y / 2
      let far := if y % 2 = 0 then k - 1 else min (k + 1) (p.height / 2 - 1)
      ratio (3 * at_ (plane c + k * w + 2 * x) + at_ (plane c + far * w + 2 * x)) 4
    | 2 => at_ (plane c + y * w + 2 * x)
    | 3 => at_ (plane c + y * 2 * w + 2 * x)
    | _ => 2 ^ (t - 1)
  let g := pgroup fmt
  ((List.range (ceilDiv w g.1)).map fun k =>
    if fmt = 0 then packBits [(10, sub 0 k), (10, luma (2 * k)), (10, sub 1 k), (10, luma (2 * k + 1))] g.2
    else
      let one (x : Nat) : List (Nat × Nat) :=
        if p.rgb then [(t, luma x), (t, sub 0 x), (t, sub 1 x)] else [(t, sub 0 x), (t, luma x), (t, sub 1 x)]
      packBits ((span (g.1 * k) g.1).map one).flatten g.2).flatten

/-- Bytes of a line as sent: a pgroup buffer as it lies (R436). -/
def State.txLineBytes (s : State) (f : Nat) (p : TxPic) (y : Nat) : List Byte :=
  if p.fmt < 3 then s.hbmBytes (s.bufAddr p.handle + y * defStride p.fmt p.width) (pgLineBytes p.fmt p.width) else s.txConvert p (s.txFmt f p) y

/-- The RTP packet from its header onward (R427, R438). -/
def State.rtpBytes (s : State) (f seq : Nat) (ts : W32) (marker : Bool) (payload : List Byte) : List Byte :=
  [0x80, byteOf (b2n marker * 128 + s.f (TXF_CTL f) 28 22)] ++ beBytes 2 (seq % 65536) ++ beBytes 4 ts.toNat ++ beBytes 4 (s.reg (TXF_SSRC f)).toNat ++ payload

/-- A MAC address register pair: first octet in [7:0] of LO. -/
def State.macAt (s : State) (lo hi : Nat) : List Byte := leBytes 6 ((s.reg lo).toNat + 2 ^ 32 * (s.reg hi).toNat)

/-- Octets of an IP address register or registers, and of a flow's destination. -/
def State.octets (s : State) (a k : Nat) : List Byte := ((span 0 k).map fun i => leBytes 4 (s.reg (a + 4 * i)).toNat).flatten

/-- A packet as an Ethernet frame of the path's port (R416, R438). -/
def State.mediaFrame (s : State) (f n : Nat) (pathB : Bool) (rtp : List Byte) : List Byte :=
  let dst := s.octets (if pathB then TXF_DST_B_0 f else TXF_DST_A_0 f) 4
  let own := if pathB then s.macAt (TXF_MAC_B_LO f) (TXF_MAC_B_HI f) else s.macAt (TXF_MAC_A_LO f) (TXF_MAC_A_HI f)
  udpFrame { dstMac := (groupMac dst).getD own, srcMac := s.macAt (MPE_MAC_LO n) (MPE_MAC_HI n),
             tag := if s.bit (TXF_CTL f) 15 then some (s.f (TXF_CTL f) 14 12, s.f (TXF_VLAN f) 11 0) else none,
             src4 := s.octets (MPE_IPV4 n) 1, src6 := s.octets (MPE_IPV6 n 0) 4, dst := dst, dscp := s.f (TXF_CTL f) 21 16,
             sport := s.f (TXF_UDP_SRC f) 15 0, dport := if pathB then s.f (TXF_UDP_DST f) 31 16 else s.f (TXF_UDP_DST f) 15 0,
             ident := s.freeWord.toNat % 65536, ttl := Config.ipTtl, label := s.freeWord.toNat, payload := rtp }

/-- A packet leaves on one path: as UDP/IP on an Ethernet port, as MEDIA_RTP on a native one; a port that is down sends nothing (R427, R438, R468). -/
def State.txPath (s : State) (f : Nat) (path : Nat × Bool) (seq : Nat) (ts : W32) (marker : Bool) (payload : List Byte) : State :=
  let n := path.1
  let cnt := if path.2 then TXC_PKTS_B f else TXC_PKTS_A f
  if s.etherUp n then (((s.emit (.rtp f path.2 n (s.mediaFrame f n path.2 (s.rtpBytes f seq ts marker payload)))).draw).inc (MPE_TX_FRAMES n)).inc cnt
  else if s.nativeUp n then
    let w := (s.reg (if path.2 then TXF_DST_B_0 f else TXF_DST_A_0 f)).toNat
    let b := s.rtpBytes f seq ts marker payload
    let h : FabHeader := { ptype := 4, vc := 1, alt := path.2, poison := false, hops := 63, dst := w % 4096, src := s.nodeId, len := b.length,
                           seq := w / 65536 % 128, tag := 0, addr := 0, resp := 0, sync := false }
    (s.portSend n h b).inc cnt
  else s.event (pgMPE (f / 16)) 3

/-- A packet with the next sequence number leaves on every path that `good` lets it (R166, R438). -/
def State.txSendOn (s : State) (f : Nat) (good : Bool → Bool) (ts : W32) (marker : Bool) (payload : List Byte) : State :=
  let seq := (s.reg (TXF_SEQ f)).toNat
  let s := s.each ((s.txPorts f).filter fun p => good p.2) fun t p => t.txPath f p seq ts marker payload
  s.setReg (TXF_SEQ f) (BitVec.ofNat 32 (seq + 1))
def State.txSend (s : State) (f : Nat) (ts : W32) (marker : Bool) (payload : List Byte) : State := s.txSendOn f (fun _ => true) ts marker payload

/-- A producer hands a picture over (R434, R435, R450). -/
def State.txHand (s : State) (f a : Nat) (h : W32) : State :=
  match (s.txf f).offers.find? fun o => o.agent == a && o.handle == h with
  | none => s
  | some o =>
    let s := s.setTxf f { s.txf f with offers := (s.txf f).offers.filter fun e => !(e.agent == a && e.handle == h) }
    let drop (t : State) : State := (t.poolRelease o.agent o.handle).1
    if !s.txRuns f then drop s
    else if s.bit (TXF_CTL f) 2 then drop (s.event (pgMPE (f / 16)) 9)
    else if !s.mtcOn then drop (s.event (pgMPE (f / 16)) 5)
    else
      let s := s.each (s.txf f).pics fun t p =>
        let total := (t.txLine f p).1 * p.height
        (t.satF (TXC_LATE f) 15 0 (total - p.next)).txDrop [p] []
      s.setTxf f { s.txf f with pics := [o], late := false }

/-- The next packet of the picture being sent (R435): while its line is not yet there it waits and counts as late. -/
def State.txVideoDue (s : State) (f : Nat) (p : TxPic) : State :=
  let l := s.txLine f p
  let y := p.next / max 1 l.1
  let k := p.next % max 1 l.1
  let x := s.txf f
  if !s.mtcOn then s.event (pgMPE (f / 16)) 5
  else if !s.lineReady p.handle y then
    let s := s.subscribe (44 + f / 16) p.handle y
    if x.late then s else ((s.setTxf f { x with late := true }).satF (TXC_LATE f) 15 0).event (pgMPE (f / 16)) 4
  else
    let g := pgroup (s.txFmt f p)
    let last := p.next + 1 == l.1 * p.height
    let part := slice (s.txLineBytes f p y) (k * l.2 * g.2) (l.2 * g.2)
    let s := s.txSend f (rtpOf p.capture) last (rowHeaderBytes (s.reg (TXF_SEQ f)).toNat part.length y (k * l.2 * g.1) ++ part)
    let s := s.setTxf f { s.txf f with late := false, pics := if last then [] else [{ p with next := p.next + 1 }] }
    if last then ((s.inc (TXC_PICS f)).txDrop [p] []).txSettle f else s

/-- The next packet of the oldest slice (R437): one that would carry a word poisoned on its path is dropped on that path and counted (R166). Packets carry units and fragments of units (R426). -/
def State.txSliceDue (s : State) (f : Nat) (u : TxUnit) : State :=
  let x := s.txf f
  let ps := slicePieces (mainStream (s.sess u.sess).desc).codec (s.txPayload f) u.newSeq u.bytes
  let fin := decide (ps.length ≤ x.off + 1)
  let s := match ps[x.off]? with
    | none => s
    | some p =>
      let bad (second : Bool) : Bool := (if second then u.badB else u.bad).any (pieceWord p)
      let s := s.txSendOn f (fun second => !bad second) (rtpOf u.capture) (fin && u.last) (pieceBytes u.bytes p)
      s.satF (TXC_LATE f) 31 16 ((s.txPorts f).countP fun (q : Nat × Bool) => bad q.2)
  if fin then
    let s := s.setTxf f { s.txf f with units := (s.txf f).units.drop 1, off := 0 }
    let s := if u.last then s.inc (TXC_PICS f) else s
    (s.sliceOut u.sess u.pic u.job true false).txSettle f
  else s.setTxf f { s.txf f with off := x.off + 1 }

/-! The host's frames (R416 to R422, R451). -/

/-- A flow's packet from its RTP header onward. -/
def State.rtpFor (s : State) (f : Nat) (good : Bool) (b : List Byte) : MediaPacket := rtpIn (!s.bit (RXF_CTL f) 2) good b

/-- The receive flow and path that a frame matches (R417). -/
def State.flowMatch (s : State) (n : Nat) (fr : Frame) : Option (Nat × Bool × MediaPacket) :=
  match frameUdp fr with
  | none => none
  | some u =>
    let vlan (f : Nat) : Bool := if s.bit (RXF_VLAN f) 12 then frameTags fr == 1 && frameVid fr == s.f (RXF_VLAN f) 11 0 else frameTags fr == 0
    let path (f : Nat) (b : Bool) : Bool :=
      let q := s.rxPath f b
      q.1 == n && q.2.1 == u.dst && q.2.2.1 == u.port && vlan f
    (span 0 128).findSome? fun f =>
      if !s.rxRuns f && !((s.rxf f).draining && s.engineUp (f / 16)) then none
      else if path f false then some (f, false, s.rtpFor f u.good u.payload)
      else if s.bit (RXF_CTL f) 3 && path f true then some (f, true, s.rtpFor f u.good u.payload)
      else none

/-- The host path's filter (R417). -/
def State.hostFilter (s : State) (n : Nat) (mac : List Byte) : Bool :=
  let c := s.reg (MPE_PORT_CTL n)
  let bc := mac == List.replicate 6 0xFF
  let mc := byteAt mac 0 % 2 == 1 && !bc
  s.bit (MPE_HOST n) 14 &&
  (mac == s.macAt (MPE_MAC_LO n) (MPE_MAC_HI n) || (bc && bitAt c 1) ||
   (mc && (bitAt c 2 || (span 0 16).any fun i => s.bit (MPE_MCF_HI n i) 31 && mac == s.macAt (MPE_MCF_LO n i) (MPE_MCF_HI n i))) || bitAt c 0)

/-- A frame record (R420). A time that is not valid is an open value (log entry 31). -/
def State.frameRecord (s : State) (n typ flags len : Nat) (h : W32) (valid : Bool) : State :=
  let t := if valid then s.mtc.time else { ns := s.freeWord, sec := (Config.freeWord (s.fresh + 1)).setWidth 48 }
  let s := if valid then s else s.draw.draw
  let body := [(0x08, timeBytes t), (0x12, leBytes 1 n), (0x13, leBytes 1 (b2n valid ||| flags)), (0x14, leBytes 4 h.toNat), (0x18, leBytes 2 len)]
  s.statusRing (s.f (MPE_HOST n) 7 0) fun ph => s.recordBytes 0 typ 0 0 body ph 0

/-- A frame goes to the host (R418). -/
def State.hostFrame (s : State) (n : Nat) (fr : Frame) : State :=
  let p := s.f (MPE_HOST n) 13 8
  if s.poolSize p < fr.bytes.length then (s.satF (MPE_RX_HOSTDROP n) 31 16).event (pgMPE n) 7
  else
    let a := s.poolAlloc (44 + n) p [(64, 1)]
    match a.2 with
    | .ok h _ => (a.1.hbmWrite (a.1.bufAddr h) fr.bytes false).frameRecord n 0x12 (b2n (frameTags fr != 0) <<< 1) fr.bytes.length h a.1.mtcOn
    | _ => (a.1.satF (MPE_RX_HOSTDROP n) 15 0).event (pgMPE n) 7

/-- A frame arrives on a port (R416, R417). The frame's bytes are without its FCS. -/
def State.frameIn (s : State) (n : Nat) (fr : Frame) : State :=
  let s := s.inc (MPE_RX_FRAMES n)
  let len := fr.bytes.length + 4
  if len < 64 ∨ s.f (MPE_PORT_CTL n) 29 16 < len ∨ !fr.fcsOk ∨ 1 < frameTags fr then s.satF (MPE_RX_ERR n) 15 0
  else if framePause fr then s.satF (MPE_RX_ERR n) 31 16
  else match s.flowMatch n fr with
    | some (f, b, p) => s.rxPacket f b p
    | none => if s.hostFilter n (frameMac fr) then s.hostFrame n fr else s.satF (MPE_RX_FILTERED n) 31 0

/-- A write of MPE_HTX_CMD (R419, R451). -/
def State.htxWrite (s : State) (n : Nat) (v : W32) : State :=
  let h := s.reg (MPE_HTX_HANDLE n)
  if 64 ≤ (s.htxq n).length then s.event (pgMPE n) 6
  else
    let r := s.poolTransfer 64 h (44 + n)
    match r.2 with
    | .ok _ _ =>
      if s.portMode n != 3 then ((r.1.poolRelease (44 + n) h).1).frameRecord n 0x13 0 0 h false
      else r.1.setHtxq n (r.1.htxq n ++ [{ handle := h, len := fld v 13 0, oneStep := bitAt v 14, tsOffset := fld v 29 16 }])
    | _ => r.1

/-- The oldest queued frame has left the port (R419, R422). -/
def State.frameSent (s : State) (n : Nat) : State :=
  match s.htxq n with
  | [] => s
  | e :: rest =>
    let s := s.setHtxq n rest
    let b := s.hbmBytes (s.bufAddr e.handle) e.len
    let s := s.hbmRead (s.bufAddr e.handle) e.len
    let one := e.oneStep && decide (e.tsOffset + 10 ≤ e.len)
    let t := s.mtc.time
    let out := if one then udpFix (putAt b e.tsOffset (beBytes 6 t.sec.toNat ++ beBytes 4 t.ns.toNat)) else b
    let s := s.emit (.frame n out (if one then some (e.tsOffset, t) else none))
    let s := (s.poolRelease (44 + n) e.handle).1
    let tagged := beNat (slice b 12 2) == 0x8100
    (s.inc (MPE_TX_FRAMES n)).frameRecord n 0x13 (b2n tagged <<< 1 ||| b2n one <<< 2) e.len e.handle s.mtcOn

/-! Commands. -/

/-- ETHERNET_FRAME_RECEIVE (R416, R417). -/
def execEthernetFrameReceive (port : PortId) (f : Frame) (s : State) : Out :=
  .next (if s.engineUp port.val && s.etherUp port.val then s.frameIn port.val f else s)

/-- MEDIA_PACKET_RECEIVE (R429, R431, R433). -/
def execMediaPacketReceive (flow : FlowId) (pathB : Bool) (p : MediaPacket) (s : State) : Out := .next (s.rxPacket flow.val pathB p)

/-- LOSS_DEADLINE (R429, R432). -/
def execLossDeadline (flow : FlowId) (s : State) : Out := .next (if s.engineUp (flow.val / 16) then s.rxLost flow.val else s)

/-- PICTURE_SILENCE_TIMEOUT: no packet for SKEW_US + 2 ms (R431). -/
def execPictureSilenceTimeout (flow : FlowId) (s : State) : Out :=
  .next (if s.engineUp (flow.val / 16) then s.each ((s.rxf flow.val).pics.map RxPic.ts) fun t o => t.rxClose flow.val o true else s)

/-- HTX_CMD (R419, R451). -/
def execHtxCmd (who : Who) (port : PortId) (v : W32) (s : State) : Out := .next (s.access who (pgMPE port.val) fun s => s.htxWrite port.val v)

/-- HOST_FRAME_SENT (R419, R420, R422). -/
def execHostFrameSent (port : PortId) (s : State) : Out :=
  .next (if s.engineUp port.val && s.etherUp port.val then s.frameSent port.val else s)

/-- FLOW_ENABLE (R428). -/
def execFlowEnable (who : Who) (tx : Bool) (flow : FlowId) (s : State) : Out :=
  .next (s.access who (pgMPE (flow.val / 16)) fun s => s.flowEnable tx flow.val)

/-- FLOW_DRAIN (R428). -/
def execFlowDrain (who : Who) (tx : Bool) (flow : FlowId) (s : State) : Out :=
  .next (s.access who (pgMPE (flow.val / 16)) fun s => s.flowDrain tx flow.val)

/-- FLOW_ABORT (R428). -/
def execFlowAbort (who : Who) (tx : Bool) (flow : FlowId) (s : State) : Out :=
  .next (s.access who (pgMPE (flow.val / 16)) fun s => s.flowAbort tx flow.val)

/-- TX_HANDOVER (R434, R435, R450). -/
def execTxHandover (flow : FlowId) (a : Nat) (h : W32) (s : State) : Out :=
  .next (if s.engineUp (flow.val / 16) then s.txHand flow.val a h else s)

/-- TX_PACKET_DUE (R434, R435, R437). -/
def execTxPacketDue (flow : FlowId) (s : State) : Out :=
  let f := flow.val
  .next (
    if !s.txRuns f && !((s.txf f).draining && s.engineUp (f / 16)) then s
    else match (s.txf f).pics, (s.txf f).units with
      | p :: _, _ => s.txVideoDue f p
      | [], u :: _ => if s.mtcOn then s.txSliceDue f u else s.event (pgMPE (f / 16)) 5
      | [], [] => s)

/-! The media time counter (R423, R424, R444, R447). -/

/-- A step of the counter: STEPPED, counted, SUSPECT ends, a slew in progress is dropped. -/
def State.mtcStep (s : State) (t : PtpTime) (frac : Int) : State :=
  let s := { s with mtc := { time := t, frac := frac, slew := 0 } }
  ((s.inc MTC_STEPS).setB MTC_STATUS 0 false).event pgMTC 0

/-- LOAD. -/
def State.mtcLoad (s : State) : State :=
  s.mtcStep { sec := BitVec.ofNat 48 (s.pair MTC_SET_SEC_LO MTC_SET_SEC_HI), ns := s.reg MTC_SET_NS } 0

/-- ADJ. -/
def State.mtcAdj (s : State) : State :=
  let n : Int := (s.mtc.time.nat : Int) + (s.reg MTC_ADJ).toInt
  s.mtcStep (PtpTime.ofNat (n % ((2 ^ 48 * 1000000000 : Nat) : Int)).toNat) s.mtc.frac

/-- SLEW: the amount is applied at 100 ppm; nothing to apply is applied at once. -/
def State.mtcSlew (s : State) : State :=
  let a := (s.reg MTC_ADJ).toInt
  let s := { s with mtc := { s.mtc with slew := a * 16000000000 } }
  if a = 0 then s.event pgMTC 2 else s

/-- A write of MTC_CMD: more than one bit is ignored (R444). -/
def State.mtcCmd (s : State) (v : W32) : State :=
  match fld v 2 0 with
  | 1 => s.mtcLoad
  | 2 => s.mtcAdj
  | 4 => s.mtcSlew
  | _ => s

/-- MTC_LOAD (R423). -/
def execMtcLoad (who : Who) (s : State) : Out := .next (s.access who pgMTC State.mtcLoad)
/-- MTC_ADJ (R423). -/
def execMtcAdj (who : Who) (s : State) : Out := .next (s.access who pgMTC State.mtcAdj)
/-- MTC_SLEW (R423). -/
def execMtcSlew (who : Who) (s : State) : Out := .next (s.access who pgMTC State.mtcSlew)

/-- The rest of a slew is applied (R423). -/
def State.slewEnd (s : State) : State :=
  let m := s.mtc
  let total := m.frac + m.slew
  let n := (m.time.nat : Int) + total / 16000000000
  ({ s with mtc := { time := PtpTime.ofNat (n % ((2 ^ 48 * 1000000000 : Nat) : Int)).toNat, frac := total % 16000000000, slew := 0 } }).event pgMTC 2

/-- SLEW_DONE (R423): the whole amount has been applied. -/
def execSlewDone (s : State) : Out := .next (if s.clocked && s.mtcOn && s.mtc.slew != 0 then s.slewEnd else s)

/-- A read of MTC_NS latches the seconds (R444). -/
def State.mtcRead (s : State) : State × W32 :=
  (s.setPair MTC_SEC_LO MTC_SEC_HI s.mtc.time.sec.toNat, s.mtc.time.ns)

/-- MTC_NS_READ (R444). -/
def execMtcNsRead (who : Who) (s : State) : Out := .next (s.accessRd who pgMTC State.mtcRead)

end Sys2Proof.Machine
end

