-- ==== Sys2Proof/Machine/FabPort.lean ====
section
/-! DEFINITION. Tolac ports as such (15_tolac_fabric_espalier.md R452 to R458, R461, R465, R488): modes and castling, training, links going up and down, failover and return. -/

namespace Sys2Proof.Machine

/-! Modes (R452, R454). -/

/-- The partner of a port in its castling pair (R453). -/
def portPartner (n : Nat) : Nat := n ^^^ 1

/-- TPT_LINK.CASTLING of a pair: both ports in CASTLE mode (R454). -/
def State.castling (s : State) (n : Nat) : State :=
  let c := s.portMode n == 0 && s.portMode (portPartner n) == 0
  (s.setB (TPT_LINK n) 1 c).setB (TPT_LINK (portPartner n)) 1 c

/-- A write of TPT_MODE, accepted while CTL.EN = 0 (R454, R482). A port that leaves CASTLE takes its partner to DOWN. -/
def State.modeWrite (s : State) (n : Nat) (v : W32) : State :=
  if s.bit (hCTL (pgTPT n)) 0 || s.inDrain (pgTPT n) then s
  else
    let s := s.setReg (TPT_MODE n) (v &&& 0x3F)
    let s := if s.portMode n ≠ 0 ∧ s.portMode (portPartner n) = 0 then s.setF (TPT_MODE (portPartner n)) 1 0 1 else s
    s.castling n

/-! Links (R456 to R458). -/

/-- Step 1 of R456. -/
def State.trainLink (s : State) (n : Nat) : State := (s.setPort n { s.port n with training := true }).emit (.training n)

/-- Entries of the route table that use a port as primary. -/
def primaryIs (n a : Nat) (v : W32) : Bool :=
  decide (0x2B0 ≤ a / 0x1000 ∧ a / 0x1000 < 0x2B8 ∧ 0x800 ≤ a % 0x1000) && fld v 2 0 == n && bitAt v 8 && bitAt v 7

/-- Destination of a route table register. -/
def entryNode (a : Nat) : Nat := (a / 0x1000 - 0x2B0) * 512 + (a % 0x1000 - 0x800) / 4

/-- Every unacknowledged packet to a destination is sent again (R466). -/
def State.e2eResend (s : State) (node vc : Nat) : State :=
  let x := s.e2eOf node vc
  if x.store.isEmpty then s
  else
    let s := s.setE2e node vc { x with store := x.store.map fun e => (e.1, e.2.1, e.2.2 + 1) }
    let s := s.satF TSW_RETX 31 0 x.store.length
    s.each x.store fun t e => t.e2eOut e.1 e.2.1

/-- Failover: entries whose primary the port is route by their alternates, and what they carried unacknowledged is sent again at once (R458, R465, R466). -/
def State.failover (s : State) (n : Nat) : State :=
  let hit := s.regs.filter fun e => primaryIs n e.1 e.2 && !bitAt e.2 9
  if hit.isEmpty then s
  else
    let s := s.each hit fun t e => t.setB e.1 9 true
    let s := (s.setPort n { s.port n with returning := true }).event pgTSW 0
    s.each hit fun t e => (t.e2eResend (entryNode e.1) 2).e2eResend (entryNode e.1) 3

/-- Engines with an enabled flow that uses a port (R448, R440 PATH_DOWN). -/
def State.enginesOf (s : State) (n : Nat) : List Nat :=
  (span 0 8).filter fun e => (span (16 * e) 16).any fun f =>
    (s.bit (RXF_CTL f) 0 && (s.f (RXF_CTL f) 6 4 == n || (s.bit (RXF_CTL f) 3 && s.f (RXF_CTL f) 10 8 == n))) ||
    (s.bit (TXF_CTL f) 0 && (s.f (TXF_CTL f) 6 4 == n || (s.bit (TXF_CTL f) 3 && s.f (TXF_CTL f) 10 8 == n)))

/-- A link that is up goes down (R458, R465, R448): its status, its credits, its replay buffer and what waited at the port are gone, routes fail over, flows lose the path. -/
def State.linkLost (s : State) (n : Nat) : State :=
  if !s.bit (TPT_LINK n) 0 then s.setPort n { s.port n with training := false }
  else
    let native := s.portMode n == 2
    let s := s.setF (TPT_LINK n) 7 2 0
    let s := (s.setB (TPT_LINK n) 0 false).event (pgTPT n) 1
    let s := s.each (span 0 4) fun t v => t.setReg (TPT_CREDIT n v) 0
    let s := s.setPort n { returning := (s.port n).returning }
    let s := s.each (s.enginesOf n) fun t e => t.event (pgMPE e) 3
    let s := if native then s.failover n else s
    s.noteFault (162 + n) 255 0

/-- Lanes of an Ethernet rate (R415). -/
def etherLanes (rate : Nat) : Nat := if rate = 3 then 1 else 15

/-- A link completes training (R456 steps 4 and 5; R415). -/
def State.linkUp (s : State) (n : Nat) (credits : List Nat) (reversed : Bool) : State :=
  let native := s.portMode n == 2
  let lanes := if native then 15 else etherLanes (s.f (TPT_MODE n) 3 2)
  let fec := native || s.f (TPT_MODE n) 3 2 != 3 || s.bit (TPT_MODE n) 4
  let s := s.setReg (TPT_LINK n) (BitVec.ofNat 32 (1 ||| lanes <<< 2 ||| b2n fec <<< 6 ||| b2n (native && reversed) <<< 7))
  let s := s.setPort n { s.port n with training := false, credits := (span 0 4).map fun v => credits.getD v 0 % 1024 }
  let s := if native then s.each (span 0 4) fun t v => t.setReg (TPT_CREDIT n v) (BitVec.ofNat 32 (credits.getD v 0 % 1024)) else s
  s.event (pgTPT n) 0

/-- The return of routes to a primary that has been up for RETURN_MS (R465): MEDIA and CTRL at once, MEM and BULK of a destination when nothing to it is unacknowledged. -/
def State.failback (s : State) (n : Nat) : State :=
  let hit := s.regs.filter fun e => primaryIs n e.1 e.2 && bitAt e.2 9
  let s := s.setPort n { s.port n with returning := false }
  let s := s.each hit fun t e =>
    let node := entryNode e.1
    let busy := !(t.e2eOf node 2).store.isEmpty || !(t.e2eOf node 3).store.isEmpty
    let t := t.setB e.1 9 false
    if busy then (t.setE2e node 2 { t.e2eOf node 2 with onAlt := true }).setE2e node 3 { t.e2eOf node 3 with onAlt := true } else t
  s.event pgTSW 1

/-- A destination whose stores have emptied leaves the alternate (R465, R488). -/
def State.altSettle (s : State) (node : Nat) : State :=
  if (s.e2eOf node 2).store.isEmpty && (s.e2eOf node 3).store.isEmpty then
    (s.setE2e node 2 { s.e2eOf node 2 with onAlt := false }).setE2e node 3 { s.e2eOf node 3 with onAlt := false }
  else s

/-! The enable of a port (R55, R456, R481). -/

/-- Setting CTL.EN: ignored in CASTLE mode and while the port drains; a native link starts training. -/
def State.portEnable (s : State) (n : Nat) : State :=
  if s.portMode n == 0 || s.bit (hCTL (pgTPT n)) 0 || s.inDrain (pgTPT n) then s
  else
    let s := s.setB (hCTL (pgTPT n)) 0 true
    if s.portMode n == 2 then s.trainLink n else s

end Sys2Proof.Machine
end

