-- ==== Sys2Proof/Machine/HostLink.lean ====
section
/-! DEFINITION. The PCIe attachment (02_host_attachment.md R29 to R47, R60 to R62; 10_interrupts.md R313, R319, R322, R323; 16_clocks_startup.md R508, R515): the link, resets of the host interface and of a function, power states, bus mastering, VFs, BAR2 sizes, PTM. -/

namespace Sys2Proof.Machine

/-! The link (R27 to R29, R61, R62). -/

/-- HOST_LOST (R58, R59). -/
def State.hostLostMark (s : State) : State := (s.setB (hSTAT pgDEV) 9 true).event pgDEV 0

/-- The link is down; DEV_LINK keeps what it trained with (R60, R504). -/
def State.hostDown (s : State) : State := { s with hif := { s.hif with linkUp := false } }.setB DEV_LINK 10 false

/-- Rings that hold or may take work toward the host (R61, R285). -/
def State.hostRings (s : State) : List Nat :=
  (span 0 256).filter fun r => s.hostAddressed r && (s.bit (hCTL (pgRING r)) 0 || s.pageActive (pgRING r))

/-- The link goes down without PERST_N (R61): host rings stop fetching, descriptors that need the host end LINK_DOWN. -/
def State.hostLost (s : State) : State :=
  if !s.hif.linkUp then s
  else
    let rs := s.hostRings
    let s := (s.hostDown.hostLostMark).noteFault 180 255 0
    let s := s.each rs fun t r => t.setRing r { t.ring r with stopped := true }
    let s := s.each (span 0 256) fun t r => if t.ringKind r = 0 then t.cutDescs r 1 eLINK_DOWN Desc.needsHost else t
    s.each (span 0 32) State.icEval

/-- Held PM_PME messages that are still due leave (R322). -/
def State.pmeRelease (s : State) : State :=
  s.each (span 0 32) fun t k =>
    let f := t.fn k
    if !f.pmeHeld then t
    else if f.pmeStatus && f.pmeEn && f.d3 then t.sendPme k
    else t.setFn k { f with pmeHeld := false }

/-- Lane `i` of the link as its number counts: from physical lane 0, or from lane 15 when the lanes are reversed, works (R28). Polarity inversion is undone lane by lane and changes nothing here. -/
def Hif.laneOk (h : Hif) (i : Nat) : Bool := !h.badLanes.getLsbD (if h.reversed then 15 - i else i)

/-- The width to which the link trains: the widest both partners support whose lanes all work; 0 where lane 0 itself fails (R27, R28). -/
def Hif.width (h : Hif) : Nat :=
  (([16, 8, 4, 2, 1] : List Nat).find? fun w => decide (w ≤ h.partnerWidth) && (span 0 w).all h.laneOk).getD 0

/-- The generation to which the link trains: the highest both partners support (R27). -/
def Hif.gen (h : Hif) : Nat := min 5 h.partnerGen

/-- The link trains: to what both partners support, with SRIS on PLL_B, which a common-clock partner does not bring up (R27 to R29). Held messages leave. -/
def State.hostTrain (s : State) : State :=
  let b := s.clock.st == .onB
  if s.hif.linkUp || s.power.perst || !s.clocked || (b && !s.hif.partnerSris) || s.hif.width == 0 then s
  else
    let s := { s with hif := { s.hif with linkUp := true, ltr := none } }
    let s := s.setReg DEV_LINK (BitVec.ofNat 32 (s.hif.gen ||| s.hif.width <<< 4 ||| b2n b <<< 9 ||| 1 <<< 10))
    ((s.pmeRelease).each (span 0 32) State.icEval).ltrUpdate

/-! PTM (R47). -/

/-- A dialogue ends without an answer: VALID is cleared, the latched values stand. -/
def State.ptmFail (s : State) : State :=
  (({ s with hif := { s.hif with ptm := none } }.setB DEV_PTM_CTL 0 false).setB DEV_PTM_CTL 1 false).event pgDEV 1

/-- The master time at the instant of the request, t1: t2 less the propagation delay, which is half of what the round trip holds beyond the partner's own time (R47; PRESUMED, PCI Express: log entry 93). -/
def ptmMaster (p : PtmAnswer) : W64 := p.t2 - (p.round - (p.t3 - p.t2)) / 2

/-- A dialogue ends with the master time of the instant of the request. -/
def State.ptmLatch (s : State) (t : PtpTime) (master : W64) : State :=
  let s := { s with hif := { s.hif with ptm := none } }
  let s := (s.setReg DEV_PTM_MTC_NS t.ns).setPair DEV_PTM_MTC_SEC_LO DEV_PTM_MTC_SEC_HI t.sec.toNat
  let s := s.setPair DEV_PTM_ROOT_LO DEV_PTM_ROOT_HI master.toNat
  ((s.setB DEV_PTM_CTL 0 false).setB DEV_PTM_CTL 1 true).event pgDEV 1

/-- A write of DEV_PTM_CTL.REQ = 1 starts a dialogue: the MTC at the instant of the request is kept; one already running goes on. -/
def State.ptmStart (s : State) : State :=
  if s.bit DEV_PTM_CTL 0 then s
  else { s with hif := { s.hif with ptm := some s.mtc.time } }.setB DEV_PTM_CTL 0 true

/-! Functions (R32 to R40, R43, R46, R313). -/

/-- Records held for a function are written (R43). -/
def State.heldFlush (s : State) (k : Nat) : State := s.each (s.ringsOf k) State.flushHeld

/-- A function's state changes; PME_En is written and PME_Status cleared with it (R43, R322). -/
def State.powerState (s : State) (k : Nat) (d3 pmeEn clearPme : Bool) : State :=
  let f := s.fn k
  let s := s.setFn k { f with d3 := d3, pmeEn := pmeEn, pmeStatus := f.pmeStatus && !clearPme }
  if f.d3 && !d3 then
    let s := s.heldFlush k
    let s := s.each (s.ringsOf k) fun t r => if t.ringKind r = 0 then t.dmaRetire r 8 else t
    (s.icEval k).ltrUpdate
  else s.icEval k

/-- NumVFs and VF Enable are written: the instances of the VFs that no longer exist are reset (R313, R323). -/
def State.vfSet (s : State) (en ari : Bool) (n : Nat) : State :=
  let was := (span 1 31).filter s.vfExists
  let s := { s with hif := { s.hif with vfEnable := en, numVFs := n, ari := ari } }
  s.each (was.filter fun k => !s.vfExists k) fun t k => (t.icReset k).setFn k {}

/-- The window base loses its bits below the size (R36, R40). -/
def alignBase (l v : Nat) : Nat := v % 2 ^ 48 / 2 ^ l * 2 ^ l

/-- A ring ends as the ABORT drain mode does and is reset; its configuration stays (R31, R46, R302). -/
def State.ringEnd (s : State) (r : Nat) : State := (s.ringAbortWork r).ringReset r

/-- Function level reset of VF n (R46, R276, R515). -/
def State.flr (s : State) (k : Nat) : State :=
  let rs := s.ringsOf k
  let ns := (s.sessions.filter fun e => e.2.fn == k && e.2.phase == .opened).map Prod.fst
  let s := s.each rs State.ringAbortWork
  let s := s.each ns fun t n => (t.modSess n fun x => { x with phase := .closing }).closeAbort n
  let s := (s.setFn k { s.fn k with d3 := false }).heldFlush k
  let s := s.each rs State.ringReset
  let s := ((s.releaseAgent (64 + k)).icReset k).setFn k {}
  ((s.incF RST_HIF_CNT 31 16).event pgRST 1).ltrUpdate

/-- Host-interface reset under PERST_SCOPE = 1 (R31, R515): the link goes down, every function, every instance and every host-addressed ring is reset. -/
def State.hifReset (s : State) : State :=
  let rs := (span 0 256).filter s.hostAddressed
  let s := s.hostDown
  let s := s.each rs State.ringAbortWork
  let s := s.each (span 0 256) State.flushHeld
  let s := s.each rs State.ringReset
  let s := s.each (span 0 32) State.icReset
  let s := if s.hif.ptm.isSome then s.ptmFail else s
  let s := { s with hif := s.hif.outside }
  ((s.hostLostMark).incF RST_HIF_CNT 15 0).event pgRST 0

/-! Commands. -/

/-- HOST_LINK_DOWN (R61). -/
def execHostLinkDown (s : State) : Out := .next (if s.clocked then s.hostLost else s)

/-- HOST_LINK_RESTORED (R62): the link trains again. -/
def execHostLinkRestored (s : State) : Out := .next s.hostTrain

/-- FLR of a VF; PF0 has none (R41, R42, R46). -/
def execFlr (fn : FnId) (s : State) : Out :=
  .next (if s.hostUp && s.vfExists fn.val then s.config fn.val fun s => s.flr fn.val else s)

/-- POWER_STATE_CHANGE (R43): a configuration write of the power management control of a function. -/
def execPowerStateChange (fn : FnId) (d3 pmeEn clearPme : Bool) (s : State) : Out :=
  .next (if s.hostUp && s.fnExists fn.val then s.config fn.val fun s => s.powerState fn.val d3 pmeEn clearPme else s)

/-- BUS_MASTER_ENABLE_CHANGE (R284, R319): rings wait or go on by the new value, held messages are evaluated. -/
def execBusMasterEnableChange (fn : FnId) (on : Bool) (s : State) : Out :=
  .next (if s.hostUp && s.fnExists fn.val then
      s.config fn.val fun s => (s.setFn fn.val { s.fn fn.val with bme := on }).icEval fn.val
    else s)

/-- VF_DISABLE (R313): a configuration write of VF Enable, ARI Capable Hierarchy and NumVFs. -/
def execVfDisable (vfEnable ari : Bool) (numVFs : FnId) (s : State) : Out :=
  .next (if s.hostUp then s.config 0 fun s => s.vfSet vfEnable ari numVFs.val else s)

/-- BAR2_RESIZE (R36): one of the advertised sizes; DEV_BAR2_BASE follows its alignment. -/
def execBar2Resize (log2 : Nat) (s : State) : Out :=
  .next (if s.hostUp && decide (30 ≤ log2 ∧ log2 ≤ 38) then
      s.config 0 fun s =>
        { s with hif := { s.hif with bar2Log2 := log2 } }.setPair DEV_BAR2_BASE_LO DEV_BAR2_BASE_HI (alignBase log2 (s.pair DEV_BAR2_BASE_LO DEV_BAR2_BASE_HI))
    else s)

/-- PTM_REQUEST (R47). -/
def execPtmRequest (who : Who) (s : State) : Out := .next (s.access who pgDEV State.ptmStart)

/-- PTM_DONE (R47): the dialogue in progress ends, with the master time or failed. -/
def execPtmDone (answer : Option PtmAnswer) (s : State) : Out :=
  .next (match s.hif.ptm, answer with
    | some t, some p => if s.clocked then s.ptmLatch t (ptmMaster p) else s
    | some _, none => if s.clocked then s.ptmFail else s
    | none, _ => s)

end Sys2Proof.Machine
end

