-- ==== Sys2Proof/Machine/ClockBase.lean ====
section
/-! DEFINITION. The clock system as shared operations (16_clocks_startup.md R494 to R505, R513, R514, R516 to R522; 12_hbm_memory.md R363; 17_faults_recovery.md R531): PLLs and their qualification, switching, the stop sequence, the restart, and a port's link going down with what hangs on it. -/

namespace Sys2Proof.Machine

/-- An event of the CKG page; in HOLD it is kept for the restart (R513). -/
def State.ckgEvent (s : State) (b : Nat) : State :=
  let s := s.latch 40 1
  if s.clock.st = .hold then { s with clock := { s.clock with heldEvents := setBit s.clock.heldEvents b true } }
  else s.event pgCKG b

/-- A PLL, by B or not: qualified, enabled, its reference there (R494, R495, R514). -/
def State.pllQual (s : State) (b : Bool) : Bool := s.bit CKG_SYS (if b then 10 else 9)
def State.setQual (s : State) (b q : Bool) : State := s.setB CKG_SYS (if b then 10 else 9) q
def State.pllEnabled (s : State) (b : Bool) : Bool := if b then s.bit CKG_PLLB_CFG 0 else s.clock.aEnabled
def State.setRef (s : State) (b ok : Bool) : State :=
  let s := if b then s else { s with power := { s.power with refclk := ok } }
  s.setB CKG_SYS (if b then 12 else 11) ok

/-- The port that PLL_B takes its reference from. -/
def State.pllPort (s : State) : Nat := s.f CKG_PLLB_CFG 3 1

/-- The port's mode gives PLL_B a reference: NATIVE, or Ethernet 400G or 200G (R494). -/
def State.refMode (s : State) (n : Nat) : Bool := s.portMode n == 2 || (s.portMode n == 3 && decide (s.f (TPT_MODE n) 3 2 < 2))

/-- PLL_B's port gives it a reference: UP, or in HOLD in such a mode (R494, R497, R520). -/
def State.refB (s : State) : Bool :=
  let n := s.pllPort
  s.bit CKG_PLLB_CFG 0 && s.refMode n && (!s.running || s.portUp n)

/-- PLLB_REF_OK follows the port (R514). -/
def State.refUpdate (s : State) : State := s.setRef true s.refB

/-- The system PLL in use (R499). -/
def State.sysPll (s : State) : Option Bool :=
  match s.clock.st with
  | .onA => some false
  | .onB => some true
  | _ => none

/-- The system PLL becomes `b` (R500). -/
def State.setSys (s : State) (b : Bool) : State :=
  let s := { s with clock := { s.clock with st := if b then .onB else .onA } }
  (s.setB CKG_SYS 0 b).setB CKG_SYS 8 b

/-- Hitless switch (R500). -/
def State.pllSwitch (s : State) (b : Bool) : State := ((s.setSys b).inc CKG_SWITCHES).event pgCKG 1

/-! The stop sequence (R501, R502, R363). -/

/-- A stack enters self-refresh, or its contents are lost: SR_MISSED (R363). -/
def State.stackStop (s : State) (usable : Bool) (i : Nat) : State :=
  if usable then s.setStack i { s.stack i with selfRefresh := true }
  else if (s.stack i).selfRefresh then s
  else
    let size := s.stackGiB * GiB
    let s := { s with memSeed := tabPut (fun _ => 0) s.memSeed i (s.fresh + 1), hbm := s.hbm.filter fun e => e.1 / size != i,
                      poison := s.poison.filter fun e => e.1 * 32 / size != i }
    (s.event (pgHBM i) 8).noteFault (150 + i) 255 0

/-- Contents lost draw their open bytes from numbers of their own. -/
def State.stacksStop (s : State) (usable : Bool) : State :=
  let s := s.each (span 0 4) fun t i => t.stackStop usable i
  if usable then s else { s with fresh := s.fresh + s.hbmSize }

/-- The pulse of the stop sequence: it ignores ARM and leaves it (R531). -/
def State.stopPulse (s : State) : State := { s with power := { s.power with pulse := true } }

/-- The synthesized domains stop with their state held; every link of the module goes down (R501, R502). The host link's part is carried out at the restart. -/
def State.clockStop (s : State) (usable : Bool) (st : ClockState) : State :=
  let s := { s with clock := { s.clock with st := st } }
  let s := (s.stacksStop usable).stopPulse
  s.each (span 0 8) State.linkLost

/-- The system PLL in use has failed (R500). -/
def State.fallback (s : State) (usable : Bool) : State :=
  match s.sysPll with
  | none => s
  | some b =>
    if s.pllQual (!b) then s.pllSwitch (!b)
    else if s.pllEnabled (!b) then s.clockStop usable .hold
    else s.clockStop usable .clockLost

/-- A PLL fails, by its reference or by itself (R497, R500). With a reference lost, the PLL coasts: a clock is still usable. -/
def State.pllFail (s : State) (b refLost : Bool) : State :=
  let s := if refLost then s.setRef b false else s
  if !s.pllEnabled b then s
  else
    let s := ((s.setQual b false).ckgEvent (if b then 6 else 5)).noteFault (if b then 187 else 186) 255 0
    if s.sysPll = some b then s.fallback refLost else s

/-- Both references fail within the same microsecond: the stop sequence, whatever the standby PLL's qualification was (R517). -/
def State.bothFail (s : State) : State :=
  let s := s.each [false, true] fun t b =>
    let t := t.setRef b false
    if t.pllEnabled b then ((t.setQual b false).ckgEvent (if b then 6 else 5)).noteFault (if b then 187 else 186) 255 0 else t
  match s.sysPll with
  | none => s
  | some b => s.clockStop true (if s.pllEnabled (!b) then .hold else .clockLost)

/-- REFCLK and the PLL_B reference disagree: the PLL in use stays, the other is no longer qualified (R497). -/
def State.refDisagree (s : State) : State :=
  match s.sysPll with
  | some b => if s.pllQual false && s.pllQual true then ((s.setQual (!b) false).ckgEvent 10).noteFault 189 255 0 else s
  | none => s

/-- A link goes down; PLL_B loses a reference taken from it (R458, R497, R520). -/
def State.linkDown (s : State) (n : Nat) : State :=
  let was := s.refB
  let s := s.linkLost n
  if was && !s.refB then s.pllFail true true else s

/-- A native port that is still enabled trains again (R456, R502). -/
def State.linkRetrain (s : State) (n : Nat) : State :=
  if s.portMode n == 2 && s.bit (hCTL (pgTPT n)) 0 && !s.gated (pgTPT n) then s.trainLink n else s

/-! The restart (R501, R502, R513, R519, R522). -/

/-- A frequency measurement that met the hold ends with TIMEOUT = 1; what it had counted is open (R522). -/
def State.meterHeld (s : State) : State :=
  if s.bit CKG_FM_CTL 24 then
    ((((s.setB CKG_FM_CTL 24 false).setB CKG_FM_CTL 25 true).setReg CKG_FM_COUNT s.freeWord).draw).event pgCKG 9
  else s

/-- The media time domain has stood still (R424). -/
def State.mtcStopped (s : State) : State := (s.event pgMTC 1).setB MTC_STATUS 0 true

/-- The domains restart from a PLL after a hold of `us` microseconds. -/
def State.restart (s : State) (b : Bool) (us : Nat) : State :=
  let held := s.clock.heldEvents
  let late := s.clock.heldReset
  let s := s.setSys b
  let s := { s with clock := { s.clock with heldEvents := 0, heldReset := none } }
  let s := s.each (span 0 4) fun t i => t.setStack i { t.stack i with selfRefresh := false }
  let s := (s.setReg (hEVT pgCKG) (s.reg (hEVT pgCKG) ||| held)).event pgCKG 2
  let s := (s.setF CKG_HOLD 15 0 (min us 65535)).incF CKG_HOLD 31 16
  let s := s.noteFault 190 255 0 (BitVec.ofNat 32 us)
  let s := s.meterHeld.mtcStopped.hostLost
  let s := s.each (span 0 8) State.linkRetrain
  if late.isSome && s.resetReq.isNone then { s with resetReq := late } else s

end Sys2Proof.Machine
end

