-- ==== Sys2Proof/Machine/Blocks.lean ====
section
/-! DEFINITION. How a block runs, drains, aborts and resets: CTL of every page (02_host_attachment.md R54 to R56; 03_codec_cores_sessions.md R93; 07_composer.md R230; 09_rings_dma.md R301, R302; 10_interrupts.md R323, R324; 11_buffer_pools.md R585; 14_network_media.md R423, R428, R439; 15_tolac_fabric_espalier.md R454, R481, R483; 17_faults_recovery.md R533, R534; 19_register_index.md R578). -/

namespace Sys2Proof.Machine

/-! Parts of a reset. -/

/-- Halves of register pairs that a page holds are gone with its registers (R53). -/
def State.dropHalves (s : State) (first n : Nat) : State :=
  let out (a : Nat) : Bool := !decide (first ≤ a / 0x1000 ∧ a / 0x1000 < first + n)
  { s with hiLatch := s.hiLatch.filter fun e => out e.1, loHeld := s.loHeld.filter fun e => out e.1 }

/-- Pages return to their reset values (R10, R580). -/
def State.clearPages (s : State) (first n : Nat) : State := (s.clearRegs first n fun _ => false).dropHalves first n

/-- Whether a request of a page's block is still open: one it sent, or one it accepted (R533 step 2). -/
def State.openRequests (s : State) (p : Nat) : Bool :=
  match pageInfo p with
  | none => false
  | some (r, i) =>
    match r.block with
    | .ring => s.remotes.any fun x => match x.req with | .desc g _ _ => g == i | _ => false
    | .hdg => s.remotes.any fun x => x.req == .seq (36 + i)
    | .tsw => !s.remotes.isEmpty
    | _ => false

/-- The open requests of a block are answered ABORT_RESET. -/
def State.requestsEnd (s : State) (p : Nat) : State :=
  match pageInfo p with
  | none => s
  | some (r, i) =>
    match r.block with
    | .ring => s.remotesFail (fun x => match x.req with | .desc g _ _ => g == i | _ => false) .abortReset
    | .hdg => s.remotesFail (fun x => x.req == .seq (36 + i)) .abortReset
    | .tsw => s.remotesFail (fun _ => true) .abortReset
    | _ => s

/-! Each block's reset: its work ends as ABORT ends it, then its state returns to reset values. -/

/-- A composer pipe and its table windows (R230); a thermal trip goes on refusing pictures (R563). -/
def State.pipeReset (s : State) (p : Nat) : State :=
  let s := s.pipeAbort p
  let fs := (span 0 128).filter fun f => (s.txf f).bound == some (40 + p)
  let s := s.each fs fun t f =>
    let os := (t.txf f).offers
    let t := (t.setTxf f { t.txf f with offers := [] }).bindFlow f none
    t.each os fun u o => (u.poolRelease o.agent o.handle).1
  let s := s.setPipe p { tripped := (s.pipe p).tripped }
  ((s.clearPages (pgCMP p) 1).clearPages (0x260 + 16 * p) 16).releaseAgent (40 + p)

/-- A port: its link goes down, its mode returns to CASTLE (R454, R482). -/
def State.portReset (s : State) (n : Nat) : State :=
  let s := (s.linkDown n).setPort n {}
  (((s.clearPages (pgTPT n) 1).castling n).refUpdate).releaseAgent (52 + n)

/-- The switch: stores, sequence state and groups are gone (R466, R483). -/
def State.switchReset (s : State) : State := { s with e2e := [], esps := [] }.clearPages pgTSW 1

/-- Everything a flow holds is let go (R428). -/
def State.flowEmpty (s : State) (tx : Bool) (f : Nat) : State :=
  if tx then
    let x := s.txf f
    (s.setTxf f { x with pics := [], units := [], off := 0, late := false }).txDrop x.pics x.units
  else
    let x := s.rxf f
    let s := s.setRxf f { draining := x.draining }
    s.each (x.started ++ x.staged.map RxStaged.handle) fun t h => (t.poolRelease (mpeAgent f) h).1

/-- ABORT of an engine: its flows hold nothing more; those that drain are IDLE (R428, R439). -/
def State.engineAbort (s : State) (n : Nat) : State :=
  s.each (span (16 * n) 16) fun t f => (((t.flowEmpty false f).rxSettle f).flowEmpty true f).txSettle f

/-- A media engine: flows, host frames and settings; producers keep their bindings (R434, R439). -/
def State.engineReset (s : State) (n : Nat) : State :=
  let s := s.engineAbort n
  let s := s.each (span (16 * n) 16) fun t f => (t.setRxf f {}).setTxf f { bound := (t.txf f).bound, offers := (t.txf f).offers }
  ((s.setHtxq n []).clearPages (pgMPE n) 1).releaseAgent (44 + n)

/-- Jobs of a hedge that its sequencer has not issued end; with `all` the issued ones end too (R93). -/
def State.hedgeEnd (s : State) (h : Nat) (all : Bool) : State :=
  let ns := s.sessions.filterMap fun e => if State.inHedge e.2 h then some e.1 else none
  s.each ns fun t n =>
    let t := (t.picsCut n).encCut n fun j => j.hedge == h && (all || j.unstarted)
    (t.decCut n fun j => j.hedge == h && (all || (j.phase == .ready && !j.retried))).decsRetire n

/-- A sequencer restarts at the entry of its active bank, its registers at their reset values (R90, R397, R398). -/
def State.seqRestart (s : State) (q : Nat) : State :=
  let x := s.seq q
  s.setSeq q { run := 1, bankA := x.bankA, bankB := x.bankB, activeB := x.activeB, pc := x.active.entry, work := x.work,
               pend := x.pend, swapReq := x.swapReq, swapJob := x.swapJob, faultCause := x.faultCause, faultCount := x.faultCount,
               faultValid := x.faultValid }

/-- A hedge: roles, self-test records and the promotion that runs stay (R93, R544). -/
def State.hedgeReset (s : State) (h : Nat) : State :=
  let s := s.hedgeEnd h true
  let x := s.hedge h
  let s := s.setHedge h { promo := x.promo, faults := x.faults, bist := x.bist }
  let s := (s.clearRegs (pgHDG h) 1 fun a => a == HDG_ROLES h || a == HDG_BIST h).dropHalves (pgHDG h) 1
  ((s.seqRestart (36 + h)).loadUpdate h).overloadUpdate h

/-- A stack comes into service again: on its stored taps, with a tracking retrain first if the temperature has drifted, or by a full training (R355). -/
def State.stackBoot (s : State) (i : Nat) : State :=
  let s := s.setF (HBT_STAT i) 1 0 0
  if s.bit (HBT_STAT i) 2 then
    let s := s.setStack i { s.stack i with selfRefresh := false }
    if s.f (HBT_CTL i) 15 8 < s.drift i then ((s.setStack i { s.stack i with driftDue := true }).setB (HBT_STAT i) 0 true)
    else s.setB (HBT_STAT i) 1 true
  else s.trainStart i

/-- The training block of a stack: its results lie in always-on registers (R355, R371). -/
def State.trainerReset (s : State) (i : Nat) : State :=
  let s := (s.clearRegs (pgHBT i) 1 keptWarm).dropHalves (pgHBT i) 1
  ((s.setB (HBT_STAT i) 3 false).stackBoot i).memUpdate

/-- The reset of a page's block, all but RESET_BUSY. -/
def State.blockClear (s : State) (p : Nat) : State :=
  match pageInfo p with
  | none => s
  | some (r, i) =>
    match r.block with
    | .ic => (s.icReset i).dropHalves p 1
    | .ring => (s.ringReset i).dropHalves p 1
    | .cmp => s.pipeReset i
    | .tpt => s.portReset i
    | .tsw => s.switchReset
    | .mpe => s.engineReset i
    | .mtc => { s with mtc := {} }.clearPages p 1
    | .poolc | .poolt | .poolx => s.poolMgrReset.dropHalves 0x30 16
    | .hdg => s.hedgeReset i
    | .hbt => s.trainerReset i
    | .trt => s.clearPages p 1
    | _ => s

/-- The end of a block reset: IDLE (R533 steps 2 to 5). -/
def State.resetFinish (s : State) (p : Nat) : State :=
  let s := (s.requestsEnd p).blockClear p
  let s := s.each (resetPages p) fun t q => (t.setBusy q false).setDrain q false
  s.ltrUpdate

/-- A block whose requests are all answered ends its reset; one with a request open stays RESET_BUSY until the time-out (R533). -/
def State.resetSettle (s : State) (p : Nat) : State := if s.busy p && !s.openRequests p then s.resetFinish p else s

/-- How a page's CTL behaves. -/
def ctlMode (p : Nat) : CtlMode := (pageInfo p).elim .one fun r => r.1.mode

/-- CTL.SRST = 1: RESETTING, or merged with the reset that runs (R55, R533). Only the pages whose CTL the host writes, HDG among them, take it (R578). -/
def State.softReset (s : State) (p : Nat) : State :=
  if (ctlMode p ≠ .host ∧ ctlMode p ≠ .hdg) ∨ s.busy p then s
  else (((s.setB (hCTL p) 0 false).setB (hCTL p) 1 false).setBusy p true).resetSettle p

/-! RUNNING, DRAINING, IDLE (R55). -/

/-- EN goes from 0 to 1 in a block that is IDLE. -/
def State.blockStart (s : State) (p : Nat) : State :=
  match pageInfo p with
  | none => s
  | some (r, i) =>
    match r.block with
    | .tpt => s.portEnable i
    | .ic => (s.setB (hCTL p) 0 true).icEval i
    | .ring => (s.setB (hCTL p) 0 true).ltrUpdate
    | _ => s.setB (hCTL p) 0 true

/-- Accepted work of a block ended with ABORT semantics. -/
def State.blockAbort (s : State) (p : Nat) : State :=
  match pageInfo p with
  | none => s
  | some (r, i) =>
    match r.block with
    | .ring => s.ringAbortWork i
    | .cmp => (s.pipeAbort i).setDrain p false
    | .tpt => (s.setPort i { s.port i with queue := [] }).linkDown i
    | .tsw => s.each s.e2e fun t e => t.setE2e (e.1 / 4) (e.1 % 4) { t.e2eOf (e.1 / 4) (e.1 % 4) with store := [], waiting := [] }
    | .mpe => s.engineAbort i
    | .hdg => s.hedgeEnd i true
    | _ => s

/-- Blocks that stay in DRAINING until the last of their work is answered. -/
def drains (p : Nat) : Bool :=
  match pageInfo p with
  | none => false
  | some (r, _) => r.block == .ring || r.block == .tpt

/-- EN goes from 1 to 0. -/
def State.blockStop (s : State) (p : Nat) (abort : Bool) : State :=
  let s := (s.setB (hCTL p) 0 false).setB (hCTL p) 1 abort
  let s := if drains p then s.setDrain p true else s
  let s :=
    if abort then s.blockAbort p
    else match pageInfo p with
      | some (⟨.cmp, _, _, _, _, _, _, _⟩, i) => if (s.pipe i).picture.isSome then s.setDrain p true else s.pipeClose i
      | some (⟨.hdg, _, _, _, _, _, _, _⟩, i) => s.hedgeEnd i false
      | _ => s
  s.ltrUpdate

/-- EN and DRAIN_MODE written, without SRST (R55). -/
def State.runWrite (s : State) (p : Nat) (en abort : Bool) : State :=
  if s.busy p then s
  else if en then
    if s.bit (hCTL p) 0 then s.setB (hCTL p) 1 abort
    else if s.pageActive p then s
    else (s.setB (hCTL p) 1 abort).blockStart p
  else if s.bit (hCTL p) 0 then s.blockStop p abort
  else if s.pageActive p then
    if abort && !s.bit (hCTL p) 1 then (s.setB (hCTL p) 1 true).blockAbort p else s
  else s.setB (hCTL p) 1 abort

/-- A write of CTL (R54, R55, R92, R578). -/
def State.ctlWrite (s : State) (p : Nat) (v : W32) : State :=
  match ctlMode p with
  | .host => if bitAt v 2 then s.softReset p else s.runWrite p (bitAt v 0) (bitAt v 1)
  | .hdg => if bitAt v 2 then s.softReset p else s.runWrite p (bitAt v 0) (bitAt v 1)
  | _ => s

/-- The end of a drain or abort: nothing is left, the block becomes IDLE, DRAINED is raised (R301, R481). -/
def State.drainEnd (s : State) (p : Nat) : State :=
  if !s.inDrain p then s
  else match pageInfo p with
    | some (⟨.ring, _, _, _, _, _, _, _⟩, i) =>
      if (s.ring i).descs.isEmpty && (s.ring i).stream.isNone then (s.setDrain p false).event p 4 else s
    | some (⟨.tpt, _, _, _, _, _, _, _⟩, i) =>
      if (s.port i).queue.isEmpty then ((s.linkDown i).setDrain p false).event p 8 else s
    | _ => s

/-! Commands. -/

/-- BLOCK_ENABLE (R55). -/
def execBlockEnable (who : Who) (page : PageId) (s : State) : Out :=
  .next (s.accessHdr who page.val fun s => s.ctlWrite page.val 1)

/-- DRAIN (R55). -/
def execDrain (who : Who) (page : PageId) (s : State) : Out :=
  .next (s.accessHdr who page.val fun s => s.ctlWrite page.val 0)

/-- ABORT (R55). -/
def execAbort (who : Who) (page : PageId) (s : State) : Out :=
  .next (s.accessHdr who page.val fun s => s.ctlWrite page.val 2)

/-- SRST (R55, R533). -/
def execSrst (who : Who) (page : PageId) (s : State) : Out :=
  .next (s.accessHdr who page.val fun s => s.ctlWrite page.val 4)

/-- BLOCK_DRAIN_DONE (R301). -/
def execBlockDrainDone (page : PageId) (s : State) : Out :=
  .next (if s.clocked && !s.busy page.val then s.drainEnd page.val else s)

/-- BLOCK_RESET_REPLY_TIMEOUT (R533): the requests still open are answered, the reset ends. A core resets within its promotion (R86). -/
def execBlockResetReplyTimeout (page : PageId) (s : State) : Out :=
  .next (if s.clocked && s.busy page.val && decide (page.val < 0x200 ∨ 0x224 ≤ page.val) then s.resetFinish page.val else s)

end Sys2Proof.Machine
end

