-- ==== Sys2Proof/Machine/Faults.lean ====
section
/-! DEFINITION. The fault collector and what a raised fault does (17_faults_recovery.md R523 to R546; 03_codec_cores_sessions.md R85 to R91; 13_microcode.md R396, R397): promotion, restarts of sequencers, repairs, injection, FAULT_N and the history. -/

namespace Sys2Proof.Machine

/-! Sequencers stop and start again (R90, R396 to R398). -/

/-- The ROM boot image of a sequencer, as its bank A holds it (R398, R402). -/
def romBank (q : Nat) : Bank :=
  let m := if q < 36 then (Config.romCoreMajor q).toNat else 1
  { st := 2, source := 0, pers := 0, seqType := seqTypeOf q, version := BitVec.ofNat 32 (m <<< 24 ||| (Config.romVersionLow q).toNat), entry := (Config.romEntry q).toNat }

/-- A sequencer stops with a fault of R396: its uncommitted writes are gone, CSW_FAULT records it, SEQ_FAULT is raised. -/
def State.seqStop (s : State) (q cause : Nat) : State :=
  let x := s.seq q
  (s.setSeq q { x with run := 3, shadow := [], aside := [], newFlags := none, lcWrite := none, dstWrite := none, yielded := false, phase := 0,
                       faultCause := cause, faultCount := min (x.faultCount + 1) 255, faultValid := true }).event pgCSW 2

/-- A LOAD_IMAGE in progress when the management sequencer restarts is refused with REFUSE 4 (R397). -/
def State.loadsRefused (s : State) : State :=
  let ws := s.store.waiting
  let s := { s with store := { s.store with waiting := [] } }
  let s := s.each ws fun t w => (t.event pgCSW 1).finishJob w.1 0 (imgBody w.2 4) 0x30
  s.each (span 0 41) fun t q =>
    match (t.seq q).swapJob with
    | none => t
    | some (j, body) =>
      let t := t.setSeq q { t.seq q with swapJob := none, swapReq := none }
      (t.event pgCSW 1).finishJob j 0 (body.map fun e => if e.1 = 0x10 then (0x10, leBytes 1 4) else e) 0x30

/-- The management sequencer restarts from ROM (R397). -/
def State.mgmtRestart (s : State) : State :=
  let x := s.seq 40
  (((s.setSeq 40 { x with bankA := romBank 40, activeB := false }).seqRestart 40).hostCopy 40).loadsRefused.event pgCSW 3

/-- The hedge sequencer restarts; cores go on (R90). A word whose parity failed is as its source image has it again (R397): a bank of State holds no spoilt word. -/
def State.hedgeRestart (s : State) (h : Nat) : State := (s.seqRestart (36 + h)).event (pgHDG h) 6

/-! A raise (R525, R526). -/

/-- Sources 1 to 72 concern a core (R524). -/
def coreSource (src : Nat) : Option Nat := if 1 ≤ src ∧ src ≤ 72 then some ((src - 1) % 36) else none

/-- A raise with all its actions: the record, the promotion or the removal of a core, the reset of a block, and the end of an injection that it is (R525, R526, R534, R539). -/
def State.raise (s : State) (src agent code : Nat) (detail : W32 := 0) : State :=
  if !fltRaised src then s
  else
    let s := s.noteFault src agent code detail
    let s := match coreSource src with
      | some c => s.coreFault c (s.bit (FLT_ACT src) 4)
      | none => s
    let s := match s.inject with
      | some (i, _, none) => if i = src then s.injectSpent else s
      | _ => s
    match fltPage src with
    | some p => if p = pgDEV ∨ fltClass src ≠ 2 ∨ src ≤ 72 then s else s.resetSettle (if 0x30 ≤ p ∧ p < 0x40 then 0x30 else p)
    | none => s

/-- A fault of a sequencer: the sequencer stops, the fault is raised, and a hedge or management sequencer starts again (R396, R397). -/
def State.seqFault (s : State) (q cause : Nat) : State :=
  let x := s.seq q
  let s := s.seqStop q cause
  if q < 36 then
    let sess := (s.core q).job.elim 0 fun j => j.1
    s.raise (1 + q) q cause (BitVec.ofNat 32 (x.pc ||| sess <<< 16))
  else if q < 40 then (s.raise (117 + (q - 36)) q cause).hedgeRestart (q - 36)
  else (s.raise 125 61 cause).mgmtRestart

/-! What a fault does beside its actions. -/

/-- The same word with an error: in what is stored, or in one path's read. -/
def SqWord.spoil (w : SqWord) (kind : Nat) : SqWord :=
  match kind with
  | 0 => { w with parity := w.parity ^^^ 1 }
  | 1 => { w with failed := true }
  | _ => { w with failedB := true }

/-- A word of a slice queue fails its parity: it is delivered with the poison tag (R166). The core is the agent involved. Which of the words it reads, and for a flow with two paths whether the error is stored or in one path's read, the fault does not say: both are open. -/
def State.queuePoison (s : State) (h agent : Nat) : State :=
  if agent / 9 ≠ h then s
  else
    let x := s.core agent
    let a := x.staged.length
    let n := a + x.cons.length
    let k := s.freeWord.toNat % max 1 n
    let dual := x.staged.head?.any fun w => s.bit (TXF_CTL (leAt (s.sess (tagSess w.data)).desc 0x25 1)) 3
    let kind := if dual then (Config.freeWord (s.fresh + 1)).toNat % 3 else 0
    let hit (base : Nat) (l : List SqWord) : List SqWord := ((List.range l.length).zip l).map fun e => if base + e.1 = k then e.2.spoil kind else e.2
    ({ s with fresh := s.fresh + 2 }).setCore agent { x with staged := hit 0 x.staged, cons := hit a x.cons }

/-- The replacement of word `d` of live table `t` (R527): the pending copy, or, while its member is pending, the entry below it or phase 0 of the reset coefficients; below entry 0 the manual names nothing. -/
def State.tableWord (s : State) (p t d : Nat) (opn : W32) : W32 :=
  if !s.locked p (tabMember t) then tabGet cltDefault (s.pipe p).tabPend (t * 8192 + d)
  else if 0x10 ≤ t ∧ t < 0x18 then cltDefault (t * 8192 + d % 4)
  else if 0x18 ≤ t ∧ t < 0x20 then cltDefault (t * 8192 + d % 3)
  else
    let k := if t = 0x21 then 1 else 2
    if d < k then opn else tabGet cltDefault (s.pipe p).tabLive (t * 8192 + (d - k))

/-- An uncorrectable word of a composer (R527). Whether it lies in a line buffer or in a table, and which, the raise does not say: the choice is open. -/
def State.composerRepair (s : State) (p : Nat) : State :=
  let t := s.freeWord.toNat % 34
  let line := Config.freeBool (s.fresh + 1)
  let d := (Config.freeWord (s.fresh + 2)).toNat % max 1 (cltSize t)
  let opn := Config.freeWord (s.fresh + 3)
  let s := { s with fresh := s.fresh + 4 }
  if line && (s.pipe p).picture.isSome then s.lineLate p
  else s.setPipe p { s.pipe p with tabLive := tabPut cltDefault (s.pipe p).tabLive (t * 8192 + d) (s.tableWord p t d opn) }

/-- An uncorrectable word of the DMA engine's buffer: the data of one transfer in flight is written with poison; which one is open (R524 source 181). -/
def State.dmaPoison (s : State) : State :=
  let ds := (s.rings.map fun e => (e.2.descs.filter fun d => d.started && d.ended.isNone).map fun d => (e.1, d.index)).flatten
  let cs := s.chans.filterMap fun e => if e.2.isSome then some e.1 else none
  let n := ds.length + cs.length
  if n = 0 then s
  else
    let k := s.freeWord.toNat % n
    let s := s.draw
    match ds[k]? with
    | some (r, i) =>
      match s.descAt r i with
      | some d => s.setDesc r { d with xfer := { d.xfer with poison := true } }
      | none => s
    | none =>
      match cs[k - ds.length]? with
      | some c => match s.chan c with
        | some x => s.setChan c (some { x with xfer := { x.xfer with poison := true } })
        | none => s
      | none => s

/-- What the block does about a fault of a source (R90, R166, R397, R524, R527, R568). -/
def State.faultEffect (s : State) (src agent code : Nat) : State :=
  if 113 ≤ src ∧ src ≤ 116 then s.queuePoison (src - 113) agent
  else if 117 ≤ src ∧ src ≤ 120 then
    let q := 36 + (src - 117)
    (if 1 ≤ code ∧ code ≤ 6 then s.seqStop q code else s).hedgeRestart (src - 117)
  else if src = 125 then (s.seqStop 40 code).mgmtRestart
  else if 130 ≤ src ∧ src ≤ 133 then s.composerRepair (src - 130)
  else if src = 181 then s.dmaPoison
  else if src = 196 then s.event pgSMB 6
  else s

/-- A fault found by the hardware (R525): a core's sequencer stops before the raise, so that its promotion finds it so. -/
def State.faultFound (s : State) (src agent code : Nat) (detail : W32) : State :=
  if !fltRaised src then s
  else
    let s := if 1 ≤ src ∧ src ≤ 36 ∧ s.domainOn (src - 1) then s.seqStop (src - 1) (code % 16) else s
    (s.raise src agent code detail).faultEffect src agent code

/-! Injection (R538, R539, R541). -/

/-- The raise that an injection into a source's memory leads to: the source of its pair that one bit or two bits raise; none where the source has no memory (R524, R539). -/
def flipSource (src : Nat) (two : Bool) : Option Nat :=
  let pair (ce ue n : Nat) : Option Nat :=
    if ce ≤ src ∧ src < ce + n then some (if two then ue + (src - ce) else src)
    else if ue ≤ src ∧ src < ue + n then some (if two then src else ce + (src - ue))
    else none
  (((((pair 73 37 36).or (pair 121 117 4)).or (pair 126 130 4)).or (pair 134 138 4)).or (pair 182 183 1)).or (pair 185 184 1)

/-- GO of an injection (R539). -/
def State.injectGo (s : State) (src mode : Nat) : State :=
  if mode = 0 then
    if !fltRaised src then s
    else
      let w := s.reg FLT_INJ_SYND
      ((s.setB FLT_INJ_STAT 1 false).raise src 255 (fld w 7 0) (BitVec.ofNat 32 (fld w 31 8))).setB FLT_INJ_STAT 1 true
  else match flipSource src (mode == 2) with
    | none => s
    | some r => { (((s.setB FLT_INJ_STAT 1 false).setB FLT_INJ_CTL 16 true)) with inject := some (r, mode, none) }

/-- A write of FLT_INJ_CTL, ignored while locked. GO while an injection waits starts no second one (DESIGN CHOICE, log entry 132). -/
def State.injectWrite (s : State) (v : W32) : State :=
  if !s.bit FLT_INJ_STAT 0 then s
  else
    let mode := if fld v 9 8 = 3 then 0 else fld v 9 8
    let waits := s.bit FLT_INJ_CTL 16
    let s := s.setReg FLT_INJ_CTL (BitVec.ofNat 32 (fld v 7 0 ||| mode <<< 8 ||| b2n waits <<< 16))
    if bitAt v 16 && !waits then s.injectGo (fld v 7 0) mode else s

/-- GO written with one of the three modes, the source as it stands. -/
def State.injectMode (s : State) (mode : Nat) : State :=
  { s with unlock := 0 }.injectWrite (BitVec.ofNat 32 (s.f FLT_INJ_CTL 7 0 ||| mode <<< 8 ||| 1 <<< 16))

/-- UNLOCKED falls: an injection that waits is gone, the trace domain is gated (R506, R538). -/
def State.injectLock (s : State) : State :=
  let s := { s with unlock := 0, inject := none }
  (((s.setReg FLT_INJ_STAT 0).setReg FLT_INJ_CTL 0).setReg FLT_INJ_SYND 0).setDomain 99 false

/-- A write of FLT_UNLOCK (R538): the three values in turn; a value out of turn starts again. -/
def State.unlockWrite (s : State) (v : W32) : State :=
  let first := v == 0xC1E0
  let step :=
    if s.unlock = 1 ∧ v.toNat = s.f DEV_SERIAL_LO 15 0 then 2
    else if s.unlock = 2 ∧ v = 0xE1C then 3
    else if first then 1 else 0
  if step = 3 then (if s.testEn then { s with unlock := 0 }.setB FLT_INJ_STAT 0 true else { s with unlock := 0 })
  else { s with unlock := step }

/-- A write of FLT_HIST_ACK: only a SEQ already issued is taken (R529, R541). -/
def State.histAck (s : State) (v : W32) : State :=
  let q := fld v 15 0
  let s := { s with unlock := 0 }
  if q ≠ 0 ∧ (65535 ≤ s.histTotal ∨ q < s.f FLT_HIST_PTR 31 16) then s.setReg FLT_HIST_ACK (BitVec.ofNat 32 q) else s

/-! Commands. -/

/-- FAULT_RAISE (R525). -/
def execFaultRaise (src : SourceId) (agent code : Byte) (detail : W32) (s : State) : Out :=
  .next (if s.power.good then s.faultFound src.val agent.toNat code.toNat detail else s)

/-- FAULT_N_PULSE_END (R531). -/
def execFaultNPulseEnd (s : State) : Out := .next { s with power := { s.power with pulse := false } }

/-- FLT_UNLOCK (R538). -/
def execFltUnlock (who : Who) (v : W32) (s : State) : Out := .next (s.access who pgFLT fun s => s.unlockWrite v)

/-- FLT_HIST_ACK_WRITE (R529, R541, R545). -/
def execFltHistAckWrite (who : Who) (v : W32) (s : State) : Out := .next (s.access who pgFLT fun s => s.histAck v)

/-- EVENT (R539). -/
def execEvent (who : Who) (s : State) : Out := .next (s.access who pgFLT fun s => s.injectMode 0)

/-- FLIP1 (R539). -/
def execFlip1 (who : Who) (s : State) : Out := .next (s.access who pgFLT fun s => s.injectMode 1)

/-- FLIP2 (R539). -/
def execFlip2 (who : Who) (s : State) : Out := .next (s.access who pgFLT fun s => s.injectMode 2)

/-- TEST_EN_FALL (R538). -/
def execTestEnFall (s : State) : Out := .next { s with testEn := false }.injectLock

end Sys2Proof.Machine
end

