-- ==== Sys2Proof/Machine/Resets.lean ====
section
/-! DEFINITION. Warm and cold resets, start-up, and what PERST_N does (16_clocks_startup.md R508 to R512; 02_host_attachment.md R31, R60; 12_hbm_memory.md R355, R367; 13_microcode.md R398). -/

namespace Sys2Proof.Machine

/-! Boot (R398, R512). -/

/-- The ROM images are in bank A of every sequencer, each starts at its ENTRY, and BOOT_DONE is set. -/
def State.boot (s : State) : State :=
  let s := s.each (span 0 41) fun t q => t.setSeq q { run := 1, bankA := romBank q, pc := (romBank q).entry }
  (s.setB (hSTAT pgDEV) 5 true).loadsUpdate

/-! Warm reset (R509, R510). -/

/-- What a warm reset keeps of a stack: its contents are in `hbm`; here the temperature, the repairs, and self-refresh (R509, R367). -/
def Stack.kept (x : Stack) : Stack := { temp := x.temp, hard := x.hard, repaired := x.repaired, soft := x.soft, spareLanes := x.spareLanes, selfRefresh := true }

/-- What a warm reset keeps of a core: the record of its latest self-test (R88). -/
def Core.kept (x : Core) : Core := { test := x.test }

/-- Requests that a stack holds are answered ABORT_RESET (R510 step 3). -/
def State.heldAborted (s : State) : State :=
  s.each (span 0 4) fun t i => t.each (t.stack i).waiting fun u h => u.emit (.resp h.agent .abortReset [])

/-- Transfers in flight stop: an undefined part of their data has landed (R293, R510). -/
def State.transfersCut (s : State) : State :=
  s.each (span 0 256) fun t r => t.each ((t.ring r).descs.filter fun d => d.started && d.ended.isNone) State.descPartial

/-- Everything but what R509 keeps is at its reset value; stacks are in self-refresh. -/
def State.warmClear (s : State) : State :=
  let tests := (span 0 4).filter fun h => (s.hedge h).bist.isSome
  let t : State :=
    { pending := s.pending, outbox := s.outbox, fresh := s.fresh, variant := s.variant, rev := s.rev, signReq := s.signReq,
      testEn := s.testEn, sa := s.sa, regs := s.regs.filter fun e => keptWarm e.1, hbm := s.hbm, memSeed := s.memSeed,
      poison := s.poison, host := s.host,
      hif := s.hif.outside,
      hbmStacks := tabMap (fun _ => ({} : Stack)) (fun _ x => x.kept) s.hbmStacks,
      cores := tabMap (fun _ => ({} : Core)) (fun _ x => x.kept) s.cores,
      clock := { st := s.clock.st, aEnabled := s.clock.aEnabled }, power := s.power, uptime := s.uptime, histTotal := s.histTotal }
  t.each tests fun u h => u.setB (HDG_BIST h) 8 false

/-- The stacks come back: hard repairs first, then the stored taps or a full training (R355, R367). -/
def State.stacksBoot (s : State) (cold : Bool) : State :=
  (s.each (span 0 4) fun t i => (((t.pprApply i cold).setB (HBT_STAT i) 3 false).stackBoot i)).memUpdate

/-- The cause of a reset (R511). -/
def State.causeSet (s : State) (cause : Nat) : State := s.setReg RST_CAUSE (BitVec.ofNat 32 cause)

/-- A warm reset with its cause. The ports castle first; if PLL_B loses its reference by that and no clock is left, the reset waits for the restart (R510, R519). -/
def State.warmReset (s : State) (cause : Nat) : State :=
  let s := s.each (span 0 8) State.linkDown
  if !s.running then { s with resetReq := none, clock := { s.clock with heldReset := some cause } }
  else
    let s := s.transfersCut.heldAborted.warmClear
    let s := ((s.causeSet cause).inc RST_WARM_CNT).refUpdate
    (s.stacksBoot false).boot.hostTrain

/-! Cold reset and start-up (R508, R512). -/

/-- The rails are off: what is left is outside the supply, in fuses or permanent. The next start-up records the cause (R509, R511). -/
def State.powerOff (s : State) (cause : Nat) : State :=
  { pending := s.pending, outbox := s.outbox, fresh := s.fresh, variant := s.variant, rev := s.rev, signReq := s.signReq,
    testEn := s.testEn, sa := s.sa, regs := s.regs.filter fun e => e.1 == CSW_KEYS || e.1 == DEV_SERIAL_LO || e.1 == DEV_SERIAL_HI, host := s.host,
    hif := s.hif.outside,
    hbmStacks := tabMap (fun _ => ({} : Stack)) (fun _ x => { hard := x.hard, repaired := x.repaired }) s.hbmStacks,
    power := { pwrEn := s.power.pwrEn, bulk := s.power.bulk, tripped := s.power.tripped, shutdown := s.power.shutdown,
               feedAOff := s.power.feedAOff, feedBOff := s.power.feedBOff, feedALow := s.power.feedALow, feedBLow := s.power.feedBLow,
               cause := cause, perst := s.power.perst, refclk := s.power.refclk } }

/-- PLL_A begins to lock: PERST_N is deasserted, power is good and REFCLK is there (R494, R512). -/
def State.lockA (s : State) : State :=
  if s.power.good && !s.power.perst && s.power.refclk then { s with clock := { s.clock with aEnabled := true } } else s

/-- PLL_A has qualified in START: the domains start, the images are copied, the links and the stacks train (R512). -/
def State.startUp (s : State) : State :=
  let s := (s.setSys false).causeSet s.power.cause
  (s.stacksBoot true).boot.hostTrain

/-! PERST_N and hot resets (R30, R31). -/

/-- From the deassertion of PERST_N on, configuration space becomes ready after an open time of at most 100 ms (R30; log entry 94). -/
def State.configWait (s : State) : State :=
  { s.draw with hif := { s.hif with readyIn := s.freeWord.toNat % 100001 } }

/-- PERST_SCOPE. -/
def State.hostOnly (s : State) : Bool := s.bit DEV_HOSTCTL 0

/-- The reset that PERST_SCOPE selects. -/
def State.scopeReset (s : State) (cause : Nat) : State :=
  match s.clock.st with
  | .onA | .onB =>
    if s.resetReq.isSome then s.hostDown
    else if s.hostOnly then s.hifReset else s.warmReset cause
  | .hold => if s.hostOnly then s.hifReset else s.askReset cause
  | _ => s

/-! Commands. -/

/-- DEV_RST (R60): the keyed write asks for a warm reset, in which every block is QUIESCING from now on. -/
def execDevRst (who : Who) (v : W32) (s : State) : Out :=
  .next (s.access who pgDEV fun s => if fld v 7 0 = 0xA5 ∧ bitAt v 8 then s.askReset 4 else s)

/-- WARM_RESET (R510): the warm reset that was asked for is carried out. -/
def execWarmReset (s : State) : Out :=
  .next (match s.resetReq with
    | some c => if s.running then s.warmReset c else s
    | none => s)

/-- PERST_N_ASSERT (R31). -/
def execPerstNAssert (s : State) : Out :=
  .next (if s.power.perst then s else { s with power := { s.power with perst := true } }.scopeReset 2)

/-- PCIE_HOT_RESET (R31): it comes over a link that is up, which then trains again after a warm reset. -/
def execPcieHotReset (s : State) : Out := .next (if s.running && s.hif.linkUp then s.scopeReset 3 else s)

/-- PERST_N_DEASSERT (R30, R512): PLL_A begins to lock, or the link of a running module trains. -/
def execPerstNDeassert (s : State) : Out :=
  .next (let s := if s.power.perst then s.configWait else s
    { s with power := { s.power with perst := false } }.lockA.hostTrain)

end Sys2Proof.Machine
end

