-- ==== Sys2Proof/Machine/Fabric.lean ====
section
/-! DEFINITION. The Tolac fabric's commands: ports and links, the link-level retry, forwarding, probes, end-to-end delivery, espalier messages, the route table (15_tolac_fabric_espalier.md R452 to R493; 14_network_media.md R415, R448). -/

namespace Sys2Proof.Machine

/-! Links (R456 to R458, R461). -/

/-- A port carries packets: its link is up, no reset of it runs, the clocks run. -/
def State.portLive (s : State) (n : Nat) : Bool := s.clocked && s.nativeUp n && !s.busy (pgTPT n)

/-- The link resets to step 1 of R456, which TPT_RETRY_CNT counts (R457). -/
def State.linkReset (s : State) (n : Nat) : State :=
  let s := ((s.satF (TPT_RETRY_CNT n) 31 16).event (pgTPT n) 3).linkDown n
  if s.running then s.linkRetrain n else s

/-- A NAK: the sender replays from the oldest flit it holds; 16 replays that fail reset the link (R457). -/
def State.linkNak (s : State) (n : Nat) : State :=
  let p := s.port n
  if p.replay = 0 then s
  else if 16 ≤ p.naks then s.linkReset n
  else
    let s := s.setPort n { p with naks := p.naks + 1 }
    ((s.satF (TPT_RETRY_CNT n) 15 0 p.replay).raise (154 + n) 255 0).emit (.replay n p.oldest)

/-- Whole flits are acknowledged in order (R457). -/
def State.linkAck (s : State) (n k : Nat) : State :=
  let p := s.port n
  let k := min k p.replay
  if k = 0 then s
  else
    let s := s.setPort n { p with replay := p.replay - k, oldest := (p.oldest + k) % 4096, naks := 0 }
    s.portPump n p.queue.length

/-- Credits come back; beyond the buffer that the partner advertised they are an error (R461). -/
def State.creditsBack (s : State) (n v k : Nat) : State :=
  let c := s.f (TPT_CREDIT n v) 9 0 + k
  if (s.port n).credits.getD v 0 < c then (s.event (pgTPT n) 7).linkReset n
  else
    let s := s.setF (TPT_CREDIT n v) 9 0 c
    s.portPump n (s.port n).queue.length

/-- TPT_MODE_WRITE (R454). -/
def execTptModeWrite (who : Who) (port : PortId) (v : W32) (s : State) : Out :=
  .next (s.access who (pgTPT port.val) fun s => (s.modeWrite port.val v).refUpdate)

/-- LINK_TRAINING_START (R456): CTL.EN of the port. -/
def execLinkTrainingStart (who : Who) (port : PortId) (s : State) : Out :=
  .next (s.accessHdr who (pgTPT port.val) fun s => s.ctlWrite (pgTPT port.val) 1)

/-- TOLAC_LINK_UP (R456). -/
def execTolacLinkUp (port : PortId) (credits : List Nat) (reversed : Bool) (s : State) : Out :=
  .next (let n := port.val
    if s.clocked && s.portMode n == 2 && (s.port n).training && !s.gated (pgTPT n) then (s.linkUp n credits reversed).refUpdate else s)

/-- LINK_TRAINING_TIMEOUT (R456): training starts again from step 1. -/
def execLinkTrainingTimeout (port : PortId) (s : State) : Out :=
  .next (if s.clocked && s.portMode port.val == 2 && (s.port port.val).training then s.trainLink port.val else s)

/-- TOLAC_LINK_DOWN (R458, R465). A port that is still enabled trains again. -/
def execTolacLinkDown (port : PortId) (s : State) : Out :=
  .next (if s.clocked && s.nativeUp port.val then
      let t := s.linkDown port.val
      if t.running then t.linkRetrain port.val else t
    else s)

/-- FLIT_NAK (R457). -/
def execFlitNak (port : PortId) (s : State) : Out := .next (if s.portLive port.val then s.linkNak port.val else s)

/-- LINK_ACK_TIMEOUT (R457): flits wait for an acknowledgement that has not advanced. -/
def execLinkAckTimeout (port : PortId) (s : State) : Out :=
  .next (if s.portLive port.val && (s.port port.val).replay != 0 then s.linkReset port.val else s)

/-- FLIT_ACK (R457). -/
def execFlitAck (port : PortId) (n : Nat) (s : State) : Out := .next (if s.portLive port.val then s.linkAck port.val n else s)

/-- CREDIT_RETURN (R461). -/
def execCreditReturn (port : PortId) (vc : Fin 4) (n : Nat) (s : State) : Out :=
  .next (if s.portLive port.val then s.creditsBack port.val vc.val n else s)

/-- ETHERNET_LINK_DOWN (R448, R497). -/
def execEthernetLinkDown (port : PortId) (s : State) : Out := .next (if s.clocked && s.etherUp port.val then s.linkDown port.val else s)

/-- ETHERNET_LINK_UP (R415). -/
def execEthernetLinkUp (port : PortId) (s : State) : Out :=
  .next (let n := port.val
    if s.clocked && s.portMode n == 3 && s.bit (hCTL (pgTPT n)) 0 && !s.bit (TPT_LINK n) 0 && !s.gated (pgTPT n) then
      (s.linkUp n [] false).refUpdate
    else s)

/-- FAILBACK (R465): the primary has been up for RETURN_MS. -/
def execFailback (port : PortId) (s : State) : Out :=
  .next (if s.portLive port.val && (s.port port.val).returning then s.failback port.val else s)

/-! Packets that arrive (R459, R460, R464). -/

/-- Flits of a packet by its header: a read request carries no payload (R459, R460). -/
def fabFlits (h : FabHeader) : Nat := if h.ptype = 6 ∨ h.ptype = 10 then 1 else ceilDiv (32 + h.len) 64

/-- A packet has arrived at a port: its flits are counted (R482). -/
def State.portRx (s : State) (n flits : Nat) : State := s.inc (TPT_RX_FLITS n) flits

/-- The switch works: it is clocked and not in reset. -/
def State.switchUp (s : State) : Bool := s.clocked && !s.gated pgTSW && !s.busy pgTSW

/-- Whether the switch delivers a packet to this node (R462, R464, R483). -/
def State.delivers (s : State) (h : FabHeader) : Bool := s.switchUp && s.bit (hCTL pgTSW) 0 && s.nodeId != 0 && h.dst == s.nodeId

/-- A packet in transit (R460, R464, R483). -/
def State.forward (s : State) (h : FabHeader) (payload : List Byte) : State :=
  if !s.switchUp || !s.bit (hCTL pgTSW) 0 then s
  else if 13 ≤ h.ptype then s.satF TSW_NOROUTE 31 0
  else if s.delivers h then s
  else if h.hops = 0 then (s.satF TSW_HOPDROP 31 0).event pgTSW 3
  else
    let h := { h with hops := h.hops - 1 }
    match s.route h with
    | some m => s.portSend m h payload
    | none => s.noRoute

/-- FABRIC_PACKET_FORWARD (R464). Probes are never forwarded (R463); a packet for this node is its own command's. -/
def execFabricPacketForward (port : PortId) (h : FabHeader) (payload : List Byte) (s : State) : Out :=
  .next (if s.portLive port.val && decide (2 ≤ h.ptype) then (s.portRx port.val (flitsOf payload)).forward h payload else s)

/-- MEDIA_RTP (R468): path A or B by ALT. -/
def execMediaRtp (port : PortId) (h : FabHeader) (payload : List Byte) (s : State) : Out :=
  .next (if s.portLive port.val then
      let s := s.portRx port.val (flitsOf payload)
      let f := h.seq % 128
      let path := if h.alt then s.f (RXF_CTL f) 10 8 else s.f (RXF_CTL f) 6 4
      if s.delivers h && s.portMode path == 2 then s.rxPacket f h.alt (s.rtpFor f true payload) else s
    else s)

/-! Probes (R463, R489). -/

/-- Header of a probe or its answer: one hop, to the probe address. -/
def probeHeader (typ src len : Nat) : FabHeader :=
  { ptype := typ, vc := 0, alt := false, poison := false, hops := 1, dst := 4095, src := src, len := len, seq := 0, tag := 0, addr := 0, resp := 0, sync := false }

/-- Contents of a PROBE_ANS: serial number, node ID, arrival port, mode; their places are presumed (log entry 33). -/
def State.probeBytes (s : State) (n : Nat) : List Byte :=
  leBytes 8 (s.pair DEV_SERIAL_LO DEV_SERIAL_HI) ++ leBytes 2 s.nodeId ++ leBytes 1 n ++ leBytes 1 (s.portMode n) ++ leBytes 4 0

/-- PROBE (R463): answered through the arrival port, whatever the switch's state and node ID. -/
def execProbe (port : PortId) (s : State) : Out :=
  .next (let n := port.val
    if s.portLive n then (s.portRx n 1).portSend n (probeHeader 1 s.nodeId 16) (s.probeBytes n) else s)

/-- PROBE_ANS (R463, R489). -/
def execProbeAns (port : PortId) (serial : W64) (node farPort mode : Nat) (s : State) : Out :=
  .next (let n := port.val
    if !s.portLive n then s
    else
      let s := s.portRx n 1
      if !s.bit (TPT_PROBE_CTL n) 0 then s
      else
        let s := s.setPair (TPT_PROBE_SER_LO n) (TPT_PROBE_SER_HI n) serial.toNat
        let s := s.setReg (TPT_PROBE_ANS n) (BitVec.ofNat 32 (node % 4096 ||| (farPort % 8) <<< 12 ||| (mode % 4) <<< 16 ||| 1 <<< 31))
        (s.setReg (TPT_PROBE_CTL n) 0).event (pgTPT n) 4)

/-- A write of TPT_PROBE_CTL (R463): GO sends a probe from a port that is UP, unless one is outstanding. -/
def State.probeWrite (s : State) (n : Nat) (v : W32) : State :=
  if bitAt v 0 && !s.bit (TPT_PROBE_CTL n) 0 && s.portTakes n then
    (s.setReg (TPT_PROBE_CTL n) 1).portSend n (probeHeader 0 s.nodeId 0) []
  else s

/-- PROBE_GO (R463). -/
def execProbeGo (who : Who) (port : PortId) (s : State) : Out :=
  .next (s.access who (pgTPT port.val) fun s => s.probeWrite port.val 1)

/-- PROBE_TIMEOUT (R463). -/
def execProbeTimeout (port : PortId) (s : State) : Out :=
  .next (let n := port.val
    if s.clocked && !s.gated (pgTPT n) && s.bit (TPT_PROBE_CTL n) 0 then (s.setReg (TPT_PROBE_CTL n) 0).event (pgTPT n) 5 else s)

/-! Reliable delivery (R466, R467). -/

/-- Every destination's packets that wait enter the store as far as it has room. -/
def State.e2ePumpAll (s : State) : State := s.each s.e2e fun t e => t.e2ePump (e.1 / 4) (e.1 % 4) e.2.waiting.length

/-- An acknowledgement frees the packets up to its number (R466). -/
def State.e2eFree (s : State) (node vc ack : Nat) : State :=
  let x := s.e2eOf node vc
  let keep := x.store.filter fun p => seqBefore ack p.1.seq
  if keep.length = x.store.length then s
  else ((s.setE2e node vc { x with store := keep }).e2ePumpAll).altSettle node

/-- The acknowledgement of a source's packets (R460, R466). -/
def State.ackSend (s : State) (node vc : Nat) : State :=
  let x := s.e2eOf node vc
  if x.unacked = 0 then s
  else
    let s := s.setE2e node vc { x with unacked := 0 }
    s.fabOut { ptype := 2, vc := 0, alt := false, poison := false, hops := 63, dst := node, src := s.nodeId, len := 0,
               seq := (x.expect + 2 ^ 32 - 1) % 2 ^ 32, tag := 0, addr := vc, resp := 0, sync := false } []

/-- A destination is lost (R467): what is held for it is discarded, its requests are answered ABORT_UNMAPPED, its sequence state resets. -/
def State.peerLost (s : State) (node : Nat) : State :=
  let own := s.nodeId
  let s := s.each [2, 3] fun t v => t.setE2e node v { t.e2eOf node v with nextSeq := 0, store := [], waiting := [], sync := true, onAlt := false }
  let s := s.each (span 0 8) fun t n => t.setPort n { t.port n with queue := (t.port n).queue.filter fun x => !(x.1.src == own && x.1.dst == node && decide (2 ≤ x.1.vc)) }
  let s := s.remotesFail (fun r => r.node == node) .abortUnmapped
  ((s.setReg TSW_PEERLOST_NODE (BitVec.ofNat 32 node)).event pgTSW 4).e2ePumpAll

/-- E2E_ACK (R466). -/
def execE2eAck (port : PortId) (h : FabHeader) (s : State) : Out :=
  .next (if s.portLive port.val then
      let s := s.portRx port.val (fabFlits h)
      if s.delivers h then s.e2eFree (h.src % 4096) (h.addr % 4) (h.seq % 2 ^ 32) else s
    else s)

/-- E2E_ACK_SEND (R466). -/
def execE2eAckSend (node vc : Nat) (s : State) : Out := .next (if s.switchUp then s.ackSend node (vc % 4) else s)

/-- E2E_RETRANSMIT (R466, R467): E2E_US have passed without an acknowledgement. -/
def execE2eRetransmit (node vc : Nat) (s : State) : Out :=
  .next (let x := s.e2eOf node (vc % 4)
    if !s.switchUp || x.store.isEmpty then s
    else if x.store.any fun e => decide (s.f TSW_CFG 15 8 ≤ e.2.2) then s.peerLost node
    else s.e2eResend node (vc % 4))

/-- MEM_TIMEOUT (R467): the request with this tag has waited TSW_MEM_TIMEOUT for its response. -/
def execMemTimeout (tag : W32) (s : State) : Out :=
  .next (match s.remotes.find? fun r => r.tag == tag with
    | some r => if s.switchUp then s.peerLost r.node else s
    | none => s)

/-! Espalier messages (R472 to R480). -/

/-- The group takes messages: it is enabled, the switch delivers. -/
def State.groupUp (s : State) (g : Nat) : Bool := s.switchUp && s.bit (hCTL pgTSW) 0 && s.nodeId != 0 && s.bit (ESP_CTL g) 0

/-- The session of a group (R471). -/
def State.espSession (s : State) (g : Nat) : Nat := s.f (ESP_CTL g) 15 8

/-- This module is the group's anchor, and `m` another member. -/
def State.anchorOf (s : State) (g m : Nat) : Bool :=
  s.groupUp g && s.espSelf g == s.espAnchor g && m != s.espSelf g && decide (m ≤ s.espLast g)

/-- This module is a member that is not the anchor. -/
def State.memberOf (s : State) (g : Nat) : Bool := s.groupUp g && s.espSelf g != s.espAnchor g

/-- A JOIN at the anchor: a hash equal to its own admits the member, which a stream that runs starts alone (R472, R493); a session that is not open has no hash to equal. -/
def State.espJoin (s : State) (g m : Nat) (hash : W64) : State :=
  let x := s.sess (s.espSession g)
  if x.phase == .closed || hash != Config.espHash (espFields x.desc) then s.event pgTSW 9
  else
    let s := s.setEsp g { s.esp g with left := (s.esp g).left.filter (· != m) }
    match (s.esp g).startTime with
    | none => s.espAdmit g m
    | some _ =>
      let t := PtpTime.ofNat (s.mtc.time.nat + rateDen x.desc * 1000000000 / max 1 (rateNum x.desc))
      (s.setB (ESP_STAT g) m true).espOut (s.espNode g m) 0 false (.espGo (s.espNode g m) t.sec t.ns)

/-- JOIN (R472). -/
def execJoin (group member : Fin 8) (hash : W64) (s : State) : Out :=
  .next (if s.anchorOf group.val member.val then s.espJoin group.val member.val hash else s)

/-- GO (R472). -/
def execGo (group : Fin 8) (sec : BitVec 48) (ns : W32) (s : State) : Out :=
  .next (let g := group.val
    if s.memberOf g then (s.setEsp g { s.esp g with startTime := some { sec := sec, ns := ns } }).setB (ESP_STAT g) 8 true else s)

/-- ALLOWANCE (R475): kept for the picture of its time. -/
def execAllowance (group : Fin 8) (sec : BitVec 48) (ns : W32) (amounts : List Nat) (s : State) : Out :=
  .next (let g := group.val
    let t : PtpTime := { sec := sec, ns := ns }
    if s.memberOf g then
      s.setEsp g { s.esp g with allowances := ((t, amounts) :: (s.esp g).allowances.filter fun a => a.1 != t).take 64 }
    else s)

/-- SUBST (R480): the region's reconstruction is replaced, the refresh sweep starts again. -/
def execSubst (group member : Fin 8) (sec : BitVec 48) (ns : W32) (s : State) : Out :=
  .next (let g := group.val
    if s.memberOf g then
      (s.substCopy g (s.espSession g) member.val { sec := sec, ns := ns }).modSess (s.espSession g) Sess.sweepRestart
    else s)

/-- LEAVE (R480). -/
def execLeave (group member : Fin 8) (s : State) : Out :=
  .next (let g := group.val
    if s.anchorOf g member.val then
      s.setEsp g { s.esp g with left := if (s.esp g).left.contains member.val then (s.esp g).left else (s.esp g).left ++ [member.val] }
    else s)

/-- Bytes laid into segments of memory, one after another. -/
def State.fillSegs (s : State) : List (Nat × Nat) → List Byte → State
  | [], _ => s
  | e :: es, bs =>
    let b := bs.take e.2
    (if b.isEmpty then s else s.hbmWrite e.1 b false).fillSegs es (bs.drop e.2)

/-- A halo or strip row of a neighbour: the second copy is discarded; a halo row is written beside the region in the reference buffer of its picture (R476, R491). -/
def State.espRowIn (s : State) (g m : Nat) (strip : Bool) (row : Nat) (t : PtpTime) (bs : List Byte) : State :=
  let e := s.esp g
  if e.rows.contains (m, strip, row, t) then s
  else
    let s := s.setEsp g { e with rows := e.rows ++ [(m, strip, row, t)] }
    let n := s.espSession g
    let lines := ctuLines (mainStream (s.sess n).desc).codec
    match strip, s.memberColumns g n m, (s.espBufs g n).find? fun x => x.1 == t with
    | false, some c, some b => s.fillSegs (s.refSegs n b.2 c (row * lines) (row * lines + lines)) bs
    | _, _, _ => s

/-- ESP_HALO (R476). -/
def execEspHalo (group member : Fin 8) (strip _alt : Bool) (row : Nat) (sec : BitVec 48) (ns : W32) (bytes : List Byte) (s : State) : Out :=
  .next (let g := group.val
    if s.groupUp g && (member.val + 1 == s.espSelf g || member.val == s.espSelf g + 1) && decide (member.val ≤ s.espLast g) then
      s.espRowIn g member.val strip row { sec := sec, ns := ns } bytes
    else s)

/-- A picture's part came too late: it is substituted, or its picture has gone (R480). -/
def State.partLate (s : State) (g n m k : Nat) (t : PtpTime) : Bool :=
  (s.esp g).substituted.contains (m, t) ||
  (match (s.sess n).pics.find? fun p => p.started && p.capture == t with
   | some p => p.jobs.any fun j => j.idx == k && (j.phase == .done || j.phase == .ended)
   | none => (s.esp g).refs.any fun r => decide (t.nat ≤ r.nat))

/-- Bytes of a tile-column group's part at the anchor; the last of them completes it (R478). A late part is discarded. -/
def State.partDeliver (s : State) (id : PartId) (bs : List Byte) : State :=
  let g := id.group
  let n := s.espSession g
  if !s.anchorOf g id.member then s
  else match ((s.jobsOf n).filter fun j => j.hedge == 4 + id.member)[id.tile]? with
    | none => s
    | some j =>
      if s.partLate g n id.member j.idx id.time then s
      else
        let e := s.esp g
        let mine (x : EspPart) : Bool := x.member == id.member && x.time == id.time && x.job == j.idx
        let had := ((e.parts.find? mine).elim [] EspPart.bytes) ++ bs
        let part : EspPart := { member := id.member, time := id.time, job := j.idx, whole := id.last, bytes := had }
        let s := s.setEsp g { e with parts := (e.parts.filter fun x => !mine x) ++ [part] }
        if !id.last then s
        else match (s.sess n).pics.find? fun p => p.started && p.capture == id.time with
          | some p => s.espTake n p.idx
          | none => s

/-- PART_TIMEOUT (R480): PART_TIMEOUT after the anchor's own part of the oldest picture that misses the member's. -/
def execPartTimeout (group member : Fin 8) (s : State) : Out :=
  .next (let g := group.val
    let ended (j : EncJob) : Bool := j.phase == .done || j.phase == .ended
    let ripe (p : EncPic) : Bool := p.started && (p.jobs.all fun j => decide (4 ≤ j.hedge) || ended j) && p.jobs.any fun j => j.hedge == 4 + member.val && !ended j
    if s.anchorOf g member.val then
      match (s.sess (s.espSession g)).pics.find? ripe with
      | some p => s.espSubstitute (s.espSession g) p.idx member.val
      | none => s
    else s)

/-! The route table (R486). -/

/-- A write of a route table entry: entries 0 and 4095 refuse it; ON_ALT stays while the primary and its alternate do. -/
def State.routeWrite (s : State) (m : Nat) (v : W32) : State :=
  if m = 0 ∨ m = 4095 then s.event pgTRT 0
  else
    let old := s.reg (TRT_ENTRY m)
    let w := v &&& 0x1F7
    let stays := bitAt old 9 && fld old 2 0 == fld w 2 0 && bitAt w 8 && bitAt w 7
    s.setReg (TRT_ENTRY m) (setBit w 9 stays)

/-- ROUTE_ENTRY_WRITE (R486). -/
def execRouteEntryWrite (who : Who) (entry : Fin 4096) (v : W32) (s : State) : Out :=
  .next (s.access who (pgTRT + entry.val / 512) fun s => s.routeWrite entry.val v)

end Sys2Proof.Machine
end

