-- ==== Sys2Proof/Machine/Clocks.lean ====
section
/-! DEFINITION. The commands of the clock system: failures, qualification, hold, selection, gates and the frequency meter (16_clocks_startup.md R494 to R507, R513, R514, R516 to R522). -/

namespace Sys2Proof.Machine

/-! PLLs (R494 to R504). -/

/-- A PLL can qualify: enabled, with its reference there; PLL_A also when REFCLK comes late to a module in START (R494, R512). -/
def State.mayQualify (s : State) (b : Bool) : Bool :=
  s.power.good && !s.pllQual b &&
  (if b then s.refB else s.clock.aEnabled || (s.clock.st == .start && !s.power.perst))

/-- CLOCK_LOST ends: a warm reset from this PLL with cause 6, whose entry of source 191 is written as it starts (R503, R530). -/
def State.lostEnd (s : State) (b : Bool) : State :=
  let s := { s.setSys b with resetReq := some 6 }
  (s.noteFault 191 255 0).warmReset 6

/-- A PLL qualifies after a hold of `us` microseconds, if it ends one (R495, R499, R501, R503). -/
def State.qualify (s : State) (b : Bool) (us : Nat) : State :=
  if !s.mayQualify b then s
  else
    let s := if b then s else { s with clock := { s.clock with aEnabled := true } }
    let s := (((s.setRef b true).setQual b true).ckgEvent (if b then 4 else 3)).noteFault 188 255 (b2n b)
    match s.clock.st with
    | .start => if b then s else s.startUp
    | .hold => s.restart b us
    | .clockLost => s.lostEnd b
    | _ => s

/-- A write of CKG_SYS.SEL (R504, R518). -/
def State.selWrite (s : State) (b : Bool) : State :=
  if s.sysPll = some b then s
  else if s.pllQual b then s.pllSwitch b
  else s.event pgCKG 7

/-- A write of CKG_PLLB_CFG, ignored while PLL_B is in use (R514); a PLL_B disabled or moved to another port has to qualify anew (R495). -/
def State.pllbWrite (s : State) (v : W32) : State :=
  if s.sysPll = some true then s
  else
    let old := s.f CKG_PLLB_CFG 3 0
    let new := fld v 3 0
    let s := s.setReg CKG_PLLB_CFG (BitVec.ofNat 32 new)
    let s := if old = new then s else s.setQual true false
    s.refUpdate

/-! Gates (R506). -/

/-- The domain that a host-gatable domain changes with decides for both: the transmit domain of a port. -/
def gateLeader (d : Nat) : Nat := if 65 ≤ d ∧ d ≤ 72 then d + 8 else d

/-- The pages of a host-gatable domain; none where the host cannot gate it. -/
def gatePages (d : Nat) : List Nat :=
  if 41 ≤ d ∧ d ≤ 44 then [pgCMP (d - 41)]
  else if 73 ≤ d ∧ d ≤ 80 then [pgTPT (d - 73)]
  else if d = 81 then pgTSW :: span 0x2B0 8
  else if 91 ≤ d ∧ d ≤ 98 then [pgMPE (d - 91)]
  else []

/-- Whether the block of a domain is idle enough to be stopped. -/
def State.gateIdle (s : State) (d : Nat) : Bool :=
  if 73 ≤ d ∧ d ≤ 80 then !s.bit (hCTL (pgTPT (d - 73))) 0
  else if d = 81 then !s.bit (hCTL pgTSW) 0
  else (gatePages d).all fun p => bitAt (s.stat p) 1

/-- Both gate bits of a port, or the one of another domain. A port that still drains when it stops loses its link. -/
def State.gateSet (s : State) (d : Nat) (on : Bool) : State :=
  let s := if 73 ≤ d ∧ d ≤ 80 ∧ !on then (s.linkDown (d - 73)).setDrain (pgTPT (d - 73)) false else s
  let s := s.setDomain d on
  if 73 ≤ d ∧ d ≤ 80 then s.setDomain (d - 8) on else s

/-- One domain that a write of CKG_GATE asks to run or stop: refused where the block is not idle; a domain that starts finds its blocks in their reset state. -/
def State.gateTake (s : State) (d : Nat) (on : Bool) : State :=
  if s.domainOn d = on then s
  else if d = 99 then (if s.testEn && s.bit FLT_INJ_STAT 0 then s.setDomain 99 on else s)
  else if (gatePages d).isEmpty then s
  else if on then (s.gateSet d true).each (gatePages d) State.blockClear
  else if s.gateIdle d then s.gateSet d false
  else s.event pgCKG 8

/-- A write of CKG_GATE(k). -/
def State.gateWrite (s : State) (k : Nat) (v : W32) : State :=
  s.each ((span (32 * k) 32).filter fun d => d < 100 && gateLeader d == d) fun t d => t.gateTake d (bitAt v (d % 32))

/-! The frequency meter (R507, R522). -/

/-- A write of CKG_FM_CTL: ignored while a measurement runs. -/
def State.meterWrite (s : State) (v : W32) : State :=
  if s.bit CKG_FM_CTL 24 then s
  else
    let l := fld v 20 16
    let l := if 10 ≤ l ∧ l ≤ 24 then l else 10
    let go := bitAt v 24
    s.setReg CKG_FM_CTL (BitVec.ofNat 32 (fld v 6 0 ||| fld v 14 8 <<< 8 ||| l <<< 16 ||| b2n go <<< 24 |||
      (if go then 0 else b2n (s.bit CKG_FM_CTL 25) <<< 25)))

/-- The measured clock gives edges. -/
def State.meterRuns (s : State) : Bool :=
  let m := s.f CKG_FM_CTL 6 0
  if m < 100 then s.domainOn m else if m = 100 then s.power.refclk else if m = 101 then s.refB else true

/-- The end of a measurement. -/
def State.meterEnd (s : State) (count : W32) (timeout : Bool) : State :=
  if !s.bit CKG_FM_CTL 24 then s
  else
    let c := if s.meterRuns then count else 0
    ((((s.setB CKG_FM_CTL 24 false).setB CKG_FM_CTL 25 timeout).setReg CKG_FM_COUNT c)).event pgCKG 9

/-! Commands. -/

/-- CLOCK_FAILURE (R497, R500, R501, R516, R517). -/
def execClockFailure (kind : ClockFail) (pllB both : Bool) (s : State) : Out :=
  .next (if !s.power.good then s
    else match kind with
      | .reference => if both then s.bothFail else s.pllFail pllB true
      | .pll => s.pllFail pllB false
      | .disagree => s.refDisagree)

/-- PLL_QUALIFIED (R495). -/
def execPllQualified (pllB : Bool) (holdUs : Nat) (s : State) : Out := .next (s.qualify pllB holdUs)

/-- HOLD_TIMEOUT (R501). -/
def execHoldTimeout (s : State) : Out :=
  .next (if s.clock.st = .hold then { s with clock := { s.clock with st := .clockLost } } else s)

/-- CLOCK_SELECT (R504). -/
def execClockSelect (who : Who) (b : Bool) (s : State) : Out := .next (s.access who pgCKG fun s => s.selWrite b)

/-- PLLB_CONFIG_WRITE (R494, R514). -/
def execPllbConfigWrite (who : Who) (v : W32) (s : State) : Out := .next (s.access who pgCKG fun s => s.pllbWrite v)

/-- GATE_WRITE (R506, R521). -/
def execGateWrite (who : Who) (k : Fin 4) (v : W32) (s : State) : Out := .next (s.access who pgCKG fun s => s.gateWrite k.val v)

/-- FREQ_MEASURE_START (R507). -/
def execFreqMeasureStart (who : Who) (v : W32) (s : State) : Out := .next (s.access who pgCKG fun s => s.meterWrite v)

/-- FREQ_MEASURE_DONE (R507). -/
def execFreqMeasureDone (count : W32) (s : State) : Out := .next (if s.clocked then s.meterEnd count false else s)

/-- FREQ_MEASURE_TIMEOUT (R507). -/
def execFreqMeasureTimeout (count : W32) (s : State) : Out := .next (if s.clocked then s.meterEnd count true else s)

end Sys2Proof.Machine
end

