-- ==== Sys2Proof/Machine/PowerUnit.lean ====
section
/-! DEFINITION. Supply, temperatures and the SMBus sideband (18_module_power.md R554 to R568, R572 to R577; 16_clocks_startup.md R512). -/

namespace Sys2Proof.Machine

/-! Rails (R512, R555 to R559). -/

/-- Power good: the monitor runs, the pairs castle, the module is in START; a PERST_N already deasserted takes effect (R512). -/
def State.powerGood (s : State) : State :=
  if s.power.good || !s.power.bulk || !s.power.pwrEn || s.power.tripped || s.power.shutdown then s
  else
    let s := { s with power := { s.power with good := true }, clock := { st := .start } }
    (s.setB CKG_SYS 11 s.power.refclk).lockA

/-- The rails are off: a cold reset, if they were on (R508). -/
def State.railsOff (s : State) (cause : Nat) : State :=
  if s.power.good then s.powerOff cause else { s with power := { s.power with cause := cause } }

/-! Sideband latches (R568). -/

/-- An event of the SMB page and of the rack controller's latch. -/
def State.smbEvent (s : State) (b : Nat) : State := (s.event pgSMB b).setB SMB_ALARM b true

/-- A feed crosses its alarm threshold (R555). -/
def State.feedCross (s : State) (b low : Bool) : State :=
  let was := if b then s.power.feedBLow else s.power.feedALow
  let s := { s with power := if b then { s.power with feedBLow := low, feedBOff := s.power.feedBOff && low }
                             else { s.power with feedALow := low, feedAOff := s.power.feedAOff && low } }
  if low && !was && s.power.good then (s.smbEvent (b2n b)).raise (192 + b2n b) 255 0 else s

/-! Temperatures (R561 to R564). -/

/-- Some reading of the last poll, in sixteenths of a degree, is at or above its threshold in degrees. -/
def State.hotAt (s : State) (j h : Int) : Bool := s.power.junctions.any (fun t => decide (16 * j ≤ t)) || s.power.hbmTemps.any fun t => decide (16 * h ≤ t)

/-- Every reading of the last poll satisfies the step-up condition (R562). -/
def State.cool (s : State) : Bool := s.power.junctions.all (fun t => decide (t ≤ 16 * 99)) && s.power.hbmTemps.all fun t => decide (t ≤ 16 * 90)

/-- The readings are taken; a stack that reaches 95 degrees is latched, a trip ends when all is cool (R561, R563, R568). -/
def State.sensorsRead (s : State) (js hs : List Int) : State :=
  let old := s.power.hbmTemps
  let s := { s with power := { s.power with junctions := js, hbmTemps := hs } }
  let s := if (List.range hs.length).any fun i => decide (old.getD i 0 < 16 * 95 ∧ 16 * 95 ≤ hs.getD i 0) then s.smbEvent 2 else s
  if s.power.trip && s.cool then
    { s with power := { s.power with trip := false }, pipes := tabMap (fun _ => ({} : Pipe)) (fun _ x => { x with tripped := false }) s.pipes }
  else s

/-- A hedge moves to a DVFS point by the thermal limit; THERMAL shows whether the limit holds it below POINT (R562). -/
def State.curSet (s : State) (h p : Nat) : State :=
  let s := s.setF (HDG_DVFS h) 6 4 p
  ((s.setB (HDG_DVFS h) 7 (decide (s.f (HDG_DVFS h) 2 0 < p))).loadUpdate h).overloadUpdate h

/-- The limit holds some hedge. -/
def State.limitUpdate (s : State) : State :=
  { s with power := { s.power with limited := (span 0 4).any fun h => s.bit (HDG_DVFS h) 7 } }

/-- A step down: source 194 is raised once, when the first hedge is held (R562, R568). -/
def State.stepDown (s : State) : State :=
  let hs := (span 0 4).filter fun h => decide (s.f (HDG_DVFS h) 6 4 < 5)
  if hs.isEmpty then s
  else
    let first := !s.power.limited
    let s := (s.each hs fun t h => t.curSet h (t.f (HDG_DVFS h) 6 4 + 1)).limitUpdate.smbEvent 3
    if first then s.raise 194 255 0 else s

/-- A step up, never past POINT (R562, R574). -/
def State.stepUp (s : State) : State :=
  let hs := (span 0 4).filter fun h => decide (s.f (HDG_DVFS h) 2 0 < s.f (HDG_DVFS h) 6 4)
  (s.each hs fun t h => t.curSet h (t.f (HDG_DVFS h) 6 4 - 1)).limitUpdate

/-- The trip: source 195, every hedge at point 5, every pipe that is not IDLE ends as DRAIN_MODE 1 does and takes no picture (R563). -/
def State.tripNow (s : State) : State :=
  let s := { (s.raise 195 255 0) with power := { s.power with trip := true } }
  let s := (s.each (span 0 4) fun t h => t.curSet h 5).limitUpdate.smbEvent 4
  let ps := (span 0 4).filter fun p => !s.gated (pgCMP p) && !bitAt (s.stat (pgCMP p)) 1
  s.each ps fun t p =>
    let t := (((t.setB (hCTL (pgCMP p)) 0 false).setB (hCTL (pgCMP p)) 1 true).pipeAbort p).setDrain (pgCMP p) false
    t.setPipe p { t.pipe p with tripped := true }

/-! SMBus (R565, R566). -/

/-- The slave acknowledges its address: its domain runs and is not being reset (R565). -/
def State.smbUp (s : State) : Bool := s.clocked

/-- Register k as the slave shows it. -/
def State.smbValue (s : State) (k : Nat) : BitVec 16 := if k ≤ 0x17 then (s.view (0x4040 + 4 * k)).setWidth 16 else 0

/-- What a read of register k does beside answering: the peak clears, the FRU address advances (R566). -/
def State.smbRead (s : State) (k : Nat) : State :=
  if k = 0xE then s.setReg SMB_PIN_PEAK 0
  else if k = 0x11 then s.setF SMB_FRU_ADDR 7 0 (s.f SMB_FRU_ADDR 7 0 + 1)
  else s

/-- What a write of register k does: the alarm latch is the bus's alone (R566). -/
def State.smbWrite (s : State) (bus : Bool) (k : Nat) (v : BitVec 16) : State :=
  if k = 0xF then (if bus then s.setReg SMB_ALARM (s.reg SMB_ALARM &&& ~~~(v.setWidth 32)) else s)
  else if k = 0x10 then s.setReg SMB_FRU_ADDR (BitVec.ofNat 32 (v.toNat % 256))
  else s

/-- A temperature as its register shows it: signed, sixteenths of a degree (R566). -/
def tempWord (t : Int) : W32 := BitVec.ofNat 32 (unsignedOf 16 t)

/-- The highest of the readings. -/
def highest (ts : List Int) : Int :=
  match ts with
  | [] => 0
  | t :: rest => rest.foldl max t

/-- The 1 ms averages (R566, R568). -/
def State.measure (s : State) (vinA vinB iinA iinB board : BitVec 16) (pin1 pin100 : Nat) : State :=
  let w (v : BitVec 16) : W32 := v.setWidth 32
  let s := ((s.setReg SMB_VIN_A (w vinA)).setReg SMB_VIN_B (w vinB)).setReg SMB_IIN_A (w iinA)
  let s := (s.setReg SMB_IIN_B (w iinB)).setReg SMB_TEMP_BOARD (w board)
  let s := s.setReg SMB_TEMP_DIE (tempWord (highest s.power.junctions))
  let s := s.each (span 0 4) fun t i => t.setReg (SMB_TEMP_HBM i) (tempWord (t.power.hbmTemps.getD i 0))
  let p := min pin1 65535
  let s := (s.setReg SMB_PIN (BitVec.ofNat 32 p)).setReg SMB_PIN_PEAK (BitVec.ofNat 32 (max p (s.f SMB_PIN_PEAK 15 0)))
  if 44000 < pin1 ∨ 38000 < pin100 then s.smbEvent 5 else s

/-! Commands. -/

/-- POWER_UP (R512, R555): VBULK rises through 33 V. -/
def execPowerUp (s : State) : Out := .next { s with power := { s.power with bulk := true } }.powerGood

/-- UNDERVOLTAGE (R555, R558, R572, R575): VBULK falls below 30 V; the latch of a thermal shutdown ends (R564). -/
def execUndervoltage (s : State) : Out :=
  .next (let s := s.railsOff 0
    { s with power := { s.power with bulk := false, shutdown := false } })

/-- FEED_FAIL (R554). -/
def execFeedFail (feedB : Bool) (s : State) : Out :=
  .next { s with power := if feedB then { s.power with feedBOff := true } else { s.power with feedAOff := true } }

/-- FEED_ALARM (R555). -/
def execFeedAlarm (feedB low : Bool) (s : State) : Out := .next (s.feedCross feedB low)

/-- CURRENT_LIMIT_TRIP (R557, R577): the front end turns off; no fault is raised. -/
def execCurrentLimitTrip (s : State) : Out :=
  .next (let s := s.railsOff 0
    { s with power := { s.power with tripped := true, bulk := false } })

/-- HOT_SWAP_RETRY (R557): the front end charges the bulk again; POWER_UP follows. -/
def execHotSwapRetry (s : State) : Out := .next { s with power := { s.power with tripped := false } }

/-- PWR_EN_LOW (R559, R564, R575). -/
def execPwrEnLow (s : State) : Out :=
  .next (let s := s.railsOff 1
    { s with power := { s.power with pwrEn := false, shutdown := false } })

/-- PWR_EN_HIGH (R559): power-up from step 1. -/
def execPwrEnHigh (s : State) : Out := .next { s with power := { s.power with pwrEn := true } }.powerGood

/-- SENSOR_POLL (R561). -/
def execSensorPoll (junctions hbmTemps : List Int) (s : State) : Out :=
  .next (if s.power.good then s.sensorsRead junctions hbmTemps else s)

/-- THERMAL_STEP_DOWN (R562, R573). -/
def execThermalStepDown (s : State) : Out := .next (if s.clocked && s.hotAt 103 95 then s.stepDown else s)

/-- THERMAL_STEP_UP (R562, R574). -/
def execThermalStepUp (s : State) : Out := .next (if s.clocked && s.cool then s.stepUp else s)

/-- THERMAL_TRIP (R563). -/
def execThermalTrip (s : State) : Out := .next (if s.clocked && s.hotAt 108 100 && !s.power.trip then s.tripNow else s)

/-- THERMAL_SHUTDOWN (R564, R576). -/
def execThermalShutdown (s : State) : Out :=
  .next (if s.power.good && s.hotAt 115 105 then
      let s := s.railsOff 0
      { s with power := { s.power with shutdown := true } }
    else s)

/-- SMB_READ_WORD (R565). -/
def execSmbReadWord (k : Byte) (pec : Bool) (s : State) : Out :=
  .next (if s.smbUp then ((s.latch 40 6).smbRead k.toNat).emit (.smbWord (s.smbValue k.toNat) pec) else s.emit .smbNoAck)

/-- SMB_WRITE_WORD (R565, R566). -/
def execSmbWriteWord (k : Byte) (v : BitVec 16) (pecOk : Bool) (s : State) : Out :=
  .next (
    if !s.smbUp then s.emit .smbNoAck
    else if pecOk then ((s.latch 40 6).smbWrite true k.toNat v).emit .smbAck
    else ((s.smbEvent 6).raise 196 255 0).emit .smbNoAck)

/-- SMB_SEND_BYTE (R565): accepted; no register is concerned. -/
def execSmbSendByte (_b : Byte) (s : State) : Out := .next (s.emit (if s.smbUp then .smbAck else .smbNoAck))

/-- SMB_MEASUREMENT_UPDATE (R566, R568). -/
def execSmbMeasurementUpdate (vinA vinB iinA iinB board : BitVec 16) (pin1ms pin100ms : Nat) (s : State) : Out :=
  .next (if s.clocked then s.measure vinA vinB iinA iinB board pin1ms pin100ms else s)

end Sys2Proof.Machine
end

