-- ==== Sys2Proof/Machine/Registers.lean ====
section
/-! DEFINITION. Accesses of registers as such: what a write of each register does and what a read does beside its value (00_scope.md R7 to R10; 02_host_attachment.md R36 to R40, R48 to R60; 19_register_index.md R578 to R584; the register tables of the block chapters). -/

namespace Sys2Proof.Machine

/-! Direct channels as they start (R280, R281, R304). -/

/-- Page and offset of a channel's registers. -/
def chanAt (c off : Nat) : Nat := (0x041 + c / 8) * 0x1000 + 0x100 + 0x100 * (c % 8) + off

/-- A channel ends at once with an error. -/
def State.chanError (s : State) (c err : Nat) : State :=
  (s.setB (chanAt c 0x18) 2 true).setF (chanAt c 0x18) 7 4 err

/-- GO: the channel runs with the values its registers hold; a count out of range is FORMAT. -/
def State.chanGo (s : State) (c : Nat) : State :=
  if (s.chan c).isSome then s
  else
    let n := (s.reg (chanAt c 0x10)).toNat
    let s := s.setReg (chanAt c 0x1C) 0
    if n = 0 ∨ 2 ^ 30 < n then s.chanError c eFORMAT
    else
      let run : Chan := { src := s.pair (chanAt c 0) (chanAt c 4), dst := s.pair (chanAt c 8) (chanAt c 0xC), count := n,
                          srcGlobal := s.bit (chanAt c 0x14) 1, dstGlobal := s.bit (chanAt c 0x14) 2 }
      ((s.setChan c (some run)).setB (chanAt c 0x14) 0 true).setB (chanAt c 0x18) 0 true

/-- Who may write a channel's registers (R280): a sequencer its own channels, the host through PF0 channels 56 to 63. -/
def chanWriter (who : Who) (c : Nat) : Bool :=
  match who with
  | .pcie k => k.val == 0 && decide (56 ≤ c)
  | .agent a =>
    if c < 36 then a == c else if c < 44 then a == 36 + (c - 36) / 2 else if c < 56 then a == 61 else a == 64

/-- A write of a channel's register at offset `o`, ignored while the channel runs (R281). -/
def State.chanWrite (s : State) (who : Who) (c o : Nat) (v : W32) : State :=
  if !chanWriter who c || (s.chan c).isSome then s
  else if o = 0x14 then
    let s := s.setF (chanAt c 0x14) 2 1 (fld v 2 1)
    if bitAt v 0 then s.chanGo c else s
  else s.rawWrite (chanAt c o) v

/-! Writes, block by block. -/

/-- Clear the bits of a 64-bit register below a size. -/
def State.alignPair (s : State) (lo hi l : Nat) : State := s.setPair lo hi (alignBase l (s.pair lo hi))

/-- DEV (R36, R40, R44, R47, R57, R60). -/
def State.devWrite (s : State) (off : Nat) (v : W32) : State :=
  if off = 0x4C ∨ off = 0x58 then (s.rawWrite off v).ltrUpdate
  else if off = 0x50 ∨ off = 0x54 then
    let s := s.rawWrite off v
    if off = 0x54 then s.alignPair DEV_BAR2_BASE_LO DEV_BAR2_BASE_HI s.hif.bar2Log2 else s
  else if off = 0x5C then (if bitAt v 0 then s.ptmStart else s)
  else if off = 0x7C then
    if s.hif.vfEnable then s
    else
      let l := fld v 5 0
      let l := if 30 ≤ l ∧ l ≤ 34 then l else 0
      let s := s.setReg DEV_VFBAR2 (BitVec.ofNat 32 l)
      s.each (span 0 31) fun t k => t.alignPair (DEV_VF_WIN_LO k) (DEV_VF_WIN_HI k) (max 30 l)
  else if off = 0x80 then (if fld v 7 0 = 0xA5 ∧ bitAt v 8 then s.askReset 4 else s)
  else if 0x100 ≤ off ∧ off < 0x1F8 then
    let s := s.rawWrite off v
    let k := (off - 0x100) / 8
    if off % 8 = 4 then s.alignPair (DEV_VF_WIN_LO k) (DEV_VF_WIN_HI k) (max 30 (s.f DEV_VFBAR2 5 0)) else s
  else s

/-- CKG (R504, R506, R507, R514). -/
def State.ckgWrite (s : State) (off : Nat) (v : W32) : State :=
  if off = 0x40 then s.selWrite (bitAt v 0)
  else if off = 0x44 then s.pllbWrite v
  else if 0x50 ≤ off ∧ off < 0x60 then s.gateWrite ((off - 0x50) / 4) v
  else if off = 0x60 then s.meterWrite v
  else s

/-- A write of FLT_ACT of source `n` (R526, R542). -/
def State.actWrite (s : State) (n : Nat) (v : W32) : State :=
  if !fltRaised n then s
  else
    let r := if fltClass n = 2 then b2n (bitAt v 3) else b2n (fltClass n == 3)
    s.setF (FLT_ACT n) 4 0 (fld v 2 0 + 8 * r + (if n ≤ 72 then 16 * b2n (bitAt v 4) else 0))

/-- FLT (R529, R531, R538 to R542): any write but the unlock's own clears a partial unlock. -/
def State.fltWrite (s : State) (off : Nat) (v : W32) : State :=
  if off = 0x50 then s.unlockWrite v
  else
    let s := { s with unlock := 0 }
    if off = 0x40 then
      let s := s.setB FLT_PIN_CTL 0 (bitAt v 0)
      if bitAt v 1 then s.setB FLT_PIN_CTL 1 true else s
    else if off = 0x48 then s.histAck v
    else if off = 0x54 then s.injectWrite v
    else if off = 0x58 then (if s.bit FLT_INJ_STAT 0 then s.setReg FLT_INJ_SYND v else s)
    else if 0x60 ≤ off ∧ off < 0x80 then s.rawWrite (pg pgFLT off) v
    else if 0x800 ≤ off ∧ off < 0xC00 then s.actWrite ((off - 0x800) / 4) v
    else s

/-- IC instance `i` (R314, R318, R321, R325). -/
def State.icWrite (s : State) (i off : Nat) (v : W32) : State :=
  if off = 0x44 then s.icComplete i v
  else if 0x100 ≤ off ∧ off < 0x180 then
    let k := (off - 0x100) / 4
    let here := bitsWord fun j => srcExists (32 * k + j) && s.srcInst (32 * k + j) == i
    (s.setReg (IC_EN i k) (v &&& here)).icEval i
  else if 0x400 ≤ off ∧ off < 0x800 then s.icModWrite i ((off - 0x400) / 4) v
  else s

/-- The pool manager's own page (R332, R347). -/
def State.poolcWrite (s : State) (off : Nat) (v : W32) : State :=
  if off = 0x40 ∨ off = 0x44 then (if (span 0 64).all fun p => !s.poolEn p then s.rawWrite (pg pgPOOL off) v else s)
  else s.rawWrite (pg pgPOOL off) v

/-- A pool's registers (R345, R348). -/
def State.pooltWrite (s : State) (p off : Nat) (v : W32) : State :=
  let n := 16 * (p - 0x31) + (off - 0x800) / 0x80
  let idle := !s.poolEn n && !s.poolActive n
  if off % 0x80 = 0 then s.poolCfgWrite n v
  else if off % 0x80 < 0x14 then (if idle then s.rawWrite (pg p off) v else s)
  else s

/-- CSW (R400, R405, R407, R408). -/
def State.cswWrite (s : State) (off : Nat) (v : W32) : State :=
  if off = 0x40 then s.setReg CSW_SEL (BitVec.ofNat 32 (min (fld v 5 0) 40 ||| fld v 8 8 <<< 8))
  else if off = 0x54 then s.cswStore v
  else if off = 0x68 then (if bitAt v 31 then s.setSeq s.cswSeq { s.seq s.cswSeq with faultValid := false } else s)
  else if off = 0x6C then s.cswKick v
  else if off = 0x70 then s.cswSwap v
  else if off = 0x74 ∨ off = 0x78 then (if s.store.slots.all fun e => e.2.isNone then s.rawWrite (pg pgCSW off) v else s)
  else if off = 0x88 then s.cswRevoke v
  else if off < 0x54 then s.rawWrite (pg pgCSW off) v
  else s

/-- The stored form of RING_CFG's fields but OWNER (R306). -/
def ringCfgFix (v : W32) : Nat :=
  let kind := if 4 ≤ fld v 2 0 then 0 else fld v 2 0
  let l := if 4 ≤ fld v 8 4 ∧ fld v 8 4 ≤ 16 then fld v 8 4 else 4
  kind + 8 * fld v 3 3 + 16 * l + 512 * fld v 9 9

/-- A ring (R39, R283, R284, R302, R306). -/
def State.ringWrite (s : State) (who : Who) (r off : Nat) (v : W32) : State :=
  let idle := !s.bit (hCTL (pgRING r)) 0 && !s.pageActive (pgRING r)
  if off = 0x40 then (if idle then (s.setF (RING_CFG r) 9 0 (ringCfgFix v)).ownerWrite who r (fld v 20 16) else s)
  else if off = 0x50 then s.tailWrite r v
  else if off = 0x64 then s.rdWrite r v
  else if !idle then s
  else if off = 0x54 then
    let l := if 12 ≤ fld v 4 0 ∧ fld v 4 0 ≤ 30 then fld v 4 0 else 12
    let s := s.setReg (RING_CBUF_CFG r) (BitVec.ofNat 32 (l ||| fld v 5 5 <<< 5))
    s.setPair (RING_CBUF_BASE_LO r) (RING_CBUF_BASE_HI r) (s.pair (RING_CBUF_BASE_LO r) (RING_CBUF_BASE_HI r) / 2 ^ l * 2 ^ l)
  else
    let s := s.rawWrite (pg (pgRING r) off) v
    let l := max 12 (s.f (RING_CBUF_CFG r) 4 0)
    if off = 0x5C then s.setPair (RING_CBUF_BASE_LO r) (RING_CBUF_BASE_HI r) (s.pair (RING_CBUF_BASE_LO r) (RING_CBUF_BASE_HI r) / 2 ^ l * 2 ^ l) else s

/-- A hedge (R88, R89, R93, R94, R99). -/
def State.hdgBody (s : State) (h off : Nat) (v : W32) : State :=
  if off = 0x50 ∨ off = 0x54 ∨ off = 0x58 then s.hdgWrite h off v
  else if off = 0x5C then s.bistWrite h v
  else if off = 0x68 then s.persPinWrite h v
  else s

/-- An HBM stack (R352, R367, R370). -/
def State.hbmBody (s : State) (i off : Nat) (v : W32) : State :=
  if off = 0x40 then (if i = 0 then s.mapWrite v else s)
  else if off = 0x44 then s.rawWrite (pg (pgHBM i) off) (setFld v 25 16 (max 1 (fld v 25 16)))
  else if off = 0x74 then s.pprWrite i v
  else s.rawWrite (pg (pgHBM i) off) v

/-- Window `w` of a port loses the bits of its base below its size (R482). -/
def State.winAlign (s : State) (n w : Nat) : State :=
  let l := max 12 (s.f (TPT_WIN_CTL n w) 9 4)
  s.alignPair (TPT_WIN_BASE_LO n w) (TPT_WIN_BASE_HI n w) l

/-- A Tolac port (R454, R463, R470, R482). -/
def State.tptWrite (s : State) (n off : Nat) (v : W32) : State :=
  if off = 0x40 then (s.modeWrite n v).refUpdate
  else if off = 0x64 then s.probeWrite n v
  else if 0x100 ≤ off ∧ off < 0x180 then
    let w := (off - 0x100) / 0x10
    if off % 0x10 = 8 then
      let l := if 12 ≤ fld v 9 4 ∧ fld v 9 4 ≤ 48 then fld v 9 4 else 12
      (s.rawWrite (pg (pgTPT n) off) (setFld v 9 4 l)).winAlign n w
    else if off % 0x10 = 4 then (s.rawWrite (pg (pgTPT n) off) v).winAlign n w
    else s.rawWrite (pg (pgTPT n) off) v
  else s.rawWrite (pg (pgTPT n) off) v

/-- An espalier group: its fields while EN = 0; EN is cleared only while the session is not open (R485). -/
def State.espWrite (s : State) (g off : Nat) (v : W32) : State :=
  if s.bit (ESP_CTL g) 0 then
    if off = 0 ∧ !bitAt v 0 ∧ (s.sess (s.espSession g)).phase = .closed then s.setB (ESP_CTL g) 0 false else s
  else s.rawWrite (pg pgTSW (0x400 + 0x40 * g + off)) v

/-- The switch (R484, R485). -/
def State.tswWrite (s : State) (off : Nat) (v : W32) : State :=
  if off = 0x40 then
    if s.bit (hCTL pgTSW) 0 then s else s.setReg TSW_NODE (BitVec.ofNat 32 (if fld v 11 0 = 4095 then 0 else fld v 11 0))
  else if off = 0x44 then s.rawWrite (pg pgTSW off) (setFld (setFld v 7 0 (max 1 (fld v 7 0))) 15 8 (max 1 (fld v 15 8)))
  else if off = 0x48 then s.rawWrite (pg pgTSW off) (setFld v 15 0 (max 1 (fld v 15 0)))
  else if 0x400 ≤ off ∧ off < 0x600 then s.espWrite ((off - 0x400) / 0x40) (off % 0x40) v
  else s

/-- A media engine (R419, R428, R440, R441, R443). -/
def State.mpeWrite (s : State) (n off : Nat) (v : W32) : State :=
  let a := pg (pgMPE n) off
  let idle (tx : Bool) (f : Nat) : Bool := !s.bit (flowCtl tx f) 0 && !s.flowActive tx f
  if off = 0x5C then
    s.rawWrite a (if 1518 ≤ fld v 29 16 ∧ fld v 29 16 ≤ 9022 then v else setFld v 29 16 1518)
  else if off = 0x68 then s.htxWrite n v
  else if off < 0x400 then s.rawWrite a v
  else if off < 0x800 then
    let f := 16 * n + (off - 0x400) / 0x40
    if off % 0x40 = 0 then s.flowCtlWrite false f v
    else if !idle false f then s
    else if off % 0x40 = 0xC then s.rawWrite a (setFld v 15 0 (min 50000 (max 1 (fld v 15 0))))
    else s.rawWrite a v
  else
    let f := 16 * n + (off - 0x800) / 0x80
    if off % 0x80 = 0 then s.flowCtlWrite true f v
    else if !idle true f then s
    else if off % 0x80 = 0xC then s.rawWrite a (setFld v 13 0 (min (fld v 13 0) (s.f (MPE_PORT_CTL n) 29 16 - 78)))
    else s.rawWrite a v

/-- The media time counter (R423, R444). -/
def State.mtcWrite (s : State) (off : Nat) (v : W32) : State :=
  let a := pg pgMTC off
  if off = 0x4C then s.rawWrite a (BitVec.ofNat 32 (min v.toNat 999999999))
  else if off = 0x58 then s.mtcCmd v
  else if off = 0x5C then s.rawWrite a (if 1000000000 ≤ v.toInt.natAbs then 0 else v)
  else if off = 0x60 then
    s.rawWrite a (if 16000000 < v.toInt then 16000000 else if v.toInt < -16000000 then BitVec.ofInt 32 (-16000000) else v)
  else s.rawWrite a v

/-- A write of the body register of page `p` at offset `off`. -/
def State.bodyWrite (s : State) (who : Who) (p off : Nat) (v : W32) : State :=
  match pageInfo p with
  | none => s
  | some (r, i) =>
    match r.block with
    | .dev => s.devWrite off v
    | .ckg => s.ckgWrite off v
    | .flt => s.fltWrite off v
    | .smb => if off < 0xA0 then s.smbWrite false ((off - 0x40) / 4) (v.setWidth 16) else s
    | .ic => s.icWrite i off v
    | .poolc => s.poolcWrite off v
    | .poolt => if off < 0x800 then s else s.pooltWrite p off v
    | .dch => if off < 0x100 ∨ 0x900 ≤ off ∨ 0x20 ≤ off % 0x100 then s else s.chanWrite who (8 * (p - 0x041) + (off - 0x100) / 0x100) (off % 0x100) v
    | .csw => s.cswWrite off v
    | .ring => s.ringWrite who i off v
    | .hdg => s.hdgBody i off v
    | .hbm => s.hbmBody i off v
    | .hbt => if off = 0x40 then s.hbtWrite i v else s
    | .cmp => s.cmpWrite i off v
    | .clt =>
      if 0x800 ≤ off then s.cltWrite ((p - 0x260) / 16) ((p - 0x260) % 16) ((off - 0x800) / 4) v
      else s.rawWrite (pg p off) v
    | .tpt => s.tptWrite i off v
    | .tsw => s.tswWrite off v
    | .trt => if 0x800 ≤ off then s.routeWrite (512 * (p - pgTRT) + (off - 0x800) / 4) v else s
    | .mpe => s.mpeWrite i off v
    | .mtc => s.mtcWrite off v
    | .rst | .poolx | .dma | .core => s

/-- The EVT_STAT bits that a page defines: of the pool's and the route table's pages only the first has events (R347, R486). -/
def evtMaskOf (p : Nat) : W32 :=
  match pageInfo p with
  | none => 0
  | some (r, i) => if r.block = .trt ∧ i ≠ 0 then 0 else BitVec.ofNat 32 r.evt

/-- A write of the common header (R54, R58). -/
def State.hdrWrite (s : State) (p off : Nat) (v : W32) : State :=
  let s := if p = pgFLT then { s with unlock := 0 } else s
  match off with
  | 0x8 => s.ctlWrite p v
  | 0xC => if p = pgDEV ∧ bitAt v 9 then s.setB (hSTAT pgDEV) 9 false else s
  | 0x10 => s.setReg (hEVT p) (s.reg (hEVT p) &&& ~~~v)
  | 0x14 => s.setReg (hEVTEN p) (v &&& evtMaskOf p)
  | 0x18 => s.setReg (hEVT p) (s.reg (hEVT p) ||| (v &&& evtMaskOf p))
  | 0x1C => if bitAt v 31 then s.setB (hSYND p) 31 false else s
  | _ => s

/-- A write of the register at BAR0 offset `a` of PF0, once it has reached its page. -/
def State.regWrite (s : State) (who : Who) (a : Nat) (v : W32) : State :=
  let p := a / 0x1000
  let off := a % 0x1000 / 4 * 4
  if off < 0x40 then s.hdrWrite p off v
  else if (s.hiLatch.isEmpty) then s.bodyWrite who p off v
  else ({ s with hiLatch := tabPut (fun _ => none) s.hiLatch (a / 4 * 4) none }).bodyWrite who p off v

/-! Reads. -/

/-- What a read of a body register does beside its value (R7, R53, R317, R348, R407, R444, R566), and the value. -/
def State.bodyRead (s : State) (a : Nat) : State × W32 :=
  let p := a / 0x1000
  let off := a % 0x1000
  match pageInfo p with
  | none => (s, 0)
  | some (r, i) =>
    match r.block, off with
    | .ic, 0x40 => s.icClaim i
    | .csw, 0x48 => s.cswFetch
    | .mtc, 0x40 => s.mtcRead
    | .smb, _ => if off < 0xA0 then (s.smbRead ((off - 0x40) / 4), s.view a) else (s, s.view a)
    | b, _ =>
      match rowAt b off with
      | none => (s, s.view a)
      | some row =>
        if row.pair = 1 then ({ s with hiLatch := tabPut (fun _ => none) s.hiLatch (a + 4) (some (s.view (a + 4))) }, s.view a)
        else if row.pair = 2 then (s, (tabGet (fun _ => none) s.hiLatch a).getD (s.view a))
        else if row.rc = 0 then (s, s.view a)
        else if b = .poolt ∧ off % 0x80 = 0x1C then (s.setReg a (BitVec.ofNat 32 (s.poolFree (16 * (p - 0x31) + (off - 0x800) / 0x80))), s.view a)
        else (s.setReg a (s.reg a &&& ~~~BitVec.ofNat 32 row.rc), s.view a)

/-- A read of the register at BAR0 offset `a` of PF0, once it has reached its page; a resetting page's body reads 0 (R56). -/
def State.regRead (s : State) (a : Nat) : State × W32 :=
  let a := a / 4 * 4
  if a % 0x1000 < 0x40 ∨ s.busy (a / 0x1000) then (s, s.view a) else s.bodyRead a

/-! The identity page of a VF (R37, R38). -/

/-- A write of the identity page: only the MSI-X table entry takes it. -/
def State.identityWrite (s : State) (k off : Nat) (v : W32) : State :=
  if 0x800 ≤ off then s.msixTable k (off - 0x800) v else s

/-! Accesses from outside (R10, R17, R19, R20, R38, R43, R48, R56). -/

/-- A write by a PCIe function at an offset of its BAR0, or by an agent through the mirror. -/
def State.busRegWrite (s : State) (who : Who) (off : Nat) (v : W32) : State :=
  match who with
  | .pcie k =>
    match s.barMap k.val off with
    | some a =>
      if a % 0x1000 < 0x40 then s.accessHdr who (a / 0x1000) fun s => s.regWrite who a v
      else s.access who (a / 0x1000) fun s => s.regWrite who a v
    | none =>
      if !s.hostUp then s
      else if !s.d0 k.val then s.unsupported k.val
      else if off / 0x1000 = 15 ∧ s.vfExists k.val then s.identityWrite k.val (off % 0x1000) v
      else s
  | .agent _ =>
    if a_ok off then
      if off % 0x1000 < 0x40 then s.accessHdr who (off / 0x1000) fun s => s.regWrite who off v
      else s.access who (off / 0x1000) fun s => s.regWrite who off v
    else s
where
  /-- inside the 16 MiB of PF BAR0 -/
  a_ok (off : Nat) : Bool := decide (off < 0x1000000)

/-- The bytes of a dword that a read of `n` bytes at `off` addresses (R52): all of it from 4 bytes on. -/
def laneWord (off n : Nat) (v : W32) : W32 :=
  if n < 4 then BitVec.ofNat 32 (v.toNat >>> (8 * (off % 4)) % 2 ^ (8 * n)) else v

/-- A read likewise, which answers a word, or the `n` bytes it addresses within one (the whole register is read): 0 where the page is gated, resetting or out of reach, a response code to an agent. -/
def State.busRegRead (s : State) (who : Who) (off : Nat) (n : Nat := 4) : State :=
  match who with
  | .pcie k =>
    if !s.hostUp then s
    else if !s.d0 k.val then s.unsupported k.val
    else match s.barMap k.val off with
      | some a =>
        if !s.reaches k.val (a / 0x1000) || s.gated (a / 0x1000) then s.emit (.readData 0)
        else let r := s.regRead a; r.1.emit (.readData (laneWord off n r.2))
      | none => s.emit (.readData (laneWord off n (s.viewBar k.val (off / 4 * 4))))
  | .agent _ => s.accessRd who (off / 0x1000) (fun s => let r := s.regRead off; (r.1, laneWord off n r.2)) (min n 4)

/-- A write of consecutive dwords, in ascending address order (R52). -/
def State.busRegWrites (s : State) (who : Who) (off : Nat) : List W32 → State
  | [] => s
  | v :: vs => (s.busRegWrite who off v).busRegWrites who (off + 4) vs

/-- A read of `n` bytes: within one dword, or consecutive dwords in ascending address order (R52). -/
def State.busRegReads (s : State) (who : Who) (off n : Nat) : State :=
  if n < 4 then s.busRegRead who off n else s.each (span 0 (n / 4)) fun t i => t.busRegRead who (off + 4 * i)

/-- A write that covers less than a dword is counted (R52); the event comes when the counter advances (R59). -/
def State.partialCount (s : State) : State :=
  if s.f DEV_ACC_ERR 15 0 = 0xFFFF then s else (s.satF DEV_ACC_ERR 15 0).event pgDEV 3

/-- A write with its byte enables: one that covers less than the dword is dropped and counted (R52, R59). -/
def State.partialWrite (s : State) (k : FnId) (off : Nat) (be : BitVec 4) (v : W32) : State :=
  if be = 15 then s.busRegWrite (.pcie k) off v
  else if !s.hostUp then s
  else if !s.d0 k.val then s.unsupported k.val
  else s.partialCount

/-! Commands. -/

/-- REGISTER_WRITE (R7, R8, R48, R52). -/
def execRegisterWrite (who : Who) (off : Nat) (vs : List W32) (s : State) : Out := .next (s.busRegWrites who off vs)

/-- COUNTER_READ_CLEAR (R7, R52). -/
def execCounterReadClear (who : Who) (span : RegSpan) (s : State) : Out := .next (s.busRegReads who span.off span.len)

/-- BAR0_PARTIAL_WRITE (R52). -/
def execBar0PartialWrite (fn : FnId) (off : Nat) (be : BitVec 4) (v : W32) (s : State) : Out := .next (s.partialWrite fn off be v)

/-- PAIR_LO_READ (R53). -/
def execPairLoRead (who : Who) (off : Nat) (s : State) : Out := .next (s.busRegRead who off)

/-- PAIR_LO_WRITE (R53). -/
def execPairLoWrite (who : Who) (off : Nat) (v : W32) (s : State) : Out := .next (s.busRegWrite who off v)

/-- EVT_SET (R54). -/
def execEvtSet (who : Who) (page : PageId) (v : W32) (s : State) : Out :=
  .next (s.accessHdr who page.val fun s => s.hdrWrite page.val 0x18 v)

/-- DCH_GO (R281). -/
def execDchGo (who : Who) (ch : ChanId) (s : State) : Out :=
  .next (s.access who (0x041 + ch.val / 8) fun s => s.chanWrite who ch.val 0x14 (setBit (s.reg (chanAt ch.val 0x14)) 0 true))

end Sys2Proof.Machine
end

