-- ==== Sys2Proof/Machine/Bus.lean ====
section
/-! DEFINITION. Requests over the NoC to local addresses as an agent inside the module makes them, registers with their side effects included (01_architecture.md R17 to R20; 02_host_attachment.md R52; 12_hbm_memory.md R359, R364, R365). -/

namespace Sys2Proof.Machine

/-- The registers that a range of the mirror touches, lowest first. -/
def mirrorWords (a n : Nat) : List Nat :=
  (span ((a - mirrorBase) / 4) (((a - mirrorBase) % 4 + n + 3) / 4)).map fun k => k * 4

/-- Read registers one after another, until a page answers otherwise than OK. -/
def State.wordsRead (s : State) : List Nat → State × Resp × List Byte
  | [] => (s, .ok, [])
  | w :: ws =>
    match s.pageResp (w / 0x1000) with
    | .ok =>
      let r := s.regRead w
      let t := r.1.wordsRead ws
      (t.1, t.2.1, leBytes 4 r.2.toNat ++ t.2.2)
    | x => (s, x, [])

/-- A read of a local range: the response and, unless it is an abort, the bytes. -/
def State.nocRead (s : State) (a n : Nat) : State × Resp × List Byte :=
  if s.inHbm a n then
    let t := (s.queueRange false a n).hbmRead a n
    (t, if t.poisoned a n then .okPoison else .ok, s.hbmBytes a n)
  else if inMirror a n then
    let r := s.wordsRead (mirrorWords a n)
    (r.1, r.2.1, if r.2.1 = .ok then slice r.2.2 ((a - mirrorBase) % 4) n else [])
  else (s, .abortUnmapped, [])

/-- Write registers one after another, until a page answers otherwise than OK. `a` is the BAR0 offset of the first byte; a register covered in part is not written (R52). -/
def State.wordsWrite (s : State) (who : Who) (a : Nat) (bs : List Byte) : List Nat → State × Resp
  | [] => (s, .ok)
  | w :: ws =>
    match s.pageResp (w / 0x1000) with
    | .ok =>
      let s := if a ≤ w ∧ w + 4 ≤ a + bs.length then s.regWrite who w (BitVec.ofNat 32 (leAt bs (w - a) 4))
        else s.partialCount
      s.wordsWrite who a bs ws
    | x => (s, x)

/-- A write of a local range, and its response. -/
def State.nocWrite (s : State) (who : Who) (a : Nat) (bs : List Byte) (pois : Bool) : State × Resp :=
  if s.inHbm a bs.length then (((s.queueRange true a bs.length).hbmWrite a bs pois), .ok)
  else if inMirror a bs.length then s.wordsWrite who (a - mirrorBase) bs (mirrorWords a bs.length)
  else (s, .abortUnmapped)

/-- HBM_READ: a NoC read by an agent (R19, R359, R364): of HBM; a range of the register space mirror is answered by its pages, an unmapped one so. -/
def execHbmRead (a addr len : Nat) (s : State) : Out :=
  .next (
    if !s.clocked then s.quiet a
    else if s.inHbm addr len then s.hbmRequest { agent := a, addr := addr, len := len }
    else let r := s.nocRead addr len; r.1.emit (.resp a r.2.1 r.2.2))

/-- HBM_WRITE: a NoC write by an agent (R19, R359, R365), likewise. -/
def execHbmWrite (a addr : Nat) (bytes : List Byte) (poison : Bool) (s : State) : Out :=
  .next (
    if !s.clocked then s.quiet a
    else if s.inHbm addr bytes.length then
      s.hbmRequest { agent := a, addr := addr, len := bytes.length, write := true, bytes := bytes, poison := poison }
    else let r := s.nocWrite (.agent a) addr bytes poison; r.1.emit (.resp a r.2 []))

/-! BAR2 (R36, R40, R43, R368). -/

/-- The window of a function's BAR2: base and size; none for a VF while DEV_VFBAR2.LOG2 is 0, or that does not exist. -/
def State.bar2Window (s : State) (k : Nat) : Option (Nat × Nat) :=
  if k = 0 then some (s.pair DEV_BAR2_BASE_LO DEV_BAR2_BASE_HI, 2 ^ s.hif.bar2Log2)
  else if s.vfExists k then s.vfWindow k else none

/-- A read through BAR2: bytes beyond the end of HBM read 0; poisoned data sets EP. -/
def State.bar2Read (s : State) (a len : Nat) : State :=
  let n := min len (s.hbmSize - a)
  let bs := s.hbmBytes a n
  let s := if n = 0 then s else (s.queueRange false a n).hbmRead a n
  s.emit (.bar2Data (bs ++ List.replicate (len - n) 0) (n != 0 && s.poisoned a n))

/-- A write through BAR2: bytes beyond the end of HBM are dropped. -/
def State.bar2Write (s : State) (a : Nat) (bs : List Byte) : State :=
  let bs := bs.take (s.hbmSize - a)
  if bs.isEmpty then s else (s.queueRange true a bs.length).hbmWrite a bs false

/-- BAR2_ACCESS (R36, R40, R43): an access outside the function's BAR2 is none of its own. -/
def execBar2Access (fn : FnId) (off len : Nat) (wr : Option (List Byte)) (s : State) : Out :=
  .next (if !s.hostUp then s
    else if !s.d0 fn.val then s.unsupported fn.val
    else match s.bar2Window fn.val, wr with
      | none, _ => s
      | some (b, z), none => if off + len ≤ z then s.bar2Read (b + off) len else s
      | some (b, z), some bs => if off + bs.length ≤ z then s.bar2Write (b + off) bs else s)

end Sys2Proof.Machine
end

