-- ==== Sys2Proof/Machine/Dma.lean ====
section
/-! DEFINITION. Transfers of the DMA engine and the ends of rings' entries (09_rings_dma.md R280, R281, R287 to R296, R304, R311, R587; 08_job_formats.md R264; 15_tolac_fabric_espalier.md R460, R466, R469): reads and writes of host memory, local addresses, registers among them, and other nodes. -/

namespace Sys2Proof.Machine

/-! Moving data (R281, R293, R466). -/

/-- What the engine is at the NoC (R14). -/
def dmaWho : Who := .agent 60

/-- A read or a write of a transfer: it waits for other nodes, it fails with an ERR, or it is done. -/
inductive Moved
  | wait (x : Xfer)
  | err (e : Nat)
  | data (bs : List (Byte × Bool))
  deriving DecidableEq, Repr

/-- Offsets and lengths of the requests for `len` bytes, of at most 4096 each (R460). -/
def bulkParts (len : Nat) : List (Nat × Nat) := (List.range (ceilDiv len 4096)).map fun i => (4096 * i, min 4096 (len - 4096 * i))

/-- Read the source of a transfer. Another node is asked once, and its data taken when all of it is here. -/
def State.xferRead (s : State) (src : Place) (len : Nat) (x : Xfer) (req : Nat → Requester) : State × Moved :=
  match src with
  | .host a => (s, .data ((s.hostBytes a len).map fun b => (b, x.poison)))
  | .loc a =>
    let r := s.nocRead a len
    if respErr r.2.1 ≠ 0 then (r.1, .err (respErr r.2.1))
    else if s.inHbm a len then (r.1, .data ((r.1.hbmTagged a len).map fun b => (b.1, b.2 || x.poison)))
    else (r.1, .data (r.2.2.map fun b => (b, x.poison)))
  | .node n a =>
    if !x.got.isEmpty then (s, .data x.bytes)
    else if !s.remoteOk n 3 then (s.remoteRefused n, .err 11)
    else
      let ps := bulkParts len
      (s.each ps fun t p => t.remoteSend (req p.1) 10 n (a + p.1) p.2 false [], .wait { x with waits := ps.length })

/-- Write the destination of a transfer, in a circular block of 2^circ bytes when circ is not 0. Another node is written once; `data` answers that every write was answered OK. -/
def State.xferWrite (s : State) (dst : Place) (circ : Nat) (bs : List (Byte × Bool)) (x : Xfer) (req : Nat → Requester) : State × Moved :=
  match dst with
  | .host a => (s.putHost (placed circ a bs), .data bs)
  | .loc a =>
    let cs := placed circ a bs
    if cs.all fun c => s.inHbm c.1 1 then (s.putCells cs, .data bs)
    else if circ = 0 then
      let r := s.nocWrite dmaWho a (bs.map Prod.fst) (bs.any Prod.snd)
      (r.1, if respErr r.2 = 0 then .data bs else .err (respErr r.2))
    else (s, .err 11)
  | .node n a =>
    if !s.remoteOk n 3 then (s.remoteRefused n, .err 11)
    else
      let ps := bulkParts bs.length
      let part (p : Nat × Nat) : List (Byte × Bool) := (bs.drop p.1).take p.2
      (s.each ps fun t p => t.remoteSend (req p.1) 9 n (a + p.1) p.2 ((part p).any Prod.snd) ((part p).map Prod.fst),
       .wait { x with stage := 1, waits := ps.length, got := ps.map fun p => (p.1, (part p).map Prod.fst, (part p).any Prod.snd) })

/-- One step of a transfer: it waits, fails, or has all its data where it belongs. `f` is what happens to the bytes on the way. -/
def State.xferStep (s : State) (src dst : Place) (len circ : Nat) (f : List (Byte × Bool) → List (Byte × Bool)) (x : Xfer) (req : Nat → Requester) : State × Moved :=
  if x.waits ≠ 0 then (s, .wait x)
  else if x.err ≠ 0 then (s, .err x.err)
  else if x.stage = 1 then (s, .data x.bytes)
  else
    let r := s.xferRead src len x req
    match r.2 with
    | .data bs => r.1.xferWrite dst circ (f bs) x req
    | _ => r

/-- Bytes moved by rings and channels (R303). -/
def State.bytesMoved (s : State) (n : Nat) : State := s.setPair DMA_BYTES_LO DMA_BYTES_HI ((s.pair DMA_BYTES_LO DMA_BYTES_HI + n) % 2 ^ 64)

/-! Descriptors (R289 to R296). -/

/-- Bytes with their poison after a swap mode (R290). -/
def swapTagged (m : Nat) (bs : List (Byte × Bool)) : List (Byte × Bool) :=
  (List.range bs.length).map fun i => bs.getD (swapIndex m i) (0, false)

/-- The CRC of a descriptor is written, over the bytes as delivered; whether the write was answered OK (R292, R293). -/
def State.crcStore (s : State) (k : Nat) (d : Desc) (bs : List (Byte × Bool)) : State × Bool :=
  let c := d.dctl
  let w := leBytes 4 (crc32c (bs.map fun b => if b.2 && c.dstKind == .host then 0 else b.1)).toNat
  if !c.crcEn then (s, true)
  else if c.crcHost then (if s.hostReach k then (s.hostWrite d.crcAddr w, true) else (s, false))
  else if s.mayUse k d.crcAddr 4 then
    let r := s.nocWrite dmaWho d.crcAddr w false
    (r.1, respErr r.2 == 0)
  else (s, false)

/-- All data has landed (R292, R293, R294); a peer descriptor reads back the last address it wrote before it completes (R50). -/
def State.descLand (s : State) (r : Nat) (d : Desc) (bs : List (Byte × Bool)) : State :=
  let t := (s.bytesMoved d.len).crcStore (s.owner r) d bs
  let t := (t.1.whenB (d.dctl.peer && t.2) fun u => u.emit (.zeroRead (u.owner r) (BitVec.ofNat 64 (circAddr d.dctl.circ (leAt d.bytes 8 8) (d.len - 1)))), t.2)
  if !t.2 then t.1.descEnd r d 1 13
  else t.1.descEnd r d (if bs.any Prod.snd then 3 else 0) 0

/-- A transfer error: an undefined part of the data has landed (R293, R295). -/
def State.descFail (s : State) (r : Nat) (d : Desc) (err : Nat) : State := (s.descPartial d).descEnd r d 1 err

/-- A descriptor goes on, as far as its end if nothing makes it wait (R43, R284, R293, R311). -/
def State.descStep (s : State) (r : Nat) (d : Desc) : State :=
  let k := s.owner r
  let c := d.dctl
  if d.needsHost && (!s.hif.linkUp || !s.d0 k) then s
  else if d.needsHost && !(s.fn k).bme then (if d.xfer.waits = 0 then s.descFail r d eBME_OFF else s)
  else
    let x := s.xferStep (s.descPlace d 0 c.srcKind) (s.descPlace d 8 c.dstKind) d.len c.circ (swapTagged c.swap) d.xfer fun o => .desc r d.index o
    match x.2 with
    | .wait w => x.1.setDesc r { d with xfer := w }
    | .err e => x.1.descFail r d e
    | .data bs => x.1.descLand r d bs

/-- The next entry of a DMA ring is fetched, checked and started; one that fails a check ends BAD (R287, R289, R296). One with ORDER waits for every earlier one. -/
def State.descStart (s : State) (r : Nat) (b : List Byte) : State :=
  let d : Desc := { index := s.fetchIndex r, bytes := b }
  if d.dctl.order && !(s.ring r).descs.isEmpty then s
  else
    let s := if s.ringLocal r then s.hbmRead (s.entryAddr r d.index) 32 else s
    let err := s.descCheck (s.owner r) d
    let d := { d with started := err == 0 }
    let s := s.setRing r { s.ring r with descs := (s.ring r).descs ++ [d] }
    if err = 0 then s else s.descEnd r d 1 err

/-- ERR of a transfer error (R294). -/
def xferErrCode (e : XferErr) : Nat :=
  match e with
  | .linkDown => 4
  | .hostUr => 5
  | .hostCa => 6
  | .hostTimeout => 7
  | .bmeOff => 8
  | .nocGated => 9
  | .nocReset => 10
  | .nocUnmapped => 11
  | .nocWindow => 12

/-- Whether a descriptor can meet an error: one of the host's needs a host read, a lost link or a cleared enable that is so, one of the NoC's an address inside. -/
def State.errFits (s : State) (r : Nat) (d : Desc) (e : XferErr) : Bool :=
  let c := d.dctl
  match e with
  | .linkDown => d.needsHost && !s.hif.linkUp
  | .hostUr | .hostCa | .hostTimeout => c.srcKind == .host || c.peer
  | .bmeOff => d.needsHost && !(s.fn (s.owner r)).bme
  | .nocGated | .nocReset | .nocUnmapped | .nocWindow => c.srcKind != .host || c.dstKind != .host

/-- A transfer error: no further requests; the end waits for the answers of those issued (R295). -/
def State.descError (s : State) (r : Nat) (d : Desc) (e : XferErr) : State :=
  if d.xfer.waits = 0 then s.descFail r d (xferErrCode e)
  else s.setDesc r { d with xfer := { d.xfer with err := if d.xfer.err = 0 then xferErrCode e else d.xfer.err } }

/-- An entry whose fetch fails (R587): a DMA ring's is given the status in its DCTL, whose other fields are not known; a COMMAND ring's job is lost. -/
def State.fetchFail (s : State) (r e : Nat) : State :=
  let i := s.fetchIndex r
  let n := entryBytes (s.ringKind r)
  let a := s.entryAddr r i
  let s := if s.ringLocal r && s.inHbm a n && s.mayUse (s.owner r) a n then s.hbmRead a n else s
  if s.ringKind r = 0 then s.descUnread r i 1 e else (s.entryBad r i e).setHead r ((i + 1) % s.ringSize r)

/-! Direct channels (R280, R281, R304). -/

/-- The DCH_DONE event of the sequencer that a channel belongs to (R391). -/
def State.chanLatch (s : State) (c : Nat) : State :=
  if c < 36 then s.latch c 3 else if c < 44 then s.latch (36 + (c - 36) / 2) 5 else if c < 56 then s.latch 40 4 else s

def State.chanPlace (s : State) (glob : Bool) (a : Nat) : Place := if glob then s.globalPlace a else .loc (a % 2 ^ 48)

/-- A channel's run ends: BUSY and GO fall, DONE_BYTES and the outcome are set. -/
def State.chanClose (s : State) (c n : Nat) : State :=
  let s := (s.setChan c none).dropRemotes fun q => match q with | .chan a _ => a == c | _ => false
  let s := ((s.setB (chanAt c 0x14) 0 false).setB (chanAt c 0x18) 0 false).setReg (chanAt c 0x1C) (BitVec.ofNat 32 n)
  (s.bytesMoved n).chanLatch c

/-- What has landed of a channel's run that an error stops: writes issued before it, which no rule counts; of another node, those answered OK. -/
def State.chanPartial (s : State) (x : Chan) : State × Nat :=
  match s.chanPlace x.dstGlobal x.dst with
  | .loc a =>
    let data := match s.chanPlace x.srcGlobal x.src with
      | .loc b => if s.inHbm b x.count then s.hbmTagged b x.count else []
      | _ => x.xfer.bytes
    let cs := (s.someOf (placed 0 a data)).filter fun y => s.inHbm y.1 1
    ({ s with fresh := s.fresh + data.length }.putCells cs, cs.length)
  | _ => (s, x.xfer.done)

/-- A channel goes on, as far as its end if nothing makes it wait (R281). -/
def State.chanStep (s : State) (c : Nat) (x : Chan) : State :=
  let m := s.xferStep (s.chanPlace x.srcGlobal x.src) (s.chanPlace x.dstGlobal x.dst) x.count 0 id x.xfer fun o => .chan c o
  match m.2 with
  | .wait w => m.1.setChan c (some { x with xfer := w })
  | .err e =>
    let p := m.1.chanPartial x
    (p.1.chanClose c p.2).chanError c e
  | .data bs =>
    let s := (m.1.chanClose c x.count).setB (chanAt c 0x18) 1 true
    if bs.any Prod.snd then s.setB (chanAt c 0x18) 3 true else s

/-! FENCE (R264, R586). -/

/-- VALUE of a FENCE is written: the code of the record. -/
def State.fenceWrite (s : State) (r : Nat) (loc : Bool) (a : Nat) (v : Nat) : State × Nat :=
  let k := s.owner r
  if loc then
    if s.mayUse k a 8 then
      let x := s.nocWrite dmaWho a (leBytes 8 v) false
      (x.1, respCode x.2)
    else (s, 0x43)
  else if s.hostReach k then (s.hostWrite a (leBytes 8 v), 0)
  else (s, 0x44)

/-- A FENCE whose ring's earlier records are all written completes. -/
def State.fenceEnd (s : State) (r : Nat) : State :=
  match (s.ring r).fenceWait with
  | none => s
  | some (j, wr, loc, a, v) =>
    if (s.ring r).openJobs.any (fun x => x != j) || !(s.ring r).held.isEmpty || (wr && !loc && !s.d0 (s.owner r)) then s
    else
      let x := if wr then s.fenceWrite r loc a.toNat v.toNat else (s, 0)
      let s := x.1.setRing r { x.1.ring r with fenceWait := none }
      s.finishJob j 0 [(0x08, leBytes 8 (if wr && x.2 == 0 then v.toNat else 0))] x.2

/-! Service classes (R286). -/

/-- A descriptor that the engine can take further now. -/
def State.descRuns (s : State) (r : Nat) (d : Desc) : Bool :=
  d.started && d.ended.isNone && d.xfer.waits == 0 && !(d.needsHost && (!s.hif.linkUp || !s.d0 (s.owner r)))

/-- A ring of the first class has work for the engine: a STREAM ring a slice on its way, a DMA ring with PRIO = 1 an entry to fetch or a descriptor to take further. STATUS records are written where they arise. -/
def State.firstWork (s : State) (r : Nat) : Bool :=
  match s.ringKind r with
  | 3 => (s.ring r).stream.isSome
  | 0 => s.bit (RING_CFG r) 9 &&
      ((s.ring r).descs.any (s.descRuns r) ||
       (s.mayFetch r && match s.fetchEntry r (s.fetchIndex r) with
         | .ok b => (s.ring r).descs.isEmpty || !({ bytes := b : Desc }).dctl.order
         | _ => false))
  | _ => false

/-- The engine serves a DMA ring: always one of the first class, one with PRIO = 0 only when no ring of the first class has work. COMMAND rings are the dispatcher's (DEDUCED, log entry 122). -/
def State.classTurn (s : State) (r : Nat) : Bool := s.bit (RING_CFG r) 9 || (s.rings.map Prod.fst).all fun k => !s.firstWork k

/-! Commands. -/

/-- RING_ENTRY_FETCH_FAIL (R587). -/
def execRingEntryFetchFail (r : RingId) (err : Fin 16) (s : State) : Out :=
  .next (if s.mayFetch r.val then
      match s.fetchErr r.val (s.fetchIndex r.val) err.val with
      | some e => s.fetchFail r.val e
      | none => s
    else s)

/-- FENCE_COMPLETE (R264). -/
def execFenceComplete (r : RingId) (s : State) : Out := .next (if s.clocked then s.fenceEnd r.val else s)

/-- DMA_DESCRIPTOR_START (R286, R289, R296). -/
def execDmaDescriptorStart (r : RingId) (s : State) : Out :=
  .next (if s.mayFetch r.val && s.ringKind r.val == 0 && s.classTurn r.val then
      match s.fetchEntry r.val (s.fetchIndex r.val) with
      | .ok b => s.descStart r.val b
      | _ => s
    else s)

/-- DESCRIPTOR_TRANSFER_ERROR (R295). -/
def execDescriptorTransferError (r : RingId) (index : Nat) (err : XferErr) (s : State) : Out :=
  .next (match s.descAt r.val index with
    | some d => if s.clocked && d.started && s.errFits r.val d err then s.descError r.val d err else s
    | none => s)

/-- DESCRIPTOR_END (R286, R296): the data moves, and the end is written. A descriptor whose data crosses the fabric takes one such step for each round of requests. -/
def execDescriptorEnd (r : RingId) (index : Nat) (s : State) : Out :=
  .next (match s.descAt r.val index with
    | some d => if s.clocked && d.started && s.classTurn r.val then s.descStep r.val d else s
    | none => s)

/-- DCH_END (R281), in as many steps as DESCRIPTOR_END. -/
def execDchEnd (ch : ChanId) (s : State) : Out :=
  .next (match s.chan ch.val with
    | some x => if s.clocked then s.chanStep ch.val x else s
    | none => s)

end Sys2Proof.Machine
end

