-- ==== Sys2Proof/Machine/Flags.lean ====
section
/-! DEFINITION. The ALU of a sequencer and its flags Z, N, C and V (13_microcode.md R388). The rule names the operations and, in R385, the flags; how each operation sets C and V is read by inference (log entry 15). -/

namespace Sys2Proof.Machine

/-- The four flags. -/
structure AluFlags where
  z : Bool := false
  n : Bool := false
  c : Bool := false
  v : Bool := false
  deriving DecidableEq, Repr

/-- What one ALU operation gives: the result, its flags, and a value for the loop counter (op 0x0F). -/
structure AluOut where
  x : W32
  flags : AluFlags
  /-- the operation gives flags only: nothing is written to DST -/
  flagsOnly : Bool := false
  lc : Option (BitVec 16) := none
  deriving DecidableEq, Repr

/-- Z and N of a result (DEDUCED: zero, and bit 31). -/
def aluZ (x : W32) : Bool := x == 0
def aluN (x : W32) : Bool := x.getLsbD 31

/-- Flags of a sum with carry in: C the carry out, V signed overflow (DEDUCED). -/
def addFlags (a b : W32) (ci : Nat) : AluFlags :=
  let x := BitVec.ofNat 32 (a.toNat + b.toNat + ci)
  { z := aluZ x, n := aluN x, c := decide (2 ^ 32 ≤ a.toNat + b.toNat + ci),
    v := a.getLsbD 31 == b.getLsbD 31 && a.getLsbD 31 != x.getLsbD 31 }

/-- Flags of a difference: C a free value passed in where the manual gives no sense of borrow, V signed overflow (DEDUCED). -/
def subFlags (a b : W32) (c : Bool) : AluFlags :=
  let x := a - b
  { z := aluZ x, n := aluN x, c := c, v := a.getLsbD 31 != b.getLsbD 31 && a.getLsbD 31 != x.getLsbD 31 }

/-- Flags of an operation that is not a sum or difference: Z and N of its result; C and V are the open values passed in. -/
def logicFlags (x : W32) (c v : Bool) : AluFlags := { z := aluZ x, n := aluN x, c := c, v := v }

/-- The ALU (R388): operation, A, B, the carry flag, an open result and two open flag values. None for 0x10-0x3F, which fault with ILLEGAL. -/
def alu (op : Nat) (a b : W32) (cIn : Bool) (ox : W32) (oc ov : Bool) : Option AluOut :=
  let lg (x : W32) : Option AluOut := some { x := x, flags := logicFlags x oc ov }
  match op with
  | 0x00 => lg 0
  | 0x01 => lg a
  | 0x02 => lg b
  | 0x03 => some { x := a + b, flags := addFlags a b 0 }
  | 0x04 => some { x := a - b, flags := subFlags a b oc }
  | 0x05 => lg (a &&& b)
  | 0x06 => lg (a ||| b)
  | 0x07 => lg (a ^^^ b)
  | 0x08 => lg (a <<< (b.toNat % 32))
  | 0x09 => lg (a >>> (b.toNat % 32))
  | 0x0A => lg (a.sshiftRight (b.toNat % 32))
  | 0x0B => some { x := ox, flags := subFlags a b oc, flagsOnly := true }
  | 0x0C => lg (if a.slt b then a else b)
  | 0x0D => lg (if a.slt b then b else a)
  | 0x0E => some { x := a + b + BitVec.ofNat 32 (b2n cIn), flags := addFlags a b (b2n cIn) }
  | 0x0F => some { x := ox, flags := logicFlags ox oc ov, lc := some (BitVec.ofNat 16 b.toNat) }
  | _ => none

/-- COND (R385): whether a condition holds, from the flags at the start of the word and what the sequencer and its unit report. `isCore`: conditions 16 to 25 are a core's; elsewhere they never hold. -/
def condHolds (cond : Nat) (f : AluFlags) (lc : BitVec 16) (unitBusy busAbort busPoison eventPending workEmpty regRefused : Bool) (isCore : Bool) (stageBusy : Nat → Bool) (fewCredits endOfUnit : Bool) : Bool :=
  match cond with
  | 0 => true
  | 1 => f.z
  | 2 => !f.z
  | 3 => f.n
  | 4 => !f.n
  | 5 => f.c
  | 6 => !f.c
  | 7 => f.v
  | 8 => lc == 0
  | 9 => lc != 0
  | 10 => unitBusy
  | 11 => busAbort
  | 12 => busPoison
  | 13 => eventPending
  | 14 => workEmpty
  | 15 => regRefused
  | 24 => isCore && fewCredits
  | 25 => isCore && endOfUnit
  | c => decide (16 ≤ c ∧ c ≤ 23) && isCore && stageBusy (c - 16)

end Sys2Proof.Machine
end

