-- ==== Sys2Proof/Machine/Seq.lean ====
section
/-! DEFINITION. The sequencers and their microwords (13_microcode.md R379 to R399, R409 to R411). A word at the sequencer's pc runs in four phases: its ALU, its unit operation, its commit, and its end, at which its results are written and the next address is formed. Each command takes the word as far as its own phase. -/

namespace Sys2Proof.Machine

/-! What a sequencer sees (R379, R385, R387, R389). -/

/-- The agent that a sequencer is (R14, R379). -/
def seqWho (q : Nat) : Who := .agent (if q < 40 then q else 61)

def Seqr.reg (x : Seqr) (i : Nat) : W32 := tabGet (fun _ => 0) x.g (i % 64)
def Seqr.setG (x : Seqr) (i : Nat) (v : W32) : Seqr := { x with g := tabPut (fun _ => 0) x.g (i % 64) v }
def Seqr.counter (x : Seqr) (i : Nat) : BitVec 16 := tabGet (fun _ => 0) x.lc i
def Seqr.setCounter (x : Seqr) (i : Nat) (v : BitVec 16) : Seqr := { x with lc := tabPut (fun _ => 0) x.lc i v }
/-- 64 bits in Gn and Gn+1; G0 follows G63 (DESIGN CHOICE). -/
def Seqr.regPair (x : Seqr) (n : Nat) : Nat := (x.reg n).toNat + 2 ^ 32 * (x.reg (n + 1)).toNat

/-- The word at the sequencer's pc. -/
def State.word (s : State) (q : Nat) : W128 := bankWord q (s.seq q).active (s.seq q).pc

/-- The event due: the lowest that is latched and enabled, after a YIELD word or at an idle point, outside event routines (R391, R392). -/
def Seqr.due (x : Seqr) : Option Nat :=
  if x.inEvent || x.phase != 0 || !((x.run == 1 && x.yielded) || x.run == 2 || x.run == 0) then none
  else (span 0 16).find? fun e => (x.pend &&& x.enable).getLsbD e

/-- The sequencer has its clock, and its block does not reset. -/
def State.seqLive (s : State) (q : Nat) : Bool :=
  s.clocked && (if q < 36 then s.domainOn q && !s.busy (pgCORE q) else decide (40 ≤ q) || !s.busy (pgHDG (q - 36)))

/-- The sequencer executes the word at its pc: it runs, or it waits at a DISPATCH word, and no event is due. -/
def State.seqReady (s : State) (q : Nat) : Bool :=
  let x := s.seq q
  s.seqLive q && (x.run == 1 || (x.run == 2 && mwSeq (s.word q) == 6)) && x.due.isNone

/-- The unit operation of the word before still runs: a stage, or a direct channel (R385). -/
def State.unitBusy (s : State) (q : Nat) : Bool :=
  let x := s.seq q
  match x.lastUnit.1 with
  | 6 => (s.chan x.lastUnit.2).isSome
  | 8 => decide (q < 36) && (s.core q).stages.getLsbD (x.lastUnit.2 % 8)
  | _ => false

/-- COND as it stands at the start of the word (R385, R386). Whether the bitstream reader has reached its end is open once it has no bits that the state holds. -/
def State.condNow (s : State) (q : Nat) : Bool :=
  let x := s.seq q
  let w := s.word q
  let c := s.core q
  condHolds (mwCond w) { z := x.z, n := x.n, c := x.c, v := x.v } (x.counter (mwLoopSel w)) (s.unitBusy q) x.busAbort x.busPoison
    (x.pend &&& x.enable != 0) x.work.isEmpty x.regRefused (decide (q < 36)) (fun i => c.stages.getLsbD i)
    (decide (c.credits < 8)) (c.bitsIn.isEmpty && Config.freeBool (s.fresh + 3))

/-- TARGET plus the opcode at the front of the work queue leaves the control store (R384). -/
def Seqr.overrun (x : Seqr) (w : W128) : Bool :=
  match x.work with
  | o :: _ => mwSeq w == 6 && decide (0x3FFF < mwTarget w + o.toNat)
  | [] => false

/-- The fault of a word, seen at its start: ILLEGAL, PC_OVF, STACK_OVF, STACK_UNF (R384, R388 to R390, R396). Unit operations 14 and 15 of a core, which R389 leaves out, fault as those of the other types (DESIGN CHOICE). -/
def State.wordFault (s : State) (q : Nat) : Option Nat :=
  let x := s.seq q
  let w := s.word q
  if 0x10 ≤ mwAluOp w ∨ (8 ≤ mwUnitOp w ∧ (36 ≤ q ∨ 14 ≤ mwUnitOp w)) then some 6
  else match mwSeq w with
    | 0 => if x.pc = 0x3FFF then some 5 else none
    | 2 => if x.pc = 0x3FFF then some 5 else none
    | 3 => if x.pc = 0x3FFF then some 5 else if s.condNow q && decide (8 ≤ x.stack.length) then some 2 else none
    | 4 => if s.condNow q && !x.inEvent && x.stack.isEmpty then some 3 else none
    | 5 => if x.pc = 0x3FFF then some 5 else none
    | _ => if x.overrun w then some 5 else none

/-! The ALU (R387, R388). -/

/-- Operand B. -/
def Seqr.operandB (x : Seqr) (w : W128) : W32 :=
  match mwBSel w with
  | 0 => x.reg (mwSrcB w)
  | 1 => mwImm w
  | 2 => x.busData
  | _ => (x.counter (mwLoopSel w)).setWidth 32

/-- Phase 0: the word is fetched; it faults, or its ALU has its result, which stays inside the word until its end (R386). -/
def State.wordAlu (s : State) (q : Nat) : State :=
  let x := s.seq q
  let w := s.word q
  if x.phase ≠ 0 then s
  else match s.wordFault q, alu (mwAluOp w) (x.reg (mwSrcA w)) (x.operandB w) x.c s.freeWord (Config.freeBool (s.fresh + 1)) (Config.freeBool (s.fresh + 2)) with
    | some c, _ => s.seqFault q c
    | none, none => s
    | none, some o =>
      let y := { x with phase := 1, x := o.x, cond := s.condNow q, newRefused := false, lcWrite := o.lc,
                        newFlags := if mwFlg w then some (o.flags.z, o.flags.n, o.flags.c, o.flags.v) else none,
                        dstWrite := if mwWrDst w && !o.flagsOnly then some o.x else none }
      { s with fresh := s.fresh + 4 }.setSeq q y

/-! Unit operations (R389). -/

/-- Where BUS_RD and BUS_WR go: a local address, or a global one, whose node field is not 0. -/
def State.busPlace (s : State) (g : Nat) : Place := if g / 2 ^ 48 % 4096 = 0 then .loc (g % 2 ^ 48) else s.globalPlace g

/-- The answer of a bus access; an aborted read has no data, and what a later word finds is open (R385, R389). -/
def State.busAnswer (s : State) (q : Nat) (rd : Bool) (r : Resp) (bs : List Byte) : State :=
  let x := s.seq q
  let bad := r != .ok && r != .okPoison
  let x := { x with busWait := false, busAbort := bad, busPoison := if rd then r == .okPoison else x.busPoison }
  if !rd then s.setSeq q x
  else if bad then s.draw.setSeq q { x with busData := s.freeWord }
  else s.setSeq q { x with busData := BitVec.ofNat 32 (leNat bs) }

/-- BUS_RD: a read of 4 bytes. -/
def State.unitBusRd (s : State) (q : Nat) : State :=
  match s.busPlace ((s.seq q).regPair (mwUnitArg (s.word q) % 64)) with
  | .loc a => let r := s.nocRead a 4; r.1.busAnswer q true r.2.1 r.2.2
  | .node n a =>
    if s.remoteOk n 2 then (s.remoteSend (.seq q) 6 n a 4 false []).setSeq q { s.seq q with busWait := true, busPoison := false }
    else (s.remoteRefused n).busAnswer q true .abortUnmapped []
  | .host _ => s

/-- BUS_WR: a write of X. -/
def State.unitBusWr (s : State) (q : Nat) : State :=
  let bs := leBytes 4 (s.seq q).x.toNat
  match s.busPlace ((s.seq q).regPair (mwUnitArg (s.word q) % 64)) with
  | .loc a => let r := s.nocWrite (seqWho q) a bs false; r.1.busAnswer q false r.2 []
  | .node n a =>
    if s.remoteOk n 2 then (s.remoteSend (.seq q) 7 n a 4 false bs).setSeq q { s.seq q with busWait := true }
    else (s.remoteRefused n).busAnswer q false .abortUnmapped []
  | .host _ => s

/-- BAR0 offset of the register that REG_RD and REG_WR name: on the sequencer's own page, or any page for the management sequencer. -/
def seqReg (q arg : Nat) : Nat :=
  if q < 36 then pg (pgCORE q) (arg % 4096 / 4 * 4)
  else if q < 40 then pg (pgHDG (q - 36)) (arg % 4096 / 4 * 4)
  else arg % 2 ^ 24 / 4 * 4

/-- REG_RD: the shadow, or the register; what a gated or resetting page gives is open (R389, R394). -/
def State.unitRegRd (s : State) (q : Nat) : State :=
  let a := seqReg q (mwUnitArg (s.word q))
  let r := match tabGet (fun _ => none) (s.seq q).shadow a with
    | some v => (s, v)
    | none => if s.gated (a / 0x1000) || s.busy (a / 0x1000) then (s.draw, s.freeWord) else s.regRead a
  r.1.setSeq q { r.1.seq q with busData := r.2 }

/-- A register that a sequencer may not write (R394): which, the chapters leave open, but CORE_SLICES and CORE_BUSY are written in R395's example. -/
def seqRefuses (q a : Nat) : Bool :=
  !(decide (q < 36) && (a == CORE_SLICES q || a == CORE_BUSY_LO q || a == CORE_BUSY_HI q)) && Config.seqReadOnly a

/-- REG_WR: X goes to the shadow, or the write is refused (R394). -/
def State.unitRegWr (s : State) (q : Nat) : State :=
  let x := s.seq q
  let a := seqReg q (mwUnitArg (s.word q))
  s.setSeq q (if seqRefuses q a then { x with newRefused := true } else { x with shadow := tabPut (fun _ => none) x.shadow a (some x.x) })

/-- EVT_MASK. -/
def State.unitEvtMask (s : State) (q : Nat) : State :=
  s.setSeq q { s.seq q with enable := BitVec.ofNat 16 (mwUnitArg (s.word q)) }

/-- The direct channels of a sequencer (R280). -/
def seqChans (q : Nat) : List Nat := if q < 36 then [q] else if q < 40 then [36 + 2 * (q - 36), 37 + 2 * (q - 36)] else span 44 12

/-- DCH: the lowest idle channel of the sequencer starts; with none idle the start is ignored as a GO while BUSY is (R281). An address with a node field is global. -/
def State.unitDch (s : State) (q : Nat) : State :=
  let x := s.seq q
  let n := mwUnitArg (s.word q) % 64
  match (seqChans q).find? fun c => (s.chan c).isNone with
  | none => s.setSeq q { x with lastUnit := (6, (seqChans q).headD 0) }
  | some c =>
    let src := x.regPair n % 2 ^ 60
    let dst := x.regPair (n + 2) % 2 ^ 60
    let s := s.setSeq q { x with lastUnit := (6, c) }
    let s := (s.setPair (chanAt c 0) (chanAt c 4) src).setPair (chanAt c 8) (chanAt c 0xC) dst
    let s := s.setReg (chanAt c 0x10) (x.reg (n + 4))
    let s := s.setF (chanAt c 0x14) 2 1 (b2n (src / 2 ^ 48 != 0) + 2 * b2n (dst / 2 ^ 48 != 0))
    s.chanGo c

/-- TIMER: armed, or cancelled by 0. -/
def State.unitTimer (s : State) (q : Nat) : State := s.setSeq q { s.seq q with timer := mwUnitArg (s.word q) }

/-- STAGE_START of a core. -/
def State.unitStage (s : State) (q : Nat) : State :=
  s.setCore q { s.core q with stages := (s.core q).stages ||| BitVec.ofNat 8 (1 <<< (mwUnitArg (s.word q) % 8)) }

/-- SQ_WRITE of X into a lane of the word buffer. -/
def State.unitSqWrite (s : State) (q : Nat) : State :=
  s.setCore q { s.core q with wordBuf := tabPut (fun _ => 0) (s.core q).wordBuf (mwUnitArg (s.word q) % 8) (s.seq q).x }

/-- SQ_PUSH of the word buffer into the slice queue; the end mark ends a slice (R161, R163). -/
def State.unitSqPush (s : State) (q : Nat) : State :=
  let c := s.core q
  let last := (mwUnitArg (s.word q)).testBit 8
  let w := sqWord ((List.range 8).flatMap fun i => leBytes 4 (tabGet (fun _ => 0) c.wordBuf i).toNat) last
  let t := s.pushWord q w
  if last && !(t.core q).overrun then t.setCore q { t.core q with slices := (t.core q).slices + 1 } else t

/-- RC_SNAP: the running job takes its snapshot, once (R148, R152). -/
def State.unitSnap (s : State) (q : Nat) : State :=
  match (s.core q).job with
  | some (n, i, k) =>
    match s.encJob n i k with
    | some (p, j) => s.snapTake n p j
    | none => s
  | none => s

/-- BITS_PUT: the low bits of X enter the bitstream, most significant first (PRESUMED). -/
def State.unitBitsPut (s : State) (q : Nat) : State :=
  let n := mwUnitArg (s.word q) % 32 + 1
  let v := (s.seq q).x
  s.setCore q { s.core q with bitsOut := (s.core q).bitsOut ++ (List.range n).map fun i => v.getLsbD (n - 1 - i) }

/-- BITS_GET: bits of the bitstream into DST; bits that the state does not hold are open. -/
def State.unitBitsGet (s : State) (q : Nat) : State :=
  let n := mwUnitArg (s.word q) % 32 + 1
  let c := s.core q
  let bit (i : Nat) : Bool := (c.bitsIn[i]?).getD (s.freeWord.getLsbD i)
  let v := (List.range n).foldl (fun a i => 2 * a + b2n (bit i)) 0
  let s := s.draw.setCore q { c with bitsIn := c.bitsIn.drop n }
  s.setSeq q { s.seq q with dstWrite := some (BitVec.ofNat 32 v) }

/-- The unit operation by its number. -/
def State.unitRun (s : State) (q op : Nat) : State :=
  match op with
  | 1 => s.unitBusRd q
  | 2 => s.unitBusWr q
  | 3 => s.unitRegRd q
  | 4 => s.unitRegWr q
  | 5 => s.unitEvtMask q
  | 6 => s.unitDch q
  | 7 => s.unitTimer q
  | 8 => s.unitStage q
  | 9 => s.unitSqWrite q
  | 10 => s.unitSqPush q
  | 11 => s.unitSnap q
  | 12 => s.unitBitsPut q
  | 13 => s.unitBitsGet q
  | _ => s

/-- Phase 1: the unit operation `f` of the word is carried out. -/
def State.unitPhase (s : State) (q : Nat) (f : State → Nat → State) : State :=
  if (s.seq q).phase ≠ 1 then s
  else
    let w := s.word q
    let x := s.seq q
    let s := f (s.setSeq q { x with phase := 2, lastUnit := (mwUnitOp w, mwUnitArg w) }) q
    s

/-- Phase 1 with the word's own operation. -/
def State.wordUnit (s : State) (q : Nat) : State := s.unitPhase q fun t q => t.unitRun q (mwUnitOp (t.word q))

/-- A unit command: the word at the pc names operation `op`. -/
def State.unitCommand (s : State) (q op : Nat) (f : State → Nat → State) : State :=
  if s.seqReady q && mwUnitOp (s.word q) == op && decide ((s.seq q).phase < 2) then (s.wordAlu q).unitPhase q f else s

/-! COMMIT (R394, R395). -/

/-- Registers that are only written (the block tables). -/
def writeOnly (b : Block) (off : Nat) : Bool :=
  match b, off with
  | .dev, 0x80 | .flt, 0x50 | .ic, 0x44 | .csw, 0x6C | .csw, 0x70 | .csw, 0x88 | .hdg, 0x54 | .hdg, 0x58 | .hbm, 0x74 | .mpe, 0x68 | .mtc, 0x58 => true
  | _, _ => false

/-- A shadow write becomes committed: a register that the host can write takes it as a write of the sequencer's agent, another takes the value. -/
def State.publish (s : State) (q a : Nat) (v : W32) : State :=
  if s.gated (a / 0x1000) || s.busy (a / 0x1000) then s
  else
    let s := s.regWrite (seqWho q) a v
    match pageInfo (a / 0x1000), regRow a with
    | some (p, _), some r => if r.rw = 0 ∧ r.w1c = 0 ∧ r.w1s = 0 ∧ !writeOnly p.block (a % 0x1000) then s.setReg a v else s
    | _, _ => s

/-- Every shadow write is published at once; a write set aside of a register so committed is discarded. -/
def State.publishAll (s : State) (q : Nat) : State :=
  let x := s.seq q
  let es := x.shadow
  let s := s.setSeq q { x with shadow := [], aside := x.aside.filter fun e => !es.any fun y => y.1 == e.1 }
  s.each es fun t e => match e.2 with
    | some v => t.publish q e.1 v
    | none => t

/-- Phase 2: the commit of a word that carries COMMIT. -/
def State.wordCommit (s : State) (q : Nat) : State :=
  if (s.seq q).phase ≠ 2 || (s.seq q).busWait then s
  else
    let s := if mwCommit (s.word q) then s.publishAll q else s
    s.setSeq q { s.seq q with phase := 3 }

/-! The end of a word (R384, R386, R390, R393, R396). -/

/-- What a word writes at its end: flags, DST, a loop counter; the watchdog counts its cycles; its start address becomes `pc`. -/
def Seqr.toPc (x : Seqr) (w : W128) (pc : Nat) : Seqr :=
  let x := match x.newFlags with
    | some (z, n, c, v) => { x with z := z, n := n, c := c, v := v }
    | none => x
  let x := match x.dstWrite with
    | some v => x.setG (mwDst w) v
    | none => x
  let x := match x.lcWrite with
    | some v => x.setCounter (mwLoopSel w) v
    | none => x
  { x with newFlags := none, dstWrite := none, lcWrite := none, regRefused := x.newRefused, newRefused := false, phase := 0, run := 1,
           yielded := mwYield w, wdog := if mwYield w then 0 else x.wdog + mwCyc w + 1, pc := pc }

/-- Bring the word at the pc to its end, if it carries SEQ `kind`: `f` gives the sequencer after it from the sequencer before it, the word, and an open value. A count that reaches 65,536 without YIELD faults (R396). -/
def State.wordEnd (s : State) (q kind : Nat) (f : Seqr → W128 → W32 → Seqr) : State :=
  if !s.seqReady q || mwSeq (s.word q) != kind then s
  else
    let w := s.word q
    let s := ((s.wordAlu q).wordUnit q).wordCommit q
    let x := s.seq q
    if x.phase ≠ 3 then s
    else if x.overrun w then s.seqFault q 5
    else if !mwYield w && decide (65536 ≤ x.wdog + mwCyc w + 1) then s.seqFault q 1
    else s.draw.setSeq q (f x w s.freeWord)

/-- An event exit: the routine becomes the main line (R393). -/
def Seqr.eventExit (x : Seqr) : Seqr := if x.inEvent then { x with inEvent := false, stack := [], aside := [] } else x

/-- RET whose COND holds: the event return at depth D_e, or a pop (R384, R393). What a routine that has popped below D_e returns to is open. -/
def Seqr.returned (x : Seqr) (w : W128) (open_ : W32) : Seqr :=
  if x.inEvent ∧ x.stack.length = x.depthE then
    let y := x.toPc w x.era
    { y with inEvent := false, shadow := y.shadow.foldl (fun t e => tabPut (fun _ => none) t e.1 e.2) y.aside, aside := [] }
  else match x.stack with
    | a :: rest => { x.toPc w a with stack := rest }
    | [] => x.toPc w (open_.toNat % 2 ^ 14)

/-- LOOP: the counter as it stood at the start of the word decides; a load of the same counter by the word's ALU leaves it open. -/
def Seqr.looped (x : Seqr) (w : W128) (open_ : W32) : Seqr :=
  let i := mwLoopSel w
  let n := x.counter i
  if n = 0 then x.toPc w (x.pc + 1)
  else
    let y := x.toPc w (mwTarget w)
    y.setCounter i (if x.lcWrite.isSome then open_.setWidth 16 else n - 1)

/-- DISPATCH: the opcode at the front of the work queue, or a wait, during which the watchdog holds (R384, R393, R396). -/
def Seqr.dispatched (x : Seqr) (w : W128) : Seqr :=
  match x.work with
  | o :: rest => { (x.toPc w (mwTarget w + o.toNat)).eventExit with work := rest }
  | [] => { (x.toPc w x.pc).eventExit with run := 2, wdog := x.wdog }

/-- The address after a word that does not branch at its end; after 0x3FFF, of a RET whose COND fails, it is open. -/
def seqNextPc (pc : Nat) (open_ : W32) : Nat := if pc < 0x3FFF then pc + 1 else open_.toNat % 2 ^ 14

/-- An event is taken (R392, R395). The address that a HALT word formed does not exist, so ERA is then open. -/
def State.eventTake (s : State) (q e : Nat) : State :=
  let x := s.seq q
  s.draw.setSeq q
    { x with pend := x.pend &&& ~~~BitVec.ofNat 16 (1 <<< e), era := if x.run = 0 then s.freeWord.toNat % 2 ^ 14 else x.pc,
             depthE := x.stack.length, inEvent := true, lastEvent := e, pc := 2 * e, phase := 0, run := 1, yielded := false,
             aside := x.shadow, shadow := [] }

/-! Commands. -/

/-- EVENT_TAKEN (R392). -/
def execEventTaken (q : SeqId) (s : State) : Out :=
  .next (match (s.seq q.val).due with
    | some e => if s.seqLive q.val then s.eventTake q.val e else s
    | none => s)

/-- NEXT (R384). -/
def execNext (q : SeqId) (s : State) : Out := .next (s.wordEnd q.val 0 fun x w _ => x.toPc w (x.pc + 1))

/-- JUMP (R384). -/
def execJump (q : SeqId) (s : State) : Out := .next (s.wordEnd q.val 1 fun x w _ => x.toPc w (mwTarget w))

/-- CJUMP (R384). -/
def execCjump (q : SeqId) (s : State) : Out :=
  .next (s.wordEnd q.val 2 fun x w _ => x.toPc w (if x.cond then mwTarget w else x.pc + 1))

/-- CALL (R384, R390). -/
def execCall (q : SeqId) (s : State) : Out :=
  .next (s.wordEnd q.val 3 fun x w _ =>
    if x.cond then { x.toPc w (mwTarget w) with stack := (x.pc + 1) :: x.stack } else x.toPc w (x.pc + 1))

/-- RET (R384, R390, R393). -/
def execRet (q : SeqId) (s : State) : Out :=
  .next (s.wordEnd q.val 4 fun x w o => if x.cond then x.returned w o else x.toPc w (seqNextPc x.pc o))

/-- LOOP (R384). -/
def execLoop (q : SeqId) (s : State) : Out := .next (s.wordEnd q.val 5 fun x w o => x.looped w o)

/-- DISPATCH (R384, R393). -/
def execDispatch (q : SeqId) (s : State) : Out := .next (s.wordEnd q.val 6 fun x w _ => x.dispatched w)

/-- HALT (R384, R393). -/
def execHalt (q : SeqId) (s : State) : Out := .next (s.wordEnd q.val 7 fun x w _ => { (x.toPc w x.pc).eventExit with run := 0 })

/-- MICROWORD_ALU (R388). -/
def execMicrowordAlu (q : SeqId) (s : State) : Out := .next (if s.seqReady q.val then s.wordAlu q.val else s)

/-- BUS_RD (R389). -/
def execBusRd (q : SeqId) (s : State) : Out := .next (s.unitCommand q.val 1 State.unitBusRd)

/-- BUS_WR (R389). -/
def execBusWr (q : SeqId) (s : State) : Out := .next (s.unitCommand q.val 2 State.unitBusWr)

/-- REG_RD (R389, R394). -/
def execRegRd (q : SeqId) (s : State) : Out := .next (s.unitCommand q.val 3 State.unitRegRd)

/-- REG_WR (R389, R394). -/
def execRegWr (q : SeqId) (s : State) : Out := .next (s.unitCommand q.val 4 State.unitRegWr)

/-- COMMIT (R394, R395). -/
def execCommit (q : SeqId) (s : State) : Out :=
  .next (if s.seqReady q.val && mwCommit (s.word q.val) then ((s.wordAlu q.val).wordUnit q.val).wordCommit q.val else s)

/-- EVT_MASK (R389). -/
def execEvtMask (q : SeqId) (s : State) : Out := .next (s.unitCommand q.val 5 State.unitEvtMask)

/-- DCH (R280, R389). -/
def execDch (q : SeqId) (s : State) : Out := .next (s.unitCommand q.val 6 State.unitDch)

/-- TIMER (R389). -/
def execTimer (q : SeqId) (s : State) : Out := .next (s.unitCommand q.val 7 State.unitTimer)

/-- SEQ_TIMER_EXPIRY (R389, R391). -/
def execSeqTimerExpiry (q : SeqId) (s : State) : Out :=
  .next (let q := q.val
    if s.seqLive q && (s.seq q).timer != 0 then
      (s.setSeq q { s.seq q with timer := 0 }).latch q (if q < 36 ∨ 40 ≤ q then 5 else 6)
    else s)

/-- STAGE_START (R389). -/
def execStageStart (q : SeqId) (s : State) : Out := .next (s.unitCommand q.val 8 State.unitStage)

/-- STAGE_DONE (R385, R389). -/
def execStageDone (core : CoreId) (stage : Fin 8) (s : State) : Out :=
  .next (let c := core.val
    if s.seqLive c then s.setCore c { s.core c with stages := (s.core c).stages &&& ~~~BitVec.ofNat 8 (1 <<< stage.val) } else s)

/-- SQ_WRITE (R389). -/
def execSqWrite (q : SeqId) (s : State) : Out := .next (s.unitCommand q.val 9 State.unitSqWrite)

/-- SQ_PUSH (R389, R163). -/
def execSqPush (q : SeqId) (s : State) : Out := .next (s.unitCommand q.val 10 State.unitSqPush)

/-- RC_SNAP (R389, R152). -/
def execRcSnap (q : SeqId) (s : State) : Out := .next (s.unitCommand q.val 11 State.unitSnap)

/-- BITS_PUT (R389). -/
def execBitsPut (q : SeqId) (s : State) : Out := .next (s.unitCommand q.val 12 State.unitBitsPut)

/-- BITS_GET (R389). -/
def execBitsGet (q : SeqId) (s : State) : Out := .next (s.unitCommand q.val 13 State.unitBitsGet)

/-- SEQ_WATCHDOG (R386, R396): the cycles of a running sequencer, waits included, have reached 65,536 since the last YIELD. -/
def execSeqWatchdog (q : SeqId) (s : State) : Out :=
  .next (if s.seqLive q.val && (s.seq q.val).run == 1 then s.seqFault q.val 1 else s)

end Sys2Proof.Machine
end

