-- ==== Sys2Proof/Machine/Remote.lean ====
section
/-! DEFINITION. Packets of the reliable virtual channels as they arrive (15_tolac_fabric_espalier.md R459, R460, R466 to R470, R478, R491, R492; 12_hbm_memory.md R369): order, duplicates, acknowledgements, the access windows, requests served for another node, and the answers to requests of this one. -/

namespace Sys2Proof.Machine

/-! Responses (R19, R459). -/

def respNum (r : Resp) : Nat :=
  match r with
  | .ok => 0
  | .okPoison => 1
  | .abortGated => 2
  | .abortReset => 3
  | .abortUnmapped => 4
  | .abortWindow => 5

/-- RESP of a header; a value that R459 does not list is answered as an unmapped address (DESIGN CHOICE). -/
def respOfNum (n : Nat) : Resp :=
  match n with
  | 0 => .ok
  | 1 => .okPoison
  | 2 => .abortGated
  | 3 => .abortReset
  | 5 => .abortWindow
  | _ => .abortUnmapped

/-! Requests served (R469, R470). -/

/-- Whether window `w` of port `n` lets a request in. -/
def State.windowOpens (s : State) (n w : Nat) (wr : Bool) (src a len : Nat) : Bool :=
  let c := s.reg (TPT_WIN_CTL n w)
  let b := s.pair (TPT_WIN_BASE_LO n w) (TPT_WIN_BASE_HI n w)
  let z := 2 ^ max 12 (fld c 9 4)
  bitAt c 0 && bitAt c (if wr then 2 else 1) && (bitAt c 3 || fld c 27 16 == src) && decide (b ≤ a ∧ a + len ≤ b + z)

/-- Whether some window of the arrival port contains all bytes of a request, allows its kind and matches its source. -/
def State.windowed (s : State) (n : Nat) (wr : Bool) (src a len : Nat) : Bool := (span 0 8).any fun w => s.windowOpens n w wr src a len

/-- A request outside the windows is refused (R470). -/
def State.windowReject (s : State) (n : Nat) : State := (s.satF (TPT_WIN_REJ n) 31 0).event (pgTPT n) 6

/-- The answer to a request from another node (R466, R469). -/
def State.respSend (s : State) (h : FabHeader) (r : Resp) (bs : List Byte) : State :=
  s.e2eSend h.src h.vc { ptype := if h.vc = 2 then 8 else 11, vc := h.vc, alt := false, poison := r == .okPoison, hops := 63, dst := h.src,
                         src := s.nodeId, len := bs.length, seq := 0, tag := h.tag, addr := 0, resp := respNum r, sync := false } bs

/-- A read for another node, under the agent ID of the arrival port. -/
def State.serveRemoteRead (s : State) (n : Nat) (h : FabHeader) : State :=
  if s.windowed n false h.src h.addr h.len then
    let r := s.nocRead h.addr h.len
    r.1.respSend h r.2.1 r.2.2
  else (s.windowReject n).respSend h .abortWindow []

/-- A write for another node, likewise. -/
def State.serveRemoteWrite (s : State) (n : Nat) (h : FabHeader) (bs : List Byte) : State :=
  if s.windowed n true h.src h.addr bs.length then
    let r := s.nocWrite (.agent (52 + n)) h.addr bs h.poison
    r.1.respSend h r.2 []
  else (s.windowReject n).respSend h .abortWindow []

/-! Answers (R466, R469). -/

/-- What an answer does to a transfer. -/
def Xfer.answer (x : Xfer) (write : Bool) (off len : Nat) (r : Resp) (pois : Bool) (bs : List Byte) : Xfer :=
  let x := { x with waits := x.waits - 1 }
  if respErr r ≠ 0 then { x with err := if x.err = 0 then respErr r else x.err }
  else if write then { x with done := x.done + len }
  else { x with got := tabPut (fun _ => ([], false)) x.got off (bs, pois || r == .okPoison) }

/-- The answer to an outstanding request reaches who asked. An answer that nothing waits for is discarded. -/
def State.remoteAnswer (s : State) (h : FabHeader) (bs : List Byte) : State :=
  match s.remotes.find? fun r => r.tag == h.tag && r.node == h.src && r.vc == h.vc with
  | none => s
  | some r =>
    let s := { s with remotes := s.remotes.erase r }
    let resp := respOfNum h.resp
    match r.req with
    | .seq q => if (s.seq q).busWait then s.busAnswer q (!r.write) (if h.poison && resp == .ok then .okPoison else resp) bs else s
    | .desc g i off =>
      match s.descAt g i with
      | some d => s.setDesc g { d with xfer := d.xfer.answer r.write off r.len resp h.poison bs }
      | none => s
    | .chan c off =>
      match s.chan c with
      | some x => s.setChan c (some { x with xfer := x.xfer.answer r.write off r.len resp h.poison bs })
      | none => s

/-! Delivery in order (R466, R467). -/

/-- A packet is delivered. -/
def State.fabDeliver (s : State) (p : FabHeld) : State :=
  match p.h.ptype with
  | 6 => s.serveRemoteRead p.port p.h
  | 7 => s.serveRemoteWrite p.port p.h p.payload
  | 8 => s.remoteAnswer p.h p.payload
  | 9 => s.serveRemoteWrite p.port p.h p.payload
  | 10 => s.serveRemoteRead p.port p.h
  | 11 => s.remoteAnswer p.h p.payload
  | 12 => p.part.elim s fun id => s.partDeliver id p.payload
  | _ => s

/-- Deliver the packet and those held that follow it; at most `k` of these. After every 16 deliveries an acknowledgement leaves. -/
def State.deliverRun (s : State) (node vc : Nat) (p : FabHeld) : Nat → State
  | 0 => deliverOne s node vc p
  | k + 1 =>
    let s := deliverOne s node vc p
    let x := s.e2eOf node vc
    match x.heldBack.find? fun y => y.h.seq == x.expect with
    | some y => (s.setE2e node vc { x with heldBack := x.heldBack.erase y }).deliverRun node vc y k
    | none => s
where
  /-- one packet -/
  deliverOne (s : State) (node vc : Nat) (p : FabHeld) : State :=
    let x := s.e2eOf node vc
    let s := s.setE2e node vc { x with expect := (p.h.seq + 1) % 2 ^ 32, unacked := x.unacked + 1 }
    let s := s.fabDeliver p
    if 16 ≤ (s.e2eOf node vc).unacked then s.ackSend node vc else s

/-- A packet of MEM or BULK arrives: SYNC starts the numbering anew, the next number is delivered, a later one is held while there is room for 64, an earlier one is a duplicate (R466, R467). -/
def State.e2eReceive (s : State) (p : FabHeld) : State :=
  let node := p.h.src
  let vc := p.h.vc
  let s := if p.h.sync then s.setE2e node vc { s.e2eOf node vc with expect := p.h.seq, heldBack := [] } else s
  let x := s.e2eOf node vc
  if p.h.seq = x.expect then s.deliverRun node vc p 64
  else if seqBefore x.expect p.h.seq then
    if x.heldBack.any (fun y => y.h.seq == p.h.seq) || decide (64 ≤ x.heldBack.length) then s
    else s.setE2e node vc { x with heldBack := x.heldBack ++ [p] }
  else s

/-- A packet arrives at a port, of type `typ` on virtual channel `vc`; one that is not for this node is the switch's to forward. -/
def State.fabArrive (s : State) (port typ vc : Nat) (h : FabHeader) (payload : List Byte) (part : Option PartId) : State :=
  if !s.portLive port then s
  else
    let h := { h with ptype := typ, vc := vc, src := h.src % 4096, seq := h.seq % 2 ^ 32 }
    let s := s.portRx port (fabFlits h)
    if s.delivers h then s.e2eReceive { port := port, h := h, payload := payload, part := part } else s

/-! Commands. -/

/-- MEM_RD (R469, R470). -/
def execMemRd (port : PortId) (h : FabHeader) (s : State) : Out := .next (s.fabArrive port.val 6 2 h [] none)

/-- MEM_WR (R469, R470). -/
def execMemWr (port : PortId) (h : FabHeader) (payload : List Byte) (s : State) : Out := .next (s.fabArrive port.val 7 2 h payload none)

/-- MEM_RESP (R466). -/
def execMemResp (port : PortId) (h : FabHeader) (payload : List Byte) (s : State) : Out := .next (s.fabArrive port.val 8 2 h payload none)

/-- BULK_WR (R469, R470). -/
def execBulkWr (port : PortId) (h : FabHeader) (payload : List Byte) (s : State) : Out := .next (s.fabArrive port.val 9 3 h payload none)

/-- BULK_RD (R469, R470). -/
def execBulkRd (port : PortId) (h : FabHeader) (s : State) : Out := .next (s.fabArrive port.val 10 3 h [] none)

/-- BULK_RESP (R466). -/
def execBulkResp (port : PortId) (h : FabHeader) (payload : List Byte) (s : State) : Out := .next (s.fabArrive port.val 11 3 h payload none)

/-- ESP_PART (R466, R478, R480, R492). -/
def execEspPart (port : PortId) (h : FabHeader) (group member : Fin 8) (sec : BitVec 48) (ns : W32) (tile : Nat) (last : Bool) (bytes : List Byte) (s : State) : Out :=
  .next (s.fabArrive port.val 12 3 h bytes (some { group := group.val, member := member.val, time := { sec := sec, ns := ns }, tile := tile, last := last }))

end Sys2Proof.Machine
end

