-- ==== Sys2Proof/Machine/Dispatch.lean ====
section
/-! DEFINITION. The dispatch: one arm per command. -/

namespace Sys2Proof.Machine

def exec (i : Instr) (s : State) : Host.Outcome State Fault Refusal :=
  match i with
  | .registerWrite who off vs => Sys2Proof.Machine.execRegisterWrite who off vs s
  | .counterReadClear who span => Sys2Proof.Machine.execCounterReadClear who span s
  | .bar0PartialWrite fn off be v => Sys2Proof.Machine.execBar0PartialWrite fn off be v s
  | .pairLoRead who off => Sys2Proof.Machine.execPairLoRead who off s
  | .pairLoWrite who off v => Sys2Proof.Machine.execPairLoWrite who off v s
  | .evtSet who page v => Sys2Proof.Machine.execEvtSet who page v s
  | .blockEnable who page => Sys2Proof.Machine.execBlockEnable who page s
  | .drain who page => Sys2Proof.Machine.execDrain who page s
  | .abort who page => Sys2Proof.Machine.execAbort who page s
  | .blockDrainDone page => Sys2Proof.Machine.execBlockDrainDone page s
  | .srst who page => Sys2Proof.Machine.execSrst who page s
  | .blockResetReplyTimeout page => Sys2Proof.Machine.execBlockResetReplyTimeout page s
  | .devRst who v => Sys2Proof.Machine.execDevRst who v s
  | .warmReset => Sys2Proof.Machine.execWarmReset s
  | .perstNAssert => Sys2Proof.Machine.execPerstNAssert s
  | .pcieHotReset => Sys2Proof.Machine.execPcieHotReset s
  | .perstNDeassert => Sys2Proof.Machine.execPerstNDeassert s
  | .hostLinkDown => Sys2Proof.Machine.execHostLinkDown s
  | .hostLinkRestored => Sys2Proof.Machine.execHostLinkRestored s
  | .flr fn => Sys2Proof.Machine.execFlr fn s
  | .powerStateChange fn d3 pmeEn clearPme => Sys2Proof.Machine.execPowerStateChange fn d3 pmeEn clearPme s
  | .busMasterEnableChange fn on => Sys2Proof.Machine.execBusMasterEnableChange fn on s
  | .vfDisable vfEnable ari numVFs => Sys2Proof.Machine.execVfDisable vfEnable ari numVFs s
  | .bar2Resize log2 => Sys2Proof.Machine.execBar2Resize log2 s
  | .bar2Access fn off len wr => Sys2Proof.Machine.execBar2Access fn off len wr s
  | .msixControlWrite fn f => Sys2Proof.Machine.execMsixControlWrite fn f s
  | .ptmRequest who => Sys2Proof.Machine.execPtmRequest who s
  | .ptmDone answer => Sys2Proof.Machine.execPtmDone answer s
  | .ringDoorbell who r tail => Sys2Proof.Machine.execRingDoorbell who r tail s
  | .ringOwnerChange who r owner => Sys2Proof.Machine.execRingOwnerChange who r owner s
  | .ringEntryFetchFail r err => Sys2Proof.Machine.execRingEntryFetchFail r err s
  | .jobBadType r => Sys2Proof.Machine.execJobBadType r s
  | .sessionOpen r => Sys2Proof.Machine.execSessionOpen r s
  | .sessionCloseFinish r => Sys2Proof.Machine.execSessionCloseFinish r s
  | .sessionCloseAbort r => Sys2Proof.Machine.execSessionCloseAbort r s
  | .sessionCloseComplete sess => Sys2Proof.Machine.execSessionCloseComplete sess s
  | .encodePicture r => Sys2Proof.Machine.execEncodePicture r s
  | .decodeUnit r => Sys2Proof.Machine.execDecodeUnit r s
  | .composeConfig r => Sys2Proof.Machine.execComposeConfig r s
  | .flip r => Sys2Proof.Machine.execFlip r s
  | .install r => Sys2Proof.Machine.execInstall r s
  | .load r => Sys2Proof.Machine.execLoad r s
  | .loadSwap r => Sys2Proof.Machine.execLoadSwap r s
  | .nop r => Sys2Proof.Machine.execNop r s
  | .fence r => Sys2Proof.Machine.execFence r s
  | .fenceComplete r => Sys2Proof.Machine.execFenceComplete r s
  | .alloc src pool count blocking => Sys2Proof.Machine.execAlloc src pool count blocking s
  | .addref src h => Sys2Proof.Machine.execAddref src h s
  | .release src h => Sys2Proof.Machine.execRelease src h s
  | .transfer src h dst => Sys2Proof.Machine.execTransfer src h dst s
  | .free src h => Sys2Proof.Machine.execFree src h s
  | .reclaimByOwner src pool victim => Sys2Proof.Machine.execReclaimByOwner src pool victim s
  | .reclaimDone pool => Sys2Proof.Machine.execReclaimDone pool s
  | .poolWaiterServed pool => Sys2Proof.Machine.execPoolWaiterServed pool s
  | .poolEnable who pool => Sys2Proof.Machine.execPoolEnable who pool s
  | .poolDrain who pool => Sys2Proof.Machine.execPoolDrain who pool s
  | .poolAbort who pool => Sys2Proof.Machine.execPoolAbort who pool s
  | .linesDoneAdvance a h lines complete => Sys2Proof.Machine.execLinesDoneAdvance a h lines complete s
  | .pictureStart sess => Sys2Proof.Machine.execPictureStart sess s
  | .prepass sess pic activity costs vectors => Sys2Proof.Machine.execPrepass sess pic activity costs vectors s
  | .sliceJobReady sess pic job => Sys2Proof.Machine.execSliceJobReady sess pic job s
  | .inheritLatestStart sess pic job => Sys2Proof.Machine.execInheritLatestStart sess pic job s
  | .sliceJobDispatch core => Sys2Proof.Machine.execSliceJobDispatch core s
  | .stripStart core => Sys2Proof.Machine.execStripStart core s
  | .ctuRowStart core headerBytes coded floors => Sys2Proof.Machine.execCtuRowStart core headerBytes coded floors s
  | .pooledRowReady sess pic job => Sys2Proof.Machine.execPooledRowReady sess pic job s
  | .sliceJobComplete core => Sys2Proof.Machine.execSliceJobComplete core s
  | .sqBankSwap core => Sys2Proof.Machine.execSqBankSwap core s
  | .sqTimeout core => Sys2Proof.Machine.execSqTimeout core s
  | .sliceTrailer core => Sys2Proof.Machine.execSliceTrailer core s
  | .promotionReplyTimeout hedge => Sys2Proof.Machine.execPromotionReplyTimeout hedge s
  | .promotionReissue hedge => Sys2Proof.Machine.execPromotionReissue hedge s
  | .hdgPromote who hedge v => Sys2Proof.Machine.execHdgPromote who hedge v s
  | .hostPromoteTakeover hedge => Sys2Proof.Machine.execHostPromoteTakeover hedge s
  | .hdgSpare who hedge v => Sys2Proof.Machine.execHdgSpare who hedge v s
  | .bistStart who hedge slot => Sys2Proof.Machine.execBistStart who hedge slot s
  | .bistDone hedge pass => Sys2Proof.Machine.execBistDone hedge pass s
  | .hdgDvfsWrite who hedge v => Sys2Proof.Machine.execHdgDvfsWrite who hedge v s
  | .dvfsApply hedge => Sys2Proof.Machine.execDvfsApply hedge s
  | .hdgPersPinWrite who hedge v => Sys2Proof.Machine.execHdgPersPinWrite who hedge v s
  | .decodeJobReady sess si => Sys2Proof.Machine.execDecodeJobReady sess si s
  | .concealmentJobReady sess pic => Sys2Proof.Machine.execConcealmentJobReady sess pic s
  | .concealLatestStart sess pic => Sys2Proof.Machine.execConcealLatestStart sess pic s
  | .outputDeadline sess row => Sys2Proof.Machine.execOutputDeadline sess row s
  | .flipPoint pipe => Sys2Proof.Machine.execFlipPoint pipe s
  | .freewheelFlip pipe => Sys2Proof.Machine.execFreewheelFlip pipe s
  | .canvasLineWrite pipe => Sys2Proof.Machine.execCanvasLineWrite pipe s
  | .lateLine pipe => Sys2Proof.Machine.execLateLine pipe s
  | .groupArm who pipe group => Sys2Proof.Machine.execGroupArm who pipe group s
  | .groupCancel who pipe group => Sys2Proof.Machine.execGroupCancel who pipe group s
  | .dchGo who ch => Sys2Proof.Machine.execDchGo who ch s
  | .dchEnd ch => Sys2Proof.Machine.execDchEnd ch s
  | .dmaDescriptorStart r => Sys2Proof.Machine.execDmaDescriptorStart r s
  | .descriptorTransferError r index err => Sys2Proof.Machine.execDescriptorTransferError r index err s
  | .descriptorEnd r index => Sys2Proof.Machine.execDescriptorEnd r index s
  | .streamSliceStart r => Sys2Proof.Machine.execStreamSliceStart r s
  | .streamSliceEnd r => Sys2Proof.Machine.execStreamSliceEnd r s
  | .cbufRdWrite who r v => Sys2Proof.Machine.execCbufRdWrite who r v s
  | .icClaim who inst => Sys2Proof.Machine.execIcClaim who inst s
  | .icComplete who inst v => Sys2Proof.Machine.execIcComplete who inst v s
  | .msixSend inst => Sys2Proof.Machine.execMsixSend inst s
  | .icModWrite who inst r v => Sys2Proof.Machine.execIcModWrite who inst r v s
  | .moderationTimer r => Sys2Proof.Machine.execModerationTimer r s
  | .pmeRepeat fn => Sys2Proof.Machine.execPmeRepeat fn s
  | .hbmRead a addr len => Sys2Proof.Machine.execHbmRead a addr len s
  | .hbmWrite a addr bytes poison => Sys2Proof.Machine.execHbmWrite a addr bytes poison s
  | .hbmFullTraining who stack => Sys2Proof.Machine.execHbmFullTraining who stack s
  | .hbmTrainingDone stack temp sweeps us => Sys2Proof.Machine.execHbmTrainingDone stack temp sweeps us s
  | .hbmTrackingRetrain who stack sweeps us => Sys2Proof.Machine.execHbmTrackingRetrain who stack sweeps us s
  | .hbmTempPoll stack temp => Sys2Proof.Machine.execHbmTempPoll stack temp s
  | .hbmRefresh stack => Sys2Proof.Machine.execHbmRefresh stack s
  | .scrubRead stack errs => Sys2Proof.Machine.execScrubRead stack errs s
  | .hbmMapWrite who v => Sys2Proof.Machine.execHbmMapWrite who v s
  | .pprSoft who stack key => Sys2Proof.Machine.execPprSoft who stack key s
  | .pprHard who stack key => Sys2Proof.Machine.execPprHard who stack key s
  | .eventTaken q => Sys2Proof.Machine.execEventTaken q s
  | .next q => Sys2Proof.Machine.execNext q s
  | .jump q => Sys2Proof.Machine.execJump q s
  | .cjump q => Sys2Proof.Machine.execCjump q s
  | .call q => Sys2Proof.Machine.execCall q s
  | .ret q => Sys2Proof.Machine.execRet q s
  | .loop q => Sys2Proof.Machine.execLoop q s
  | .dispatch q => Sys2Proof.Machine.execDispatch q s
  | .halt q => Sys2Proof.Machine.execHalt q s
  | .microwordAlu q => Sys2Proof.Machine.execMicrowordAlu q s
  | .busRd q => Sys2Proof.Machine.execBusRd q s
  | .busWr q => Sys2Proof.Machine.execBusWr q s
  | .regRd q => Sys2Proof.Machine.execRegRd q s
  | .regWr q => Sys2Proof.Machine.execRegWr q s
  | .commit q => Sys2Proof.Machine.execCommit q s
  | .evtMask q => Sys2Proof.Machine.execEvtMask q s
  | .dch q => Sys2Proof.Machine.execDch q s
  | .timer q => Sys2Proof.Machine.execTimer q s
  | .seqTimerExpiry q => Sys2Proof.Machine.execSeqTimerExpiry q s
  | .stageStart q => Sys2Proof.Machine.execStageStart q s
  | .sqWrite q => Sys2Proof.Machine.execSqWrite q s
  | .sqPush q => Sys2Proof.Machine.execSqPush q s
  | .rcSnap q => Sys2Proof.Machine.execRcSnap q s
  | .bitsPut q => Sys2Proof.Machine.execBitsPut q s
  | .bitsGet q => Sys2Proof.Machine.execBitsGet q s
  | .seqWatchdog q => Sys2Proof.Machine.execSeqWatchdog q s
  | .bankSwap q => Sys2Proof.Machine.execBankSwap q s
  | .storeReload core personality => Sys2Proof.Machine.execStoreReload core personality s
  | .cswKick who v => Sys2Proof.Machine.execCswKick who v s
  | .cswSwap who v => Sys2Proof.Machine.execCswSwap who v s
  | .cswData0Read who => Sys2Proof.Machine.execCswData0Read who s
  | .cswData3Write who v => Sys2Proof.Machine.execCswData3Write who v s
  | .cswRevoke who v => Sys2Proof.Machine.execCswRevoke who v s
  | .ethernetFrameReceive port f => Sys2Proof.Machine.execEthernetFrameReceive port f s
  | .mediaPacketReceive flow pathB p => Sys2Proof.Machine.execMediaPacketReceive flow pathB p s
  | .lossDeadline flow => Sys2Proof.Machine.execLossDeadline flow s
  | .pictureSilenceTimeout flow => Sys2Proof.Machine.execPictureSilenceTimeout flow s
  | .htxCmd who port v => Sys2Proof.Machine.execHtxCmd who port v s
  | .hostFrameSent port => Sys2Proof.Machine.execHostFrameSent port s
  | .flowEnable who tx flow => Sys2Proof.Machine.execFlowEnable who tx flow s
  | .flowDrain who tx flow => Sys2Proof.Machine.execFlowDrain who tx flow s
  | .flowAbort who tx flow => Sys2Proof.Machine.execFlowAbort who tx flow s
  | .txHandover flow a h => Sys2Proof.Machine.execTxHandover flow a h s
  | .txPacketDue flow => Sys2Proof.Machine.execTxPacketDue flow s
  | .mtcLoad who => Sys2Proof.Machine.execMtcLoad who s
  | .mtcAdj who => Sys2Proof.Machine.execMtcAdj who s
  | .mtcSlew who => Sys2Proof.Machine.execMtcSlew who s
  | .slewDone => Sys2Proof.Machine.execSlewDone s
  | .mtcNsRead who => Sys2Proof.Machine.execMtcNsRead who s
  | .tptModeWrite who port v => Sys2Proof.Machine.execTptModeWrite who port v s
  | .linkTrainingStart who port => Sys2Proof.Machine.execLinkTrainingStart who port s
  | .tolacLinkUp port credits reversed => Sys2Proof.Machine.execTolacLinkUp port credits reversed s
  | .linkTrainingTimeout port => Sys2Proof.Machine.execLinkTrainingTimeout port s
  | .tolacLinkDown port => Sys2Proof.Machine.execTolacLinkDown port s
  | .flitNak port => Sys2Proof.Machine.execFlitNak port s
  | .linkAckTimeout port => Sys2Proof.Machine.execLinkAckTimeout port s
  | .fabricPacketForward port h payload => Sys2Proof.Machine.execFabricPacketForward port h payload s
  | .probe port => Sys2Proof.Machine.execProbe port s
  | .probeAns port serial node farPort mode => Sys2Proof.Machine.execProbeAns port serial node farPort mode s
  | .probeGo who port => Sys2Proof.Machine.execProbeGo who port s
  | .probeTimeout port => Sys2Proof.Machine.execProbeTimeout port s
  | .e2eAck port h => Sys2Proof.Machine.execE2eAck port h s
  | .e2eAckSend node vc => Sys2Proof.Machine.execE2eAckSend node vc s
  | .e2eRetransmit node vc => Sys2Proof.Machine.execE2eRetransmit node vc s
  | .memTimeout tag => Sys2Proof.Machine.execMemTimeout tag s
  | .failback port => Sys2Proof.Machine.execFailback port s
  | .mediaRtp port h payload => Sys2Proof.Machine.execMediaRtp port h payload s
  | .memRd port h => Sys2Proof.Machine.execMemRd port h s
  | .memWr port h payload => Sys2Proof.Machine.execMemWr port h payload s
  | .memResp port h payload => Sys2Proof.Machine.execMemResp port h payload s
  | .bulkWr port h payload => Sys2Proof.Machine.execBulkWr port h payload s
  | .bulkRd port h => Sys2Proof.Machine.execBulkRd port h s
  | .bulkResp port h payload => Sys2Proof.Machine.execBulkResp port h payload s
  | .join group member hash => Sys2Proof.Machine.execJoin group member hash s
  | .go group sec ns => Sys2Proof.Machine.execGo group sec ns s
  | .allowance group sec ns amounts => Sys2Proof.Machine.execAllowance group sec ns amounts s
  | .subst group member sec ns => Sys2Proof.Machine.execSubst group member sec ns s
  | .leave group member => Sys2Proof.Machine.execLeave group member s
  | .espHalo group member strip alt row sec ns bytes => Sys2Proof.Machine.execEspHalo group member strip alt row sec ns bytes s
  | .espPart port h group member sec ns tile last bytes => Sys2Proof.Machine.execEspPart port h group member sec ns tile last bytes s
  | .partTimeout group member => Sys2Proof.Machine.execPartTimeout group member s
  | .routeEntryWrite who entry v => Sys2Proof.Machine.execRouteEntryWrite who entry v s
  | .clockFailure kind pllB both => Sys2Proof.Machine.execClockFailure kind pllB both s
  | .pllQualified pllB holdUs => Sys2Proof.Machine.execPllQualified pllB holdUs s
  | .holdTimeout => Sys2Proof.Machine.execHoldTimeout s
  | .clockSelect who b => Sys2Proof.Machine.execClockSelect who b s
  | .pllbConfigWrite who v => Sys2Proof.Machine.execPllbConfigWrite who v s
  | .gateWrite who k v => Sys2Proof.Machine.execGateWrite who k v s
  | .freqMeasureStart who v => Sys2Proof.Machine.execFreqMeasureStart who v s
  | .freqMeasureDone count => Sys2Proof.Machine.execFreqMeasureDone count s
  | .freqMeasureTimeout count => Sys2Proof.Machine.execFreqMeasureTimeout count s
  | .faultRaise src agent code detail => Sys2Proof.Machine.execFaultRaise src agent code detail s
  | .faultNPulseEnd => Sys2Proof.Machine.execFaultNPulseEnd s
  | .fltUnlock who v => Sys2Proof.Machine.execFltUnlock who v s
  | .fltHistAckWrite who v => Sys2Proof.Machine.execFltHistAckWrite who v s
  | .event who => Sys2Proof.Machine.execEvent who s
  | .flip1 who => Sys2Proof.Machine.execFlip1 who s
  | .flip2 who => Sys2Proof.Machine.execFlip2 who s
  | .testEnFall => Sys2Proof.Machine.execTestEnFall s
  | .powerUp => Sys2Proof.Machine.execPowerUp s
  | .undervoltage => Sys2Proof.Machine.execUndervoltage s
  | .feedFail feedB => Sys2Proof.Machine.execFeedFail feedB s
  | .feedAlarm feedB low => Sys2Proof.Machine.execFeedAlarm feedB low s
  | .currentLimitTrip => Sys2Proof.Machine.execCurrentLimitTrip s
  | .hotSwapRetry => Sys2Proof.Machine.execHotSwapRetry s
  | .pwrEnLow => Sys2Proof.Machine.execPwrEnLow s
  | .pwrEnHigh => Sys2Proof.Machine.execPwrEnHigh s
  | .sensorPoll junctions hbmTemps => Sys2Proof.Machine.execSensorPoll junctions hbmTemps s
  | .thermalStepDown => Sys2Proof.Machine.execThermalStepDown s
  | .thermalStepUp => Sys2Proof.Machine.execThermalStepUp s
  | .thermalTrip => Sys2Proof.Machine.execThermalTrip s
  | .thermalShutdown => Sys2Proof.Machine.execThermalShutdown s
  | .smbReadWord k pec => Sys2Proof.Machine.execSmbReadWord k pec s
  | .smbWriteWord k v pecOk => Sys2Proof.Machine.execSmbWriteWord k v pecOk s
  | .smbSendByte b => Sys2Proof.Machine.execSmbSendByte b s
  | .ethernetLinkDown port => Sys2Proof.Machine.execEthernetLinkDown port s
  | .ethernetLinkUp port => Sys2Proof.Machine.execEthernetLinkUp port s
  | .hbmRequestIssue pcx => Sys2Proof.Machine.execHbmRequestIssue pcx s
  | .rowIdleClose pcx bank => Sys2Proof.Machine.execRowIdleClose pcx bank s
  | .creditReturn port vc n => Sys2Proof.Machine.execCreditReturn port vc n s
  | .flitAck port n => Sys2Proof.Machine.execFlitAck port n s
  | .stageDone core stage => Sys2Proof.Machine.execStageDone core stage s
  | .smbMeasurementUpdate vinA vinB iinA iinB board pin1ms pin100ms => Sys2Proof.Machine.execSmbMeasurementUpdate vinA vinB iinA iinB board pin1ms pin100ms s

end Sys2Proof.Machine
end

