-- ==== Sys2Proof/Machine/Idle.lean ====
section
/-! DEFINITION. What the module does while no command waits: one microsecond of the reference domain passes (R498 domain 89), for the counters that software can read as time (log entry 6). -/

namespace Sys2Proof.Machine

/-- Units in which the fraction of a nanosecond is carried: 2^-4 x 10^-9 ns (R423). -/
abbrev mtcUnit : Int := 16000000000

/-- What 1000 cycles of the media time domain add: 1000 ns, MTC_RATE, and 100 ppm of a running slew (R423). -/
def mtcAdvance (s : State) : State :=
  if s.mtcOn then
    let m := s.mtc
    let step : Int := if 0 < m.slew then min m.slew 1600000000 else max m.slew (-1600000000)
    let total := m.frac + 1000 * mtcUnit + 1000 * (s.reg MTC_RATE).toInt + step
    let ns := total / mtcUnit
    let s := { s with mtc := { m with time := PtpTime.ofNat (m.time.nat + ns.toNat), frac := total % mtcUnit, slew := m.slew - step } }
    if m.slew ≠ 0 ∧ m.slew = step then s.event pgMTC 2 else s
  else s

/-- The moderation timers of rings with unsignalled completions advance (R321). -/
def moderationAdvance (s : State) : State :=
  let rs := tabMap (fun _ => ({} : Ring)) (fun _ g => if g.modC = 0 then g else { g with modUs := min (g.modUs + 1) 65535 }) s.rings
  { s with rings := rs }

/-- One microsecond passes: configuration space comes nearer to being ready (R30), and the clocked counters advance; no synthesized clock, no time for them (R499, R530). -/
def idleTick (s : State) : State :=
  let s := { s with hif := { s.hif with readyIn := s.hif.readyIn - 1 } }
  if s.running then
    let s := { s with uptime := s.uptime + 1 }
    agesAdvance (moderationAdvance (mtcAdvance s))
  else s

end Sys2Proof.Machine
end

