-- ==== Sys2Proof/Safety.lean ====
section
/-! DEFINITION. The notions statements use: when a page serves an access, what a fetched job leaves, memory unchanged, and what every command leaves as it was. -/

namespace Sys2Proof.Machine

/-- Page `p` serves an access of its body by `who`: the blocks take work, its domain runs, it is not resetting, and a host access arrives at it in D0 (R19, R20, R38, R43, R48, R499). -/
def State.served (s : State) (who : Who) (p : Nat) : Bool :=
  s.clocked && !s.gated p && !s.busy p &&
  (match who with
   | .pcie k => s.hif.linkUp && s.d0 k.val && s.reaches k.val p
   | .agent _ => true)

/-- The same for the common header, which a resetting page still serves to the host (R56). -/
def State.servedHdr (s : State) (who : Who) (p : Nat) : Bool :=
  s.clocked && !s.gated p &&
  (match who with
   | .pcie k => s.hif.linkUp && s.d0 k.val && s.reaches k.val p
   | .agent _ => !s.busy p)

/-- The state in which a served access acts: a host write has latched the REG event of the sequencer that serves the page (R391). -/
def State.noted (s : State) (who : Who) (p : Nat) : State :=
  match who with
  | .pcie _ => s.regLatch p
  | .agent _ => s

/-- An agent's served write is answered OK; a host write has no answer (R19, R48). -/
def State.told (s : State) (who : Who) : State :=
  match who with
  | .pcie _ => s
  | .agent a => s.emit (.resp a .ok [])

/-- The answer to a served read. -/
def State.toldWord (s : State) (who : Who) (w : W32) : State :=
  match who with
  | .pcie _ => s.emit (.readData w)
  | .agent a => s.emit (.resp a .ok (leBytes 4 w.toNat))

/-- The next job of ring `r` is the 128 bytes `b` of a job of type `typ`, and it passes the checks of R248. -/
def State.jobDue (s : State) (r typ : Nat) (b : List Byte) : Prop :=
  s.nextJob r = some b ∧ leAt b 0 1 = typ ∧ s.jobCheck r b = 0

/-- The state after that job is fetched: RING_HEAD has passed its slot, and the hedges of a session it names have their JOB event (R244, R283, R391). -/
def State.jobTaken (s : State) (r : Nat) (b : List Byte) : State :=
  let t := s.takeJob r (jobRefOf r b)
  if 2 ≤ leAt b 0 1 ∧ leAt b 0 1 ≤ 4 then t.jobLatch (leAt b 2 1) else t

/-- Every byte of HBM reads as before at every local address. -/
def HbmKept (s t : State) : Prop := ∀ a, t.hbmByte a = s.hbmByte a

/-- Every byte of host memory reads as before. -/
def HostKept (s t : State) : Prop := ∀ a, t.hostByte a = s.hostByte a

/-- HBM and host memory are in canonical form. -/
def State.memWf (s : State) : Prop := tabWf s.hbmDefault s.hbm = true ∧ tabWf memDefault s.host = true

/-- From `s` to `t` the queue and the facts of the part stay, and canonical memories stay canonical. -/
structure Sound (s t : State) : Prop where
  pending : t.pending = s.pending
  variant : t.variant = s.variant
  rev : t.rev = s.rev
  signReq : t.signReq = s.signReq
  mem : s.memWf → t.memWf

/-- The outcome is a next state, as sound as the state it came from. -/
def Goes (s : State) (o : Host.Outcome State Fault Refusal) : Prop := ∃ t, o = .next t ∧ Sound s t

end Sys2Proof.Machine
end

