-- ==== Sys2Proof/Certificates/Slice0/Obligations.lean ====
section
/-! DEFINITION. The statements for the provers. A completion statement gives, for the commands it names and every state and operands that meet its hypotheses, the next state that exec answers: where that state is written out, what it does not name is as before; where it is said to exist, the clauses say what it holds. -/

open Sys2Proof Sys2Proof.Machine

/-! The step. -/

/-- A step takes the oldest waiting command and carries it out on the state with the queue's rest. Where the spec is silent it takes the model's reading: log entry 1. -/
def Obligations.StepRunsFront : Prop :=
  ∀ (c : Instr) (rest : List Instr) (s : State), s.pending = c :: rest → step s = exec c { s with pending := rest }

/-- With nothing waiting a microsecond passes (log entry 6, the model's choice): while the clocks run the uptime counter counts it, and nothing is answered or stored. -/
def Obligations.IdleStep : Prop :=
  ∀ s : State, s.pending = [] → ∃ t, step s = .next t ∧ t.pending = [] ∧ t.outbox = s.outbox ∧ t.hbm = s.hbm ∧ t.host = s.host ∧
    t.uptime = (if s.running then s.uptime + 1 else s.uptime)

/-- At reset the queue is empty, no rail is on and no clock runs, both memories list nothing and are in canonical form, and every register reads its reset value (where the spec gives none, that of log entries 2, 4 and 5, the model's choice). -/
def Obligations.ResetState : Prop :=
  State.reset.pending = [] ∧ State.reset.power.good = false ∧ State.reset.running = false ∧ State.reset.hbm = [] ∧ State.reset.host = [] ∧
    State.reset.memWf ∧ ∀ a, State.reset.reg a = regDefault a

/-- Every step answers a next state; it takes at most the front of the queue, never changes which part the module is (its variant, its revision, whether it demands signed images), and keeps both memories in canonical form. -/
def Obligations.EveryStepKeepsThePart : Prop :=
  ∀ s : State, ∃ t, step s = .next t ∧ t.pending = s.pending.tail ∧ t.variant = s.variant ∧ t.rev = s.rev ∧ t.signReq = s.signReq ∧
    (s.memWf → t.memWf)

/-! Registers as such (R7, R10, R19, R20, R43, R48, R52 to R56). -/

/-- Pages that do not serve an access of their registers. Through PF0 of a running module over a live link, in D0: while RESET_BUSY is 1 the header reads as it stands, and the body reads 0 and drops a write; a gated page reads 0 throughout and drops a write. In D3hot an access is an Unsupported Request, which AER records. An agent is answered ABORT_GATED or ABORT_RESET. Where the spec is silent it takes the model's reading: log entry 87. -/
def Obligations.PagesTurnedAway : Prop :=
  ∀ (a : Nat) (v : W32) (s : State),
    let p := a / 0x1000
    let off := a % 0x1000
    s.clocked = true → a < 0x1000000 → off % 4 = 0 → (pageInfo p).isSome = true →
    (s.hif.linkUp = true → s.d0 0 = true →
      (s.gated p = false → s.busy p = true →
        (off < 0x40 → exec (.counterReadClear (.pcie 0) ⟨a, 4⟩) s = .next (s.emit (.readData (s.viewHdr p off)))) ∧
        (0x40 ≤ off → exec (.counterReadClear (.pcie 0) ⟨a, 4⟩) s = .next (s.emit (.readData 0)) ∧
          exec (.registerWrite (.pcie 0) a [v]) s = .next s)) ∧
      (s.gated p = true → exec (.counterReadClear (.pcie 0) ⟨a, 4⟩) s = .next (s.emit (.readData 0)) ∧
        exec (.registerWrite (.pcie 0) a [v]) s = .next s)) ∧
    (∀ k : FnId, s.hif.linkUp = true → s.d0 k.val = false →
      exec (.counterReadClear (.pcie k) ⟨a, 4⟩) s = .next (s.unsupported k.val) ∧
      exec (.registerWrite (.pcie k) a [v]) s = .next (s.unsupported k.val)) ∧
    (∀ g,
      (s.gated p = true → exec (.counterReadClear (.agent g) ⟨a, 4⟩) s = .next (s.emit (.resp g .abortGated [])) ∧
        exec (.registerWrite (.agent g) a [v]) s = .next (s.emit (.resp g .abortGated []))) ∧
      (s.gated p = false → s.busy p = true → exec (.counterReadClear (.agent g) ⟨a, 4⟩) s = .next (s.emit (.resp g .abortReset [])) ∧
        exec (.registerWrite (.agent g) a [v]) s = .next (s.emit (.resp g .abortReset []))))

/-- A served write through PF0 of a page's EVT_EN stores the bits of the page's events, one of EVT_STAT clears the bits written as 1; a served write of EVT_SET, by the host or an agent, sets the bits written of the page's events. Beside it a host write latches the REG event of the sequencer that serves the page, a write to FLT's page loses a partial unlock, and an agent is answered OK; nothing else changes. Its commands: REGISTER_WRITE, EVT_SET. -/
def Obligations.HeaderWrites : Prop :=
  ∀ (page : PageId) (v : W32) (s : State),
    let p := page.val
    let pf0 : Who := .pcie 0
    let plain (t : State) : State := if p = pgFLT then { t with unlock := 0 } else t
    (s.servedHdr pf0 p = true →
      exec (.registerWrite pf0 (hEVTEN p) [v]) s = .next ((plain (s.noted pf0 p)).setReg (hEVTEN p) (v &&& evtMaskOf p)) ∧
      exec (.registerWrite pf0 (hEVT p) [v]) s = .next ((plain (s.noted pf0 p)).setReg (hEVT p) (s.reg (hEVT p) &&& ~~~v))) ∧
    (∀ who : Who, s.servedHdr who p = true →
      exec (.evtSet who page v) s =
        .next (((plain (s.noted who p)).setReg (hEVT p) (s.reg (hEVT p) ||| (v &&& evtMaskOf p))).told who))

/-- Reading a counter through PF0, in a block whose reads have no effect of their own, answers its value and clears its read-to-clear bits. Reading the low half of a pair answers it and keeps the high half for the read that follows, with no register changed. A write of the low half of DEV_BAR2_BASE is held and changes no register; the write of the high half makes both take effect, aligned to BAR2's size. A write that covers less than a dword is dropped, in D0 over a live link: below its limit PARTIAL_WR counts it and the event is raised; at its limit nothing changes. Where the spec is silent it takes the model's reading: log entries 44, 45. Its commands: REGISTER_WRITE, COUNTER_READ_CLEAR, BAR0_PARTIAL_WRITE, PAIR_LO_READ, PAIR_LO_WRITE. -/
def Obligations.CountersAndPairs : Prop :=
  (∀ (a : Nat) (r : PageRow) (i : Nat) (row : RegRow) (s : State),
      a % 4 = 0 → 0x40 ≤ a % 0x1000 → pageInfo (a / 0x1000) = some (r, i) → rowAt r.block (a % 0x1000) = some row →
      r.block ≠ .ic → r.block ≠ .csw → r.block ≠ .mtc → r.block ≠ .smb → r.block ≠ .poolt → s.served (.pcie 0) (a / 0x1000) = true →
      (row.pair = 0 → row.rc ≠ 0 →
        exec (.counterReadClear (.pcie 0) ⟨a, 4⟩) s =
          .next ((s.setReg a (s.reg a &&& ~~~BitVec.ofNat 32 row.rc)).emit (.readData (s.view a)))) ∧
      (row.pair = 1 →
        ∃ t, exec (.pairLoRead (.pcie 0) a) s = .next t ∧ t.outbox = s.outbox ++ [.readData (s.view a)] ∧ t.regs = s.regs ∧
          tabGet (fun _ => none) t.hiLatch (a + 4) = some (s.view (a + 4)))) ∧
  (∀ (lo hi : W32) (s : State), s.served (.pcie 0) pgDEV = true →
      (∃ t, exec (.pairLoWrite (.pcie 0) DEV_BAR2_BASE_LO lo) s = .next t ∧ t.regs = s.regs ∧ t.loOf DEV_BAR2_BASE_LO = some lo) ∧
      (s.loOf DEV_BAR2_BASE_LO = some lo →
        ∃ t, exec (.registerWrite (.pcie 0) DEV_BAR2_BASE_HI [hi]) s = .next t ∧ t.loOf DEV_BAR2_BASE_LO = none ∧
          t.pair DEV_BAR2_BASE_LO DEV_BAR2_BASE_HI = alignBase s.hif.bar2Log2 (lo.toNat + 2 ^ 32 * (hi.toNat % 2 ^ 16)))) ∧
  (∀ (fn : FnId) (off : Nat) (be : BitVec 4) (v : W32) (s : State), be ≠ 15 → s.clocked = true → s.hif.linkUp = true → s.d0 fn.val = true →
      let n := fld (s.reg DEV_ACC_ERR) 15 0
      (n < 65535 → exec (.bar0PartialWrite fn off be v) s = .next ((s.setReg DEV_ACC_ERR (setFld (s.reg DEV_ACC_ERR) 15 0 (n + 1))).event pgDEV 3)) ∧
      (n = 65535 → exec (.bar0PartialWrite fn off be v) s = .next s))

/-! Blocks, resets and the host link (R31, R36, R40, R43, R46, R47, R54 to R62, R301, R313, R319, R508 to R512, R533). -/

/-- Served writes of the CTL of a page. While the page resets, and where hardware does not run the block by CTL, they change nothing. Else BLOCK_ENABLE (EN = 1) of a block that is neither enabled nor active clears the drain mode and starts the block: EN is 1, but that a port is enabled as R454 says; of an enabled block it clears the drain mode; of one whose work still ends it is ignored. DRAIN and ABORT (EN = 0) of an enabled block stop it, to drain or to abort: drained, EN and the drain mode are 0 and a ring or a port is DRAINING; a drain becomes an abort; a stopped block keeps the drain mode written. SRST clears EN and DRAIN_MODE and raises RESET_BUSY; with none of the block's requests open the reset ends at once. BLOCK_DRAIN_DONE: a ring or a port that is DRAINING with nothing left of its work leaves that state, the port's link goes down, and the event of the end of the drain is set. BLOCK_RESET_REPLY_TIMEOUT, but on a core's page: the page is neither resetting nor draining. Where the spec is silent it takes the model's reading: log entry 66. Its commands: BLOCK_ENABLE, DRAIN, ABORT, BLOCK_DRAIN_DONE, SRST, BLOCK_RESET_REPLY_TIMEOUT. -/
def Obligations.Blocks : Prop :=
  (∀ (who : Who) (page : PageId) (s : State),
      let p := page.val
      let u := s.noted who p
      s.servedHdr who p = true →
      ((s.busy p = true ∨ (ctlMode p ≠ .host ∧ ctlMode p ≠ .hdg)) →
        exec (.blockEnable who page) s = .next (u.told who) ∧ exec (.drain who page) s = .next (u.told who) ∧
        exec (.abort who page) s = .next (u.told who) ∧ exec (.srst who page) s = .next (u.told who)) ∧
      (s.busy p = false → ctlMode p = .host ∨ ctlMode p = .hdg →
      (s.bit (hCTL p) 0 = true → exec (.blockEnable who page) s = .next ((u.setB (hCTL p) 1 false).told who)) ∧
      (s.bit (hCTL p) 0 = false → s.pageActive p = true →
        exec (.blockEnable who page) s = .next (u.told who) ∧ exec (.drain who page) s = .next (u.told who) ∧
        (s.bit (hCTL p) 1 = true → exec (.abort who page) s = .next (u.told who)) ∧
        (s.bit (hCTL p) 1 = false → exec (.abort who page) s = .next (((u.setB (hCTL p) 1 true).blockAbort p).told who))) ∧
      (s.bit (hCTL p) 0 = false → s.pageActive p = false →
        exec (.drain who page) s = .next ((u.setB (hCTL p) 1 false).told who) ∧
        exec (.abort who page) s = .next ((u.setB (hCTL p) 1 true).told who) ∧
        exec (.blockEnable who page) s = .next (((u.setB (hCTL p) 1 false).blockStart p).told who) ∧
        ((p < pgTPT 0 ∨ pgTPT 7 < p) → ∃ t, exec (.blockEnable who page) s = .next t ∧ t.bit (hCTL p) 0 = true ∧ t.bit (hCTL p) 1 = false)) ∧
      (s.bit (hCTL p) 0 = true →
        exec (.drain who page) s = .next ((u.blockStop p false).told who) ∧
        exec (.abort who page) s = .next ((u.blockStop p true).told who) ∧
        (drains p = true →
          ∃ t, exec (.drain who page) s = .next t ∧ t.bit (hCTL p) 0 = false ∧ t.bit (hCTL p) 1 = false ∧ t.inDrain p = true)) ∧
      (let w := ((u.setB (hCTL p) 0 false).setB (hCTL p) 1 false).setBusy p true
       (s.openRequests p = true → exec (.srst who page) s = .next (w.told who)) ∧
       (s.openRequests p = false → exec (.srst who page) s = .next ((w.resetFinish p).told who))))) ∧
  (∀ (page : PageId) (s : State),
      let p := page.val
      s.clocked = true →
      (∀ r : RingId, p = pgRING r.val → s.busy p = false → s.inDrain p = true → (s.ring r.val).descs = [] → (s.ring r.val).stream = none →
        exec (.blockDrainDone page) s = .next ((s.setDrain p false).event p 4)) ∧
      (∀ n : PortId, p = pgTPT n.val → s.busy p = false → s.inDrain p = true → (s.port n.val).queue = [] →
        exec (.blockDrainDone page) s = .next (((s.linkDown n.val).setDrain p false).event p 8)) ∧
      (s.busy p = true → (p < 0x200 ∨ 0x224 ≤ p) →
        ∃ t, exec (.blockResetReplyTimeout page) s = .next t ∧ t.busy p = false ∧ t.inDrain p = false))

/-- A served write of DEV_RST with its key asks for a warm reset with cause 4: from then on no block takes work, and no register and no memory has changed. A warm reset that is asked for is carried out with its cause while the synthesized clocks run. Where the spec is silent it takes the model's reading: log entry 65. Its commands: DEV_RST, WARM_RESET. -/
def Obligations.WarmResets : Prop :=
  (∀ (who : Who) (v : W32) (s : State), s.served who pgDEV = true → fld v 7 0 = 0xA5 → bitAt v 8 = true →
    ∃ t, exec (.devRst who v) s = .next t ∧ t.resetReq = some 4 ∧ t.clocked = false ∧ t.regs = s.regs ∧ t.hbm = s.hbm ∧ t.host = s.host) ∧
  (∀ (c : Nat) (s : State), s.resetReq = some c → s.running = true → exec .warmReset s = .next (s.warmReset c))

/-- What a warm reset keeps: the registers the tables mark, the contents of HBM and of host memory, the queue and the supply; every unit's work is gone, no page resets or drains, the link is down, and every other register reads its reset value (but that of a self-test it interrupts). Where the spec is silent it takes the model's reading: log entries 65, 70. -/
def Obligations.WarmClearKeeps : Prop :=
  ∀ s : State,
    (∀ a, (∀ h, a ≠ HDG_BIST h) → s.warmClear.reg a = if keptWarm a then s.reg a else regDefault a) ∧
    s.warmClear.hbm = s.hbm ∧ s.warmClear.host = s.host ∧ s.warmClear.pending = s.pending ∧ s.warmClear.power = s.power ∧
    s.warmClear.resetting = [] ∧ s.warmClear.draining = [] ∧ s.warmClear.rings = [] ∧ s.warmClear.chans = [] ∧ s.warmClear.pools = [] ∧
    s.warmClear.bufs = [] ∧ s.warmClear.sessions = [] ∧ s.warmClear.hedges = [] ∧ s.warmClear.pipes = [] ∧ s.warmClear.ports = [] ∧
    s.warmClear.hif.linkUp = false

/-- A link that goes down without PERST_N is lost; a link that is down trains again, with PERST_N high, in a module whose blocks take work, where some lane works, on PLL_B only with a partner that has SRIS. PERST_N low resets what PERST_SCOPE selects while the clocks run; with scope 1 the host interface alone: the link is down, no function and no VF is left, and the event is set. A hot reset over a live link does the same. PERST_N going high starts the time until configuration space is ready, and lets PLL_A lock and the link train. Where the spec is silent it takes the model's reading: log entries 75, 77. Its commands: PERST_N_ASSERT, PCIE_HOT_RESET, PERST_N_DEASSERT, HOST_LINK_DOWN, HOST_LINK_RESTORED. -/
def Obligations.HostLink : Prop :=
  (∀ s : State, s.clocked = true →
      exec .hostLinkDown s = .next s.hostLost ∧
      (s.hif.linkUp = false → s.power.perst = false → s.hif.width ≠ 0 → (s.clock.st ≠ .onB ∨ s.hif.partnerSris = true) →
        ∃ t, exec .hostLinkRestored s = .next t ∧ t.hif.linkUp = true ∧ t.power = s.power ∧ t.sessions = s.sessions ∧
          t.reg DEV_LINK = BitVec.ofNat 32 (s.hif.gen ||| s.hif.width <<< 4 ||| b2n (s.clock.st == .onB) <<< 9 ||| 1 <<< 10))) ∧
  (∀ s : State,
      (s.power.perst = false →
        exec .perstNAssert s = .next ({ s with power := { s.power with perst := true } }.scopeReset 2) ∧
        (s.running = true → s.resetReq = none → s.hostOnly = true →
          ∃ t, exec .perstNAssert s = .next t ∧ t.hif.linkUp = false ∧ t.hif.funcs = [] ∧ t.hif.vfEnable = false ∧ t.bit (hEVT pgRST) 0 = true)) ∧
      (s.running = true → s.hif.linkUp = true →
        exec .pcieHotReset s = .next (s.scopeReset 3) ∧
        (s.resetReq = none → s.hostOnly = true →
          ∃ t, exec .pcieHotReset s = .next t ∧ t.hif.linkUp = false ∧ t.hif.funcs = [] ∧ t.hif.vfEnable = false ∧ t.bit (hEVT pgRST) 0 = true)) ∧
      (s.power.perst = true → exec .perstNDeassert s = .next ({ s.configWait with power := { s.configWait.power with perst := false } }.lockA.hostTrain)))

/-- Configuration writes of a function that exists, over a live link with configuration space ready: its power state, its bus mastering, MSI-X, the VFs that exist, the size of BAR2; and the reset of a VF, which ends its bus mastering and sets the event. Before configuration space is ready each of them has the Retry Status. A served write of DEV_PTM_CTL.REQ, with no dialogue running, starts one that keeps the media time of the request; its end without an answer clears VALID, with one it sets VALID, the latched media time, and the master time of the answer; both set the event. Where the spec is silent it takes the model's reading: log entries 75, 76. Its commands: FLR, POWER_STATE_CHANGE, BUS_MASTER_ENABLE_CHANGE, VF_DISABLE, BAR2_RESIZE, MSIX_CONTROL_WRITE, PTM_REQUEST, PTM_DONE. -/
def Obligations.FunctionConfiguration : Prop :=
  (∀ s : State, s.clocked = true → s.hif.linkUp = true → s.hif.readyIn = 0 →
      (∀ (fn : FnId) (d3 pmeEn clearPme : Bool), s.fnExists fn.val = true →
        exec (.powerStateChange fn d3 pmeEn clearPme) s = .next (s.powerState fn.val d3 pmeEn clearPme) ∧
        ((s.fn fn.val).d3 = false ∨ d3 = true →
          ∃ t, exec (.powerStateChange fn d3 pmeEn clearPme) s = .next t ∧ (t.fn fn.val).d3 = d3 ∧ (t.fn fn.val).pmeEn = pmeEn)) ∧
      (∀ (fn : FnId) (on : Bool), s.fnExists fn.val = true →
        exec (.busMasterEnableChange fn on) s = .next ((s.setFn fn.val { s.fn fn.val with bme := on }).icEval fn.val)) ∧
      (∀ (fn : FnId), s.fnExists fn.val = true →
        (∀ b, exec (.msixControlWrite fn (.enable b)) s = .next ((s.setFn fn.val { s.fn fn.val with msixEn := b }).icEval fn.val)) ∧
        (∀ b, exec (.msixControlWrite fn (.functionMask b)) s = .next ((s.setFn fn.val { s.fn fn.val with funcMask := b }).icEval fn.val)) ∧
        (∀ off v, s.d0 fn.val = true →
          exec (.msixControlWrite fn (.table off v)) s = .next ((s.setFn fn.val ((s.fn fn.val).tableWrite off v)).icEval fn.val))) ∧
      (∀ (en ari : Bool) (n : FnId),
        ∃ t, exec (.vfDisable en ari n) s = .next t ∧ t.hif.vfEnable = en ∧ t.hif.ari = ari ∧ t.hif.numVFs = n.val ∧ t.hif.linkUp = true) ∧
      (∀ l : Nat, 30 ≤ l → l ≤ 38 →
        ∃ t, exec (.bar2Resize l) s = .next t ∧ t.hif.bar2Log2 = l ∧
          t.pair DEV_BAR2_BASE_LO DEV_BAR2_BASE_HI = alignBase l (s.pair DEV_BAR2_BASE_LO DEV_BAR2_BASE_HI)) ∧
      (∀ fn : FnId, s.vfExists fn.val = true →
        ∃ t, exec (.flr fn) s = .next t ∧ t.bit (hEVT pgRST) 1 = true ∧ (t.fn fn.val).bme = false ∧ (t.fn fn.val).pmeStatus = false)) ∧
  (∀ s : State, s.clocked = true → s.hif.linkUp = true → s.hif.readyIn ≠ 0 →
      (∀ (fn : FnId) (d3 pmeEn clearPme : Bool), s.fnExists fn.val = true →
        exec (.powerStateChange fn d3 pmeEn clearPme) s = .next (s.emit (.configRetry fn.val))) ∧
      (∀ (fn : FnId) (on : Bool), s.fnExists fn.val = true → exec (.busMasterEnableChange fn on) s = .next (s.emit (.configRetry fn.val))) ∧
      (∀ (en ari : Bool) (n : FnId), exec (.vfDisable en ari n) s = .next (s.emit (.configRetry 0))) ∧
      (∀ fn : FnId, s.vfExists fn.val = true → exec (.flr fn) s = .next (s.emit (.configRetry fn.val)))) ∧
  (∀ s : State,
      (∀ who : Who, s.served who pgDEV = true → s.bit DEV_PTM_CTL 0 = false →
        ∃ t, exec (.ptmRequest who) s = .next t ∧ t.hif.ptm = some s.mtc.time ∧ t.bit DEV_PTM_CTL 0 = true) ∧
      (∀ time, s.clocked = true → s.hif.ptm = some time →
        (∃ t, exec (.ptmDone none) s = .next t ∧ t.hif.ptm = none ∧ t.bit DEV_PTM_CTL 0 = false ∧ t.bit DEV_PTM_CTL 1 = false ∧ t.bit (hEVT pgDEV) 1 = true) ∧
        (∀ m : PtmAnswer, ∃ t, exec (.ptmDone (some m)) s = .next t ∧ t.hif.ptm = none ∧ t.bit DEV_PTM_CTL 0 = false ∧ t.bit DEV_PTM_CTL 1 = true ∧
          t.pair DEV_PTM_ROOT_LO DEV_PTM_ROOT_HI = (m.t2 - (m.round - (m.t3 - m.t2)) / 2).toNat ∧ t.reg DEV_PTM_MTC_NS = time.ns ∧
          t.pair DEV_PTM_MTC_SEC_LO DEV_PTM_MTC_SEC_HI = time.sec.toNat ∧ t.bit (hEVT pgDEV) 1 = true)))

/-- Accesses through BAR2 of a function in D0 over a live link, inside its window: a read answers the bytes of HBM from the window's base, 0 beyond HBM's end; a write is one of the bytes from there on. Where the spec is silent it takes the model's reading: log entries 3, 76. Its commands: BAR2_ACCESS. -/
def Obligations.Bar2Accesses : Prop :=
  ∀ (fn : FnId) (off : Nat) (b z : Nat) (s : State), s.clocked = true → s.hif.linkUp = true → s.d0 fn.val = true → s.bar2Window fn.val = some (b, z) →
    (∀ len, off + len ≤ z →
      ∃ t bs p, exec (.bar2Access fn off len none) s = .next t ∧ t.outbox.getLast? = some (.bar2Data bs p) ∧ bs.length = len ∧
        ∀ k, k < len → bs.getD k 0 = if b + off + k < s.hbmSize then s.hbmByte (b + off + k) else 0) ∧
    (∀ len bs, off + bs.length ≤ z → exec (.bar2Access fn off len (some bs)) s = .next (s.bar2Write (b + off) bs))

/-! Rings and jobs (R39, R244, R248, R254 to R264, R276, R283, R284, R297, R314, R587). -/

/-- RING_TAIL takes the low LOG2_SIZE bits of what is written. RING_CBUF_RD takes a value inside the buffer that is not beyond what has been written; any other is ignored. OWNER of an idle ring changes through PF0 or from an agent, to a function with fewer than eight rings: the ring's moderation is cleared. A VF's write is ignored, and so is one while the ring's EN is 1. Its commands: RING_DOORBELL, RING_OWNER_CHANGE, CBUF_RD_WRITE. -/
def Obligations.RingRegisters : Prop :=
  (∀ (who : Who) (r : RingId) (v : W32) (s : State), s.served who (pgRING r.val) = true →
      exec (.ringDoorbell who r v) s = .next ((s.setReg (RING_TAIL r.val) (BitVec.ofNat 32 (fld v 15 0 % s.ringSize r.val))).told who) ∧
      ∃ t, exec (.ringDoorbell who r v) s = .next t ∧ t.ringTail r.val = (v.toNat % 65536) % 2 ^ s.f (RING_CFG r.val) 8 4) ∧
  (∀ (who : Who) (r : RingId) (v : W32) (s : State), s.served who (pgRING r.val) = true →
      let z := s.cbufSize r.val
      let here := (v.toNat + z - s.cbufRd r.val % z) % z ≤ (s.cbufWr r.val + z - s.cbufRd r.val % z) % z
      (v.toNat < z → here → exec (.cbufRdWrite who r v) s = .next ((s.setReg (RING_CBUF_RD r.val) v).told who)) ∧
      ((z ≤ v.toNat ∨ ¬ here) → exec (.cbufRdWrite who r v) s = .next (s.told who))) ∧
  (∀ (who : Who) (r : RingId) (o : FnId) (s : State), s.served who (pgRING r.val) = true →
      s.pageActive (pgRING r.val) = false →
      (∀ k : FnId, who = .pcie k → k.val ≠ 0 → exec (.ringOwnerChange who r o) s = .next (s.noted who (pgRING r.val))) ∧
      (s.bit (hCTL (pgRING r.val)) 0 = true → exec (.ringOwnerChange who r o) s = .next ((s.noted who (pgRING r.val)).told who)) ∧
      (s.bit (hCTL (pgRING r.val)) 0 = false → (∀ k : FnId, who = .pcie k → k.val = 0) → s.owner r.val ≠ o.val →
        (o.val = 0 ∨ (s.ringsOf o.val).length < 8) →
        ∃ t, exec (.ringOwnerChange who r o) s = .next t ∧ t.owner r.val = o.val ∧ (t.ring r.val).modFired = false ∧ (t.ring r.val).modC = 0))

/-- In its service class's turn a DMA ring's next entry starts when it can be fetched, and a started descriptor moves its data, or meets an error that fits it: where it waits for no response it fails with that error's code, else it keeps the first such code. An unordered descriptor that the checks of R289 refuse ends without having started, with its error; one that passes has started and waits for its end. A fetch that fails: an entry whose address the state itself refuses, or one from host memory for which the sender reports an error, ends BAD. Where the spec is silent it takes the model's reading: log entries 61, 62, 63, 124. Its commands: RING_ENTRY_FETCH_FAIL, DMA_DESCRIPTOR_START, DESCRIPTOR_TRANSFER_ERROR, DESCRIPTOR_END. -/
def Obligations.Descriptors : Prop :=
  (∀ (r : RingId) (s : State),
      (∀ b, s.mayFetch r.val = true → s.ringKind r.val = 0 → s.classTurn r.val = true → s.fetchEntry r.val (s.fetchIndex r.val) = .ok b →
        exec (.dmaDescriptorStart r) s = .next (s.descStart r.val b)) ∧
      (∀ i d, s.clocked = true → s.descAt r.val i = some d → d.started = true →
        (s.classTurn r.val = true → exec (.descriptorEnd r i) s = .next (s.descStep r.val d)) ∧
        (∀ e, s.errFits r.val d e = true → d.xfer.waits = 0 →
          exec (.descriptorTransferError r i e) s = .next (s.descFail r.val d (xferErrCode e))) ∧
        (∀ e, s.errFits r.val d e = true → d.xfer.waits ≠ 0 → d.xfer.err = 0 →
          exec (.descriptorTransferError r i e) s = .next (s.setDesc r.val { d with xfer := { d.xfer with err := xferErrCode e } })))) ∧
  (∀ (r : RingId) (b : List Byte) (s : State), s.mayFetch r.val = true → s.ringKind r.val = 0 → s.classTurn r.val = true → s.ringLocal r.val = false →
      s.fetchEntry r.val (s.fetchIndex r.val) = .ok b →
      let d : Desc := { index := s.fetchIndex r.val, bytes := b }
      d.dctl.order = false →
      (s.descCheck (s.owner r.val) d = 0 →
        exec (.dmaDescriptorStart r) s =
          .next (s.setRing r.val { s.ring r.val with descs := (s.ring r.val).descs ++ [{ d with started := true }] })) ∧
      (s.descCheck (s.owner r.val) d ≠ 0 →
        exec (.dmaDescriptorStart r) s =
          .next ((s.setRing r.val { s.ring r.val with descs := (s.ring r.val).descs ++ [d] }).descEnd r.val d 1 (s.descCheck (s.owner r.val) d)))) ∧
  (∀ (r : RingId) (err : Fin 16) (e : Nat) (s : State), s.mayFetch r.val = true →
      s.fetchErr r.val (s.fetchIndex r.val) err.val = some e → exec (.ringEntryFetchFail r err) s = .next (s.fetchFail r.val e))

/-- NOP completes with code 0. FENCE makes its ring wait; when no other of the ring's jobs is open and no record is held, the fence completes, after its value is written where it asks for that. A SESSION_OPEN, SESSION_CLOSE, ENCODE_PICTURE, DECODE_UNIT, FLIP, NOP or FENCE job that fails a check of R248 is fetched and completes with that check's code; a job of an undefined type completes with 0x20. Its commands: JOB_BAD_TYPE, SESSION_OPEN, SESSION_CLOSE_FINISH, SESSION_CLOSE_ABORT, ENCODE_PICTURE, DECODE_UNIT, FLIP, NOP, FENCE, FENCE_COMPLETE. -/
def Obligations.NopFenceAndRefusals : Prop :=
  (∀ (r : RingId) (b : List Byte) (s : State),
      (s.jobDue r.val 9 b → exec (.nop r) s = .next ((s.jobTaken r.val b).finishJob (jobRefOf r.val b) 0 [] 0)) ∧
      (s.jobDue r.val 10 b →
        ∃ t, exec (.fence r) s = .next t ∧ t.nextJob r.val = none ∧
          (t.ring r.val).fenceWait =
            some (jobRefOf r.val b, bitIn b 0x10 0, bitIn b 0x10 1, BitVec.ofNat 64 (leAt b 0x18 8), BitVec.ofNat 64 (leAt b 0x20 8))) ∧
      (∀ j loc a v, s.clocked = true → (s.ring r.val).fenceWait = some (j, false, loc, a, v) → (s.ring r.val).openJobs = [j] → (s.ring r.val).held = [] →
        exec (.fenceComplete r) s = .next ((s.setRing r.val { s.ring r.val with fenceWait := none }).finishJob j 0 [(0x08, leBytes 8 0)] 0)) ∧
      (∀ j loc a v, s.clocked = true → (s.ring r.val).fenceWait = some (j, true, loc, a, v) → (s.ring r.val).openJobs = [j] → (s.ring r.val).held = [] →
        (loc = true ∨ s.d0 (s.owner r.val) = true) →
        let x := s.fenceWrite r.val loc a.toNat v.toNat
        exec (.fenceComplete r) s =
          .next ((x.1.setRing r.val { x.1.ring r.val with fenceWait := none }).finishJob j 0 [(0x08, leBytes 8 (if x.2 == 0 then v.toNat else 0))] x.2))) ∧
  (∀ (r : RingId) (b : List Byte) (s : State), s.nextJob r.val = some b →
      let j := jobRefOf r.val b
      let typ := leAt b 0 1
      let t := (s.takeJob r.val j).finishJob j 0 [] (s.jobCheck r.val b)
      ((typ = 0 ∨ 10 < typ) → exec (.jobBadType r) s = .next ((s.takeJob r.val j).finishJob j 0 [] 0x20)) ∧
      (s.jobCheck r.val b ≠ 0 →
        (typ = 1 → s.jobHostWaits r.val (leAt b 0x18 1 == 0) = false → exec (.sessionOpen r) s = .next t) ∧
        (typ = 2 → leAt b 0x10 1 = 0 → exec (.sessionCloseFinish r) s = .next t) ∧
        (typ = 2 → leAt b 0x10 1 ≠ 0 → exec (.sessionCloseAbort r) s = .next t) ∧
        (typ = 3 → exec (.encodePicture r) s = .next t) ∧ (typ = 4 → exec (.decodeUnit r) s = .next t) ∧
        (typ = 6 → exec (.flip r) s = .next t) ∧ (typ = 9 → exec (.nop r) s = .next t) ∧ (typ = 10 → exec (.fence r) s = .next t)))

/-- A job whose record goes to host memory through a function in D0 with bus mastering, over a live link, to an aligned address, its body in bytes 0x8 to 0x37: the 64 bytes of the record lie there, the last dword with bit 31, PHASE 0 and the code, and no other byte of host memory and no byte of HBM has changed. -/
def Obligations.RecordInHostMemory : Prop :=
  ∀ (j : JobRef) (flags : Nat) (body : List (Nat × List Byte)) (code : Nat) (s : State),
    j.statusLocal = false → j.statusAddr.toNat % 64 = 0 → s.hif.linkUp = true → (s.fn (s.owner j.ring)).bme = true → s.d0 (s.owner j.ring) = true →
    (∀ e ∈ body, e.1 + e.2.length ≤ 0x38) →
    let a := j.statusAddr.toNat
    let t := s.finishJob j flags body code
    t.hostBytes a 64 = s.recordBytes j.tag j.typ (if jobNamesSess j.typ then j.sess else 0) flags body false code ∧
    t.hostBytes (a + 0x3C) 4 = leBytes 4 (2 ^ 31 ||| code) ∧
    (∀ x, (x < a ∨ a + 64 ≤ x) → t.hostByte x = s.hostByte x) ∧ t.hbm = s.hbm

/-- SESSION_OPEN: a descriptor that cannot be read, or that a check of R254 refuses, completes with the code; one that passes opens the session, with its descriptor and its ring's function, and completes. SESSION_CLOSE puts the session into closing with the job that closes it; with ABORT its unstarted work ends too. A closing session with nothing left is closed. Where the spec is silent it takes the model's reading: log entry 80. Its commands: SESSION_OPEN, SESSION_CLOSE_FINISH, SESSION_CLOSE_ABORT, SESSION_CLOSE_COMPLETE. -/
def Obligations.SessionJobs : Prop :=
  (∀ (r : RingId) (b : List Byte) (s : State), s.jobDue r.val 1 b → s.jobHostWaits r.val (leAt b 0x18 1 == 0) = false →
      let j := jobRefOf r.val b
      let u := s.jobTaken r.val b
      let x := u.jobRead r.val (leAt b 0x18 1 == 1) (leAt b 0x10 8) 256
      let u1 := u.jobReadCount (leAt b 0x18 1 == 1) (leAt b 0x10 8) 256
      (x.1 ≠ 0 → exec (.sessionOpen r) s = .next (u1.finishJob j 0 (u1.openBody j.sess false 0xFFFF) x.1)) ∧
      (∀ code field, x.1 = 0 → u1.openCheck j.sess (u1.owner r.val) x.2 = .inr (code, field) →
        exec (.sessionOpen r) s = .next (u1.finishJob j 0 (u1.openBody j.sess false field) code)) ∧
      (∀ t, x.1 = 0 → u1.openCheck j.sess (u1.owner r.val) x.2 = .inl t →
        exec (.sessionOpen r) s = .next ((t.openDone j.sess).finishJob j 0 ((t.openDone j.sess).openBody j.sess true 0xFFFF) 0) ∧
        (t.sess j.sess).phase = .opened ∧ (t.sess j.sess).desc = x.2 ∧ (t.sess j.sess).fn = u1.owner r.val)) ∧
  ((∀ (r : RingId) (b : List Byte) (s : State), s.jobDue r.val 2 b →
      (leAt b 0x10 1 = 0 →
        ∃ t, exec (.sessionCloseFinish r) s = .next t ∧ (t.sess (leAt b 2 1)).phase = .closing ∧ (t.sess (leAt b 2 1)).closeJob = some (jobRefOf r.val b)) ∧
      (leAt b 0x10 1 ≠ 0 →
        exec (.sessionCloseAbort r) s = .next (((s.jobTaken r.val b).closeBegin (leAt b 2 1) (jobRefOf r.val b)).closeAbort (leAt b 2 1)))) ∧
    (∀ (n : SessId) (s : State), s.clocked = true → (s.sess n.val).closeReady = true → exec (.sessionCloseComplete n) s = .next (s.closeDone n.val)))

/-! Buffer pools (R22, R331 to R345). -/

/-- ALLOC by an agent: with a buffer free beyond those owed to waiters, the next free one, its state record readable, becomes live and its handle is the answer; with none, the answer is NONE and it is counted, or a blocking request joins the waiters. Its commands: ALLOC. -/
def Obligations.Allocations : Prop :=
  ∀ (a : Nat) (pool : PoolId) (n : Nat) (s : State),
    let p := pool.val
    s.clocked = true → s.busy pgPOOL = false → s.poolEn p = true → (s.poolNamed p = true ∨ n ≤ 255) →
    (∀ i, i < 2 ^ 20 → (s.pool p).waiters.length < s.poolFree p → nextFree s p ((s.pool p).gone + 1) (s.pool p).nextNew = some i → s.recPoisoned p i = false →
      ∃ t, exec (.alloc (.agent a) pool n false) s = .next t ∧ exec (.alloc (.agent a) pool n true) s = .next t ∧
        (t.buf (bufKey p i)).live = true ∧ (t.buf (bufKey p i)).producer = some a ∧ t.outbox = s.outbox ++ [.poolHandle a (s.bufHandle p i)] ∧
        (t.pool p).live = (s.pool p).live + 1 ∧ ∀ k, k ≠ bufKey p i → t.buf k = s.buf k) ∧
    (s.poolFree p ≤ (s.pool p).waiters.length →
      exec (.alloc (.agent a) pool n false) s = .next ((s.poolNone p).emit (.poolNone a)) ∧
      ((s.pool p).waiters.length < 64 →
        exec (.alloc (.agent a) pool n true) s =
          .next (s.setPool p { s.pool p with waiters := (s.pool p).waiters ++ [{ agent := a, count := n }] })))

/-- ADDREF and RELEASE by an agent on a live handle whose state record is readable: the count goes up by one, or down by one; a SHARED buffer whose last reference goes, without a subscriber, is freed and its generation advances. No other buffer changes. TRANSFER and FREE by the owner of a NAMED buffer that is not pending: it changes its owner, a core's hedge standing for the core (log entry 95); a buffer nobody borrows is freed, a borrowed one becomes FREE_PENDING without an owner. A TRANSFER of a SHARED reference keeps the count. Its commands: ADDREF, RELEASE, TRANSFER, FREE. -/
def Obligations.ReferencesAndOwnership : Prop :=
  (∀ (a : Nat) (h : W32) (s : State),
      s.clocked = true → s.busy pgPOOL = false → s.handleErr h = none → s.recPoisoned (hPool h) (hIndex h) = false →
      ((s.hbuf h).count ≠ 255 →
        ∃ t, exec (.addref (.agent a) h) s = .next t ∧ (t.hbuf h).count = (s.hbuf h).count + 1 ∧ t.outbox = s.outbox ++ [.poolHandle a h] ∧
          ∀ k, k ≠ bufKey (hPool h) (hIndex h) → t.buf k = s.buf k) ∧
      (1 < (s.hbuf h).count →
        ∃ t, exec (.release (.agent a) h) s = .next t ∧ (t.hbuf h).count = (s.hbuf h).count - 1 ∧ t.outbox = s.outbox ++ [.poolHandle a h] ∧
          t.regs = s.regs ∧ ∀ k, k ≠ bufKey (hPool h) (hIndex h) → t.buf k = s.buf k) ∧
      ((s.hbuf h).count = 1 → s.poolNamed (hPool h) = false → (s.hbuf h).subs = [] →
        ∃ t, exec (.release (.agent a) h) s = .next t ∧ (t.hbuf h).live = false ∧ (t.hbuf h).frees = (s.hbuf h).frees + 1 ∧
          hIndex h ∈ (t.pool (hPool h)).freed ∧ ∀ k, k ≠ bufKey (hPool h) (hIndex h) → t.buf k = s.buf k)) ∧
  (∀ (a dst : Nat) (h : W32) (s : State),
      s.clocked = true → s.busy pgPOOL = false → s.handleErr h = none → s.recPoisoned (hPool h) (hIndex h) = false →
      (s.poolNamed (hPool h) = true → (s.hbuf h).owner = a → (s.hbuf h).freePending = false →
        (∃ t, exec (.transfer (.agent a) h dst) s = .next t ∧ (t.hbuf h).owner = ownerOf dst ∧ (t.hbuf h).count = (s.hbuf h).count ∧ t.regs = s.regs) ∧
        ((s.hbuf h).count = 0 → (s.hbuf h).subs = [] →
          ∃ t, exec (.free (.agent a) h) s = .next t ∧ (t.hbuf h).live = false ∧ (t.hbuf h).frees = (s.hbuf h).frees + 1) ∧
        ((s.hbuf h).count ≠ 0 →
          ∃ t, exec (.free (.agent a) h) s = .next t ∧ (t.hbuf h).freePending = true ∧ (t.hbuf h).owner = 255 ∧ (t.hbuf h).live = (s.hbuf h).live)) ∧
      (s.poolNamed (hPool h) = false →
        ∃ t, exec (.transfer (.agent a) h dst) s = .next t ∧ (t.hbuf h).count = (s.hbuf h).count ∧ t.outbox = s.outbox ++ [.poolHandle a h]))

/-- A POOL_OP job of a pool manager that is not resetting acts as its ring's function's agent, by the job's own fields: ALLOC, ADDREF, RELEASE, TRANSFER and FREE complete with their answer in the record, a blocking ALLOC that must wait without one; RECLAIM_BY_OWNER starts its scan, which completes the job. Where the spec is silent it takes the model's reading: log entry 18. Its commands: ALLOC, ADDREF, RELEASE, TRANSFER, FREE, RECLAIM_BY_OWNER. -/
def Obligations.PoolJobs : Prop :=
  ∀ (r : RingId) (b : List Byte) (s : State), s.jobDue r.val 8 b → s.busy pgPOOL = false →
    let j := jobRefOf r.val b
    let u := s.jobTaken r.val b
    let a := u.ringAgent r.val
    let h := BitVec.ofNat 32 (leAt b 0x14 4)
    let op := leAt b 0x10 1
    let fin (x : State × PoolRes) : State := match x.2 with
      | .ok _ c => x.1.poolFinish j h (.ok h c)
      | e => x.1.poolFinish j h e
    (op = 0 → bitIn b 0x12 0 = false → ∀ (pool : PoolId) (n : Nat) (bl : Bool),
      let x := u.poolAlloc a (leAt b 0x11 1) (u.allocHolds (leAt b 0x11 1) a (leAt b 0x13 1))
      exec (.alloc (.job r) pool n bl) s = .next (x.1.poolFinish j 0 x.2)) ∧
    (op = 0 → bitIn b 0x12 0 = true → ∀ (pool : PoolId) (n : Nat) (bl : Bool),
      let y := u.poolBlocking { agent := a, count := leAt b 0x13 1, job := some j } (leAt b 0x11 1)
      (y.2 = none → exec (.alloc (.job r) pool n bl) s = .next y.1) ∧
      (∀ x, y.2 = some x → exec (.alloc (.job r) pool n bl) s = .next (y.1.poolFinish j 0 x))) ∧
    (op = 1 → ∀ h', exec (.addref (.job r) h') s = .next (fin (u.poolAddref a h))) ∧
    (op = 2 → ∀ h', exec (.release (.job r) h') s = .next (fin (u.poolRelease a h))) ∧
    (op = 3 → ∀ h' d, exec (.transfer (.job r) h' d) s = .next (fin (u.poolTransfer a h (leAt b 0x18 1)))) ∧
    (op = 4 → ∀ h', exec (.free (.job r) h') s = .next (fin (u.poolFreeOp a h))) ∧
    (op = 5 → ∀ (pool : PoolId) (v : Nat),
      exec (.reclaimByOwner (.job r) pool v) s = .next (u.scanStart a (leAt b 0x11 1) (leAt b 0x18 1) (some j)))

/-- A reclaim scan of an enabled pool with none running starts; at its end every reference of the agent is gone by the reclaim rule, the scan is over and its event is set. The oldest waiter, an agent, gets the next free buffer, its state record readable, and leaves the list. Where the spec is silent it takes the model's reading: log entry 18. Its commands: RECLAIM_BY_OWNER, RECLAIM_DONE, POOL_WAITER_SERVED. -/
def Obligations.ReclaimsAndWaiters : Prop :=
  (∀ (a v : Nat) (pool : PoolId) (s : State),
      let p := pool.val
      s.clocked = true → s.busy pgPOOL = false →
      (s.poolOn p = true → (s.pool p).scan = none →
        exec (.reclaimByOwner (.agent a) pool v) s = .next (s.setPool p { s.pool p with scan := some (v, none, 0) })) ∧
      (∀ k, (s.pool p).scan = some (v, none, k) →
        let x := s.reclaimKeys v (!s.poolNamed p) (s.bufKeys.filter fun k => k / 2 ^ 20 == p)
        exec (.reclaimDone pool) s = .next ((x.1.setPool p { x.1.pool p with scan := none }).event pgPOOL 6))) ∧
  (∀ (pool : PoolId) (w : Waiter) (ws : List Waiter) (i : Nat) (s : State),
      let p := pool.val
      s.clocked = true → s.busy pgPOOL = false → (s.pool p).waiters = w :: ws → w.job = none → w.sess = none →
      nextFree s p ((s.pool p).gone + 1) (s.pool p).nextNew = some i → s.recPoisoned p i = false →
      ∃ t, exec (.poolWaiterServed pool) s = .next t ∧ (t.pool p).waiters = ws ∧ (t.buf (bufKey p i)).live = true ∧
        t.outbox = s.outbox ++ [.poolHandle w.agent (s.bufHandle p i)])

/-- An idle pool whose configuration passes the checks is enabled at its next generation, with nothing allocated; one that fails is not, and the event is set. A running pool without waiters drains: it is IDLE at once where nothing is allocated, and its buffers stay; a running pool is aborted. The producer of a live frame buffer advances its lines, never back, and completes it; subscribers whose lines are there are woken. Its commands: POOL_ENABLE, POOL_DRAIN, POOL_ABORT, LINES_DONE_ADVANCE. -/
def Obligations.PoolsEnableAndLines : Prop :=
  (∀ (who : Who) (pool : PoolId) (s : State),
      let p := pool.val
      s.served who (poolPage p) = true →
      (s.poolEn p = false → s.poolActive p = false → s.poolCheck p = 0 →
        ∃ t, exec (.poolEnable who pool) s = .next t ∧ t.poolEn p = true ∧ (t.pool p).startGen = s.f (POOL_GEN p) 5 0 ∧
          t.f (POOL_GEN p) 5 0 = genNext (s.f (POOL_GEN p) 5 0) ∧ (t.pool p).live = 0) ∧
      (s.poolEn p = false → s.poolActive p = false → s.poolCheck p ≠ 0 →
        ∃ t, exec (.poolEnable who pool) s = .next t ∧ t.poolEn p = false ∧ t.bit (hEVT pgPOOL) 4 = true) ∧
      (s.poolEn p = true → (s.pool p).waiters = [] →
        ∃ t, exec (.poolDrain who pool) s = .next t ∧ t.poolEn p = false ∧
          (t.pool p).draining = decide (0 < (s.pool p).live) ∧ (t.pool p).live = (s.pool p).live ∧ t.bufs = s.bufs) ∧
      (s.poolEn p = true →
        exec (.poolAbort who pool) s = .next ((((s.noted who (poolPage p)).setB (POOL_CFG p) 1 true).poolStopAbort p).told who))) ∧
  (∀ (a : Nat) (h : W32) (lines : Nat) (done : Bool) (s : State),
      s.clocked = true → s.busy pgPOOL = false → s.handleErr h = none → s.recPoisoned (hPool h) (hIndex h) = false →
      s.poolFrame (hPool h) = true → (s.hbuf h).producer = some a →
      ∃ t, exec (.linesDoneAdvance a h lines done) s = .next t ∧ (t.hbuf h).linesDone = max (s.hbuf h).linesDone lines ∧
        (t.hbuf h).complete = ((s.hbuf h).complete || done) ∧
        (t.hbuf h).subs = (s.hbuf h).subs.filter (fun x => !(decide (x.2 < max (s.hbuf h).linesDone lines) || done)) ∧ t.regs = s.regs)

/-! Encoding, slices and hedges (R77 to R99, R106, R120 to R125, R144 to R171, R256, R257, R298). -/

/-- ENCODE_PICTURE: its kind must be the session's source, and no hedge of the session may be off; a bound session takes the picture's settings for its next picture, a HOST picture joins the pictures with a reference of the session's own on its source. The pictures of an encode session as they run: the oldest that has not started, and may, starts by allocating its buffers; the figures of a prepass are kept while the picture has not started; a job becomes ready when the source rows of its last CTU row are there, whether with the records it inherits or without them at its latest start. Where the spec is silent it takes the model's reading: log entries 78, 109. Its commands: ENCODE_PICTURE, PICTURE_START, PREPASS, SLICE_JOB_READY, INHERIT_LATEST_START. -/
def Obligations.Encoding : Prop :=
  (∀ (r : RingId) (b : List Byte) (s : State), s.jobDue r.val 3 b →
      let j := jobRefOf r.val b
      let u := s.jobTaken r.val b
      let n := leAt b 2 1
      let x := u.sess n
      let bound := encBound x.desc
      let h := BitVec.ofNat 32 (leAt b 0x10 4)
      (bitIn b 0x14 0 = bound → exec (.encodePicture r) s = .next (u.finishJob j 0 [] 0x25)) ∧
      (bitIn b 0x14 0 ≠ bound → u.hedgeOff n = true → exec (.encodePicture r) s = .next (u.finishJob j 0 [] 0x2D)) ∧
      (bitIn b 0x14 0 ≠ bound → u.hedgeOff n = false →
        (bound = true →
          ∃ t, exec (.encodePicture r) s = .next t ∧ (t.sess n).pendingJobs = x.pendingJobs ++ [j] ∧
            (t.sess n).forceKey = (x.forceKey || bitIn b 0x14 1) ∧ (t.sess n).pics = x.pics) ∧
        (bound = false → ∀ c, (u.poolAddref (u.sessAgent n) h).2 = .err c →
          exec (.encodePicture r) s = .next ((u.poolAddref (u.sessAgent n) h).1.finishJob j 0 [(0x36, leBytes 1 c)] 0x38)) ∧
        (bound = false → ∀ g k, (u.poolAddref (u.sessAgent n) h).2 = .ok g k →
          ∃ t p, exec (.encodePicture r) s = .next t ∧ (t.sess n).pics = x.pics ++ [p] ∧ (t.sess n).picCount = x.picCount + 1 ∧
            p.idx = x.picCount ∧ p.src = h ∧ p.jobRefs = [j] ∧ p.started = false))) ∧
  (∀ (n : SessId) (s : State),
      let u := s.ladderTake n.val
      let x := u.sess n.val
      ∀ p, s.clocked = true → x.phase ≠ .closed → hasEnc x.desc = true → u.hedgeOff n.val = false → x.pics.find? (fun p => !p.started) = some p →
        p.waiting = none → x.mayStart p = true → u.espOf n.val = none →
        exec (.pictureStart n) s = .next ((u.modSess n.val Sess.older).picAlloc n.val p)) ∧
  (∀ (n : SessId) (pic : Nat) (as : List Nat) (cs : List (Nat × Nat)) (vs : List Mv) (s : State), s.clocked = true → (s.sess n.val).phase ≠ .closed →
      hasEnc (s.sess n.val).desc = true → (s.sess n.val).prepassDepth ≠ 0 →
      let blocks := preCosts as cs vs
      exec (.prepass n pic as cs vs) s =
        .next (s.modPic n.val pic fun p =>
          if p.started = true ∨ p.src = 0 then p
          else { p with prepass := some blocks, sceneCut := decide (max 1 blocks.length ≤ 2 * blocks.countP fun b => decide (b.intra < b.inter)) })) ∧
  (∀ (n : SessId) (pic job : Nat) (p : EncPic) (j : EncJob) (s : State), s.clocked = true →
      s.encJob n.val pic job = some (p, j) → p.started = true → j.phase = .waiting → j.hedge < 4 →
      s.rowHere n.val p (j.firstRow + j.rows - 1) = true →
      ((s.motionOf n.val p).any (fun m => m.buf == 0) = false → s.missingRecords n.val p j = [] →
        exec (.sliceJobReady n pic job) s = .next (s.jobReady n.val p j (some (s.encDeadline n.val j)) j.noInherit j.lost)) ∧
      (s.missingRecords n.val p j ≠ [] →
        exec (.inheritLatestStart n pic job) s =
          .next (s.jobReady n.val p j (some (s.inNs ((2 * (s.rowsNs n.val j j.firstRow j.rows + 10000) : Nat) : Int)))
            (s.missingRecords n.val p j) (s.lostRows n.val p j))) ∧
      (∀ d miss lost, s.espSilent n.val = false →
        ∃ q k, (s.jobReady n.val p j d miss lost).encJob n.val pic job = some (q, k) ∧ k.phase = .ready ∧ k.deadline = d ∧ k.noInherit = miss ∧
          k.lost = lost))

/-- A free core takes the first of the jobs it may run, whose personality it holds, or begins a strip's motion search; a core codes the next row of its running encode job once the source rows and the neighbours are there, and ends an encode job whose rows are all coded; a paused pooled encode job goes on at the free core of its hedge with the lowest ID that holds the personality. Where the spec is silent it takes the model's reading: log entry 10. Its commands: SLICE_JOB_DISPATCH, STRIP_START, CTU_ROW_START, POOLED_ROW_READY, SLICE_JOB_COMPLETE. -/
def Obligations.CoresRunJobs : Prop :=
  ∀ (c : CoreId) (s : State), s.clocked = true →
    (∀ x, s.coreFree c.val = true → firstCand (s.encCands c.val ++ s.decCands c.val) = some x → s.resident c.val x.pers ≠ .absent →
      exec (.sliceJobDispatch c) s = .next ((s.candBegin c.val x).overloadUpdate (c.val / 9))) ∧
    (∀ j, s.coreFree c.val = true → s.stripJob c.val = some j →
      ∃ t, exec (.stripStart c) s = .next t ∧ (t.core c.val).strip = some j ∧ t.sessions = s.sessions ∧ t.regs = s.regs) ∧
    (∀ n i k p j, (s.core c.val).job = some (n, i, k) → k < decBase → s.encJob n i k = some (p, j) → s.sidesReady n p j = true →
      (∀ hb cs fs, j.done.length < j.rows → j.phase = .running → s.rowHere n p (j.firstRow + j.done.length) = true →
        exec (.ctuRowStart c hb cs fs) s = .next (s.rowCode c.val { header := hb, units := codedUnits cs fs })) ∧
      (j.rows ≤ j.done.length → s.aboveReady n p j = true → exec (.sliceJobComplete c) s = .next (s.jobComplete c.val))) ∧
    (∀ (n : SessId) (pic job : Nat) (p : EncPic) (j : EncJob) (k : Nat),
      job < decBase → s.encJob n.val pic job = some (p, j) → j.phase = .paused → s.rowHere n.val p (j.firstRow + j.done.length) = true →
      s.sidesReady n.val p j = true →
      let u := s.modJob n.val pic job fun j => { j with phase := .ready }
      let pers := persOf (mainStream (u.sess n.val).desc).codec false
      ((span (9 * j.hedge) 9).find? fun c => u.coreFree c && u.resident c pers != .absent) = some k →
      exec (.pooledRowReady n pic job) s = .next (u.encBegin k n.val pic job pers))

/-- The slice queues: the producer's bank goes to an empty consumer side, with all its credits back, when it is full or holds an end mark, or when its time is over, and is drained; a staged slice goes on to its consumer; an output ring whose bank it is takes the slice in its trailer's place; slices of an output ring start, and end. Where the spec is silent it takes the model's reading: log entries 59, 68. Its commands: SQ_BANK_SWAP, SQ_TIMEOUT, SLICE_TRAILER, STREAM_SLICE_START, STREAM_SLICE_END. -/
def Obligations.SliceQueues : Prop :=
  (∀ (c : CoreId) (s : State), s.clocked = true → (s.core c.val).cons = [] → (s.core c.val).prod ≠ [] →
    let x := s.core c.val
    let t := (((s.setCore c.val { x with cons := x.prod, prod := [], credits := 1024 }).latch c.val 4).drainBank c.val 1024).payOwed c.val
    exec (.sqTimeout c) s = .next t ∧ ((x.credits = 0 ∨ x.prod.any SqWord.endMark = true) → exec (.sqBankSwap c) s = .next t)) ∧
  (∀ (c : CoreId) (ws : List SqWord) (s : State), s.clocked = true → s.stagedNext c.val = some ws →
    exec (.sliceTrailer c) s = .next (s.stagedAct c.val ws)) ∧
  (∀ (c : CoreId) (r : Nat) (s : State), s.clocked = true → s.stagedNext c.val = none → s.bankRing c.val = some r →
    exec (.sliceTrailer c) s = .next (((s.streamStart r).streamFinish r).espFlush ((s.streamStart r).streamSess r))) ∧
  (∀ (r : RingId) (s : State), s.clocked = true →
    exec (.streamSliceStart r) s = .next (s.streamStart r.val) ∧
    exec (.streamSliceEnd r) s = .next ((s.streamFinish r.val).espFlush (s.streamSess r.val)))

/-- Hedge registers through a served access. With no promotion running: HDG_DVFS takes the request, the slowest point at most, unless it is refused, with the event; a keyed HDG_PROMOTE names an active slot while a spare stands by; a keyed HDG_SPARE makes a slot out of service, whose self-test passed and which is not in a self-test, the spare where there is none; either with a wrong key changes nothing. During a promotion the three writes wait, in their order. BIST_START on a slot out of service starts its self-test while none runs; HDG_PERS_PIN takes at most two personalities. Its commands: HDG_PROMOTE, HDG_SPARE, BIST_START, HDG_DVFS_WRITE, HDG_PERS_PIN_WRITE. -/
def Obligations.HedgeRegisters : Prop :=
  ∀ (who : Who) (hd : HedgeId) (v : W32) (s : State),
    let h := hd.val
    let u := s.noted who (pgHDG h)
    s.served who (pgHDG h) = true →
    ((s.hedge h).promo ≠ none →
      (∃ t, exec (.hdgDvfsWrite who hd v) s = .next t ∧ (t.hedge h).deferred = (s.hedge h).deferred ++ [(0x50, v)] ∧ t.regs = s.regs) ∧
      (∃ t, exec (.hdgPromote who hd v) s = .next t ∧ (t.hedge h).deferred = (s.hedge h).deferred ++ [(0x54, v)] ∧ t.regs = s.regs) ∧
      (∃ t, exec (.hdgSpare who hd v) s = .next t ∧ (t.hedge h).deferred = (s.hedge h).deferred ++ [(0x58, v)] ∧ t.regs = s.regs)) ∧
    ((s.hedge h).promo = none →
      (s.dvfsRefused h (min (fld v 2 0) 5) = true → exec (.hdgDvfsWrite who hd v) s = .next ((u.event (pgHDG h) 4).told who)) ∧
      (fld v 15 8 ≠ 0x5A → exec (.hdgPromote who hd v) s = .next (u.told who) ∧ exec (.hdgSpare who hd v) s = .next (u.told who)) ∧
      (s.dvfsRefused h (min (fld v 2 0) 5) = false →
        exec (.hdgDvfsWrite who hd v) s = .next ((u.setF (HDG_DVFS h) 2 0 (min (fld v 2 0) 5)).told who)) ∧
      (fld v 15 8 = 0x5A → fld v 3 0 < 9 → s.role h (fld v 3 0) = 0 → (s.spareOf h).isSome = true →
        ∃ t, exec (.hdgPromote who hd v) s = .next t ∧ (t.hedge h).hostPromote = some (9 * h + fld v 3 0) ∧ t.regs = s.regs) ∧
      (fld v 15 8 = 0x5A → fld v 3 0 < 9 → s.role h (fld v 3 0) = 2 → (s.core (9 * h + fld v 3 0)).test = some true → (s.hedge h).bist ≠ some (fld v 3 0) →
        s.spareOf h = none →
        exec (.hdgSpare who hd v) s = .next (((u.setRole h (fld v 3 0) 1).spareLoad h).told who))) ∧
    (∀ slot : Fin 16, slot.val < 9 → 2 ≤ s.role h slot.val → (s.hedge h).bist = none →
      ∃ t, exec (.bistStart who hd slot) s = .next t ∧ (t.hedge h).bist = some slot.val ∧ t.bit (HDG_BIST h) 8 = true ∧ t.f (HDG_BIST h) 3 0 = slot.val) ∧
    (((span 0 8).countP fun i => bitAt v i) ≤ 2 →
      exec (.hdgPersPinWrite who hd v) s = .next (((u.setReg (HDG_PERS_PIN h) (BitVec.ofNat 32 (fld v 7 0))).spareLoad h).told who))

/-- What a hedge does on its own: a self-test ends with the slot healthy but inactive or failed and the event set; a promotion learns that the replies are in, then reissues; a requested performance point is taken; a host's promotion takes over once the core is free. Where the spec is silent it takes the model's reading: log entries 66, 67, 99, 100, 101. Its commands: PROMOTION_REPLY_TIMEOUT, PROMOTION_REISSUE, HOST_PROMOTE_TAKEOVER, BIST_DONE, DVFS_APPLY. -/
def Obligations.HedgeEvents : Prop :=
  ∀ (hd : HedgeId) (s : State),
    let h := hd.val
    s.clocked = true →
    (∀ slot pass, slot < 9 → (s.hedge h).bist = some slot →
      ∃ t, exec (.bistDone hd pass) s = .next t ∧ (t.hedge h).bist = none ∧ (t.core (9 * h + slot)).test = some pass ∧
        t.role h slot = (if pass then 2 else 3) ∧ t.bit (HDG_BIST h) 8 = false ∧ t.bit (HDG_BIST h) 9 = pass ∧ t.bit (HDG_BIST h) 10 = true ∧
        t.bit (hEVT (pgHDG h)) 5 = true) ∧
    (∀ p, (s.hedge h).promo = some p → p.repliesDone = false → p.job = none →
      ∃ t, exec (.promotionReplyTimeout hd) s = .next t ∧ (t.hedge h).promo = some { p with repliesDone := true } ∧ (t.seq p.failed).busWait = false ∧
        t.regs = s.regs) ∧
    exec (.promotionReissue hd) s = .next (s.promoReissue h) ∧
    (s.bit (HDG_DVFS h) 7 = false →
      exec (.dvfsApply hd) s =
        .next ((((s.setF (HDG_DVFS h) 6 4 (s.f (HDG_DVFS h) 2 0)).setB (HDG_DVFS h) 7 false).loadUpdate h).overloadUpdate h)) ∧
    (∀ c k, (s.hedge h).hostPromote = some c → s.spareOf h = some k → (s.core c).job = none → (s.hedge h).promo = none → s.coreRole c = 0 →
      let u := s.setHedge h { s.hedge h with hostPromote := none }
      exec (.hostPromoteTakeover hd) s =
        .next (((((u.setRole h (k % 9) 0).setDomain k true).setRole h (c % 9) 2).takePlace c k).coreLeaves c (some k) true false))

/-! Decoding and composing (R176 to R190, R206 to R230, R258, R260, R261). -/

/-- DECODE_UNIT: a unit outside its buffer, of an open session that decodes host units, completes with 0x21, one of a session with a hedge off with 0x2D; else it joins the session's units, with the verdict on its CRC. The pictures of a decode session: the slice of the oldest unit, whose references are all there, is taken in, after the gaps before it; missing blocks of a picture that may be concealed are, also at their latest start where the session has an output deadline; blocks received but not decoded at their deadline are written to the output as concealed, and the rows with them published. Its commands: DECODE_UNIT, DECODE_JOB_READY, CONCEALMENT_JOB_READY, CONCEAL_LATEST_START, OUTPUT_DEADLINE. -/
def Obligations.Decoding : Prop :=
  (∀ (r : RingId) (b : List Byte) (s : State), s.nextJob r.val = some b → leAt b 0 1 = 4 →
      s.poolSize (hPool (BitVec.ofNat 32 (leAt b 0x10 4))) < leAt b 0x14 4 + leAt b 0x18 4 →
      exec (.decodeUnit r) s = .next ((s.takeJob r.val (jobRefOf r.val b)).finishJob (jobRefOf r.val b) 0 [] 0x21)) ∧
  (∀ (r : RingId) (b : List Byte) (s : State), s.jobDue r.val 4 b →
      let j := jobRefOf r.val b
      let u := s.jobTaken r.val b
      let n := leAt b 2 1
      let h := BitVec.ofNat 32 (leAt b 0x10 4)
      let off := leAt b 0x14 4
      let len := leAt b 0x18 4
      (u.hedgeOff n = true → exec (.decodeUnit r) s = .next (u.finishJob j 0 [] 0x2D)) ∧
      (u.hedgeOff n = false →
        ∃ t v, exec (.decodeUnit r) s = .next t ∧ (t.sess n).units = (u.sess n).units ++ [v] ∧ v.job = some j ∧ v.handle = h ∧
          v.closes = bitIn b 0x1C 0 ∧ v.release = bitIn b 0x1C 3 ∧
          v.crcBad = (bitIn b 0x1C 1 && crc32c (u.hbmBytes (u.bufAddr h + off) len) != BitVec.ofNat 32 (leAt b 0x20 4)))) ∧
  (∀ (n : SessId) (s : State), s.clocked = true →
      (∀ si u us,
        let w := s.lossUnits n.val (s.sess n.val).units.length
        let x := w.sess n.val
        w.clocked = true → x.units = u :: us → x.phase = .opened → hasDec x.desc = true → w.hedgeOff n.val = false →
        (∀ i ∈ si.list0 ++ si.list1, x.refState i ≠ .partly) → (si.newPicture = true → x.refRoom = true) →
        exec (.decodeJobReady n si) s = .next (if si.lastOfUnit then (w.sliceIn n.val si u).unitPop n.val else w.sliceIn n.val si u)) ∧
      (∀ i p run, s.decPic n.val i = some p → p.concealable = some run →
        exec (.concealmentJobReady n i) s = .next (s.concealStart n.val p run)) ∧
      (∀ i p run, outDelay (s.sess n.val).desc ≠ 0 → s.decPic n.val i = some p → p.missing.head? = some run →
        exec (.concealLatestStart n i) s = .next (s.concealStart n.val p run)) ∧
      (∀ row p,
        let cells (p : DecPic) : List Nat := (List.range p.cells.length).filter fun c => p.rowOf c == row && p.state c == 1 && !p.late.contains c
        outDelay (s.sess n.val).desc ≠ 0 → (s.sess n.val).dec.find? (fun p => p.out != 0 && !(cells p).isEmpty) = some p →
        let u := s.each (p.blocks16 (cells p)) fun t b => t.concealOut n.val p.idx b
        let v := u.modDec n.val p.idx fun q => { q with late := q.late ++ cells p, lateRows := q.lateRows + 1 }
        exec (.outputDeadline n row) s = .next (match v.decPic n.val p.idx with
          | some q => (v.mapsWrite n.val q).outLines n.val q
          | none => v)))

/-- COMPOSE_CONFIG: entries that cannot be read, or an absent pipe, complete with the code and nothing written; all entries are written, or those before the first that is barred, which names it. FLIP on a pipe that is there and a group that is not pending sets its members and arms it. Its commands: COMPOSE_CONFIG, FLIP. -/
def Obligations.ComposeJobs : Prop :=
  ∀ (r : RingId) (b : List Byte) (s : State),
    let j := jobRefOf r.val b
    let u := s.jobTaken r.val b
    let p := leAt b 0x10 1
    (s.jobDue r.val 5 b → s.jobHostWaits r.val (leAt b 0x11 1 == 0) = false →
      let n := leAt b 0x12 2
      let x := u.jobRead r.val (leAt b 0x11 1 == 1) (leAt b 0x18 8) (8 * n)
      let v := u.jobReadCount (leAt b 0x11 1 == 1) (leAt b 0x18 8) (8 * n)
      let body (w f : Nat) : List (Nat × List Byte) := [(0x08, leBytes 2 w), (0x0A, leBytes 2 f)]
      (x.1 ≠ 0 → exec (.composeConfig r) s = .next (v.finishJob j 0 (body 0 0xFFFF) x.1)) ∧
      (x.1 = 0 → ∀ c, v.pipeAbsent p = some c → exec (.composeConfig r) s = .next (v.finishJob j 0 (body 0 0xFFFF) c)) ∧
      (x.1 = 0 → v.pipeAbsent p = none →
        (∀ t, v.entriesRun p x.2 0 n = .inl t → exec (.composeConfig r) s = .next (t.finishJob j 0 (body n 0xFFFF) 0)) ∧
        (∀ k c, v.entriesRun p x.2 0 n = .inr (k, c) → exec (.composeConfig r) s = .next (v.finishJob j 0 (body 0 k) c)))) ∧
    (s.jobDue r.val 6 b →
      let g := leAt b 0x11 1
      let body := [(0x08, leBytes 1 p), (0x09, leBytes 1 g)]
      (∀ c, u.pipeAbsent p = some c → exec (.flip r) s = .next (u.finishJob j 0 body c)) ∧
      (u.pipeAbsent p = none → (u.group p g).pending = true → exec (.flip r) s = .next ((u.event (pgCMP p) 9).finishJob j 0 body 0x11)) ∧
      (u.pipeAbsent p = none → (u.group p g).pending = false →
        let v := (if leAt b 0x12 2 = 0 then u else u.setF (GRP_CTL p g) 23 8 (leAt b 0x12 2)).setReg (GRP_MEMBERS p g) (BitVec.ofNat 32 (leAt b 0x14 4))
        let a := v.groupArm p g (some j)
        exec (.flip r) s = .next (if a.2 then a.1 else a.1.finishJob j 0 body 0x11)))

/-- A group through a served access of its pipe: it is armed unless it is pending, names no member, or shares one with a pending group, when the event is set instead; cancelling a pending group ends it cancelled. A pipe that runs flips at its flip point, in PTP mode only with the media time running, in LOCKED mode only with a new picture of the timing layer, else by freewheeling with the event set; its next canvas line is written once its source lines are there, the pipe subscribing to them until then, or at its deadline, with the event and the count where they are not there. Where the spec is silent it takes the model's reading: log entries 24, 113, 123. Its commands: FLIP_POINT, FREEWHEEL_FLIP, CANVAS_LINE_WRITE, LATE_LINE, GROUP_ARM, GROUP_CANCEL. -/
def Obligations.GroupsAndPipes : Prop :=
  (∀ (who : Who) (pipe : PipeId) (group : GroupId) (s : State),
      let p := pipe.val
      let g := group.val
      let mask := s.reg (GRP_MEMBERS p g)
      let meets := (span 0 4).any fun k => k != g && (s.group p k).pending && (s.reg (GRP_MEMBERS p k) &&& mask) != 0
      s.served who (pgCMP p) = true →
      ((s.group p g).pending = false → mask ≠ 0 → meets = false →
        ∃ t, exec (.groupArm who pipe group) s = .next t ∧ (t.group p g).pending = true ∧ (t.group p g).job = none ∧ t.bit (GRP_CTL p g) 0 = true ∧
          t.f (GRP_STAT p g) 0 0 = 1) ∧
      (((s.group p g).pending = true ∨ mask = 0 ∨ meets = true) →
        exec (.groupArm who pipe group) s = .next ((s.event (pgCMP p) 9).told who)) ∧
      ((s.group p g).pending = true →
        ∃ t, exec (.groupCancel who pipe group) s = .next t ∧ (t.group p g).pending = false) ∧
      ((s.group p g).pending = false → exec (.groupCancel who pipe group) s = .next (s.told who))) ∧
  (∀ (pipe : PipeId) (s : State),
      let p := pipe.val
      (s.pipeRuns p = true →
        (s.bit (CMP_TIMING p) 0 = false → s.mtcOn = true → exec (.flipPoint pipe) s = .next (s.flipNow p)) ∧
        (s.bit (CMP_TIMING p) 0 = false → s.mtcOn = false → exec (.flipPoint pipe) s = .next (s.event (pgCMP p) 8)) ∧
        (s.bit (CMP_TIMING p) 0 = true → s.timingReady p = true → exec (.flipPoint pipe) s = .next (s.flipNow p)) ∧
        (s.bit (CMP_TIMING p) 0 = true → s.timingReady p = false → exec (.freewheelFlip pipe) s = .next ((s.event (pgCMP p) 7).flipNow p))) ∧
      (∀ h y t, s.pipeBusy p = true → (s.pipe p).picture = some (h, y, t) → s.inDrain (pgCMP p) = false →
        (s.lineNeeds p y = true → (s.lineOut p false).inDrain (pgCMP p) = false → exec (.canvasLineWrite pipe) s = .next (s.lineOut p false)) ∧
        (s.lineNeeds p y = false → (s.lineSubs p y).inDrain (pgCMP p) = false → exec (.canvasLineWrite pipe) s = .next (s.lineSubs p y)) ∧
        ((s.lineLate p).inDrain (pgCMP p) = false → exec (.lateLine pipe) s = .next (s.lineLate p))))

/-! DMA (R280, R281, R289 to R296). -/

/-- DCH_GO by a channel's writer, on a channel that does not run: with a count of 1 to 2^30 it runs with the values of its registers and BUSY is set; with any other count it ends at once with FORMAT. A write by another is ignored, and so is one while the channel runs. A channel's transfer goes on by one step. Where the spec is silent it takes the model's reading: log entry 46. Its commands: DCH_GO, DCH_END. -/
def Obligations.Channels : Prop :=
  (∀ (who : Who) (ch : ChanId) (s : State),
      let c := ch.val
      let n := (s.reg (chanAt c 0x10)).toNat
      s.served who (0x041 + c / 8) = true →
      ((chanWriter who c = false ∨ s.chan c ≠ none) → exec (.dchGo who ch) s = .next (s.told who)) ∧
      (chanWriter who c = true → s.chan c = none →
        (1 ≤ n → n ≤ 2 ^ 30 →
          ∃ t x, exec (.dchGo who ch) s = .next t ∧ t.chan c = some x ∧ x.count = n ∧ x.src = s.pair (chanAt c 0) (chanAt c 4) ∧
            x.dst = s.pair (chanAt c 8) (chanAt c 0xC) ∧ x.srcGlobal = s.bit (chanAt c 0x14) 1 ∧ x.dstGlobal = s.bit (chanAt c 0x14) 2 ∧
            t.bit (chanAt c 0x14) 0 = true ∧ t.bit (chanAt c 0x18) 0 = true ∧ t.reg (chanAt c 0x1C) = 0) ∧
        ((n = 0 ∨ 2 ^ 30 < n) →
          ∃ t, exec (.dchGo who ch) s = .next t ∧ t.chan c = none ∧ t.bit (chanAt c 0x18) 2 = true ∧ t.f (chanAt c 0x18) 7 4 = 1))) ∧
  (∀ (ch : ChanId) (x : Chan) (s : State), s.clocked = true → s.chan ch.val = some x → exec (.dchEnd ch) s = .next (s.chanStep ch.val x))

/-! Interrupts (R314 to R322). -/

/-- IC_CLAIM answers the active source, and changes nothing; with none active, the lowest source that is pending and enabled, which becomes active and is acknowledged; with none at all, 1023 once after a message, else 0. IC_COMPLETE of the active source makes none active and evaluates the instance; of any other number it sets the event and changes nothing else. Its commands: IC_CLAIM, IC_COMPLETE. -/
def Obligations.ClaimAndComplete : Prop :=
  (∀ (who : Who) (inst : FnId) (s : State),
      let i := inst.val
      s.served who (pgIC i) = true →
      (s.icActive i ≠ 0 → exec (.icClaim who inst) s = .next (s.toldWord who (BitVec.ofNat 32 (s.icActive i)))) ∧
      (s.icActive i = 0 →
        (∀ n, s.icBest i = some n →
          ∃ t, exec (.icClaim who inst) s = .next t ∧ t.icActive i = n ∧ t.bit (IC_STATE i) 0 = false ∧
            t.outbox = (s.toldWord who (BitVec.ofNat 32 n)).outbox ∧
            (srcEdge n = true → tabGet (fun _ => false) t.edges n = false) ∧ (srcRing n = true → (t.ring (n - 144)).modFired = false)) ∧
        (s.icBest i = none → s.bit (IC_STATE i) 0 = true →
          exec (.icClaim who inst) s = .next ((s.setB (IC_STATE i) 0 false).toldWord who 1023)) ∧
        (s.icBest i = none → s.bit (IC_STATE i) 0 = false → exec (.icClaim who inst) s = .next (s.toldWord who 0)))) ∧
  (∀ (who : Who) (inst : FnId) (v : W32) (s : State),
      let i := inst.val
      s.served who (pgIC i) = true →
      (s.icActive i ≠ 0 → fld v 9 0 = s.icActive i →
        exec (.icComplete who inst v) s = .next (((s.setReg (IC_ACTIVE i) 0).icEval i).told who)) ∧
      ((fld v 9 0 = 0 ∨ fld v 9 0 ≠ s.icActive i) → exec (.icComplete who inst v) s = .next ((s.event (pgIC i) 0).told who)))

/-- The source that CLAIM answers is the lowest of those pending and enabled in its instance. -/
def Obligations.ClaimsTheLowest : Prop :=
  ∀ (i n : Nat) (s : State), s.icBest i = some n →
    1 ≤ n ∧ n ≤ 399 ∧ s.icHit i n = true ∧ ∀ k, 1 ≤ k → k < n → s.icHit i k = false

/-- An evaluation with a source waiting, nothing active and nothing signalled: the message leaves where nothing holds it, else it is held with its cause; a message that is held leaves once nothing holds it. Moderation: IC_MOD of a ring routed to the instance takes COUNT and TIME, 1 where 0 is written, and fires the ring whose count or time that reaches; of another ring it is ignored. A ring with completions not signalled fires when its timer is up: its source is pending, its count and timer 0. PM_PME is repeated while it is due. Where the spec is silent it takes the model's reading: log entry 4. Its commands: MSIX_SEND, IC_MOD_WRITE, MODERATION_TIMER, PME_REPEAT. -/
def Obligations.MessagesAndModeration : Prop :=
  (∀ (inst : FnId) (s : State),
      let i := inst.val
      s.clocked = true → s.icActive i = 0 → s.bit (IC_STATE i) 0 = false → (s.icBest i).isSome = true →
      (s.holdCause i = 0 →
        ∃ t, exec (.msixSend inst) s = .next t ∧ t.outbox = s.outbox ++ [.msix i (s.fn i).vecAddr (s.fn i).vecData] ∧ t.bit (IC_STATE i) 0 = true ∧
          t.bit (IC_STATE i) 1 = false ∧ (t.fn i).pba = false ∧ t.reg (IC_MSGS i) = s.reg (IC_MSGS i) + 1) ∧
      (s.holdCause i ≠ 0 → s.bit (IC_STATE i) 1 = false → (s.fn i).d3 = false →
        ∃ t, exec (.msixSend inst) s = .next t ∧ t.outbox = s.outbox ∧ t.bit (IC_STATE i) 0 = false ∧ t.bit (IC_STATE i) 1 = true ∧
          t.f (IC_STATE i) 4 2 = s.holdCause i ∧ (t.fn i).pba = true)) ∧
  ((∀ (who : Who) (inst : FnId) (r : RingId) (v : W32) (s : State),
      let i := inst.val
      let c := if fld v 7 0 = 0 then 1 else fld v 7 0
      let m := if fld v 31 16 = 0 then 1 else fld v 31 16
      s.served who (pgIC i) = true →
      (s.owner r.val ≠ i → exec (.icModWrite who inst r v) s = .next (s.told who)) ∧
      (s.owner r.val = i →
        ∃ t, exec (.icModWrite who inst r v) s = .next t ∧ t.f (IC_MOD i r.val) 7 0 = c ∧ t.f (IC_MOD i r.val) 31 16 = m ∧
          ((s.ring r.val).modC ≠ 0 → (c ≤ (s.ring r.val).modC ∨ m ≤ (s.ring r.val).modUs) → (t.ring r.val).modFired = true) ∧
          (((s.ring r.val).modC = 0 ∨ ((s.ring r.val).modC < c ∧ (s.ring r.val).modUs < m)) → t.ring r.val = s.ring r.val))) ∧
    (∀ (r : RingId) (s : State), s.clocked = true → (s.ring r.val).modC ≠ 0 →
      exec (.moderationTimer r) s = .next (s.setRing r.val { s.ring r.val with modFired := true, modC := 0, modUs := 0 })) ∧
    (∀ (fn : FnId) (s : State), s.clocked = true → (s.fn fn.val).d3 = true → (s.fn fn.val).pmeStatus = true → (s.fn fn.val).pmeEn = true →
      (s.hif.linkUp = true → ∃ t, exec (.pmeRepeat fn) s = .next t ∧ t.outbox = s.outbox ++ [.pme fn.val] ∧ (t.fn fn.val).pmeHeld = false) ∧
      (s.hif.linkUp = false → exec (.pmeRepeat fn) s = .next (s.setFn fn.val { s.fn fn.val with pmeHeld := true }))))

/-! HBM (R350 to R371). -/

/-- The local addresses of HBM and the places in its pseudo-channels correspond one to one, whatever the size of the affine regions: each address has one place inside its pseudo-channel, and each place one address. -/
def Obligations.AddressMapOneToOne : Prop :=
  ∀ c aff : Nat, (c = 24 ∨ c = 36) → aff ≤ c →
    (∀ a, a < 4 * c * GiB →
      (hbmPlace c aff a).1 < 128 ∧ (hbmPlace c aff a).2 < c * GiB / 32 ∧ hbmAddr c aff (hbmPlace c aff a).1 (hbmPlace c aff a).2 = a) ∧
    (∀ p off, p < 128 → off < c * GiB / 32 → hbmAddr c aff p off < 4 * c * GiB ∧ hbmPlace c aff (hbmAddr c aff p off) = (p, off))

/-- A write of HBM that no stack holds stores its bytes and answers OK; every other byte of HBM and every byte of host memory is as before. Where the spec is silent it takes the model's reading: log entries 3, 60. Its commands: HBM_WRITE. -/
def Obligations.WritesStore : Prop :=
  ∀ (a addr : Nat) (bytes : List Byte) (poison : Bool) (s : State), s.clocked = true → s.affGiB ≤ s.stackGiB →
    s.inHbm addr bytes.length = true → s.holding addr bytes.length = none →
    ∃ t, exec (.hbmWrite a addr bytes poison) s = .next t ∧ t.outbox = s.outbox ++ [.resp a .ok []] ∧
      (∀ k, k < bytes.length → t.hbmByte (addr + k) = bytes.getD k 0) ∧
      (∀ x, x < s.hbmSize → (x < addr ∨ addr + bytes.length ≤ x) → t.hbmByte x = s.hbmByte x) ∧ HostKept s t

/-- A read of HBM that no stack holds answers the bytes, marked when a sector of them is poisoned; no byte of HBM or of host memory changes. Where the spec is silent it takes the model's reading: log entry 60. Its commands: HBM_READ. -/
def Obligations.ReadsAnswer : Prop :=
  ∀ (a addr len : Nat) (s : State), s.clocked = true → s.inHbm addr len = true → s.holding addr len = none →
    ∃ t r, exec (.hbmRead a addr len) s = .next t ∧ t.outbox = s.outbox ++ [.resp a r (s.hbmBytes addr len)] ∧ (r = .ok ∨ r = .okPoison) ∧
      HbmKept s t ∧ HostKept s t

/-- A request that a stack not in service would serve waits with it; a range outside HBM and its mirror is answered ABORT_UNMAPPED. The controller's queue: the request its rules pick is issued, closing its row at once where IDLE_CYC is 0; an idle bank's row is closed; a refresh is issued to a stack that does not refresh itself. Where the spec is silent it takes the model's reading: log entry 60. Its commands: HBM_READ, HBM_WRITE, HBM_REFRESH, HBM_REQUEST_ISSUE, ROW_IDLE_CLOSE. -/
def Obligations.RequestQueues : Prop :=
  (∀ (a addr len : Nat) (s : State), s.clocked = true →
      (∀ i, s.inHbm addr len = true → s.holding addr len = some i →
        exec (.hbmRead a addr len) s =
          .next (s.setStack i { s.stack i with waiting := (s.stack i).waiting ++ [{ agent := a, addr := addr, len := len }] })) ∧
      (s.inHbm addr len = false → inMirror addr len = false →
        exec (.hbmRead a addr len) s = .next (s.emit (.resp a .abortUnmapped [])) ∧
        ∀ bytes p, bytes.length = len → exec (.hbmWrite a addr bytes p) s = .next (s.emit (.resp a .abortUnmapped [])))) ∧
  (∀ s : State, s.clocked = true →
      (∀ (pcx : Fin 128) (k : Nat), s.stackServes (pcx.val / 32) = true →
        (s.pch pcx.val).pick (s.f (HBM_SCHED (pcx.val / 32)) 25 16) = some k →
        exec (.hbmRequestIssue pcx) s = .next (s.setPch pcx.val ((s.pch pcx.val).issue k (s.f (HBM_SCHED (pcx.val / 32)) 9 0)))) ∧
      (∀ (pcx : Fin 128) (bank : Nat), (∀ q ∈ (s.pch pcx.val).queue, q.bank ≠ bank) →
        ∃ t, exec (.rowIdleClose pcx bank) s = .next t ∧ tabGet (fun _ => 0) (t.pch pcx.val).openRow bank = 0 ∧
          (t.pch pcx.val).queue = (s.pch pcx.val).queue ∧ t.regs = s.regs ∧ t.hbm = s.hbm) ∧
      (∀ i : StackId, (s.stack i.val).selfRefresh = false →
        exec (.hbmRefresh i) s = .next (s.emit (.hbmCommand i.val (b2n (s.bit (HBM_SCHED i.val) 28) + 2 * b2n (s.bit (HBM_TEMP i.val) 8))))))

/-- Training: a write of FULL empties the stack's queues and starts a full training, ignored while one is due or runs; its end gives the taps; a tracking retrain that is due runs. HBM_MAP takes AFF_GIB, at most a stack's size, while no pool is enabled, else the event is set and the map stays; a keyed repair of a row that can be repaired is recorded. Where the spec is silent it takes the model's reading: log entries 26, 70, 83, 127. Its commands: HBM_FULL_TRAINING, HBM_TRAINING_DONE, HBM_TRACKING_RETRAIN, HBM_MAP_WRITE, PPR_SOFT, PPR_HARD. -/
def Obligations.TrainingMapAndRepairs : Prop :=
  (∀ (stack : StackId) (s : State),
      let i := stack.val
      (∀ who : Who, s.served who (pgHBT i) = true →
        (s.f (HBT_CTL i) 1 0 = 0 →
          ∃ t, exec (.hbmFullTraining who stack) s = .next t ∧ t.bit (HBT_CTL i) 1 = true ∧ t.bit (HBT_STAT i) 0 = true ∧ t.stackServes i = false ∧
            t.hbm = s.hbm) ∧
        (s.f (HBT_CTL i) 1 0 ≠ 0 → exec (.hbmFullTraining who stack) s = .next ((s.noted who (pgHBT i)).told who))) ∧
      (∀ temp sweeps us, s.clocked = true → s.bit (HBT_STAT i) 0 = true → s.bit (HBT_CTL i) 0 = false → (s.stack i).driftDue = false →
        exec (.hbmTrainingDone stack temp sweeps us) s = .next (s.trainEnd i temp sweeps us)) ∧
      (∀ who sweeps us, s.clocked = true → (s.stack i).driftDue = true →
        exec (.hbmTrackingRetrain who stack sweeps us) s = .next (s.trackRun i sweeps us)) ∧
      (∀ who sweeps us, s.served who (pgHBT i) = true → (s.stack i).driftDue = false → s.f (HBT_CTL i) 1 0 = 0 → s.bit (HBT_STAT i) 0 = false →
        exec (.hbmTrackingRetrain who stack sweeps us) s = .next (((s.noted who (pgHBT i)).trackRun i sweeps us).told who))) ∧
  (∀ (who : Who) (s : State),
      (∀ v : W32, s.served who (pgHBM 0) = true →
        ((∀ p, p < 64 → s.poolEn p = false) →
          ∃ t, exec (.hbmMapWrite who v) s = .next t ∧ t.affGiB = min (fld v 5 0) s.stackGiB ∧ t.hbm = s.hbm) ∧
        (∀ p, p < 64 → s.poolEn p = true →
          exec (.hbmMapWrite who v) s = .next ((s.event (pgHBM 0) 7).told who))) ∧
      (∀ (stack : StackId) (key : Byte),
        let i := stack.val
        s.served who (pgHBM i) = true →
        (key ≠ 0xC3 → exec (.pprSoft who stack key) s = .next (s.told who) ∧ exec (.pprHard who stack key) s = .next (s.told who)) ∧
        (key = 0xC3 → s.pprOpen i = true →
          (∃ t, exec (.pprSoft who stack key) s = .next t ∧ (t.stack i).soft = (s.stack i).soft ++ [s.pprRow i] ∧ t.bit (hEVT (pgHBM i)) 4 = true) ∧
          ((s.stack i).hard.length < 4 →
            ∃ t, exec (.pprHard who stack key) s = .next t ∧ (t.stack i).hard = (s.stack i).hard ++ [s.pprRow i] ∧ t.bit (hEVT (pgHBM i)) 4 = true))))

/-- A temperature poll: HBM_TEMP takes the temperature and whether it is above 85; crossing 85 upward sets one event, being above 95 the other. The scrubber, while its rate is not 0, goes on by one sector, and at the end of the stack begins again with a pass counted and the event set. A sector without an error changes nothing else. Where the spec is silent it takes the model's reading: log entry 83. Its commands: HBM_TEMP_POLL, SCRUB_READ. -/
def Obligations.TemperatureAndScrub : Prop :=
  (∀ (stack : StackId) (temp : BitVec 8) (s : State), s.clocked = true →
      let i := stack.val
      ∃ t, exec (.hbmTempPoll stack temp) s = .next t ∧ (t.stack i).temp = temp.toInt ∧ t.f (HBM_TEMP i) 7 0 = temp.toNat ∧
        t.bit (HBM_TEMP i) 8 = decide (85 < temp.toInt) ∧
        (85 < temp.toInt → s.bit (HBM_TEMP i) 8 = false → t.bit (hEVT (pgHBM i)) 2 = true) ∧
        (95 < temp.toInt → t.bit (hEVT (pgHBM i)) 3 = true) ∧
        (temp.toInt ≤ 85 → t.reg (hEVT (pgHBM i)) = s.reg (hEVT (pgHBM i))) ∧ t.hbm = s.hbm) ∧
  (∀ (stack : StackId) (s : State),
      let i := stack.val
      let total := s.stackGiB * GiB / 32
      let p := (s.stack i).scrubPos
      s.clocked = true → s.stackServes i = true → s.f (HBM_SCRUB i) 15 0 ≠ 0 → s.inject = none →
      (p + 1 < total →
        exec (.scrubRead stack 0) s =
          .next ((s.setStack i { s.stack i with scrubPos := p + 1 }).setF (HBM_SCRUB_POS i) 15 0 ((p + 1) * 65536 / total))) ∧
      (total ≤ p + 1 →
        ∃ t, exec (.scrubRead stack 0) s = .next t ∧ (t.stack i).scrubPos = 0 ∧ t.bit (hEVT (pgHBM i)) 6 = true ∧ t.f (HBM_SCRUB_POS i) 15 0 = 0 ∧
          t.f (HBM_SCRUB_POS i) 31 16 = (s.f (HBM_SCRUB_POS i) 31 16 + 1) % 65536))

/-! Images, the window and the sequencers (R384 to R412). -/

/-- A LOAD_IMAGE job with its image: one that cannot be read or that R404 refuses completes with the code; an INSTALL stores the image, after a changeover of its personality where one runs; a LOAD fills the sequencer's inactive bank; a LOAD_SWAP also asks for the swap and keeps its record for it. STORE_RELOAD brings a core the store's image of a personality. Where the spec is silent it takes the model's reading: log entries 81, 128. Its commands: INSTALL, LOAD, LOAD_SWAP, STORE_RELOAD. -/
def Obligations.Images : Prop :=
  (∀ (r : RingId) (b : List Byte) (s : State), s.jobDue r.val 7 b → s.jobHostWaits r.val (leAt b 0x12 1 == 0) = false →
    let j := jobRefOf r.val b
    let act := leAt b 0x10 1
    let q := leAt b 0x11 1
    let u := (s.jobTaken r.val b).latch 40 2
    let x := u.imgRead r.val b
    let v := u.jobReadCount (leAt b 0x12 1 == 1) (leAt b 0x18 8) x.2.length
    let c := v.imgCheck act q (leAt b 0x14 4) x.2
    let refused (t : State) : Prop :=
      (act = 0 → exec (.install r) s = .next t) ∧ (act = 1 → exec (.load r) s = .next t) ∧ (act = 2 → exec (.loadSwap r) s = .next t)
    (x.1 ≠ 0 → refused (v.imgRefuse j act q [] 0 x.1)) ∧
    (x.1 = 0 → c ≠ 0 → refused (v.imgRefuse j act q x.2 c 0x30)) ∧
    (x.1 = 0 → c = 0 →
      (act = 0 → v.changing (leAt x.2 9 1) = none → exec (.install r) s = .next (v.storeImage j x.2)) ∧
      (act = 0 → v.changing (leAt x.2 9 1) ≠ none →
        exec (.install r) s = .next { v with store := { v.store with waiting := v.store.waiting ++ [(j, x.2)] } }) ∧
      (act = 1 → exec (.load r) s = .next (((v.imgLoad q x.2).event pgCSW 0).finishJob j 0 (imgBody x.2 0) 0)) ∧
      (act = 2 →
        ∃ t, exec (.loadSwap r) s = .next t ∧ (t.seq q).swapReq = some none ∧ (t.seq q).swapJob = some (j, imgBody x.2 0) ∧
          (t.seq q).inactive = ({ imgBank x.2 2 (imgWord x.2) with image := if q < 36 then [] else x.2 } : Bank) ∧
          (t.seq q).active = (v.seq q).active ∧ ∀ k, k ≠ q → t.seq k = v.seq k))) ∧
  (∀ (core : CoreId) (p : Fin 16) (s : State), s.clocked = true → 1 ≤ p.val → p.val ≤ 8 →
    exec (.storeReload core p) s = .next (s.storeReload core.val p.val))

/-- A requested swap waits while the sequencer runs an event routine, and until its next idle point; there, with the inactive bank VALID, it takes place. Its commands: BANK_SWAP. -/
def Obligations.SwapsWait : Prop :=
  ∀ (q : SeqId) (s : State) (e : Option Nat), s.clocked = true → (s.seq q.val).swapReq = some e →
    ((s.seq q.val).inEvent = true → exec (.bankSwap q) s = .next s) ∧
    (s.idlePoint q.val = false → exec (.bankSwap q) s = .next s) ∧
    (s.idlePoint q.val = true → (s.seq q.val).inactive.st = 2 →
      ∃ t, exec (.bankSwap q) s = .next t ∧
        t = (let u := s.bankSwapped q.val (e.getD (s.seq q.val).inactive.entry)
             if (s.seq q.val).swapJob.isSome then u else u.event pgCSW 0)) ∧
    ∀ a, let y := (s.seq q.val).swapTo a
      y.activeB = (!(s.seq q.val).activeB) ∧ y.stack = [] ∧ y.g = [] ∧ y.lc = [] ∧ y.era = 0 ∧ y.inEvent = false ∧ y.pc = a ∧
        y.pend = (s.seq q.val).pend

/-- The CSW page through a served access. A keyed CSW_KICK latches event 15 of a sequencer that exists. A keyed CSW_SWAP is refused with the event, or asks for the swap, a window bank becoming VALID; a wrong key is ignored. A read of DATA0 fetches the selected word; a write of DATA3 is refused or puts the word into the selected bank. A keyed CSW_REVOKE revokes a slot while another valid one is left. Where the spec is silent it takes the model's reading: log entries 22, 48, 129. Its commands: CSW_KICK, CSW_SWAP, CSW_DATA0_READ, CSW_DATA3_WRITE, CSW_REVOKE. -/
def Obligations.StoreWindow : Prop :=
  ∀ (who : Who) (s : State), s.served who pgCSW = true →
    let u := s.noted who pgCSW
    (∀ v : W32,
      let q := fld v 5 0
      (fld v 15 8 ≠ 0x3C → exec (.cswKick who v) s = .next (u.told who)) ∧
      (fld v 15 8 = 0x3C → q ≤ 40 → exec (.cswKick who v) s = .next ((u.latch q 15).told who)) ∧
      (fld v 15 8 = 0x3C → 40 < q → exec (.cswKick who v) s = .next ((u.event pgCSW 4).told who))) ∧
    (∀ v : W32,
      let q := fld v 5 0
      let b := (u.seq q).inactive
      (fld v 15 8 ≠ 0x5C → exec (.cswSwap who v) s = .next (u.told who)) ∧
      (fld v 15 8 = 0x5C → (40 < q ∨ u.winAllowed q = false ∨ (b.st ≠ 2 ∧ ¬ (b.source = 3 ∧ b.st = 1))) →
        exec (.cswSwap who v) s = .next ((u.event pgCSW 4).told who)) ∧
      (fld v 15 8 = 0x5C → q ≤ 40 → u.winAllowed q = true → (b.st = 2 ∨ (b.source = 3 ∧ b.st = 1)) →
        ∃ t, exec (.cswSwap who v) s = .next t ∧ (t.seq q).swapReq = some (if b.source = 3 then some (fld v 29 16) else none) ∧
          (t.seq q).inactive.st = 2 ∧ (t.seq q).inactive.words = b.words ∧ t.regs = s.regs)) ∧
    (let w := bankWord s.cswSeq s.cswBank (s.f CSW_ADDR 13 0)
     ∃ t, exec (.cswData0Read who) s = .next t ∧ t.outbox = (s.toldWord who (BitVec.ofNat 32 w.toNat)).outbox ∧
       (∀ k, k < 4 → t.reg (CSW_DATA k) = BitVec.ofNat 32 (w.toNat >>> (32 * k))) ∧
       t.f CSW_ADDR 13 0 = (if s.bit CSW_ADDR 31 then (s.f CSW_ADDR 13 0 + 1) % 16384 else s.f CSW_ADDR 13 0) ∧ t.seqs = s.seqs) ∧
    (∀ v : W32,
      let u := u.setReg (CSW_DATA 3) v
      let q := u.cswSeq
      let sel := u.bit CSW_SEL 8
      let w : W128 := BitVec.ofNat 128 ((span 0 4).foldl (fun n k => n + (u.reg (CSW_DATA k)).toNat * 2 ^ (32 * k)) 0)
      ((u.winAllowed q = false ∨ sel = (u.seq q).activeB) → exec (.cswData3Write who v) s = .next ((u.event pgCSW 4).told who)) ∧
      (u.winAllowed q = true → sel ≠ (u.seq q).activeB →
        ∃ t, exec (.cswData3Write who v) s = .next t ∧ (t.seq q).inactive.st = 1 ∧ (t.seq q).inactive.source = 3 ∧
          bankWord q (t.seq q).inactive (u.f CSW_ADDR 13 0) = w ∧ (t.seq q).active = (u.seq q).active)) ∧
    (∀ v : W32,
      let k := fld v 1 0
      let left := (span 0 4).any fun i => i != k && u.bit CSW_KEYS i && !u.bit CSW_KEYS (4 + i)
      (fld v 15 8 = 0x96 → left = true → exec (.cswRevoke who v) s = .next ((u.setB CSW_KEYS (4 + k) true).told who)) ∧
      ((fld v 15 8 ≠ 0x96 ∨ left = false) → exec (.cswRevoke who v) s = .next (u.told who)))

/-- The end of a word whose ALU, unit operation and commit are done and that does not fault: its SEQ field forms the next address from the word's own, COND as it stood at the word's start, the stack, the counter or the work queue. Where the spec is silent it takes the model's reading: log entries 7, 54, 55. Its commands: NEXT, JUMP, CJUMP, CALL, RET, LOOP, DISPATCH, HALT. -/
def Obligations.WordEnds : Prop :=
  ∀ (q : SeqId) (s : State),
    let k := q.val
    let w := s.word k
    let u := ((s.wordAlu k).wordUnit k).wordCommit k
    let x := u.seq k
    let c := mwTarget w
    let ends (y : Seqr) : Host.Outcome State Fault Refusal := .next (u.draw.setSeq k y)
    s.seqReady k = true → x.phase = 3 → x.overrun w = false → (mwYield w = true ∨ x.wdog + mwCyc w + 1 < 65536) →
    (mwSeq w = 0 → exec (.next q) s = ends (x.toPc w (x.pc + 1))) ∧
    (mwSeq w = 1 → exec (.jump q) s = ends (x.toPc w c)) ∧
    (mwSeq w = 2 → exec (.cjump q) s = ends (x.toPc w (if x.cond then c else x.pc + 1))) ∧
    (mwSeq w = 3 →
      (x.cond = true → exec (.call q) s = ends { x.toPc w c with stack := (x.pc + 1) :: x.stack }) ∧
      (x.cond = false → exec (.call q) s = ends (x.toPc w (x.pc + 1)))) ∧
    (mwSeq w = 4 →
      (x.cond = false → x.pc < 0x3FFF → exec (.ret q) s = ends (x.toPc w (x.pc + 1))) ∧
      (∀ a rest, x.cond = true → x.inEvent = false → x.stack = a :: rest → exec (.ret q) s = ends { x.toPc w a with stack := rest }) ∧
      (x.cond = true → x.inEvent = true → x.stack.length = x.depthE →
        ∃ t, exec (.ret q) s = .next t ∧ (t.seq k).pc = x.era ∧ (t.seq k).inEvent = false ∧ (t.seq k).stack = x.stack ∧ t.regs = u.regs)) ∧
    (mwSeq w = 5 →
      (x.counter (mwLoopSel w) = 0 → exec (.loop q) s = ends (x.toPc w (x.pc + 1))) ∧
      (x.counter (mwLoopSel w) ≠ 0 → x.lcWrite = none →
        exec (.loop q) s = ends ((x.toPc w c).setCounter (mwLoopSel w) (x.counter (mwLoopSel w) - 1)))) ∧
    (mwSeq w = 6 →
      (∀ o rest, x.work = o :: rest →
        ∃ t, exec (.dispatch q) s = .next t ∧ (t.seq k).pc = c + o.toNat ∧ (t.seq k).work = rest ∧ (t.seq k).inEvent = false ∧
          (t.seq k).stack = (if x.inEvent then [] else x.stack)) ∧
      (x.work = [] →
        ∃ t, exec (.dispatch q) s = .next t ∧ (t.seq k).pc = x.pc ∧ (t.seq k).run = 2 ∧ (t.seq k).wdog = x.wdog)) ∧
    (mwSeq w = 7 → ∃ t, exec (.halt q) s = .next t ∧ (t.seq k).run = 0 ∧ (t.seq k).inEvent = false)

/-- A whole word with SEQ NEXT, no unit operation and no commit, from its start: the ALU's result goes to DST where the word writes one, its flags to the flags where the word sets them, and nothing else of the sequencer's registers, no register of a block and no memory changes. Where the spec is silent it takes the model's reading: log entries 7, 15. Its commands: NEXT. -/
def Obligations.WordEffects : Prop :=
  ∀ (q : SeqId) (s : State) (o : AluOut),
    let k := q.val
    let w := s.word k
    let x := s.seq k
    s.seqReady k = true → x.phase = 0 → s.wordFault k = none → mwSeq w = 0 → mwUnitOp w = 0 → mwCommit w = false → x.busWait = false →
    (mwYield w = true ∨ x.wdog + mwCyc w + 1 < 65536) →
    alu (mwAluOp w) (x.reg (mwSrcA w)) (x.operandB w) x.c s.freeWord (Config.freeBool (s.fresh + 1)) (Config.freeBool (s.fresh + 2)) = some o →
    ∃ t, exec (.next q) s = .next t ∧ (t.seq k).pc = x.pc + 1 ∧ (t.seq k).phase = 0 ∧
      (∀ i, i < 64 → (t.seq k).reg i = if i = mwDst w ∧ mwWrDst w = true ∧ o.flagsOnly = false then o.x else x.reg i) ∧
      ((t.seq k).z, (t.seq k).n, (t.seq k).c, (t.seq k).v) = (if mwFlg w then (o.flags.z, o.flags.n, o.flags.c, o.flags.v) else (x.z, x.n, x.c, x.v)) ∧
      (∀ i, (t.seq k).counter i = match o.lc with
        | some n => if i = mwLoopSel w then n else x.counter i
        | none => x.counter i) ∧
      (t.seq k).stack = x.stack ∧ (t.seq k).inEvent = x.inEvent ∧ (t.seq k).pend = x.pend ∧ (t.seq k).shadow = x.shadow ∧
      t.regs = s.regs ∧ t.hbm = s.hbm ∧ t.host = s.host ∧ t.outbox = s.outbox ∧ ∀ j, j ≠ k → t.seq j = s.seq j

/-- A word's unit operation, with the word's ALU done: what it does by its number, with UNIT_ARG as the word gives it. The word's ALU and its commit as steps of their own. Where the spec is silent it takes the model's reading: log entries 52, 53, 56, 58, 59. Its commands: MICROWORD_ALU, BUS_RD, BUS_WR, REG_RD, REG_WR, COMMIT, EVT_MASK, DCH, TIMER, STAGE_START, SQ_WRITE, SQ_PUSH, RC_SNAP, BITS_PUT, BITS_GET. -/
def Obligations.UnitOperations : Prop :=
  ∀ (q : SeqId) (s : State),
    let k := q.val
    let w := s.word k
    let op := mwUnitOp w
    let arg := mwUnitArg w
    let a := s.wordAlu k
    let v := a.setSeq k { a.seq k with phase := 2, lastUnit := (op, arg) }
    let x := v.seq k
    let d := v.core k
    s.seqReady k = true → s.wordFault k = none →
    ((s.seq k).phase = 0 → exec (.microwordAlu q) s = .next a) ∧
    ((s.seq k).phase = 2 → (s.seq k).busWait = false → mwCommit w = true →
      exec (.commit q) s = .next ((s.publishAll k).setSeq k { (s.publishAll k).seq k with phase := 3 })) ∧
    (((s.seq k).phase = 0 ∨ (s.seq k).phase = 1) →
      (op = 1 → exec (.busRd q) s = .next (v.unitBusRd k) ∧
        ∀ g, v.busPlace (x.regPair (arg % 64)) = .loc g → v.inHbm g 4 = true → v.inject = none →
          ∃ t, exec (.busRd q) s = .next t ∧ (t.seq k).busData = BitVec.ofNat 32 (leNat (v.hbmBytes g 4)) ∧ (t.seq k).busAbort = false ∧
            (t.seq k).busPoison = v.poisoned g 4 ∧ t.hbm = s.hbm) ∧
      (op = 2 → exec (.busWr q) s = .next (v.unitBusWr k)) ∧
      (op = 3 → exec (.regRd q) s = .next (v.unitRegRd k) ∧
        ∀ y, tabGet (fun _ => none) x.shadow (seqReg k arg) = some y → exec (.regRd q) s = .next (v.setSeq k { x with busData := y })) ∧
      (op = 4 → exec (.regWr q) s = .next (v.setSeq k (if seqRefuses k (seqReg k arg) then { x with newRefused := true }
        else { x with shadow := tabPut (fun _ => none) x.shadow (seqReg k arg) (some x.x) }))) ∧
      (op = 5 → exec (.evtMask q) s = .next (v.setSeq k { x with enable := BitVec.ofNat 16 arg })) ∧
      (op = 6 → exec (.dch q) s = .next (v.unitDch k)) ∧
      (op = 7 → exec (.timer q) s = .next (v.setSeq k { x with timer := arg })) ∧
      (op = 8 → exec (.stageStart q) s = .next (v.setCore k { d with stages := d.stages ||| BitVec.ofNat 8 (1 <<< (arg % 8)) })) ∧
      (op = 9 → exec (.sqWrite q) s = .next (v.setCore k { d with wordBuf := tabPut (fun _ => 0) d.wordBuf (arg % 8) x.x })) ∧
      (op = 10 → exec (.sqPush q) s = .next (v.unitSqPush k)) ∧
      (op = 11 → exec (.rcSnap q) s = .next (v.unitSnap k)) ∧
      (op = 12 →
        exec (.bitsPut q) s =
          .next (v.setCore k { d with bitsOut := d.bitsOut ++ (List.range (arg % 32 + 1)).map fun i => x.x.getLsbD (arg % 32 - i) })) ∧
      (op = 13 → exec (.bitsGet q) s = .next (v.unitBitsGet k)))

/-- Events of a live sequencer. The lowest event that is latched and enabled is taken after a YIELD word or at an idle point, outside event routines: its latch clears, the others stay, the address the word formed is in ERA, and the sequencer goes on at the event's vector. A timer that is due latches the sequencer type's TIMER event; a stage that ends is no longer busy; a watchdog that reaches its limit faults a running sequencer with WDOG. Where the spec is silent it takes the model's reading: log entries 54, 57. Its commands: EVENT_TAKEN, SEQ_TIMER_EXPIRY, SEQ_WATCHDOG, STAGE_DONE. -/
def Obligations.SequencerEvents : Prop :=
  ∀ s : State,
    (∀ (q : SeqId) (e : Nat), s.seqLive q.val = true → (s.seq q.val).due = some e →
      (∃ t, exec (.eventTaken q) s = .next t ∧ (t.seq q.val).pc = 2 * e ∧ (t.seq q.val).inEvent = true ∧ (t.seq q.val).lastEvent = e ∧
        (t.seq q.val).depthE = (s.seq q.val).stack.length ∧ (t.seq q.val).stack = (s.seq q.val).stack ∧
        ((s.seq q.val).run ≠ 0 → (t.seq q.val).era = (s.seq q.val).pc) ∧
        (∀ i, i < 16 → (t.seq q.val).pend.getLsbD i = ((s.seq q.val).pend.getLsbD i && i != e)) ∧
        (t.seq q.val).g = (s.seq q.val).g ∧ t.regs = s.regs) ∧
      (e < 16 ∧ ((s.seq q.val).pend &&& (s.seq q.val).enable).getLsbD e = true ∧
        ∀ i, i < e → ((s.seq q.val).pend &&& (s.seq q.val).enable).getLsbD i = false)) ∧
    (∀ q : SeqId, ((s.seq q.val).due = none ∨ (s.seq q.val).inEvent = true) → exec (.eventTaken q) s = .next s) ∧
    (∀ q : SeqId, s.seqLive q.val = true → (s.seq q.val).timer ≠ 0 →
      exec (.seqTimerExpiry q) s =
        .next ((s.setSeq q.val { s.seq q.val with timer := 0 }).latch q.val (if q.val < 36 ∨ q.val = 40 then 5 else 6))) ∧
    (∀ (c : CoreId) (stage : Fin 8), s.seqLive c.val = true →
      exec (.stageDone c stage) s =
        .next (s.setCore c.val { s.core c.val with stages := (s.core c.val).stages &&& ~~~BitVec.ofNat 8 (1 <<< stage.val) })) ∧
    (∀ q : SeqId, s.seqLive q.val = true → (s.seq q.val).run = 1 → exec (.seqWatchdog q) s = .next (s.seqFault q.val 1))

/-! Media (R415 to R451). -/

/-- Frames and packets as they arrive. Every frame on a live Ethernet port is counted; one that fails a check, and a pause frame, only in their counters beside; a frame that matches a flow is that flow's, another goes to the host where its filter accepts it, else it is counted. A packet of a flow that runs: a bad one is only counted, a copy that the merge does not use changes nothing more, a used one joins its picture or its unit. A number whose deadline passes is lost; a flow that has fallen silent closes its pictures. HTX_CMD queues the frame of the handle register, which the port then owns, or is refused with the event where 64 wait; outside Ethernet mode the frame is released with a record that says no time. A queued frame leaves the port. Where the spec is silent it takes the model's reading: log entries 30, 84. Its commands: ETHERNET_FRAME_RECEIVE, MEDIA_PACKET_RECEIVE, LOSS_DEADLINE, PICTURE_SILENCE_TIMEOUT, HTX_CMD, HOST_FRAME_SENT. -/
def Obligations.MediaReceive : Prop :=
  ∀ s : State,
    (∀ (port : PortId) (fr : Frame), s.engineUp port.val = true → s.etherUp port.val = true →
      let n := port.val
      let u := s.inc (MPE_RX_FRAMES n)
      let len := fr.bytes.length + 4
      let bad := len < 64 ∨ u.f (MPE_PORT_CTL n) 29 16 < len ∨ fr.fcsOk = false ∨ 1 < frameTags fr
      (bad → exec (.ethernetFrameReceive port fr) s = .next (u.satF (MPE_RX_ERR n) 15 0)) ∧
      (¬ bad → framePause fr = true → exec (.ethernetFrameReceive port fr) s = .next (u.satF (MPE_RX_ERR n) 31 16)) ∧
      (¬ bad → framePause fr = false →
        (∀ f b p, u.flowMatch n fr = some (f, b, p) → exec (.ethernetFrameReceive port fr) s = .next (u.rxPacket f b p)) ∧
        (u.flowMatch n fr = none → u.hostFilter n (frameMac fr) = true → exec (.ethernetFrameReceive port fr) s = .next (u.hostFrame n fr)) ∧
        (u.flowMatch n fr = none → u.hostFilter n (frameMac fr) = false →
          exec (.ethernetFrameReceive port fr) s = .next (u.satF (MPE_RX_FILTERED n) 31 0)))) ∧
    (∀ (flow : FlowId) (pathB : Bool) (p : MediaPacket),
      let f := flow.val
      let u := s.inc (if pathB then RXC_PKTS_B f else RXC_PKTS_A f)
      let bad := p.good = false ∨ (u.f (RXF_CTL f) 22 16 ≠ 0 ∧ p.payloadType ≠ u.f (RXF_CTL f) 22 16)
      (s.rxRuns f = true ∨ ((s.rxf f).draining = true ∧ s.engineUp (f / 16) = true)) →
      (bad → exec (.mediaPacketReceive flow pathB p) s = .next (u.satF (RXC_BAD f) 15 0)) ∧
      (¬ bad → u.bit (RXF_CTL f) 2 = false →
        let num := p.seq % 2 ^ 32
        let r := u.rxMerge f num pathB
        let ahead := (u.rxf f).next == 0 || num == (u.rxf f).next % 2 ^ 32 || seqBefore (u.rxf f).next num
        (r.2 = false → exec (.mediaPacketReceive flow pathB p) s = .next r.1) ∧
        (r.2 = true → exec (.mediaPacketReceive flow pathB p) s = .next (r.1.rxVideo f p num ahead))) ∧
      (¬ bad → u.bit (RXF_CTL f) 2 = true →
        (u.decSession f = none → exec (.mediaPacketReceive flow pathB p) s = .next u) ∧
        (∀ n, u.decSession f = some n →
          let num := seqExtend (u.rxf f).next (p.seq % 65536)
          let r := u.rxMerge f num pathB
          (r.2 = false → exec (.mediaPacketReceive flow pathB p) s = .next r.1) ∧
          (r.2 = true → exec (.mediaPacketReceive flow pathB p) s = .next ((r.1.rxStage f n p num).rxSettle f))))) ∧
    (∀ flow : FlowId,
      let f := flow.val
      s.engineUp (f / 16) = true →
      (∀ n rest, (s.rxf f).missing = n :: rest →
        let v := ((s.setRxf f { s.rxf f with missing := rest }).satF (RXC_LOST f) 31 0).event (pgMPE (f / 16)) 0
        (v.bit (RXF_CTL f) 2 = false → exec (.lossDeadline flow) s = .next ((v.rxLostLines f n).rxCloses f 5)) ∧
        (v.bit (RXF_CTL f) 2 = true → v.decSession f = none → exec (.lossDeadline flow) s = .next v) ∧
        (∀ m, v.bit (RXF_CTL f) 2 = true → v.decSession f = some m →
          exec (.lossDeadline flow) s = .next ((v.rxPass f m ((v.rxf f).staged.length + rest.length + 2)).rxSettle f))) ∧
      exec (.pictureSilenceTimeout flow) s = .next (s.each ((s.rxf f).pics.map RxPic.ts) fun t o => t.rxClose f o true)) ∧
    (∀ (who : Who) (port : PortId) (v : W32),
      let n := port.val
      let u := s.noted who (pgMPE n)
      let h := u.reg (MPE_HTX_HANDLE n)
      let r := u.poolTransfer 64 h (44 + n)
      s.served who (pgMPE n) = true →
      (64 ≤ (u.htxq n).length → exec (.htxCmd who port v) s = .next ((u.event (pgMPE n) 6).told who)) ∧
      ((u.htxq n).length < 64 →
        (∀ g c, r.2 = .ok g c → u.portMode n = 3 →
          exec (.htxCmd who port v) s =
            .next ((r.1.setHtxq n (r.1.htxq n ++ [{ handle := h, len := fld v 13 0, oneStep := bitAt v 14, tsOffset := fld v 29 16 }])).told who)) ∧
        (∀ g c, r.2 = .ok g c → u.portMode n ≠ 3 →
          exec (.htxCmd who port v) s = .next (((r.1.poolRelease (44 + n) h).1.frameRecord n 0x13 0 0 h false).told who)) ∧
        (∀ c, r.2 = .err c → exec (.htxCmd who port v) s = .next (r.1.told who)))) ∧
    (∀ port : PortId, s.engineUp port.val = true → s.etherUp port.val = true →
      exec (.hostFrameSent port) s = .next (s.frameSent port.val) ∧ (s.htxq port.val = [] → exec (.hostFrameSent port) s = .next s))

/-- Flows as they are switched, and what a transmit flow sends. FLOW_ENABLE of an idle flow whose check passes sets EN, a receive flow starting with nothing kept; a failed check sets the event; a flow that runs or still ends ignores it. FLOW_DRAIN stops a flow that runs, a receive flow keeping its open pictures with EN 0; FLOW_ABORT stops one that runs or drains. A picture handed over is let go where the flow does not run, carries slices, or the media time stands still, else it is the flow's picture, in place of the one before. The next packet is due of the picture, or of the oldest slice, which waits with the event while the media time stands still. Where the spec is silent it takes the model's reading: log entries 84, 85. Its commands: FLOW_ENABLE, FLOW_DRAIN, FLOW_ABORT, TX_HANDOVER, TX_PACKET_DUE. -/
def Obligations.MediaTransmit : Prop :=
  (∀ (who : Who) (tx : Bool) (flow : FlowId) (s : State),
    let f := flow.val
    let p := pgMPE (f / 16)
    let u := s.noted who p
    let ok := if tx then (u.txPorts f).all fun q => u.pathMode q.1 else u.rxCheck f
    s.served who p = true →
    ((u.bit (flowCtl tx f) 0 = true ∨ u.flowActive tx f = true) → exec (.flowEnable who tx flow) s = .next (u.told who)) ∧
    (u.bit (flowCtl tx f) 0 = false → u.flowActive tx f = false →
      (ok = true →
        ∃ t, exec (.flowEnable who tx flow) s = .next t ∧ t.bit (flowCtl tx f) 0 = true ∧
          (tx = false → (t.rxf f).pics = [] ∧ (t.rxf f).next = 0 ∧ (t.rxf f).missing = [] ∧ t.f (RXC_SKEW f) 31 16 = 0)) ∧
      (ok = false → exec (.flowEnable who tx flow) s = .next ((u.event p 8).told who))) ∧
    (u.bit (flowCtl tx f) 0 = false → exec (.flowDrain who tx flow) s = .next (u.told who)) ∧
    (u.bit (flowCtl tx f) 0 = true →
      exec (.flowDrain who tx flow) s = .next ((u.flowDrain tx f).told who) ∧
      (tx = false → ∃ t, exec (.flowDrain who tx flow) s = .next t ∧ t.bit (flowCtl tx f) 0 = false ∧ (t.rxf f).pics = (u.rxf f).pics)) ∧
    (u.bit (flowCtl tx f) 0 = false → u.flowActive tx f = false → exec (.flowAbort who tx flow) s = .next (u.told who)) ∧
    ((u.bit (flowCtl tx f) 0 = true ∨ u.flowActive tx f = true) → exec (.flowAbort who tx flow) s = .next ((u.flowAbort tx f).told who))) ∧
  (∀ (flow : FlowId) (a : Nat) (h : W32) (o : TxPic) (s : State),
    let f := flow.val
    let u := s.setTxf f { s.txf f with offers := (s.txf f).offers.filter fun e => !(e.agent == a && e.handle == h) }
    let drop (t : State) : State := (t.poolRelease o.agent o.handle).1
    s.engineUp (f / 16) = true → ((s.txf f).offers.find? fun e => e.agent == a && e.handle == h) = some o →
    (u.txRuns f = false → exec (.txHandover flow a h) s = .next (drop u)) ∧
    (u.txRuns f = true → u.bit (TXF_CTL f) 2 = true → exec (.txHandover flow a h) s = .next (drop (u.event (pgMPE (f / 16)) 9))) ∧
    (u.txRuns f = true → u.bit (TXF_CTL f) 2 = false → u.mtcOn = false →
      exec (.txHandover flow a h) s = .next (drop (u.event (pgMPE (f / 16)) 5))) ∧
    (u.txRuns f = true → u.bit (TXF_CTL f) 2 = false → u.mtcOn = true → (u.txf f).pics = [] →
      exec (.txHandover flow a h) s = .next (u.setTxf f { u.txf f with pics := [o], late := false })) ∧
    (∀ p, u.txRuns f = true → u.bit (TXF_CTL f) 2 = false → u.mtcOn = true → (u.txf f).pics = [p] →
      let w := (u.satF (TXC_LATE f) 15 0 ((u.txLine f p).1 * p.height - p.next)).txDrop [p] []
      exec (.txHandover flow a h) s = .next (w.setTxf f { w.txf f with pics := [o], late := false }))) ∧
  (∀ (flow : FlowId) (s : State),
    let f := flow.val
    (s.txRuns f = true ∨ ((s.txf f).draining = true ∧ s.engineUp (f / 16) = true)) →
    (∀ p rest, (s.txf f).pics = p :: rest → exec (.txPacketDue flow) s = .next (s.txVideoDue f p)) ∧
    (∀ x rest, (s.txf f).pics = [] → (s.txf f).units = x :: rest →
      (s.mtcOn = true → exec (.txPacketDue flow) s = .next (s.txSliceDue f x)) ∧
      (s.mtcOn = false → exec (.txPacketDue flow) s = .next (s.event (pgMPE (f / 16)) 5))) ∧
    ((s.txf f).pics = [] → (s.txf f).units = [] → exec (.txPacketDue flow) s = .next s))

/-- The media time. LOAD takes the time that the SET registers hold, ADJ adds its amount, each counted, with STEPPED set, SUSPECT cleared and a slew dropped; SLEW keeps its amount to be applied, and is done at once where that is 0; a slew in progress ends with its amount applied and SLEW_DONE. A read of MTC_NS answers the nanoseconds and latches the seconds. Where the spec is silent it takes the model's reading: log entry 85. Its commands: MTC_LOAD, MTC_ADJ, MTC_SLEW, SLEW_DONE, MTC_NS_READ. -/
def Obligations.MediaTime : Prop :=
  (∀ (who : Who) (s : State), s.served who pgMTC = true →
    (∃ t, exec (.mtcLoad who) s = .next t ∧ t.mtc.time.sec.toNat = s.pair MTC_SET_SEC_LO MTC_SET_SEC_HI % 2 ^ 48 ∧ t.mtc.time.ns = s.reg MTC_SET_NS ∧
      t.mtc.slew = 0 ∧ t.bit (hEVT pgMTC) 0 = true ∧ t.reg MTC_STEPS = s.reg MTC_STEPS + 1 ∧ t.bit MTC_STATUS 0 = false) ∧
    (∃ t, exec (.mtcAdj who) s = .next t ∧ (t.mtc.time.nat : Int) = ((s.mtc.time.nat : Int) + (s.reg MTC_ADJ).toInt) % (2 ^ 48 * 1000000000) ∧
      t.mtc.slew = 0 ∧ t.bit (hEVT pgMTC) 0 = true ∧ t.reg MTC_STEPS = s.reg MTC_STEPS + 1 ∧ t.bit MTC_STATUS 0 = false) ∧
    (∃ t, exec (.mtcSlew who) s = .next t ∧ t.mtc.time = s.mtc.time ∧ t.mtc.slew = (s.reg MTC_ADJ).toInt * 16000000000 ∧
      t.bit (hEVT pgMTC) 2 = (s.bit (hEVT pgMTC) 2 || s.reg MTC_ADJ == 0)) ∧
    (∃ t, exec (.mtcNsRead who) s = .next t ∧ t.outbox = (s.toldWord who s.mtc.time.ns).outbox ∧
      t.pair MTC_SEC_LO MTC_SEC_HI = s.mtc.time.sec.toNat ∧ t.mtc = s.mtc)) ∧
  (∀ s : State, s.clocked = true → s.mtcOn = true → s.mtc.slew ≠ 0 →
    ∃ t, exec .slewDone s = .next t ∧ t.mtc.slew = 0 ∧ t.bit (hEVT pgMTC) 2 = true ∧
      (t.mtc.time.nat : Int) = ((s.mtc.time.nat : Int) + (s.mtc.frac + s.mtc.slew) / 16000000000) % (2 ^ 48 * 1000000000) ∧
      t.mtc.frac = (s.mtc.frac + s.mtc.slew) % 16000000000)

/-! The fabric and espalier spanning (R452 to R493). -/

/-- Ports. TPT_MODE of a disabled port takes its low six bits, a partner in CASTLE mode goes DOWN when the port leaves it, CASTLING tells a castling pair; of an enabled port it changes nothing. EN of a native port starts its training; the link comes up with its credits, and an Ethernet link comes up. A native link that goes down trains again while the clocks run; a training that takes too long starts again. A NAK replays what is not acknowledged, or after 16 resets the link, as no acknowledgement does; an acknowledgement frees the flits it counts; credits come back, and beyond the buffer are an error. A probe is sent from a port that can, answered, and its answer kept, or its time ends. A port whose primary has been up long enough takes its traffic back. A route entry is written, but for nodes 0 and 4095. Where the spec is silent it takes the model's reading: log entries 33, 34, 35, 36, 39, 131. Its commands: TPT_MODE_WRITE, LINK_TRAINING_START, TOLAC_LINK_UP, LINK_TRAINING_TIMEOUT, TOLAC_LINK_DOWN, FLIT_NAK, LINK_ACK_TIMEOUT, PROBE, PROBE_ANS, PROBE_GO, PROBE_TIMEOUT, FAILBACK, ROUTE_ENTRY_WRITE, ETHERNET_LINK_DOWN, ETHERNET_LINK_UP, CREDIT_RETURN, FLIT_ACK. -/
def Obligations.Ports : Prop :=
  (∀ (who : Who) (port : PortId) (s : State),
    let n := port.val
    let p := pgTPT n
    let u := s.noted who p
    let m := portPartner n
    (∀ v : W32, s.served who p = true →
      ((s.bit (hCTL p) 0 = true ∨ s.inDrain p = true) → exec (.tptModeWrite who port v) s = .next (u.refUpdate.told who)) ∧
      (s.bit (hCTL p) 0 = false → s.inDrain p = false →
        ∃ t, exec (.tptModeWrite who port v) s = .next t ∧ t.reg (TPT_MODE n) = v &&& 0x3F ∧
          t.portMode m = (if fld v 1 0 ≠ 0 ∧ s.portMode m = 0 then 1 else s.portMode m) ∧
          t.bit (TPT_LINK n) 1 = (fld v 1 0 == 0 && t.portMode m == 0) ∧ t.bit (TPT_LINK m) 1 = t.bit (TPT_LINK n) 1)) ∧
    (s.servedHdr who p = true → s.busy p = false → s.portMode n = 2 → s.bit (hCTL p) 0 = false → s.pageActive p = false →
      exec (.linkTrainingStart who port) s = .next ((((u.setB (hCTL p) 1 false).setB (hCTL p) 0 true).trainLink n).told who)) ∧
    (s.served who p = true →
      (s.bit (TPT_PROBE_CTL n) 0 = false → s.portTakes n = true →
        exec (.probeGo who port) s = .next (((u.setReg (TPT_PROBE_CTL n) 1).portSend n (probeHeader 0 s.nodeId 0) []).told who)) ∧
      ((s.bit (TPT_PROBE_CTL n) 0 = true ∨ s.portTakes n = false) → exec (.probeGo who port) s = .next (u.told who)))) ∧
  (∀ (port : PortId) (s : State),
    let n := port.val
    let p := s.port n
    s.clocked = true →
    (∀ credits rev, s.portMode n = 2 → p.training = true → s.gated (pgTPT n) = false →
      ∃ t, exec (.tolacLinkUp port credits rev) s = .next t ∧ t.bit (TPT_LINK n) 0 = true ∧ (t.port n).training = false ∧
        (∀ v, v < 4 → t.reg (TPT_CREDIT n v) = BitVec.ofNat 32 (credits.getD v 0 % 1024)) ∧ t.bit (hEVT (pgTPT n)) 0 = true) ∧
    (s.portMode n = 2 → p.training = true → exec (.linkTrainingTimeout port) s = .next (s.trainLink n)) ∧
    (s.nativeUp n = true →
      exec (.tolacLinkDown port) s = .next (if (s.linkDown n).running then (s.linkDown n).linkRetrain n else s.linkDown n)) ∧
    (s.etherUp n = true → exec (.ethernetLinkDown port) s = .next (s.linkDown n)) ∧
    (s.portMode n = 3 → s.bit (hCTL (pgTPT n)) 0 = true → s.bit (TPT_LINK n) 0 = false → s.gated (pgTPT n) = false →
      ∃ t, exec (.ethernetLinkUp port) s = .next t ∧ t.bit (TPT_LINK n) 0 = true ∧ t.bit (hEVT (pgTPT n)) 0 = true) ∧
    (s.portLive n = true →
      (p.replay = 0 → exec (.flitNak port) s = .next s ∧ exec (.linkAckTimeout port) s = .next s) ∧
      (p.replay ≠ 0 → exec (.linkAckTimeout port) s = .next (s.linkReset n)) ∧
      (p.replay ≠ 0 → 16 ≤ p.naks → exec (.flitNak port) s = .next (s.linkReset n)) ∧
      (p.replay ≠ 0 → p.naks < 16 →
        exec (.flitNak port) s =
          .next (((((s.setPort n { p with naks := p.naks + 1 }).satF (TPT_RETRY_CNT n) 15 0 p.replay).raise (154 + n) 255 0)).emit (.replay n p.oldest))) ∧
      (∀ k, exec (.flitAck port k) s = .next (s.linkAck n k)) ∧
      (∀ k, 0 < k → k ≤ p.replay → p.queue = [] →
        exec (.flitAck port k) s = .next (s.setPort n { p with replay := p.replay - k, oldest := (p.oldest + k) % 4096, naks := 0 })) ∧
      (∀ (v : Fin 4) (k : Nat), p.credits.getD v.val 0 < s.f (TPT_CREDIT n v.val) 9 0 + k →
        exec (.creditReturn port v k) s = .next ((s.event (pgTPT n) 7).linkReset n)) ∧
      (∀ (v : Fin 4) (k : Nat), s.f (TPT_CREDIT n v.val) 9 0 + k ≤ p.credits.getD v.val 0 → p.queue = [] →
        exec (.creditReturn port v k) s = .next (s.setF (TPT_CREDIT n v.val) 9 0 (s.f (TPT_CREDIT n v.val) 9 0 + k))) ∧
      (p.returning = true → exec (.failback port) s = .next (s.failback n)) ∧
      exec (.probe port) s = .next ((s.portRx n 1).portSend n (probeHeader 1 s.nodeId 16) (s.probeBytes n)) ∧
      (∀ (serial : W64) (node farPort mode : Nat), s.bit (TPT_PROBE_CTL n) 0 = true →
        ∃ t, exec (.probeAns port serial node farPort mode) s = .next t ∧ t.pair (TPT_PROBE_SER_LO n) (TPT_PROBE_SER_HI n) = serial.toNat ∧
          t.f (TPT_PROBE_ANS n) 11 0 = node % 4096 ∧ t.f (TPT_PROBE_ANS n) 14 12 = farPort % 8 ∧ t.f (TPT_PROBE_ANS n) 17 16 = mode % 4 ∧
          t.bit (TPT_PROBE_ANS n) 31 = true ∧ t.bit (TPT_PROBE_CTL n) 0 = false ∧ t.bit (hEVT (pgTPT n)) 4 = true)) ∧
    (s.gated (pgTPT n) = false → s.bit (TPT_PROBE_CTL n) 0 = true →
      exec (.probeTimeout port) s = .next ((s.setReg (TPT_PROBE_CTL n) 0).event (pgTPT n) 5))) ∧
  (∀ (who : Who) (entry : Fin 4096) (v : W32) (s : State),
    let m := entry.val
    let p := pgTRT + m / 512
    s.served who p = true →
    ((m = 0 ∨ m = 4095) → exec (.routeEntryWrite who entry v) s = .next (((s.noted who p).event pgTRT 0).told who)) ∧
    (m ≠ 0 → m ≠ 4095 →
      ∃ t, exec (.routeEntryWrite who entry v) s = .next t ∧ t.f (TRT_ENTRY m) 8 0 = v.toNat % 512 &&& 0x1F7 ∧
        (t.bit (TRT_ENTRY m) 9 = true → s.bit (TRT_ENTRY m) 9 = true ∧ fld v 2 0 = s.f (TRT_ENTRY m) 2 0)))

/-- A PROBE that arrives at a port that carries packets is answered through it, with a credit and room to send it, whatever the switch's EN and the node ID; a PROBE_ANS that arrives while no probe is outstanding leaves nothing but the count of its flit. Its commands: PROBE, PROBE_ANS. -/
def Obligations.ProbesAnswered : Prop :=
  ∀ (port : PortId) (s : State),
    let n := port.val
    s.portLive n = true →
    ((s.port n).queue = [] → 1 ≤ s.f (TPT_CREDIT n 0) 9 0 → (s.port n).replay + 1 ≤ 512 →
      ∃ t h bs, exec (.probe port) s = .next t ∧ h.ptype = 1 ∧ t.outbox = s.outbox ++ [.fabric n h bs]) ∧
    (∀ (serial : W64) (node farPort mode : Nat), s.bit (TPT_PROBE_CTL n) 0 = false →
      exec (.probeAns port serial node farPort mode) s = .next (s.inc (TPT_RX_FLITS n)))

/-- Packets that arrive at a live port, their flits counted. One in transit is forwarded with one hop less, dropped and counted without hops or without a route. A media packet for this node reaches its flow through a native path, and one for another leaves nothing more. An acknowledgement frees what it names. A request, an answer or a part for this node is received in order, and a number received before leaves nothing. Acknowledgements leave; what is not acknowledged is sent again, and where a packet's last try has passed, or a request's answer does not come, the destination is lost. Where the spec is silent it takes the model's reading: log entries 39, 41, 42, 43, 131. Its commands: FABRIC_PACKET_FORWARD, E2E_ACK, E2E_ACK_SEND, E2E_RETRANSMIT, MEM_TIMEOUT, MEDIA_RTP, MEM_RD, MEM_WR, MEM_RESP, BULK_WR, BULK_RD, BULK_RESP, ESP_PART. -/
def Obligations.Packets : Prop :=
  ∀ s : State,
    (∀ (port : PortId) (h : FabHeader) (pl : List Byte),
      let n := port.val
      let u := s.portRx n (flitsOf pl)
      s.portLive n = true → 2 ≤ h.ptype → u.switchUp = true → u.bit (hCTL pgTSW) 0 = true → u.delivers h = false →
      (13 ≤ h.ptype → exec (.fabricPacketForward port h pl) s = .next (u.satF TSW_NOROUTE 31 0)) ∧
      (h.ptype < 13 → h.hops = 0 → exec (.fabricPacketForward port h pl) s = .next ((u.satF TSW_HOPDROP 31 0).event pgTSW 3)) ∧
      (h.ptype < 13 → h.hops ≠ 0 →
        let g := { h with hops := h.hops - 1 }
        (u.route g = none → exec (.fabricPacketForward port h pl) s = .next u.noRoute) ∧
        (∀ m, u.route g = some m → exec (.fabricPacketForward port h pl) s = .next (u.portSend m g pl)))) ∧
    (∀ (port : PortId) (h : FabHeader) (pl : List Byte),
      let n := port.val
      let u := s.portRx n (flitsOf pl)
      let f := h.seq % 128
      let path := if h.alt then u.f (RXF_CTL f) 10 8 else u.f (RXF_CTL f) 6 4
      s.portLive n = true →
      (u.delivers h = true → u.portMode path = 2 → exec (.mediaRtp port h pl) s = .next (u.rxPacket f h.alt (u.rtpFor f true pl))) ∧
      ((u.delivers h = false ∨ u.portMode path ≠ 2) → exec (.mediaRtp port h pl) s = .next u)) ∧
    (∀ (port : PortId) (h : FabHeader),
      let u := s.portRx port.val (fabFlits h)
      s.portLive port.val = true →
      (u.delivers h = true → exec (.e2eAck port h) s = .next (u.e2eFree (h.src % 4096) (h.addr % 4) (h.seq % 2 ^ 32))) ∧
      (u.delivers h = false → exec (.e2eAck port h) s = .next u)) ∧
    (∀ (port : PortId) (h : FabHeader) (pl : List Byte),
      let n := port.val
      let arrives (c : Instr) (typ vc : Nat) (pl : List Byte) (part : Option PartId) : Prop :=
        let g : FabHeader := { h with ptype := typ, vc := vc, src := h.src % 4096, seq := h.seq % 2 ^ 32 }
        let u := s.portRx n (fabFlits g)
        (u.delivers g = false → exec c s = .next u) ∧
        (u.delivers g = true →
          exec c s = .next (u.e2eReceive { port := n, h := g, payload := pl, part := part }) ∧
          (g.sync = false → g.seq ≠ (u.e2eOf g.src vc).expect → seqBefore (u.e2eOf g.src vc).expect g.seq = false → exec c s = .next u))
      s.portLive n = true →
      arrives (.memRd port h) 6 2 [] none ∧ arrives (.memWr port h pl) 7 2 pl none ∧ arrives (.memResp port h pl) 8 2 pl none ∧
      arrives (.bulkWr port h pl) 9 3 pl none ∧ arrives (.bulkRd port h) 10 3 [] none ∧ arrives (.bulkResp port h pl) 11 3 pl none ∧
      ∀ (g m : Fin 8) (sec : BitVec 48) (ns : W32) (tile : Nat) (last : Bool),
        arrives (.espPart port h g m sec ns tile last pl) 12 3 pl
          (some { group := g.val, member := m.val, time := { sec := sec, ns := ns }, tile := tile, last := last })) ∧
    (s.switchUp = true →
      (∀ node vc, vc < 4 →
        exec (.e2eAckSend node vc) s = .next (s.ackSend node vc) ∧
        ((s.e2eOf node vc).unacked = 0 → exec (.e2eAckSend node vc) s = .next s) ∧
        ((s.e2eOf node vc).store = [] → exec (.e2eRetransmit node vc) s = .next s) ∧
        ((∃ e ∈ (s.e2eOf node vc).store, s.f TSW_CFG 15 8 ≤ e.2.2) → exec (.e2eRetransmit node vc) s = .next (s.peerLost node)) ∧
        ((s.e2eOf node vc).store ≠ [] → (∀ e ∈ (s.e2eOf node vc).store, e.2.2 < s.f TSW_CFG 15 8) →
          exec (.e2eRetransmit node vc) s = .next (s.e2eResend node vc))) ∧
      (∀ tag r, (s.remotes.find? fun r => r.tag == tag) = some r → exec (.memTimeout tag) s = .next (s.peerLost r.node)))

/-- Espalier groups. The anchor admits a member whose descriptor hash is its session's, else the event is set; it notes a member that leaves, and substitutes a part that does not come. A member keeps the start time, the allowances of the pictures to come, the newest of one picture; a substitution replaces its reconstruction. A neighbour's row is kept once. Where the spec is silent it takes the model's reading: log entry 37. Its commands: JOIN, GO, ALLOWANCE, SUBST, LEAVE, ESP_HALO, PART_TIMEOUT. -/
def Obligations.Espalier : Prop :=
  ∀ (group member : Fin 8) (s : State),
    let g := group.val
    let m := member.val
    let e := s.esp g
    (∀ hash : W64, s.anchorOf g m = true →
      let x := s.sess (s.espSession g)
      let same := x.phase ≠ .closed ∧ hash = Config.espHash (espFields x.desc)
      (¬ same → exec (.join group member hash) s = .next (s.event pgTSW 9)) ∧
      (same → e.startTime = none →
        exec (.join group member hash) s = .next ((s.setEsp g { e with left := e.left.filter (· != m) }).espAdmit g m)) ∧
      (same → e.startTime ≠ none → ∃ t, exec (.join group member hash) s = .next t ∧ t.bit (ESP_STAT g) m = true)) ∧
    (∀ (sec : BitVec 48) (ns : W32), s.memberOf g = true →
      exec (.go group sec ns) s = .next ((s.setEsp g { e with startTime := some { sec := sec, ns := ns } }).setB (ESP_STAT g) 8 true) ∧
      (∀ amounts,
        exec (.allowance group sec ns amounts) s =
          .next (s.setEsp g { e with allowances := (({ sec := sec, ns := ns }, amounts) :: e.allowances.filter fun a => a.1 != { sec := sec, ns := ns }).take 64 })) ∧
      exec (.subst group member sec ns) s =
        .next ((s.substCopy g (s.espSession g) m { sec := sec, ns := ns }).modSess (s.espSession g) Sess.sweepRestart)) ∧
    (s.anchorOf g m = true →
      (∃ t, exec (.leave group member) s = .next t ∧ m ∈ (t.esp g).left ∧ t.regs = s.regs) ∧
      (let ended (j : EncJob) : Bool := j.phase == .done || j.phase == .ended
       ∀ p ∈ (s.sess (s.espSession g)).pics.head?, p.started = true → (∀ j ∈ p.jobs, j.hedge < 4 → ended j = true) →
         (∃ j ∈ p.jobs, j.hedge = 4 + m ∧ ended j = false) →
         exec (.partTimeout group member) s = .next (s.espSubstitute (s.espSession g) p.idx m))) ∧
    (∀ (strip alt : Bool) (row : Nat) (sec : BitVec 48) (ns : W32) (bytes : List Byte),
      s.inject = none → s.groupUp g = true → (m + 1 = s.espSelf g ∨ m = s.espSelf g + 1) → m ≤ s.espLast g →
      (e.rows.contains (m, strip, row, { sec := sec, ns := ns }) = true → exec (.espHalo group member strip alt row sec ns bytes) s = .next s) ∧
      (e.rows.contains (m, strip, row, { sec := sec, ns := ns }) = false →
        ∃ t, exec (.espHalo group member strip alt row sec ns bytes) s = .next t ∧
          (t.esp g).rows = e.rows ++ [(m, strip, row, { sec := sec, ns := ns })]))

/-! Clocks, faults, supply and sideband (R494 to R577). -/

/-- Clocks. A failure of a reference, of a PLL or of both references, or their disagreement, is acted on while there is power. A PLL that may qualify does: PLL_A starts a module in START, either restarts one in HOLD and ends CLOCK_LOST. A HOLD that lasts too long is CLOCK_LOST. CKG_SYS.SEL switches to a qualified PLL, or is refused with the event. CKG_PLLB_CFG is taken while PLL_B is not in use. CKG_GATE stops and starts the domains it names. A measurement starts unless one runs, and ends with its count, 0 where the clock gives no edges, and the event, with TIMEOUT where it is late. Where the spec is silent it takes the model's reading: log entries 73, 74. Its commands: CLOCK_FAILURE, PLL_QUALIFIED, HOLD_TIMEOUT, CLOCK_SELECT, PLLB_CONFIG_WRITE, GATE_WRITE, FREQ_MEASURE_START, FREQ_MEASURE_DONE, FREQ_MEASURE_TIMEOUT. -/
def Obligations.Clocks : Prop :=
  (∀ s : State,
    (s.power.good = true →
      ∀ b : Bool, exec (.clockFailure .reference b false) s = .next (s.pllFail b true) ∧ exec (.clockFailure .reference b true) s = .next s.bothFail ∧
        ∀ both, exec (.clockFailure .pll b both) s = .next (s.pllFail b false) ∧ exec (.clockFailure .disagree b both) s = .next s.refDisagree) ∧
    (∀ (b : Bool) (us : Nat), s.mayQualify b = true →
      let s1 := if b then s else { s with clock := { s.clock with aEnabled := true } }
      let u := (((s1.setRef b true).setQual b true).ckgEvent (if b then 4 else 3)).noteFault 188 255 (b2n b)
      (s.clock.st = .start → exec (.pllQualified b us) s = .next (if b then u else u.startUp)) ∧
      (s.clock.st = .hold → exec (.pllQualified b us) s = .next (u.restart b us)) ∧
      (s.clock.st = .clockLost → exec (.pllQualified b us) s = .next (u.lostEnd b)) ∧
      (s.running = true → exec (.pllQualified b us) s = .next u)) ∧
    (s.clock.st = .hold → exec .holdTimeout s = .next { s with clock := { s.clock with st := .clockLost } }) ∧
    (s.clocked = true → s.bit CKG_FM_CTL 24 = true → ∀ count : W32,
      ∃ t, exec (.freqMeasureDone count) s = .next t ∧ t.bit CKG_FM_CTL 24 = false ∧ t.bit CKG_FM_CTL 25 = false ∧
        t.reg CKG_FM_COUNT = (if s.meterRuns then count else 0) ∧ t.bit (hEVT pgCKG) 9 = true) ∧
    (s.clocked = true → s.bit CKG_FM_CTL 24 = true → ∀ count : W32,
      ∃ t, exec (.freqMeasureTimeout count) s = .next t ∧ t.bit CKG_FM_CTL 24 = false ∧ t.bit CKG_FM_CTL 25 = true ∧
        t.reg CKG_FM_COUNT = (if s.meterRuns then count else 0) ∧ t.bit (hEVT pgCKG) 9 = true)) ∧
  (∀ (who : Who) (s : State), s.served who pgCKG = true →
    (∀ b : Bool,
      (s.sysPll = some b → exec (.clockSelect who b) s = .next (s.told who)) ∧
      (s.sysPll = some (!b) → s.pllQual b = true →
        ∃ t, exec (.clockSelect who b) s = .next t ∧ t.sysPll = some b ∧ t.bit CKG_SYS 0 = b ∧ t.bit CKG_SYS 8 = b ∧
          t.reg CKG_SWITCHES = s.reg CKG_SWITCHES + 1 ∧ t.bit (hEVT pgCKG) 1 = true) ∧
      (s.sysPll = some (!b) → s.pllQual b = false → exec (.clockSelect who b) s = .next ((s.event pgCKG 7).told who))) ∧
    (∀ v : W32,
      (s.sysPll = some true → exec (.pllbConfigWrite who v) s = .next (s.told who)) ∧
      (s.sysPll = some false →
        ∃ t, exec (.pllbConfigWrite who v) s = .next t ∧ t.reg CKG_PLLB_CFG = BitVec.ofNat 32 (fld v 3 0) ∧
          (fld v 3 0 ≠ s.f CKG_PLLB_CFG 3 0 → t.pllQual true = false) ∧ t.pllQual false = s.pllQual false)) ∧
    (∀ (k : Fin 4) (v : W32), exec (.gateWrite who k v) s = .next ((s.gateWrite k.val v).told who)) ∧
    (∀ v : W32,
      (s.bit CKG_FM_CTL 24 = true → exec (.freqMeasureStart who v) s = .next (s.told who)) ∧
      (s.bit CKG_FM_CTL 24 = false →
        ∃ t, exec (.freqMeasureStart who v) s = .next t ∧ t.f CKG_FM_CTL 6 0 = fld v 6 0 ∧ t.f CKG_FM_CTL 14 8 = fld v 14 8 ∧
          t.f CKG_FM_CTL 20 16 = (if 10 ≤ fld v 20 16 ∧ fld v 20 16 ≤ 24 then fld v 20 16 else 10) ∧ t.bit CKG_FM_CTL 24 = bitAt v 24)))

/-- Faults. A raise of a source, while there is power; where none of the source's actions is on and the source has no effect of its own, it is counted and nothing else. The keys of the unlock take it step by step, the last only with TEST_EN; an acknowledgement is taken only of a number issued. GO written with a mode injects into the source as it stands, while unlocked and with no injection waiting: EVENT raises it, FLIP1 and FLIP2 arm the source of its pair, and are ignored where it has no memory; while one waits, the mode alone is stored. A fall of TEST_EN ends the lock's being open and what waits; a pulse of FAULT_N ends. Where the spec is silent it takes the model's reading: log entries 69, 132. Its commands: FAULT_RAISE, FAULT_N_PULSE_END, FLT_UNLOCK, FLT_HIST_ACK_WRITE, EVENT, FLIP1, FLIP2, TEST_EN_FALL. -/
def Obligations.Faults : Prop :=
  (∀ s : State,
    (s.power.good = true →
      (∀ (src : SourceId) (agent code : Byte) (d : W32),
        exec (.faultRaise src agent code d) s = .next (s.faultFound src.val agent.toNat code.toNat d) ∧
        (0 < src.val → src.val < 197 → fltClass src.val = 0 → src.val ≠ 196 → s.inject = none → s.f (FLT_ACT src.val) 4 0 = 0 →
          ∃ t, exec (.faultRaise src agent code d) s = .next t ∧ t = s.incF (FLT_ACT src.val) 31 16 ∧
            t.f (FLT_ACT src.val) 31 16 = (s.f (FLT_ACT src.val) 31 16 + 1) % 65536))) ∧
    exec .faultNPulseEnd s = .next { s with power := { s.power with pulse := false } } ∧
    (∃ t, exec .testEnFall s = .next t ∧ t.testEn = false ∧ t.inject = none ∧ t.unlock = 0 ∧ t.reg FLT_INJ_STAT = 0 ∧ t.reg FLT_INJ_CTL = 0 ∧
      t.reg FLT_INJ_SYND = 0 ∧ t.domainOn 99 = false)) ∧
  (∀ (who : Who) (s : State), s.served who pgFLT = true →
    (s.unlock = 0 → exec (.fltUnlock who 0xC1E0) s = .next (({ s with unlock := 1 } : State).told who)) ∧
    (∀ v : W32, s.unlock = 1 → v.toNat = s.f DEV_SERIAL_LO 15 0 → exec (.fltUnlock who v) s = .next (({ s with unlock := 2 } : State).told who)) ∧
    (s.unlock = 2 → s.testEn = true → exec (.fltUnlock who 0xE1C) s = .next ((({ s with unlock := 0 } : State).setB FLT_INJ_STAT 0 true).told who)) ∧
    (s.unlock = 2 → s.testEn = false → exec (.fltUnlock who 0xE1C) s = .next (({ s with unlock := 0 } : State).told who)) ∧
    (s.unlock = 0 → ∀ v : W32, v ≠ 0xC1E0 → exec (.fltUnlock who v) s = .next (s.told who)) ∧
    (∀ v : W32,
      let q := fld v 15 0
      let issued := q ≠ 0 ∧ (65535 ≤ s.histTotal ∨ q < s.f FLT_HIST_PTR 31 16)
      (issued → exec (.fltHistAckWrite who v) s = .next ((({ s with unlock := 0 } : State).setReg FLT_HIST_ACK (BitVec.ofNat 32 q)).told who)) ∧
      (¬ issued → exec (.fltHistAckWrite who v) s = .next (({ s with unlock := 0 } : State).told who))) ∧
    (let injects (c : Instr) (mode : Nat) : Prop :=
      let u : State := { s with unlock := 0 }
      let src := s.f FLT_INJ_CTL 7 0
      (s.bit FLT_INJ_STAT 0 = false → exec c s = .next (u.told who)) ∧
      (s.bit FLT_INJ_STAT 0 = true → s.bit FLT_INJ_CTL 16 = true →
        exec c s = .next ((u.setReg FLT_INJ_CTL (BitVec.ofNat 32 (src ||| mode <<< 8 ||| 1 <<< 16))).told who)) ∧
      (s.bit FLT_INJ_STAT 0 = true → s.bit FLT_INJ_CTL 16 = false →
        let w := u.setReg FLT_INJ_CTL (BitVec.ofNat 32 (src ||| mode <<< 8))
        (mode = 0 → exec c s = .next ((w.injectGo src 0).told who)) ∧
        (mode ≠ 0 → flipSource src (mode == 2) = none → exec c s = .next (w.told who)) ∧
        (∀ r, mode ≠ 0 → flipSource src (mode == 2) = some r →
          ∃ t, exec c s = .next t ∧ t.inject = some (r, mode, none) ∧ t.bit FLT_INJ_CTL 16 = true ∧ t.bit FLT_INJ_STAT 1 = false ∧
            t.hbm = s.hbm ∧ t.seqs = s.seqs))
     injects (.event who) 0 ∧ injects (.flip1 who) 1 ∧ injects (.flip2 who) 2))

/-- Supply and temperatures. Power good needs the bulk, PWR_EN, and neither a trip nor a shutdown; the bulk below its lockout, the current limit and PWR_EN low take the rails off; a feed that fails or alarms is known. A poll takes its readings, in sixteenths of a degree, and a stack that reaches 95 degrees sets its event; the thermal limit steps the hedges down or up; the trip, once, acts while the blocks take work. Where the spec is silent it takes the model's reading: log entries 72, 86. Its commands: POWER_UP, UNDERVOLTAGE, FEED_FAIL, FEED_ALARM, CURRENT_LIMIT_TRIP, HOT_SWAP_RETRY, PWR_EN_LOW, PWR_EN_HIGH, SENSOR_POLL, THERMAL_STEP_DOWN, THERMAL_STEP_UP, THERMAL_TRIP. -/
def Obligations.SupplyAndTemperatures : Prop :=
  ∀ s : State,
    (s.power.good = false → s.power.tripped = false → s.power.shutdown = false →
      (s.power.pwrEn = true →
        ∃ t, exec .powerUp s = .next t ∧ t.power.good = true ∧ t.power.bulk = true ∧ t.clock.st = .start ∧ t.pending = s.pending) ∧
      (s.power.pwrEn = false → exec .powerUp s = .next { s with power := { s.power with bulk := true } }) ∧
      (s.power.bulk = true → ∃ t, exec .pwrEnHigh s = .next t ∧ t.power.good = true ∧ t.power.pwrEn = true ∧ t.clock.st = .start) ∧
      (s.power.bulk = false → exec .pwrEnHigh s = .next { s with power := { s.power with pwrEn := true } })) ∧
    (∃ t, exec .undervoltage s = .next t ∧ t.power.bulk = false ∧ t.power.good = false ∧ t.power.shutdown = false ∧ t.host = s.host ∧
      t.power.pwrEn = s.power.pwrEn ∧ (s.power.good = true → t.running = false ∧ t.hbm = [] ∧ ∀ a, a ≠ CSW_KEYS → a ≠ DEV_SERIAL_LO → a ≠ DEV_SERIAL_HI → t.reg a = regDefault a)) ∧
    (∃ t, exec .currentLimitTrip s = .next t ∧ t.power.tripped = true ∧ t.power.bulk = false ∧ t.power.good = false ∧ t.host = s.host) ∧
    exec .hotSwapRetry s = .next { s with power := { s.power with tripped := false } } ∧
    (∃ t, exec .pwrEnLow s = .next t ∧ t.power.pwrEn = false ∧ t.power.good = false ∧ t.power.shutdown = false ∧ t.host = s.host ∧
      t.power.cause = 1) ∧
    exec (.feedFail false) s = .next { s with power := { s.power with feedAOff := true } } ∧
    exec (.feedFail true) s = .next { s with power := { s.power with feedBOff := true } } ∧
    (let u : State := { s with power := { s.power with feedALow := true } }
     (s.power.feedALow = false → s.power.good = true → exec (.feedAlarm false true) s = .next ((u.smbEvent 0).raise 192 255 0)) ∧
     ((s.power.feedALow = true ∨ s.power.good = false) → exec (.feedAlarm false true) s = .next u)) ∧
    (∀ b : Bool, ∃ t, exec (.feedAlarm b false) s = .next t ∧ (if b then t.power.feedBLow else t.power.feedALow) = false ∧
      (if b then t.power.feedBOff else t.power.feedAOff) = false ∧ t.regs = s.regs) ∧
    (let u : State := { s with power := { s.power with feedBLow := true } }
     (s.power.feedBLow = false → s.power.good = true → exec (.feedAlarm true true) s = .next ((u.smbEvent 1).raise 193 255 0)) ∧
     ((s.power.feedBLow = true ∨ s.power.good = false) → exec (.feedAlarm true true) s = .next u)) ∧
    (∀ js hs : List Int, s.power.good = true →
      ∃ t, exec (.sensorPoll js hs) s = .next t ∧ t.power.junctions = js ∧ t.power.hbmTemps = hs ∧
        (∀ i, i < hs.length → s.power.hbmTemps.getD i 0 < 95 * 16 → 95 * 16 ≤ hs.getD i 0 →
          t.bit (hEVT pgSMB) 2 = true ∧ t.bit SMB_ALARM 2 = true) ∧
        (s.power.trip = true → (∀ x ∈ js, x ≤ 99 * 16) → (∀ x ∈ hs, x ≤ 90 * 16) → t.power.trip = false)) ∧
    (s.clocked = true →
      (s.hotAt 103 95 = true → exec .thermalStepDown s = .next s.stepDown ∧
        ((∀ h, h < 4 → s.f (HDG_DVFS h) 6 4 = 5) → exec .thermalStepDown s = .next s)) ∧
      (s.cool = true → exec .thermalStepUp s = .next s.stepUp) ∧
      (s.hotAt 108 100 = true → s.power.trip = false → exec .thermalTrip s = .next s.tripNow) ∧
      (s.power.trip = true → exec .thermalTrip s = .next s))

/-- Where the trip and the shutdown thresholds are crossed together, the shutdown takes the rails off and stays latched, and the trip finds no module to act on: every register but the fused keys and the serial number is at its reset value, so source 195 has no entry and no count. Its commands: THERMAL_TRIP, THERMAL_SHUTDOWN. -/
def Obligations.ShutdownWins : Prop :=
  ∀ s : State, s.power.good = true → s.hotAt 115 105 = true →
    ∃ t, exec .thermalShutdown s = .next t ∧ t.power.shutdown = true ∧ t.power.good = false ∧ exec .thermalTrip t = .next t ∧
      ∀ a, a ≠ CSW_KEYS → a ≠ DEV_SERIAL_LO → a ≠ DEV_SERIAL_HI → t.reg a = regDefault a

/-- The SMBus sideband. Of a module whose blocks run a read answers the register's low half and latches the management sequencer's SMB event; it clears PIN_PEAK, or advances the FRU address, and of any other command changes no register; a write with a right PEC is acknowledged: one of ALARM clears what it names, one of FRU_ADDR sets it, any other changes no register; a wrong PEC is not acknowledged and raises its event and source 196; a byte is acknowledged and has no effect. A module that does not run acknowledges nothing. A measurement fills the registers, the peak keeps the highest, the limits set the event. Where the spec is silent it takes the model's reading: log entries 71, 72, 133. Its commands: SMB_READ_WORD, SMB_WRITE_WORD, SMB_SEND_BYTE, SMB_MEASUREMENT_UPDATE. -/
def Obligations.Sideband : Prop :=
  ∀ s : State,
    (s.clocked = false → ∀ (k b : Byte) (v : BitVec 16) (p : Bool),
      exec (.smbReadWord k p) s = .next (s.emit .smbNoAck) ∧ exec (.smbWriteWord k v p) s = .next (s.emit .smbNoAck) ∧
        exec (.smbSendByte b) s = .next (s.emit .smbNoAck)) ∧
    (s.clocked = true →
      (∀ (k : Byte) (pec : Bool),
        ∃ t, exec (.smbReadWord k pec) s = .next t ∧ t.outbox = s.outbox ++ [.smbWord (s.smbValue k.toNat) pec] ∧
          (k = 0xE → t.reg SMB_PIN_PEAK = 0) ∧ (k = 0x11 → t.f SMB_FRU_ADDR 7 0 = (s.f SMB_FRU_ADDR 7 0 + 1) % 256) ∧
          (k ≠ 0xE → k ≠ 0x11 → t.regs = s.regs) ∧ (t.seq 40).pend.getLsbD 6 = true) ∧
      (∀ (k : Byte) (v : BitVec 16),
        (∃ t, exec (.smbWriteWord k v true) s = .next t ∧ t.outbox = s.outbox ++ [.smbAck] ∧
          (k = 0xF → t.reg SMB_ALARM = s.reg SMB_ALARM &&& ~~~(v.setWidth 32)) ∧ (k = 0x10 → t.reg SMB_FRU_ADDR = BitVec.ofNat 32 (v.toNat % 256)) ∧
          (k ≠ 0xF → k ≠ 0x10 → t.regs = s.regs)) ∧
        exec (.smbWriteWord k v false) s = .next (((s.smbEvent 6).raise 196 255 0).emit .smbNoAck)) ∧
      (∀ b : Byte, exec (.smbSendByte b) s = .next (s.emit .smbAck)) ∧
      (∀ (vinA vinB iinA iinB board : BitVec 16) (p1 p100 : Nat),
        ∃ t, exec (.smbMeasurementUpdate vinA vinB iinA iinB board p1 p100) s = .next t ∧ t.reg SMB_VIN_A = vinA.setWidth 32 ∧
          t.reg SMB_VIN_B = vinB.setWidth 32 ∧ t.reg SMB_IIN_A = iinA.setWidth 32 ∧ t.reg SMB_IIN_B = iinB.setWidth 32 ∧
          t.reg SMB_TEMP_BOARD = board.setWidth 32 ∧ t.reg SMB_PIN = BitVec.ofNat 32 (min p1 65535) ∧
          t.reg SMB_PIN_PEAK = BitVec.ofNat 32 (max (min p1 65535) (s.f SMB_PIN_PEAK 15 0)) ∧
          ((44000 < p1 ∨ 38000 < p100) → t.bit (hEVT pgSMB) 5 = true ∧ t.bit SMB_ALARM 5 = true)))
end

