-- ==== Sys2Proof/Laws/Tab.lean ====
section
/-! SUPPORT. The laws of the sparse tables: what is read after a write, and that every operation keeps the canonical form. -/

namespace Sys2Proof.Machine

variable {α : Type}

@[simp] theorem tabGet_nil (d : Nat → α) (k : Nat) : tabGet d [] k = d k := rfl

theorem tabGet_drop_same (d : Nat → α) (t : Tab α) (k : Nat) : tabGet d (tabDrop t k) k = d k := by
  induction t with
  | nil => rfl
  | cons e t ih =>
    obtain ⟨j, v⟩ := e
    by_cases h : k = j <;> simp [tabDrop, tabGet, h, ih]
    simpa [h] using ih

theorem tabGet_drop_ne (d : Nat → α) (t : Tab α) {k j : Nat} (hj : j ≠ k) : tabGet d (tabDrop t k) j = tabGet d t j := by
  induction t with
  | nil => rfl
  | cons e t ih =>
    obtain ⟨i, v⟩ := e
    by_cases h : k = i
    · subst h; simp [tabDrop, tabGet, hj, ih]
    · simp only [tabDrop, if_neg h, tabGet, ih]

theorem tabGet_ins_same (d : Nat → α) (t : Tab α) (k : Nat) (v : α) : tabGet d (tabIns t k v) k = v := by
  induction t with
  | nil => simp [tabIns, tabGet]
  | cons e t ih =>
    obtain ⟨i, w⟩ := e
    by_cases h : k = i
    · simp [tabIns, tabGet, h]
    · by_cases h' : k < i <;> simp [tabIns, tabGet, h, h', ih]

theorem tabGet_ins_ne (d : Nat → α) (t : Tab α) {k j : Nat} (v : α) (hj : j ≠ k) : tabGet d (tabIns t k v) j = tabGet d t j := by
  induction t with
  | nil => simp [tabIns, tabGet, hj]
  | cons e t ih =>
    obtain ⟨i, w⟩ := e
    by_cases h : k = i
    · subst h; simp [tabIns, tabGet, hj]
    · by_cases h' : k < i
      · simp [tabIns, tabGet, h, h', hj]
      · simp only [tabIns, if_neg h, if_neg h', tabGet, ih]

variable [DecidableEq α]

/-- A write is read back. -/
@[simp] theorem tabGet_put_same (d : Nat → α) (t : Tab α) (k : Nat) (v : α) : tabGet d (tabPut d t k v) k = v := by
  unfold tabPut
  split
  · rename_i h; rw [tabGet_drop_same, h]
  · exact tabGet_ins_same d t k v

/-- A write leaves every other key alone. -/
theorem tabGet_put_ne (d : Nat → α) (t : Tab α) {k j : Nat} (v : α) (hj : j ≠ k) : tabGet d (tabPut d t k v) j = tabGet d t j := by
  unfold tabPut
  split
  · exact tabGet_drop_ne d t hj
  · exact tabGet_ins_ne d t v hj

/-- A read after a write, whatever the keys. -/
theorem tabGet_put (d : Nat → α) (t : Tab α) (k j : Nat) (v : α) : tabGet d (tabPut d t k v) j = if j = k then v else tabGet d t j := by
  by_cases h : j = k
  · subst h; simp
  · simp [h, tabGet_put_ne d t v h]

/-! The canonical form. -/

omit [DecidableEq α] in
theorem tabRising_weaken {t : Tab α} {lo lo' : Nat} (h : lo' ≤ lo) : tabRising lo t = true → tabRising lo' t = true := by
  cases t with
  | nil => intro; rfl
  | cons e t =>
    obtain ⟨j, v⟩ := e
    simp only [tabRising, Bool.and_eq_true, decide_eq_true_eq]
    rintro ⟨h1, h2⟩
    exact ⟨by omega, h2⟩

omit [DecidableEq α] in
theorem tabRising_drop {t : Tab α} {lo k : Nat} (h : tabRising lo t = true) : tabRising lo (tabDrop t k) = true := by
  induction t generalizing lo with
  | nil => rfl
  | cons e t ih =>
    obtain ⟨j, v⟩ := e
    simp only [tabRising, Bool.and_eq_true, decide_eq_true_eq] at h
    by_cases hk : k = j
    · simp only [tabDrop, if_pos hk]
      exact tabRising_weaken (by omega) (ih h.2)
    · simp only [tabDrop, if_neg hk, tabRising, Bool.and_eq_true, decide_eq_true_eq]
      exact ⟨h.1, ih h.2⟩

omit [DecidableEq α] in
theorem tabRising_ins {t : Tab α} {lo k : Nat} (v : α) (hk : lo ≤ k) (h : tabRising lo t = true) : tabRising lo (tabIns t k v) = true := by
  induction t generalizing lo with
  | nil => simp [tabIns, tabRising, hk]
  | cons e t ih =>
    obtain ⟨j, w⟩ := e
    simp only [tabRising, Bool.and_eq_true, decide_eq_true_eq] at h
    by_cases h1 : k = j
    · subst h1; simp [tabIns, tabRising, h.1, h.2]
    · by_cases h2 : k < j
      · simp only [tabIns, if_neg h1, if_pos h2, tabRising, Bool.and_eq_true, decide_eq_true_eq]
        exact ⟨hk, by omega, h.2⟩
      · simp only [tabIns, if_neg h1, if_neg h2, tabRising, Bool.and_eq_true, decide_eq_true_eq]
        exact ⟨h.1, ih (by omega) h.2⟩

omit [DecidableEq α] in
theorem tabRising_filter {t : Tab α} {lo : Nat} (p : Nat × α → Bool) (h : tabRising lo t = true) : tabRising lo (t.filter p) = true := by
  induction t generalizing lo with
  | nil => rfl
  | cons e t ih =>
    obtain ⟨j, w⟩ := e
    simp only [tabRising, Bool.and_eq_true, decide_eq_true_eq] at h
    by_cases hp : p (j, w) = true
    · simp only [List.filter_cons_of_pos hp, tabRising, Bool.and_eq_true, decide_eq_true_eq]
      exact ⟨h.1, ih h.2⟩
    · simp only [List.filter_cons_of_neg hp]
      exact tabRising_weaken (by omega) (ih h.2)

omit [DecidableEq α] in
theorem mem_tabDrop {t : Tab α} {k : Nat} {e : Nat × α} (h : e ∈ tabDrop t k) : e ∈ t := by
  induction t with
  | nil => exact h
  | cons x t ih =>
    obtain ⟨j, w⟩ := x
    by_cases hk : k = j
    · simp only [tabDrop, if_pos hk] at h
      exact List.mem_cons_of_mem _ (ih h)
    · simp only [tabDrop, if_neg hk, List.mem_cons] at h
      rcases h with h | h
      · exact h ▸ List.mem_cons_self ..
      · exact List.mem_cons_of_mem _ (ih h)

omit [DecidableEq α] in
theorem mem_tabIns {t : Tab α} {k : Nat} {v : α} {e : Nat × α} (h : e ∈ tabIns t k v) : e = (k, v) ∨ e ∈ t := by
  induction t with
  | nil => simpa [tabIns] using h
  | cons x t ih =>
    obtain ⟨j, w⟩ := x
    by_cases h1 : k = j
    · simp only [tabIns, if_pos h1, List.mem_cons] at h
      rcases h with h | h
      · exact .inl h
      · exact .inr (List.mem_cons_of_mem _ h)
    · by_cases h2 : k < j
      · simp only [tabIns, if_neg h1, if_pos h2, List.mem_cons] at h
        rcases h with h | h | h
        · exact .inl h
        · exact .inr (h ▸ List.mem_cons_self ..)
        · exact .inr (List.mem_cons_of_mem _ h)
      · simp only [tabIns, if_neg h1, if_neg h2, List.mem_cons] at h
        rcases h with h | h
        · exact .inr (h ▸ List.mem_cons_self ..)
        · rcases ih h with h | h
          · exact .inl h
          · exact .inr (List.mem_cons_of_mem _ h)

theorem tabWf_iff (d : Nat → α) (t : Tab α) : tabWf d t = true ↔ tabRising 0 t = true ∧ ∀ e ∈ t, e.2 ≠ d e.1 := by
  simp [tabWf, List.all_eq_true]

/-- A write keeps the canonical form. -/
theorem tabWf_put {d : Nat → α} {t : Tab α} (k : Nat) (v : α) (h : tabWf d t = true) : tabWf d (tabPut d t k v) = true := by
  rw [tabWf_iff] at h ⊢
  unfold tabPut
  split
  · exact ⟨tabRising_drop h.1, fun e he => h.2 e (mem_tabDrop he)⟩
  · rename_i hv
    refine ⟨tabRising_ins v (Nat.zero_le _) h.1, fun e he => ?_⟩
    rcases mem_tabIns he with rfl | he
    · exact hv
    · exact h.2 e he

/-- Dropping entries keeps the canonical form. -/
theorem tabWf_filter {d : Nat → α} {t : Tab α} (p : Nat × α → Bool) (h : tabWf d t = true) : tabWf d (t.filter p) = true := by
  rw [tabWf_iff] at h ⊢
  exact ⟨tabRising_filter p h.1, fun e he => h.2 e (List.mem_filter.1 he).1⟩

/-- The canonical form depends on the default only at the listed keys. -/
theorem tabWf_congr {d d' : Nat → α} {t : Tab α} (hd : ∀ e ∈ t, d' e.1 = d e.1) (h : tabWf d t = true) : tabWf d' t = true := by
  rw [tabWf_iff] at h ⊢
  exact ⟨h.1, fun e he => by rw [hd e he]; exact h.2 e he⟩

end Sys2Proof.Machine
end

