-- ==== Sys2Proof/Laws/State.lean ====
section
/-! SUPPORT. What each update of the state leaves as it was, one lemma for each update and each field, and what it writes; register updates in terms of setReg. -/

namespace Sys2Proof.Machine

/-! Register updates in terms of setReg. -/

@[simp] theorem State.setF_eq (s : State) (a hi lo v : Nat) : s.setF a hi lo v = s.setReg a (setFld (s.reg a) hi lo v) := rfl
@[simp] theorem State.setB_eq (s : State) (a i : Nat) (b : Bool) : s.setB a i b = s.setReg a (setBit (s.reg a) i b) := rfl
@[simp] theorem State.inc_eq (s : State) (a n : Nat) : s.inc a n = s.setReg a (s.reg a + BitVec.ofNat 32 n) := rfl
@[simp] theorem State.incF_eq (s : State) (a hi lo n : Nat) : s.incF a hi lo n = s.setReg a (setFld (s.reg a) hi lo (fld (s.reg a) hi lo + n)) := rfl
@[simp] theorem State.satF_eq (s : State) (a hi lo n : Nat) :
    s.satF a hi lo n = s.setReg a (setFld (s.reg a) hi lo (min (fld (s.reg a) hi lo + n) (2 ^ (hi + 1 - lo) - 1))) := rfl
@[simp] theorem State.setPair_eq (s : State) (lo hi v : Nat) :
    s.setPair lo hi v = (s.setReg lo (BitVec.ofNat 32 v)).setReg hi (BitVec.ofNat 32 (v / 2 ^ 32)) := rfl
@[simp] theorem State.event_eq (s : State) (p b : Nat) : s.event p b = s.setReg (hEVT p) (setBit (s.reg (hEVT p)) b true) := rfl

/-! What an update writes. -/

@[simp] theorem State.reg_setReg_same (s : State) (a : Nat) (v : W32) : (s.setReg a v).reg a = v := tabGet_put_same _ _ _ _

theorem State.reg_setReg_ne (s : State) {a b : Nat} (v : W32) (h : b ≠ a) : (s.setReg a v).reg b = s.reg b := tabGet_put_ne _ _ _ h

theorem State.reg_setReg (s : State) (a b : Nat) (v : W32) : (s.setReg a v).reg b = if b = a then v else s.reg b := tabGet_put _ _ _ _ _

@[simp] theorem State.outbox_emit (s : State) (o : Output) : (s.emit o).outbox = s.outbox ++ [o] := rfl

@[simp] theorem State.fresh_draw (s : State) : s.draw.fresh = s.fresh + 1 := rfl

@[simp] theorem State.fn_setFn_same (s : State) (k : Nat) (x : Func) : (s.setFn k x).fn k = x := tabGet_put_same _ _ _ _
theorem State.fn_setFn_ne (s : State) (k : Nat) (x : Func) {j : Nat} (h : j ≠ k) : (s.setFn k x).fn j = s.fn j := tabGet_put_ne _ _ _ h

@[simp] theorem State.ring_setRing_same (s : State) (k : Nat) (x : Ring) : (s.setRing k x).ring k = x := tabGet_put_same _ _ _ _
theorem State.ring_setRing_ne (s : State) (k : Nat) (x : Ring) {j : Nat} (h : j ≠ k) : (s.setRing k x).ring j = s.ring j := tabGet_put_ne _ _ _ h

@[simp] theorem State.pool_setPool_same (s : State) (k : Nat) (x : Pool) : (s.setPool k x).pool k = x := tabGet_put_same _ _ _ _
theorem State.pool_setPool_ne (s : State) (k : Nat) (x : Pool) {j : Nat} (h : j ≠ k) : (s.setPool k x).pool j = s.pool j := tabGet_put_ne _ _ _ h

@[simp] theorem State.buf_setBuf_same (s : State) (k : Nat) (x : Buf) : (s.setBuf k x).buf k = x := tabGet_put_same _ _ _ _
theorem State.buf_setBuf_ne (s : State) (k : Nat) (x : Buf) {j : Nat} (h : j ≠ k) : (s.setBuf k x).buf j = s.buf j := tabGet_put_ne _ _ _ h

@[simp] theorem State.sess_setSess_same (s : State) (k : Nat) (x : Sess) : (s.setSess k x).sess k = x := tabGet_put_same _ _ _ _
theorem State.sess_setSess_ne (s : State) (k : Nat) (x : Sess) {j : Nat} (h : j ≠ k) : (s.setSess k x).sess j = s.sess j := tabGet_put_ne _ _ _ h

@[simp] theorem State.core_setCore_same (s : State) (k : Nat) (x : Core) : (s.setCore k x).core k = x := tabGet_put_same _ _ _ _
theorem State.core_setCore_ne (s : State) (k : Nat) (x : Core) {j : Nat} (h : j ≠ k) : (s.setCore k x).core j = s.core j := tabGet_put_ne _ _ _ h

@[simp] theorem State.hedge_setHedge_same (s : State) (k : Nat) (x : Hedge) : (s.setHedge k x).hedge k = x := tabGet_put_same _ _ _ _
theorem State.hedge_setHedge_ne (s : State) (k : Nat) (x : Hedge) {j : Nat} (h : j ≠ k) : (s.setHedge k x).hedge j = s.hedge j := tabGet_put_ne _ _ _ h

@[simp] theorem State.seq_setSeq_same (s : State) (k : Nat) (x : Seqr) : (s.setSeq k x).seq k = x := tabGet_put_same _ _ _ _
theorem State.seq_setSeq_ne (s : State) (k : Nat) (x : Seqr) {j : Nat} (h : j ≠ k) : (s.setSeq k x).seq j = s.seq j := tabGet_put_ne _ _ _ h

@[simp] theorem State.pipe_setPipe_same (s : State) (k : Nat) (x : Pipe) : (s.setPipe k x).pipe k = x := tabGet_put_same _ _ _ _
theorem State.pipe_setPipe_ne (s : State) (k : Nat) (x : Pipe) {j : Nat} (h : j ≠ k) : (s.setPipe k x).pipe j = s.pipe j := tabGet_put_ne _ _ _ h

@[simp] theorem State.stack_setStack_same (s : State) (k : Nat) (x : Stack) : (s.setStack k x).stack k = x := tabGet_put_same _ _ _ _
theorem State.stack_setStack_ne (s : State) (k : Nat) (x : Stack) {j : Nat} (h : j ≠ k) : (s.setStack k x).stack j = s.stack j := tabGet_put_ne _ _ _ h

@[simp] theorem State.pch_setPch_same (s : State) (k : Nat) (x : Pch) : (s.setPch k x).pch k = x := tabGet_put_same _ _ _ _
theorem State.pch_setPch_ne (s : State) (k : Nat) (x : Pch) {j : Nat} (h : j ≠ k) : (s.setPch k x).pch j = s.pch j := tabGet_put_ne _ _ _ h

@[simp] theorem State.rxf_setRxf_same (s : State) (k : Nat) (x : RxFlow) : (s.setRxf k x).rxf k = x := tabGet_put_same _ _ _ _
theorem State.rxf_setRxf_ne (s : State) (k : Nat) (x : RxFlow) {j : Nat} (h : j ≠ k) : (s.setRxf k x).rxf j = s.rxf j := tabGet_put_ne _ _ _ h

@[simp] theorem State.txf_setTxf_same (s : State) (k : Nat) (x : TxFlow) : (s.setTxf k x).txf k = x := tabGet_put_same _ _ _ _
theorem State.txf_setTxf_ne (s : State) (k : Nat) (x : TxFlow) {j : Nat} (h : j ≠ k) : (s.setTxf k x).txf j = s.txf j := tabGet_put_ne _ _ _ h

@[simp] theorem State.htxq_setHtxq_same (s : State) (k : Nat) (x : List HtxEntry) : (s.setHtxq k x).htxq k = x := tabGet_put_same _ _ _ _
theorem State.htxq_setHtxq_ne (s : State) (k : Nat) (x : List HtxEntry) {j : Nat} (h : j ≠ k) : (s.setHtxq k x).htxq j = s.htxq j := tabGet_put_ne _ _ _ h

@[simp] theorem State.port_setPort_same (s : State) (k : Nat) (x : Port) : (s.setPort k x).port k = x := tabGet_put_same _ _ _ _
theorem State.port_setPort_ne (s : State) (k : Nat) (x : Port) {j : Nat} (h : j ≠ k) : (s.setPort k x).port j = s.port j := tabGet_put_ne _ _ _ h

@[simp] theorem State.e2eOf_setE2e_same (s : State) (k l : Nat) (x : E2e) : (s.setE2e k l x).e2eOf k l = x := tabGet_put_same _ _ _ _

@[simp] theorem State.esp_setEsp_same (s : State) (k : Nat) (x : Esp) : (s.setEsp k x).esp k = x := tabGet_put_same _ _ _ _
theorem State.esp_setEsp_ne (s : State) (k : Nat) (x : Esp) {j : Nat} (h : j ≠ k) : (s.setEsp k x).esp j = s.esp j := tabGet_put_ne _ _ _ h

@[simp] theorem State.chan_setChan_same (s : State) (k : Nat) (x : Option Chan) : (s.setChan k x).chan k = x := tabGet_put_same _ _ _ _
theorem State.chan_setChan_ne (s : State) (k : Nat) (x : Option Chan) {j : Nat} (h : j ≠ k) : (s.setChan k x).chan j = s.chan j := tabGet_put_ne _ _ _ h

@[simp] theorem State.busy_setBusy_same (s : State) (k : Nat) (b : Bool) : (s.setBusy k b).busy k = b := tabGet_put_same _ _ _ _
theorem State.busy_setBusy_ne (s : State) (k : Nat) (b : Bool) {j : Nat} (h : j ≠ k) : (s.setBusy k b).busy j = s.busy j := tabGet_put_ne _ _ _ h

@[simp] theorem State.inDrain_setDrain_same (s : State) (k : Nat) (b : Bool) : (s.setDrain k b).inDrain k = b := tabGet_put_same _ _ _ _
theorem State.inDrain_setDrain_ne (s : State) (k : Nat) (b : Bool) {j : Nat} (h : j ≠ k) : (s.setDrain k b).inDrain j = s.inDrain j := tabGet_put_ne _ _ _ h

/-! setReg -/

@[simp] theorem State.setReg_pending (s : State) (k : Nat) (v : W32) : (s.setReg k v).pending = s.pending := rfl
@[simp] theorem State.setReg_outbox (s : State) (k : Nat) (v : W32) : (s.setReg k v).outbox = s.outbox := rfl
@[simp] theorem State.setReg_fresh (s : State) (k : Nat) (v : W32) : (s.setReg k v).fresh = s.fresh := rfl
@[simp] theorem State.setReg_variant (s : State) (k : Nat) (v : W32) : (s.setReg k v).variant = s.variant := rfl
@[simp] theorem State.setReg_rev (s : State) (k : Nat) (v : W32) : (s.setReg k v).rev = s.rev := rfl
@[simp] theorem State.setReg_signReq (s : State) (k : Nat) (v : W32) : (s.setReg k v).signReq = s.signReq := rfl
@[simp] theorem State.setReg_testEn (s : State) (k : Nat) (v : W32) : (s.setReg k v).testEn = s.testEn := rfl
@[simp] theorem State.setReg_sa (s : State) (k : Nat) (v : W32) : (s.setReg k v).sa = s.sa := rfl
@[simp] theorem State.setReg_hiLatch (s : State) (k : Nat) (v : W32) : (s.setReg k v).hiLatch = s.hiLatch := rfl
@[simp] theorem State.setReg_loHeld (s : State) (k : Nat) (v : W32) : (s.setReg k v).loHeld = s.loHeld := rfl
@[simp] theorem State.setReg_hbm (s : State) (k : Nat) (v : W32) : (s.setReg k v).hbm = s.hbm := rfl
@[simp] theorem State.setReg_memSeed (s : State) (k : Nat) (v : W32) : (s.setReg k v).memSeed = s.memSeed := rfl
@[simp] theorem State.setReg_poison (s : State) (k : Nat) (v : W32) : (s.setReg k v).poison = s.poison := rfl
@[simp] theorem State.setReg_host (s : State) (k : Nat) (v : W32) : (s.setReg k v).host = s.host := rfl
@[simp] theorem State.setReg_hif (s : State) (k : Nat) (v : W32) : (s.setReg k v).hif = s.hif := rfl
@[simp] theorem State.setReg_resetting (s : State) (k : Nat) (v : W32) : (s.setReg k v).resetting = s.resetting := rfl
@[simp] theorem State.setReg_draining (s : State) (k : Nat) (v : W32) : (s.setReg k v).draining = s.draining := rfl
@[simp] theorem State.setReg_edges (s : State) (k : Nat) (v : W32) : (s.setReg k v).edges = s.edges := rfl
@[simp] theorem State.setReg_rings (s : State) (k : Nat) (v : W32) : (s.setReg k v).rings = s.rings := rfl
@[simp] theorem State.setReg_chans (s : State) (k : Nat) (v : W32) : (s.setReg k v).chans = s.chans := rfl
@[simp] theorem State.setReg_pools (s : State) (k : Nat) (v : W32) : (s.setReg k v).pools = s.pools := rfl
@[simp] theorem State.setReg_bufs (s : State) (k : Nat) (v : W32) : (s.setReg k v).bufs = s.bufs := rfl
@[simp] theorem State.setReg_sessions (s : State) (k : Nat) (v : W32) : (s.setReg k v).sessions = s.sessions := rfl
@[simp] theorem State.setReg_cores (s : State) (k : Nat) (v : W32) : (s.setReg k v).cores = s.cores := rfl
@[simp] theorem State.setReg_hedges (s : State) (k : Nat) (v : W32) : (s.setReg k v).hedges = s.hedges := rfl
@[simp] theorem State.setReg_seqs (s : State) (k : Nat) (v : W32) : (s.setReg k v).seqs = s.seqs := rfl
@[simp] theorem State.setReg_store (s : State) (k : Nat) (v : W32) : (s.setReg k v).store = s.store := rfl
@[simp] theorem State.setReg_pipes (s : State) (k : Nat) (v : W32) : (s.setReg k v).pipes = s.pipes := rfl
@[simp] theorem State.setReg_hbmStacks (s : State) (k : Nat) (v : W32) : (s.setReg k v).hbmStacks = s.hbmStacks := rfl
@[simp] theorem State.setReg_pchs (s : State) (k : Nat) (v : W32) : (s.setReg k v).pchs = s.pchs := rfl
@[simp] theorem State.setReg_rxFlows (s : State) (k : Nat) (v : W32) : (s.setReg k v).rxFlows = s.rxFlows := rfl
@[simp] theorem State.setReg_txFlows (s : State) (k : Nat) (v : W32) : (s.setReg k v).txFlows = s.txFlows := rfl
@[simp] theorem State.setReg_htx (s : State) (k : Nat) (v : W32) : (s.setReg k v).htx = s.htx := rfl
@[simp] theorem State.setReg_mtc (s : State) (k : Nat) (v : W32) : (s.setReg k v).mtc = s.mtc := rfl
@[simp] theorem State.setReg_ports (s : State) (k : Nat) (v : W32) : (s.setReg k v).ports = s.ports := rfl
@[simp] theorem State.setReg_e2e (s : State) (k : Nat) (v : W32) : (s.setReg k v).e2e = s.e2e := rfl
@[simp] theorem State.setReg_remotes (s : State) (k : Nat) (v : W32) : (s.setReg k v).remotes = s.remotes := rfl
@[simp] theorem State.setReg_esps (s : State) (k : Nat) (v : W32) : (s.setReg k v).esps = s.esps := rfl
@[simp] theorem State.setReg_clock (s : State) (k : Nat) (v : W32) : (s.setReg k v).clock = s.clock := rfl
@[simp] theorem State.setReg_power (s : State) (k : Nat) (v : W32) : (s.setReg k v).power = s.power := rfl
@[simp] theorem State.setReg_resetReq (s : State) (k : Nat) (v : W32) : (s.setReg k v).resetReq = s.resetReq := rfl
@[simp] theorem State.setReg_uptime (s : State) (k : Nat) (v : W32) : (s.setReg k v).uptime = s.uptime := rfl
@[simp] theorem State.setReg_histTotal (s : State) (k : Nat) (v : W32) : (s.setReg k v).histTotal = s.histTotal := rfl
@[simp] theorem State.setReg_unlock (s : State) (k : Nat) (v : W32) : (s.setReg k v).unlock = s.unlock := rfl
@[simp] theorem State.setReg_inject (s : State) (k : Nat) (v : W32) : (s.setReg k v).inject = s.inject := rfl
@[simp] theorem State.setReg_fn (s : State) (k : Nat) (v : W32) (j : Nat) : (s.setReg k v).fn j = s.fn j := rfl
@[simp] theorem State.setReg_ring (s : State) (k : Nat) (v : W32) (j : Nat) : (s.setReg k v).ring j = s.ring j := rfl
@[simp] theorem State.setReg_pool (s : State) (k : Nat) (v : W32) (j : Nat) : (s.setReg k v).pool j = s.pool j := rfl
@[simp] theorem State.setReg_buf (s : State) (k : Nat) (v : W32) (j : Nat) : (s.setReg k v).buf j = s.buf j := rfl
@[simp] theorem State.setReg_sess (s : State) (k : Nat) (v : W32) (j : Nat) : (s.setReg k v).sess j = s.sess j := rfl
@[simp] theorem State.setReg_core (s : State) (k : Nat) (v : W32) (j : Nat) : (s.setReg k v).core j = s.core j := rfl
@[simp] theorem State.setReg_hedge (s : State) (k : Nat) (v : W32) (j : Nat) : (s.setReg k v).hedge j = s.hedge j := rfl
@[simp] theorem State.setReg_seq (s : State) (k : Nat) (v : W32) (j : Nat) : (s.setReg k v).seq j = s.seq j := rfl
@[simp] theorem State.setReg_pipe (s : State) (k : Nat) (v : W32) (j : Nat) : (s.setReg k v).pipe j = s.pipe j := rfl
@[simp] theorem State.setReg_stack (s : State) (k : Nat) (v : W32) (j : Nat) : (s.setReg k v).stack j = s.stack j := rfl
@[simp] theorem State.setReg_pch (s : State) (k : Nat) (v : W32) (j : Nat) : (s.setReg k v).pch j = s.pch j := rfl
@[simp] theorem State.setReg_rxf (s : State) (k : Nat) (v : W32) (j : Nat) : (s.setReg k v).rxf j = s.rxf j := rfl
@[simp] theorem State.setReg_txf (s : State) (k : Nat) (v : W32) (j : Nat) : (s.setReg k v).txf j = s.txf j := rfl
@[simp] theorem State.setReg_htxq (s : State) (k : Nat) (v : W32) (j : Nat) : (s.setReg k v).htxq j = s.htxq j := rfl
@[simp] theorem State.setReg_port (s : State) (k : Nat) (v : W32) (j : Nat) : (s.setReg k v).port j = s.port j := rfl
@[simp] theorem State.setReg_e2eOf (s : State) (k : Nat) (v : W32) (j l : Nat) : (s.setReg k v).e2eOf j l = s.e2eOf j l := rfl
@[simp] theorem State.setReg_esp (s : State) (k : Nat) (v : W32) (j : Nat) : (s.setReg k v).esp j = s.esp j := rfl
@[simp] theorem State.setReg_chan (s : State) (k : Nat) (v : W32) (j : Nat) : (s.setReg k v).chan j = s.chan j := rfl
@[simp] theorem State.setReg_busy (s : State) (k : Nat) (v : W32) (j : Nat) : (s.setReg k v).busy j = s.busy j := rfl
@[simp] theorem State.setReg_inDrain (s : State) (k : Nat) (v : W32) (j : Nat) : (s.setReg k v).inDrain j = s.inDrain j := rfl
@[simp] theorem State.setReg_clocked (s : State) (k : Nat) (v : W32) : (s.setReg k v).clocked = s.clocked := rfl

/-! emit -/

@[simp] theorem State.emit_pending (s : State) (o : Output) : (s.emit o).pending = s.pending := rfl
@[simp] theorem State.emit_fresh (s : State) (o : Output) : (s.emit o).fresh = s.fresh := rfl
@[simp] theorem State.emit_variant (s : State) (o : Output) : (s.emit o).variant = s.variant := rfl
@[simp] theorem State.emit_rev (s : State) (o : Output) : (s.emit o).rev = s.rev := rfl
@[simp] theorem State.emit_signReq (s : State) (o : Output) : (s.emit o).signReq = s.signReq := rfl
@[simp] theorem State.emit_testEn (s : State) (o : Output) : (s.emit o).testEn = s.testEn := rfl
@[simp] theorem State.emit_sa (s : State) (o : Output) : (s.emit o).sa = s.sa := rfl
@[simp] theorem State.emit_regs (s : State) (o : Output) : (s.emit o).regs = s.regs := rfl
@[simp] theorem State.emit_hiLatch (s : State) (o : Output) : (s.emit o).hiLatch = s.hiLatch := rfl
@[simp] theorem State.emit_loHeld (s : State) (o : Output) : (s.emit o).loHeld = s.loHeld := rfl
@[simp] theorem State.emit_hbm (s : State) (o : Output) : (s.emit o).hbm = s.hbm := rfl
@[simp] theorem State.emit_memSeed (s : State) (o : Output) : (s.emit o).memSeed = s.memSeed := rfl
@[simp] theorem State.emit_poison (s : State) (o : Output) : (s.emit o).poison = s.poison := rfl
@[simp] theorem State.emit_host (s : State) (o : Output) : (s.emit o).host = s.host := rfl
@[simp] theorem State.emit_hif (s : State) (o : Output) : (s.emit o).hif = s.hif := rfl
@[simp] theorem State.emit_resetting (s : State) (o : Output) : (s.emit o).resetting = s.resetting := rfl
@[simp] theorem State.emit_draining (s : State) (o : Output) : (s.emit o).draining = s.draining := rfl
@[simp] theorem State.emit_edges (s : State) (o : Output) : (s.emit o).edges = s.edges := rfl
@[simp] theorem State.emit_rings (s : State) (o : Output) : (s.emit o).rings = s.rings := rfl
@[simp] theorem State.emit_chans (s : State) (o : Output) : (s.emit o).chans = s.chans := rfl
@[simp] theorem State.emit_pools (s : State) (o : Output) : (s.emit o).pools = s.pools := rfl
@[simp] theorem State.emit_bufs (s : State) (o : Output) : (s.emit o).bufs = s.bufs := rfl
@[simp] theorem State.emit_sessions (s : State) (o : Output) : (s.emit o).sessions = s.sessions := rfl
@[simp] theorem State.emit_cores (s : State) (o : Output) : (s.emit o).cores = s.cores := rfl
@[simp] theorem State.emit_hedges (s : State) (o : Output) : (s.emit o).hedges = s.hedges := rfl
@[simp] theorem State.emit_seqs (s : State) (o : Output) : (s.emit o).seqs = s.seqs := rfl
@[simp] theorem State.emit_store (s : State) (o : Output) : (s.emit o).store = s.store := rfl
@[simp] theorem State.emit_pipes (s : State) (o : Output) : (s.emit o).pipes = s.pipes := rfl
@[simp] theorem State.emit_hbmStacks (s : State) (o : Output) : (s.emit o).hbmStacks = s.hbmStacks := rfl
@[simp] theorem State.emit_pchs (s : State) (o : Output) : (s.emit o).pchs = s.pchs := rfl
@[simp] theorem State.emit_rxFlows (s : State) (o : Output) : (s.emit o).rxFlows = s.rxFlows := rfl
@[simp] theorem State.emit_txFlows (s : State) (o : Output) : (s.emit o).txFlows = s.txFlows := rfl
@[simp] theorem State.emit_htx (s : State) (o : Output) : (s.emit o).htx = s.htx := rfl
@[simp] theorem State.emit_mtc (s : State) (o : Output) : (s.emit o).mtc = s.mtc := rfl
@[simp] theorem State.emit_ports (s : State) (o : Output) : (s.emit o).ports = s.ports := rfl
@[simp] theorem State.emit_e2e (s : State) (o : Output) : (s.emit o).e2e = s.e2e := rfl
@[simp] theorem State.emit_remotes (s : State) (o : Output) : (s.emit o).remotes = s.remotes := rfl
@[simp] theorem State.emit_esps (s : State) (o : Output) : (s.emit o).esps = s.esps := rfl
@[simp] theorem State.emit_clock (s : State) (o : Output) : (s.emit o).clock = s.clock := rfl
@[simp] theorem State.emit_power (s : State) (o : Output) : (s.emit o).power = s.power := rfl
@[simp] theorem State.emit_resetReq (s : State) (o : Output) : (s.emit o).resetReq = s.resetReq := rfl
@[simp] theorem State.emit_uptime (s : State) (o : Output) : (s.emit o).uptime = s.uptime := rfl
@[simp] theorem State.emit_histTotal (s : State) (o : Output) : (s.emit o).histTotal = s.histTotal := rfl
@[simp] theorem State.emit_unlock (s : State) (o : Output) : (s.emit o).unlock = s.unlock := rfl
@[simp] theorem State.emit_inject (s : State) (o : Output) : (s.emit o).inject = s.inject := rfl
@[simp] theorem State.emit_reg (s : State) (o : Output) (j : Nat) : (s.emit o).reg j = s.reg j := rfl
@[simp] theorem State.emit_fn (s : State) (o : Output) (j : Nat) : (s.emit o).fn j = s.fn j := rfl
@[simp] theorem State.emit_ring (s : State) (o : Output) (j : Nat) : (s.emit o).ring j = s.ring j := rfl
@[simp] theorem State.emit_pool (s : State) (o : Output) (j : Nat) : (s.emit o).pool j = s.pool j := rfl
@[simp] theorem State.emit_buf (s : State) (o : Output) (j : Nat) : (s.emit o).buf j = s.buf j := rfl
@[simp] theorem State.emit_sess (s : State) (o : Output) (j : Nat) : (s.emit o).sess j = s.sess j := rfl
@[simp] theorem State.emit_core (s : State) (o : Output) (j : Nat) : (s.emit o).core j = s.core j := rfl
@[simp] theorem State.emit_hedge (s : State) (o : Output) (j : Nat) : (s.emit o).hedge j = s.hedge j := rfl
@[simp] theorem State.emit_seq (s : State) (o : Output) (j : Nat) : (s.emit o).seq j = s.seq j := rfl
@[simp] theorem State.emit_pipe (s : State) (o : Output) (j : Nat) : (s.emit o).pipe j = s.pipe j := rfl
@[simp] theorem State.emit_stack (s : State) (o : Output) (j : Nat) : (s.emit o).stack j = s.stack j := rfl
@[simp] theorem State.emit_pch (s : State) (o : Output) (j : Nat) : (s.emit o).pch j = s.pch j := rfl
@[simp] theorem State.emit_rxf (s : State) (o : Output) (j : Nat) : (s.emit o).rxf j = s.rxf j := rfl
@[simp] theorem State.emit_txf (s : State) (o : Output) (j : Nat) : (s.emit o).txf j = s.txf j := rfl
@[simp] theorem State.emit_htxq (s : State) (o : Output) (j : Nat) : (s.emit o).htxq j = s.htxq j := rfl
@[simp] theorem State.emit_port (s : State) (o : Output) (j : Nat) : (s.emit o).port j = s.port j := rfl
@[simp] theorem State.emit_e2eOf (s : State) (o : Output) (j l : Nat) : (s.emit o).e2eOf j l = s.e2eOf j l := rfl
@[simp] theorem State.emit_esp (s : State) (o : Output) (j : Nat) : (s.emit o).esp j = s.esp j := rfl
@[simp] theorem State.emit_chan (s : State) (o : Output) (j : Nat) : (s.emit o).chan j = s.chan j := rfl
@[simp] theorem State.emit_busy (s : State) (o : Output) (j : Nat) : (s.emit o).busy j = s.busy j := rfl
@[simp] theorem State.emit_inDrain (s : State) (o : Output) (j : Nat) : (s.emit o).inDrain j = s.inDrain j := rfl
@[simp] theorem State.emit_clocked (s : State) (o : Output) : (s.emit o).clocked = s.clocked := rfl

/-! draw -/

@[simp] theorem State.draw_pending (s : State) : (s.draw).pending = s.pending := rfl
@[simp] theorem State.draw_outbox (s : State) : (s.draw).outbox = s.outbox := rfl
@[simp] theorem State.draw_variant (s : State) : (s.draw).variant = s.variant := rfl
@[simp] theorem State.draw_rev (s : State) : (s.draw).rev = s.rev := rfl
@[simp] theorem State.draw_signReq (s : State) : (s.draw).signReq = s.signReq := rfl
@[simp] theorem State.draw_testEn (s : State) : (s.draw).testEn = s.testEn := rfl
@[simp] theorem State.draw_sa (s : State) : (s.draw).sa = s.sa := rfl
@[simp] theorem State.draw_regs (s : State) : (s.draw).regs = s.regs := rfl
@[simp] theorem State.draw_hiLatch (s : State) : (s.draw).hiLatch = s.hiLatch := rfl
@[simp] theorem State.draw_loHeld (s : State) : (s.draw).loHeld = s.loHeld := rfl
@[simp] theorem State.draw_hbm (s : State) : (s.draw).hbm = s.hbm := rfl
@[simp] theorem State.draw_memSeed (s : State) : (s.draw).memSeed = s.memSeed := rfl
@[simp] theorem State.draw_poison (s : State) : (s.draw).poison = s.poison := rfl
@[simp] theorem State.draw_host (s : State) : (s.draw).host = s.host := rfl
@[simp] theorem State.draw_hif (s : State) : (s.draw).hif = s.hif := rfl
@[simp] theorem State.draw_resetting (s : State) : (s.draw).resetting = s.resetting := rfl
@[simp] theorem State.draw_draining (s : State) : (s.draw).draining = s.draining := rfl
@[simp] theorem State.draw_edges (s : State) : (s.draw).edges = s.edges := rfl
@[simp] theorem State.draw_rings (s : State) : (s.draw).rings = s.rings := rfl
@[simp] theorem State.draw_chans (s : State) : (s.draw).chans = s.chans := rfl
@[simp] theorem State.draw_pools (s : State) : (s.draw).pools = s.pools := rfl
@[simp] theorem State.draw_bufs (s : State) : (s.draw).bufs = s.bufs := rfl
@[simp] theorem State.draw_sessions (s : State) : (s.draw).sessions = s.sessions := rfl
@[simp] theorem State.draw_cores (s : State) : (s.draw).cores = s.cores := rfl
@[simp] theorem State.draw_hedges (s : State) : (s.draw).hedges = s.hedges := rfl
@[simp] theorem State.draw_seqs (s : State) : (s.draw).seqs = s.seqs := rfl
@[simp] theorem State.draw_store (s : State) : (s.draw).store = s.store := rfl
@[simp] theorem State.draw_pipes (s : State) : (s.draw).pipes = s.pipes := rfl
@[simp] theorem State.draw_hbmStacks (s : State) : (s.draw).hbmStacks = s.hbmStacks := rfl
@[simp] theorem State.draw_pchs (s : State) : (s.draw).pchs = s.pchs := rfl
@[simp] theorem State.draw_rxFlows (s : State) : (s.draw).rxFlows = s.rxFlows := rfl
@[simp] theorem State.draw_txFlows (s : State) : (s.draw).txFlows = s.txFlows := rfl
@[simp] theorem State.draw_htx (s : State) : (s.draw).htx = s.htx := rfl
@[simp] theorem State.draw_mtc (s : State) : (s.draw).mtc = s.mtc := rfl
@[simp] theorem State.draw_ports (s : State) : (s.draw).ports = s.ports := rfl
@[simp] theorem State.draw_e2e (s : State) : (s.draw).e2e = s.e2e := rfl
@[simp] theorem State.draw_remotes (s : State) : (s.draw).remotes = s.remotes := rfl
@[simp] theorem State.draw_esps (s : State) : (s.draw).esps = s.esps := rfl
@[simp] theorem State.draw_clock (s : State) : (s.draw).clock = s.clock := rfl
@[simp] theorem State.draw_power (s : State) : (s.draw).power = s.power := rfl
@[simp] theorem State.draw_resetReq (s : State) : (s.draw).resetReq = s.resetReq := rfl
@[simp] theorem State.draw_uptime (s : State) : (s.draw).uptime = s.uptime := rfl
@[simp] theorem State.draw_histTotal (s : State) : (s.draw).histTotal = s.histTotal := rfl
@[simp] theorem State.draw_unlock (s : State) : (s.draw).unlock = s.unlock := rfl
@[simp] theorem State.draw_inject (s : State) : (s.draw).inject = s.inject := rfl
@[simp] theorem State.draw_reg (s : State) (j : Nat) : (s.draw).reg j = s.reg j := rfl
@[simp] theorem State.draw_fn (s : State) (j : Nat) : (s.draw).fn j = s.fn j := rfl
@[simp] theorem State.draw_ring (s : State) (j : Nat) : (s.draw).ring j = s.ring j := rfl
@[simp] theorem State.draw_pool (s : State) (j : Nat) : (s.draw).pool j = s.pool j := rfl
@[simp] theorem State.draw_buf (s : State) (j : Nat) : (s.draw).buf j = s.buf j := rfl
@[simp] theorem State.draw_sess (s : State) (j : Nat) : (s.draw).sess j = s.sess j := rfl
@[simp] theorem State.draw_core (s : State) (j : Nat) : (s.draw).core j = s.core j := rfl
@[simp] theorem State.draw_hedge (s : State) (j : Nat) : (s.draw).hedge j = s.hedge j := rfl
@[simp] theorem State.draw_seq (s : State) (j : Nat) : (s.draw).seq j = s.seq j := rfl
@[simp] theorem State.draw_pipe (s : State) (j : Nat) : (s.draw).pipe j = s.pipe j := rfl
@[simp] theorem State.draw_stack (s : State) (j : Nat) : (s.draw).stack j = s.stack j := rfl
@[simp] theorem State.draw_pch (s : State) (j : Nat) : (s.draw).pch j = s.pch j := rfl
@[simp] theorem State.draw_rxf (s : State) (j : Nat) : (s.draw).rxf j = s.rxf j := rfl
@[simp] theorem State.draw_txf (s : State) (j : Nat) : (s.draw).txf j = s.txf j := rfl
@[simp] theorem State.draw_htxq (s : State) (j : Nat) : (s.draw).htxq j = s.htxq j := rfl
@[simp] theorem State.draw_port (s : State) (j : Nat) : (s.draw).port j = s.port j := rfl
@[simp] theorem State.draw_e2eOf (s : State) (j l : Nat) : (s.draw).e2eOf j l = s.e2eOf j l := rfl
@[simp] theorem State.draw_esp (s : State) (j : Nat) : (s.draw).esp j = s.esp j := rfl
@[simp] theorem State.draw_chan (s : State) (j : Nat) : (s.draw).chan j = s.chan j := rfl
@[simp] theorem State.draw_busy (s : State) (j : Nat) : (s.draw).busy j = s.busy j := rfl
@[simp] theorem State.draw_inDrain (s : State) (j : Nat) : (s.draw).inDrain j = s.inDrain j := rfl
@[simp] theorem State.draw_clocked (s : State) : (s.draw).clocked = s.clocked := rfl

/-! setFn -/

@[simp] theorem State.setFn_pending (s : State) (k : Nat) (x : Func) : (s.setFn k x).pending = s.pending := rfl
@[simp] theorem State.setFn_outbox (s : State) (k : Nat) (x : Func) : (s.setFn k x).outbox = s.outbox := rfl
@[simp] theorem State.setFn_fresh (s : State) (k : Nat) (x : Func) : (s.setFn k x).fresh = s.fresh := rfl
@[simp] theorem State.setFn_variant (s : State) (k : Nat) (x : Func) : (s.setFn k x).variant = s.variant := rfl
@[simp] theorem State.setFn_rev (s : State) (k : Nat) (x : Func) : (s.setFn k x).rev = s.rev := rfl
@[simp] theorem State.setFn_signReq (s : State) (k : Nat) (x : Func) : (s.setFn k x).signReq = s.signReq := rfl
@[simp] theorem State.setFn_testEn (s : State) (k : Nat) (x : Func) : (s.setFn k x).testEn = s.testEn := rfl
@[simp] theorem State.setFn_sa (s : State) (k : Nat) (x : Func) : (s.setFn k x).sa = s.sa := rfl
@[simp] theorem State.setFn_regs (s : State) (k : Nat) (x : Func) : (s.setFn k x).regs = s.regs := rfl
@[simp] theorem State.setFn_hiLatch (s : State) (k : Nat) (x : Func) : (s.setFn k x).hiLatch = s.hiLatch := rfl
@[simp] theorem State.setFn_loHeld (s : State) (k : Nat) (x : Func) : (s.setFn k x).loHeld = s.loHeld := rfl
@[simp] theorem State.setFn_hbm (s : State) (k : Nat) (x : Func) : (s.setFn k x).hbm = s.hbm := rfl
@[simp] theorem State.setFn_memSeed (s : State) (k : Nat) (x : Func) : (s.setFn k x).memSeed = s.memSeed := rfl
@[simp] theorem State.setFn_poison (s : State) (k : Nat) (x : Func) : (s.setFn k x).poison = s.poison := rfl
@[simp] theorem State.setFn_host (s : State) (k : Nat) (x : Func) : (s.setFn k x).host = s.host := rfl
@[simp] theorem State.setFn_resetting (s : State) (k : Nat) (x : Func) : (s.setFn k x).resetting = s.resetting := rfl
@[simp] theorem State.setFn_draining (s : State) (k : Nat) (x : Func) : (s.setFn k x).draining = s.draining := rfl
@[simp] theorem State.setFn_edges (s : State) (k : Nat) (x : Func) : (s.setFn k x).edges = s.edges := rfl
@[simp] theorem State.setFn_rings (s : State) (k : Nat) (x : Func) : (s.setFn k x).rings = s.rings := rfl
@[simp] theorem State.setFn_chans (s : State) (k : Nat) (x : Func) : (s.setFn k x).chans = s.chans := rfl
@[simp] theorem State.setFn_pools (s : State) (k : Nat) (x : Func) : (s.setFn k x).pools = s.pools := rfl
@[simp] theorem State.setFn_bufs (s : State) (k : Nat) (x : Func) : (s.setFn k x).bufs = s.bufs := rfl
@[simp] theorem State.setFn_sessions (s : State) (k : Nat) (x : Func) : (s.setFn k x).sessions = s.sessions := rfl
@[simp] theorem State.setFn_cores (s : State) (k : Nat) (x : Func) : (s.setFn k x).cores = s.cores := rfl
@[simp] theorem State.setFn_hedges (s : State) (k : Nat) (x : Func) : (s.setFn k x).hedges = s.hedges := rfl
@[simp] theorem State.setFn_seqs (s : State) (k : Nat) (x : Func) : (s.setFn k x).seqs = s.seqs := rfl
@[simp] theorem State.setFn_store (s : State) (k : Nat) (x : Func) : (s.setFn k x).store = s.store := rfl
@[simp] theorem State.setFn_pipes (s : State) (k : Nat) (x : Func) : (s.setFn k x).pipes = s.pipes := rfl
@[simp] theorem State.setFn_hbmStacks (s : State) (k : Nat) (x : Func) : (s.setFn k x).hbmStacks = s.hbmStacks := rfl
@[simp] theorem State.setFn_pchs (s : State) (k : Nat) (x : Func) : (s.setFn k x).pchs = s.pchs := rfl
@[simp] theorem State.setFn_rxFlows (s : State) (k : Nat) (x : Func) : (s.setFn k x).rxFlows = s.rxFlows := rfl
@[simp] theorem State.setFn_txFlows (s : State) (k : Nat) (x : Func) : (s.setFn k x).txFlows = s.txFlows := rfl
@[simp] theorem State.setFn_htx (s : State) (k : Nat) (x : Func) : (s.setFn k x).htx = s.htx := rfl
@[simp] theorem State.setFn_mtc (s : State) (k : Nat) (x : Func) : (s.setFn k x).mtc = s.mtc := rfl
@[simp] theorem State.setFn_ports (s : State) (k : Nat) (x : Func) : (s.setFn k x).ports = s.ports := rfl
@[simp] theorem State.setFn_e2e (s : State) (k : Nat) (x : Func) : (s.setFn k x).e2e = s.e2e := rfl
@[simp] theorem State.setFn_remotes (s : State) (k : Nat) (x : Func) : (s.setFn k x).remotes = s.remotes := rfl
@[simp] theorem State.setFn_esps (s : State) (k : Nat) (x : Func) : (s.setFn k x).esps = s.esps := rfl
@[simp] theorem State.setFn_clock (s : State) (k : Nat) (x : Func) : (s.setFn k x).clock = s.clock := rfl
@[simp] theorem State.setFn_power (s : State) (k : Nat) (x : Func) : (s.setFn k x).power = s.power := rfl
@[simp] theorem State.setFn_resetReq (s : State) (k : Nat) (x : Func) : (s.setFn k x).resetReq = s.resetReq := rfl
@[simp] theorem State.setFn_uptime (s : State) (k : Nat) (x : Func) : (s.setFn k x).uptime = s.uptime := rfl
@[simp] theorem State.setFn_histTotal (s : State) (k : Nat) (x : Func) : (s.setFn k x).histTotal = s.histTotal := rfl
@[simp] theorem State.setFn_unlock (s : State) (k : Nat) (x : Func) : (s.setFn k x).unlock = s.unlock := rfl
@[simp] theorem State.setFn_inject (s : State) (k : Nat) (x : Func) : (s.setFn k x).inject = s.inject := rfl
@[simp] theorem State.setFn_reg (s : State) (k : Nat) (x : Func) (j : Nat) : (s.setFn k x).reg j = s.reg j := rfl
@[simp] theorem State.setFn_ring (s : State) (k : Nat) (x : Func) (j : Nat) : (s.setFn k x).ring j = s.ring j := rfl
@[simp] theorem State.setFn_pool (s : State) (k : Nat) (x : Func) (j : Nat) : (s.setFn k x).pool j = s.pool j := rfl
@[simp] theorem State.setFn_buf (s : State) (k : Nat) (x : Func) (j : Nat) : (s.setFn k x).buf j = s.buf j := rfl
@[simp] theorem State.setFn_sess (s : State) (k : Nat) (x : Func) (j : Nat) : (s.setFn k x).sess j = s.sess j := rfl
@[simp] theorem State.setFn_core (s : State) (k : Nat) (x : Func) (j : Nat) : (s.setFn k x).core j = s.core j := rfl
@[simp] theorem State.setFn_hedge (s : State) (k : Nat) (x : Func) (j : Nat) : (s.setFn k x).hedge j = s.hedge j := rfl
@[simp] theorem State.setFn_seq (s : State) (k : Nat) (x : Func) (j : Nat) : (s.setFn k x).seq j = s.seq j := rfl
@[simp] theorem State.setFn_pipe (s : State) (k : Nat) (x : Func) (j : Nat) : (s.setFn k x).pipe j = s.pipe j := rfl
@[simp] theorem State.setFn_stack (s : State) (k : Nat) (x : Func) (j : Nat) : (s.setFn k x).stack j = s.stack j := rfl
@[simp] theorem State.setFn_pch (s : State) (k : Nat) (x : Func) (j : Nat) : (s.setFn k x).pch j = s.pch j := rfl
@[simp] theorem State.setFn_rxf (s : State) (k : Nat) (x : Func) (j : Nat) : (s.setFn k x).rxf j = s.rxf j := rfl
@[simp] theorem State.setFn_txf (s : State) (k : Nat) (x : Func) (j : Nat) : (s.setFn k x).txf j = s.txf j := rfl
@[simp] theorem State.setFn_htxq (s : State) (k : Nat) (x : Func) (j : Nat) : (s.setFn k x).htxq j = s.htxq j := rfl
@[simp] theorem State.setFn_port (s : State) (k : Nat) (x : Func) (j : Nat) : (s.setFn k x).port j = s.port j := rfl
@[simp] theorem State.setFn_e2eOf (s : State) (k : Nat) (x : Func) (j l : Nat) : (s.setFn k x).e2eOf j l = s.e2eOf j l := rfl
@[simp] theorem State.setFn_esp (s : State) (k : Nat) (x : Func) (j : Nat) : (s.setFn k x).esp j = s.esp j := rfl
@[simp] theorem State.setFn_chan (s : State) (k : Nat) (x : Func) (j : Nat) : (s.setFn k x).chan j = s.chan j := rfl
@[simp] theorem State.setFn_busy (s : State) (k : Nat) (x : Func) (j : Nat) : (s.setFn k x).busy j = s.busy j := rfl
@[simp] theorem State.setFn_inDrain (s : State) (k : Nat) (x : Func) (j : Nat) : (s.setFn k x).inDrain j = s.inDrain j := rfl
@[simp] theorem State.setFn_clocked (s : State) (k : Nat) (x : Func) : (s.setFn k x).clocked = s.clocked := rfl

/-! setRing -/

@[simp] theorem State.setRing_pending (s : State) (k : Nat) (x : Ring) : (s.setRing k x).pending = s.pending := rfl
@[simp] theorem State.setRing_outbox (s : State) (k : Nat) (x : Ring) : (s.setRing k x).outbox = s.outbox := rfl
@[simp] theorem State.setRing_fresh (s : State) (k : Nat) (x : Ring) : (s.setRing k x).fresh = s.fresh := rfl
@[simp] theorem State.setRing_variant (s : State) (k : Nat) (x : Ring) : (s.setRing k x).variant = s.variant := rfl
@[simp] theorem State.setRing_rev (s : State) (k : Nat) (x : Ring) : (s.setRing k x).rev = s.rev := rfl
@[simp] theorem State.setRing_signReq (s : State) (k : Nat) (x : Ring) : (s.setRing k x).signReq = s.signReq := rfl
@[simp] theorem State.setRing_testEn (s : State) (k : Nat) (x : Ring) : (s.setRing k x).testEn = s.testEn := rfl
@[simp] theorem State.setRing_sa (s : State) (k : Nat) (x : Ring) : (s.setRing k x).sa = s.sa := rfl
@[simp] theorem State.setRing_regs (s : State) (k : Nat) (x : Ring) : (s.setRing k x).regs = s.regs := rfl
@[simp] theorem State.setRing_hiLatch (s : State) (k : Nat) (x : Ring) : (s.setRing k x).hiLatch = s.hiLatch := rfl
@[simp] theorem State.setRing_loHeld (s : State) (k : Nat) (x : Ring) : (s.setRing k x).loHeld = s.loHeld := rfl
@[simp] theorem State.setRing_hbm (s : State) (k : Nat) (x : Ring) : (s.setRing k x).hbm = s.hbm := rfl
@[simp] theorem State.setRing_memSeed (s : State) (k : Nat) (x : Ring) : (s.setRing k x).memSeed = s.memSeed := rfl
@[simp] theorem State.setRing_poison (s : State) (k : Nat) (x : Ring) : (s.setRing k x).poison = s.poison := rfl
@[simp] theorem State.setRing_host (s : State) (k : Nat) (x : Ring) : (s.setRing k x).host = s.host := rfl
@[simp] theorem State.setRing_hif (s : State) (k : Nat) (x : Ring) : (s.setRing k x).hif = s.hif := rfl
@[simp] theorem State.setRing_resetting (s : State) (k : Nat) (x : Ring) : (s.setRing k x).resetting = s.resetting := rfl
@[simp] theorem State.setRing_draining (s : State) (k : Nat) (x : Ring) : (s.setRing k x).draining = s.draining := rfl
@[simp] theorem State.setRing_edges (s : State) (k : Nat) (x : Ring) : (s.setRing k x).edges = s.edges := rfl
@[simp] theorem State.setRing_chans (s : State) (k : Nat) (x : Ring) : (s.setRing k x).chans = s.chans := rfl
@[simp] theorem State.setRing_pools (s : State) (k : Nat) (x : Ring) : (s.setRing k x).pools = s.pools := rfl
@[simp] theorem State.setRing_bufs (s : State) (k : Nat) (x : Ring) : (s.setRing k x).bufs = s.bufs := rfl
@[simp] theorem State.setRing_sessions (s : State) (k : Nat) (x : Ring) : (s.setRing k x).sessions = s.sessions := rfl
@[simp] theorem State.setRing_cores (s : State) (k : Nat) (x : Ring) : (s.setRing k x).cores = s.cores := rfl
@[simp] theorem State.setRing_hedges (s : State) (k : Nat) (x : Ring) : (s.setRing k x).hedges = s.hedges := rfl
@[simp] theorem State.setRing_seqs (s : State) (k : Nat) (x : Ring) : (s.setRing k x).seqs = s.seqs := rfl
@[simp] theorem State.setRing_store (s : State) (k : Nat) (x : Ring) : (s.setRing k x).store = s.store := rfl
@[simp] theorem State.setRing_pipes (s : State) (k : Nat) (x : Ring) : (s.setRing k x).pipes = s.pipes := rfl
@[simp] theorem State.setRing_hbmStacks (s : State) (k : Nat) (x : Ring) : (s.setRing k x).hbmStacks = s.hbmStacks := rfl
@[simp] theorem State.setRing_pchs (s : State) (k : Nat) (x : Ring) : (s.setRing k x).pchs = s.pchs := rfl
@[simp] theorem State.setRing_rxFlows (s : State) (k : Nat) (x : Ring) : (s.setRing k x).rxFlows = s.rxFlows := rfl
@[simp] theorem State.setRing_txFlows (s : State) (k : Nat) (x : Ring) : (s.setRing k x).txFlows = s.txFlows := rfl
@[simp] theorem State.setRing_htx (s : State) (k : Nat) (x : Ring) : (s.setRing k x).htx = s.htx := rfl
@[simp] theorem State.setRing_mtc (s : State) (k : Nat) (x : Ring) : (s.setRing k x).mtc = s.mtc := rfl
@[simp] theorem State.setRing_ports (s : State) (k : Nat) (x : Ring) : (s.setRing k x).ports = s.ports := rfl
@[simp] theorem State.setRing_e2e (s : State) (k : Nat) (x : Ring) : (s.setRing k x).e2e = s.e2e := rfl
@[simp] theorem State.setRing_remotes (s : State) (k : Nat) (x : Ring) : (s.setRing k x).remotes = s.remotes := rfl
@[simp] theorem State.setRing_esps (s : State) (k : Nat) (x : Ring) : (s.setRing k x).esps = s.esps := rfl
@[simp] theorem State.setRing_clock (s : State) (k : Nat) (x : Ring) : (s.setRing k x).clock = s.clock := rfl
@[simp] theorem State.setRing_power (s : State) (k : Nat) (x : Ring) : (s.setRing k x).power = s.power := rfl
@[simp] theorem State.setRing_resetReq (s : State) (k : Nat) (x : Ring) : (s.setRing k x).resetReq = s.resetReq := rfl
@[simp] theorem State.setRing_uptime (s : State) (k : Nat) (x : Ring) : (s.setRing k x).uptime = s.uptime := rfl
@[simp] theorem State.setRing_histTotal (s : State) (k : Nat) (x : Ring) : (s.setRing k x).histTotal = s.histTotal := rfl
@[simp] theorem State.setRing_unlock (s : State) (k : Nat) (x : Ring) : (s.setRing k x).unlock = s.unlock := rfl
@[simp] theorem State.setRing_inject (s : State) (k : Nat) (x : Ring) : (s.setRing k x).inject = s.inject := rfl
@[simp] theorem State.setRing_reg (s : State) (k : Nat) (x : Ring) (j : Nat) : (s.setRing k x).reg j = s.reg j := rfl
@[simp] theorem State.setRing_fn (s : State) (k : Nat) (x : Ring) (j : Nat) : (s.setRing k x).fn j = s.fn j := rfl
@[simp] theorem State.setRing_pool (s : State) (k : Nat) (x : Ring) (j : Nat) : (s.setRing k x).pool j = s.pool j := rfl
@[simp] theorem State.setRing_buf (s : State) (k : Nat) (x : Ring) (j : Nat) : (s.setRing k x).buf j = s.buf j := rfl
@[simp] theorem State.setRing_sess (s : State) (k : Nat) (x : Ring) (j : Nat) : (s.setRing k x).sess j = s.sess j := rfl
@[simp] theorem State.setRing_core (s : State) (k : Nat) (x : Ring) (j : Nat) : (s.setRing k x).core j = s.core j := rfl
@[simp] theorem State.setRing_hedge (s : State) (k : Nat) (x : Ring) (j : Nat) : (s.setRing k x).hedge j = s.hedge j := rfl
@[simp] theorem State.setRing_seq (s : State) (k : Nat) (x : Ring) (j : Nat) : (s.setRing k x).seq j = s.seq j := rfl
@[simp] theorem State.setRing_pipe (s : State) (k : Nat) (x : Ring) (j : Nat) : (s.setRing k x).pipe j = s.pipe j := rfl
@[simp] theorem State.setRing_stack (s : State) (k : Nat) (x : Ring) (j : Nat) : (s.setRing k x).stack j = s.stack j := rfl
@[simp] theorem State.setRing_pch (s : State) (k : Nat) (x : Ring) (j : Nat) : (s.setRing k x).pch j = s.pch j := rfl
@[simp] theorem State.setRing_rxf (s : State) (k : Nat) (x : Ring) (j : Nat) : (s.setRing k x).rxf j = s.rxf j := rfl
@[simp] theorem State.setRing_txf (s : State) (k : Nat) (x : Ring) (j : Nat) : (s.setRing k x).txf j = s.txf j := rfl
@[simp] theorem State.setRing_htxq (s : State) (k : Nat) (x : Ring) (j : Nat) : (s.setRing k x).htxq j = s.htxq j := rfl
@[simp] theorem State.setRing_port (s : State) (k : Nat) (x : Ring) (j : Nat) : (s.setRing k x).port j = s.port j := rfl
@[simp] theorem State.setRing_e2eOf (s : State) (k : Nat) (x : Ring) (j l : Nat) : (s.setRing k x).e2eOf j l = s.e2eOf j l := rfl
@[simp] theorem State.setRing_esp (s : State) (k : Nat) (x : Ring) (j : Nat) : (s.setRing k x).esp j = s.esp j := rfl
@[simp] theorem State.setRing_chan (s : State) (k : Nat) (x : Ring) (j : Nat) : (s.setRing k x).chan j = s.chan j := rfl
@[simp] theorem State.setRing_busy (s : State) (k : Nat) (x : Ring) (j : Nat) : (s.setRing k x).busy j = s.busy j := rfl
@[simp] theorem State.setRing_inDrain (s : State) (k : Nat) (x : Ring) (j : Nat) : (s.setRing k x).inDrain j = s.inDrain j := rfl
@[simp] theorem State.setRing_clocked (s : State) (k : Nat) (x : Ring) : (s.setRing k x).clocked = s.clocked := rfl

/-! setPool -/

@[simp] theorem State.setPool_pending (s : State) (k : Nat) (x : Pool) : (s.setPool k x).pending = s.pending := rfl
@[simp] theorem State.setPool_outbox (s : State) (k : Nat) (x : Pool) : (s.setPool k x).outbox = s.outbox := rfl
@[simp] theorem State.setPool_fresh (s : State) (k : Nat) (x : Pool) : (s.setPool k x).fresh = s.fresh := rfl
@[simp] theorem State.setPool_variant (s : State) (k : Nat) (x : Pool) : (s.setPool k x).variant = s.variant := rfl
@[simp] theorem State.setPool_rev (s : State) (k : Nat) (x : Pool) : (s.setPool k x).rev = s.rev := rfl
@[simp] theorem State.setPool_signReq (s : State) (k : Nat) (x : Pool) : (s.setPool k x).signReq = s.signReq := rfl
@[simp] theorem State.setPool_testEn (s : State) (k : Nat) (x : Pool) : (s.setPool k x).testEn = s.testEn := rfl
@[simp] theorem State.setPool_sa (s : State) (k : Nat) (x : Pool) : (s.setPool k x).sa = s.sa := rfl
@[simp] theorem State.setPool_regs (s : State) (k : Nat) (x : Pool) : (s.setPool k x).regs = s.regs := rfl
@[simp] theorem State.setPool_hiLatch (s : State) (k : Nat) (x : Pool) : (s.setPool k x).hiLatch = s.hiLatch := rfl
@[simp] theorem State.setPool_loHeld (s : State) (k : Nat) (x : Pool) : (s.setPool k x).loHeld = s.loHeld := rfl
@[simp] theorem State.setPool_hbm (s : State) (k : Nat) (x : Pool) : (s.setPool k x).hbm = s.hbm := rfl
@[simp] theorem State.setPool_memSeed (s : State) (k : Nat) (x : Pool) : (s.setPool k x).memSeed = s.memSeed := rfl
@[simp] theorem State.setPool_poison (s : State) (k : Nat) (x : Pool) : (s.setPool k x).poison = s.poison := rfl
@[simp] theorem State.setPool_host (s : State) (k : Nat) (x : Pool) : (s.setPool k x).host = s.host := rfl
@[simp] theorem State.setPool_hif (s : State) (k : Nat) (x : Pool) : (s.setPool k x).hif = s.hif := rfl
@[simp] theorem State.setPool_resetting (s : State) (k : Nat) (x : Pool) : (s.setPool k x).resetting = s.resetting := rfl
@[simp] theorem State.setPool_draining (s : State) (k : Nat) (x : Pool) : (s.setPool k x).draining = s.draining := rfl
@[simp] theorem State.setPool_edges (s : State) (k : Nat) (x : Pool) : (s.setPool k x).edges = s.edges := rfl
@[simp] theorem State.setPool_rings (s : State) (k : Nat) (x : Pool) : (s.setPool k x).rings = s.rings := rfl
@[simp] theorem State.setPool_chans (s : State) (k : Nat) (x : Pool) : (s.setPool k x).chans = s.chans := rfl
@[simp] theorem State.setPool_bufs (s : State) (k : Nat) (x : Pool) : (s.setPool k x).bufs = s.bufs := rfl
@[simp] theorem State.setPool_sessions (s : State) (k : Nat) (x : Pool) : (s.setPool k x).sessions = s.sessions := rfl
@[simp] theorem State.setPool_cores (s : State) (k : Nat) (x : Pool) : (s.setPool k x).cores = s.cores := rfl
@[simp] theorem State.setPool_hedges (s : State) (k : Nat) (x : Pool) : (s.setPool k x).hedges = s.hedges := rfl
@[simp] theorem State.setPool_seqs (s : State) (k : Nat) (x : Pool) : (s.setPool k x).seqs = s.seqs := rfl
@[simp] theorem State.setPool_store (s : State) (k : Nat) (x : Pool) : (s.setPool k x).store = s.store := rfl
@[simp] theorem State.setPool_pipes (s : State) (k : Nat) (x : Pool) : (s.setPool k x).pipes = s.pipes := rfl
@[simp] theorem State.setPool_hbmStacks (s : State) (k : Nat) (x : Pool) : (s.setPool k x).hbmStacks = s.hbmStacks := rfl
@[simp] theorem State.setPool_pchs (s : State) (k : Nat) (x : Pool) : (s.setPool k x).pchs = s.pchs := rfl
@[simp] theorem State.setPool_rxFlows (s : State) (k : Nat) (x : Pool) : (s.setPool k x).rxFlows = s.rxFlows := rfl
@[simp] theorem State.setPool_txFlows (s : State) (k : Nat) (x : Pool) : (s.setPool k x).txFlows = s.txFlows := rfl
@[simp] theorem State.setPool_htx (s : State) (k : Nat) (x : Pool) : (s.setPool k x).htx = s.htx := rfl
@[simp] theorem State.setPool_mtc (s : State) (k : Nat) (x : Pool) : (s.setPool k x).mtc = s.mtc := rfl
@[simp] theorem State.setPool_ports (s : State) (k : Nat) (x : Pool) : (s.setPool k x).ports = s.ports := rfl
@[simp] theorem State.setPool_e2e (s : State) (k : Nat) (x : Pool) : (s.setPool k x).e2e = s.e2e := rfl
@[simp] theorem State.setPool_remotes (s : State) (k : Nat) (x : Pool) : (s.setPool k x).remotes = s.remotes := rfl
@[simp] theorem State.setPool_esps (s : State) (k : Nat) (x : Pool) : (s.setPool k x).esps = s.esps := rfl
@[simp] theorem State.setPool_clock (s : State) (k : Nat) (x : Pool) : (s.setPool k x).clock = s.clock := rfl
@[simp] theorem State.setPool_power (s : State) (k : Nat) (x : Pool) : (s.setPool k x).power = s.power := rfl
@[simp] theorem State.setPool_resetReq (s : State) (k : Nat) (x : Pool) : (s.setPool k x).resetReq = s.resetReq := rfl
@[simp] theorem State.setPool_uptime (s : State) (k : Nat) (x : Pool) : (s.setPool k x).uptime = s.uptime := rfl
@[simp] theorem State.setPool_histTotal (s : State) (k : Nat) (x : Pool) : (s.setPool k x).histTotal = s.histTotal := rfl
@[simp] theorem State.setPool_unlock (s : State) (k : Nat) (x : Pool) : (s.setPool k x).unlock = s.unlock := rfl
@[simp] theorem State.setPool_inject (s : State) (k : Nat) (x : Pool) : (s.setPool k x).inject = s.inject := rfl
@[simp] theorem State.setPool_reg (s : State) (k : Nat) (x : Pool) (j : Nat) : (s.setPool k x).reg j = s.reg j := rfl
@[simp] theorem State.setPool_fn (s : State) (k : Nat) (x : Pool) (j : Nat) : (s.setPool k x).fn j = s.fn j := rfl
@[simp] theorem State.setPool_ring (s : State) (k : Nat) (x : Pool) (j : Nat) : (s.setPool k x).ring j = s.ring j := rfl
@[simp] theorem State.setPool_buf (s : State) (k : Nat) (x : Pool) (j : Nat) : (s.setPool k x).buf j = s.buf j := rfl
@[simp] theorem State.setPool_sess (s : State) (k : Nat) (x : Pool) (j : Nat) : (s.setPool k x).sess j = s.sess j := rfl
@[simp] theorem State.setPool_core (s : State) (k : Nat) (x : Pool) (j : Nat) : (s.setPool k x).core j = s.core j := rfl
@[simp] theorem State.setPool_hedge (s : State) (k : Nat) (x : Pool) (j : Nat) : (s.setPool k x).hedge j = s.hedge j := rfl
@[simp] theorem State.setPool_seq (s : State) (k : Nat) (x : Pool) (j : Nat) : (s.setPool k x).seq j = s.seq j := rfl
@[simp] theorem State.setPool_pipe (s : State) (k : Nat) (x : Pool) (j : Nat) : (s.setPool k x).pipe j = s.pipe j := rfl
@[simp] theorem State.setPool_stack (s : State) (k : Nat) (x : Pool) (j : Nat) : (s.setPool k x).stack j = s.stack j := rfl
@[simp] theorem State.setPool_pch (s : State) (k : Nat) (x : Pool) (j : Nat) : (s.setPool k x).pch j = s.pch j := rfl
@[simp] theorem State.setPool_rxf (s : State) (k : Nat) (x : Pool) (j : Nat) : (s.setPool k x).rxf j = s.rxf j := rfl
@[simp] theorem State.setPool_txf (s : State) (k : Nat) (x : Pool) (j : Nat) : (s.setPool k x).txf j = s.txf j := rfl
@[simp] theorem State.setPool_htxq (s : State) (k : Nat) (x : Pool) (j : Nat) : (s.setPool k x).htxq j = s.htxq j := rfl
@[simp] theorem State.setPool_port (s : State) (k : Nat) (x : Pool) (j : Nat) : (s.setPool k x).port j = s.port j := rfl
@[simp] theorem State.setPool_e2eOf (s : State) (k : Nat) (x : Pool) (j l : Nat) : (s.setPool k x).e2eOf j l = s.e2eOf j l := rfl
@[simp] theorem State.setPool_esp (s : State) (k : Nat) (x : Pool) (j : Nat) : (s.setPool k x).esp j = s.esp j := rfl
@[simp] theorem State.setPool_chan (s : State) (k : Nat) (x : Pool) (j : Nat) : (s.setPool k x).chan j = s.chan j := rfl
@[simp] theorem State.setPool_busy (s : State) (k : Nat) (x : Pool) (j : Nat) : (s.setPool k x).busy j = s.busy j := rfl
@[simp] theorem State.setPool_inDrain (s : State) (k : Nat) (x : Pool) (j : Nat) : (s.setPool k x).inDrain j = s.inDrain j := rfl
@[simp] theorem State.setPool_clocked (s : State) (k : Nat) (x : Pool) : (s.setPool k x).clocked = s.clocked := rfl

/-! setBuf -/

@[simp] theorem State.setBuf_pending (s : State) (k : Nat) (x : Buf) : (s.setBuf k x).pending = s.pending := rfl
@[simp] theorem State.setBuf_outbox (s : State) (k : Nat) (x : Buf) : (s.setBuf k x).outbox = s.outbox := rfl
@[simp] theorem State.setBuf_fresh (s : State) (k : Nat) (x : Buf) : (s.setBuf k x).fresh = s.fresh := rfl
@[simp] theorem State.setBuf_variant (s : State) (k : Nat) (x : Buf) : (s.setBuf k x).variant = s.variant := rfl
@[simp] theorem State.setBuf_rev (s : State) (k : Nat) (x : Buf) : (s.setBuf k x).rev = s.rev := rfl
@[simp] theorem State.setBuf_signReq (s : State) (k : Nat) (x : Buf) : (s.setBuf k x).signReq = s.signReq := rfl
@[simp] theorem State.setBuf_testEn (s : State) (k : Nat) (x : Buf) : (s.setBuf k x).testEn = s.testEn := rfl
@[simp] theorem State.setBuf_sa (s : State) (k : Nat) (x : Buf) : (s.setBuf k x).sa = s.sa := rfl
@[simp] theorem State.setBuf_regs (s : State) (k : Nat) (x : Buf) : (s.setBuf k x).regs = s.regs := rfl
@[simp] theorem State.setBuf_hiLatch (s : State) (k : Nat) (x : Buf) : (s.setBuf k x).hiLatch = s.hiLatch := rfl
@[simp] theorem State.setBuf_loHeld (s : State) (k : Nat) (x : Buf) : (s.setBuf k x).loHeld = s.loHeld := rfl
@[simp] theorem State.setBuf_hbm (s : State) (k : Nat) (x : Buf) : (s.setBuf k x).hbm = s.hbm := rfl
@[simp] theorem State.setBuf_memSeed (s : State) (k : Nat) (x : Buf) : (s.setBuf k x).memSeed = s.memSeed := rfl
@[simp] theorem State.setBuf_poison (s : State) (k : Nat) (x : Buf) : (s.setBuf k x).poison = s.poison := rfl
@[simp] theorem State.setBuf_host (s : State) (k : Nat) (x : Buf) : (s.setBuf k x).host = s.host := rfl
@[simp] theorem State.setBuf_hif (s : State) (k : Nat) (x : Buf) : (s.setBuf k x).hif = s.hif := rfl
@[simp] theorem State.setBuf_resetting (s : State) (k : Nat) (x : Buf) : (s.setBuf k x).resetting = s.resetting := rfl
@[simp] theorem State.setBuf_draining (s : State) (k : Nat) (x : Buf) : (s.setBuf k x).draining = s.draining := rfl
@[simp] theorem State.setBuf_edges (s : State) (k : Nat) (x : Buf) : (s.setBuf k x).edges = s.edges := rfl
@[simp] theorem State.setBuf_rings (s : State) (k : Nat) (x : Buf) : (s.setBuf k x).rings = s.rings := rfl
@[simp] theorem State.setBuf_chans (s : State) (k : Nat) (x : Buf) : (s.setBuf k x).chans = s.chans := rfl
@[simp] theorem State.setBuf_pools (s : State) (k : Nat) (x : Buf) : (s.setBuf k x).pools = s.pools := rfl
@[simp] theorem State.setBuf_sessions (s : State) (k : Nat) (x : Buf) : (s.setBuf k x).sessions = s.sessions := rfl
@[simp] theorem State.setBuf_cores (s : State) (k : Nat) (x : Buf) : (s.setBuf k x).cores = s.cores := rfl
@[simp] theorem State.setBuf_hedges (s : State) (k : Nat) (x : Buf) : (s.setBuf k x).hedges = s.hedges := rfl
@[simp] theorem State.setBuf_seqs (s : State) (k : Nat) (x : Buf) : (s.setBuf k x).seqs = s.seqs := rfl
@[simp] theorem State.setBuf_store (s : State) (k : Nat) (x : Buf) : (s.setBuf k x).store = s.store := rfl
@[simp] theorem State.setBuf_pipes (s : State) (k : Nat) (x : Buf) : (s.setBuf k x).pipes = s.pipes := rfl
@[simp] theorem State.setBuf_hbmStacks (s : State) (k : Nat) (x : Buf) : (s.setBuf k x).hbmStacks = s.hbmStacks := rfl
@[simp] theorem State.setBuf_pchs (s : State) (k : Nat) (x : Buf) : (s.setBuf k x).pchs = s.pchs := rfl
@[simp] theorem State.setBuf_rxFlows (s : State) (k : Nat) (x : Buf) : (s.setBuf k x).rxFlows = s.rxFlows := rfl
@[simp] theorem State.setBuf_txFlows (s : State) (k : Nat) (x : Buf) : (s.setBuf k x).txFlows = s.txFlows := rfl
@[simp] theorem State.setBuf_htx (s : State) (k : Nat) (x : Buf) : (s.setBuf k x).htx = s.htx := rfl
@[simp] theorem State.setBuf_mtc (s : State) (k : Nat) (x : Buf) : (s.setBuf k x).mtc = s.mtc := rfl
@[simp] theorem State.setBuf_ports (s : State) (k : Nat) (x : Buf) : (s.setBuf k x).ports = s.ports := rfl
@[simp] theorem State.setBuf_e2e (s : State) (k : Nat) (x : Buf) : (s.setBuf k x).e2e = s.e2e := rfl
@[simp] theorem State.setBuf_remotes (s : State) (k : Nat) (x : Buf) : (s.setBuf k x).remotes = s.remotes := rfl
@[simp] theorem State.setBuf_esps (s : State) (k : Nat) (x : Buf) : (s.setBuf k x).esps = s.esps := rfl
@[simp] theorem State.setBuf_clock (s : State) (k : Nat) (x : Buf) : (s.setBuf k x).clock = s.clock := rfl
@[simp] theorem State.setBuf_power (s : State) (k : Nat) (x : Buf) : (s.setBuf k x).power = s.power := rfl
@[simp] theorem State.setBuf_resetReq (s : State) (k : Nat) (x : Buf) : (s.setBuf k x).resetReq = s.resetReq := rfl
@[simp] theorem State.setBuf_uptime (s : State) (k : Nat) (x : Buf) : (s.setBuf k x).uptime = s.uptime := rfl
@[simp] theorem State.setBuf_histTotal (s : State) (k : Nat) (x : Buf) : (s.setBuf k x).histTotal = s.histTotal := rfl
@[simp] theorem State.setBuf_unlock (s : State) (k : Nat) (x : Buf) : (s.setBuf k x).unlock = s.unlock := rfl
@[simp] theorem State.setBuf_inject (s : State) (k : Nat) (x : Buf) : (s.setBuf k x).inject = s.inject := rfl
@[simp] theorem State.setBuf_reg (s : State) (k : Nat) (x : Buf) (j : Nat) : (s.setBuf k x).reg j = s.reg j := rfl
@[simp] theorem State.setBuf_fn (s : State) (k : Nat) (x : Buf) (j : Nat) : (s.setBuf k x).fn j = s.fn j := rfl
@[simp] theorem State.setBuf_ring (s : State) (k : Nat) (x : Buf) (j : Nat) : (s.setBuf k x).ring j = s.ring j := rfl
@[simp] theorem State.setBuf_pool (s : State) (k : Nat) (x : Buf) (j : Nat) : (s.setBuf k x).pool j = s.pool j := rfl
@[simp] theorem State.setBuf_sess (s : State) (k : Nat) (x : Buf) (j : Nat) : (s.setBuf k x).sess j = s.sess j := rfl
@[simp] theorem State.setBuf_core (s : State) (k : Nat) (x : Buf) (j : Nat) : (s.setBuf k x).core j = s.core j := rfl
@[simp] theorem State.setBuf_hedge (s : State) (k : Nat) (x : Buf) (j : Nat) : (s.setBuf k x).hedge j = s.hedge j := rfl
@[simp] theorem State.setBuf_seq (s : State) (k : Nat) (x : Buf) (j : Nat) : (s.setBuf k x).seq j = s.seq j := rfl
@[simp] theorem State.setBuf_pipe (s : State) (k : Nat) (x : Buf) (j : Nat) : (s.setBuf k x).pipe j = s.pipe j := rfl
@[simp] theorem State.setBuf_stack (s : State) (k : Nat) (x : Buf) (j : Nat) : (s.setBuf k x).stack j = s.stack j := rfl
@[simp] theorem State.setBuf_pch (s : State) (k : Nat) (x : Buf) (j : Nat) : (s.setBuf k x).pch j = s.pch j := rfl
@[simp] theorem State.setBuf_rxf (s : State) (k : Nat) (x : Buf) (j : Nat) : (s.setBuf k x).rxf j = s.rxf j := rfl
@[simp] theorem State.setBuf_txf (s : State) (k : Nat) (x : Buf) (j : Nat) : (s.setBuf k x).txf j = s.txf j := rfl
@[simp] theorem State.setBuf_htxq (s : State) (k : Nat) (x : Buf) (j : Nat) : (s.setBuf k x).htxq j = s.htxq j := rfl
@[simp] theorem State.setBuf_port (s : State) (k : Nat) (x : Buf) (j : Nat) : (s.setBuf k x).port j = s.port j := rfl
@[simp] theorem State.setBuf_e2eOf (s : State) (k : Nat) (x : Buf) (j l : Nat) : (s.setBuf k x).e2eOf j l = s.e2eOf j l := rfl
@[simp] theorem State.setBuf_esp (s : State) (k : Nat) (x : Buf) (j : Nat) : (s.setBuf k x).esp j = s.esp j := rfl
@[simp] theorem State.setBuf_chan (s : State) (k : Nat) (x : Buf) (j : Nat) : (s.setBuf k x).chan j = s.chan j := rfl
@[simp] theorem State.setBuf_busy (s : State) (k : Nat) (x : Buf) (j : Nat) : (s.setBuf k x).busy j = s.busy j := rfl
@[simp] theorem State.setBuf_inDrain (s : State) (k : Nat) (x : Buf) (j : Nat) : (s.setBuf k x).inDrain j = s.inDrain j := rfl
@[simp] theorem State.setBuf_clocked (s : State) (k : Nat) (x : Buf) : (s.setBuf k x).clocked = s.clocked := rfl

/-! setSess -/

@[simp] theorem State.setSess_pending (s : State) (k : Nat) (x : Sess) : (s.setSess k x).pending = s.pending := rfl
@[simp] theorem State.setSess_outbox (s : State) (k : Nat) (x : Sess) : (s.setSess k x).outbox = s.outbox := rfl
@[simp] theorem State.setSess_fresh (s : State) (k : Nat) (x : Sess) : (s.setSess k x).fresh = s.fresh := rfl
@[simp] theorem State.setSess_variant (s : State) (k : Nat) (x : Sess) : (s.setSess k x).variant = s.variant := rfl
@[simp] theorem State.setSess_rev (s : State) (k : Nat) (x : Sess) : (s.setSess k x).rev = s.rev := rfl
@[simp] theorem State.setSess_signReq (s : State) (k : Nat) (x : Sess) : (s.setSess k x).signReq = s.signReq := rfl
@[simp] theorem State.setSess_testEn (s : State) (k : Nat) (x : Sess) : (s.setSess k x).testEn = s.testEn := rfl
@[simp] theorem State.setSess_sa (s : State) (k : Nat) (x : Sess) : (s.setSess k x).sa = s.sa := rfl
@[simp] theorem State.setSess_regs (s : State) (k : Nat) (x : Sess) : (s.setSess k x).regs = s.regs := rfl
@[simp] theorem State.setSess_hiLatch (s : State) (k : Nat) (x : Sess) : (s.setSess k x).hiLatch = s.hiLatch := rfl
@[simp] theorem State.setSess_loHeld (s : State) (k : Nat) (x : Sess) : (s.setSess k x).loHeld = s.loHeld := rfl
@[simp] theorem State.setSess_hbm (s : State) (k : Nat) (x : Sess) : (s.setSess k x).hbm = s.hbm := rfl
@[simp] theorem State.setSess_memSeed (s : State) (k : Nat) (x : Sess) : (s.setSess k x).memSeed = s.memSeed := rfl
@[simp] theorem State.setSess_poison (s : State) (k : Nat) (x : Sess) : (s.setSess k x).poison = s.poison := rfl
@[simp] theorem State.setSess_host (s : State) (k : Nat) (x : Sess) : (s.setSess k x).host = s.host := rfl
@[simp] theorem State.setSess_hif (s : State) (k : Nat) (x : Sess) : (s.setSess k x).hif = s.hif := rfl
@[simp] theorem State.setSess_resetting (s : State) (k : Nat) (x : Sess) : (s.setSess k x).resetting = s.resetting := rfl
@[simp] theorem State.setSess_draining (s : State) (k : Nat) (x : Sess) : (s.setSess k x).draining = s.draining := rfl
@[simp] theorem State.setSess_edges (s : State) (k : Nat) (x : Sess) : (s.setSess k x).edges = s.edges := rfl
@[simp] theorem State.setSess_rings (s : State) (k : Nat) (x : Sess) : (s.setSess k x).rings = s.rings := rfl
@[simp] theorem State.setSess_chans (s : State) (k : Nat) (x : Sess) : (s.setSess k x).chans = s.chans := rfl
@[simp] theorem State.setSess_pools (s : State) (k : Nat) (x : Sess) : (s.setSess k x).pools = s.pools := rfl
@[simp] theorem State.setSess_bufs (s : State) (k : Nat) (x : Sess) : (s.setSess k x).bufs = s.bufs := rfl
@[simp] theorem State.setSess_cores (s : State) (k : Nat) (x : Sess) : (s.setSess k x).cores = s.cores := rfl
@[simp] theorem State.setSess_hedges (s : State) (k : Nat) (x : Sess) : (s.setSess k x).hedges = s.hedges := rfl
@[simp] theorem State.setSess_seqs (s : State) (k : Nat) (x : Sess) : (s.setSess k x).seqs = s.seqs := rfl
@[simp] theorem State.setSess_store (s : State) (k : Nat) (x : Sess) : (s.setSess k x).store = s.store := rfl
@[simp] theorem State.setSess_pipes (s : State) (k : Nat) (x : Sess) : (s.setSess k x).pipes = s.pipes := rfl
@[simp] theorem State.setSess_hbmStacks (s : State) (k : Nat) (x : Sess) : (s.setSess k x).hbmStacks = s.hbmStacks := rfl
@[simp] theorem State.setSess_pchs (s : State) (k : Nat) (x : Sess) : (s.setSess k x).pchs = s.pchs := rfl
@[simp] theorem State.setSess_rxFlows (s : State) (k : Nat) (x : Sess) : (s.setSess k x).rxFlows = s.rxFlows := rfl
@[simp] theorem State.setSess_txFlows (s : State) (k : Nat) (x : Sess) : (s.setSess k x).txFlows = s.txFlows := rfl
@[simp] theorem State.setSess_htx (s : State) (k : Nat) (x : Sess) : (s.setSess k x).htx = s.htx := rfl
@[simp] theorem State.setSess_mtc (s : State) (k : Nat) (x : Sess) : (s.setSess k x).mtc = s.mtc := rfl
@[simp] theorem State.setSess_ports (s : State) (k : Nat) (x : Sess) : (s.setSess k x).ports = s.ports := rfl
@[simp] theorem State.setSess_e2e (s : State) (k : Nat) (x : Sess) : (s.setSess k x).e2e = s.e2e := rfl
@[simp] theorem State.setSess_remotes (s : State) (k : Nat) (x : Sess) : (s.setSess k x).remotes = s.remotes := rfl
@[simp] theorem State.setSess_esps (s : State) (k : Nat) (x : Sess) : (s.setSess k x).esps = s.esps := rfl
@[simp] theorem State.setSess_clock (s : State) (k : Nat) (x : Sess) : (s.setSess k x).clock = s.clock := rfl
@[simp] theorem State.setSess_power (s : State) (k : Nat) (x : Sess) : (s.setSess k x).power = s.power := rfl
@[simp] theorem State.setSess_resetReq (s : State) (k : Nat) (x : Sess) : (s.setSess k x).resetReq = s.resetReq := rfl
@[simp] theorem State.setSess_uptime (s : State) (k : Nat) (x : Sess) : (s.setSess k x).uptime = s.uptime := rfl
@[simp] theorem State.setSess_histTotal (s : State) (k : Nat) (x : Sess) : (s.setSess k x).histTotal = s.histTotal := rfl
@[simp] theorem State.setSess_unlock (s : State) (k : Nat) (x : Sess) : (s.setSess k x).unlock = s.unlock := rfl
@[simp] theorem State.setSess_inject (s : State) (k : Nat) (x : Sess) : (s.setSess k x).inject = s.inject := rfl
@[simp] theorem State.setSess_reg (s : State) (k : Nat) (x : Sess) (j : Nat) : (s.setSess k x).reg j = s.reg j := rfl
@[simp] theorem State.setSess_fn (s : State) (k : Nat) (x : Sess) (j : Nat) : (s.setSess k x).fn j = s.fn j := rfl
@[simp] theorem State.setSess_ring (s : State) (k : Nat) (x : Sess) (j : Nat) : (s.setSess k x).ring j = s.ring j := rfl
@[simp] theorem State.setSess_pool (s : State) (k : Nat) (x : Sess) (j : Nat) : (s.setSess k x).pool j = s.pool j := rfl
@[simp] theorem State.setSess_buf (s : State) (k : Nat) (x : Sess) (j : Nat) : (s.setSess k x).buf j = s.buf j := rfl
@[simp] theorem State.setSess_core (s : State) (k : Nat) (x : Sess) (j : Nat) : (s.setSess k x).core j = s.core j := rfl
@[simp] theorem State.setSess_hedge (s : State) (k : Nat) (x : Sess) (j : Nat) : (s.setSess k x).hedge j = s.hedge j := rfl
@[simp] theorem State.setSess_seq (s : State) (k : Nat) (x : Sess) (j : Nat) : (s.setSess k x).seq j = s.seq j := rfl
@[simp] theorem State.setSess_pipe (s : State) (k : Nat) (x : Sess) (j : Nat) : (s.setSess k x).pipe j = s.pipe j := rfl
@[simp] theorem State.setSess_stack (s : State) (k : Nat) (x : Sess) (j : Nat) : (s.setSess k x).stack j = s.stack j := rfl
@[simp] theorem State.setSess_pch (s : State) (k : Nat) (x : Sess) (j : Nat) : (s.setSess k x).pch j = s.pch j := rfl
@[simp] theorem State.setSess_rxf (s : State) (k : Nat) (x : Sess) (j : Nat) : (s.setSess k x).rxf j = s.rxf j := rfl
@[simp] theorem State.setSess_txf (s : State) (k : Nat) (x : Sess) (j : Nat) : (s.setSess k x).txf j = s.txf j := rfl
@[simp] theorem State.setSess_htxq (s : State) (k : Nat) (x : Sess) (j : Nat) : (s.setSess k x).htxq j = s.htxq j := rfl
@[simp] theorem State.setSess_port (s : State) (k : Nat) (x : Sess) (j : Nat) : (s.setSess k x).port j = s.port j := rfl
@[simp] theorem State.setSess_e2eOf (s : State) (k : Nat) (x : Sess) (j l : Nat) : (s.setSess k x).e2eOf j l = s.e2eOf j l := rfl
@[simp] theorem State.setSess_esp (s : State) (k : Nat) (x : Sess) (j : Nat) : (s.setSess k x).esp j = s.esp j := rfl
@[simp] theorem State.setSess_chan (s : State) (k : Nat) (x : Sess) (j : Nat) : (s.setSess k x).chan j = s.chan j := rfl
@[simp] theorem State.setSess_busy (s : State) (k : Nat) (x : Sess) (j : Nat) : (s.setSess k x).busy j = s.busy j := rfl
@[simp] theorem State.setSess_inDrain (s : State) (k : Nat) (x : Sess) (j : Nat) : (s.setSess k x).inDrain j = s.inDrain j := rfl
@[simp] theorem State.setSess_clocked (s : State) (k : Nat) (x : Sess) : (s.setSess k x).clocked = s.clocked := rfl

/-! setCore -/

@[simp] theorem State.setCore_pending (s : State) (k : Nat) (x : Core) : (s.setCore k x).pending = s.pending := rfl
@[simp] theorem State.setCore_outbox (s : State) (k : Nat) (x : Core) : (s.setCore k x).outbox = s.outbox := rfl
@[simp] theorem State.setCore_fresh (s : State) (k : Nat) (x : Core) : (s.setCore k x).fresh = s.fresh := rfl
@[simp] theorem State.setCore_variant (s : State) (k : Nat) (x : Core) : (s.setCore k x).variant = s.variant := rfl
@[simp] theorem State.setCore_rev (s : State) (k : Nat) (x : Core) : (s.setCore k x).rev = s.rev := rfl
@[simp] theorem State.setCore_signReq (s : State) (k : Nat) (x : Core) : (s.setCore k x).signReq = s.signReq := rfl
@[simp] theorem State.setCore_testEn (s : State) (k : Nat) (x : Core) : (s.setCore k x).testEn = s.testEn := rfl
@[simp] theorem State.setCore_sa (s : State) (k : Nat) (x : Core) : (s.setCore k x).sa = s.sa := rfl
@[simp] theorem State.setCore_regs (s : State) (k : Nat) (x : Core) : (s.setCore k x).regs = s.regs := rfl
@[simp] theorem State.setCore_hiLatch (s : State) (k : Nat) (x : Core) : (s.setCore k x).hiLatch = s.hiLatch := rfl
@[simp] theorem State.setCore_loHeld (s : State) (k : Nat) (x : Core) : (s.setCore k x).loHeld = s.loHeld := rfl
@[simp] theorem State.setCore_hbm (s : State) (k : Nat) (x : Core) : (s.setCore k x).hbm = s.hbm := rfl
@[simp] theorem State.setCore_memSeed (s : State) (k : Nat) (x : Core) : (s.setCore k x).memSeed = s.memSeed := rfl
@[simp] theorem State.setCore_poison (s : State) (k : Nat) (x : Core) : (s.setCore k x).poison = s.poison := rfl
@[simp] theorem State.setCore_host (s : State) (k : Nat) (x : Core) : (s.setCore k x).host = s.host := rfl
@[simp] theorem State.setCore_hif (s : State) (k : Nat) (x : Core) : (s.setCore k x).hif = s.hif := rfl
@[simp] theorem State.setCore_resetting (s : State) (k : Nat) (x : Core) : (s.setCore k x).resetting = s.resetting := rfl
@[simp] theorem State.setCore_draining (s : State) (k : Nat) (x : Core) : (s.setCore k x).draining = s.draining := rfl
@[simp] theorem State.setCore_edges (s : State) (k : Nat) (x : Core) : (s.setCore k x).edges = s.edges := rfl
@[simp] theorem State.setCore_rings (s : State) (k : Nat) (x : Core) : (s.setCore k x).rings = s.rings := rfl
@[simp] theorem State.setCore_chans (s : State) (k : Nat) (x : Core) : (s.setCore k x).chans = s.chans := rfl
@[simp] theorem State.setCore_pools (s : State) (k : Nat) (x : Core) : (s.setCore k x).pools = s.pools := rfl
@[simp] theorem State.setCore_bufs (s : State) (k : Nat) (x : Core) : (s.setCore k x).bufs = s.bufs := rfl
@[simp] theorem State.setCore_sessions (s : State) (k : Nat) (x : Core) : (s.setCore k x).sessions = s.sessions := rfl
@[simp] theorem State.setCore_hedges (s : State) (k : Nat) (x : Core) : (s.setCore k x).hedges = s.hedges := rfl
@[simp] theorem State.setCore_seqs (s : State) (k : Nat) (x : Core) : (s.setCore k x).seqs = s.seqs := rfl
@[simp] theorem State.setCore_store (s : State) (k : Nat) (x : Core) : (s.setCore k x).store = s.store := rfl
@[simp] theorem State.setCore_pipes (s : State) (k : Nat) (x : Core) : (s.setCore k x).pipes = s.pipes := rfl
@[simp] theorem State.setCore_hbmStacks (s : State) (k : Nat) (x : Core) : (s.setCore k x).hbmStacks = s.hbmStacks := rfl
@[simp] theorem State.setCore_pchs (s : State) (k : Nat) (x : Core) : (s.setCore k x).pchs = s.pchs := rfl
@[simp] theorem State.setCore_rxFlows (s : State) (k : Nat) (x : Core) : (s.setCore k x).rxFlows = s.rxFlows := rfl
@[simp] theorem State.setCore_txFlows (s : State) (k : Nat) (x : Core) : (s.setCore k x).txFlows = s.txFlows := rfl
@[simp] theorem State.setCore_htx (s : State) (k : Nat) (x : Core) : (s.setCore k x).htx = s.htx := rfl
@[simp] theorem State.setCore_mtc (s : State) (k : Nat) (x : Core) : (s.setCore k x).mtc = s.mtc := rfl
@[simp] theorem State.setCore_ports (s : State) (k : Nat) (x : Core) : (s.setCore k x).ports = s.ports := rfl
@[simp] theorem State.setCore_e2e (s : State) (k : Nat) (x : Core) : (s.setCore k x).e2e = s.e2e := rfl
@[simp] theorem State.setCore_remotes (s : State) (k : Nat) (x : Core) : (s.setCore k x).remotes = s.remotes := rfl
@[simp] theorem State.setCore_esps (s : State) (k : Nat) (x : Core) : (s.setCore k x).esps = s.esps := rfl
@[simp] theorem State.setCore_clock (s : State) (k : Nat) (x : Core) : (s.setCore k x).clock = s.clock := rfl
@[simp] theorem State.setCore_power (s : State) (k : Nat) (x : Core) : (s.setCore k x).power = s.power := rfl
@[simp] theorem State.setCore_resetReq (s : State) (k : Nat) (x : Core) : (s.setCore k x).resetReq = s.resetReq := rfl
@[simp] theorem State.setCore_uptime (s : State) (k : Nat) (x : Core) : (s.setCore k x).uptime = s.uptime := rfl
@[simp] theorem State.setCore_histTotal (s : State) (k : Nat) (x : Core) : (s.setCore k x).histTotal = s.histTotal := rfl
@[simp] theorem State.setCore_unlock (s : State) (k : Nat) (x : Core) : (s.setCore k x).unlock = s.unlock := rfl
@[simp] theorem State.setCore_inject (s : State) (k : Nat) (x : Core) : (s.setCore k x).inject = s.inject := rfl
@[simp] theorem State.setCore_reg (s : State) (k : Nat) (x : Core) (j : Nat) : (s.setCore k x).reg j = s.reg j := rfl
@[simp] theorem State.setCore_fn (s : State) (k : Nat) (x : Core) (j : Nat) : (s.setCore k x).fn j = s.fn j := rfl
@[simp] theorem State.setCore_ring (s : State) (k : Nat) (x : Core) (j : Nat) : (s.setCore k x).ring j = s.ring j := rfl
@[simp] theorem State.setCore_pool (s : State) (k : Nat) (x : Core) (j : Nat) : (s.setCore k x).pool j = s.pool j := rfl
@[simp] theorem State.setCore_buf (s : State) (k : Nat) (x : Core) (j : Nat) : (s.setCore k x).buf j = s.buf j := rfl
@[simp] theorem State.setCore_sess (s : State) (k : Nat) (x : Core) (j : Nat) : (s.setCore k x).sess j = s.sess j := rfl
@[simp] theorem State.setCore_hedge (s : State) (k : Nat) (x : Core) (j : Nat) : (s.setCore k x).hedge j = s.hedge j := rfl
@[simp] theorem State.setCore_seq (s : State) (k : Nat) (x : Core) (j : Nat) : (s.setCore k x).seq j = s.seq j := rfl
@[simp] theorem State.setCore_pipe (s : State) (k : Nat) (x : Core) (j : Nat) : (s.setCore k x).pipe j = s.pipe j := rfl
@[simp] theorem State.setCore_stack (s : State) (k : Nat) (x : Core) (j : Nat) : (s.setCore k x).stack j = s.stack j := rfl
@[simp] theorem State.setCore_pch (s : State) (k : Nat) (x : Core) (j : Nat) : (s.setCore k x).pch j = s.pch j := rfl
@[simp] theorem State.setCore_rxf (s : State) (k : Nat) (x : Core) (j : Nat) : (s.setCore k x).rxf j = s.rxf j := rfl
@[simp] theorem State.setCore_txf (s : State) (k : Nat) (x : Core) (j : Nat) : (s.setCore k x).txf j = s.txf j := rfl
@[simp] theorem State.setCore_htxq (s : State) (k : Nat) (x : Core) (j : Nat) : (s.setCore k x).htxq j = s.htxq j := rfl
@[simp] theorem State.setCore_port (s : State) (k : Nat) (x : Core) (j : Nat) : (s.setCore k x).port j = s.port j := rfl
@[simp] theorem State.setCore_e2eOf (s : State) (k : Nat) (x : Core) (j l : Nat) : (s.setCore k x).e2eOf j l = s.e2eOf j l := rfl
@[simp] theorem State.setCore_esp (s : State) (k : Nat) (x : Core) (j : Nat) : (s.setCore k x).esp j = s.esp j := rfl
@[simp] theorem State.setCore_chan (s : State) (k : Nat) (x : Core) (j : Nat) : (s.setCore k x).chan j = s.chan j := rfl
@[simp] theorem State.setCore_busy (s : State) (k : Nat) (x : Core) (j : Nat) : (s.setCore k x).busy j = s.busy j := rfl
@[simp] theorem State.setCore_inDrain (s : State) (k : Nat) (x : Core) (j : Nat) : (s.setCore k x).inDrain j = s.inDrain j := rfl
@[simp] theorem State.setCore_clocked (s : State) (k : Nat) (x : Core) : (s.setCore k x).clocked = s.clocked := rfl

/-! setHedge -/

@[simp] theorem State.setHedge_pending (s : State) (k : Nat) (x : Hedge) : (s.setHedge k x).pending = s.pending := rfl
@[simp] theorem State.setHedge_outbox (s : State) (k : Nat) (x : Hedge) : (s.setHedge k x).outbox = s.outbox := rfl
@[simp] theorem State.setHedge_fresh (s : State) (k : Nat) (x : Hedge) : (s.setHedge k x).fresh = s.fresh := rfl
@[simp] theorem State.setHedge_variant (s : State) (k : Nat) (x : Hedge) : (s.setHedge k x).variant = s.variant := rfl
@[simp] theorem State.setHedge_rev (s : State) (k : Nat) (x : Hedge) : (s.setHedge k x).rev = s.rev := rfl
@[simp] theorem State.setHedge_signReq (s : State) (k : Nat) (x : Hedge) : (s.setHedge k x).signReq = s.signReq := rfl
@[simp] theorem State.setHedge_testEn (s : State) (k : Nat) (x : Hedge) : (s.setHedge k x).testEn = s.testEn := rfl
@[simp] theorem State.setHedge_sa (s : State) (k : Nat) (x : Hedge) : (s.setHedge k x).sa = s.sa := rfl
@[simp] theorem State.setHedge_regs (s : State) (k : Nat) (x : Hedge) : (s.setHedge k x).regs = s.regs := rfl
@[simp] theorem State.setHedge_hiLatch (s : State) (k : Nat) (x : Hedge) : (s.setHedge k x).hiLatch = s.hiLatch := rfl
@[simp] theorem State.setHedge_loHeld (s : State) (k : Nat) (x : Hedge) : (s.setHedge k x).loHeld = s.loHeld := rfl
@[simp] theorem State.setHedge_hbm (s : State) (k : Nat) (x : Hedge) : (s.setHedge k x).hbm = s.hbm := rfl
@[simp] theorem State.setHedge_memSeed (s : State) (k : Nat) (x : Hedge) : (s.setHedge k x).memSeed = s.memSeed := rfl
@[simp] theorem State.setHedge_poison (s : State) (k : Nat) (x : Hedge) : (s.setHedge k x).poison = s.poison := rfl
@[simp] theorem State.setHedge_host (s : State) (k : Nat) (x : Hedge) : (s.setHedge k x).host = s.host := rfl
@[simp] theorem State.setHedge_hif (s : State) (k : Nat) (x : Hedge) : (s.setHedge k x).hif = s.hif := rfl
@[simp] theorem State.setHedge_resetting (s : State) (k : Nat) (x : Hedge) : (s.setHedge k x).resetting = s.resetting := rfl
@[simp] theorem State.setHedge_draining (s : State) (k : Nat) (x : Hedge) : (s.setHedge k x).draining = s.draining := rfl
@[simp] theorem State.setHedge_edges (s : State) (k : Nat) (x : Hedge) : (s.setHedge k x).edges = s.edges := rfl
@[simp] theorem State.setHedge_rings (s : State) (k : Nat) (x : Hedge) : (s.setHedge k x).rings = s.rings := rfl
@[simp] theorem State.setHedge_chans (s : State) (k : Nat) (x : Hedge) : (s.setHedge k x).chans = s.chans := rfl
@[simp] theorem State.setHedge_pools (s : State) (k : Nat) (x : Hedge) : (s.setHedge k x).pools = s.pools := rfl
@[simp] theorem State.setHedge_bufs (s : State) (k : Nat) (x : Hedge) : (s.setHedge k x).bufs = s.bufs := rfl
@[simp] theorem State.setHedge_sessions (s : State) (k : Nat) (x : Hedge) : (s.setHedge k x).sessions = s.sessions := rfl
@[simp] theorem State.setHedge_cores (s : State) (k : Nat) (x : Hedge) : (s.setHedge k x).cores = s.cores := rfl
@[simp] theorem State.setHedge_seqs (s : State) (k : Nat) (x : Hedge) : (s.setHedge k x).seqs = s.seqs := rfl
@[simp] theorem State.setHedge_store (s : State) (k : Nat) (x : Hedge) : (s.setHedge k x).store = s.store := rfl
@[simp] theorem State.setHedge_pipes (s : State) (k : Nat) (x : Hedge) : (s.setHedge k x).pipes = s.pipes := rfl
@[simp] theorem State.setHedge_hbmStacks (s : State) (k : Nat) (x : Hedge) : (s.setHedge k x).hbmStacks = s.hbmStacks := rfl
@[simp] theorem State.setHedge_pchs (s : State) (k : Nat) (x : Hedge) : (s.setHedge k x).pchs = s.pchs := rfl
@[simp] theorem State.setHedge_rxFlows (s : State) (k : Nat) (x : Hedge) : (s.setHedge k x).rxFlows = s.rxFlows := rfl
@[simp] theorem State.setHedge_txFlows (s : State) (k : Nat) (x : Hedge) : (s.setHedge k x).txFlows = s.txFlows := rfl
@[simp] theorem State.setHedge_htx (s : State) (k : Nat) (x : Hedge) : (s.setHedge k x).htx = s.htx := rfl
@[simp] theorem State.setHedge_mtc (s : State) (k : Nat) (x : Hedge) : (s.setHedge k x).mtc = s.mtc := rfl
@[simp] theorem State.setHedge_ports (s : State) (k : Nat) (x : Hedge) : (s.setHedge k x).ports = s.ports := rfl
@[simp] theorem State.setHedge_e2e (s : State) (k : Nat) (x : Hedge) : (s.setHedge k x).e2e = s.e2e := rfl
@[simp] theorem State.setHedge_remotes (s : State) (k : Nat) (x : Hedge) : (s.setHedge k x).remotes = s.remotes := rfl
@[simp] theorem State.setHedge_esps (s : State) (k : Nat) (x : Hedge) : (s.setHedge k x).esps = s.esps := rfl
@[simp] theorem State.setHedge_clock (s : State) (k : Nat) (x : Hedge) : (s.setHedge k x).clock = s.clock := rfl
@[simp] theorem State.setHedge_power (s : State) (k : Nat) (x : Hedge) : (s.setHedge k x).power = s.power := rfl
@[simp] theorem State.setHedge_resetReq (s : State) (k : Nat) (x : Hedge) : (s.setHedge k x).resetReq = s.resetReq := rfl
@[simp] theorem State.setHedge_uptime (s : State) (k : Nat) (x : Hedge) : (s.setHedge k x).uptime = s.uptime := rfl
@[simp] theorem State.setHedge_histTotal (s : State) (k : Nat) (x : Hedge) : (s.setHedge k x).histTotal = s.histTotal := rfl
@[simp] theorem State.setHedge_unlock (s : State) (k : Nat) (x : Hedge) : (s.setHedge k x).unlock = s.unlock := rfl
@[simp] theorem State.setHedge_inject (s : State) (k : Nat) (x : Hedge) : (s.setHedge k x).inject = s.inject := rfl
@[simp] theorem State.setHedge_reg (s : State) (k : Nat) (x : Hedge) (j : Nat) : (s.setHedge k x).reg j = s.reg j := rfl
@[simp] theorem State.setHedge_fn (s : State) (k : Nat) (x : Hedge) (j : Nat) : (s.setHedge k x).fn j = s.fn j := rfl
@[simp] theorem State.setHedge_ring (s : State) (k : Nat) (x : Hedge) (j : Nat) : (s.setHedge k x).ring j = s.ring j := rfl
@[simp] theorem State.setHedge_pool (s : State) (k : Nat) (x : Hedge) (j : Nat) : (s.setHedge k x).pool j = s.pool j := rfl
@[simp] theorem State.setHedge_buf (s : State) (k : Nat) (x : Hedge) (j : Nat) : (s.setHedge k x).buf j = s.buf j := rfl
@[simp] theorem State.setHedge_sess (s : State) (k : Nat) (x : Hedge) (j : Nat) : (s.setHedge k x).sess j = s.sess j := rfl
@[simp] theorem State.setHedge_core (s : State) (k : Nat) (x : Hedge) (j : Nat) : (s.setHedge k x).core j = s.core j := rfl
@[simp] theorem State.setHedge_seq (s : State) (k : Nat) (x : Hedge) (j : Nat) : (s.setHedge k x).seq j = s.seq j := rfl
@[simp] theorem State.setHedge_pipe (s : State) (k : Nat) (x : Hedge) (j : Nat) : (s.setHedge k x).pipe j = s.pipe j := rfl
@[simp] theorem State.setHedge_stack (s : State) (k : Nat) (x : Hedge) (j : Nat) : (s.setHedge k x).stack j = s.stack j := rfl
@[simp] theorem State.setHedge_pch (s : State) (k : Nat) (x : Hedge) (j : Nat) : (s.setHedge k x).pch j = s.pch j := rfl
@[simp] theorem State.setHedge_rxf (s : State) (k : Nat) (x : Hedge) (j : Nat) : (s.setHedge k x).rxf j = s.rxf j := rfl
@[simp] theorem State.setHedge_txf (s : State) (k : Nat) (x : Hedge) (j : Nat) : (s.setHedge k x).txf j = s.txf j := rfl
@[simp] theorem State.setHedge_htxq (s : State) (k : Nat) (x : Hedge) (j : Nat) : (s.setHedge k x).htxq j = s.htxq j := rfl
@[simp] theorem State.setHedge_port (s : State) (k : Nat) (x : Hedge) (j : Nat) : (s.setHedge k x).port j = s.port j := rfl
@[simp] theorem State.setHedge_e2eOf (s : State) (k : Nat) (x : Hedge) (j l : Nat) : (s.setHedge k x).e2eOf j l = s.e2eOf j l := rfl
@[simp] theorem State.setHedge_esp (s : State) (k : Nat) (x : Hedge) (j : Nat) : (s.setHedge k x).esp j = s.esp j := rfl
@[simp] theorem State.setHedge_chan (s : State) (k : Nat) (x : Hedge) (j : Nat) : (s.setHedge k x).chan j = s.chan j := rfl
@[simp] theorem State.setHedge_busy (s : State) (k : Nat) (x : Hedge) (j : Nat) : (s.setHedge k x).busy j = s.busy j := rfl
@[simp] theorem State.setHedge_inDrain (s : State) (k : Nat) (x : Hedge) (j : Nat) : (s.setHedge k x).inDrain j = s.inDrain j := rfl
@[simp] theorem State.setHedge_clocked (s : State) (k : Nat) (x : Hedge) : (s.setHedge k x).clocked = s.clocked := rfl

/-! setSeq -/

@[simp] theorem State.setSeq_pending (s : State) (k : Nat) (x : Seqr) : (s.setSeq k x).pending = s.pending := rfl
@[simp] theorem State.setSeq_outbox (s : State) (k : Nat) (x : Seqr) : (s.setSeq k x).outbox = s.outbox := rfl
@[simp] theorem State.setSeq_fresh (s : State) (k : Nat) (x : Seqr) : (s.setSeq k x).fresh = s.fresh := rfl
@[simp] theorem State.setSeq_variant (s : State) (k : Nat) (x : Seqr) : (s.setSeq k x).variant = s.variant := rfl
@[simp] theorem State.setSeq_rev (s : State) (k : Nat) (x : Seqr) : (s.setSeq k x).rev = s.rev := rfl
@[simp] theorem State.setSeq_signReq (s : State) (k : Nat) (x : Seqr) : (s.setSeq k x).signReq = s.signReq := rfl
@[simp] theorem State.setSeq_testEn (s : State) (k : Nat) (x : Seqr) : (s.setSeq k x).testEn = s.testEn := rfl
@[simp] theorem State.setSeq_sa (s : State) (k : Nat) (x : Seqr) : (s.setSeq k x).sa = s.sa := rfl
@[simp] theorem State.setSeq_regs (s : State) (k : Nat) (x : Seqr) : (s.setSeq k x).regs = s.regs := rfl
@[simp] theorem State.setSeq_hiLatch (s : State) (k : Nat) (x : Seqr) : (s.setSeq k x).hiLatch = s.hiLatch := rfl
@[simp] theorem State.setSeq_loHeld (s : State) (k : Nat) (x : Seqr) : (s.setSeq k x).loHeld = s.loHeld := rfl
@[simp] theorem State.setSeq_hbm (s : State) (k : Nat) (x : Seqr) : (s.setSeq k x).hbm = s.hbm := rfl
@[simp] theorem State.setSeq_memSeed (s : State) (k : Nat) (x : Seqr) : (s.setSeq k x).memSeed = s.memSeed := rfl
@[simp] theorem State.setSeq_poison (s : State) (k : Nat) (x : Seqr) : (s.setSeq k x).poison = s.poison := rfl
@[simp] theorem State.setSeq_host (s : State) (k : Nat) (x : Seqr) : (s.setSeq k x).host = s.host := rfl
@[simp] theorem State.setSeq_hif (s : State) (k : Nat) (x : Seqr) : (s.setSeq k x).hif = s.hif := rfl
@[simp] theorem State.setSeq_resetting (s : State) (k : Nat) (x : Seqr) : (s.setSeq k x).resetting = s.resetting := rfl
@[simp] theorem State.setSeq_draining (s : State) (k : Nat) (x : Seqr) : (s.setSeq k x).draining = s.draining := rfl
@[simp] theorem State.setSeq_edges (s : State) (k : Nat) (x : Seqr) : (s.setSeq k x).edges = s.edges := rfl
@[simp] theorem State.setSeq_rings (s : State) (k : Nat) (x : Seqr) : (s.setSeq k x).rings = s.rings := rfl
@[simp] theorem State.setSeq_chans (s : State) (k : Nat) (x : Seqr) : (s.setSeq k x).chans = s.chans := rfl
@[simp] theorem State.setSeq_pools (s : State) (k : Nat) (x : Seqr) : (s.setSeq k x).pools = s.pools := rfl
@[simp] theorem State.setSeq_bufs (s : State) (k : Nat) (x : Seqr) : (s.setSeq k x).bufs = s.bufs := rfl
@[simp] theorem State.setSeq_sessions (s : State) (k : Nat) (x : Seqr) : (s.setSeq k x).sessions = s.sessions := rfl
@[simp] theorem State.setSeq_cores (s : State) (k : Nat) (x : Seqr) : (s.setSeq k x).cores = s.cores := rfl
@[simp] theorem State.setSeq_hedges (s : State) (k : Nat) (x : Seqr) : (s.setSeq k x).hedges = s.hedges := rfl
@[simp] theorem State.setSeq_store (s : State) (k : Nat) (x : Seqr) : (s.setSeq k x).store = s.store := rfl
@[simp] theorem State.setSeq_pipes (s : State) (k : Nat) (x : Seqr) : (s.setSeq k x).pipes = s.pipes := rfl
@[simp] theorem State.setSeq_hbmStacks (s : State) (k : Nat) (x : Seqr) : (s.setSeq k x).hbmStacks = s.hbmStacks := rfl
@[simp] theorem State.setSeq_pchs (s : State) (k : Nat) (x : Seqr) : (s.setSeq k x).pchs = s.pchs := rfl
@[simp] theorem State.setSeq_rxFlows (s : State) (k : Nat) (x : Seqr) : (s.setSeq k x).rxFlows = s.rxFlows := rfl
@[simp] theorem State.setSeq_txFlows (s : State) (k : Nat) (x : Seqr) : (s.setSeq k x).txFlows = s.txFlows := rfl
@[simp] theorem State.setSeq_htx (s : State) (k : Nat) (x : Seqr) : (s.setSeq k x).htx = s.htx := rfl
@[simp] theorem State.setSeq_mtc (s : State) (k : Nat) (x : Seqr) : (s.setSeq k x).mtc = s.mtc := rfl
@[simp] theorem State.setSeq_ports (s : State) (k : Nat) (x : Seqr) : (s.setSeq k x).ports = s.ports := rfl
@[simp] theorem State.setSeq_e2e (s : State) (k : Nat) (x : Seqr) : (s.setSeq k x).e2e = s.e2e := rfl
@[simp] theorem State.setSeq_remotes (s : State) (k : Nat) (x : Seqr) : (s.setSeq k x).remotes = s.remotes := rfl
@[simp] theorem State.setSeq_esps (s : State) (k : Nat) (x : Seqr) : (s.setSeq k x).esps = s.esps := rfl
@[simp] theorem State.setSeq_clock (s : State) (k : Nat) (x : Seqr) : (s.setSeq k x).clock = s.clock := rfl
@[simp] theorem State.setSeq_power (s : State) (k : Nat) (x : Seqr) : (s.setSeq k x).power = s.power := rfl
@[simp] theorem State.setSeq_resetReq (s : State) (k : Nat) (x : Seqr) : (s.setSeq k x).resetReq = s.resetReq := rfl
@[simp] theorem State.setSeq_uptime (s : State) (k : Nat) (x : Seqr) : (s.setSeq k x).uptime = s.uptime := rfl
@[simp] theorem State.setSeq_histTotal (s : State) (k : Nat) (x : Seqr) : (s.setSeq k x).histTotal = s.histTotal := rfl
@[simp] theorem State.setSeq_unlock (s : State) (k : Nat) (x : Seqr) : (s.setSeq k x).unlock = s.unlock := rfl
@[simp] theorem State.setSeq_inject (s : State) (k : Nat) (x : Seqr) : (s.setSeq k x).inject = s.inject := rfl
@[simp] theorem State.setSeq_reg (s : State) (k : Nat) (x : Seqr) (j : Nat) : (s.setSeq k x).reg j = s.reg j := rfl
@[simp] theorem State.setSeq_fn (s : State) (k : Nat) (x : Seqr) (j : Nat) : (s.setSeq k x).fn j = s.fn j := rfl
@[simp] theorem State.setSeq_ring (s : State) (k : Nat) (x : Seqr) (j : Nat) : (s.setSeq k x).ring j = s.ring j := rfl
@[simp] theorem State.setSeq_pool (s : State) (k : Nat) (x : Seqr) (j : Nat) : (s.setSeq k x).pool j = s.pool j := rfl
@[simp] theorem State.setSeq_buf (s : State) (k : Nat) (x : Seqr) (j : Nat) : (s.setSeq k x).buf j = s.buf j := rfl
@[simp] theorem State.setSeq_sess (s : State) (k : Nat) (x : Seqr) (j : Nat) : (s.setSeq k x).sess j = s.sess j := rfl
@[simp] theorem State.setSeq_core (s : State) (k : Nat) (x : Seqr) (j : Nat) : (s.setSeq k x).core j = s.core j := rfl
@[simp] theorem State.setSeq_hedge (s : State) (k : Nat) (x : Seqr) (j : Nat) : (s.setSeq k x).hedge j = s.hedge j := rfl
@[simp] theorem State.setSeq_pipe (s : State) (k : Nat) (x : Seqr) (j : Nat) : (s.setSeq k x).pipe j = s.pipe j := rfl
@[simp] theorem State.setSeq_stack (s : State) (k : Nat) (x : Seqr) (j : Nat) : (s.setSeq k x).stack j = s.stack j := rfl
@[simp] theorem State.setSeq_pch (s : State) (k : Nat) (x : Seqr) (j : Nat) : (s.setSeq k x).pch j = s.pch j := rfl
@[simp] theorem State.setSeq_rxf (s : State) (k : Nat) (x : Seqr) (j : Nat) : (s.setSeq k x).rxf j = s.rxf j := rfl
@[simp] theorem State.setSeq_txf (s : State) (k : Nat) (x : Seqr) (j : Nat) : (s.setSeq k x).txf j = s.txf j := rfl
@[simp] theorem State.setSeq_htxq (s : State) (k : Nat) (x : Seqr) (j : Nat) : (s.setSeq k x).htxq j = s.htxq j := rfl
@[simp] theorem State.setSeq_port (s : State) (k : Nat) (x : Seqr) (j : Nat) : (s.setSeq k x).port j = s.port j := rfl
@[simp] theorem State.setSeq_e2eOf (s : State) (k : Nat) (x : Seqr) (j l : Nat) : (s.setSeq k x).e2eOf j l = s.e2eOf j l := rfl
@[simp] theorem State.setSeq_esp (s : State) (k : Nat) (x : Seqr) (j : Nat) : (s.setSeq k x).esp j = s.esp j := rfl
@[simp] theorem State.setSeq_chan (s : State) (k : Nat) (x : Seqr) (j : Nat) : (s.setSeq k x).chan j = s.chan j := rfl
@[simp] theorem State.setSeq_busy (s : State) (k : Nat) (x : Seqr) (j : Nat) : (s.setSeq k x).busy j = s.busy j := rfl
@[simp] theorem State.setSeq_inDrain (s : State) (k : Nat) (x : Seqr) (j : Nat) : (s.setSeq k x).inDrain j = s.inDrain j := rfl
@[simp] theorem State.setSeq_clocked (s : State) (k : Nat) (x : Seqr) : (s.setSeq k x).clocked = s.clocked := rfl

/-! setPipe -/

@[simp] theorem State.setPipe_pending (s : State) (k : Nat) (x : Pipe) : (s.setPipe k x).pending = s.pending := rfl
@[simp] theorem State.setPipe_outbox (s : State) (k : Nat) (x : Pipe) : (s.setPipe k x).outbox = s.outbox := rfl
@[simp] theorem State.setPipe_fresh (s : State) (k : Nat) (x : Pipe) : (s.setPipe k x).fresh = s.fresh := rfl
@[simp] theorem State.setPipe_variant (s : State) (k : Nat) (x : Pipe) : (s.setPipe k x).variant = s.variant := rfl
@[simp] theorem State.setPipe_rev (s : State) (k : Nat) (x : Pipe) : (s.setPipe k x).rev = s.rev := rfl
@[simp] theorem State.setPipe_signReq (s : State) (k : Nat) (x : Pipe) : (s.setPipe k x).signReq = s.signReq := rfl
@[simp] theorem State.setPipe_testEn (s : State) (k : Nat) (x : Pipe) : (s.setPipe k x).testEn = s.testEn := rfl
@[simp] theorem State.setPipe_sa (s : State) (k : Nat) (x : Pipe) : (s.setPipe k x).sa = s.sa := rfl
@[simp] theorem State.setPipe_regs (s : State) (k : Nat) (x : Pipe) : (s.setPipe k x).regs = s.regs := rfl
@[simp] theorem State.setPipe_hiLatch (s : State) (k : Nat) (x : Pipe) : (s.setPipe k x).hiLatch = s.hiLatch := rfl
@[simp] theorem State.setPipe_loHeld (s : State) (k : Nat) (x : Pipe) : (s.setPipe k x).loHeld = s.loHeld := rfl
@[simp] theorem State.setPipe_hbm (s : State) (k : Nat) (x : Pipe) : (s.setPipe k x).hbm = s.hbm := rfl
@[simp] theorem State.setPipe_memSeed (s : State) (k : Nat) (x : Pipe) : (s.setPipe k x).memSeed = s.memSeed := rfl
@[simp] theorem State.setPipe_poison (s : State) (k : Nat) (x : Pipe) : (s.setPipe k x).poison = s.poison := rfl
@[simp] theorem State.setPipe_host (s : State) (k : Nat) (x : Pipe) : (s.setPipe k x).host = s.host := rfl
@[simp] theorem State.setPipe_hif (s : State) (k : Nat) (x : Pipe) : (s.setPipe k x).hif = s.hif := rfl
@[simp] theorem State.setPipe_resetting (s : State) (k : Nat) (x : Pipe) : (s.setPipe k x).resetting = s.resetting := rfl
@[simp] theorem State.setPipe_draining (s : State) (k : Nat) (x : Pipe) : (s.setPipe k x).draining = s.draining := rfl
@[simp] theorem State.setPipe_edges (s : State) (k : Nat) (x : Pipe) : (s.setPipe k x).edges = s.edges := rfl
@[simp] theorem State.setPipe_rings (s : State) (k : Nat) (x : Pipe) : (s.setPipe k x).rings = s.rings := rfl
@[simp] theorem State.setPipe_chans (s : State) (k : Nat) (x : Pipe) : (s.setPipe k x).chans = s.chans := rfl
@[simp] theorem State.setPipe_pools (s : State) (k : Nat) (x : Pipe) : (s.setPipe k x).pools = s.pools := rfl
@[simp] theorem State.setPipe_bufs (s : State) (k : Nat) (x : Pipe) : (s.setPipe k x).bufs = s.bufs := rfl
@[simp] theorem State.setPipe_sessions (s : State) (k : Nat) (x : Pipe) : (s.setPipe k x).sessions = s.sessions := rfl
@[simp] theorem State.setPipe_cores (s : State) (k : Nat) (x : Pipe) : (s.setPipe k x).cores = s.cores := rfl
@[simp] theorem State.setPipe_hedges (s : State) (k : Nat) (x : Pipe) : (s.setPipe k x).hedges = s.hedges := rfl
@[simp] theorem State.setPipe_seqs (s : State) (k : Nat) (x : Pipe) : (s.setPipe k x).seqs = s.seqs := rfl
@[simp] theorem State.setPipe_store (s : State) (k : Nat) (x : Pipe) : (s.setPipe k x).store = s.store := rfl
@[simp] theorem State.setPipe_hbmStacks (s : State) (k : Nat) (x : Pipe) : (s.setPipe k x).hbmStacks = s.hbmStacks := rfl
@[simp] theorem State.setPipe_pchs (s : State) (k : Nat) (x : Pipe) : (s.setPipe k x).pchs = s.pchs := rfl
@[simp] theorem State.setPipe_rxFlows (s : State) (k : Nat) (x : Pipe) : (s.setPipe k x).rxFlows = s.rxFlows := rfl
@[simp] theorem State.setPipe_txFlows (s : State) (k : Nat) (x : Pipe) : (s.setPipe k x).txFlows = s.txFlows := rfl
@[simp] theorem State.setPipe_htx (s : State) (k : Nat) (x : Pipe) : (s.setPipe k x).htx = s.htx := rfl
@[simp] theorem State.setPipe_mtc (s : State) (k : Nat) (x : Pipe) : (s.setPipe k x).mtc = s.mtc := rfl
@[simp] theorem State.setPipe_ports (s : State) (k : Nat) (x : Pipe) : (s.setPipe k x).ports = s.ports := rfl
@[simp] theorem State.setPipe_e2e (s : State) (k : Nat) (x : Pipe) : (s.setPipe k x).e2e = s.e2e := rfl
@[simp] theorem State.setPipe_remotes (s : State) (k : Nat) (x : Pipe) : (s.setPipe k x).remotes = s.remotes := rfl
@[simp] theorem State.setPipe_esps (s : State) (k : Nat) (x : Pipe) : (s.setPipe k x).esps = s.esps := rfl
@[simp] theorem State.setPipe_clock (s : State) (k : Nat) (x : Pipe) : (s.setPipe k x).clock = s.clock := rfl
@[simp] theorem State.setPipe_power (s : State) (k : Nat) (x : Pipe) : (s.setPipe k x).power = s.power := rfl
@[simp] theorem State.setPipe_resetReq (s : State) (k : Nat) (x : Pipe) : (s.setPipe k x).resetReq = s.resetReq := rfl
@[simp] theorem State.setPipe_uptime (s : State) (k : Nat) (x : Pipe) : (s.setPipe k x).uptime = s.uptime := rfl
@[simp] theorem State.setPipe_histTotal (s : State) (k : Nat) (x : Pipe) : (s.setPipe k x).histTotal = s.histTotal := rfl
@[simp] theorem State.setPipe_unlock (s : State) (k : Nat) (x : Pipe) : (s.setPipe k x).unlock = s.unlock := rfl
@[simp] theorem State.setPipe_inject (s : State) (k : Nat) (x : Pipe) : (s.setPipe k x).inject = s.inject := rfl
@[simp] theorem State.setPipe_reg (s : State) (k : Nat) (x : Pipe) (j : Nat) : (s.setPipe k x).reg j = s.reg j := rfl
@[simp] theorem State.setPipe_fn (s : State) (k : Nat) (x : Pipe) (j : Nat) : (s.setPipe k x).fn j = s.fn j := rfl
@[simp] theorem State.setPipe_ring (s : State) (k : Nat) (x : Pipe) (j : Nat) : (s.setPipe k x).ring j = s.ring j := rfl
@[simp] theorem State.setPipe_pool (s : State) (k : Nat) (x : Pipe) (j : Nat) : (s.setPipe k x).pool j = s.pool j := rfl
@[simp] theorem State.setPipe_buf (s : State) (k : Nat) (x : Pipe) (j : Nat) : (s.setPipe k x).buf j = s.buf j := rfl
@[simp] theorem State.setPipe_sess (s : State) (k : Nat) (x : Pipe) (j : Nat) : (s.setPipe k x).sess j = s.sess j := rfl
@[simp] theorem State.setPipe_core (s : State) (k : Nat) (x : Pipe) (j : Nat) : (s.setPipe k x).core j = s.core j := rfl
@[simp] theorem State.setPipe_hedge (s : State) (k : Nat) (x : Pipe) (j : Nat) : (s.setPipe k x).hedge j = s.hedge j := rfl
@[simp] theorem State.setPipe_seq (s : State) (k : Nat) (x : Pipe) (j : Nat) : (s.setPipe k x).seq j = s.seq j := rfl
@[simp] theorem State.setPipe_stack (s : State) (k : Nat) (x : Pipe) (j : Nat) : (s.setPipe k x).stack j = s.stack j := rfl
@[simp] theorem State.setPipe_pch (s : State) (k : Nat) (x : Pipe) (j : Nat) : (s.setPipe k x).pch j = s.pch j := rfl
@[simp] theorem State.setPipe_rxf (s : State) (k : Nat) (x : Pipe) (j : Nat) : (s.setPipe k x).rxf j = s.rxf j := rfl
@[simp] theorem State.setPipe_txf (s : State) (k : Nat) (x : Pipe) (j : Nat) : (s.setPipe k x).txf j = s.txf j := rfl
@[simp] theorem State.setPipe_htxq (s : State) (k : Nat) (x : Pipe) (j : Nat) : (s.setPipe k x).htxq j = s.htxq j := rfl
@[simp] theorem State.setPipe_port (s : State) (k : Nat) (x : Pipe) (j : Nat) : (s.setPipe k x).port j = s.port j := rfl
@[simp] theorem State.setPipe_e2eOf (s : State) (k : Nat) (x : Pipe) (j l : Nat) : (s.setPipe k x).e2eOf j l = s.e2eOf j l := rfl
@[simp] theorem State.setPipe_esp (s : State) (k : Nat) (x : Pipe) (j : Nat) : (s.setPipe k x).esp j = s.esp j := rfl
@[simp] theorem State.setPipe_chan (s : State) (k : Nat) (x : Pipe) (j : Nat) : (s.setPipe k x).chan j = s.chan j := rfl
@[simp] theorem State.setPipe_busy (s : State) (k : Nat) (x : Pipe) (j : Nat) : (s.setPipe k x).busy j = s.busy j := rfl
@[simp] theorem State.setPipe_inDrain (s : State) (k : Nat) (x : Pipe) (j : Nat) : (s.setPipe k x).inDrain j = s.inDrain j := rfl
@[simp] theorem State.setPipe_clocked (s : State) (k : Nat) (x : Pipe) : (s.setPipe k x).clocked = s.clocked := rfl

/-! setStack -/

@[simp] theorem State.setStack_pending (s : State) (k : Nat) (x : Stack) : (s.setStack k x).pending = s.pending := rfl
@[simp] theorem State.setStack_outbox (s : State) (k : Nat) (x : Stack) : (s.setStack k x).outbox = s.outbox := rfl
@[simp] theorem State.setStack_fresh (s : State) (k : Nat) (x : Stack) : (s.setStack k x).fresh = s.fresh := rfl
@[simp] theorem State.setStack_variant (s : State) (k : Nat) (x : Stack) : (s.setStack k x).variant = s.variant := rfl
@[simp] theorem State.setStack_rev (s : State) (k : Nat) (x : Stack) : (s.setStack k x).rev = s.rev := rfl
@[simp] theorem State.setStack_signReq (s : State) (k : Nat) (x : Stack) : (s.setStack k x).signReq = s.signReq := rfl
@[simp] theorem State.setStack_testEn (s : State) (k : Nat) (x : Stack) : (s.setStack k x).testEn = s.testEn := rfl
@[simp] theorem State.setStack_sa (s : State) (k : Nat) (x : Stack) : (s.setStack k x).sa = s.sa := rfl
@[simp] theorem State.setStack_regs (s : State) (k : Nat) (x : Stack) : (s.setStack k x).regs = s.regs := rfl
@[simp] theorem State.setStack_hiLatch (s : State) (k : Nat) (x : Stack) : (s.setStack k x).hiLatch = s.hiLatch := rfl
@[simp] theorem State.setStack_loHeld (s : State) (k : Nat) (x : Stack) : (s.setStack k x).loHeld = s.loHeld := rfl
@[simp] theorem State.setStack_hbm (s : State) (k : Nat) (x : Stack) : (s.setStack k x).hbm = s.hbm := rfl
@[simp] theorem State.setStack_memSeed (s : State) (k : Nat) (x : Stack) : (s.setStack k x).memSeed = s.memSeed := rfl
@[simp] theorem State.setStack_poison (s : State) (k : Nat) (x : Stack) : (s.setStack k x).poison = s.poison := rfl
@[simp] theorem State.setStack_host (s : State) (k : Nat) (x : Stack) : (s.setStack k x).host = s.host := rfl
@[simp] theorem State.setStack_hif (s : State) (k : Nat) (x : Stack) : (s.setStack k x).hif = s.hif := rfl
@[simp] theorem State.setStack_resetting (s : State) (k : Nat) (x : Stack) : (s.setStack k x).resetting = s.resetting := rfl
@[simp] theorem State.setStack_draining (s : State) (k : Nat) (x : Stack) : (s.setStack k x).draining = s.draining := rfl
@[simp] theorem State.setStack_edges (s : State) (k : Nat) (x : Stack) : (s.setStack k x).edges = s.edges := rfl
@[simp] theorem State.setStack_rings (s : State) (k : Nat) (x : Stack) : (s.setStack k x).rings = s.rings := rfl
@[simp] theorem State.setStack_chans (s : State) (k : Nat) (x : Stack) : (s.setStack k x).chans = s.chans := rfl
@[simp] theorem State.setStack_pools (s : State) (k : Nat) (x : Stack) : (s.setStack k x).pools = s.pools := rfl
@[simp] theorem State.setStack_bufs (s : State) (k : Nat) (x : Stack) : (s.setStack k x).bufs = s.bufs := rfl
@[simp] theorem State.setStack_sessions (s : State) (k : Nat) (x : Stack) : (s.setStack k x).sessions = s.sessions := rfl
@[simp] theorem State.setStack_cores (s : State) (k : Nat) (x : Stack) : (s.setStack k x).cores = s.cores := rfl
@[simp] theorem State.setStack_hedges (s : State) (k : Nat) (x : Stack) : (s.setStack k x).hedges = s.hedges := rfl
@[simp] theorem State.setStack_seqs (s : State) (k : Nat) (x : Stack) : (s.setStack k x).seqs = s.seqs := rfl
@[simp] theorem State.setStack_store (s : State) (k : Nat) (x : Stack) : (s.setStack k x).store = s.store := rfl
@[simp] theorem State.setStack_pipes (s : State) (k : Nat) (x : Stack) : (s.setStack k x).pipes = s.pipes := rfl
@[simp] theorem State.setStack_pchs (s : State) (k : Nat) (x : Stack) : (s.setStack k x).pchs = s.pchs := rfl
@[simp] theorem State.setStack_rxFlows (s : State) (k : Nat) (x : Stack) : (s.setStack k x).rxFlows = s.rxFlows := rfl
@[simp] theorem State.setStack_txFlows (s : State) (k : Nat) (x : Stack) : (s.setStack k x).txFlows = s.txFlows := rfl
@[simp] theorem State.setStack_htx (s : State) (k : Nat) (x : Stack) : (s.setStack k x).htx = s.htx := rfl
@[simp] theorem State.setStack_mtc (s : State) (k : Nat) (x : Stack) : (s.setStack k x).mtc = s.mtc := rfl
@[simp] theorem State.setStack_ports (s : State) (k : Nat) (x : Stack) : (s.setStack k x).ports = s.ports := rfl
@[simp] theorem State.setStack_e2e (s : State) (k : Nat) (x : Stack) : (s.setStack k x).e2e = s.e2e := rfl
@[simp] theorem State.setStack_remotes (s : State) (k : Nat) (x : Stack) : (s.setStack k x).remotes = s.remotes := rfl
@[simp] theorem State.setStack_esps (s : State) (k : Nat) (x : Stack) : (s.setStack k x).esps = s.esps := rfl
@[simp] theorem State.setStack_clock (s : State) (k : Nat) (x : Stack) : (s.setStack k x).clock = s.clock := rfl
@[simp] theorem State.setStack_power (s : State) (k : Nat) (x : Stack) : (s.setStack k x).power = s.power := rfl
@[simp] theorem State.setStack_resetReq (s : State) (k : Nat) (x : Stack) : (s.setStack k x).resetReq = s.resetReq := rfl
@[simp] theorem State.setStack_uptime (s : State) (k : Nat) (x : Stack) : (s.setStack k x).uptime = s.uptime := rfl
@[simp] theorem State.setStack_histTotal (s : State) (k : Nat) (x : Stack) : (s.setStack k x).histTotal = s.histTotal := rfl
@[simp] theorem State.setStack_unlock (s : State) (k : Nat) (x : Stack) : (s.setStack k x).unlock = s.unlock := rfl
@[simp] theorem State.setStack_inject (s : State) (k : Nat) (x : Stack) : (s.setStack k x).inject = s.inject := rfl
@[simp] theorem State.setStack_reg (s : State) (k : Nat) (x : Stack) (j : Nat) : (s.setStack k x).reg j = s.reg j := rfl
@[simp] theorem State.setStack_fn (s : State) (k : Nat) (x : Stack) (j : Nat) : (s.setStack k x).fn j = s.fn j := rfl
@[simp] theorem State.setStack_ring (s : State) (k : Nat) (x : Stack) (j : Nat) : (s.setStack k x).ring j = s.ring j := rfl
@[simp] theorem State.setStack_pool (s : State) (k : Nat) (x : Stack) (j : Nat) : (s.setStack k x).pool j = s.pool j := rfl
@[simp] theorem State.setStack_buf (s : State) (k : Nat) (x : Stack) (j : Nat) : (s.setStack k x).buf j = s.buf j := rfl
@[simp] theorem State.setStack_sess (s : State) (k : Nat) (x : Stack) (j : Nat) : (s.setStack k x).sess j = s.sess j := rfl
@[simp] theorem State.setStack_core (s : State) (k : Nat) (x : Stack) (j : Nat) : (s.setStack k x).core j = s.core j := rfl
@[simp] theorem State.setStack_hedge (s : State) (k : Nat) (x : Stack) (j : Nat) : (s.setStack k x).hedge j = s.hedge j := rfl
@[simp] theorem State.setStack_seq (s : State) (k : Nat) (x : Stack) (j : Nat) : (s.setStack k x).seq j = s.seq j := rfl
@[simp] theorem State.setStack_pipe (s : State) (k : Nat) (x : Stack) (j : Nat) : (s.setStack k x).pipe j = s.pipe j := rfl
@[simp] theorem State.setStack_pch (s : State) (k : Nat) (x : Stack) (j : Nat) : (s.setStack k x).pch j = s.pch j := rfl
@[simp] theorem State.setStack_rxf (s : State) (k : Nat) (x : Stack) (j : Nat) : (s.setStack k x).rxf j = s.rxf j := rfl
@[simp] theorem State.setStack_txf (s : State) (k : Nat) (x : Stack) (j : Nat) : (s.setStack k x).txf j = s.txf j := rfl
@[simp] theorem State.setStack_htxq (s : State) (k : Nat) (x : Stack) (j : Nat) : (s.setStack k x).htxq j = s.htxq j := rfl
@[simp] theorem State.setStack_port (s : State) (k : Nat) (x : Stack) (j : Nat) : (s.setStack k x).port j = s.port j := rfl
@[simp] theorem State.setStack_e2eOf (s : State) (k : Nat) (x : Stack) (j l : Nat) : (s.setStack k x).e2eOf j l = s.e2eOf j l := rfl
@[simp] theorem State.setStack_esp (s : State) (k : Nat) (x : Stack) (j : Nat) : (s.setStack k x).esp j = s.esp j := rfl
@[simp] theorem State.setStack_chan (s : State) (k : Nat) (x : Stack) (j : Nat) : (s.setStack k x).chan j = s.chan j := rfl
@[simp] theorem State.setStack_busy (s : State) (k : Nat) (x : Stack) (j : Nat) : (s.setStack k x).busy j = s.busy j := rfl
@[simp] theorem State.setStack_inDrain (s : State) (k : Nat) (x : Stack) (j : Nat) : (s.setStack k x).inDrain j = s.inDrain j := rfl
@[simp] theorem State.setStack_clocked (s : State) (k : Nat) (x : Stack) : (s.setStack k x).clocked = s.clocked := rfl

/-! setPch -/

@[simp] theorem State.setPch_pending (s : State) (k : Nat) (x : Pch) : (s.setPch k x).pending = s.pending := rfl
@[simp] theorem State.setPch_outbox (s : State) (k : Nat) (x : Pch) : (s.setPch k x).outbox = s.outbox := rfl
@[simp] theorem State.setPch_fresh (s : State) (k : Nat) (x : Pch) : (s.setPch k x).fresh = s.fresh := rfl
@[simp] theorem State.setPch_variant (s : State) (k : Nat) (x : Pch) : (s.setPch k x).variant = s.variant := rfl
@[simp] theorem State.setPch_rev (s : State) (k : Nat) (x : Pch) : (s.setPch k x).rev = s.rev := rfl
@[simp] theorem State.setPch_signReq (s : State) (k : Nat) (x : Pch) : (s.setPch k x).signReq = s.signReq := rfl
@[simp] theorem State.setPch_testEn (s : State) (k : Nat) (x : Pch) : (s.setPch k x).testEn = s.testEn := rfl
@[simp] theorem State.setPch_sa (s : State) (k : Nat) (x : Pch) : (s.setPch k x).sa = s.sa := rfl
@[simp] theorem State.setPch_regs (s : State) (k : Nat) (x : Pch) : (s.setPch k x).regs = s.regs := rfl
@[simp] theorem State.setPch_hiLatch (s : State) (k : Nat) (x : Pch) : (s.setPch k x).hiLatch = s.hiLatch := rfl
@[simp] theorem State.setPch_loHeld (s : State) (k : Nat) (x : Pch) : (s.setPch k x).loHeld = s.loHeld := rfl
@[simp] theorem State.setPch_hbm (s : State) (k : Nat) (x : Pch) : (s.setPch k x).hbm = s.hbm := rfl
@[simp] theorem State.setPch_memSeed (s : State) (k : Nat) (x : Pch) : (s.setPch k x).memSeed = s.memSeed := rfl
@[simp] theorem State.setPch_poison (s : State) (k : Nat) (x : Pch) : (s.setPch k x).poison = s.poison := rfl
@[simp] theorem State.setPch_host (s : State) (k : Nat) (x : Pch) : (s.setPch k x).host = s.host := rfl
@[simp] theorem State.setPch_hif (s : State) (k : Nat) (x : Pch) : (s.setPch k x).hif = s.hif := rfl
@[simp] theorem State.setPch_resetting (s : State) (k : Nat) (x : Pch) : (s.setPch k x).resetting = s.resetting := rfl
@[simp] theorem State.setPch_draining (s : State) (k : Nat) (x : Pch) : (s.setPch k x).draining = s.draining := rfl
@[simp] theorem State.setPch_edges (s : State) (k : Nat) (x : Pch) : (s.setPch k x).edges = s.edges := rfl
@[simp] theorem State.setPch_rings (s : State) (k : Nat) (x : Pch) : (s.setPch k x).rings = s.rings := rfl
@[simp] theorem State.setPch_chans (s : State) (k : Nat) (x : Pch) : (s.setPch k x).chans = s.chans := rfl
@[simp] theorem State.setPch_pools (s : State) (k : Nat) (x : Pch) : (s.setPch k x).pools = s.pools := rfl
@[simp] theorem State.setPch_bufs (s : State) (k : Nat) (x : Pch) : (s.setPch k x).bufs = s.bufs := rfl
@[simp] theorem State.setPch_sessions (s : State) (k : Nat) (x : Pch) : (s.setPch k x).sessions = s.sessions := rfl
@[simp] theorem State.setPch_cores (s : State) (k : Nat) (x : Pch) : (s.setPch k x).cores = s.cores := rfl
@[simp] theorem State.setPch_hedges (s : State) (k : Nat) (x : Pch) : (s.setPch k x).hedges = s.hedges := rfl
@[simp] theorem State.setPch_seqs (s : State) (k : Nat) (x : Pch) : (s.setPch k x).seqs = s.seqs := rfl
@[simp] theorem State.setPch_store (s : State) (k : Nat) (x : Pch) : (s.setPch k x).store = s.store := rfl
@[simp] theorem State.setPch_pipes (s : State) (k : Nat) (x : Pch) : (s.setPch k x).pipes = s.pipes := rfl
@[simp] theorem State.setPch_hbmStacks (s : State) (k : Nat) (x : Pch) : (s.setPch k x).hbmStacks = s.hbmStacks := rfl
@[simp] theorem State.setPch_rxFlows (s : State) (k : Nat) (x : Pch) : (s.setPch k x).rxFlows = s.rxFlows := rfl
@[simp] theorem State.setPch_txFlows (s : State) (k : Nat) (x : Pch) : (s.setPch k x).txFlows = s.txFlows := rfl
@[simp] theorem State.setPch_htx (s : State) (k : Nat) (x : Pch) : (s.setPch k x).htx = s.htx := rfl
@[simp] theorem State.setPch_mtc (s : State) (k : Nat) (x : Pch) : (s.setPch k x).mtc = s.mtc := rfl
@[simp] theorem State.setPch_ports (s : State) (k : Nat) (x : Pch) : (s.setPch k x).ports = s.ports := rfl
@[simp] theorem State.setPch_e2e (s : State) (k : Nat) (x : Pch) : (s.setPch k x).e2e = s.e2e := rfl
@[simp] theorem State.setPch_remotes (s : State) (k : Nat) (x : Pch) : (s.setPch k x).remotes = s.remotes := rfl
@[simp] theorem State.setPch_esps (s : State) (k : Nat) (x : Pch) : (s.setPch k x).esps = s.esps := rfl
@[simp] theorem State.setPch_clock (s : State) (k : Nat) (x : Pch) : (s.setPch k x).clock = s.clock := rfl
@[simp] theorem State.setPch_power (s : State) (k : Nat) (x : Pch) : (s.setPch k x).power = s.power := rfl
@[simp] theorem State.setPch_resetReq (s : State) (k : Nat) (x : Pch) : (s.setPch k x).resetReq = s.resetReq := rfl
@[simp] theorem State.setPch_uptime (s : State) (k : Nat) (x : Pch) : (s.setPch k x).uptime = s.uptime := rfl
@[simp] theorem State.setPch_histTotal (s : State) (k : Nat) (x : Pch) : (s.setPch k x).histTotal = s.histTotal := rfl
@[simp] theorem State.setPch_unlock (s : State) (k : Nat) (x : Pch) : (s.setPch k x).unlock = s.unlock := rfl
@[simp] theorem State.setPch_inject (s : State) (k : Nat) (x : Pch) : (s.setPch k x).inject = s.inject := rfl
@[simp] theorem State.setPch_reg (s : State) (k : Nat) (x : Pch) (j : Nat) : (s.setPch k x).reg j = s.reg j := rfl
@[simp] theorem State.setPch_fn (s : State) (k : Nat) (x : Pch) (j : Nat) : (s.setPch k x).fn j = s.fn j := rfl
@[simp] theorem State.setPch_ring (s : State) (k : Nat) (x : Pch) (j : Nat) : (s.setPch k x).ring j = s.ring j := rfl
@[simp] theorem State.setPch_pool (s : State) (k : Nat) (x : Pch) (j : Nat) : (s.setPch k x).pool j = s.pool j := rfl
@[simp] theorem State.setPch_buf (s : State) (k : Nat) (x : Pch) (j : Nat) : (s.setPch k x).buf j = s.buf j := rfl
@[simp] theorem State.setPch_sess (s : State) (k : Nat) (x : Pch) (j : Nat) : (s.setPch k x).sess j = s.sess j := rfl
@[simp] theorem State.setPch_core (s : State) (k : Nat) (x : Pch) (j : Nat) : (s.setPch k x).core j = s.core j := rfl
@[simp] theorem State.setPch_hedge (s : State) (k : Nat) (x : Pch) (j : Nat) : (s.setPch k x).hedge j = s.hedge j := rfl
@[simp] theorem State.setPch_seq (s : State) (k : Nat) (x : Pch) (j : Nat) : (s.setPch k x).seq j = s.seq j := rfl
@[simp] theorem State.setPch_pipe (s : State) (k : Nat) (x : Pch) (j : Nat) : (s.setPch k x).pipe j = s.pipe j := rfl
@[simp] theorem State.setPch_stack (s : State) (k : Nat) (x : Pch) (j : Nat) : (s.setPch k x).stack j = s.stack j := rfl
@[simp] theorem State.setPch_rxf (s : State) (k : Nat) (x : Pch) (j : Nat) : (s.setPch k x).rxf j = s.rxf j := rfl
@[simp] theorem State.setPch_txf (s : State) (k : Nat) (x : Pch) (j : Nat) : (s.setPch k x).txf j = s.txf j := rfl
@[simp] theorem State.setPch_htxq (s : State) (k : Nat) (x : Pch) (j : Nat) : (s.setPch k x).htxq j = s.htxq j := rfl
@[simp] theorem State.setPch_port (s : State) (k : Nat) (x : Pch) (j : Nat) : (s.setPch k x).port j = s.port j := rfl
@[simp] theorem State.setPch_e2eOf (s : State) (k : Nat) (x : Pch) (j l : Nat) : (s.setPch k x).e2eOf j l = s.e2eOf j l := rfl
@[simp] theorem State.setPch_esp (s : State) (k : Nat) (x : Pch) (j : Nat) : (s.setPch k x).esp j = s.esp j := rfl
@[simp] theorem State.setPch_chan (s : State) (k : Nat) (x : Pch) (j : Nat) : (s.setPch k x).chan j = s.chan j := rfl
@[simp] theorem State.setPch_busy (s : State) (k : Nat) (x : Pch) (j : Nat) : (s.setPch k x).busy j = s.busy j := rfl
@[simp] theorem State.setPch_inDrain (s : State) (k : Nat) (x : Pch) (j : Nat) : (s.setPch k x).inDrain j = s.inDrain j := rfl
@[simp] theorem State.setPch_clocked (s : State) (k : Nat) (x : Pch) : (s.setPch k x).clocked = s.clocked := rfl

/-! setRxf -/

@[simp] theorem State.setRxf_pending (s : State) (k : Nat) (x : RxFlow) : (s.setRxf k x).pending = s.pending := rfl
@[simp] theorem State.setRxf_outbox (s : State) (k : Nat) (x : RxFlow) : (s.setRxf k x).outbox = s.outbox := rfl
@[simp] theorem State.setRxf_fresh (s : State) (k : Nat) (x : RxFlow) : (s.setRxf k x).fresh = s.fresh := rfl
@[simp] theorem State.setRxf_variant (s : State) (k : Nat) (x : RxFlow) : (s.setRxf k x).variant = s.variant := rfl
@[simp] theorem State.setRxf_rev (s : State) (k : Nat) (x : RxFlow) : (s.setRxf k x).rev = s.rev := rfl
@[simp] theorem State.setRxf_signReq (s : State) (k : Nat) (x : RxFlow) : (s.setRxf k x).signReq = s.signReq := rfl
@[simp] theorem State.setRxf_testEn (s : State) (k : Nat) (x : RxFlow) : (s.setRxf k x).testEn = s.testEn := rfl
@[simp] theorem State.setRxf_sa (s : State) (k : Nat) (x : RxFlow) : (s.setRxf k x).sa = s.sa := rfl
@[simp] theorem State.setRxf_regs (s : State) (k : Nat) (x : RxFlow) : (s.setRxf k x).regs = s.regs := rfl
@[simp] theorem State.setRxf_hiLatch (s : State) (k : Nat) (x : RxFlow) : (s.setRxf k x).hiLatch = s.hiLatch := rfl
@[simp] theorem State.setRxf_loHeld (s : State) (k : Nat) (x : RxFlow) : (s.setRxf k x).loHeld = s.loHeld := rfl
@[simp] theorem State.setRxf_hbm (s : State) (k : Nat) (x : RxFlow) : (s.setRxf k x).hbm = s.hbm := rfl
@[simp] theorem State.setRxf_memSeed (s : State) (k : Nat) (x : RxFlow) : (s.setRxf k x).memSeed = s.memSeed := rfl
@[simp] theorem State.setRxf_poison (s : State) (k : Nat) (x : RxFlow) : (s.setRxf k x).poison = s.poison := rfl
@[simp] theorem State.setRxf_host (s : State) (k : Nat) (x : RxFlow) : (s.setRxf k x).host = s.host := rfl
@[simp] theorem State.setRxf_hif (s : State) (k : Nat) (x : RxFlow) : (s.setRxf k x).hif = s.hif := rfl
@[simp] theorem State.setRxf_resetting (s : State) (k : Nat) (x : RxFlow) : (s.setRxf k x).resetting = s.resetting := rfl
@[simp] theorem State.setRxf_draining (s : State) (k : Nat) (x : RxFlow) : (s.setRxf k x).draining = s.draining := rfl
@[simp] theorem State.setRxf_edges (s : State) (k : Nat) (x : RxFlow) : (s.setRxf k x).edges = s.edges := rfl
@[simp] theorem State.setRxf_rings (s : State) (k : Nat) (x : RxFlow) : (s.setRxf k x).rings = s.rings := rfl
@[simp] theorem State.setRxf_chans (s : State) (k : Nat) (x : RxFlow) : (s.setRxf k x).chans = s.chans := rfl
@[simp] theorem State.setRxf_pools (s : State) (k : Nat) (x : RxFlow) : (s.setRxf k x).pools = s.pools := rfl
@[simp] theorem State.setRxf_bufs (s : State) (k : Nat) (x : RxFlow) : (s.setRxf k x).bufs = s.bufs := rfl
@[simp] theorem State.setRxf_sessions (s : State) (k : Nat) (x : RxFlow) : (s.setRxf k x).sessions = s.sessions := rfl
@[simp] theorem State.setRxf_cores (s : State) (k : Nat) (x : RxFlow) : (s.setRxf k x).cores = s.cores := rfl
@[simp] theorem State.setRxf_hedges (s : State) (k : Nat) (x : RxFlow) : (s.setRxf k x).hedges = s.hedges := rfl
@[simp] theorem State.setRxf_seqs (s : State) (k : Nat) (x : RxFlow) : (s.setRxf k x).seqs = s.seqs := rfl
@[simp] theorem State.setRxf_store (s : State) (k : Nat) (x : RxFlow) : (s.setRxf k x).store = s.store := rfl
@[simp] theorem State.setRxf_pipes (s : State) (k : Nat) (x : RxFlow) : (s.setRxf k x).pipes = s.pipes := rfl
@[simp] theorem State.setRxf_hbmStacks (s : State) (k : Nat) (x : RxFlow) : (s.setRxf k x).hbmStacks = s.hbmStacks := rfl
@[simp] theorem State.setRxf_pchs (s : State) (k : Nat) (x : RxFlow) : (s.setRxf k x).pchs = s.pchs := rfl
@[simp] theorem State.setRxf_txFlows (s : State) (k : Nat) (x : RxFlow) : (s.setRxf k x).txFlows = s.txFlows := rfl
@[simp] theorem State.setRxf_htx (s : State) (k : Nat) (x : RxFlow) : (s.setRxf k x).htx = s.htx := rfl
@[simp] theorem State.setRxf_mtc (s : State) (k : Nat) (x : RxFlow) : (s.setRxf k x).mtc = s.mtc := rfl
@[simp] theorem State.setRxf_ports (s : State) (k : Nat) (x : RxFlow) : (s.setRxf k x).ports = s.ports := rfl
@[simp] theorem State.setRxf_e2e (s : State) (k : Nat) (x : RxFlow) : (s.setRxf k x).e2e = s.e2e := rfl
@[simp] theorem State.setRxf_remotes (s : State) (k : Nat) (x : RxFlow) : (s.setRxf k x).remotes = s.remotes := rfl
@[simp] theorem State.setRxf_esps (s : State) (k : Nat) (x : RxFlow) : (s.setRxf k x).esps = s.esps := rfl
@[simp] theorem State.setRxf_clock (s : State) (k : Nat) (x : RxFlow) : (s.setRxf k x).clock = s.clock := rfl
@[simp] theorem State.setRxf_power (s : State) (k : Nat) (x : RxFlow) : (s.setRxf k x).power = s.power := rfl
@[simp] theorem State.setRxf_resetReq (s : State) (k : Nat) (x : RxFlow) : (s.setRxf k x).resetReq = s.resetReq := rfl
@[simp] theorem State.setRxf_uptime (s : State) (k : Nat) (x : RxFlow) : (s.setRxf k x).uptime = s.uptime := rfl
@[simp] theorem State.setRxf_histTotal (s : State) (k : Nat) (x : RxFlow) : (s.setRxf k x).histTotal = s.histTotal := rfl
@[simp] theorem State.setRxf_unlock (s : State) (k : Nat) (x : RxFlow) : (s.setRxf k x).unlock = s.unlock := rfl
@[simp] theorem State.setRxf_inject (s : State) (k : Nat) (x : RxFlow) : (s.setRxf k x).inject = s.inject := rfl
@[simp] theorem State.setRxf_reg (s : State) (k : Nat) (x : RxFlow) (j : Nat) : (s.setRxf k x).reg j = s.reg j := rfl
@[simp] theorem State.setRxf_fn (s : State) (k : Nat) (x : RxFlow) (j : Nat) : (s.setRxf k x).fn j = s.fn j := rfl
@[simp] theorem State.setRxf_ring (s : State) (k : Nat) (x : RxFlow) (j : Nat) : (s.setRxf k x).ring j = s.ring j := rfl
@[simp] theorem State.setRxf_pool (s : State) (k : Nat) (x : RxFlow) (j : Nat) : (s.setRxf k x).pool j = s.pool j := rfl
@[simp] theorem State.setRxf_buf (s : State) (k : Nat) (x : RxFlow) (j : Nat) : (s.setRxf k x).buf j = s.buf j := rfl
@[simp] theorem State.setRxf_sess (s : State) (k : Nat) (x : RxFlow) (j : Nat) : (s.setRxf k x).sess j = s.sess j := rfl
@[simp] theorem State.setRxf_core (s : State) (k : Nat) (x : RxFlow) (j : Nat) : (s.setRxf k x).core j = s.core j := rfl
@[simp] theorem State.setRxf_hedge (s : State) (k : Nat) (x : RxFlow) (j : Nat) : (s.setRxf k x).hedge j = s.hedge j := rfl
@[simp] theorem State.setRxf_seq (s : State) (k : Nat) (x : RxFlow) (j : Nat) : (s.setRxf k x).seq j = s.seq j := rfl
@[simp] theorem State.setRxf_pipe (s : State) (k : Nat) (x : RxFlow) (j : Nat) : (s.setRxf k x).pipe j = s.pipe j := rfl
@[simp] theorem State.setRxf_stack (s : State) (k : Nat) (x : RxFlow) (j : Nat) : (s.setRxf k x).stack j = s.stack j := rfl
@[simp] theorem State.setRxf_pch (s : State) (k : Nat) (x : RxFlow) (j : Nat) : (s.setRxf k x).pch j = s.pch j := rfl
@[simp] theorem State.setRxf_txf (s : State) (k : Nat) (x : RxFlow) (j : Nat) : (s.setRxf k x).txf j = s.txf j := rfl
@[simp] theorem State.setRxf_htxq (s : State) (k : Nat) (x : RxFlow) (j : Nat) : (s.setRxf k x).htxq j = s.htxq j := rfl
@[simp] theorem State.setRxf_port (s : State) (k : Nat) (x : RxFlow) (j : Nat) : (s.setRxf k x).port j = s.port j := rfl
@[simp] theorem State.setRxf_e2eOf (s : State) (k : Nat) (x : RxFlow) (j l : Nat) : (s.setRxf k x).e2eOf j l = s.e2eOf j l := rfl
@[simp] theorem State.setRxf_esp (s : State) (k : Nat) (x : RxFlow) (j : Nat) : (s.setRxf k x).esp j = s.esp j := rfl
@[simp] theorem State.setRxf_chan (s : State) (k : Nat) (x : RxFlow) (j : Nat) : (s.setRxf k x).chan j = s.chan j := rfl
@[simp] theorem State.setRxf_busy (s : State) (k : Nat) (x : RxFlow) (j : Nat) : (s.setRxf k x).busy j = s.busy j := rfl
@[simp] theorem State.setRxf_inDrain (s : State) (k : Nat) (x : RxFlow) (j : Nat) : (s.setRxf k x).inDrain j = s.inDrain j := rfl
@[simp] theorem State.setRxf_clocked (s : State) (k : Nat) (x : RxFlow) : (s.setRxf k x).clocked = s.clocked := rfl

/-! setTxf -/

@[simp] theorem State.setTxf_pending (s : State) (k : Nat) (x : TxFlow) : (s.setTxf k x).pending = s.pending := rfl
@[simp] theorem State.setTxf_outbox (s : State) (k : Nat) (x : TxFlow) : (s.setTxf k x).outbox = s.outbox := rfl
@[simp] theorem State.setTxf_fresh (s : State) (k : Nat) (x : TxFlow) : (s.setTxf k x).fresh = s.fresh := rfl
@[simp] theorem State.setTxf_variant (s : State) (k : Nat) (x : TxFlow) : (s.setTxf k x).variant = s.variant := rfl
@[simp] theorem State.setTxf_rev (s : State) (k : Nat) (x : TxFlow) : (s.setTxf k x).rev = s.rev := rfl
@[simp] theorem State.setTxf_signReq (s : State) (k : Nat) (x : TxFlow) : (s.setTxf k x).signReq = s.signReq := rfl
@[simp] theorem State.setTxf_testEn (s : State) (k : Nat) (x : TxFlow) : (s.setTxf k x).testEn = s.testEn := rfl
@[simp] theorem State.setTxf_sa (s : State) (k : Nat) (x : TxFlow) : (s.setTxf k x).sa = s.sa := rfl
@[simp] theorem State.setTxf_regs (s : State) (k : Nat) (x : TxFlow) : (s.setTxf k x).regs = s.regs := rfl
@[simp] theorem State.setTxf_hiLatch (s : State) (k : Nat) (x : TxFlow) : (s.setTxf k x).hiLatch = s.hiLatch := rfl
@[simp] theorem State.setTxf_loHeld (s : State) (k : Nat) (x : TxFlow) : (s.setTxf k x).loHeld = s.loHeld := rfl
@[simp] theorem State.setTxf_hbm (s : State) (k : Nat) (x : TxFlow) : (s.setTxf k x).hbm = s.hbm := rfl
@[simp] theorem State.setTxf_memSeed (s : State) (k : Nat) (x : TxFlow) : (s.setTxf k x).memSeed = s.memSeed := rfl
@[simp] theorem State.setTxf_poison (s : State) (k : Nat) (x : TxFlow) : (s.setTxf k x).poison = s.poison := rfl
@[simp] theorem State.setTxf_host (s : State) (k : Nat) (x : TxFlow) : (s.setTxf k x).host = s.host := rfl
@[simp] theorem State.setTxf_hif (s : State) (k : Nat) (x : TxFlow) : (s.setTxf k x).hif = s.hif := rfl
@[simp] theorem State.setTxf_resetting (s : State) (k : Nat) (x : TxFlow) : (s.setTxf k x).resetting = s.resetting := rfl
@[simp] theorem State.setTxf_draining (s : State) (k : Nat) (x : TxFlow) : (s.setTxf k x).draining = s.draining := rfl
@[simp] theorem State.setTxf_edges (s : State) (k : Nat) (x : TxFlow) : (s.setTxf k x).edges = s.edges := rfl
@[simp] theorem State.setTxf_rings (s : State) (k : Nat) (x : TxFlow) : (s.setTxf k x).rings = s.rings := rfl
@[simp] theorem State.setTxf_chans (s : State) (k : Nat) (x : TxFlow) : (s.setTxf k x).chans = s.chans := rfl
@[simp] theorem State.setTxf_pools (s : State) (k : Nat) (x : TxFlow) : (s.setTxf k x).pools = s.pools := rfl
@[simp] theorem State.setTxf_bufs (s : State) (k : Nat) (x : TxFlow) : (s.setTxf k x).bufs = s.bufs := rfl
@[simp] theorem State.setTxf_sessions (s : State) (k : Nat) (x : TxFlow) : (s.setTxf k x).sessions = s.sessions := rfl
@[simp] theorem State.setTxf_cores (s : State) (k : Nat) (x : TxFlow) : (s.setTxf k x).cores = s.cores := rfl
@[simp] theorem State.setTxf_hedges (s : State) (k : Nat) (x : TxFlow) : (s.setTxf k x).hedges = s.hedges := rfl
@[simp] theorem State.setTxf_seqs (s : State) (k : Nat) (x : TxFlow) : (s.setTxf k x).seqs = s.seqs := rfl
@[simp] theorem State.setTxf_store (s : State) (k : Nat) (x : TxFlow) : (s.setTxf k x).store = s.store := rfl
@[simp] theorem State.setTxf_pipes (s : State) (k : Nat) (x : TxFlow) : (s.setTxf k x).pipes = s.pipes := rfl
@[simp] theorem State.setTxf_hbmStacks (s : State) (k : Nat) (x : TxFlow) : (s.setTxf k x).hbmStacks = s.hbmStacks := rfl
@[simp] theorem State.setTxf_pchs (s : State) (k : Nat) (x : TxFlow) : (s.setTxf k x).pchs = s.pchs := rfl
@[simp] theorem State.setTxf_rxFlows (s : State) (k : Nat) (x : TxFlow) : (s.setTxf k x).rxFlows = s.rxFlows := rfl
@[simp] theorem State.setTxf_htx (s : State) (k : Nat) (x : TxFlow) : (s.setTxf k x).htx = s.htx := rfl
@[simp] theorem State.setTxf_mtc (s : State) (k : Nat) (x : TxFlow) : (s.setTxf k x).mtc = s.mtc := rfl
@[simp] theorem State.setTxf_ports (s : State) (k : Nat) (x : TxFlow) : (s.setTxf k x).ports = s.ports := rfl
@[simp] theorem State.setTxf_e2e (s : State) (k : Nat) (x : TxFlow) : (s.setTxf k x).e2e = s.e2e := rfl
@[simp] theorem State.setTxf_remotes (s : State) (k : Nat) (x : TxFlow) : (s.setTxf k x).remotes = s.remotes := rfl
@[simp] theorem State.setTxf_esps (s : State) (k : Nat) (x : TxFlow) : (s.setTxf k x).esps = s.esps := rfl
@[simp] theorem State.setTxf_clock (s : State) (k : Nat) (x : TxFlow) : (s.setTxf k x).clock = s.clock := rfl
@[simp] theorem State.setTxf_power (s : State) (k : Nat) (x : TxFlow) : (s.setTxf k x).power = s.power := rfl
@[simp] theorem State.setTxf_resetReq (s : State) (k : Nat) (x : TxFlow) : (s.setTxf k x).resetReq = s.resetReq := rfl
@[simp] theorem State.setTxf_uptime (s : State) (k : Nat) (x : TxFlow) : (s.setTxf k x).uptime = s.uptime := rfl
@[simp] theorem State.setTxf_histTotal (s : State) (k : Nat) (x : TxFlow) : (s.setTxf k x).histTotal = s.histTotal := rfl
@[simp] theorem State.setTxf_unlock (s : State) (k : Nat) (x : TxFlow) : (s.setTxf k x).unlock = s.unlock := rfl
@[simp] theorem State.setTxf_inject (s : State) (k : Nat) (x : TxFlow) : (s.setTxf k x).inject = s.inject := rfl
@[simp] theorem State.setTxf_reg (s : State) (k : Nat) (x : TxFlow) (j : Nat) : (s.setTxf k x).reg j = s.reg j := rfl
@[simp] theorem State.setTxf_fn (s : State) (k : Nat) (x : TxFlow) (j : Nat) : (s.setTxf k x).fn j = s.fn j := rfl
@[simp] theorem State.setTxf_ring (s : State) (k : Nat) (x : TxFlow) (j : Nat) : (s.setTxf k x).ring j = s.ring j := rfl
@[simp] theorem State.setTxf_pool (s : State) (k : Nat) (x : TxFlow) (j : Nat) : (s.setTxf k x).pool j = s.pool j := rfl
@[simp] theorem State.setTxf_buf (s : State) (k : Nat) (x : TxFlow) (j : Nat) : (s.setTxf k x).buf j = s.buf j := rfl
@[simp] theorem State.setTxf_sess (s : State) (k : Nat) (x : TxFlow) (j : Nat) : (s.setTxf k x).sess j = s.sess j := rfl
@[simp] theorem State.setTxf_core (s : State) (k : Nat) (x : TxFlow) (j : Nat) : (s.setTxf k x).core j = s.core j := rfl
@[simp] theorem State.setTxf_hedge (s : State) (k : Nat) (x : TxFlow) (j : Nat) : (s.setTxf k x).hedge j = s.hedge j := rfl
@[simp] theorem State.setTxf_seq (s : State) (k : Nat) (x : TxFlow) (j : Nat) : (s.setTxf k x).seq j = s.seq j := rfl
@[simp] theorem State.setTxf_pipe (s : State) (k : Nat) (x : TxFlow) (j : Nat) : (s.setTxf k x).pipe j = s.pipe j := rfl
@[simp] theorem State.setTxf_stack (s : State) (k : Nat) (x : TxFlow) (j : Nat) : (s.setTxf k x).stack j = s.stack j := rfl
@[simp] theorem State.setTxf_pch (s : State) (k : Nat) (x : TxFlow) (j : Nat) : (s.setTxf k x).pch j = s.pch j := rfl
@[simp] theorem State.setTxf_rxf (s : State) (k : Nat) (x : TxFlow) (j : Nat) : (s.setTxf k x).rxf j = s.rxf j := rfl
@[simp] theorem State.setTxf_htxq (s : State) (k : Nat) (x : TxFlow) (j : Nat) : (s.setTxf k x).htxq j = s.htxq j := rfl
@[simp] theorem State.setTxf_port (s : State) (k : Nat) (x : TxFlow) (j : Nat) : (s.setTxf k x).port j = s.port j := rfl
@[simp] theorem State.setTxf_e2eOf (s : State) (k : Nat) (x : TxFlow) (j l : Nat) : (s.setTxf k x).e2eOf j l = s.e2eOf j l := rfl
@[simp] theorem State.setTxf_esp (s : State) (k : Nat) (x : TxFlow) (j : Nat) : (s.setTxf k x).esp j = s.esp j := rfl
@[simp] theorem State.setTxf_chan (s : State) (k : Nat) (x : TxFlow) (j : Nat) : (s.setTxf k x).chan j = s.chan j := rfl
@[simp] theorem State.setTxf_busy (s : State) (k : Nat) (x : TxFlow) (j : Nat) : (s.setTxf k x).busy j = s.busy j := rfl
@[simp] theorem State.setTxf_inDrain (s : State) (k : Nat) (x : TxFlow) (j : Nat) : (s.setTxf k x).inDrain j = s.inDrain j := rfl
@[simp] theorem State.setTxf_clocked (s : State) (k : Nat) (x : TxFlow) : (s.setTxf k x).clocked = s.clocked := rfl

/-! setHtxq -/

@[simp] theorem State.setHtxq_pending (s : State) (k : Nat) (x : List HtxEntry) : (s.setHtxq k x).pending = s.pending := rfl
@[simp] theorem State.setHtxq_outbox (s : State) (k : Nat) (x : List HtxEntry) : (s.setHtxq k x).outbox = s.outbox := rfl
@[simp] theorem State.setHtxq_fresh (s : State) (k : Nat) (x : List HtxEntry) : (s.setHtxq k x).fresh = s.fresh := rfl
@[simp] theorem State.setHtxq_variant (s : State) (k : Nat) (x : List HtxEntry) : (s.setHtxq k x).variant = s.variant := rfl
@[simp] theorem State.setHtxq_rev (s : State) (k : Nat) (x : List HtxEntry) : (s.setHtxq k x).rev = s.rev := rfl
@[simp] theorem State.setHtxq_signReq (s : State) (k : Nat) (x : List HtxEntry) : (s.setHtxq k x).signReq = s.signReq := rfl
@[simp] theorem State.setHtxq_testEn (s : State) (k : Nat) (x : List HtxEntry) : (s.setHtxq k x).testEn = s.testEn := rfl
@[simp] theorem State.setHtxq_sa (s : State) (k : Nat) (x : List HtxEntry) : (s.setHtxq k x).sa = s.sa := rfl
@[simp] theorem State.setHtxq_regs (s : State) (k : Nat) (x : List HtxEntry) : (s.setHtxq k x).regs = s.regs := rfl
@[simp] theorem State.setHtxq_hiLatch (s : State) (k : Nat) (x : List HtxEntry) : (s.setHtxq k x).hiLatch = s.hiLatch := rfl
@[simp] theorem State.setHtxq_loHeld (s : State) (k : Nat) (x : List HtxEntry) : (s.setHtxq k x).loHeld = s.loHeld := rfl
@[simp] theorem State.setHtxq_hbm (s : State) (k : Nat) (x : List HtxEntry) : (s.setHtxq k x).hbm = s.hbm := rfl
@[simp] theorem State.setHtxq_memSeed (s : State) (k : Nat) (x : List HtxEntry) : (s.setHtxq k x).memSeed = s.memSeed := rfl
@[simp] theorem State.setHtxq_poison (s : State) (k : Nat) (x : List HtxEntry) : (s.setHtxq k x).poison = s.poison := rfl
@[simp] theorem State.setHtxq_host (s : State) (k : Nat) (x : List HtxEntry) : (s.setHtxq k x).host = s.host := rfl
@[simp] theorem State.setHtxq_hif (s : State) (k : Nat) (x : List HtxEntry) : (s.setHtxq k x).hif = s.hif := rfl
@[simp] theorem State.setHtxq_resetting (s : State) (k : Nat) (x : List HtxEntry) : (s.setHtxq k x).resetting = s.resetting := rfl
@[simp] theorem State.setHtxq_draining (s : State) (k : Nat) (x : List HtxEntry) : (s.setHtxq k x).draining = s.draining := rfl
@[simp] theorem State.setHtxq_edges (s : State) (k : Nat) (x : List HtxEntry) : (s.setHtxq k x).edges = s.edges := rfl
@[simp] theorem State.setHtxq_rings (s : State) (k : Nat) (x : List HtxEntry) : (s.setHtxq k x).rings = s.rings := rfl
@[simp] theorem State.setHtxq_chans (s : State) (k : Nat) (x : List HtxEntry) : (s.setHtxq k x).chans = s.chans := rfl
@[simp] theorem State.setHtxq_pools (s : State) (k : Nat) (x : List HtxEntry) : (s.setHtxq k x).pools = s.pools := rfl
@[simp] theorem State.setHtxq_bufs (s : State) (k : Nat) (x : List HtxEntry) : (s.setHtxq k x).bufs = s.bufs := rfl
@[simp] theorem State.setHtxq_sessions (s : State) (k : Nat) (x : List HtxEntry) : (s.setHtxq k x).sessions = s.sessions := rfl
@[simp] theorem State.setHtxq_cores (s : State) (k : Nat) (x : List HtxEntry) : (s.setHtxq k x).cores = s.cores := rfl
@[simp] theorem State.setHtxq_hedges (s : State) (k : Nat) (x : List HtxEntry) : (s.setHtxq k x).hedges = s.hedges := rfl
@[simp] theorem State.setHtxq_seqs (s : State) (k : Nat) (x : List HtxEntry) : (s.setHtxq k x).seqs = s.seqs := rfl
@[simp] theorem State.setHtxq_store (s : State) (k : Nat) (x : List HtxEntry) : (s.setHtxq k x).store = s.store := rfl
@[simp] theorem State.setHtxq_pipes (s : State) (k : Nat) (x : List HtxEntry) : (s.setHtxq k x).pipes = s.pipes := rfl
@[simp] theorem State.setHtxq_hbmStacks (s : State) (k : Nat) (x : List HtxEntry) : (s.setHtxq k x).hbmStacks = s.hbmStacks := rfl
@[simp] theorem State.setHtxq_pchs (s : State) (k : Nat) (x : List HtxEntry) : (s.setHtxq k x).pchs = s.pchs := rfl
@[simp] theorem State.setHtxq_rxFlows (s : State) (k : Nat) (x : List HtxEntry) : (s.setHtxq k x).rxFlows = s.rxFlows := rfl
@[simp] theorem State.setHtxq_txFlows (s : State) (k : Nat) (x : List HtxEntry) : (s.setHtxq k x).txFlows = s.txFlows := rfl
@[simp] theorem State.setHtxq_mtc (s : State) (k : Nat) (x : List HtxEntry) : (s.setHtxq k x).mtc = s.mtc := rfl
@[simp] theorem State.setHtxq_ports (s : State) (k : Nat) (x : List HtxEntry) : (s.setHtxq k x).ports = s.ports := rfl
@[simp] theorem State.setHtxq_e2e (s : State) (k : Nat) (x : List HtxEntry) : (s.setHtxq k x).e2e = s.e2e := rfl
@[simp] theorem State.setHtxq_remotes (s : State) (k : Nat) (x : List HtxEntry) : (s.setHtxq k x).remotes = s.remotes := rfl
@[simp] theorem State.setHtxq_esps (s : State) (k : Nat) (x : List HtxEntry) : (s.setHtxq k x).esps = s.esps := rfl
@[simp] theorem State.setHtxq_clock (s : State) (k : Nat) (x : List HtxEntry) : (s.setHtxq k x).clock = s.clock := rfl
@[simp] theorem State.setHtxq_power (s : State) (k : Nat) (x : List HtxEntry) : (s.setHtxq k x).power = s.power := rfl
@[simp] theorem State.setHtxq_resetReq (s : State) (k : Nat) (x : List HtxEntry) : (s.setHtxq k x).resetReq = s.resetReq := rfl
@[simp] theorem State.setHtxq_uptime (s : State) (k : Nat) (x : List HtxEntry) : (s.setHtxq k x).uptime = s.uptime := rfl
@[simp] theorem State.setHtxq_histTotal (s : State) (k : Nat) (x : List HtxEntry) : (s.setHtxq k x).histTotal = s.histTotal := rfl
@[simp] theorem State.setHtxq_unlock (s : State) (k : Nat) (x : List HtxEntry) : (s.setHtxq k x).unlock = s.unlock := rfl
@[simp] theorem State.setHtxq_inject (s : State) (k : Nat) (x : List HtxEntry) : (s.setHtxq k x).inject = s.inject := rfl
@[simp] theorem State.setHtxq_reg (s : State) (k : Nat) (x : List HtxEntry) (j : Nat) : (s.setHtxq k x).reg j = s.reg j := rfl
@[simp] theorem State.setHtxq_fn (s : State) (k : Nat) (x : List HtxEntry) (j : Nat) : (s.setHtxq k x).fn j = s.fn j := rfl
@[simp] theorem State.setHtxq_ring (s : State) (k : Nat) (x : List HtxEntry) (j : Nat) : (s.setHtxq k x).ring j = s.ring j := rfl
@[simp] theorem State.setHtxq_pool (s : State) (k : Nat) (x : List HtxEntry) (j : Nat) : (s.setHtxq k x).pool j = s.pool j := rfl
@[simp] theorem State.setHtxq_buf (s : State) (k : Nat) (x : List HtxEntry) (j : Nat) : (s.setHtxq k x).buf j = s.buf j := rfl
@[simp] theorem State.setHtxq_sess (s : State) (k : Nat) (x : List HtxEntry) (j : Nat) : (s.setHtxq k x).sess j = s.sess j := rfl
@[simp] theorem State.setHtxq_core (s : State) (k : Nat) (x : List HtxEntry) (j : Nat) : (s.setHtxq k x).core j = s.core j := rfl
@[simp] theorem State.setHtxq_hedge (s : State) (k : Nat) (x : List HtxEntry) (j : Nat) : (s.setHtxq k x).hedge j = s.hedge j := rfl
@[simp] theorem State.setHtxq_seq (s : State) (k : Nat) (x : List HtxEntry) (j : Nat) : (s.setHtxq k x).seq j = s.seq j := rfl
@[simp] theorem State.setHtxq_pipe (s : State) (k : Nat) (x : List HtxEntry) (j : Nat) : (s.setHtxq k x).pipe j = s.pipe j := rfl
@[simp] theorem State.setHtxq_stack (s : State) (k : Nat) (x : List HtxEntry) (j : Nat) : (s.setHtxq k x).stack j = s.stack j := rfl
@[simp] theorem State.setHtxq_pch (s : State) (k : Nat) (x : List HtxEntry) (j : Nat) : (s.setHtxq k x).pch j = s.pch j := rfl
@[simp] theorem State.setHtxq_rxf (s : State) (k : Nat) (x : List HtxEntry) (j : Nat) : (s.setHtxq k x).rxf j = s.rxf j := rfl
@[simp] theorem State.setHtxq_txf (s : State) (k : Nat) (x : List HtxEntry) (j : Nat) : (s.setHtxq k x).txf j = s.txf j := rfl
@[simp] theorem State.setHtxq_port (s : State) (k : Nat) (x : List HtxEntry) (j : Nat) : (s.setHtxq k x).port j = s.port j := rfl
@[simp] theorem State.setHtxq_e2eOf (s : State) (k : Nat) (x : List HtxEntry) (j l : Nat) : (s.setHtxq k x).e2eOf j l = s.e2eOf j l := rfl
@[simp] theorem State.setHtxq_esp (s : State) (k : Nat) (x : List HtxEntry) (j : Nat) : (s.setHtxq k x).esp j = s.esp j := rfl
@[simp] theorem State.setHtxq_chan (s : State) (k : Nat) (x : List HtxEntry) (j : Nat) : (s.setHtxq k x).chan j = s.chan j := rfl
@[simp] theorem State.setHtxq_busy (s : State) (k : Nat) (x : List HtxEntry) (j : Nat) : (s.setHtxq k x).busy j = s.busy j := rfl
@[simp] theorem State.setHtxq_inDrain (s : State) (k : Nat) (x : List HtxEntry) (j : Nat) : (s.setHtxq k x).inDrain j = s.inDrain j := rfl
@[simp] theorem State.setHtxq_clocked (s : State) (k : Nat) (x : List HtxEntry) : (s.setHtxq k x).clocked = s.clocked := rfl

/-! setPort -/

@[simp] theorem State.setPort_pending (s : State) (k : Nat) (x : Port) : (s.setPort k x).pending = s.pending := rfl
@[simp] theorem State.setPort_outbox (s : State) (k : Nat) (x : Port) : (s.setPort k x).outbox = s.outbox := rfl
@[simp] theorem State.setPort_fresh (s : State) (k : Nat) (x : Port) : (s.setPort k x).fresh = s.fresh := rfl
@[simp] theorem State.setPort_variant (s : State) (k : Nat) (x : Port) : (s.setPort k x).variant = s.variant := rfl
@[simp] theorem State.setPort_rev (s : State) (k : Nat) (x : Port) : (s.setPort k x).rev = s.rev := rfl
@[simp] theorem State.setPort_signReq (s : State) (k : Nat) (x : Port) : (s.setPort k x).signReq = s.signReq := rfl
@[simp] theorem State.setPort_testEn (s : State) (k : Nat) (x : Port) : (s.setPort k x).testEn = s.testEn := rfl
@[simp] theorem State.setPort_sa (s : State) (k : Nat) (x : Port) : (s.setPort k x).sa = s.sa := rfl
@[simp] theorem State.setPort_regs (s : State) (k : Nat) (x : Port) : (s.setPort k x).regs = s.regs := rfl
@[simp] theorem State.setPort_hiLatch (s : State) (k : Nat) (x : Port) : (s.setPort k x).hiLatch = s.hiLatch := rfl
@[simp] theorem State.setPort_loHeld (s : State) (k : Nat) (x : Port) : (s.setPort k x).loHeld = s.loHeld := rfl
@[simp] theorem State.setPort_hbm (s : State) (k : Nat) (x : Port) : (s.setPort k x).hbm = s.hbm := rfl
@[simp] theorem State.setPort_memSeed (s : State) (k : Nat) (x : Port) : (s.setPort k x).memSeed = s.memSeed := rfl
@[simp] theorem State.setPort_poison (s : State) (k : Nat) (x : Port) : (s.setPort k x).poison = s.poison := rfl
@[simp] theorem State.setPort_host (s : State) (k : Nat) (x : Port) : (s.setPort k x).host = s.host := rfl
@[simp] theorem State.setPort_hif (s : State) (k : Nat) (x : Port) : (s.setPort k x).hif = s.hif := rfl
@[simp] theorem State.setPort_resetting (s : State) (k : Nat) (x : Port) : (s.setPort k x).resetting = s.resetting := rfl
@[simp] theorem State.setPort_draining (s : State) (k : Nat) (x : Port) : (s.setPort k x).draining = s.draining := rfl
@[simp] theorem State.setPort_edges (s : State) (k : Nat) (x : Port) : (s.setPort k x).edges = s.edges := rfl
@[simp] theorem State.setPort_rings (s : State) (k : Nat) (x : Port) : (s.setPort k x).rings = s.rings := rfl
@[simp] theorem State.setPort_chans (s : State) (k : Nat) (x : Port) : (s.setPort k x).chans = s.chans := rfl
@[simp] theorem State.setPort_pools (s : State) (k : Nat) (x : Port) : (s.setPort k x).pools = s.pools := rfl
@[simp] theorem State.setPort_bufs (s : State) (k : Nat) (x : Port) : (s.setPort k x).bufs = s.bufs := rfl
@[simp] theorem State.setPort_sessions (s : State) (k : Nat) (x : Port) : (s.setPort k x).sessions = s.sessions := rfl
@[simp] theorem State.setPort_cores (s : State) (k : Nat) (x : Port) : (s.setPort k x).cores = s.cores := rfl
@[simp] theorem State.setPort_hedges (s : State) (k : Nat) (x : Port) : (s.setPort k x).hedges = s.hedges := rfl
@[simp] theorem State.setPort_seqs (s : State) (k : Nat) (x : Port) : (s.setPort k x).seqs = s.seqs := rfl
@[simp] theorem State.setPort_store (s : State) (k : Nat) (x : Port) : (s.setPort k x).store = s.store := rfl
@[simp] theorem State.setPort_pipes (s : State) (k : Nat) (x : Port) : (s.setPort k x).pipes = s.pipes := rfl
@[simp] theorem State.setPort_hbmStacks (s : State) (k : Nat) (x : Port) : (s.setPort k x).hbmStacks = s.hbmStacks := rfl
@[simp] theorem State.setPort_pchs (s : State) (k : Nat) (x : Port) : (s.setPort k x).pchs = s.pchs := rfl
@[simp] theorem State.setPort_rxFlows (s : State) (k : Nat) (x : Port) : (s.setPort k x).rxFlows = s.rxFlows := rfl
@[simp] theorem State.setPort_txFlows (s : State) (k : Nat) (x : Port) : (s.setPort k x).txFlows = s.txFlows := rfl
@[simp] theorem State.setPort_htx (s : State) (k : Nat) (x : Port) : (s.setPort k x).htx = s.htx := rfl
@[simp] theorem State.setPort_mtc (s : State) (k : Nat) (x : Port) : (s.setPort k x).mtc = s.mtc := rfl
@[simp] theorem State.setPort_e2e (s : State) (k : Nat) (x : Port) : (s.setPort k x).e2e = s.e2e := rfl
@[simp] theorem State.setPort_remotes (s : State) (k : Nat) (x : Port) : (s.setPort k x).remotes = s.remotes := rfl
@[simp] theorem State.setPort_esps (s : State) (k : Nat) (x : Port) : (s.setPort k x).esps = s.esps := rfl
@[simp] theorem State.setPort_clock (s : State) (k : Nat) (x : Port) : (s.setPort k x).clock = s.clock := rfl
@[simp] theorem State.setPort_power (s : State) (k : Nat) (x : Port) : (s.setPort k x).power = s.power := rfl
@[simp] theorem State.setPort_resetReq (s : State) (k : Nat) (x : Port) : (s.setPort k x).resetReq = s.resetReq := rfl
@[simp] theorem State.setPort_uptime (s : State) (k : Nat) (x : Port) : (s.setPort k x).uptime = s.uptime := rfl
@[simp] theorem State.setPort_histTotal (s : State) (k : Nat) (x : Port) : (s.setPort k x).histTotal = s.histTotal := rfl
@[simp] theorem State.setPort_unlock (s : State) (k : Nat) (x : Port) : (s.setPort k x).unlock = s.unlock := rfl
@[simp] theorem State.setPort_inject (s : State) (k : Nat) (x : Port) : (s.setPort k x).inject = s.inject := rfl
@[simp] theorem State.setPort_reg (s : State) (k : Nat) (x : Port) (j : Nat) : (s.setPort k x).reg j = s.reg j := rfl
@[simp] theorem State.setPort_fn (s : State) (k : Nat) (x : Port) (j : Nat) : (s.setPort k x).fn j = s.fn j := rfl
@[simp] theorem State.setPort_ring (s : State) (k : Nat) (x : Port) (j : Nat) : (s.setPort k x).ring j = s.ring j := rfl
@[simp] theorem State.setPort_pool (s : State) (k : Nat) (x : Port) (j : Nat) : (s.setPort k x).pool j = s.pool j := rfl
@[simp] theorem State.setPort_buf (s : State) (k : Nat) (x : Port) (j : Nat) : (s.setPort k x).buf j = s.buf j := rfl
@[simp] theorem State.setPort_sess (s : State) (k : Nat) (x : Port) (j : Nat) : (s.setPort k x).sess j = s.sess j := rfl
@[simp] theorem State.setPort_core (s : State) (k : Nat) (x : Port) (j : Nat) : (s.setPort k x).core j = s.core j := rfl
@[simp] theorem State.setPort_hedge (s : State) (k : Nat) (x : Port) (j : Nat) : (s.setPort k x).hedge j = s.hedge j := rfl
@[simp] theorem State.setPort_seq (s : State) (k : Nat) (x : Port) (j : Nat) : (s.setPort k x).seq j = s.seq j := rfl
@[simp] theorem State.setPort_pipe (s : State) (k : Nat) (x : Port) (j : Nat) : (s.setPort k x).pipe j = s.pipe j := rfl
@[simp] theorem State.setPort_stack (s : State) (k : Nat) (x : Port) (j : Nat) : (s.setPort k x).stack j = s.stack j := rfl
@[simp] theorem State.setPort_pch (s : State) (k : Nat) (x : Port) (j : Nat) : (s.setPort k x).pch j = s.pch j := rfl
@[simp] theorem State.setPort_rxf (s : State) (k : Nat) (x : Port) (j : Nat) : (s.setPort k x).rxf j = s.rxf j := rfl
@[simp] theorem State.setPort_txf (s : State) (k : Nat) (x : Port) (j : Nat) : (s.setPort k x).txf j = s.txf j := rfl
@[simp] theorem State.setPort_htxq (s : State) (k : Nat) (x : Port) (j : Nat) : (s.setPort k x).htxq j = s.htxq j := rfl
@[simp] theorem State.setPort_e2eOf (s : State) (k : Nat) (x : Port) (j l : Nat) : (s.setPort k x).e2eOf j l = s.e2eOf j l := rfl
@[simp] theorem State.setPort_esp (s : State) (k : Nat) (x : Port) (j : Nat) : (s.setPort k x).esp j = s.esp j := rfl
@[simp] theorem State.setPort_chan (s : State) (k : Nat) (x : Port) (j : Nat) : (s.setPort k x).chan j = s.chan j := rfl
@[simp] theorem State.setPort_busy (s : State) (k : Nat) (x : Port) (j : Nat) : (s.setPort k x).busy j = s.busy j := rfl
@[simp] theorem State.setPort_inDrain (s : State) (k : Nat) (x : Port) (j : Nat) : (s.setPort k x).inDrain j = s.inDrain j := rfl
@[simp] theorem State.setPort_clocked (s : State) (k : Nat) (x : Port) : (s.setPort k x).clocked = s.clocked := rfl

/-! setE2e -/

@[simp] theorem State.setE2e_pending (s : State) (k l : Nat) (x : E2e) : (s.setE2e k l x).pending = s.pending := rfl
@[simp] theorem State.setE2e_outbox (s : State) (k l : Nat) (x : E2e) : (s.setE2e k l x).outbox = s.outbox := rfl
@[simp] theorem State.setE2e_fresh (s : State) (k l : Nat) (x : E2e) : (s.setE2e k l x).fresh = s.fresh := rfl
@[simp] theorem State.setE2e_variant (s : State) (k l : Nat) (x : E2e) : (s.setE2e k l x).variant = s.variant := rfl
@[simp] theorem State.setE2e_rev (s : State) (k l : Nat) (x : E2e) : (s.setE2e k l x).rev = s.rev := rfl
@[simp] theorem State.setE2e_signReq (s : State) (k l : Nat) (x : E2e) : (s.setE2e k l x).signReq = s.signReq := rfl
@[simp] theorem State.setE2e_testEn (s : State) (k l : Nat) (x : E2e) : (s.setE2e k l x).testEn = s.testEn := rfl
@[simp] theorem State.setE2e_sa (s : State) (k l : Nat) (x : E2e) : (s.setE2e k l x).sa = s.sa := rfl
@[simp] theorem State.setE2e_regs (s : State) (k l : Nat) (x : E2e) : (s.setE2e k l x).regs = s.regs := rfl
@[simp] theorem State.setE2e_hiLatch (s : State) (k l : Nat) (x : E2e) : (s.setE2e k l x).hiLatch = s.hiLatch := rfl
@[simp] theorem State.setE2e_loHeld (s : State) (k l : Nat) (x : E2e) : (s.setE2e k l x).loHeld = s.loHeld := rfl
@[simp] theorem State.setE2e_hbm (s : State) (k l : Nat) (x : E2e) : (s.setE2e k l x).hbm = s.hbm := rfl
@[simp] theorem State.setE2e_memSeed (s : State) (k l : Nat) (x : E2e) : (s.setE2e k l x).memSeed = s.memSeed := rfl
@[simp] theorem State.setE2e_poison (s : State) (k l : Nat) (x : E2e) : (s.setE2e k l x).poison = s.poison := rfl
@[simp] theorem State.setE2e_host (s : State) (k l : Nat) (x : E2e) : (s.setE2e k l x).host = s.host := rfl
@[simp] theorem State.setE2e_hif (s : State) (k l : Nat) (x : E2e) : (s.setE2e k l x).hif = s.hif := rfl
@[simp] theorem State.setE2e_resetting (s : State) (k l : Nat) (x : E2e) : (s.setE2e k l x).resetting = s.resetting := rfl
@[simp] theorem State.setE2e_draining (s : State) (k l : Nat) (x : E2e) : (s.setE2e k l x).draining = s.draining := rfl
@[simp] theorem State.setE2e_edges (s : State) (k l : Nat) (x : E2e) : (s.setE2e k l x).edges = s.edges := rfl
@[simp] theorem State.setE2e_rings (s : State) (k l : Nat) (x : E2e) : (s.setE2e k l x).rings = s.rings := rfl
@[simp] theorem State.setE2e_chans (s : State) (k l : Nat) (x : E2e) : (s.setE2e k l x).chans = s.chans := rfl
@[simp] theorem State.setE2e_pools (s : State) (k l : Nat) (x : E2e) : (s.setE2e k l x).pools = s.pools := rfl
@[simp] theorem State.setE2e_bufs (s : State) (k l : Nat) (x : E2e) : (s.setE2e k l x).bufs = s.bufs := rfl
@[simp] theorem State.setE2e_sessions (s : State) (k l : Nat) (x : E2e) : (s.setE2e k l x).sessions = s.sessions := rfl
@[simp] theorem State.setE2e_cores (s : State) (k l : Nat) (x : E2e) : (s.setE2e k l x).cores = s.cores := rfl
@[simp] theorem State.setE2e_hedges (s : State) (k l : Nat) (x : E2e) : (s.setE2e k l x).hedges = s.hedges := rfl
@[simp] theorem State.setE2e_seqs (s : State) (k l : Nat) (x : E2e) : (s.setE2e k l x).seqs = s.seqs := rfl
@[simp] theorem State.setE2e_store (s : State) (k l : Nat) (x : E2e) : (s.setE2e k l x).store = s.store := rfl
@[simp] theorem State.setE2e_pipes (s : State) (k l : Nat) (x : E2e) : (s.setE2e k l x).pipes = s.pipes := rfl
@[simp] theorem State.setE2e_hbmStacks (s : State) (k l : Nat) (x : E2e) : (s.setE2e k l x).hbmStacks = s.hbmStacks := rfl
@[simp] theorem State.setE2e_pchs (s : State) (k l : Nat) (x : E2e) : (s.setE2e k l x).pchs = s.pchs := rfl
@[simp] theorem State.setE2e_rxFlows (s : State) (k l : Nat) (x : E2e) : (s.setE2e k l x).rxFlows = s.rxFlows := rfl
@[simp] theorem State.setE2e_txFlows (s : State) (k l : Nat) (x : E2e) : (s.setE2e k l x).txFlows = s.txFlows := rfl
@[simp] theorem State.setE2e_htx (s : State) (k l : Nat) (x : E2e) : (s.setE2e k l x).htx = s.htx := rfl
@[simp] theorem State.setE2e_mtc (s : State) (k l : Nat) (x : E2e) : (s.setE2e k l x).mtc = s.mtc := rfl
@[simp] theorem State.setE2e_ports (s : State) (k l : Nat) (x : E2e) : (s.setE2e k l x).ports = s.ports := rfl
@[simp] theorem State.setE2e_remotes (s : State) (k l : Nat) (x : E2e) : (s.setE2e k l x).remotes = s.remotes := rfl
@[simp] theorem State.setE2e_esps (s : State) (k l : Nat) (x : E2e) : (s.setE2e k l x).esps = s.esps := rfl
@[simp] theorem State.setE2e_clock (s : State) (k l : Nat) (x : E2e) : (s.setE2e k l x).clock = s.clock := rfl
@[simp] theorem State.setE2e_power (s : State) (k l : Nat) (x : E2e) : (s.setE2e k l x).power = s.power := rfl
@[simp] theorem State.setE2e_resetReq (s : State) (k l : Nat) (x : E2e) : (s.setE2e k l x).resetReq = s.resetReq := rfl
@[simp] theorem State.setE2e_uptime (s : State) (k l : Nat) (x : E2e) : (s.setE2e k l x).uptime = s.uptime := rfl
@[simp] theorem State.setE2e_histTotal (s : State) (k l : Nat) (x : E2e) : (s.setE2e k l x).histTotal = s.histTotal := rfl
@[simp] theorem State.setE2e_unlock (s : State) (k l : Nat) (x : E2e) : (s.setE2e k l x).unlock = s.unlock := rfl
@[simp] theorem State.setE2e_inject (s : State) (k l : Nat) (x : E2e) : (s.setE2e k l x).inject = s.inject := rfl
@[simp] theorem State.setE2e_reg (s : State) (k l : Nat) (x : E2e) (j : Nat) : (s.setE2e k l x).reg j = s.reg j := rfl
@[simp] theorem State.setE2e_fn (s : State) (k l : Nat) (x : E2e) (j : Nat) : (s.setE2e k l x).fn j = s.fn j := rfl
@[simp] theorem State.setE2e_ring (s : State) (k l : Nat) (x : E2e) (j : Nat) : (s.setE2e k l x).ring j = s.ring j := rfl
@[simp] theorem State.setE2e_pool (s : State) (k l : Nat) (x : E2e) (j : Nat) : (s.setE2e k l x).pool j = s.pool j := rfl
@[simp] theorem State.setE2e_buf (s : State) (k l : Nat) (x : E2e) (j : Nat) : (s.setE2e k l x).buf j = s.buf j := rfl
@[simp] theorem State.setE2e_sess (s : State) (k l : Nat) (x : E2e) (j : Nat) : (s.setE2e k l x).sess j = s.sess j := rfl
@[simp] theorem State.setE2e_core (s : State) (k l : Nat) (x : E2e) (j : Nat) : (s.setE2e k l x).core j = s.core j := rfl
@[simp] theorem State.setE2e_hedge (s : State) (k l : Nat) (x : E2e) (j : Nat) : (s.setE2e k l x).hedge j = s.hedge j := rfl
@[simp] theorem State.setE2e_seq (s : State) (k l : Nat) (x : E2e) (j : Nat) : (s.setE2e k l x).seq j = s.seq j := rfl
@[simp] theorem State.setE2e_pipe (s : State) (k l : Nat) (x : E2e) (j : Nat) : (s.setE2e k l x).pipe j = s.pipe j := rfl
@[simp] theorem State.setE2e_stack (s : State) (k l : Nat) (x : E2e) (j : Nat) : (s.setE2e k l x).stack j = s.stack j := rfl
@[simp] theorem State.setE2e_pch (s : State) (k l : Nat) (x : E2e) (j : Nat) : (s.setE2e k l x).pch j = s.pch j := rfl
@[simp] theorem State.setE2e_rxf (s : State) (k l : Nat) (x : E2e) (j : Nat) : (s.setE2e k l x).rxf j = s.rxf j := rfl
@[simp] theorem State.setE2e_txf (s : State) (k l : Nat) (x : E2e) (j : Nat) : (s.setE2e k l x).txf j = s.txf j := rfl
@[simp] theorem State.setE2e_htxq (s : State) (k l : Nat) (x : E2e) (j : Nat) : (s.setE2e k l x).htxq j = s.htxq j := rfl
@[simp] theorem State.setE2e_port (s : State) (k l : Nat) (x : E2e) (j : Nat) : (s.setE2e k l x).port j = s.port j := rfl
@[simp] theorem State.setE2e_esp (s : State) (k l : Nat) (x : E2e) (j : Nat) : (s.setE2e k l x).esp j = s.esp j := rfl
@[simp] theorem State.setE2e_chan (s : State) (k l : Nat) (x : E2e) (j : Nat) : (s.setE2e k l x).chan j = s.chan j := rfl
@[simp] theorem State.setE2e_busy (s : State) (k l : Nat) (x : E2e) (j : Nat) : (s.setE2e k l x).busy j = s.busy j := rfl
@[simp] theorem State.setE2e_inDrain (s : State) (k l : Nat) (x : E2e) (j : Nat) : (s.setE2e k l x).inDrain j = s.inDrain j := rfl
@[simp] theorem State.setE2e_clocked (s : State) (k l : Nat) (x : E2e) : (s.setE2e k l x).clocked = s.clocked := rfl

/-! setEsp -/

@[simp] theorem State.setEsp_pending (s : State) (k : Nat) (x : Esp) : (s.setEsp k x).pending = s.pending := rfl
@[simp] theorem State.setEsp_outbox (s : State) (k : Nat) (x : Esp) : (s.setEsp k x).outbox = s.outbox := rfl
@[simp] theorem State.setEsp_fresh (s : State) (k : Nat) (x : Esp) : (s.setEsp k x).fresh = s.fresh := rfl
@[simp] theorem State.setEsp_variant (s : State) (k : Nat) (x : Esp) : (s.setEsp k x).variant = s.variant := rfl
@[simp] theorem State.setEsp_rev (s : State) (k : Nat) (x : Esp) : (s.setEsp k x).rev = s.rev := rfl
@[simp] theorem State.setEsp_signReq (s : State) (k : Nat) (x : Esp) : (s.setEsp k x).signReq = s.signReq := rfl
@[simp] theorem State.setEsp_testEn (s : State) (k : Nat) (x : Esp) : (s.setEsp k x).testEn = s.testEn := rfl
@[simp] theorem State.setEsp_sa (s : State) (k : Nat) (x : Esp) : (s.setEsp k x).sa = s.sa := rfl
@[simp] theorem State.setEsp_regs (s : State) (k : Nat) (x : Esp) : (s.setEsp k x).regs = s.regs := rfl
@[simp] theorem State.setEsp_hiLatch (s : State) (k : Nat) (x : Esp) : (s.setEsp k x).hiLatch = s.hiLatch := rfl
@[simp] theorem State.setEsp_loHeld (s : State) (k : Nat) (x : Esp) : (s.setEsp k x).loHeld = s.loHeld := rfl
@[simp] theorem State.setEsp_hbm (s : State) (k : Nat) (x : Esp) : (s.setEsp k x).hbm = s.hbm := rfl
@[simp] theorem State.setEsp_memSeed (s : State) (k : Nat) (x : Esp) : (s.setEsp k x).memSeed = s.memSeed := rfl
@[simp] theorem State.setEsp_poison (s : State) (k : Nat) (x : Esp) : (s.setEsp k x).poison = s.poison := rfl
@[simp] theorem State.setEsp_host (s : State) (k : Nat) (x : Esp) : (s.setEsp k x).host = s.host := rfl
@[simp] theorem State.setEsp_hif (s : State) (k : Nat) (x : Esp) : (s.setEsp k x).hif = s.hif := rfl
@[simp] theorem State.setEsp_resetting (s : State) (k : Nat) (x : Esp) : (s.setEsp k x).resetting = s.resetting := rfl
@[simp] theorem State.setEsp_draining (s : State) (k : Nat) (x : Esp) : (s.setEsp k x).draining = s.draining := rfl
@[simp] theorem State.setEsp_edges (s : State) (k : Nat) (x : Esp) : (s.setEsp k x).edges = s.edges := rfl
@[simp] theorem State.setEsp_rings (s : State) (k : Nat) (x : Esp) : (s.setEsp k x).rings = s.rings := rfl
@[simp] theorem State.setEsp_chans (s : State) (k : Nat) (x : Esp) : (s.setEsp k x).chans = s.chans := rfl
@[simp] theorem State.setEsp_pools (s : State) (k : Nat) (x : Esp) : (s.setEsp k x).pools = s.pools := rfl
@[simp] theorem State.setEsp_bufs (s : State) (k : Nat) (x : Esp) : (s.setEsp k x).bufs = s.bufs := rfl
@[simp] theorem State.setEsp_sessions (s : State) (k : Nat) (x : Esp) : (s.setEsp k x).sessions = s.sessions := rfl
@[simp] theorem State.setEsp_cores (s : State) (k : Nat) (x : Esp) : (s.setEsp k x).cores = s.cores := rfl
@[simp] theorem State.setEsp_hedges (s : State) (k : Nat) (x : Esp) : (s.setEsp k x).hedges = s.hedges := rfl
@[simp] theorem State.setEsp_seqs (s : State) (k : Nat) (x : Esp) : (s.setEsp k x).seqs = s.seqs := rfl
@[simp] theorem State.setEsp_store (s : State) (k : Nat) (x : Esp) : (s.setEsp k x).store = s.store := rfl
@[simp] theorem State.setEsp_pipes (s : State) (k : Nat) (x : Esp) : (s.setEsp k x).pipes = s.pipes := rfl
@[simp] theorem State.setEsp_hbmStacks (s : State) (k : Nat) (x : Esp) : (s.setEsp k x).hbmStacks = s.hbmStacks := rfl
@[simp] theorem State.setEsp_pchs (s : State) (k : Nat) (x : Esp) : (s.setEsp k x).pchs = s.pchs := rfl
@[simp] theorem State.setEsp_rxFlows (s : State) (k : Nat) (x : Esp) : (s.setEsp k x).rxFlows = s.rxFlows := rfl
@[simp] theorem State.setEsp_txFlows (s : State) (k : Nat) (x : Esp) : (s.setEsp k x).txFlows = s.txFlows := rfl
@[simp] theorem State.setEsp_htx (s : State) (k : Nat) (x : Esp) : (s.setEsp k x).htx = s.htx := rfl
@[simp] theorem State.setEsp_mtc (s : State) (k : Nat) (x : Esp) : (s.setEsp k x).mtc = s.mtc := rfl
@[simp] theorem State.setEsp_ports (s : State) (k : Nat) (x : Esp) : (s.setEsp k x).ports = s.ports := rfl
@[simp] theorem State.setEsp_e2e (s : State) (k : Nat) (x : Esp) : (s.setEsp k x).e2e = s.e2e := rfl
@[simp] theorem State.setEsp_remotes (s : State) (k : Nat) (x : Esp) : (s.setEsp k x).remotes = s.remotes := rfl
@[simp] theorem State.setEsp_clock (s : State) (k : Nat) (x : Esp) : (s.setEsp k x).clock = s.clock := rfl
@[simp] theorem State.setEsp_power (s : State) (k : Nat) (x : Esp) : (s.setEsp k x).power = s.power := rfl
@[simp] theorem State.setEsp_resetReq (s : State) (k : Nat) (x : Esp) : (s.setEsp k x).resetReq = s.resetReq := rfl
@[simp] theorem State.setEsp_uptime (s : State) (k : Nat) (x : Esp) : (s.setEsp k x).uptime = s.uptime := rfl
@[simp] theorem State.setEsp_histTotal (s : State) (k : Nat) (x : Esp) : (s.setEsp k x).histTotal = s.histTotal := rfl
@[simp] theorem State.setEsp_unlock (s : State) (k : Nat) (x : Esp) : (s.setEsp k x).unlock = s.unlock := rfl
@[simp] theorem State.setEsp_inject (s : State) (k : Nat) (x : Esp) : (s.setEsp k x).inject = s.inject := rfl
@[simp] theorem State.setEsp_reg (s : State) (k : Nat) (x : Esp) (j : Nat) : (s.setEsp k x).reg j = s.reg j := rfl
@[simp] theorem State.setEsp_fn (s : State) (k : Nat) (x : Esp) (j : Nat) : (s.setEsp k x).fn j = s.fn j := rfl
@[simp] theorem State.setEsp_ring (s : State) (k : Nat) (x : Esp) (j : Nat) : (s.setEsp k x).ring j = s.ring j := rfl
@[simp] theorem State.setEsp_pool (s : State) (k : Nat) (x : Esp) (j : Nat) : (s.setEsp k x).pool j = s.pool j := rfl
@[simp] theorem State.setEsp_buf (s : State) (k : Nat) (x : Esp) (j : Nat) : (s.setEsp k x).buf j = s.buf j := rfl
@[simp] theorem State.setEsp_sess (s : State) (k : Nat) (x : Esp) (j : Nat) : (s.setEsp k x).sess j = s.sess j := rfl
@[simp] theorem State.setEsp_core (s : State) (k : Nat) (x : Esp) (j : Nat) : (s.setEsp k x).core j = s.core j := rfl
@[simp] theorem State.setEsp_hedge (s : State) (k : Nat) (x : Esp) (j : Nat) : (s.setEsp k x).hedge j = s.hedge j := rfl
@[simp] theorem State.setEsp_seq (s : State) (k : Nat) (x : Esp) (j : Nat) : (s.setEsp k x).seq j = s.seq j := rfl
@[simp] theorem State.setEsp_pipe (s : State) (k : Nat) (x : Esp) (j : Nat) : (s.setEsp k x).pipe j = s.pipe j := rfl
@[simp] theorem State.setEsp_stack (s : State) (k : Nat) (x : Esp) (j : Nat) : (s.setEsp k x).stack j = s.stack j := rfl
@[simp] theorem State.setEsp_pch (s : State) (k : Nat) (x : Esp) (j : Nat) : (s.setEsp k x).pch j = s.pch j := rfl
@[simp] theorem State.setEsp_rxf (s : State) (k : Nat) (x : Esp) (j : Nat) : (s.setEsp k x).rxf j = s.rxf j := rfl
@[simp] theorem State.setEsp_txf (s : State) (k : Nat) (x : Esp) (j : Nat) : (s.setEsp k x).txf j = s.txf j := rfl
@[simp] theorem State.setEsp_htxq (s : State) (k : Nat) (x : Esp) (j : Nat) : (s.setEsp k x).htxq j = s.htxq j := rfl
@[simp] theorem State.setEsp_port (s : State) (k : Nat) (x : Esp) (j : Nat) : (s.setEsp k x).port j = s.port j := rfl
@[simp] theorem State.setEsp_e2eOf (s : State) (k : Nat) (x : Esp) (j l : Nat) : (s.setEsp k x).e2eOf j l = s.e2eOf j l := rfl
@[simp] theorem State.setEsp_chan (s : State) (k : Nat) (x : Esp) (j : Nat) : (s.setEsp k x).chan j = s.chan j := rfl
@[simp] theorem State.setEsp_busy (s : State) (k : Nat) (x : Esp) (j : Nat) : (s.setEsp k x).busy j = s.busy j := rfl
@[simp] theorem State.setEsp_inDrain (s : State) (k : Nat) (x : Esp) (j : Nat) : (s.setEsp k x).inDrain j = s.inDrain j := rfl
@[simp] theorem State.setEsp_clocked (s : State) (k : Nat) (x : Esp) : (s.setEsp k x).clocked = s.clocked := rfl

/-! setChan -/

@[simp] theorem State.setChan_pending (s : State) (k : Nat) (x : Option Chan) : (s.setChan k x).pending = s.pending := rfl
@[simp] theorem State.setChan_outbox (s : State) (k : Nat) (x : Option Chan) : (s.setChan k x).outbox = s.outbox := rfl
@[simp] theorem State.setChan_fresh (s : State) (k : Nat) (x : Option Chan) : (s.setChan k x).fresh = s.fresh := rfl
@[simp] theorem State.setChan_variant (s : State) (k : Nat) (x : Option Chan) : (s.setChan k x).variant = s.variant := rfl
@[simp] theorem State.setChan_rev (s : State) (k : Nat) (x : Option Chan) : (s.setChan k x).rev = s.rev := rfl
@[simp] theorem State.setChan_signReq (s : State) (k : Nat) (x : Option Chan) : (s.setChan k x).signReq = s.signReq := rfl
@[simp] theorem State.setChan_testEn (s : State) (k : Nat) (x : Option Chan) : (s.setChan k x).testEn = s.testEn := rfl
@[simp] theorem State.setChan_sa (s : State) (k : Nat) (x : Option Chan) : (s.setChan k x).sa = s.sa := rfl
@[simp] theorem State.setChan_regs (s : State) (k : Nat) (x : Option Chan) : (s.setChan k x).regs = s.regs := rfl
@[simp] theorem State.setChan_hiLatch (s : State) (k : Nat) (x : Option Chan) : (s.setChan k x).hiLatch = s.hiLatch := rfl
@[simp] theorem State.setChan_loHeld (s : State) (k : Nat) (x : Option Chan) : (s.setChan k x).loHeld = s.loHeld := rfl
@[simp] theorem State.setChan_hbm (s : State) (k : Nat) (x : Option Chan) : (s.setChan k x).hbm = s.hbm := rfl
@[simp] theorem State.setChan_memSeed (s : State) (k : Nat) (x : Option Chan) : (s.setChan k x).memSeed = s.memSeed := rfl
@[simp] theorem State.setChan_poison (s : State) (k : Nat) (x : Option Chan) : (s.setChan k x).poison = s.poison := rfl
@[simp] theorem State.setChan_host (s : State) (k : Nat) (x : Option Chan) : (s.setChan k x).host = s.host := rfl
@[simp] theorem State.setChan_hif (s : State) (k : Nat) (x : Option Chan) : (s.setChan k x).hif = s.hif := rfl
@[simp] theorem State.setChan_resetting (s : State) (k : Nat) (x : Option Chan) : (s.setChan k x).resetting = s.resetting := rfl
@[simp] theorem State.setChan_draining (s : State) (k : Nat) (x : Option Chan) : (s.setChan k x).draining = s.draining := rfl
@[simp] theorem State.setChan_edges (s : State) (k : Nat) (x : Option Chan) : (s.setChan k x).edges = s.edges := rfl
@[simp] theorem State.setChan_rings (s : State) (k : Nat) (x : Option Chan) : (s.setChan k x).rings = s.rings := rfl
@[simp] theorem State.setChan_pools (s : State) (k : Nat) (x : Option Chan) : (s.setChan k x).pools = s.pools := rfl
@[simp] theorem State.setChan_bufs (s : State) (k : Nat) (x : Option Chan) : (s.setChan k x).bufs = s.bufs := rfl
@[simp] theorem State.setChan_sessions (s : State) (k : Nat) (x : Option Chan) : (s.setChan k x).sessions = s.sessions := rfl
@[simp] theorem State.setChan_cores (s : State) (k : Nat) (x : Option Chan) : (s.setChan k x).cores = s.cores := rfl
@[simp] theorem State.setChan_hedges (s : State) (k : Nat) (x : Option Chan) : (s.setChan k x).hedges = s.hedges := rfl
@[simp] theorem State.setChan_seqs (s : State) (k : Nat) (x : Option Chan) : (s.setChan k x).seqs = s.seqs := rfl
@[simp] theorem State.setChan_store (s : State) (k : Nat) (x : Option Chan) : (s.setChan k x).store = s.store := rfl
@[simp] theorem State.setChan_pipes (s : State) (k : Nat) (x : Option Chan) : (s.setChan k x).pipes = s.pipes := rfl
@[simp] theorem State.setChan_hbmStacks (s : State) (k : Nat) (x : Option Chan) : (s.setChan k x).hbmStacks = s.hbmStacks := rfl
@[simp] theorem State.setChan_pchs (s : State) (k : Nat) (x : Option Chan) : (s.setChan k x).pchs = s.pchs := rfl
@[simp] theorem State.setChan_rxFlows (s : State) (k : Nat) (x : Option Chan) : (s.setChan k x).rxFlows = s.rxFlows := rfl
@[simp] theorem State.setChan_txFlows (s : State) (k : Nat) (x : Option Chan) : (s.setChan k x).txFlows = s.txFlows := rfl
@[simp] theorem State.setChan_htx (s : State) (k : Nat) (x : Option Chan) : (s.setChan k x).htx = s.htx := rfl
@[simp] theorem State.setChan_mtc (s : State) (k : Nat) (x : Option Chan) : (s.setChan k x).mtc = s.mtc := rfl
@[simp] theorem State.setChan_ports (s : State) (k : Nat) (x : Option Chan) : (s.setChan k x).ports = s.ports := rfl
@[simp] theorem State.setChan_e2e (s : State) (k : Nat) (x : Option Chan) : (s.setChan k x).e2e = s.e2e := rfl
@[simp] theorem State.setChan_remotes (s : State) (k : Nat) (x : Option Chan) : (s.setChan k x).remotes = s.remotes := rfl
@[simp] theorem State.setChan_esps (s : State) (k : Nat) (x : Option Chan) : (s.setChan k x).esps = s.esps := rfl
@[simp] theorem State.setChan_clock (s : State) (k : Nat) (x : Option Chan) : (s.setChan k x).clock = s.clock := rfl
@[simp] theorem State.setChan_power (s : State) (k : Nat) (x : Option Chan) : (s.setChan k x).power = s.power := rfl
@[simp] theorem State.setChan_resetReq (s : State) (k : Nat) (x : Option Chan) : (s.setChan k x).resetReq = s.resetReq := rfl
@[simp] theorem State.setChan_uptime (s : State) (k : Nat) (x : Option Chan) : (s.setChan k x).uptime = s.uptime := rfl
@[simp] theorem State.setChan_histTotal (s : State) (k : Nat) (x : Option Chan) : (s.setChan k x).histTotal = s.histTotal := rfl
@[simp] theorem State.setChan_unlock (s : State) (k : Nat) (x : Option Chan) : (s.setChan k x).unlock = s.unlock := rfl
@[simp] theorem State.setChan_inject (s : State) (k : Nat) (x : Option Chan) : (s.setChan k x).inject = s.inject := rfl
@[simp] theorem State.setChan_reg (s : State) (k : Nat) (x : Option Chan) (j : Nat) : (s.setChan k x).reg j = s.reg j := rfl
@[simp] theorem State.setChan_fn (s : State) (k : Nat) (x : Option Chan) (j : Nat) : (s.setChan k x).fn j = s.fn j := rfl
@[simp] theorem State.setChan_ring (s : State) (k : Nat) (x : Option Chan) (j : Nat) : (s.setChan k x).ring j = s.ring j := rfl
@[simp] theorem State.setChan_pool (s : State) (k : Nat) (x : Option Chan) (j : Nat) : (s.setChan k x).pool j = s.pool j := rfl
@[simp] theorem State.setChan_buf (s : State) (k : Nat) (x : Option Chan) (j : Nat) : (s.setChan k x).buf j = s.buf j := rfl
@[simp] theorem State.setChan_sess (s : State) (k : Nat) (x : Option Chan) (j : Nat) : (s.setChan k x).sess j = s.sess j := rfl
@[simp] theorem State.setChan_core (s : State) (k : Nat) (x : Option Chan) (j : Nat) : (s.setChan k x).core j = s.core j := rfl
@[simp] theorem State.setChan_hedge (s : State) (k : Nat) (x : Option Chan) (j : Nat) : (s.setChan k x).hedge j = s.hedge j := rfl
@[simp] theorem State.setChan_seq (s : State) (k : Nat) (x : Option Chan) (j : Nat) : (s.setChan k x).seq j = s.seq j := rfl
@[simp] theorem State.setChan_pipe (s : State) (k : Nat) (x : Option Chan) (j : Nat) : (s.setChan k x).pipe j = s.pipe j := rfl
@[simp] theorem State.setChan_stack (s : State) (k : Nat) (x : Option Chan) (j : Nat) : (s.setChan k x).stack j = s.stack j := rfl
@[simp] theorem State.setChan_pch (s : State) (k : Nat) (x : Option Chan) (j : Nat) : (s.setChan k x).pch j = s.pch j := rfl
@[simp] theorem State.setChan_rxf (s : State) (k : Nat) (x : Option Chan) (j : Nat) : (s.setChan k x).rxf j = s.rxf j := rfl
@[simp] theorem State.setChan_txf (s : State) (k : Nat) (x : Option Chan) (j : Nat) : (s.setChan k x).txf j = s.txf j := rfl
@[simp] theorem State.setChan_htxq (s : State) (k : Nat) (x : Option Chan) (j : Nat) : (s.setChan k x).htxq j = s.htxq j := rfl
@[simp] theorem State.setChan_port (s : State) (k : Nat) (x : Option Chan) (j : Nat) : (s.setChan k x).port j = s.port j := rfl
@[simp] theorem State.setChan_e2eOf (s : State) (k : Nat) (x : Option Chan) (j l : Nat) : (s.setChan k x).e2eOf j l = s.e2eOf j l := rfl
@[simp] theorem State.setChan_esp (s : State) (k : Nat) (x : Option Chan) (j : Nat) : (s.setChan k x).esp j = s.esp j := rfl
@[simp] theorem State.setChan_busy (s : State) (k : Nat) (x : Option Chan) (j : Nat) : (s.setChan k x).busy j = s.busy j := rfl
@[simp] theorem State.setChan_inDrain (s : State) (k : Nat) (x : Option Chan) (j : Nat) : (s.setChan k x).inDrain j = s.inDrain j := rfl
@[simp] theorem State.setChan_clocked (s : State) (k : Nat) (x : Option Chan) : (s.setChan k x).clocked = s.clocked := rfl

/-! setBusy -/

@[simp] theorem State.setBusy_pending (s : State) (k : Nat) (b : Bool) : (s.setBusy k b).pending = s.pending := rfl
@[simp] theorem State.setBusy_outbox (s : State) (k : Nat) (b : Bool) : (s.setBusy k b).outbox = s.outbox := rfl
@[simp] theorem State.setBusy_fresh (s : State) (k : Nat) (b : Bool) : (s.setBusy k b).fresh = s.fresh := rfl
@[simp] theorem State.setBusy_variant (s : State) (k : Nat) (b : Bool) : (s.setBusy k b).variant = s.variant := rfl
@[simp] theorem State.setBusy_rev (s : State) (k : Nat) (b : Bool) : (s.setBusy k b).rev = s.rev := rfl
@[simp] theorem State.setBusy_signReq (s : State) (k : Nat) (b : Bool) : (s.setBusy k b).signReq = s.signReq := rfl
@[simp] theorem State.setBusy_testEn (s : State) (k : Nat) (b : Bool) : (s.setBusy k b).testEn = s.testEn := rfl
@[simp] theorem State.setBusy_sa (s : State) (k : Nat) (b : Bool) : (s.setBusy k b).sa = s.sa := rfl
@[simp] theorem State.setBusy_regs (s : State) (k : Nat) (b : Bool) : (s.setBusy k b).regs = s.regs := rfl
@[simp] theorem State.setBusy_hiLatch (s : State) (k : Nat) (b : Bool) : (s.setBusy k b).hiLatch = s.hiLatch := rfl
@[simp] theorem State.setBusy_loHeld (s : State) (k : Nat) (b : Bool) : (s.setBusy k b).loHeld = s.loHeld := rfl
@[simp] theorem State.setBusy_hbm (s : State) (k : Nat) (b : Bool) : (s.setBusy k b).hbm = s.hbm := rfl
@[simp] theorem State.setBusy_memSeed (s : State) (k : Nat) (b : Bool) : (s.setBusy k b).memSeed = s.memSeed := rfl
@[simp] theorem State.setBusy_poison (s : State) (k : Nat) (b : Bool) : (s.setBusy k b).poison = s.poison := rfl
@[simp] theorem State.setBusy_host (s : State) (k : Nat) (b : Bool) : (s.setBusy k b).host = s.host := rfl
@[simp] theorem State.setBusy_hif (s : State) (k : Nat) (b : Bool) : (s.setBusy k b).hif = s.hif := rfl
@[simp] theorem State.setBusy_draining (s : State) (k : Nat) (b : Bool) : (s.setBusy k b).draining = s.draining := rfl
@[simp] theorem State.setBusy_edges (s : State) (k : Nat) (b : Bool) : (s.setBusy k b).edges = s.edges := rfl
@[simp] theorem State.setBusy_rings (s : State) (k : Nat) (b : Bool) : (s.setBusy k b).rings = s.rings := rfl
@[simp] theorem State.setBusy_chans (s : State) (k : Nat) (b : Bool) : (s.setBusy k b).chans = s.chans := rfl
@[simp] theorem State.setBusy_pools (s : State) (k : Nat) (b : Bool) : (s.setBusy k b).pools = s.pools := rfl
@[simp] theorem State.setBusy_bufs (s : State) (k : Nat) (b : Bool) : (s.setBusy k b).bufs = s.bufs := rfl
@[simp] theorem State.setBusy_sessions (s : State) (k : Nat) (b : Bool) : (s.setBusy k b).sessions = s.sessions := rfl
@[simp] theorem State.setBusy_cores (s : State) (k : Nat) (b : Bool) : (s.setBusy k b).cores = s.cores := rfl
@[simp] theorem State.setBusy_hedges (s : State) (k : Nat) (b : Bool) : (s.setBusy k b).hedges = s.hedges := rfl
@[simp] theorem State.setBusy_seqs (s : State) (k : Nat) (b : Bool) : (s.setBusy k b).seqs = s.seqs := rfl
@[simp] theorem State.setBusy_store (s : State) (k : Nat) (b : Bool) : (s.setBusy k b).store = s.store := rfl
@[simp] theorem State.setBusy_pipes (s : State) (k : Nat) (b : Bool) : (s.setBusy k b).pipes = s.pipes := rfl
@[simp] theorem State.setBusy_hbmStacks (s : State) (k : Nat) (b : Bool) : (s.setBusy k b).hbmStacks = s.hbmStacks := rfl
@[simp] theorem State.setBusy_pchs (s : State) (k : Nat) (b : Bool) : (s.setBusy k b).pchs = s.pchs := rfl
@[simp] theorem State.setBusy_rxFlows (s : State) (k : Nat) (b : Bool) : (s.setBusy k b).rxFlows = s.rxFlows := rfl
@[simp] theorem State.setBusy_txFlows (s : State) (k : Nat) (b : Bool) : (s.setBusy k b).txFlows = s.txFlows := rfl
@[simp] theorem State.setBusy_htx (s : State) (k : Nat) (b : Bool) : (s.setBusy k b).htx = s.htx := rfl
@[simp] theorem State.setBusy_mtc (s : State) (k : Nat) (b : Bool) : (s.setBusy k b).mtc = s.mtc := rfl
@[simp] theorem State.setBusy_ports (s : State) (k : Nat) (b : Bool) : (s.setBusy k b).ports = s.ports := rfl
@[simp] theorem State.setBusy_e2e (s : State) (k : Nat) (b : Bool) : (s.setBusy k b).e2e = s.e2e := rfl
@[simp] theorem State.setBusy_remotes (s : State) (k : Nat) (b : Bool) : (s.setBusy k b).remotes = s.remotes := rfl
@[simp] theorem State.setBusy_esps (s : State) (k : Nat) (b : Bool) : (s.setBusy k b).esps = s.esps := rfl
@[simp] theorem State.setBusy_clock (s : State) (k : Nat) (b : Bool) : (s.setBusy k b).clock = s.clock := rfl
@[simp] theorem State.setBusy_power (s : State) (k : Nat) (b : Bool) : (s.setBusy k b).power = s.power := rfl
@[simp] theorem State.setBusy_resetReq (s : State) (k : Nat) (b : Bool) : (s.setBusy k b).resetReq = s.resetReq := rfl
@[simp] theorem State.setBusy_uptime (s : State) (k : Nat) (b : Bool) : (s.setBusy k b).uptime = s.uptime := rfl
@[simp] theorem State.setBusy_histTotal (s : State) (k : Nat) (b : Bool) : (s.setBusy k b).histTotal = s.histTotal := rfl
@[simp] theorem State.setBusy_unlock (s : State) (k : Nat) (b : Bool) : (s.setBusy k b).unlock = s.unlock := rfl
@[simp] theorem State.setBusy_inject (s : State) (k : Nat) (b : Bool) : (s.setBusy k b).inject = s.inject := rfl
@[simp] theorem State.setBusy_reg (s : State) (k : Nat) (b : Bool) (j : Nat) : (s.setBusy k b).reg j = s.reg j := rfl
@[simp] theorem State.setBusy_fn (s : State) (k : Nat) (b : Bool) (j : Nat) : (s.setBusy k b).fn j = s.fn j := rfl
@[simp] theorem State.setBusy_ring (s : State) (k : Nat) (b : Bool) (j : Nat) : (s.setBusy k b).ring j = s.ring j := rfl
@[simp] theorem State.setBusy_pool (s : State) (k : Nat) (b : Bool) (j : Nat) : (s.setBusy k b).pool j = s.pool j := rfl
@[simp] theorem State.setBusy_buf (s : State) (k : Nat) (b : Bool) (j : Nat) : (s.setBusy k b).buf j = s.buf j := rfl
@[simp] theorem State.setBusy_sess (s : State) (k : Nat) (b : Bool) (j : Nat) : (s.setBusy k b).sess j = s.sess j := rfl
@[simp] theorem State.setBusy_core (s : State) (k : Nat) (b : Bool) (j : Nat) : (s.setBusy k b).core j = s.core j := rfl
@[simp] theorem State.setBusy_hedge (s : State) (k : Nat) (b : Bool) (j : Nat) : (s.setBusy k b).hedge j = s.hedge j := rfl
@[simp] theorem State.setBusy_seq (s : State) (k : Nat) (b : Bool) (j : Nat) : (s.setBusy k b).seq j = s.seq j := rfl
@[simp] theorem State.setBusy_pipe (s : State) (k : Nat) (b : Bool) (j : Nat) : (s.setBusy k b).pipe j = s.pipe j := rfl
@[simp] theorem State.setBusy_stack (s : State) (k : Nat) (b : Bool) (j : Nat) : (s.setBusy k b).stack j = s.stack j := rfl
@[simp] theorem State.setBusy_pch (s : State) (k : Nat) (b : Bool) (j : Nat) : (s.setBusy k b).pch j = s.pch j := rfl
@[simp] theorem State.setBusy_rxf (s : State) (k : Nat) (b : Bool) (j : Nat) : (s.setBusy k b).rxf j = s.rxf j := rfl
@[simp] theorem State.setBusy_txf (s : State) (k : Nat) (b : Bool) (j : Nat) : (s.setBusy k b).txf j = s.txf j := rfl
@[simp] theorem State.setBusy_htxq (s : State) (k : Nat) (b : Bool) (j : Nat) : (s.setBusy k b).htxq j = s.htxq j := rfl
@[simp] theorem State.setBusy_port (s : State) (k : Nat) (b : Bool) (j : Nat) : (s.setBusy k b).port j = s.port j := rfl
@[simp] theorem State.setBusy_e2eOf (s : State) (k : Nat) (b : Bool) (j l : Nat) : (s.setBusy k b).e2eOf j l = s.e2eOf j l := rfl
@[simp] theorem State.setBusy_esp (s : State) (k : Nat) (b : Bool) (j : Nat) : (s.setBusy k b).esp j = s.esp j := rfl
@[simp] theorem State.setBusy_chan (s : State) (k : Nat) (b : Bool) (j : Nat) : (s.setBusy k b).chan j = s.chan j := rfl
@[simp] theorem State.setBusy_inDrain (s : State) (k : Nat) (b : Bool) (j : Nat) : (s.setBusy k b).inDrain j = s.inDrain j := rfl
@[simp] theorem State.setBusy_clocked (s : State) (k : Nat) (b : Bool) : (s.setBusy k b).clocked = s.clocked := rfl

/-! setDrain -/

@[simp] theorem State.setDrain_pending (s : State) (k : Nat) (b : Bool) : (s.setDrain k b).pending = s.pending := rfl
@[simp] theorem State.setDrain_outbox (s : State) (k : Nat) (b : Bool) : (s.setDrain k b).outbox = s.outbox := rfl
@[simp] theorem State.setDrain_fresh (s : State) (k : Nat) (b : Bool) : (s.setDrain k b).fresh = s.fresh := rfl
@[simp] theorem State.setDrain_variant (s : State) (k : Nat) (b : Bool) : (s.setDrain k b).variant = s.variant := rfl
@[simp] theorem State.setDrain_rev (s : State) (k : Nat) (b : Bool) : (s.setDrain k b).rev = s.rev := rfl
@[simp] theorem State.setDrain_signReq (s : State) (k : Nat) (b : Bool) : (s.setDrain k b).signReq = s.signReq := rfl
@[simp] theorem State.setDrain_testEn (s : State) (k : Nat) (b : Bool) : (s.setDrain k b).testEn = s.testEn := rfl
@[simp] theorem State.setDrain_sa (s : State) (k : Nat) (b : Bool) : (s.setDrain k b).sa = s.sa := rfl
@[simp] theorem State.setDrain_regs (s : State) (k : Nat) (b : Bool) : (s.setDrain k b).regs = s.regs := rfl
@[simp] theorem State.setDrain_hiLatch (s : State) (k : Nat) (b : Bool) : (s.setDrain k b).hiLatch = s.hiLatch := rfl
@[simp] theorem State.setDrain_loHeld (s : State) (k : Nat) (b : Bool) : (s.setDrain k b).loHeld = s.loHeld := rfl
@[simp] theorem State.setDrain_hbm (s : State) (k : Nat) (b : Bool) : (s.setDrain k b).hbm = s.hbm := rfl
@[simp] theorem State.setDrain_memSeed (s : State) (k : Nat) (b : Bool) : (s.setDrain k b).memSeed = s.memSeed := rfl
@[simp] theorem State.setDrain_poison (s : State) (k : Nat) (b : Bool) : (s.setDrain k b).poison = s.poison := rfl
@[simp] theorem State.setDrain_host (s : State) (k : Nat) (b : Bool) : (s.setDrain k b).host = s.host := rfl
@[simp] theorem State.setDrain_hif (s : State) (k : Nat) (b : Bool) : (s.setDrain k b).hif = s.hif := rfl
@[simp] theorem State.setDrain_resetting (s : State) (k : Nat) (b : Bool) : (s.setDrain k b).resetting = s.resetting := rfl
@[simp] theorem State.setDrain_edges (s : State) (k : Nat) (b : Bool) : (s.setDrain k b).edges = s.edges := rfl
@[simp] theorem State.setDrain_rings (s : State) (k : Nat) (b : Bool) : (s.setDrain k b).rings = s.rings := rfl
@[simp] theorem State.setDrain_chans (s : State) (k : Nat) (b : Bool) : (s.setDrain k b).chans = s.chans := rfl
@[simp] theorem State.setDrain_pools (s : State) (k : Nat) (b : Bool) : (s.setDrain k b).pools = s.pools := rfl
@[simp] theorem State.setDrain_bufs (s : State) (k : Nat) (b : Bool) : (s.setDrain k b).bufs = s.bufs := rfl
@[simp] theorem State.setDrain_sessions (s : State) (k : Nat) (b : Bool) : (s.setDrain k b).sessions = s.sessions := rfl
@[simp] theorem State.setDrain_cores (s : State) (k : Nat) (b : Bool) : (s.setDrain k b).cores = s.cores := rfl
@[simp] theorem State.setDrain_hedges (s : State) (k : Nat) (b : Bool) : (s.setDrain k b).hedges = s.hedges := rfl
@[simp] theorem State.setDrain_seqs (s : State) (k : Nat) (b : Bool) : (s.setDrain k b).seqs = s.seqs := rfl
@[simp] theorem State.setDrain_store (s : State) (k : Nat) (b : Bool) : (s.setDrain k b).store = s.store := rfl
@[simp] theorem State.setDrain_pipes (s : State) (k : Nat) (b : Bool) : (s.setDrain k b).pipes = s.pipes := rfl
@[simp] theorem State.setDrain_hbmStacks (s : State) (k : Nat) (b : Bool) : (s.setDrain k b).hbmStacks = s.hbmStacks := rfl
@[simp] theorem State.setDrain_pchs (s : State) (k : Nat) (b : Bool) : (s.setDrain k b).pchs = s.pchs := rfl
@[simp] theorem State.setDrain_rxFlows (s : State) (k : Nat) (b : Bool) : (s.setDrain k b).rxFlows = s.rxFlows := rfl
@[simp] theorem State.setDrain_txFlows (s : State) (k : Nat) (b : Bool) : (s.setDrain k b).txFlows = s.txFlows := rfl
@[simp] theorem State.setDrain_htx (s : State) (k : Nat) (b : Bool) : (s.setDrain k b).htx = s.htx := rfl
@[simp] theorem State.setDrain_mtc (s : State) (k : Nat) (b : Bool) : (s.setDrain k b).mtc = s.mtc := rfl
@[simp] theorem State.setDrain_ports (s : State) (k : Nat) (b : Bool) : (s.setDrain k b).ports = s.ports := rfl
@[simp] theorem State.setDrain_e2e (s : State) (k : Nat) (b : Bool) : (s.setDrain k b).e2e = s.e2e := rfl
@[simp] theorem State.setDrain_remotes (s : State) (k : Nat) (b : Bool) : (s.setDrain k b).remotes = s.remotes := rfl
@[simp] theorem State.setDrain_esps (s : State) (k : Nat) (b : Bool) : (s.setDrain k b).esps = s.esps := rfl
@[simp] theorem State.setDrain_clock (s : State) (k : Nat) (b : Bool) : (s.setDrain k b).clock = s.clock := rfl
@[simp] theorem State.setDrain_power (s : State) (k : Nat) (b : Bool) : (s.setDrain k b).power = s.power := rfl
@[simp] theorem State.setDrain_resetReq (s : State) (k : Nat) (b : Bool) : (s.setDrain k b).resetReq = s.resetReq := rfl
@[simp] theorem State.setDrain_uptime (s : State) (k : Nat) (b : Bool) : (s.setDrain k b).uptime = s.uptime := rfl
@[simp] theorem State.setDrain_histTotal (s : State) (k : Nat) (b : Bool) : (s.setDrain k b).histTotal = s.histTotal := rfl
@[simp] theorem State.setDrain_unlock (s : State) (k : Nat) (b : Bool) : (s.setDrain k b).unlock = s.unlock := rfl
@[simp] theorem State.setDrain_inject (s : State) (k : Nat) (b : Bool) : (s.setDrain k b).inject = s.inject := rfl
@[simp] theorem State.setDrain_reg (s : State) (k : Nat) (b : Bool) (j : Nat) : (s.setDrain k b).reg j = s.reg j := rfl
@[simp] theorem State.setDrain_fn (s : State) (k : Nat) (b : Bool) (j : Nat) : (s.setDrain k b).fn j = s.fn j := rfl
@[simp] theorem State.setDrain_ring (s : State) (k : Nat) (b : Bool) (j : Nat) : (s.setDrain k b).ring j = s.ring j := rfl
@[simp] theorem State.setDrain_pool (s : State) (k : Nat) (b : Bool) (j : Nat) : (s.setDrain k b).pool j = s.pool j := rfl
@[simp] theorem State.setDrain_buf (s : State) (k : Nat) (b : Bool) (j : Nat) : (s.setDrain k b).buf j = s.buf j := rfl
@[simp] theorem State.setDrain_sess (s : State) (k : Nat) (b : Bool) (j : Nat) : (s.setDrain k b).sess j = s.sess j := rfl
@[simp] theorem State.setDrain_core (s : State) (k : Nat) (b : Bool) (j : Nat) : (s.setDrain k b).core j = s.core j := rfl
@[simp] theorem State.setDrain_hedge (s : State) (k : Nat) (b : Bool) (j : Nat) : (s.setDrain k b).hedge j = s.hedge j := rfl
@[simp] theorem State.setDrain_seq (s : State) (k : Nat) (b : Bool) (j : Nat) : (s.setDrain k b).seq j = s.seq j := rfl
@[simp] theorem State.setDrain_pipe (s : State) (k : Nat) (b : Bool) (j : Nat) : (s.setDrain k b).pipe j = s.pipe j := rfl
@[simp] theorem State.setDrain_stack (s : State) (k : Nat) (b : Bool) (j : Nat) : (s.setDrain k b).stack j = s.stack j := rfl
@[simp] theorem State.setDrain_pch (s : State) (k : Nat) (b : Bool) (j : Nat) : (s.setDrain k b).pch j = s.pch j := rfl
@[simp] theorem State.setDrain_rxf (s : State) (k : Nat) (b : Bool) (j : Nat) : (s.setDrain k b).rxf j = s.rxf j := rfl
@[simp] theorem State.setDrain_txf (s : State) (k : Nat) (b : Bool) (j : Nat) : (s.setDrain k b).txf j = s.txf j := rfl
@[simp] theorem State.setDrain_htxq (s : State) (k : Nat) (b : Bool) (j : Nat) : (s.setDrain k b).htxq j = s.htxq j := rfl
@[simp] theorem State.setDrain_port (s : State) (k : Nat) (b : Bool) (j : Nat) : (s.setDrain k b).port j = s.port j := rfl
@[simp] theorem State.setDrain_e2eOf (s : State) (k : Nat) (b : Bool) (j l : Nat) : (s.setDrain k b).e2eOf j l = s.e2eOf j l := rfl
@[simp] theorem State.setDrain_esp (s : State) (k : Nat) (b : Bool) (j : Nat) : (s.setDrain k b).esp j = s.esp j := rfl
@[simp] theorem State.setDrain_chan (s : State) (k : Nat) (b : Bool) (j : Nat) : (s.setDrain k b).chan j = s.chan j := rfl
@[simp] theorem State.setDrain_busy (s : State) (k : Nat) (b : Bool) (j : Nat) : (s.setDrain k b).busy j = s.busy j := rfl
@[simp] theorem State.setDrain_clocked (s : State) (k : Nat) (b : Bool) : (s.setDrain k b).clocked = s.clocked := rfl

end Sys2Proof.Machine
end

