-- ==== Sys2Proof/Laws/Access.lean ====
section
/-! SUPPORT. What a served access does, once for every register command: its effect on the state it is noted in, and its answer. -/

namespace Sys2Proof.Machine

/-- A served access of a page's body carries out its effect and is answered. -/
theorem State.access_served {s : State} {who : Who} {p : Nat} (h : s.served who p = true) (f : State → State) :
    s.access who p f = (f (s.noted who p)).told who := by
  cases who <;> simp_all [State.served, State.access, State.noted, State.told, State.hostUp]

/-- The same for the common header. -/
theorem State.accessHdr_served {s : State} {who : Who} {p : Nat} (h : s.servedHdr who p = true) (f : State → State) :
    s.accessHdr who p f = (f (s.noted who p)).told who := by
  cases who <;> simp_all [State.servedHdr, State.accessHdr, State.noted, State.told, State.hostUp]

/-- A served read answers the word it reads. -/
theorem State.accessRd_served {s : State} {who : Who} {p : Nat} (h : s.served who p = true) (f : State → State × W32) :
    s.accessRd who p f = (f s).1.toldWord who (f s).2 := by
  cases who <;> simp_all [State.served, State.accessRd, State.toldWord, State.hostUp]

/-- Where no sequencer serves the page, a served access acts in the state itself. -/
theorem State.noted_plain {s : State} {who : Who} {p : Nat} (h1 : ¬ (0x230 ≤ p ∧ p < 0x234)) (h2 : p ≠ pgCSW) (h3 : p ≠ pgSMB)
    (h4 : ¬ (0x248 ≤ p ∧ p < 0x24C)) : s.noted who p = s := by
  cases who with
  | pcie k => simp only [State.noted, State.regLatch, h2, h3, h4, if_neg h1, or_self, if_false]
  | agent a => rfl

/-- The noted state has the same registers. -/
@[simp] theorem State.noted_regs (s : State) (who : Who) (p : Nat) : (s.noted who p).regs = s.regs := by
  cases who with
  | pcie k => simp only [State.noted, State.regLatch, State.latch]; split <;> (try split) <;> rfl
  | agent a => rfl

/-- The noted state reads the same registers. -/
@[simp] theorem State.noted_reg (s : State) (who : Who) (p a : Nat) : (s.noted who p).reg a = s.reg a := by
  simp only [State.reg, State.noted_regs]

/-- An answered write has the state of its effect but for what is sent. -/
@[simp] theorem State.told_regs (s : State) (who : Who) : (s.told who).regs = s.regs := by cases who <;> rfl
@[simp] theorem State.told_hbm (s : State) (who : Who) : (s.told who).hbm = s.hbm := by cases who <;> rfl
@[simp] theorem State.told_host (s : State) (who : Who) : (s.told who).host = s.host := by cases who <;> rfl
@[simp] theorem State.told_seqs (s : State) (who : Who) : (s.told who).seqs = s.seqs := by cases who <;> rfl
@[simp] theorem State.told_reg (s : State) (who : Who) (a : Nat) : (s.told who).reg a = s.reg a := by cases who <;> rfl
@[simp] theorem State.toldWord_regs (s : State) (who : Who) (w : W32) : (s.toldWord who w).regs = s.regs := by cases who <;> rfl
@[simp] theorem State.toldWord_reg (s : State) (who : Who) (w : W32) (a : Nat) : (s.toldWord who w).reg a = s.reg a := by cases who <;> rfl

/-- The noted state has the same fields but for the sequencers. -/
@[simp] theorem State.noted_hbm (s : State) (who : Who) (p : Nat) : (s.noted who p).hbm = s.hbm := by
  cases who with
  | pcie k => simp only [State.noted, State.regLatch, State.latch]; split <;> (try split) <;> rfl
  | agent a => rfl
@[simp] theorem State.noted_host (s : State) (who : Who) (p : Nat) : (s.noted who p).host = s.host := by
  cases who with
  | pcie k => simp only [State.noted, State.regLatch, State.latch]; split <;> (try split) <;> rfl
  | agent a => rfl
@[simp] theorem State.noted_hif (s : State) (who : Who) (p : Nat) : (s.noted who p).hif = s.hif := by
  cases who with
  | pcie k => simp only [State.noted, State.regLatch, State.latch]; split <;> (try split) <;> rfl
  | agent a => rfl
@[simp] theorem State.noted_power (s : State) (who : Who) (p : Nat) : (s.noted who p).power = s.power := by
  cases who with
  | pcie k => simp only [State.noted, State.regLatch, State.latch]; split <;> (try split) <;> rfl
  | agent a => rfl
@[simp] theorem State.noted_clock (s : State) (who : Who) (p : Nat) : (s.noted who p).clock = s.clock := by
  cases who with
  | pcie k => simp only [State.noted, State.regLatch, State.latch]; split <;> (try split) <;> rfl
  | agent a => rfl
@[simp] theorem State.noted_mtc (s : State) (who : Who) (p : Nat) : (s.noted who p).mtc = s.mtc := by
  cases who with
  | pcie k => simp only [State.noted, State.regLatch, State.latch]; split <;> (try split) <;> rfl
  | agent a => rfl
@[simp] theorem State.noted_outbox (s : State) (who : Who) (p : Nat) : (s.noted who p).outbox = s.outbox := by
  cases who with
  | pcie k => simp only [State.noted, State.regLatch, State.latch]; split <;> (try split) <;> rfl
  | agent a => rfl
@[simp] theorem State.noted_unlock (s : State) (who : Who) (p : Nat) : (s.noted who p).unlock = s.unlock := by
  cases who with
  | pcie k => simp only [State.noted, State.regLatch, State.latch]; split <;> (try split) <;> rfl
  | agent a => rfl
@[simp] theorem State.noted_testEn (s : State) (who : Who) (p : Nat) : (s.noted who p).testEn = s.testEn := by
  cases who with
  | pcie k => simp only [State.noted, State.regLatch, State.latch]; split <;> (try split) <;> rfl
  | agent a => rfl
@[simp] theorem State.noted_inject (s : State) (who : Who) (p : Nat) : (s.noted who p).inject = s.inject := by
  cases who with
  | pcie k => simp only [State.noted, State.regLatch, State.latch]; split <;> (try split) <;> rfl
  | agent a => rfl
@[simp] theorem State.noted_resetReq (s : State) (who : Who) (p : Nat) : (s.noted who p).resetReq = s.resetReq := by
  cases who with
  | pcie k => simp only [State.noted, State.regLatch, State.latch]; split <;> (try split) <;> rfl
  | agent a => rfl
@[simp] theorem State.noted_sessions (s : State) (who : Who) (p : Nat) : (s.noted who p).sessions = s.sessions := by
  cases who with
  | pcie k => simp only [State.noted, State.regLatch, State.latch]; split <;> (try split) <;> rfl
  | agent a => rfl
@[simp] theorem State.noted_hedges (s : State) (who : Who) (p : Nat) : (s.noted who p).hedges = s.hedges := by
  cases who with
  | pcie k => simp only [State.noted, State.regLatch, State.latch]; split <;> (try split) <;> rfl
  | agent a => rfl
@[simp] theorem State.noted_cores (s : State) (who : Who) (p : Nat) : (s.noted who p).cores = s.cores := by
  cases who with
  | pcie k => simp only [State.noted, State.regLatch, State.latch]; split <;> (try split) <;> rfl
  | agent a => rfl
@[simp] theorem State.noted_pools (s : State) (who : Who) (p : Nat) : (s.noted who p).pools = s.pools := by
  cases who with
  | pcie k => simp only [State.noted, State.regLatch, State.latch]; split <;> (try split) <;> rfl
  | agent a => rfl
@[simp] theorem State.noted_bufs (s : State) (who : Who) (p : Nat) : (s.noted who p).bufs = s.bufs := by
  cases who with
  | pcie k => simp only [State.noted, State.regLatch, State.latch]; split <;> (try split) <;> rfl
  | agent a => rfl
@[simp] theorem State.noted_rings (s : State) (who : Who) (p : Nat) : (s.noted who p).rings = s.rings := by
  cases who with
  | pcie k => simp only [State.noted, State.regLatch, State.latch]; split <;> (try split) <;> rfl
  | agent a => rfl
@[simp] theorem State.noted_pipes (s : State) (who : Who) (p : Nat) : (s.noted who p).pipes = s.pipes := by
  cases who with
  | pcie k => simp only [State.noted, State.regLatch, State.latch]; split <;> (try split) <;> rfl
  | agent a => rfl
@[simp] theorem State.noted_e2e (s : State) (who : Who) (p : Nat) : (s.noted who p).e2e = s.e2e := by
  cases who with
  | pcie k => simp only [State.noted, State.regLatch, State.latch]; split <;> (try split) <;> rfl
  | agent a => rfl
@[simp] theorem State.noted_esps (s : State) (who : Who) (p : Nat) : (s.noted who p).esps = s.esps := by
  cases who with
  | pcie k => simp only [State.noted, State.regLatch, State.latch]; split <;> (try split) <;> rfl
  | agent a => rfl
@[simp] theorem State.noted_fn (s : State) (who : Who) (p : Nat) (j : Nat) : (s.noted who p).fn j = s.fn j := by
  cases who with
  | pcie k => simp only [State.noted, State.regLatch, State.latch]; split <;> (try split) <;> rfl
  | agent a => rfl
@[simp] theorem State.noted_ring (s : State) (who : Who) (p : Nat) (j : Nat) : (s.noted who p).ring j = s.ring j := by
  cases who with
  | pcie k => simp only [State.noted, State.regLatch, State.latch]; split <;> (try split) <;> rfl
  | agent a => rfl
@[simp] theorem State.noted_pool (s : State) (who : Who) (p : Nat) (j : Nat) : (s.noted who p).pool j = s.pool j := by
  cases who with
  | pcie k => simp only [State.noted, State.regLatch, State.latch]; split <;> (try split) <;> rfl
  | agent a => rfl
@[simp] theorem State.noted_buf (s : State) (who : Who) (p : Nat) (j : Nat) : (s.noted who p).buf j = s.buf j := by
  cases who with
  | pcie k => simp only [State.noted, State.regLatch, State.latch]; split <;> (try split) <;> rfl
  | agent a => rfl
@[simp] theorem State.noted_sess (s : State) (who : Who) (p : Nat) (j : Nat) : (s.noted who p).sess j = s.sess j := by
  cases who with
  | pcie k => simp only [State.noted, State.regLatch, State.latch]; split <;> (try split) <;> rfl
  | agent a => rfl
@[simp] theorem State.noted_core (s : State) (who : Who) (p : Nat) (j : Nat) : (s.noted who p).core j = s.core j := by
  cases who with
  | pcie k => simp only [State.noted, State.regLatch, State.latch]; split <;> (try split) <;> rfl
  | agent a => rfl
@[simp] theorem State.noted_hedge (s : State) (who : Who) (p : Nat) (j : Nat) : (s.noted who p).hedge j = s.hedge j := by
  cases who with
  | pcie k => simp only [State.noted, State.regLatch, State.latch]; split <;> (try split) <;> rfl
  | agent a => rfl
@[simp] theorem State.noted_pipe (s : State) (who : Who) (p : Nat) (j : Nat) : (s.noted who p).pipe j = s.pipe j := by
  cases who with
  | pcie k => simp only [State.noted, State.regLatch, State.latch]; split <;> (try split) <;> rfl
  | agent a => rfl
@[simp] theorem State.noted_stack (s : State) (who : Who) (p : Nat) (j : Nat) : (s.noted who p).stack j = s.stack j := by
  cases who with
  | pcie k => simp only [State.noted, State.regLatch, State.latch]; split <;> (try split) <;> rfl
  | agent a => rfl
@[simp] theorem State.noted_rxf (s : State) (who : Who) (p : Nat) (j : Nat) : (s.noted who p).rxf j = s.rxf j := by
  cases who with
  | pcie k => simp only [State.noted, State.regLatch, State.latch]; split <;> (try split) <;> rfl
  | agent a => rfl
@[simp] theorem State.noted_txf (s : State) (who : Who) (p : Nat) (j : Nat) : (s.noted who p).txf j = s.txf j := by
  cases who with
  | pcie k => simp only [State.noted, State.regLatch, State.latch]; split <;> (try split) <;> rfl
  | agent a => rfl
@[simp] theorem State.noted_htxq (s : State) (who : Who) (p : Nat) (j : Nat) : (s.noted who p).htxq j = s.htxq j := by
  cases who with
  | pcie k => simp only [State.noted, State.regLatch, State.latch]; split <;> (try split) <;> rfl
  | agent a => rfl
@[simp] theorem State.noted_port (s : State) (who : Who) (p : Nat) (j : Nat) : (s.noted who p).port j = s.port j := by
  cases who with
  | pcie k => simp only [State.noted, State.regLatch, State.latch]; split <;> (try split) <;> rfl
  | agent a => rfl
@[simp] theorem State.noted_chan (s : State) (who : Who) (p : Nat) (j : Nat) : (s.noted who p).chan j = s.chan j := by
  cases who with
  | pcie k => simp only [State.noted, State.regLatch, State.latch]; split <;> (try split) <;> rfl
  | agent a => rfl
@[simp] theorem State.noted_busy (s : State) (who : Who) (p : Nat) (j : Nat) : (s.noted who p).busy j = s.busy j := by
  cases who with
  | pcie k => simp only [State.noted, State.regLatch, State.latch]; split <;> (try split) <;> rfl
  | agent a => rfl
@[simp] theorem State.noted_inDrain (s : State) (who : Who) (p : Nat) (j : Nat) : (s.noted who p).inDrain j = s.inDrain j := by
  cases who with
  | pcie k => simp only [State.noted, State.regLatch, State.latch]; split <;> (try split) <;> rfl
  | agent a => rfl

/-- An answered write has the state of its effect, unit by unit. -/
@[simp] theorem State.told_hif (s : State) (who : Who) : (s.told who).hif = s.hif := by cases who <;> rfl
@[simp] theorem State.told_power (s : State) (who : Who) : (s.told who).power = s.power := by cases who <;> rfl
@[simp] theorem State.told_clock (s : State) (who : Who) : (s.told who).clock = s.clock := by cases who <;> rfl
@[simp] theorem State.told_mtc (s : State) (who : Who) : (s.told who).mtc = s.mtc := by cases who <;> rfl
@[simp] theorem State.told_unlock (s : State) (who : Who) : (s.told who).unlock = s.unlock := by cases who <;> rfl
@[simp] theorem State.told_testEn (s : State) (who : Who) : (s.told who).testEn = s.testEn := by cases who <;> rfl
@[simp] theorem State.told_inject (s : State) (who : Who) : (s.told who).inject = s.inject := by cases who <;> rfl
@[simp] theorem State.told_resetReq (s : State) (who : Who) : (s.told who).resetReq = s.resetReq := by cases who <;> rfl
@[simp] theorem State.told_sessions (s : State) (who : Who) : (s.told who).sessions = s.sessions := by cases who <;> rfl
@[simp] theorem State.told_hedges (s : State) (who : Who) : (s.told who).hedges = s.hedges := by cases who <;> rfl
@[simp] theorem State.told_cores (s : State) (who : Who) : (s.told who).cores = s.cores := by cases who <;> rfl
@[simp] theorem State.told_pools (s : State) (who : Who) : (s.told who).pools = s.pools := by cases who <;> rfl
@[simp] theorem State.told_bufs (s : State) (who : Who) : (s.told who).bufs = s.bufs := by cases who <;> rfl
@[simp] theorem State.told_rings (s : State) (who : Who) : (s.told who).rings = s.rings := by cases who <;> rfl
@[simp] theorem State.told_pipes (s : State) (who : Who) : (s.told who).pipes = s.pipes := by cases who <;> rfl
@[simp] theorem State.told_e2e (s : State) (who : Who) : (s.told who).e2e = s.e2e := by cases who <;> rfl
@[simp] theorem State.told_esps (s : State) (who : Who) : (s.told who).esps = s.esps := by cases who <;> rfl
@[simp] theorem State.told_fn (s : State) (who : Who) (j : Nat) : (s.told who).fn j = s.fn j := by cases who <;> rfl
@[simp] theorem State.told_ring (s : State) (who : Who) (j : Nat) : (s.told who).ring j = s.ring j := by cases who <;> rfl
@[simp] theorem State.told_pool (s : State) (who : Who) (j : Nat) : (s.told who).pool j = s.pool j := by cases who <;> rfl
@[simp] theorem State.told_buf (s : State) (who : Who) (j : Nat) : (s.told who).buf j = s.buf j := by cases who <;> rfl
@[simp] theorem State.told_sess (s : State) (who : Who) (j : Nat) : (s.told who).sess j = s.sess j := by cases who <;> rfl
@[simp] theorem State.told_core (s : State) (who : Who) (j : Nat) : (s.told who).core j = s.core j := by cases who <;> rfl
@[simp] theorem State.told_hedge (s : State) (who : Who) (j : Nat) : (s.told who).hedge j = s.hedge j := by cases who <;> rfl
@[simp] theorem State.told_pipe (s : State) (who : Who) (j : Nat) : (s.told who).pipe j = s.pipe j := by cases who <;> rfl
@[simp] theorem State.told_stack (s : State) (who : Who) (j : Nat) : (s.told who).stack j = s.stack j := by cases who <;> rfl
@[simp] theorem State.told_rxf (s : State) (who : Who) (j : Nat) : (s.told who).rxf j = s.rxf j := by cases who <;> rfl
@[simp] theorem State.told_txf (s : State) (who : Who) (j : Nat) : (s.told who).txf j = s.txf j := by cases who <;> rfl
@[simp] theorem State.told_htxq (s : State) (who : Who) (j : Nat) : (s.told who).htxq j = s.htxq j := by cases who <;> rfl
@[simp] theorem State.told_port (s : State) (who : Who) (j : Nat) : (s.told who).port j = s.port j := by cases who <;> rfl
@[simp] theorem State.told_chan (s : State) (who : Who) (j : Nat) : (s.told who).chan j = s.chan j := by cases who <;> rfl
@[simp] theorem State.told_busy (s : State) (who : Who) (j : Nat) : (s.told who).busy j = s.busy j := by cases who <;> rfl
@[simp] theorem State.told_inDrain (s : State) (who : Who) (j : Nat) : (s.told who).inDrain j = s.inDrain j := by cases who <;> rfl
@[simp] theorem State.told_seq (s : State) (who : Who) (j : Nat) : (s.told who).seq j = s.seq j := by cases who <;> rfl

/-- A read of a whole register is one lane. -/
theorem State.busRegReads_word (s : State) (who : Who) (a : Nat) : s.busRegReads who a 4 = s.busRegRead who a := by
  simp [State.busRegReads, State.each, span]

/-- A write of one value is one register write. -/
theorem State.busRegWrites_one (s : State) (who : Who) (a : Nat) (v : W32) : s.busRegWrites who a [v] = s.busRegWrite who a v := rfl

/-- A served write of a body register through PF0. -/
theorem State.busRegWrite_body {s : State} {a : Nat} (v : W32) (h : s.served (.pcie 0) (a / 0x1000) = true) (ha : 0x40 ≤ a % 0x1000) :
    s.busRegWrite (.pcie 0) a v = (s.noted (.pcie 0) (a / 0x1000)).regWrite (.pcie 0) a v := by
  have e : s.barMap (0 : FnId).val a = some a := rfl
  have hn : ¬ a % 0x1000 < 0x40 := by omega
  simp only [State.busRegWrite, e, if_neg hn]
  exact State.access_served h _

/-- A served write of a header register through PF0. -/
theorem State.busRegWrite_header {s : State} {a : Nat} (v : W32) (h : s.servedHdr (.pcie 0) (a / 0x1000) = true) (ha : a % 0x1000 < 0x40) :
    s.busRegWrite (.pcie 0) a v = (s.noted (.pcie 0) (a / 0x1000)).regWrite (.pcie 0) a v := by
  have e : s.barMap (0 : FnId).val a = some a := rfl
  simp only [State.busRegWrite, e, if_pos ha]
  exact State.accessHdr_served h _

/-- A served read of a body register through PF0. -/
theorem State.busRegRead_body {s : State} {a : Nat} (h : s.served (.pcie 0) (a / 0x1000) = true) (ha : 0x40 ≤ a % 0x1000) (h4 : a % 4 = 0) :
    s.busRegRead (.pcie 0) a = (s.bodyRead a).1.emit (.readData (s.bodyRead a).2) := by
  have e : s.barMap 0 a = some a := rfl
  have hn : ¬ a % 0x1000 < 0x40 := by omega
  have e4 : a / 4 * 4 = a := by omega
  simp only [State.served, Bool.and_eq_true, Bool.not_eq_true'] at h
  obtain ⟨⟨⟨h1, h2⟩, h3⟩, ⟨h5, h6 : s.d0 0 = true⟩, h7 : s.reaches 0 _ = true⟩ := h
  have hu : s.hostUp = true := by simp [State.hostUp, h1, h5]
  show (if (!s.hostUp) = true then s else if (!s.d0 0) = true then s.unsupported 0 else
    match s.barMap 0 a with
    | some b => if (!s.reaches 0 (b / 0x1000) || s.gated (b / 0x1000)) = true then s.emit (.readData 0)
      else (s.regRead b).1.emit (.readData (laneWord a 4 (s.regRead b).2))
    | none => s.emit (.readData (laneWord a 4 (s.viewBar 0 (a / 4 * 4))))) = _
  simp only [hu, h6, e, h7, h2, Bool.not_true, Bool.or_self, Bool.false_eq_true, if_false]
  have hr : s.regRead a = s.bodyRead a := by
    simp only [State.regRead, e4, hn, h3, Bool.false_eq_true, or_self, if_false]
  rw [hr]
  rfl

/-- A partial unlock that is lost changes no register. -/
@[simp] theorem State.unlock_reg (s : State) (p a : Nat) : (if p = pgFLT then ({ s with unlock := 0 } : State) else s).reg a = s.reg a := by
  split <;> rfl

end Sys2Proof.Machine
end

