-- ==== Sys2Proof/Laws/Operands.lean ====
section
/-! SUPPORT. Fields of a word: what is read of a word whose field was replaced. -/

namespace Sys2Proof.Machine

theorem bitAt_eq (w : W32) (j : Nat) : bitAt w j = w.getLsbD j := rfl

theorem testBit_fldMask (hi lo j : Nat) : (fldMask hi lo).testBit j = decide (lo ≤ j ∧ j < lo + (hi + 1 - lo)) := by
  simp only [fldMask, Nat.testBit_shiftLeft, Nat.testBit_two_pow_sub_one]
  by_cases h : lo ≤ j
  · simp [h]; omega
  · simp [h]

/-- A bit of a word whose field [hi:lo] was replaced. -/
theorem bitAt_setFld (w : W32) (hi lo v j : Nat) :
    bitAt (setFld w hi lo v) j = if lo ≤ j ∧ j < lo + (hi + 1 - lo) ∧ j < 32 then v.testBit (j - lo) else bitAt w j := by
  simp only [bitAt_eq, setFld, BitVec.getLsbD_or, BitVec.getLsbD_and, BitVec.getLsbD_not, BitVec.getLsbD_ofNat, testBit_fldMask, Nat.testBit_shiftLeft]
  by_cases h32 : j < 32
  · by_cases h1 : lo ≤ j <;> by_cases h2 : j < lo + (hi + 1 - lo) <;> simp [h1, h2, h32]
  · have : w.getLsbD j = false := BitVec.getLsbD_of_ge w j (by omega)
    simp [h32, this]

@[simp] theorem bitAt_setBit_same (w : W32) (i : Nat) (b : Bool) (h : i < 32) : bitAt (setBit w i b) i = b := by
  rw [setBit, bitAt_setFld]; cases b <;> simp [h]

@[simp] theorem bitAt_setBit_ne (w : W32) {i j : Nat} (b : Bool) (h : j ≠ i) : bitAt (setBit w i b) j = bitAt w j := by
  rw [setBit, bitAt_setFld, if_neg (by omega)]

theorem testBit_fld (w : W32) (hi lo k : Nat) : (fld w hi lo).testBit k = (decide (k < hi + 1 - lo) && bitAt w (lo + k)) := by
  simp [fld, bitAt, Nat.testBit_mod_two_pow, Nat.testBit_shiftRight]

/-- The field that was replaced. -/
theorem fld_setFld_same (w : W32) (hi lo v : Nat) (h : hi < 32) : fld (setFld w hi lo v) hi lo = v % 2 ^ (hi + 1 - lo) := by
  apply Nat.eq_of_testBit_eq
  intro k
  rw [testBit_fld, bitAt_setFld, Nat.testBit_mod_two_pow]
  by_cases hk : k < hi + 1 - lo
  · rw [if_pos (by omega)]; simp [hk]
  · simp [hk]

/-- A field apart from the one that was replaced. -/
theorem fld_setFld_ne (w : W32) {hi lo hi' lo' : Nat} (v : Nat) (h : hi' < lo ∨ lo + (hi + 1 - lo) ≤ lo') : fld (setFld w hi lo v) hi' lo' = fld w hi' lo' := by
  apply Nat.eq_of_testBit_eq
  intro k
  rw [testBit_fld, testBit_fld, bitAt_setFld]
  by_cases hk : k < hi' + 1 - lo'
  · rw [if_neg (by omega)]
  · simp [hk]

/-- A field apart from the bit that was replaced. -/
theorem fld_setBit_ne (w : W32) {i hi lo : Nat} (b : Bool) (h : hi < i ∨ i < lo) : fld (setBit w i b) hi lo = fld w hi lo :=
  fld_setFld_ne w _ (by omega)

/-- A bit apart from the field that was replaced. -/
theorem bitAt_setFld_ne (w : W32) {hi lo j : Nat} (v : Nat) (h : j < lo ∨ lo + (hi + 1 - lo) ≤ j) : bitAt (setFld w hi lo v) j = bitAt w j := by
  rw [bitAt_setFld, if_neg (by omega)]

end Sys2Proof.Machine
end

