-- ==== Sys2Proof/Laws/Sound.lean ====
section
/-! SUPPORT. How `Sound` is shown: its composition, and the ways a state is built. -/

namespace Sys2Proof.Machine

theorem Sound.refl (s : State) : Sound s s := ⟨rfl, rfl, rfl, rfl, id⟩

theorem Sound.trans {r s t : State} (h : Sound r s) (k : Sound s t) : Sound r t :=
  ⟨k.pending.trans h.pending, k.variant.trans h.variant, k.rev.trans h.rev, k.signReq.trans h.signReq, fun m => k.mem (h.mem m)⟩

theorem hbmDefault_congr {s t : State} (hv : t.variant = s.variant) (hm : t.memSeed = s.memSeed) : t.hbmDefault = s.hbmDefault := by
  funext x; simp only [State.hbmDefault, State.stackGiB, hv, hm]

theorem Sound.upd {r s t : State} (h1 : t.pending = s.pending) (h2 : t.variant = s.variant) (h3 : t.rev = s.rev)
    (h4 : t.signReq = s.signReq) (h5 : t.memSeed = s.memSeed) (h6 : t.hbm = s.hbm) (h7 : t.host = s.host) (h : Sound r s) : Sound r t :=
  h.trans ⟨h1, h2, h3, h4, fun m => by
    unfold State.memWf at m ⊢
    rw [hbmDefault_congr h2 h5, h6, h7]; exact m⟩

theorem Sound.via {r t u : State} (hx : Sound r t) (k : Sound r t → Sound r u) : Sound r u := k hx

theorem Sound.each {α : Type} {r s : State} (h : Sound r s) (l : List α) (f : State → α → State) (hf : ∀ {a b : State}, Sound a b → ∀ x, Sound a (f b x)) : Sound r (s.each l f) := by
  unfold State.each
  induction l generalizing s with
  | nil => exact h
  | cons a l ih => exact ih (hf h a)

/-- A state that differs from another in no field of these is as sound. -/
theorem Sound.record {r s : State} (h : Sound r s) (x_outbox : List Output) (x_fresh : Nat) (x_testEn : Bool) (x_sa : BitVec 2) (x_regs : Tab W32) (x_hiLatch : Tab (Option W32)) (x_loHeld : Tab (Option W32)) (x_poison : Tab Bool) (x_hif : Hif) (x_resetting : Tab Bool) (x_draining : Tab Bool) (x_edges : Tab Bool) (x_rings : Tab Ring) (x_chans : Tab (Option Chan)) (x_pools : Tab Pool) (x_bufs : Tab Buf) (x_sessions : Tab Sess) (x_cores : Tab Core) (x_hedges : Tab Hedge) (x_seqs : Tab Seqr) (x_store : Store) (x_pipes : Tab Pipe) (x_hbmStacks : Tab Stack) (x_pchs : Tab Pch) (x_rxFlows : Tab RxFlow) (x_txFlows : Tab TxFlow) (x_htx : Tab (List HtxEntry)) (x_mtc : Mtc) (x_ports : Tab Port) (x_e2e : Tab E2e) (x_remotes : List Remote) (x_esps : Tab Esp) (x_clock : Clock) (x_power : Power) (x_resetReq : Option Nat) (x_uptime : W32) (x_histTotal : Nat) (x_unlock : Nat) (x_inject : Option (Nat × Nat × Option Nat)) :
    Sound r (State.mk s.pending x_outbox x_fresh s.variant s.rev s.signReq x_testEn x_sa x_regs x_hiLatch x_loHeld s.hbm s.memSeed x_poison s.host x_hif x_resetting x_draining x_edges x_rings x_chans x_pools x_bufs x_sessions x_cores x_hedges x_seqs x_store x_pipes x_hbmStacks x_pchs x_rxFlows x_txFlows x_htx x_mtc x_ports x_e2e x_remotes x_esps x_clock x_power x_resetReq x_uptime x_histTotal x_unlock x_inject) :=
  Sound.upd (s := s) rfl rfl rfl rfl rfl rfl rfl h

theorem Sound.pair {β : Type} {r s : State} (h : Sound r s) (b : β) : Sound r (s, b).1 := h

theorem Sound.ite {r s t : State} {c : Prop} [Decidable c] (h : Sound r s) (k : Sound r t) : Sound r (if c then s else t) := by
  split
  · exact h
  · exact k

theorem Sound.itePair {β : Type} {r : State} {p q : State × β} {c : Prop} [Decidable c] (h : Sound r p.1) (k : Sound r q.1) :
    Sound r (if c then p else q).1 := by
  split
  · exact h
  · exact k

theorem Sound.elim {α : Type} {r s : State} (h : Sound r s) (o : Option α) (f : α → State) (hf : ∀ a, Sound r (f a)) : Sound r (o.elim s f) := by
  cases o with
  | none => exact h
  | some a => exact hf a

theorem Sound.foldl {α : Type} {r s : State} (h : Sound r s) (l : List α) (f : State → α → State) (hf : ∀ {a b : State}, Sound a b → ∀ x, Sound a (f b x)) : Sound r (l.foldl f s) := by
  induction l generalizing s with
  | nil => exact h
  | cons a l ih => exact ih (hf h a)

theorem Sound.foldlPair {α β : Type} {r : State} {p : State × β} (h : Sound r p.1) (l : List α) (f : State × β → α → State × β)
    (hf : ∀ {a : State} {b : State × β}, Sound a b.1 → ∀ x, Sound a (f b x).1) : Sound r (l.foldl f p).1 := by
  induction l generalizing p with
  | nil => exact h
  | cons a l ih => exact ih (hf h a)

end Sys2Proof.Machine
end

