-- ==== Sys2Proof/Laws/SoundOps.lean ====
section
/-! SUPPORT. What no shared operation does, one lemma each: registers, events, answers, pools, rings, jobs, links and descriptors. -/

set_option linter.unusedTactic false
set_option linter.unreachableTactic false

namespace Sys2Proof.Machine

/-! Ops -/

theorem State.setReg_sound {u₀ s : State} (h₀ : Sound u₀ s) (a : Nat) (v : W32) : Sound u₀ (State.setReg s a v) := by
  unfold State.setReg
  with_reducible repeat' (first | assumption | apply Sound.refl | apply Sound.record)

theorem State.setF_sound {u₀ s : State} (h₀ : Sound u₀ s) (a : Nat) (hi : Nat) (lo : Nat) (v : Nat) : Sound u₀ (State.setF s a hi lo v) := by
  unfold State.setF
  with_reducible repeat' (first | assumption | apply Sound.refl | apply State.setReg_sound)

theorem State.setB_sound {u₀ s : State} (h₀ : Sound u₀ s) (a : Nat) (i : Nat) (b : Bool) : Sound u₀ (State.setB s a i b) := by
  unfold State.setB
  with_reducible repeat' (first | assumption | apply Sound.refl | apply State.setReg_sound)

theorem State.inc_sound {u₀ s : State} (h₀ : Sound u₀ s) (a : Nat) (n : Nat) : Sound u₀ (State.inc s a n) := by
  unfold State.inc
  with_reducible repeat' (first | assumption | apply Sound.refl | apply State.setReg_sound)

theorem State.incF_sound {u₀ s : State} (h₀ : Sound u₀ s) (a : Nat) (hi : Nat) (lo : Nat) (n : Nat) : Sound u₀ (State.incF s a hi lo n) := by
  unfold State.incF
  with_reducible repeat' (first | assumption | apply Sound.refl | apply State.setF_sound)

theorem State.satF_sound {u₀ s : State} (h₀ : Sound u₀ s) (a : Nat) (hi : Nat) (lo : Nat) (n : Nat) : Sound u₀ (State.satF s a hi lo n) := by
  unfold State.satF
  with_reducible repeat' (first | assumption | apply Sound.refl | apply State.setF_sound)

theorem State.setPair_sound {u₀ s : State} (h₀ : Sound u₀ s) (lo : Nat) (hi : Nat) (v : Nat) : Sound u₀ (State.setPair s lo hi v) := by
  unfold State.setPair
  with_reducible repeat' (first | assumption | apply Sound.refl | apply State.setReg_sound)

theorem State.event_sound {u₀ s : State} (h₀ : Sound u₀ s) (p : Nat) (b : Nat) : Sound u₀ (State.event s p b) := by
  unfold State.event
  with_reducible repeat' (first | assumption | apply Sound.refl | apply State.setB_sound)

theorem State.emit_sound {u₀ s : State} (h₀ : Sound u₀ s) (o : Output) : Sound u₀ (State.emit s o) := by
  unfold State.emit
  with_reducible repeat' (first | assumption | apply Sound.refl | apply Sound.record)

theorem State.each_sound {α : Type} {u₀ s : State} (h₀ : Sound u₀ s) (l : List α) (f : State → α → State) (h_f : ∀ {a b : State}, Sound a b → ∀ x1, Sound a (f b x1)) : Sound u₀ (State.each s l f) := by
  unfold State.each
  with_reducible repeat' (first | assumption | apply Sound.refl | intro _ | apply h_f | apply Sound.foldl | dsimp only)

theorem State.whenB_sound {u₀ s : State} (h₀ : Sound u₀ s) (c : Bool) (f : State → State) (h_f : ∀ {a b : State}, Sound a b → Sound a (f b )) : Sound u₀ (State.whenB s c f) := by
  unfold State.whenB
  with_reducible repeat' (first | assumption | apply Sound.refl | apply Sound.ite | apply h_f | split | dsimp only)

theorem State.draw_sound {u₀ s : State} (h₀ : Sound u₀ s) : Sound u₀ (State.draw s) := by
  unfold State.draw
  with_reducible repeat' (first | assumption | apply Sound.refl | apply Sound.record)

theorem State.setFn_sound {u₀ s : State} (h₀ : Sound u₀ s) (k : Nat) (x : Func) : Sound u₀ (State.setFn s k x) := by
  unfold State.setFn
  with_reducible repeat' (first | assumption | apply Sound.refl | intro _ | dsimp only | apply Sound.record)

theorem State.setRing_sound {u₀ s : State} (h₀ : Sound u₀ s) (r : Nat) (x : Ring) : Sound u₀ (State.setRing s r x) := by
  unfold State.setRing
  with_reducible repeat' (first | assumption | apply Sound.refl | intro _ | dsimp only | apply Sound.record)

theorem State.setPool_sound {u₀ s : State} (h₀ : Sound u₀ s) (p : Nat) (x : Pool) : Sound u₀ (State.setPool s p x) := by
  unfold State.setPool
  with_reducible repeat' (first | assumption | apply Sound.refl | intro _ | dsimp only | apply Sound.record)

theorem State.setBuf_sound {u₀ s : State} (h₀ : Sound u₀ s) (k : Nat) (x : Buf) : Sound u₀ (State.setBuf s k x) := by
  unfold State.setBuf
  with_reducible repeat' (first | assumption | apply Sound.refl | intro _ | dsimp only | apply Sound.record)

theorem State.setSess_sound {u₀ s : State} (h₀ : Sound u₀ s) (n : Nat) (x : Sess) : Sound u₀ (State.setSess s n x) := by
  unfold State.setSess
  with_reducible repeat' (first | assumption | apply Sound.refl | intro _ | dsimp only | apply Sound.record)

theorem State.setCore_sound {u₀ s : State} (h₀ : Sound u₀ s) (c : Nat) (x : Core) : Sound u₀ (State.setCore s c x) := by
  unfold State.setCore
  with_reducible repeat' (first | assumption | apply Sound.refl | intro _ | dsimp only | apply Sound.record)

theorem State.setHedge_sound {u₀ s : State} (h₀ : Sound u₀ s) (h : Nat) (x : Hedge) : Sound u₀ (State.setHedge s h x) := by
  unfold State.setHedge
  with_reducible repeat' (first | assumption | apply Sound.refl | intro _ | dsimp only | apply Sound.record)

theorem State.setSeq_sound {u₀ s : State} (h₀ : Sound u₀ s) (q : Nat) (x : Seqr) : Sound u₀ (State.setSeq s q x) := by
  unfold State.setSeq
  with_reducible repeat' (first | assumption | apply Sound.refl | intro _ | dsimp only | apply Sound.record)

theorem State.latch_sound {u₀ s : State} (h₀ : Sound u₀ s) (q : Nat) (e : Nat) : Sound u₀ (State.latch s q e) := by
  unfold State.latch
  with_reducible repeat' (first | assumption | apply Sound.refl | apply State.setSeq_sound)

theorem State.setPipe_sound {u₀ s : State} (h₀ : Sound u₀ s) (p : Nat) (x : Pipe) : Sound u₀ (State.setPipe s p x) := by
  unfold State.setPipe
  with_reducible repeat' (first | assumption | apply Sound.refl | intro _ | dsimp only | apply Sound.record)

theorem State.setStack_sound {u₀ s : State} (h₀ : Sound u₀ s) (i : Nat) (x : Stack) : Sound u₀ (State.setStack s i x) := by
  unfold State.setStack
  with_reducible repeat' (first | assumption | apply Sound.refl | intro _ | dsimp only | apply Sound.record)

theorem State.setPch_sound {u₀ s : State} (h₀ : Sound u₀ s) (i : Nat) (x : Pch) : Sound u₀ (State.setPch s i x) := by
  unfold State.setPch
  with_reducible repeat' (first | assumption | apply Sound.refl | intro _ | dsimp only | apply Sound.record)

theorem State.setRxf_sound {u₀ s : State} (h₀ : Sound u₀ s) (f : Nat) (x : RxFlow) : Sound u₀ (State.setRxf s f x) := by
  unfold State.setRxf
  with_reducible repeat' (first | assumption | apply Sound.refl | intro _ | dsimp only | apply Sound.record)

theorem State.setTxf_sound {u₀ s : State} (h₀ : Sound u₀ s) (f : Nat) (x : TxFlow) : Sound u₀ (State.setTxf s f x) := by
  unfold State.setTxf
  with_reducible repeat' (first | assumption | apply Sound.refl | intro _ | dsimp only | apply Sound.record)

theorem State.setHtxq_sound {u₀ s : State} (h₀ : Sound u₀ s) (n : Nat) (x : List HtxEntry) : Sound u₀ (State.setHtxq s n x) := by
  unfold State.setHtxq
  with_reducible repeat' (first | assumption | apply Sound.refl | intro _ | dsimp only | apply Sound.record)

theorem State.setPort_sound {u₀ s : State} (h₀ : Sound u₀ s) (n : Nat) (x : Port) : Sound u₀ (State.setPort s n x) := by
  unfold State.setPort
  with_reducible repeat' (first | assumption | apply Sound.refl | intro _ | dsimp only | apply Sound.record)

theorem State.setE2e_sound {u₀ s : State} (h₀ : Sound u₀ s) (node : Nat) (vc : Nat) (x : E2e) : Sound u₀ (State.setE2e s node vc x) := by
  unfold State.setE2e
  with_reducible repeat' (first | assumption | apply Sound.refl | intro _ | dsimp only | apply Sound.record)

theorem State.setEsp_sound {u₀ s : State} (h₀ : Sound u₀ s) (g : Nat) (x : Esp) : Sound u₀ (State.setEsp s g x) := by
  unfold State.setEsp
  with_reducible repeat' (first | assumption | apply Sound.refl | intro _ | dsimp only | apply Sound.record)

theorem State.setChan_sound {u₀ s : State} (h₀ : Sound u₀ s) (c : Nat) (x : Option Chan) : Sound u₀ (State.setChan s c x) := by
  unfold State.setChan
  with_reducible repeat' (first | assumption | apply Sound.refl | intro _ | dsimp only | apply Sound.record)

theorem State.quiet_sound {u₀ s : State} (h₀ : Sound u₀ s) (a : Nat) : Sound u₀ (State.quiet s a) := by
  unfold State.quiet
  with_reducible repeat' (first | assumption | apply Sound.refl | apply Sound.ite | split | dsimp only | apply Sound.record)

theorem State.setDomain_sound {u₀ s : State} (h₀ : Sound u₀ s) (d : Nat) (on : Bool) : Sound u₀ (State.setDomain s d on) := by
  unfold State.setDomain
  with_reducible repeat' (first | assumption | apply Sound.refl | apply State.setB_sound)

theorem State.setBusy_sound {u₀ s : State} (h₀ : Sound u₀ s) (p : Nat) (b : Bool) : Sound u₀ (State.setBusy s p b) := by
  unfold State.setBusy
  with_reducible repeat' (first | assumption | apply Sound.refl | intro _ | dsimp only | apply Sound.record)

theorem State.setDrain_sound {u₀ s : State} (h₀ : Sound u₀ s) (p : Nat) (b : Bool) : Sound u₀ (State.setDrain s p b) := by
  unfold State.setDrain
  with_reducible repeat' (first | assumption | apply Sound.refl | intro _ | dsimp only | apply Sound.record)

theorem State.clearRegs_sound {u₀ s : State} (h₀ : Sound u₀ s) (first : Nat) (n : Nat) (keep : Nat → Bool) : Sound u₀ (State.clearRegs s first n keep) := by
  unfold State.clearRegs
  with_reducible repeat' (first | assumption | apply Sound.refl | intro _ | dsimp only | apply Sound.record)

theorem State.setHbmByte_sound {u₀ s : State} (h₀ : Sound u₀ s) (a : Nat) (b : Byte) : Sound u₀ (State.setHbmByte s a b) := by
  refine h₀.trans ⟨rfl, rfl, rfl, rfl, fun m => ⟨?_, m.2⟩⟩
  exact tabWf_put (d := s.hbmDefault) _ _ m.1

theorem State.setPoison_sound {u₀ s : State} (h₀ : Sound u₀ s) (a : Nat) (b : Bool) : Sound u₀ (State.setPoison s a b) := by
  unfold State.setPoison
  with_reducible repeat' (first | assumption | apply Sound.refl | apply Sound.record)

theorem State.storeHbm_sound {u₀ s : State} (h₀ : Sound u₀ s) (a : Nat) (y0 : List Byte) : Sound u₀ (State.storeHbm s a y0) := by
  induction y0 generalizing s a with
  | nil =>
    unfold State.storeHbm
    with_reducible repeat' (first | assumption | apply Sound.refl | apply Sound.ite | apply ih | apply State.setHbmByte_sound | split | dsimp only)
  | cons e l ih =>
    unfold State.storeHbm
    with_reducible repeat' (first | assumption | apply Sound.refl | apply Sound.ite | apply ih | apply State.setHbmByte_sound | split | dsimp only)

theorem State.writeTags_sound {u₀ s : State} (h₀ : Sound u₀ s) (a : Nat) (n : Nat) (pois : Bool) : Sound u₀ (State.writeTags s a n pois) := by
  unfold State.writeTags
  with_reducible repeat' (first | assumption | apply Sound.refl | intro _ | apply Sound.ite | apply State.setPoison_sound | apply Sound.each | split | dsimp only)

theorem State.countHbm_sound {u₀ s : State} (h₀ : Sound u₀ s) (lo : Nat → Nat) (hi : Nat → Nat) (a : Nat) (n : Nat) : Sound u₀ (State.countHbm s lo hi a n) := by
  unfold State.countHbm
  with_reducible repeat' (first | assumption | apply Sound.refl | (intro x; refine Sound.via (t := x) ?_ (fun hx => ?_); on_goal 2 => clear_value x) | (intro x; clear_value x) | intro _ | apply Sound.ite | apply State.setPair_sound | apply Sound.each | lift_lets | split | dsimp only)

theorem State.hostWrite_sound {u₀ s : State} (h₀ : Sound u₀ s) (a : Nat) (y0 : List Byte) : Sound u₀ (State.hostWrite s a y0) := by
  induction y0 generalizing s a with
  | nil => exact h₀
  | cons e l ih =>
    unfold State.hostWrite
    refine ih (h₀.trans (t := { s with host := tabPut memDefault s.host a e }) ⟨rfl, rfl, rfl, rfl, fun m => ⟨m.1, ?_⟩⟩) _
    exact tabWf_put (d := memDefault) _ _ m.2

theorem State.histWrite_sound {u₀ s : State} (h₀ : Sound u₀ s) (src : Nat) (agent : Nat) (code : Nat) (detail : W32) : Sound u₀ (State.histWrite s src agent code detail) := by
  unfold State.histWrite
  with_reducible repeat' (first | assumption | apply Sound.refl | (intro x; refine Sound.via (t := x) ?_ (fun hx => ?_); on_goal 2 => clear_value x) | (intro x; clear_value x) | intro _ | apply Sound.ite | apply State.event_sound | apply State.satF_sound | apply State.setReg_sound | apply State.whenB_sound | lift_lets | split | dsimp only | apply Sound.record)

theorem State.syndrome_sound {u₀ s : State} (h₀ : Sound u₀ s) (src : Nat) (agent : Nat) (code : Nat) : Sound u₀ (State.syndrome s src agent code) := by
  unfold State.syndrome
  with_reducible repeat' (first | assumption | apply Sound.refl | apply Sound.ite | apply State.setReg_sound | split | dsimp only)

theorem State.pinPulse_sound {u₀ s : State} (h₀ : Sound u₀ s) : Sound u₀ (State.pinPulse s) := by
  unfold State.pinPulse
  with_reducible repeat' (first | assumption | apply Sound.refl | (intro x; refine Sound.via (t := x) ?_ (fun hx => ?_); on_goal 2 => clear_value x) | (intro x; clear_value x) | intro _ | apply Sound.ite | apply State.event_sound | apply State.setB_sound | lift_lets | split | dsimp only | apply Sound.record)

theorem State.askReset_sound {u₀ s : State} (h₀ : Sound u₀ s) (cause : Nat) : Sound u₀ (State.askReset s cause) := by
  unfold State.askReset
  with_reducible repeat' (first | assumption | apply Sound.refl | apply Sound.ite | split | dsimp only | apply Sound.record)

theorem State.rAction_sound {u₀ s : State} (h₀ : Sound u₀ s) (src : Nat) : Sound u₀ (State.rAction s src) := by
  unfold State.rAction
  with_reducible repeat' (first | assumption | apply Sound.refl | intro _ | apply Sound.ite | apply State.askReset_sound | apply State.setBusy_sound | apply Sound.each | split | dsimp only)

theorem State.noteFault_sound {u₀ s : State} (h₀ : Sound u₀ s) (src : Nat) (agent : Nat) (code : Nat) (detail : W32) : Sound u₀ (State.noteFault s src agent code detail) := by
  unfold State.noteFault
  with_reducible repeat' (first | assumption | apply Sound.refl | (intro x; refine Sound.via (t := x) ?_ (fun hx => ?_); on_goal 2 => clear_value x) | (intro x; clear_value x) | intro _ | apply Sound.ite | apply State.event_sound | apply State.histWrite_sound | apply State.incF_sound | apply State.latch_sound | apply State.pinPulse_sound | apply State.rAction_sound | apply State.setB_sound | apply State.syndrome_sound | apply State.whenB_sound | lift_lets | split | dsimp only)

theorem State.injectSpent_sound {u₀ s : State} (h₀ : Sound u₀ s) : Sound u₀ (State.injectSpent s) := by
  unfold State.injectSpent
  with_reducible repeat' (first | assumption | apply Sound.refl | apply State.setB_sound | apply Sound.record)

theorem State.corrected_sound {u₀ s : State} (h₀ : Sound u₀ s) (k : Nat) : Sound u₀ (State.corrected s k) := by
  unfold State.corrected
  with_reducible repeat' (first | assumption | apply Sound.refl | (intro x; refine Sound.via (t := x) ?_ (fun hx => ?_); on_goal 2 => clear_value x) | (intro x; clear_value x) | intro _ | apply State.event_sound | apply State.noteFault_sound | apply State.satF_sound | lift_lets | dsimp only)

theorem State.uncorrectable_sound {u₀ s : State} (h₀ : Sound u₀ s) (k : Nat) : Sound u₀ (State.uncorrectable s k) := by
  unfold State.uncorrectable
  with_reducible repeat' (first | assumption | apply Sound.refl | (intro x; refine Sound.via (t := x) ?_ (fun hx => ?_); on_goal 2 => clear_value x) | (intro x; clear_value x) | intro _ | apply State.event_sound | apply State.noteFault_sound | apply State.satF_sound | apply State.setPair_sound | apply State.setReg_sound | apply State.whenB_sound | lift_lets | dsimp only | apply Sound.record)

theorem State.injectFire_sound {u₀ s : State} (h₀ : Sound u₀ s) (pred : Nat → Bool) : Sound u₀ (State.injectFire s pred) := by
  unfold State.injectFire
  with_reducible repeat' (first | assumption | apply Sound.refl | (intro x; refine Sound.via (t := x) ?_ (fun hx => ?_); on_goal 2 => clear_value x) | (intro x; refine Sound.via (t := x.1) ?_ (fun hx => ?_); on_goal 2 => clear_value x) | (intro x; clear_value x) | intro _ | apply Sound.ite | apply State.corrected_sound | apply State.injectSpent_sound | apply State.uncorrectable_sound | lift_lets | split | dsimp only)

theorem State.injectTake_sound {u₀ s : State} (h₀ : Sound u₀ s) (a : Nat) (n : Nat) : Sound u₀ (State.injectTake s a n) := by
  unfold State.injectTake
  with_reducible repeat' (first | assumption | apply Sound.refl | intro _ | apply Sound.ite | split | dsimp only | apply Sound.record)

theorem State.hbmRead_sound {u₀ s : State} (h₀ : Sound u₀ s) (a : Nat) (n : Nat) : Sound u₀ (State.hbmRead s a n) := by
  unfold State.hbmRead
  with_reducible repeat' (first | assumption | apply Sound.refl | intro _ | apply State.countHbm_sound | apply State.injectFire_sound | dsimp only)

theorem State.hbmWrite_sound {u₀ s : State} (h₀ : Sound u₀ s) (a : Nat) (bs : List Byte) (pois : Bool) : Sound u₀ (State.hbmWrite s a bs pois) := by
  unfold State.hbmWrite
  with_reducible repeat' (first | assumption | apply Sound.refl | (intro x; refine Sound.via (t := x) ?_ (fun hx => ?_); on_goal 2 => clear_value x) | (intro x; clear_value x) | intro _ | apply State.countHbm_sound | apply State.injectFire_sound | apply State.injectTake_sound | apply State.storeHbm_sound | apply State.writeTags_sound | lift_lets | dsimp only)

/-! Access -/

theorem State.regLatch_sound {u₀ s : State} (h₀ : Sound u₀ s) (p : Nat) : Sound u₀ (State.regLatch s p) := by
  unfold State.regLatch
  with_reducible repeat' (first | assumption | apply Sound.refl | apply Sound.ite | apply State.latch_sound | split | dsimp only)

theorem State.config_sound {u₀ s : State} (h₀ : Sound u₀ s) (k : Nat) (f : State → State) (h_f : ∀ {a b : State}, Sound a b → Sound a (f b )) : Sound u₀ (State.config s k f) := by
  unfold State.config
  with_reducible repeat' (first | assumption | apply Sound.refl | apply Sound.ite | apply h_f | apply State.emit_sound | split | dsimp only)

theorem State.unsupported_sound {u₀ s : State} (h₀ : Sound u₀ s) (k : Nat) : Sound u₀ (State.unsupported s k) := by
  unfold State.unsupported
  with_reducible repeat' (first | assumption | apply Sound.refl | (intro x; refine Sound.via (t := x) ?_ (fun hx => ?_); on_goal 2 => clear_value x) | (intro x; refine Sound.via (t := x.1) ?_ (fun hx => ?_); on_goal 2 => clear_value x) | (intro x; clear_value x) | intro _ | apply Sound.ite | apply State.emit_sound | apply State.setFn_sound | lift_lets | split | dsimp only | apply Sound.record)

theorem State.access_sound {u₀ s : State} (h₀ : Sound u₀ s) (who : Who) (p : Nat) (f : State → State) (h_f : ∀ {a b : State}, Sound a b → Sound a (f b )) : Sound u₀ (State.access s who p f) := by
  unfold State.access
  with_reducible repeat' (first | assumption | apply Sound.refl | apply Sound.ite | apply h_f | apply State.emit_sound | apply State.quiet_sound | apply State.regLatch_sound | apply State.unsupported_sound | split | dsimp only)

theorem State.accessHdr_sound {u₀ s : State} (h₀ : Sound u₀ s) (who : Who) (p : Nat) (f : State → State) (h_f : ∀ {a b : State}, Sound a b → Sound a (f b )) : Sound u₀ (State.accessHdr s who p f) := by
  unfold State.accessHdr
  with_reducible repeat' (first | assumption | apply Sound.refl | apply Sound.ite | apply h_f | apply State.emit_sound | apply State.quiet_sound | apply State.regLatch_sound | apply State.unsupported_sound | split | dsimp only)

theorem State.accessRd_sound {u₀ s : State} (h₀ : Sound u₀ s) (who : Who) (p : Nat) (f : State → State × W32) (n : Nat) (h_f : ∀ {a b : State}, Sound a b → Sound a (f b ).1) : Sound u₀ (State.accessRd s who p f n) := by
  unfold State.accessRd
  with_reducible repeat' (first | assumption | apply Sound.refl | (intro x; refine Sound.via (t := x) ?_ (fun hx => ?_); on_goal 2 => clear_value x) | (intro x; refine Sound.via (t := x.1) ?_ (fun hx => ?_); on_goal 2 => clear_value x) | (intro x; clear_value x) | intro _ | apply Sound.ite | apply h_f | apply State.emit_sound | apply State.quiet_sound | apply State.unsupported_sound | lift_lets | split | dsimp only)

/-! Ic -/

theorem State.sendPme_sound {u₀ s : State} (h₀ : Sound u₀ s) (i : Nat) : Sound u₀ (State.sendPme s i) := by
  unfold State.sendPme
  with_reducible repeat' (first | assumption | apply Sound.refl | apply Sound.ite | apply State.emit_sound | apply State.linkUp_sound | apply State.setFn_sound | split | dsimp only)

theorem State.icSend_sound {u₀ s : State} (h₀ : Sound u₀ s) (i : Nat) : Sound u₀ (State.icSend s i) := by
  unfold State.icSend
  with_reducible repeat' (first | assumption | apply Sound.refl | (intro x; refine Sound.via (t := x) ?_ (fun hx => ?_); on_goal 2 => clear_value x) | (intro x; clear_value x) | intro _ | apply State.emit_sound | apply State.inc_sound | apply State.setF_sound | apply State.setFn_sound | lift_lets | dsimp only)

theorem State.icHold_sound {u₀ s : State} (h₀ : Sound u₀ s) (i : Nat) : Sound u₀ (State.icHold s i) := by
  unfold State.icHold
  with_reducible repeat' (first | assumption | apply Sound.refl | (intro x; refine Sound.via (t := x) ?_ (fun hx => ?_); on_goal 2 => clear_value x) | (intro x; clear_value x) | intro _ | apply Sound.ite | apply State.sendPme_sound | apply State.setF_sound | apply State.setFn_sound | lift_lets | split | dsimp only)

theorem State.icEval_sound {u₀ s : State} (h₀ : Sound u₀ s) (i : Nat) : Sound u₀ (State.icEval s i) := by
  unfold State.icEval
  with_reducible repeat' (first | assumption | apply Sound.refl | (intro x; refine Sound.via (t := x) ?_ (fun hx => ?_); on_goal 2 => clear_value x) | (intro x; clear_value x) | intro _ | apply Sound.ite | apply State.icHold_sound | apply State.icSend_sound | apply State.setF_sound | apply State.setFn_sound | lift_lets | split | dsimp only)

theorem State.icClaim_sound {u₀ s : State} (h₀ : Sound u₀ s) (i : Nat) : Sound u₀ (State.icClaim s i).1 := by
  unfold State.icClaim
  with_reducible repeat' (first | assumption | apply Sound.refl | (intro x; refine Sound.via (t := x) ?_ (fun hx => ?_); on_goal 2 => clear_value x) | (intro x; refine Sound.via (t := x.1) ?_ (fun hx => ?_); on_goal 2 => clear_value x) | (intro x; clear_value x) | intro _ | apply Sound.ite | apply State.setB_sound | apply State.setReg_sound | apply State.setRing_sound | lift_lets | split | dsimp only | apply Sound.record)

theorem State.icComplete_sound {u₀ s : State} (h₀ : Sound u₀ s) (i : Nat) (v : W32) : Sound u₀ (State.icComplete s i v) := by
  unfold State.icComplete
  with_reducible repeat' (first | assumption | apply Sound.refl | (intro x; refine Sound.via (t := x) ?_ (fun hx => ?_); on_goal 2 => clear_value x) | (intro x; clear_value x) | intro _ | apply Sound.ite | apply State.event_sound | apply State.icEval_sound | apply State.setReg_sound | lift_lets | split | dsimp only)

theorem State.modFire_sound {u₀ s : State} (h₀ : Sound u₀ s) (r : Nat) : Sound u₀ (State.modFire s r) := by
  unfold State.modFire
  with_reducible repeat' (first | assumption | apply Sound.refl | apply State.setRing_sound | dsimp only)

theorem State.ringCompletion_sound {u₀ s : State} (h₀ : Sound u₀ s) (r : Nat) : Sound u₀ (State.ringCompletion s r) := by
  unfold State.ringCompletion
  with_reducible repeat' (first | assumption | apply Sound.refl | (intro x; refine Sound.via (t := x) ?_ (fun hx => ?_); on_goal 2 => clear_value x) | (intro x; refine Sound.via (t := x.1) ?_ (fun hx => ?_); on_goal 2 => clear_value x) | (intro x; clear_value x) | intro _ | apply Sound.ite | apply State.inc_sound | apply State.modFire_sound | apply State.setRing_sound | lift_lets | split | dsimp only)

theorem State.icModWrite_sound {u₀ s : State} (h₀ : Sound u₀ s) (i : Nat) (r : Nat) (v : W32) : Sound u₀ (State.icModWrite s i r v) := by
  unfold State.icModWrite
  with_reducible repeat' (first | assumption | apply Sound.refl | (intro x; refine Sound.via (t := x) ?_ (fun hx => ?_); on_goal 2 => clear_value x) | (intro x; clear_value x) | intro _ | apply Sound.ite | apply State.modFire_sound | apply State.setReg_sound | lift_lets | split | dsimp only)

theorem State.modClear_sound {u₀ s : State} (h₀ : Sound u₀ s) (r : Nat) : Sound u₀ (State.modClear s r) := by
  unfold State.modClear
  with_reducible repeat' (first | assumption | apply Sound.refl | apply State.setRing_sound | dsimp only)

theorem State.icReset_sound {u₀ s : State} (h₀ : Sound u₀ s) (i : Nat) : Sound u₀ (State.icReset s i) := by
  unfold State.icReset
  with_reducible repeat' (first | assumption | apply Sound.refl | (intro x; refine Sound.via (t := x) ?_ (fun hx => ?_); on_goal 2 => clear_value x) | (intro x; clear_value x) | intro _ | apply State.clearRegs_sound | apply State.modClear_sound | apply State.setFn_sound | apply Sound.each | lift_lets | dsimp only)

theorem State.coreEdge_sound {u₀ s : State} (h₀ : Sound u₀ s) (c : Nat) : Sound u₀ (State.coreEdge s c) := by
  unfold State.coreEdge
  with_reducible repeat' (first | assumption | apply Sound.refl | intro _ | dsimp only | apply Sound.record)

theorem State.msixTable_sound {u₀ s : State} (h₀ : Sound u₀ s) (i : Nat) (off : Nat) (v : W32) : Sound u₀ (State.msixTable s i off v) := by
  unfold State.msixTable
  with_reducible repeat' (first | assumption | apply Sound.refl | apply State.icEval_sound | apply State.setFn_sound)

theorem State.msixControl_sound {u₀ s : State} (h₀ : Sound u₀ s) (i : Nat) (f : MsixField) : Sound u₀ (State.msixControl s i f) := by
  unfold State.msixControl
  with_reducible repeat' (first | assumption | apply Sound.refl | intro _ | apply Sound.ite | apply State.icEval_sound | apply State.msixTable_sound | apply State.setFn_sound | apply State.unsupported_sound | split | dsimp only)

/-! PoolBase -/

theorem State.setHbuf_sound {u₀ s : State} (h₀ : Sound u₀ s) (h : W32) (b : Buf) : Sound u₀ (State.setHbuf s h b) := by
  unfold State.setHbuf
  with_reducible repeat' (first | assumption | apply Sound.refl | apply State.setBuf_sound)

theorem State.poolError_sound {u₀ s : State} (h₀ : Sound u₀ s) (a : Nat) (op : Nat) (cause : Nat) (h : W32) : Sound u₀ (State.poolError s a op cause h) := by
  unfold State.poolError
  with_reducible repeat' (first | assumption | apply Sound.refl | (intro x; refine Sound.via (t := x) ?_ (fun hx => ?_); on_goal 2 => clear_value x) | (intro x; clear_value x) | intro _ | apply Sound.ite | apply State.event_sound | apply State.satF_sound | apply State.setReg_sound | lift_lets | split | dsimp only)

theorem State.wakeOut_sound {u₀ s : State} (h₀ : Sound u₀ s) (subs : List Nat) (h : W32) (lines : Nat) (complete : Bool) : Sound u₀ (State.wakeOut s subs h lines complete) := by
  unfold State.wakeOut
  with_reducible repeat' (first | assumption | apply Sound.refl | (intro x; refine Sound.via (t := x) ?_ (fun hx => ?_); on_goal 2 => clear_value x) | (intro x; clear_value x) | intro _ | apply Sound.ite | apply State.emit_sound | apply State.latch_sound | apply Sound.each | lift_lets | split | dsimp only)

theorem State.wakeAll_sound {u₀ s : State} (h₀ : Sound u₀ s) (h : W32) : Sound u₀ (State.wakeAll s h) := by
  unfold State.wakeAll
  with_reducible repeat' (first | assumption | apply Sound.refl | (intro x; refine Sound.via (t := x) ?_ (fun hx => ?_); on_goal 2 => clear_value x) | (intro x; clear_value x) | intro _ | apply Sound.ite | apply State.linesDone_sound | apply State.setHbuf_sound | apply State.wakeOut_sound | lift_lets | split | dsimp only)

theorem State.poolSettle_sound {u₀ s : State} (h₀ : Sound u₀ s) (p : Nat) : Sound u₀ (State.poolSettle s p) := by
  unfold State.poolSettle
  with_reducible repeat' (first | assumption | apply Sound.refl | apply Sound.ite | apply State.event_sound | apply State.setPool_sound | split | dsimp only | apply Sound.record)

theorem State.poolMin_sound {u₀ s : State} (h₀ : Sound u₀ s) (p : Nat) : Sound u₀ (State.poolMin s p) := by
  unfold State.poolMin
  with_reducible repeat' (first | assumption | apply Sound.refl | apply State.setReg_sound)

theorem State.bufFree_sound {u₀ s : State} (h₀ : Sound u₀ s) (h : W32) : Sound u₀ (State.bufFree s h) := by
  unfold State.bufFree
  with_reducible repeat' (first | assumption | apply Sound.refl | (intro x; refine Sound.via (t := x) ?_ (fun hx => ?_); on_goal 2 => clear_value x) | (intro x; refine Sound.via (t := x.1) ?_ (fun hx => ?_); on_goal 2 => clear_value x) | (intro x; clear_value x) | intro _ | apply State.poolSettle_sound | apply State.setHbuf_sound | apply State.setPool_sound | apply State.wakeAll_sound | lift_lets | dsimp only)

theorem State.bufWithdraw_sound {u₀ s : State} (h₀ : Sound u₀ s) (p : Nat) (i : Nat) : Sound u₀ (State.bufWithdraw s p i) := by
  unfold State.bufWithdraw
  with_reducible repeat' (first | assumption | apply Sound.refl | (intro x; refine Sound.via (t := x) ?_ (fun hx => ?_); on_goal 2 => clear_value x) | (intro x; refine Sound.via (t := x.1) ?_ (fun hx => ?_); on_goal 2 => clear_value x) | (intro x; clear_value x) | intro _ | apply Sound.ite | apply State.poolSettle_sound | apply State.setBuf_sound | apply State.setPool_sound | apply State.wakeAll_sound | lift_lets | split | dsimp only)

theorem State.recRead_sound {u₀ s : State} (h₀ : Sound u₀ s) (p : Nat) (i : Nat) : Sound u₀ (State.recRead s p i) := by
  unfold State.recRead
  with_reducible repeat' (first | assumption | apply Sound.refl | apply Sound.ite | apply State.bufWithdraw_sound | apply State.noteFault_sound | split | dsimp only)

theorem State.addHold_sound {u₀ s : State} (h₀ : Sound u₀ s) (h : W32) (a : Nat) (n : Nat) : Sound u₀ (State.addHold s h a n) := by
  unfold State.addHold
  with_reducible repeat' (first | assumption | apply Sound.refl | (intro x; refine Sound.via (t := x) ?_ (fun hx => ?_); on_goal 2 => clear_value x) | (intro x; clear_value x) | intro _ | apply Sound.ite | apply State.event_sound | apply State.satF_sound | apply State.setHbuf_sound | lift_lets | split | dsimp only)

theorem State.bufTake_sound {u₀ s : State} (h₀ : Sound u₀ s) (a : Nat) (p : Nat) (i : Nat) (holds : List (Nat × Nat)) : Sound u₀ (State.bufTake s a p i holds) := by
  unfold State.bufTake
  with_reducible repeat' (first | assumption | apply Sound.refl | (intro x; refine Sound.via (t := x) ?_ (fun hx => ?_); on_goal 2 => clear_value x) | (intro x; refine Sound.via (t := x.1) ?_ (fun hx => ?_); on_goal 2 => clear_value x) | (intro x; clear_value x) | intro _ | apply Sound.ite | apply State.addHold_sound | apply State.inc_sound | apply State.poolMin_sound | apply State.setBuf_sound | apply State.setPool_sound | apply Sound.each | lift_lets | split | dsimp only)

theorem State.poolServe_sound {u₀ s : State} (h₀ : Sound u₀ s) (a : Nat) (p : Nat) (holds : List (Nat × Nat)) (y0 : Nat) : Sound u₀ (State.poolServe s a p holds y0).1 := by
  induction y0 generalizing s a p holds with
  | zero =>
    unfold State.poolServe
    with_reducible repeat' (first | assumption | apply Sound.refl | (intro x; refine Sound.via (t := x) ?_ (fun hx => ?_); on_goal 2 => clear_value x) | (intro x; refine Sound.via (t := x.1) ?_ (fun hx => ?_); on_goal 2 => clear_value x) | (intro x; clear_value x) | intro _ | apply Sound.ite | apply ih | apply State.bufTake_sound | apply State.recRead_sound | lift_lets | split | dsimp only)
  | succ k ih =>
    unfold State.poolServe
    with_reducible repeat' (first | assumption | apply Sound.refl | (intro x; refine Sound.via (t := x) ?_ (fun hx => ?_); on_goal 2 => clear_value x) | (intro x; refine Sound.via (t := x.1) ?_ (fun hx => ?_); on_goal 2 => clear_value x) | (intro x; clear_value x) | intro _ | apply Sound.ite | apply ih | apply State.bufTake_sound | apply State.recRead_sound | lift_lets | split | dsimp only)

theorem State.poolNone_sound {u₀ s : State} (h₀ : Sound u₀ s) (p : Nat) : Sound u₀ (State.poolNone s p) := by
  unfold State.poolNone
  with_reducible repeat' (first | assumption | apply Sound.refl | apply State.event_sound | apply State.satF_sound)

theorem State.poolAlloc_sound {u₀ s : State} (h₀ : Sound u₀ s) (a : Nat) (p : Nat) (holds : List (Nat × Nat)) : Sound u₀ (State.poolAlloc s a p holds).1 := by
  unfold State.poolAlloc
  with_reducible repeat' (first | assumption | apply Sound.refl | (intro x; refine Sound.via (t := x) ?_ (fun hx => ?_); on_goal 2 => clear_value x) | (intro x; refine Sound.via (t := x.1) ?_ (fun hx => ?_); on_goal 2 => clear_value x) | (intro x; clear_value x) | intro _ | apply Sound.ite | apply State.poolError_sound | apply State.poolNone_sound | apply State.poolServe_sound | lift_lets | split | dsimp only)

theorem State.poolAddref_sound {u₀ s : State} (h₀ : Sound u₀ s) (a : Nat) (h : W32) : Sound u₀ (State.poolAddref s a h).1 := by
  unfold State.poolAddref
  with_reducible repeat' (first | assumption | apply Sound.refl | (intro x; refine Sound.via (t := x) ?_ (fun hx => ?_); on_goal 2 => clear_value x) | (intro x; refine Sound.via (t := x.1) ?_ (fun hx => ?_); on_goal 2 => clear_value x) | (intro x; clear_value x) | intro _ | apply Sound.ite | apply State.addHold_sound | apply State.poolError_sound | apply State.recRead_sound | apply State.setHbuf_sound | lift_lets | split | dsimp only)

theorem State.poolReleaseAs_sound {u₀ s : State} (h₀ : Sound u₀ s) (op : Nat) (a : Nat) (h : W32) : Sound u₀ (State.poolReleaseAs s op a h).1 := by
  unfold State.poolReleaseAs
  with_reducible repeat' (first | assumption | apply Sound.refl | (intro x; refine Sound.via (t := x) ?_ (fun hx => ?_); on_goal 2 => clear_value x) | (intro x; refine Sound.via (t := x.1) ?_ (fun hx => ?_); on_goal 2 => clear_value x) | (intro x; clear_value x) | intro _ | apply Sound.ite | apply State.bufFree_sound | apply State.poolError_sound | apply State.recRead_sound | apply State.setHbuf_sound | lift_lets | split | dsimp only)

theorem State.poolRelease_sound {u₀ s : State} (h₀ : Sound u₀ s) (a : Nat) (h : W32) : Sound u₀ (State.poolRelease s a h).1 := by
  unfold State.poolRelease
  with_reducible repeat' (first | assumption | apply Sound.refl | apply State.poolReleaseAs_sound)

theorem State.poolTransfer_sound {u₀ s : State} (h₀ : Sound u₀ s) (a : Nat) (h : W32) (dst : Nat) : Sound u₀ (State.poolTransfer s a h dst).1 := by
  unfold State.poolTransfer
  with_reducible repeat' (first | assumption | apply Sound.refl | (intro x; refine Sound.via (t := x) ?_ (fun hx => ?_); on_goal 2 => clear_value x) | (intro x; refine Sound.via (t := x.1) ?_ (fun hx => ?_); on_goal 2 => clear_value x) | (intro x; clear_value x) | intro _ | apply Sound.ite | apply State.addHold_sound | apply State.linesDone_sound | apply State.poolError_sound | apply State.recRead_sound | apply State.setHbuf_sound | lift_lets | split | dsimp only)

theorem State.poolFreeOp_sound {u₀ s : State} (h₀ : Sound u₀ s) (a : Nat) (h : W32) : Sound u₀ (State.poolFreeOp s a h).1 := by
  unfold State.poolFreeOp
  with_reducible repeat' (first | assumption | apply Sound.refl | (intro x; refine Sound.via (t := x) ?_ (fun hx => ?_); on_goal 2 => clear_value x) | (intro x; refine Sound.via (t := x.1) ?_ (fun hx => ?_); on_goal 2 => clear_value x) | (intro x; clear_value x) | intro _ | apply Sound.ite | apply State.bufFree_sound | apply State.poolError_sound | apply State.poolReleaseAs_sound | apply State.recRead_sound | apply State.setHbuf_sound | lift_lets | split | dsimp only)

theorem State.bufReclaim_sound {u₀ s : State} (h₀ : Sound u₀ s) (victim : Nat) (borrows : Bool) (k : Nat) : Sound u₀ (State.bufReclaim s victim borrows k).1 := by
  unfold State.bufReclaim
  with_reducible repeat' (first | assumption | apply Sound.refl | (intro x; refine Sound.via (t := x) ?_ (fun hx => ?_); on_goal 2 => clear_value x) | (intro x; refine Sound.via (t := x.1) ?_ (fun hx => ?_); on_goal 2 => clear_value x) | (intro x; clear_value x) | intro _ | apply Sound.ite | apply State.bufFree_sound | apply State.setBuf_sound | lift_lets | split | dsimp only)

theorem State.reclaimKeys_sound {u₀ s : State} (h₀ : Sound u₀ s) (victim : Nat) (borrows : Bool) (ks : List Nat) : Sound u₀ (s.reclaimKeys victim borrows ks).1 := by
  exact Sound.foldlPair (p := (s, 0)) h₀ _ _ fun h _ => State.bufReclaim_sound h _ _ _

theorem State.releaseAgent_sound {u₀ s : State} (h₀ : Sound u₀ s) (a : Nat) : Sound u₀ (State.releaseAgent s a) := by
  unfold State.releaseAgent
  with_reducible repeat' (first | assumption | apply Sound.refl | (intro x; refine Sound.via (t := x) ?_ (fun hx => ?_); on_goal 2 => clear_value x) | (intro x; refine Sound.via (t := x.1) ?_ (fun hx => ?_); on_goal 2 => clear_value x) | (intro x; clear_value x) | intro _ | apply Sound.ite | apply State.reclaimKeys_sound | lift_lets | split | dsimp only | apply Sound.record)

theorem State.linesDone_sound {u₀ s : State} (h₀ : Sound u₀ s) (a : Nat) (h : W32) (lines : Nat) (complete : Bool) : Sound u₀ (State.linesDone s a h lines complete) := by
  unfold State.linesDone
  with_reducible repeat' (first | assumption | apply Sound.refl | (intro x; refine Sound.via (t := x) ?_ (fun hx => ?_); on_goal 2 => clear_value x) | (intro x; refine Sound.via (t := x.1) ?_ (fun hx => ?_); on_goal 2 => clear_value x) | (intro x; clear_value x) | intro _ | apply Sound.ite | apply State.poolError_sound | apply State.recRead_sound | apply State.setHbuf_sound | apply State.wakeOut_sound | lift_lets | split | dsimp only)

theorem State.subscribe_sound {u₀ s : State} (h₀ : Sound u₀ s) (a : Nat) (h : W32) (y : Nat) : Sound u₀ (State.subscribe s a h y) := by
  unfold State.subscribe
  with_reducible repeat' (first | assumption | apply Sound.refl | (intro x; refine Sound.via (t := x) ?_ (fun hx => ?_); on_goal 2 => clear_value x) | (intro x; refine Sound.via (t := x.1) ?_ (fun hx => ?_); on_goal 2 => clear_value x) | (intro x; clear_value x) | intro _ | apply Sound.ite | apply State.linesDone_sound | apply State.setHbuf_sound | lift_lets | split | dsimp only)

/-! Rings -/

theorem State.setHead_sound {u₀ s : State} (h₀ : Sound u₀ s) (r : Nat) (i : Nat) : Sound u₀ (State.setHead s r i) := by
  unfold State.setHead
  with_reducible repeat' (first | assumption | apply Sound.refl | apply State.setReg_sound)

theorem State.ringBad_sound {u₀ s : State} (h₀ : Sound u₀ s) (r : Nat) : Sound u₀ (State.ringBad s r) := by
  unfold State.ringBad
  with_reducible repeat' (first | assumption | apply Sound.refl | apply State.event_sound | apply State.satF_sound)

theorem State.ringLast_sound {u₀ s : State} (h₀ : Sound u₀ s) (r : Nat) (i : Nat) (err : Nat) : Sound u₀ (State.ringLast s r i err) := by
  unfold State.ringLast
  with_reducible repeat' (first | assumption | apply Sound.refl | apply State.setReg_sound)

theorem State.unitWrite_sound {u₀ s : State} (h₀ : Sound u₀ s) (loc : Bool) (a : Nat) (bs : List Byte) : Sound u₀ (State.unitWrite s loc a bs) := by
  unfold State.unitWrite
  with_reducible repeat' (first | assumption | apply Sound.refl | apply Sound.ite | apply State.hbmWrite_sound | apply State.hostWrite_sound | split | dsimp only)

theorem State.recordWrite_sound {u₀ s : State} (h₀ : Sound u₀ s) (loc : Bool) (a : Nat) (bs : List Byte) : Sound u₀ (State.recordWrite s loc a bs) := by
  unfold State.recordWrite
  with_reducible repeat' (first | assumption | apply Sound.refl | apply State.unitWrite_sound)

theorem State.writeStatus_sound {u₀ s : State} (h₀ : Sound u₀ s) (j : JobRef) (bs : List Byte) : Sound u₀ (State.writeStatus s j bs) := by
  unfold State.writeStatus
  with_reducible repeat' (first | assumption | apply Sound.refl | (intro x; refine Sound.via (t := x) ?_ (fun hx => ?_); on_goal 2 => clear_value x) | (intro x; refine Sound.via (t := x.1) ?_ (fun hx => ?_); on_goal 2 => clear_value x) | (intro x; clear_value x) | intro _ | apply Sound.ite | apply State.linkUp_sound | apply State.recordWrite_sound | apply State.ringBad_sound | apply State.ringCompletion_sound | apply State.setRing_sound | lift_lets | split | dsimp only)

theorem State.finishJob_sound {u₀ s : State} (h₀ : Sound u₀ s) (j : JobRef) (flags : Nat) (body : List (Nat × List Byte)) (code : Nat) : Sound u₀ (State.finishJob s j flags body code) := by
  unfold State.finishJob
  with_reducible repeat' (first | assumption | apply Sound.refl | (intro x; refine Sound.via (t := x) ?_ (fun hx => ?_); on_goal 2 => clear_value x) | (intro x; clear_value x) | intro _ | apply Sound.ite | apply State.setRing_sound | apply State.writeStatus_sound | lift_lets | split | dsimp only)

theorem State.flushHeld_sound {u₀ s : State} (h₀ : Sound u₀ s) (r : Nat) : Sound u₀ (State.flushHeld s r) := by
  unfold State.flushHeld
  with_reducible repeat' (first | assumption | apply Sound.refl | (intro x; refine Sound.via (t := x) ?_ (fun hx => ?_); on_goal 2 => clear_value x) | (intro x; clear_value x) | intro _ | apply State.setRing_sound | apply State.writeStatus_sound | apply Sound.each | lift_lets | dsimp only)

theorem State.statusRing_sound {u₀ s : State} (h₀ : Sound u₀ s) (r : Nat) (bs : Bool → List Byte) : Sound u₀ (State.statusRing s r bs) := by
  unfold State.statusRing
  with_reducible repeat' (first | assumption | apply Sound.refl | (intro x; refine Sound.via (t := x) ?_ (fun hx => ?_); on_goal 2 => clear_value x) | (intro x; clear_value x) | intro _ | apply Sound.ite | apply State.event_sound | apply State.recordWrite_sound | apply State.ringCompletion_sound | apply State.satF_sound | apply State.setHead_sound | apply State.setRing_sound | lift_lets | split | dsimp only)

theorem State.takeJob_sound {u₀ s : State} (h₀ : Sound u₀ s) (r : Nat) (j : JobRef) : Sound u₀ (State.takeJob s r j) := by
  unfold State.takeJob
  with_reducible repeat' (first | assumption | apply Sound.refl | (intro x; refine Sound.via (t := x) ?_ (fun hx => ?_); on_goal 2 => clear_value x) | (intro x; clear_value x) | intro _ | apply Sound.ite | apply State.hbmRead_sound | apply State.setHead_sound | apply State.setRing_sound | lift_lets | split | dsimp only)

theorem State.jobLatch_sound {u₀ s : State} (h₀ : Sound u₀ s) (n : Nat) : Sound u₀ (State.jobLatch s n) := by
  unfold State.jobLatch
  with_reducible repeat' (first | assumption | apply Sound.refl | (intro x; refine Sound.via (t := x) ?_ (fun hx => ?_); on_goal 2 => clear_value x) | (intro x; clear_value x) | intro _ | apply State.latch_sound | apply Sound.each | lift_lets | dsimp only)

theorem State.withJob_sound {u₀ s : State} (h₀ : Sound u₀ s) (r : Nat) (typ : Nat) (pick : List Byte → Bool) (f : State → JobRef → List Byte → State) (h_f : ∀ {a b : State}, Sound a b → ∀ x1 x2, Sound a (f b x1 x2)) : Sound u₀ (State.withJob s r typ pick f) := by
  unfold State.withJob
  with_reducible repeat' (first | assumption | apply Sound.refl | (intro x; refine Sound.via (t := x) ?_ (fun hx => ?_); on_goal 2 => clear_value x) | (intro x; clear_value x) | intro _ | apply Sound.ite | apply h_f | apply State.finishJob_sound | apply State.jobLatch_sound | apply State.takeJob_sound | lift_lets | split | dsimp only)

theorem State.ltrUpdate_sound {u₀ s : State} (h₀ : Sound u₀ s) : Sound u₀ (State.ltrUpdate s) := by
  unfold State.ltrUpdate
  with_reducible repeat' (first | assumption | apply Sound.refl | intro _ | apply Sound.ite | apply State.emit_sound | apply State.linkUp_sound | apply State.whenB_sound | split | dsimp only | apply Sound.record)

/-! Pools -/

theorem State.reconAnswer_sound {u₀ s : State} (h₀ : Sound u₀ s) (n : Nat) (h : Option W32) : Sound u₀ (State.reconAnswer s n h) := by
  unfold State.reconAnswer
  with_reducible repeat' (first | assumption | apply Sound.refl | (intro x; refine Sound.via (t := x) ?_ (fun hx => ?_); on_goal 2 => clear_value x) | (intro x; clear_value x) | intro _ | apply Sound.ite | apply State.setSess_sound | lift_lets | split | dsimp only)

theorem State.poolFinish_sound {u₀ s : State} (h₀ : Sound u₀ s) (j : JobRef) (h : W32) (x : PoolRes) : Sound u₀ (State.poolFinish s j h x) := by
  unfold State.poolFinish
  with_reducible repeat' (first | assumption | apply Sound.refl | apply Sound.ite | apply State.finishJob_sound | split | dsimp only)

theorem State.poolTell_sound {u₀ s : State} (h₀ : Sound u₀ s) (a : Nat) (x : PoolRes) : Sound u₀ (State.poolTell s a x) := by
  unfold State.poolTell
  with_reducible repeat' (first | assumption | apply Sound.refl | apply Sound.ite | apply State.emit_sound | apply State.poolError_sound | apply State.poolNone_sound | split | dsimp only)

theorem State.waiterNone_sound {u₀ s : State} (h₀ : Sound u₀ s) (p : Nat) (w : Waiter) : Sound u₀ (State.waiterNone s p w) := by
  unfold State.waiterNone
  with_reducible repeat' (first | assumption | apply Sound.refl | (intro x; refine Sound.via (t := x) ?_ (fun hx => ?_); on_goal 2 => clear_value x) | (intro x; refine Sound.via (t := x.1) ?_ (fun hx => ?_); on_goal 2 => clear_value x) | (intro x; clear_value x) | intro _ | apply Sound.ite | apply State.poolFinish_sound | apply State.poolNone_sound | apply State.poolTell_sound | apply State.reconAnswer_sound | lift_lets | split | dsimp only)

theorem State.waitersNone_sound {u₀ s : State} (h₀ : Sound u₀ s) (p : Nat) : Sound u₀ (State.waitersNone s p) := by
  unfold State.waitersNone
  with_reducible repeat' (first | assumption | apply Sound.refl | (intro x; refine Sound.via (t := x) ?_ (fun hx => ?_); on_goal 2 => clear_value x) | (intro x; clear_value x) | intro _ | apply State.setPool_sound | apply State.waiterNone_sound | apply Sound.each | lift_lets | dsimp only)

theorem State.poolBlocking_sound {u₀ s : State} (h₀ : Sound u₀ s) (w : Waiter) (p : Nat) : Sound u₀ (State.poolBlocking s w p).1 := by
  unfold State.poolBlocking
  with_reducible repeat' (first | assumption | apply Sound.refl | (intro x; refine Sound.via (t := x) ?_ (fun hx => ?_); on_goal 2 => clear_value x) | (intro x; refine Sound.via (t := x.1) ?_ (fun hx => ?_); on_goal 2 => clear_value x) | (intro x; clear_value x) | intro _ | apply Sound.ite | apply State.event_sound | apply State.poolAlloc_sound | apply State.poolNone_sound | apply State.setPool_sound | lift_lets | split | dsimp only)

theorem State.waiterServe_sound {u₀ s : State} (h₀ : Sound u₀ s) (p : Nat) : Sound u₀ (State.waiterServe s p) := by
  unfold State.waiterServe
  with_reducible repeat' (first | assumption | apply Sound.refl | (intro x; refine Sound.via (t := x) ?_ (fun hx => ?_); on_goal 2 => clear_value x) | (intro x; refine Sound.via (t := x.1) ?_ (fun hx => ?_); on_goal 2 => clear_value x) | (intro x; clear_value x) | intro _ | apply Sound.ite | apply State.latch_sound | apply State.poolFinish_sound | apply State.poolServe_sound | apply State.poolTell_sound | apply State.reconAnswer_sound | apply State.setPool_sound | lift_lets | split | dsimp only)

theorem State.poolStart_sound {u₀ s : State} (h₀ : Sound u₀ s) (p : Nat) : Sound u₀ (State.poolStart s p) := by
  unfold State.poolStart
  with_reducible repeat' (first | assumption | apply Sound.refl | (intro x; refine Sound.via (t := x) ?_ (fun hx => ?_); on_goal 2 => clear_value x) | (intro x; refine Sound.via (t := x.1) ?_ (fun hx => ?_); on_goal 2 => clear_value x) | (intro x; clear_value x) | intro _ | apply Sound.ite | apply State.event_sound | apply State.setB_sound | apply State.setF_sound | apply State.setPool_sound | lift_lets | split | dsimp only | apply Sound.record)

theorem State.poolStopDrain_sound {u₀ s : State} (h₀ : Sound u₀ s) (p : Nat) : Sound u₀ (State.poolStopDrain s p) := by
  unfold State.poolStopDrain
  with_reducible repeat' (first | assumption | apply Sound.refl | (intro x; refine Sound.via (t := x) ?_ (fun hx => ?_); on_goal 2 => clear_value x) | (intro x; clear_value x) | intro _ | apply State.poolSettle_sound | apply State.setB_sound | apply State.setPool_sound | apply State.waitersNone_sound | lift_lets | dsimp only | apply Sound.record)

theorem State.poolStopAbort_sound {u₀ s : State} (h₀ : Sound u₀ s) (p : Nat) : Sound u₀ (State.poolStopAbort s p) := by
  unfold State.poolStopAbort
  with_reducible repeat' (first | assumption | apply Sound.refl | (intro x; refine Sound.via (t := x) ?_ (fun hx => ?_); on_goal 2 => clear_value x) | (intro x; clear_value x) | intro _ | apply State.bufFree_sound | apply State.poolSettle_sound | apply State.setB_sound | apply State.setPool_sound | apply State.waitersNone_sound | apply Sound.each | lift_lets | dsimp only | apply Sound.record)

theorem State.poolStop_sound {u₀ s : State} (h₀ : Sound u₀ s) (p : Nat) (abort : Bool) : Sound u₀ (State.poolStop s p abort) := by
  unfold State.poolStop
  with_reducible repeat' (first | assumption | apply Sound.refl | (intro x; refine Sound.via (t := x) ?_ (fun hx => ?_); on_goal 2 => clear_value x) | (intro x; clear_value x) | intro _ | apply Sound.ite | apply State.poolStopAbort_sound | apply State.poolStopDrain_sound | apply State.setB_sound | lift_lets | split | dsimp only)

theorem State.poolCfgWrite_sound {u₀ s : State} (h₀ : Sound u₀ s) (p : Nat) (v : W32) : Sound u₀ (State.poolCfgWrite s p v) := by
  unfold State.poolCfgWrite
  with_reducible repeat' (first | assumption | apply Sound.refl | (intro x; refine Sound.via (t := x) ?_ (fun hx => ?_); on_goal 2 => clear_value x) | (intro x; clear_value x) | intro _ | apply Sound.ite | apply State.poolStart_sound | apply State.poolStop_sound | apply State.setB_sound | apply State.setF_sound | lift_lets | split | dsimp only)

theorem State.poolMgrReset_sound {u₀ s : State} (h₀ : Sound u₀ s) : Sound u₀ (State.poolMgrReset s) := by
  unfold State.poolMgrReset
  with_reducible repeat' (first | assumption | apply Sound.refl | (intro x; refine Sound.via (t := x) ?_ (fun hx => ?_); on_goal 2 => clear_value x) | (intro x; refine Sound.via (t := x.1) ?_ (fun hx => ?_); on_goal 2 => clear_value x) | (intro x; clear_value x) | intro _ | apply Sound.ite | apply State.clearRegs_sound | apply State.poolStopAbort_sound | apply Sound.each | lift_lets | split | dsimp only | apply Sound.record)

theorem State.scanEnd_sound {u₀ s : State} (h₀ : Sound u₀ s) (p : Nat) : Sound u₀ (State.scanEnd s p) := by
  unfold State.scanEnd
  with_reducible repeat' (first | assumption | apply Sound.refl | (intro x; refine Sound.via (t := x) ?_ (fun hx => ?_); on_goal 2 => clear_value x) | (intro x; refine Sound.via (t := x.1) ?_ (fun hx => ?_); on_goal 2 => clear_value x) | (intro x; clear_value x) | intro _ | apply Sound.ite | apply State.event_sound | apply State.finishJob_sound | apply State.reclaimKeys_sound | apply State.setPool_sound | lift_lets | split | dsimp only)

theorem State.scanStart_sound {u₀ s : State} (h₀ : Sound u₀ s) (a : Nat) (p : Nat) (victim : Nat) (job : Option JobRef) : Sound u₀ (State.scanStart s a p victim job) := by
  unfold State.scanStart
  with_reducible repeat' (first | assumption | apply Sound.refl | (intro x; refine Sound.via (t := x) ?_ (fun hx => ?_); on_goal 2 => clear_value x) | (intro x; refine Sound.via (t := x.1) ?_ (fun hx => ?_); on_goal 2 => clear_value x) | (intro x; clear_value x) | intro _ | apply Sound.ite | apply State.poolError_sound | apply State.poolFinish_sound | apply State.poolTell_sound | apply State.scanEnd_sound | apply State.setPool_sound | lift_lets | split | dsimp only)

theorem State.poolFor_sound {u₀ s : State} (h₀ : Sound u₀ s) (a : Nat) (f : State → State) (h_f : ∀ {a b : State}, Sound a b → Sound a (f b )) : Sound u₀ (State.poolFor s a f) := by
  unfold State.poolFor
  with_reducible repeat' (first | assumption | apply Sound.refl | apply Sound.ite | apply h_f | apply State.emit_sound | apply State.quiet_sound | split | dsimp only)

theorem State.poolJob_sound {u₀ s : State} (h₀ : Sound u₀ s) (r : Nat) (op : Nat) (f : State → JobRef → List Byte → State) (h_f : ∀ {a b : State}, Sound a b → ∀ x1 x2, Sound a (f b x1 x2)) : Sound u₀ (State.poolJob s r op f) := by
  unfold State.poolJob
  with_reducible repeat' (first | assumption | apply Sound.refl | intro _ | apply Sound.ite | apply h_f | apply State.finishJob_sound | apply State.withJob_sound | split | dsimp only)

theorem State.poolOnHandle_sound {u₀ s : State} (h₀ : Sound u₀ s) (op : Nat) (src : PoolSrc) (h : W32) (dst : Nat) (f : State → Nat → W32 → Nat → State × PoolRes) (h_f : ∀ {a b : State}, Sound a b → ∀ x1 x2 x3, Sound a (f b x1 x2 x3).1) : Sound u₀ (State.poolOnHandle s op src h dst f) := by
  unfold State.poolOnHandle
  with_reducible repeat' (first | assumption | apply Sound.refl | (intro x; refine Sound.via (t := x) ?_ (fun hx => ?_); on_goal 2 => clear_value x) | (intro x; refine Sound.via (t := x.1) ?_ (fun hx => ?_); on_goal 2 => clear_value x) | (intro x; clear_value x) | intro _ | apply Sound.ite | apply h_f | apply State.poolFinish_sound | apply State.poolFor_sound | apply State.poolJob_sound | apply State.poolTell_sound | lift_lets | split | dsimp only)

/-! Jobs -/

theorem State.tailWrite_sound {u₀ s : State} (h₀ : Sound u₀ s) (r : Nat) (v : W32) : Sound u₀ (State.tailWrite s r v) := by
  unfold State.tailWrite
  with_reducible repeat' (first | assumption | apply Sound.refl | apply State.setReg_sound)

theorem State.icUnroute_sound {u₀ s : State} (h₀ : Sound u₀ s) (r : Nat) : Sound u₀ (State.icUnroute s r) := by
  unfold State.icUnroute
  with_reducible repeat' (first | assumption | apply Sound.refl | (intro x; refine Sound.via (t := x) ?_ (fun hx => ?_); on_goal 2 => clear_value x) | (intro x; clear_value x) | intro _ | apply Sound.ite | apply State.setB_sound | apply State.setReg_sound | apply Sound.each | lift_lets | split | dsimp only)

theorem State.ownerWrite_sound {u₀ s : State} (h₀ : Sound u₀ s) (who : Who) (r : Nat) (o : Nat) : Sound u₀ (State.ownerWrite s who r o) := by
  unfold State.ownerWrite
  with_reducible repeat' (first | assumption | apply Sound.refl | (intro x; refine Sound.via (t := x) ?_ (fun hx => ?_); on_goal 2 => clear_value x) | (intro x; clear_value x) | intro _ | apply Sound.ite | apply State.icUnroute_sound | apply State.modClear_sound | apply State.setF_sound | lift_lets | split | dsimp only)

theorem State.entryBad_sound {u₀ s : State} (h₀ : Sound u₀ s) (r : Nat) (i : Nat) (err : Nat) : Sound u₀ (State.entryBad s r i err) := by
  unfold State.entryBad
  with_reducible repeat' (first | assumption | apply Sound.refl | (intro x; refine Sound.via (t := x) ?_ (fun hx => ?_); on_goal 2 => clear_value x) | (intro x; clear_value x) | intro _ | apply Sound.ite | apply State.ringBad_sound | apply State.ringLast_sound | apply State.satF_sound | lift_lets | split | dsimp only)

theorem State.abortWaiters_sound {u₀ s : State} (h₀ : Sound u₀ s) (r : Nat) : Sound u₀ (State.abortWaiters s r) := by
  unfold State.abortWaiters
  with_reducible repeat' (first | assumption | apply Sound.refl | (intro x; refine Sound.via (t := x) ?_ (fun hx => ?_); on_goal 2 => clear_value x) | (intro x; clear_value x) | intro _ | apply Sound.ite | apply State.finishJob_sound | apply State.setPool_sound | apply Sound.each | apply Sound.elim | lift_lets | split | dsimp only)

theorem State.abortJobs_sound {u₀ s : State} (h₀ : Sound u₀ s) (r : Nat) (y0 : Nat) : Sound u₀ (State.abortJobs s r y0) := by
  induction y0 generalizing s r with
  | zero =>
    unfold State.abortJobs
    with_reducible repeat' (first | assumption | apply Sound.refl | (intro x; refine Sound.via (t := x) ?_ (fun hx => ?_); on_goal 2 => clear_value x) | (intro x; clear_value x) | intro _ | apply Sound.ite | apply ih | apply State.entryBad_sound | apply State.finishJob_sound | apply State.setHead_sound | apply State.takeJob_sound | lift_lets | split | dsimp only)
  | succ k ih =>
    unfold State.abortJobs
    with_reducible repeat' (first | assumption | apply Sound.refl | (intro x; refine Sound.via (t := x) ?_ (fun hx => ?_); on_goal 2 => clear_value x) | (intro x; clear_value x) | intro _ | apply Sound.ite | apply ih | apply State.entryBad_sound | apply State.finishJob_sound | apply State.setHead_sound | apply State.takeJob_sound | lift_lets | split | dsimp only)

theorem State.sliceDropped_sound {u₀ s : State} (h₀ : Sound u₀ s) (r : Nat) : Sound u₀ (State.sliceDropped s r) := by
  unfold State.sliceDropped
  with_reducible repeat' (first | assumption | apply Sound.refl | apply State.event_sound | apply State.satF_sound | apply State.setRing_sound)

/-! FabBase -/

theorem State.portPump_sound {u₀ s : State} (h₀ : Sound u₀ s) (n : Nat) (y0 : Nat) : Sound u₀ (State.portPump s n y0) := by
  induction y0 generalizing s n with
  | zero =>
    unfold State.portPump
    with_reducible repeat' (first | assumption | apply Sound.refl | (intro x; refine Sound.via (t := x) ?_ (fun hx => ?_); on_goal 2 => clear_value x) | (intro x; refine Sound.via (t := x.1) ?_ (fun hx => ?_); on_goal 2 => clear_value x) | (intro x; clear_value x) | intro _ | apply Sound.ite | apply ih | apply State.emit_sound | apply State.inc_sound | apply State.setF_sound | apply State.setPort_sound | lift_lets | split | dsimp only)
  | succ k ih =>
    unfold State.portPump
    with_reducible repeat' (first | assumption | apply Sound.refl | (intro x; refine Sound.via (t := x) ?_ (fun hx => ?_); on_goal 2 => clear_value x) | (intro x; refine Sound.via (t := x.1) ?_ (fun hx => ?_); on_goal 2 => clear_value x) | (intro x; clear_value x) | intro _ | apply Sound.ite | apply ih | apply State.emit_sound | apply State.inc_sound | apply State.setF_sound | apply State.setPort_sound | lift_lets | split | dsimp only)

theorem State.portSend_sound {u₀ s : State} (h₀ : Sound u₀ s) (n : Nat) (h : FabHeader) (payload : List Byte) : Sound u₀ (State.portSend s n h payload) := by
  unfold State.portSend
  with_reducible repeat' (first | assumption | apply Sound.refl | (intro x; refine Sound.via (t := x) ?_ (fun hx => ?_); on_goal 2 => clear_value x) | (intro x; refine Sound.via (t := x.1) ?_ (fun hx => ?_); on_goal 2 => clear_value x) | (intro x; clear_value x) | intro _ | apply State.portPump_sound | apply State.setPort_sound | lift_lets | dsimp only)

theorem State.noRoute_sound {u₀ s : State} (h₀ : Sound u₀ s) : Sound u₀ (State.noRoute s) := by
  unfold State.noRoute
  with_reducible repeat' (first | assumption | apply Sound.refl | apply State.event_sound | apply State.satF_sound)

theorem State.fabOut_sound {u₀ s : State} (h₀ : Sound u₀ s) (h : FabHeader) (payload : List Byte) : Sound u₀ (State.fabOut s h payload) := by
  unfold State.fabOut
  with_reducible repeat' (first | assumption | apply Sound.refl | apply Sound.ite | apply State.noRoute_sound | apply State.portSend_sound | split | dsimp only)

theorem State.espOut_sound {u₀ s : State} (h₀ : Sound u₀ s) (node : Nat) (vc : Nat) (alt : Bool) (o : Output) : Sound u₀ (State.espOut s node vc alt o) := by
  unfold State.espOut
  with_reducible repeat' (first | assumption | apply Sound.refl | apply Sound.ite | apply State.emit_sound | apply State.noRoute_sound | split | dsimp only)

theorem State.setDesc_sound {u₀ s : State} (h₀ : Sound u₀ s) (r : Nat) (d : Desc) : Sound u₀ (State.setDesc s r d) := by
  unfold State.setDesc
  with_reducible repeat' (first | assumption | apply Sound.refl | intro _ | apply State.setRing_sound | dsimp only)

theorem State.remoteFail_sound {u₀ s : State} (h₀ : Sound u₀ s) (r : Remote) (resp : Resp) : Sound u₀ (State.remoteFail s r resp) := by
  unfold State.remoteFail
  with_reducible repeat' (first | assumption | apply Sound.refl | (intro x; refine Sound.via (t := x) ?_ (fun hx => ?_); on_goal 2 => clear_value x) | (intro x; refine Sound.via (t := x.1) ?_ (fun hx => ?_); on_goal 2 => clear_value x) | (intro x; clear_value x) | intro _ | apply Sound.ite | apply State.setChan_sound | apply State.setDesc_sound | apply State.setSeq_sound | lift_lets | split | dsimp only)

theorem State.remotesFail_sound {u₀ s : State} (h₀ : Sound u₀ s) (p : Remote → Bool) (resp : Resp) : Sound u₀ (State.remotesFail s p resp) := by
  unfold State.remotesFail
  with_reducible repeat' (first | assumption | apply Sound.refl | (intro x; refine Sound.via (t := x) ?_ (fun hx => ?_); on_goal 2 => clear_value x) | (intro x; clear_value x) | intro _ | apply State.remoteFail_sound | apply Sound.each | lift_lets | dsimp only | apply Sound.record)

theorem State.e2eOut_sound {u₀ s : State} (h₀ : Sound u₀ s) (h : FabHeader) (payload : List Byte) : Sound u₀ (State.e2eOut s h payload) := by
  unfold State.e2eOut
  with_reducible repeat' (first | assumption | apply Sound.refl | (intro x; refine Sound.via (t := x) ?_ (fun hx => ?_); on_goal 2 => clear_value x) | (intro x; clear_value x) | intro _ | apply Sound.ite | apply State.fabOut_sound | apply State.remotesFail_sound | lift_lets | split | dsimp only)

theorem State.e2ePush_sound {u₀ s : State} (h₀ : Sound u₀ s) (node : Nat) (vc : Nat) (h : FabHeader) (payload : List Byte) : Sound u₀ (State.e2ePush s node vc h payload) := by
  unfold State.e2ePush
  with_reducible repeat' (first | assumption | apply Sound.refl | (intro x; refine Sound.via (t := x) ?_ (fun hx => ?_); on_goal 2 => clear_value x) | (intro x; refine Sound.via (t := x.1) ?_ (fun hx => ?_); on_goal 2 => clear_value x) | (intro x; clear_value x) | intro _ | apply State.e2eOut_sound | apply State.setE2e_sound | lift_lets | dsimp only)

theorem State.e2eSend_sound {u₀ s : State} (h₀ : Sound u₀ s) (node : Nat) (vc : Nat) (h : FabHeader) (payload : List Byte) : Sound u₀ (State.e2eSend s node vc h payload) := by
  unfold State.e2eSend
  with_reducible repeat' (first | assumption | apply Sound.refl | (intro x; refine Sound.via (t := x) ?_ (fun hx => ?_); on_goal 2 => clear_value x) | (intro x; refine Sound.via (t := x.1) ?_ (fun hx => ?_); on_goal 2 => clear_value x) | (intro x; clear_value x) | intro _ | apply Sound.ite | apply State.e2ePush_sound | apply State.event_sound | apply State.setE2e_sound | lift_lets | split | dsimp only)

theorem State.e2ePump_sound {u₀ s : State} (h₀ : Sound u₀ s) (node : Nat) (vc : Nat) (y0 : Nat) : Sound u₀ (State.e2ePump s node vc y0) := by
  induction y0 generalizing s node vc with
  | zero =>
    unfold State.e2ePump
    with_reducible repeat' (first | assumption | apply Sound.refl | apply Sound.ite | apply ih | apply State.e2ePush_sound | apply State.setE2e_sound | split | dsimp only)
  | succ k ih =>
    unfold State.e2ePump
    with_reducible repeat' (first | assumption | apply Sound.refl | apply Sound.ite | apply ih | apply State.e2ePush_sound | apply State.setE2e_sound | split | dsimp only)

theorem State.remoteSend_sound {u₀ s : State} (h₀ : Sound u₀ s) (req : Requester) (typ : Nat) (node : Nat) (addr : Nat) (len : Nat) (pois : Bool) (payload : List Byte) : Sound u₀ (State.remoteSend s req typ node addr len pois payload) := by
  unfold State.remoteSend
  with_reducible repeat' (first | assumption | apply Sound.refl | (intro x; refine Sound.via (t := x) ?_ (fun hx => ?_); on_goal 2 => clear_value x) | (intro x; refine Sound.via (t := x.1) ?_ (fun hx => ?_); on_goal 2 => clear_value x) | (intro x; clear_value x) | intro _ | apply Sound.ite | apply State.e2eSend_sound | lift_lets | split | dsimp only | apply Sound.record)

theorem State.remoteRefused_sound {u₀ s : State} (h₀ : Sound u₀ s) (node : Nat) : Sound u₀ (State.remoteRefused s node) := by
  unfold State.remoteRefused
  with_reducible repeat' (first | assumption | apply Sound.refl | apply Sound.ite | apply State.noRoute_sound | split | dsimp only)

/-! DmaBase -/

theorem State.putCells_sound {u₀ s : State} (h₀ : Sound u₀ s) (cs : List (Nat × Byte × Bool)) : Sound u₀ (State.putCells s cs) := by
  unfold State.putCells
  with_reducible repeat' (first | assumption | apply Sound.refl | (intro x; refine Sound.via (t := x) ?_ (fun hx => ?_); on_goal 2 => clear_value x) | (intro x; refine Sound.via (t := x.1) ?_ (fun hx => ?_); on_goal 2 => clear_value x) | (intro x; clear_value x) | intro _ | apply Sound.ite | apply State.injectTake_sound | apply State.setHbmByte_sound | apply State.setPair_sound | apply State.setPoison_sound | apply Sound.each | lift_lets | split | dsimp only)

theorem State.putHost_sound {u₀ s : State} (h₀ : Sound u₀ s) (cs : List (Nat × Byte × Bool)) : Sound u₀ (State.putHost s cs) := by
  unfold State.putHost
  with_reducible repeat' (first | assumption | apply Sound.refl | intro _ | apply Sound.ite | apply State.hostWrite_sound | apply Sound.each | split | dsimp only)

theorem State.descPartial_sound {u₀ s : State} (h₀ : Sound u₀ s) (d : Desc) : Sound u₀ (State.descPartial s d) := by
  unfold State.descPartial
  with_reducible repeat' (first | assumption | apply Sound.refl | (intro x; refine Sound.via (t := x) ?_ (fun hx => ?_); on_goal 2 => clear_value x) | (intro x; refine Sound.via (t := x.1) ?_ (fun hx => ?_); on_goal 2 => clear_value x) | (intro x; clear_value x) | intro _ | apply Sound.ite | apply State.putCells_sound | apply State.putHost_sound | lift_lets | split | dsimp only | apply Sound.record)

theorem State.dctlWrite_sound {u₀ s : State} (h₀ : Sound u₀ s) (r : Nat) (d : Desc) (status : Nat) (err : Nat) : Sound u₀ (State.dctlWrite s r d status err).1 := by
  unfold State.dctlWrite
  with_reducible repeat' (first | assumption | apply Sound.refl | (intro x; refine Sound.via (t := x) ?_ (fun hx => ?_); on_goal 2 => clear_value x) | (intro x; refine Sound.via (t := x.1) ?_ (fun hx => ?_); on_goal 2 => clear_value x) | (intro x; clear_value x) | intro _ | apply Sound.ite | apply State.hbmWrite_sound | apply State.hostWrite_sound | apply State.linkUp_sound | lift_lets | split | dsimp only)

theorem State.dmaRetire_sound {u₀ s : State} (h₀ : Sound u₀ s) (r : Nat) (y0 : Nat) : Sound u₀ (State.dmaRetire s r y0) := by
  induction y0 generalizing s r with
  | zero =>
    unfold State.dmaRetire
    with_reducible repeat' (first | assumption | apply Sound.refl | (intro x; refine Sound.via (t := x) ?_ (fun hx => ?_); on_goal 2 => clear_value x) | (intro x; refine Sound.via (t := x.1) ?_ (fun hx => ?_); on_goal 2 => clear_value x) | (intro x; clear_value x) | intro _ | apply Sound.ite | apply ih | apply State.dctlWrite_sound | apply State.ringBad_sound | apply State.ringCompletion_sound | apply State.ringLast_sound | apply State.setHead_sound | apply State.setRing_sound | lift_lets | split | dsimp only)
  | succ k ih =>
    unfold State.dmaRetire
    with_reducible repeat' (first | assumption | apply Sound.refl | (intro x; refine Sound.via (t := x) ?_ (fun hx => ?_); on_goal 2 => clear_value x) | (intro x; refine Sound.via (t := x.1) ?_ (fun hx => ?_); on_goal 2 => clear_value x) | (intro x; clear_value x) | intro _ | apply Sound.ite | apply ih | apply State.dctlWrite_sound | apply State.ringBad_sound | apply State.ringCompletion_sound | apply State.ringLast_sound | apply State.setHead_sound | apply State.setRing_sound | lift_lets | split | dsimp only)

theorem State.dropRemotes_sound {u₀ s : State} (h₀ : Sound u₀ s) (p : Requester → Bool) : Sound u₀ (State.dropRemotes s p) := by
  unfold State.dropRemotes
  with_reducible repeat' (first | assumption | apply Sound.refl | intro _ | dsimp only | apply Sound.record)

theorem State.relSource_sound {u₀ s : State} (h₀ : Sound u₀ s) (r : Nat) (d : Desc) : Sound u₀ (State.relSource s r d) := by
  unfold State.relSource
  with_reducible repeat' (first | assumption | apply Sound.refl | apply Sound.ite | apply State.poolRelease_sound | split | dsimp only)

theorem State.descEnd_sound {u₀ s : State} (h₀ : Sound u₀ s) (r : Nat) (d : Desc) (status : Nat) (err : Nat) : Sound u₀ (State.descEnd s r d status err) := by
  unfold State.descEnd
  with_reducible repeat' (first | assumption | apply Sound.refl | (intro x; refine Sound.via (t := x) ?_ (fun hx => ?_); on_goal 2 => clear_value x) | (intro x; refine Sound.via (t := x.1) ?_ (fun hx => ?_); on_goal 2 => clear_value x) | (intro x; clear_value x) | intro _ | apply Sound.ite | apply State.dmaRetire_sound | apply State.dropRemotes_sound | apply State.entryBad_sound | apply State.event_sound | apply State.relSource_sound | apply State.setDesc_sound | lift_lets | split | dsimp only)

theorem State.cutDescs_sound {u₀ s : State} (h₀ : Sound u₀ s) (r : Nat) (status : Nat) (err : Nat) (p : Desc → Bool) : Sound u₀ (State.cutDescs s r status err p) := by
  unfold State.cutDescs
  with_reducible repeat' (first | assumption | apply Sound.refl | intro _ | apply Sound.ite | apply State.descEnd_sound | apply State.descPartial_sound | apply Sound.each | split | dsimp only)

theorem State.descUnread_sound {u₀ s : State} (h₀ : Sound u₀ s) (r : Nat) (i : Nat) (status : Nat) (err : Nat) : Sound u₀ (State.descUnread s r i status err) := by
  unfold State.descUnread
  with_reducible repeat' (first | assumption | apply Sound.refl | (intro x; refine Sound.via (t := x) ?_ (fun hx => ?_); on_goal 2 => clear_value x) | (intro x; refine Sound.via (t := x.1) ?_ (fun hx => ?_); on_goal 2 => clear_value x) | (intro x; clear_value x) | intro _ | apply Sound.ite | apply State.dmaRetire_sound | apply State.draw_sound | apply State.entryBad_sound | apply State.setRing_sound | lift_lets | split | dsimp only)

theorem State.abortRest_sound {u₀ s : State} (h₀ : Sound u₀ s) (r : Nat) (y0 : Nat) : Sound u₀ (State.abortRest s r y0) := by
  induction y0 generalizing s r with
  | zero =>
    unfold State.abortRest
    with_reducible repeat' (first | assumption | apply Sound.refl | (intro x; refine Sound.via (t := x) ?_ (fun hx => ?_); on_goal 2 => clear_value x) | (intro x; refine Sound.via (t := x.1) ?_ (fun hx => ?_); on_goal 2 => clear_value x) | intro _ | apply Sound.ite | apply ih | apply State.descEnd_sound | apply State.descUnread_sound | apply State.setRing_sound | lift_lets | split | dsimp only)
  | succ k ih =>
    unfold State.abortRest
    with_reducible repeat' (first | assumption | apply Sound.refl | (intro x; refine Sound.via (t := x) ?_ (fun hx => ?_); on_goal 2 => clear_value x) | (intro x; refine Sound.via (t := x.1) ?_ (fun hx => ?_); on_goal 2 => clear_value x) | intro _ | apply Sound.ite | apply ih | apply State.descEnd_sound | apply State.descUnread_sound | apply State.setRing_sound | lift_lets | split | dsimp only)

theorem State.abortDma_sound {u₀ s : State} (h₀ : Sound u₀ s) (r : Nat) : Sound u₀ (State.abortDma s r) := by
  unfold State.abortDma
  with_reducible repeat' (first | assumption | apply Sound.refl | intro _ | apply State.abortRest_sound | apply State.cutDescs_sound | dsimp only)

theorem State.ringAbortWork_sound {u₀ s : State} (h₀ : Sound u₀ s) (r : Nat) : Sound u₀ (State.ringAbortWork s r) := by
  unfold State.ringAbortWork
  with_reducible repeat' (first | assumption | apply Sound.refl | (intro x; refine Sound.via (t := x) ?_ (fun hx => ?_); on_goal 2 => clear_value x) | (intro x; clear_value x) | intro _ | apply Sound.ite | apply State.abortDma_sound | apply State.abortJobs_sound | apply State.abortWaiters_sound | apply State.setRing_sound | apply State.sliceDropped_sound | lift_lets | split | dsimp only)

theorem State.ringReset_sound {u₀ s : State} (h₀ : Sound u₀ s) (r : Nat) : Sound u₀ (State.ringReset s r) := by
  unfold State.ringReset
  with_reducible repeat' (first | assumption | apply Sound.refl | (intro x; refine Sound.via (t := x) ?_ (fun hx => ?_); on_goal 2 => clear_value x) | (intro x; refine Sound.via (t := x.1) ?_ (fun hx => ?_); on_goal 2 => clear_value x) | (intro x; clear_value x) | intro _ | apply Sound.ite | apply State.clearRegs_sound | apply State.descPartial_sound | apply State.dropRemotes_sound | apply State.relSource_sound | apply State.setBusy_sound | apply State.setDrain_sound | apply State.setRing_sound | apply State.sliceDropped_sound | apply Sound.each | lift_lets | split | dsimp only)

end Sys2Proof.Machine
end

