-- ==== Sys2Proof/Laws/SoundCodec.lean ====
section
/-! SUPPORT. The same of placement, sessions, encode, decode, slices and hedges. -/

set_option linter.unusedTactic false
set_option linter.unreachableTactic false

namespace Sys2Proof.Machine

/-! Place -/

theorem State.setRole_sound {u₀ s : State} (h₀ : Sound u₀ s) (h : Nat) (slot : Nat) (v : Nat) : Sound u₀ (State.setRole s h slot v) := by
  unfold State.setRole
  with_reducible repeat' (first | assumption | apply Sound.refl | apply State.setF_sound)

theorem State.loadUpdate_sound {u₀ s : State} (h₀ : Sound u₀ s) (h : Nat) : Sound u₀ (State.loadUpdate s h) := by
  unfold State.loadUpdate
  with_reducible repeat' (first | assumption | apply Sound.refl | apply State.setReg_sound)

theorem State.loadsUpdate_sound {u₀ s : State} (h₀ : Sound u₀ s) : Sound u₀ (State.loadsUpdate s) := by
  unfold State.loadsUpdate
  with_reducible repeat' (first | assumption | apply Sound.refl | intro _ | apply State.loadUpdate_sound | apply Sound.each | dsimp only)

theorem State.addPart_sound {u₀ s : State} (h₀ : Sound u₀ s) (n : Nat) (dec : Bool) (x : Nat × Nat × Nat) : Sound u₀ (State.addPart s n dec x) := by
  unfold State.addPart
  with_reducible repeat' (first | assumption | apply Sound.refl | (intro x; refine Sound.via (t := x) ?_ (fun hx => ?_); on_goal 2 => clear_value x) | (intro x; clear_value x) | intro _ | apply Sound.ite | apply State.setSess_sound | lift_lets | split | dsimp only)

theorem State.coreClock_sound {u₀ s : State} (h₀ : Sound u₀ s) (c : Nat) : Sound u₀ (State.coreClock s c) := by
  unfold State.coreClock
  with_reducible repeat' (first | assumption | apply Sound.refl | (intro x; refine Sound.via (t := x) ?_ (fun hx => ?_); on_goal 2 => clear_value x) | (intro x; refine Sound.via (t := x.1) ?_ (fun hx => ?_); on_goal 2 => clear_value x) | (intro x; clear_value x) | intro _ | apply Sound.ite | apply State.clearRegs_sound | apply State.setDomain_sound | lift_lets | split | dsimp only)

theorem State.coreClocks_sound {u₀ s : State} (h₀ : Sound u₀ s) : Sound u₀ (State.coreClocks s) := by
  unfold State.coreClocks
  with_reducible repeat' (first | assumption | apply Sound.refl | intro _ | apply State.coreClock_sound | apply Sound.each | dsimp only)

/-- Whatever state an option holds is as sound. -/
def SoundOpt (r : State) (o : Option State) : Prop := ∀ t, o = some t → Sound r t

theorem SoundOpt.none (r : State) : SoundOpt r none := fun _ h => nomatch h

theorem SoundOpt.some {r s : State} (h : Sound r s) : SoundOpt r (some s) := fun t e => by cases e; exact h

theorem SoundOpt.findSome {α : Type} {r : State} (f : α → Option State) (hf : ∀ a, SoundOpt r (f a)) (l : List α) : SoundOpt r (l.findSome? f) := by
  intro t h
  obtain ⟨a, _, ha⟩ := List.exists_of_findSome?_eq_some h
  exact hf a t ha

theorem SoundOpt.bind {r : State} {o : Option State} {f : State → Option State} (h : SoundOpt r o) (hf : ∀ {t}, Sound r t → SoundOpt r (f t)) : SoundOpt r (o.bind f) := by
  cases o with
  | none => exact SoundOpt.none r
  | some t => exact hf (h t rfl)

theorem State.giveShares_sound {u₀ s : State} (h₀ : Sound u₀ s) (n h p units : Nat) (k : Nat) : SoundOpt u₀ (s.giveShares n h p units k) := by
  induction k generalizing s with
  | zero => exact SoundOpt.some h₀
  | succ k ih =>
    unfold State.giveShares
    dsimp only
    split
    · exact SoundOpt.none u₀
    · exact ih (State.setSess_sound h₀ _ _)

theorem State.tryPinned_sound {u₀ s : State} (h₀ : Sound u₀ s) (n h cost l srcH : Nat) : SoundOpt u₀ (s.tryPinned n h cost l srcH) := by
  unfold State.tryPinned
  dsimp only
  split
  · exact SoundOpt.none u₀
  · exact State.giveShares_sound (State.setSess_sound h₀ _ _) _ _ _ _ _

theorem State.tryPooled_sound {u₀ s : State} (h₀ : Sound u₀ s) (n h : Nat) (dec : Bool) (p l w : Nat) : SoundOpt u₀ (s.tryPooled n h dec p l w) := by
  unfold State.tryPooled
  split
  · exact SoundOpt.some (State.addPart_sound h₀ _ _ _)
  · exact SoundOpt.none u₀

theorem State.trySplit_sound {u₀ s : State} (h₀ : Sound u₀ s) (n : Nat) (dec : Bool) (st : Stream) (cost cols : Nat) (hs : List Nat) : SoundOpt u₀ (s.trySplit n dec st cost cols hs) := by
  unfold State.trySplit
  dsimp only
  generalize hs.zip _ = l
  have h : SoundOpt u₀ (Option.some s) := SoundOpt.some h₀
  generalize Option.some s = o at h ⊢
  induction l generalizing o with
  | nil => exact h
  | cons e l ih =>
    refine ih _ ?_
    cases o with
    | none => exact SoundOpt.none u₀
    | some t =>
      dsimp only
      repeat' split
      all_goals first
        | exact SoundOpt.none u₀
        | exact State.tryPooled_sound (h t rfl) _ _ _ _ _ _

theorem State.placeSplit_sound {u₀ s : State} (h₀ : Sound u₀ s) (n : Nat) (dec : Bool) (st : Stream) (cost limit cols : Nat) : SoundOpt u₀ (s.placeSplit n dec st cost limit cols) := by
  unfold State.placeSplit
  dsimp only
  refine SoundOpt.findSome _ (fun k => ?_) _
  split
  · exact State.trySplit_sound h₀ _ _ _ _ _ _
  · exact SoundOpt.none u₀

theorem State.placeDec_sound {u₀ s : State} (h₀ : Sound u₀ s) (n : Nat) (order : List Nat) : SoundOpt u₀ (s.placeDec n order) := by
  unfold State.placeDec
  dsimp only
  split
  · next t h => exact SoundOpt.some (SoundOpt.findSome _ (fun _ => State.tryPooled_sound h₀ _ _ _ _ _ _) _ t h)
  · split
    · exact State.placeSplit_sound h₀ _ _ _ _ _ _
    · exact SoundOpt.none u₀

theorem State.placeEnc_sound {u₀ s : State} (h₀ : Sound u₀ s) (n : Nat) (inherit : Bool) (srcH w : Nat) (order : List Nat) : SoundOpt u₀ (s.placeEnc n inherit srcH w order) := by
  unfold State.placeEnc
  dsimp only
  split
  · exact SoundOpt.findSome _ (fun _ => State.tryPinned_sound h₀ _ _ _ _ _) _
  · split
    · next t h => exact SoundOpt.some (SoundOpt.findSome _ (fun _ => State.tryPooled_sound h₀ _ _ _ _ _ _) _ t h)
    · exact State.placeSplit_sound h₀ _ _ _ _ _ _

theorem State.place_sound {u₀ s : State} (h₀ : Sound u₀ s) (n : Nat) (inherit : Bool) (srcH w : Nat) (first : Option Nat) : SoundOpt u₀ (s.place n inherit srcH w first) := by
  unfold State.place
  dsimp only
  split
  · exact State.placeEnc_sound h₀ _ _ _ _ _
  · exact State.placeDec_sound h₀ _ _
  · split
    · next t h =>
      exact SoundOpt.some (SoundOpt.findSome _ (fun _ => SoundOpt.bind (State.placeDec_sound h₀ _ _) fun k => State.placeEnc_sound k _ _ _ _ _) _ t h)
    · exact SoundOpt.bind (State.placeDec_sound h₀ _ _) fun k => State.placeEnc_sound k _ _ _ _ _

/-! Open -/

theorem State.jobReadCount_sound {u₀ s : State} (h₀ : Sound u₀ s) (loc : Bool) (a : Nat) (n : Nat) : Sound u₀ (State.jobReadCount s loc a n) := by
  unfold State.jobReadCount
  with_reducible repeat' (first | assumption | apply Sound.refl | apply Sound.ite | apply State.hbmRead_sound | split | dsimp only)

theorem State.bindFlow_sound {u₀ s : State} (h₀ : Sound u₀ s) (f : Nat) (p : Option Nat) : Sound u₀ (State.bindFlow s f p) := by
  unfold State.bindFlow
  with_reducible repeat' (first | assumption | apply Sound.refl | apply State.setTxf_sound)

theorem State.espAdmit_sound {u₀ s : State} (h₀ : Sound u₀ s) (g : Nat) (m : Nat) : Sound u₀ (State.espAdmit s g m) := by
  unfold State.espAdmit
  with_reducible repeat' (first | assumption | apply Sound.refl | (intro x; refine Sound.via (t := x) ?_ (fun hx => ?_); on_goal 2 => clear_value x) | (intro x; clear_value x) | intro _ | apply Sound.ite | apply State.espOut_sound | apply State.event_sound | apply State.setB_sound | apply State.setEsp_sound | apply Sound.each | lift_lets | split | dsimp only)

theorem State.espJoinOwn_sound {u₀ s : State} (h₀ : Sound u₀ s) (n : Nat) : Sound u₀ (State.espJoinOwn s n) := by
  unfold State.espJoinOwn
  with_reducible repeat' (first | assumption | apply Sound.refl | (intro x; refine Sound.via (t := x) ?_ (fun hx => ?_); on_goal 2 => clear_value x) | (intro x; clear_value x) | intro _ | apply Sound.ite | apply State.espAdmit_sound | apply State.espJoin_sound | apply State.espOut_sound | apply State.setEsp_sound | apply State.setReg_sound | lift_lets | split | dsimp only)

theorem State.openCheck_sound {u₀ s t : State} (h₀ : Sound u₀ s) (n k : Nat) (d : List Byte) (h : s.openCheck n k d = .inl t) : Sound u₀ t := by
  unfold State.openCheck at h
  dsimp only at h
  repeat' split at h
  all_goals first
    | contradiction
    | (next hp => injection h with h; subst h; exact State.place_sound (State.setSess_sound h₀ _ _) _ _ _ _ _ _ hp)

/-! EncBase -/

theorem State.modSess_sound {u₀ s : State} (h₀ : Sound u₀ s) (n : Nat) (f : Sess → Sess) : Sound u₀ (State.modSess s n f) := by
  unfold State.modSess
  with_reducible repeat' (first | assumption | apply Sound.refl | apply State.setSess_sound)

theorem State.modPic_sound {u₀ s : State} (h₀ : Sound u₀ s) (n : Nat) (i : Nat) (f : EncPic → EncPic) : Sound u₀ (State.modPic s n i f) := by
  unfold State.modPic
  with_reducible repeat' (first | assumption | apply Sound.refl | intro _ | apply Sound.ite | apply State.modSess_sound | split | dsimp only)

theorem State.modJob_sound {u₀ s : State} (h₀ : Sound u₀ s) (n : Nat) (i : Nat) (k : Nat) (f : EncJob → EncJob) : Sound u₀ (State.modJob s n i k f) := by
  unfold State.modJob
  with_reducible repeat' (first | assumption | apply Sound.refl | intro _ | apply Sound.ite | apply State.modPic_sound | split | dsimp only)

theorem State.sessRelease_sound {u₀ s : State} (h₀ : Sound u₀ s) (n : Nat) (h : W32) : Sound u₀ (State.sessRelease s n h) := by
  unfold State.sessRelease
  with_reducible repeat' (first | assumption | apply Sound.refl | apply Sound.ite | apply State.poolRelease_sound | split | dsimp only)

theorem State.reconFree_sound {u₀ s : State} (h₀ : Sound u₀ s) (n : Nat) (h : W32) : Sound u₀ (State.reconFree s n h) := by
  unfold State.reconFree
  with_reducible repeat' (first | assumption | apply Sound.refl | apply Sound.ite | apply State.poolFreeOp_sound | split | dsimp only)

theorem State.picRelease_sound {u₀ s : State} (h₀ : Sound u₀ s) (n : Nat) (p : EncPic) : Sound u₀ (State.picRelease s n p) := by
  unfold State.picRelease
  with_reducible repeat' (first | assumption | apply Sound.refl | (intro x; refine Sound.via (t := x) ?_ (fun hx => ?_); on_goal 2 => clear_value x) | (intro x; clear_value x) | intro _ | apply Sound.ite | apply State.sessRelease_sound | lift_lets | split | dsimp only)

theorem State.picRecord_sound {u₀ s : State} (h₀ : Sound u₀ s) (n : Nat) (p : EncPic) : Sound u₀ (State.picRecord s n p) := by
  unfold State.picRecord
  with_reducible repeat' (first | assumption | apply Sound.refl | (intro x; refine Sound.via (t := x) ?_ (fun hx => ?_); on_goal 2 => clear_value x) | (intro x; clear_value x) | intro _ | apply Sound.ite | apply State.finishJob_sound | apply State.modSess_sound | apply State.statusRing_sound | apply Sound.each | lift_lets | split | dsimp only)

theorem State.picRetire_sound {u₀ s : State} (h₀ : Sound u₀ s) (n : Nat) (y0 : Nat) : Sound u₀ (State.picRetire s n y0) := by
  induction y0 generalizing s n with
  | zero =>
    unfold State.picRetire
    with_reducible repeat' (first | assumption | apply Sound.refl | intro _ | apply Sound.ite | apply ih | apply State.modSess_sound | apply State.picRecord_sound | split | dsimp only)
  | succ k ih =>
    unfold State.picRetire
    with_reducible repeat' (first | assumption | apply Sound.refl | intro _ | apply Sound.ite | apply ih | apply State.modSess_sound | apply State.picRecord_sound | split | dsimp only)

theorem State.picsRetire_sound {u₀ s : State} (h₀ : Sound u₀ s) (n : Nat) : Sound u₀ (State.picsRetire s n) := by
  unfold State.picsRetire
  with_reducible repeat' (first | assumption | apply Sound.refl | apply State.picRetire_sound)

theorem State.sliceOut_sound {u₀ s : State} (h₀ : Sound u₀ s) (n : Nat) (i : Nat) (k : Nat) (sent : Bool) (dropped : Bool) : Sound u₀ (State.sliceOut s n i k sent dropped) := by
  unfold State.sliceOut
  with_reducible repeat' (first | assumption | apply Sound.refl | (intro x; refine Sound.via (t := x) ?_ (fun hx => ?_); on_goal 2 => clear_value x) | (intro x; refine Sound.via (t := x.1) ?_ (fun hx => ?_); on_goal 2 => clear_value x) | (intro x; clear_value x) | intro _ | apply Sound.ite | apply State.modJob_sound | apply State.modPic_sound | apply State.picsRetire_sound | lift_lets | split | dsimp only)

theorem State.picEnd_sound {u₀ s : State} (h₀ : Sound u₀ s) (n : Nat) (p : EncPic) : Sound u₀ (State.picEnd s n p) := by
  unfold State.picEnd
  with_reducible repeat' (first | assumption | apply Sound.refl | (intro x; refine Sound.via (t := x) ?_ (fun hx => ?_); on_goal 2 => clear_value x) | (intro x; refine Sound.via (t := x.1) ?_ (fun hx => ?_); on_goal 2 => clear_value x) | (intro x; clear_value x) | intro _ | apply Sound.ite | apply State.modPic_sound | apply State.modSess_sound | apply State.picRelease_sound | apply State.picsRetire_sound | apply State.raise_sound | apply State.sessRelease_sound | apply Sound.each | lift_lets | split | dsimp only)

theorem State.picMaybeEnd_sound {u₀ s : State} (h₀ : Sound u₀ s) (n : Nat) (i : Nat) : Sound u₀ (State.picMaybeEnd s n i) := by
  unfold State.picMaybeEnd
  with_reducible repeat' (first | assumption | apply Sound.refl | intro _ | apply Sound.ite | apply State.picEnd_sound | split | dsimp only)

theorem State.encSource_sound {u₀ s : State} (h₀ : Sound u₀ s) (n : Nat) (h : W32) (capture : PtpTime) (geom : Nat × Nat × Nat) : Sound u₀ (State.encSource s n h capture geom) := by
  unfold State.encSource
  with_reducible repeat' (first | assumption | apply Sound.refl | (intro x; refine Sound.via (t := x) ?_ (fun hx => ?_); on_goal 2 => clear_value x) | (intro x; refine Sound.via (t := x.1) ?_ (fun hx => ?_); on_goal 2 => clear_value x) | (intro x; clear_value x) | intro _ | apply Sound.ite | apply State.modSess_sound | apply State.sessRelease_sound | lift_lets | split | dsimp only)

/-! Slices -/

theorem State.streamPut_sound {u₀ s : State} (h₀ : Sound u₀ s) (r : Nat) (bs : List Byte) : Sound u₀ (State.streamPut s r bs) := by
  unfold State.streamPut
  with_reducible repeat' (first | assumption | apply Sound.refl | (intro x; refine Sound.via (t := x) ?_ (fun hx => ?_); on_goal 2 => clear_value x) | (intro x; refine Sound.via (t := x.1) ?_ (fun hx => ?_); on_goal 2 => clear_value x) | (intro x; clear_value x) | intro _ | apply Sound.ite | apply State.setPair_sound | apply State.setRing_sound | apply State.sliceDropped_sound | apply State.unitWrite_sound | apply Sound.each | lift_lets | split | dsimp only)

theorem State.streamHold_sound {u₀ s : State} (h₀ : Sound u₀ s) (r : Nat) (w : Option SqWord) : Sound u₀ (State.streamHold s r w) := by
  unfold State.streamHold
  with_reducible repeat' (first | assumption | apply Sound.refl | apply Sound.ite | apply State.setRing_sound | split | dsimp only)

theorem State.streamWord_sound {u₀ s : State} (h₀ : Sound u₀ s) (r : Nat) (w : SqWord) : Sound u₀ (State.streamWord s r w) := by
  unfold State.streamWord
  with_reducible repeat' (first | assumption | apply Sound.refl | (intro x; refine Sound.via (t := x) ?_ (fun hx => ?_); on_goal 2 => clear_value x) | (intro x; refine Sound.via (t := x.1) ?_ (fun hx => ?_); on_goal 2 => clear_value x) | (intro x; clear_value x) | intro _ | apply Sound.ite | apply State.setRing_sound | apply State.sliceDropped_sound | apply State.streamHold_sound | apply State.streamPut_sound | lift_lets | split | dsimp only)

theorem State.streamBegin_sound {u₀ s : State} (h₀ : Sound u₀ s) (r : Nat) (c : Nat) (tag : List Byte) : Sound u₀ (State.streamBegin s r c tag) := by
  unfold State.streamBegin
  with_reducible repeat' (first | assumption | apply Sound.refl | apply Sound.ite | apply State.setRing_sound | apply State.sliceDropped_sound | split | dsimp only)

theorem State.streamFinish_sound {u₀ s : State} (h₀ : Sound u₀ s) (r : Nat) : Sound u₀ (State.streamFinish s r) := by
  unfold State.streamFinish
  with_reducible repeat' (first | assumption | apply Sound.refl | (intro x; refine Sound.via (t := x) ?_ (fun hx => ?_); on_goal 2 => clear_value x) | (intro x; clear_value x) | intro _ | apply Sound.ite | apply State.event_sound | apply State.ringCompletion_sound | apply State.setHead_sound | apply State.setReg_sound | apply State.setRing_sound | apply State.sliceDropped_sound | apply State.sliceOut_sound | apply State.unitWrite_sound | lift_lets | split | dsimp only)

theorem State.drainBank_sound {u₀ s : State} (h₀ : Sound u₀ s) (c : Nat) (y0 : Nat) : Sound u₀ (State.drainBank s c y0) := by
  induction y0 generalizing s c with
  | zero =>
    unfold State.drainBank
    with_reducible repeat' (first | assumption | apply Sound.refl | (intro x; refine Sound.via (t := x) ?_ (fun hx => ?_); on_goal 2 => clear_value x) | (intro x; refine Sound.via (t := x.1) ?_ (fun hx => ?_); on_goal 2 => clear_value x) | (intro x; clear_value x) | intro _ | apply Sound.ite | apply ih | apply State.setCore_sound | apply State.sliceOut_sound | apply State.streamWord_sound | lift_lets | split | dsimp only)
  | succ k ih =>
    unfold State.drainBank
    with_reducible repeat' (first | assumption | apply Sound.refl | (intro x; refine Sound.via (t := x) ?_ (fun hx => ?_); on_goal 2 => clear_value x) | (intro x; refine Sound.via (t := x.1) ?_ (fun hx => ?_); on_goal 2 => clear_value x) | (intro x; clear_value x) | intro _ | apply Sound.ite | apply ih | apply State.setCore_sound | apply State.sliceOut_sound | apply State.streamWord_sound | lift_lets | split | dsimp only)

theorem State.payOwed_sound {u₀ s : State} (h₀ : Sound u₀ s) (c : Nat) : Sound u₀ (State.payOwed s c) := by
  unfold State.payOwed
  with_reducible repeat' (first | assumption | apply Sound.refl | (intro x; refine Sound.via (t := x) ?_ (fun hx => ?_); on_goal 2 => clear_value x) | (intro x; refine Sound.via (t := x.1) ?_ (fun hx => ?_); on_goal 2 => clear_value x) | (intro x; clear_value x) | intro _ | apply Sound.ite | apply State.setCore_sound | lift_lets | split | dsimp only)

theorem State.bankSwap_sound {u₀ s : State} (h₀ : Sound u₀ s) (c : Nat) : Sound u₀ (State.bankSwap s c) := by
  unfold State.bankSwap
  with_reducible repeat' (first | assumption | apply Sound.refl | (intro x; refine Sound.via (t := x) ?_ (fun hx => ?_); on_goal 2 => clear_value x) | (intro x; refine Sound.via (t := x.1) ?_ (fun hx => ?_); on_goal 2 => clear_value x) | (intro x; clear_value x) | intro _ | apply Sound.ite | apply State.drainBank_sound | apply State.latch_sound | apply State.payOwed_sound | apply State.setCore_sound | lift_lets | split | dsimp only)

theorem State.pushWord_sound {u₀ s : State} (h₀ : Sound u₀ s) (c : Nat) (w : SqWord) : Sound u₀ (State.pushWord s c w) := by
  unfold State.pushWord
  with_reducible repeat' (first | assumption | apply Sound.refl | (intro x; refine Sound.via (t := x) ?_ (fun hx => ?_); on_goal 2 => clear_value x) | (intro x; refine Sound.via (t := x.1) ?_ (fun hx => ?_); on_goal 2 => clear_value x) | (intro x; clear_value x) | intro _ | apply Sound.ite | apply State.bankSwap_sound | apply State.setCore_sound | lift_lets | split | dsimp only)

theorem State.pushBytes_sound {u₀ s : State} (h₀ : Sound u₀ s) (c : Nat) (bs : List Byte) : Sound u₀ (State.pushBytes s c bs) := by
  unfold State.pushBytes
  with_reducible repeat' (first | assumption | apply Sound.refl | (intro x; refine Sound.via (t := x) ?_ (fun hx => ?_); on_goal 2 => clear_value x) | (intro x; refine Sound.via (t := x.1) ?_ (fun hx => ?_); on_goal 2 => clear_value x) | (intro x; clear_value x) | intro _ | apply State.pushWord_sound | apply State.setCore_sound | apply Sound.each | lift_lets | dsimp only)

theorem State.sliceBegin_sound {u₀ s : State} (h₀ : Sound u₀ s) (c : Nat) (tag : List Byte) : Sound u₀ (State.sliceBegin s c tag) := by
  unfold State.sliceBegin
  with_reducible repeat' (first | assumption | apply Sound.refl | (intro x; refine Sound.via (t := x) ?_ (fun hx => ?_); on_goal 2 => clear_value x) | (intro x; refine Sound.via (t := x.1) ?_ (fun hx => ?_); on_goal 2 => clear_value x) | (intro x; clear_value x) | intro _ | apply State.pushWord_sound | apply State.setCore_sound | lift_lets | dsimp only)

theorem State.sliceFinish_sound {u₀ s : State} (h₀ : Sound u₀ s) (c : Nat) (endgame : Bool) (poison : Bool) : Sound u₀ (State.sliceFinish s c endgame poison).1 := by
  unfold State.sliceFinish
  with_reducible repeat' (first | assumption | apply Sound.refl | (intro x; refine Sound.via (t := x) ?_ (fun hx => ?_); on_goal 2 => clear_value x) | (intro x; refine Sound.via (t := x.1) ?_ (fun hx => ?_); on_goal 2 => clear_value x) | (intro x; clear_value x) | intro _ | apply Sound.ite | apply State.payOwed_sound | apply State.pushWord_sound | apply State.setCore_sound | lift_lets | split | dsimp only)

theorem State.abortMark_sound {u₀ s : State} (h₀ : Sound u₀ s) (c : Nat) : Sound u₀ (State.abortMark s c) := by
  unfold State.abortMark
  with_reducible repeat' (first | assumption | apply Sound.refl | (intro x; refine Sound.via (t := x) ?_ (fun hx => ?_); on_goal 2 => clear_value x) | (intro x; refine Sound.via (t := x.1) ?_ (fun hx => ?_); on_goal 2 => clear_value x) | (intro x; clear_value x) | intro _ | apply Sound.ite | apply State.payOwed_sound | apply State.setCore_sound | apply State.setRing_sound | lift_lets | split | dsimp only)

theorem State.flowSlice_sound {u₀ s : State} (h₀ : Sound u₀ s) (f : Nat) (u : TxUnit) : Sound u₀ (State.flowSlice s f u) := by
  unfold State.flowSlice
  with_reducible repeat' (first | assumption | apply Sound.refl | apply Sound.ite | apply State.setTxf_sound | apply State.sliceOut_sound | split | dsimp only)

theorem State.partSend_sound {u₀ s : State} (h₀ : Sound u₀ s) (g : Nat) (tile : Nat) (t : PtpTime) (bs : List Byte) : Sound u₀ (State.partSend s g tile t bs) := by
  unfold State.partSend
  with_reducible repeat' (first | assumption | apply Sound.refl | (intro x; refine Sound.via (t := x) ?_ (fun hx => ?_); on_goal 2 => clear_value x) | (intro x; clear_value x) | intro _ | apply State.draw_sound | apply State.e2eSend_sound | apply State.emit_sound | apply Sound.each | lift_lets | dsimp only)

theorem State.sliceAct_sound {u₀ s : State} (h₀ : Sound u₀ s) (n : Nat) (i : Nat) (k : Nat) (bs : List Byte) (bad : List Nat) (badB : List Nat) (lost : Bool) : Sound u₀ (State.sliceAct s n i k bs bad badB lost) := by
  unfold State.sliceAct
  with_reducible repeat' (first | assumption | apply Sound.refl | (intro x; refine Sound.via (t := x) ?_ (fun hx => ?_); on_goal 2 => clear_value x) | (intro x; refine Sound.via (t := x.1) ?_ (fun hx => ?_); on_goal 2 => clear_value x) | (intro x; clear_value x) | intro _ | apply Sound.ite | apply State.flowSlice_sound | apply State.partSend_sound | apply State.sliceOut_sound | apply Sound.elim | lift_lets | split | dsimp only)

theorem State.espEmit_sound {u₀ s : State} (h₀ : Sound u₀ s) (n : Nat) (y0 : Nat) : Sound u₀ (State.espEmit s n y0) := by
  induction y0 generalizing s n with
  | zero =>
    unfold State.espEmit
    with_reducible repeat' (first | assumption | apply Sound.refl | (intro x; refine Sound.via (t := x) ?_ (fun hx => ?_); on_goal 2 => clear_value x) | (intro x; refine Sound.via (t := x.1) ?_ (fun hx => ?_); on_goal 2 => clear_value x) | (intro x; clear_value x) | intro _ | apply Sound.ite | apply ih | apply State.setEsp_sound | apply State.setRing_sound | apply State.sliceAct_sound | apply State.sliceOut_sound | apply State.streamBegin_sound | apply State.streamFinish_sound | apply State.streamPut_sound | apply Sound.elim | lift_lets | split | dsimp only)
  | succ k ih =>
    unfold State.espEmit
    with_reducible repeat' (first | assumption | apply Sound.refl | (intro x; refine Sound.via (t := x) ?_ (fun hx => ?_); on_goal 2 => clear_value x) | (intro x; refine Sound.via (t := x.1) ?_ (fun hx => ?_); on_goal 2 => clear_value x) | (intro x; clear_value x) | intro _ | apply Sound.ite | apply ih | apply State.setEsp_sound | apply State.setRing_sound | apply State.sliceAct_sound | apply State.sliceOut_sound | apply State.streamBegin_sound | apply State.streamFinish_sound | apply State.streamPut_sound | apply Sound.elim | lift_lets | split | dsimp only)

theorem State.espFlush_sound {u₀ s : State} (h₀ : Sound u₀ s) (n : Nat) : Sound u₀ (State.espFlush s n) := by
  unfold State.espFlush
  with_reducible repeat' (first | assumption | apply Sound.refl | apply Sound.ite | apply State.espEmit_sound | split | dsimp only)

theorem State.stagedAct_sound {u₀ s : State} (h₀ : Sound u₀ s) (c : Nat) (ws : List SqWord) : Sound u₀ (State.stagedAct s c ws) := by
  unfold State.stagedAct
  with_reducible repeat' (first | assumption | apply Sound.refl | (intro x; refine Sound.via (t := x) ?_ (fun hx => ?_); on_goal 2 => clear_value x) | (intro x; refine Sound.via (t := x.1) ?_ (fun hx => ?_); on_goal 2 => clear_value x) | (intro x; clear_value x) | intro _ | apply Sound.ite | apply State.espFlush_sound | apply State.setCore_sound | apply State.sliceAct_sound | lift_lets | split | dsimp only)

theorem State.streamStart_sound {u₀ s : State} (h₀ : Sound u₀ s) (r : Nat) : Sound u₀ (State.streamStart s r) := by
  unfold State.streamStart
  with_reducible repeat' (first | assumption | apply Sound.refl | (intro x; refine Sound.via (t := x) ?_ (fun hx => ?_); on_goal 2 => clear_value x) | (intro x; refine Sound.via (t := x.1) ?_ (fun hx => ?_); on_goal 2 => clear_value x) | (intro x; clear_value x) | intro _ | apply Sound.ite | apply State.drainBank_sound | apply State.setCore_sound | apply State.streamBegin_sound | lift_lets | split | dsimp only)

theorem State.rdWrite_sound {u₀ s : State} (h₀ : Sound u₀ s) (r : Nat) (v : W32) : Sound u₀ (State.rdWrite s r v) := by
  unfold State.rdWrite
  with_reducible repeat' (first | assumption | apply Sound.refl | (intro x; refine Sound.via (t := x) ?_ (fun hx => ?_); on_goal 2 => clear_value x) | (intro x; clear_value x) | intro _ | apply Sound.ite | apply State.setReg_sound | lift_lets | split | dsimp only)

/-! Planes -/

theorem State.writeSamples_sound {u₀ s : State} (h₀ : Sound u₀ s) (ps : List (Nat × Nat × Nat × Nat)) (depth : Nat) (f : Nat → Nat → Nat → Nat) (col : Nat → Nat) (line : Nat → Nat) (x0 : Nat) (x1 : Nat) (y0 : Nat) (y1 : Nat) : Sound u₀ (State.writeSamples s ps depth f col line x0 x1 y0 y1) := by
  unfold State.writeSamples
  with_reducible repeat' (first | assumption | apply Sound.refl | (intro x; refine Sound.via (t := x) ?_ (fun hx => ?_); on_goal 2 => clear_value x) | (intro x; refine Sound.via (t := x.1) ?_ (fun hx => ?_); on_goal 2 => clear_value x) | (intro x; clear_value x) | intro _ | apply State.hbmWrite_sound | apply Sound.each | lift_lets | dsimp only)

theorem State.recordsWrite_sound {u₀ s : State} (h₀ : Sound u₀ s) (base : Nat) (cols : Nat) (a : Nat) (recs : Nat → Nat → List Byte) (x0 : Nat) (x1 : Nat) (y0 : Nat) (y1 : Nat) : Sound u₀ (State.recordsWrite s base cols a recs x0 x1 y0 y1) := by
  unfold State.recordsWrite
  with_reducible repeat' (first | assumption | apply Sound.refl | intro _ | apply State.hbmWrite_sound | apply Sound.each | dsimp only)

/-! Banks -/

theorem State.setSlot_sound {u₀ s : State} (h₀ : Sound u₀ s) (k : Nat) (x : Option (W32 × List Byte)) : Sound u₀ (State.setSlot s k x) := by
  unfold State.setSlot
  with_reducible repeat' (first | assumption | apply Sound.refl | intro _ | dsimp only | apply Sound.record)

theorem State.setChanging_sound {u₀ s : State} (h₀ : Sound u₀ s) (p : Nat) (v : Option W32) : Sound u₀ (State.setChanging s p v) := by
  unfold State.setChanging
  with_reducible repeat' (first | assumption | apply Sound.refl | intro _ | dsimp only | apply Sound.record)

theorem State.slotWrite_sound {u₀ s : State} (h₀ : Sound u₀ s) (k : Nat) (b : List Byte) : Sound u₀ (State.slotWrite s k b) := by
  unfold State.slotWrite
  with_reducible repeat' (first | assumption | apply Sound.refl | (intro x; refine Sound.via (t := x) ?_ (fun hx => ?_); on_goal 2 => clear_value x) | (intro x; clear_value x) | intro _ | apply Sound.ite | apply State.hbmWrite_sound | lift_lets | split | dsimp only)

theorem State.storeImage_sound {u₀ s : State} (h₀ : Sound u₀ s) (j : JobRef) (b : List Byte) : Sound u₀ (State.storeImage s j b) := by
  unfold State.storeImage
  with_reducible repeat' (first | assumption | apply Sound.refl | (intro x; refine Sound.via (t := x) ?_ (fun hx => ?_); on_goal 2 => clear_value x) | (intro x; refine Sound.via (t := x.1) ?_ (fun hx => ?_); on_goal 2 => clear_value x) | (intro x; clear_value x) | intro _ | apply Sound.ite | apply State.event_sound | apply State.finishJob_sound | apply State.setChanging_sound | apply State.setSlot_sound | apply State.slotWrite_sound | lift_lets | split | dsimp only)

theorem State.changeSettle_sound {u₀ s : State} (h₀ : Sound u₀ s) (p : Nat) : Sound u₀ (State.changeSettle s p) := by
  unfold State.changeSettle
  with_reducible repeat' (first | assumption | apply Sound.refl | (intro x; refine Sound.via (t := x) ?_ (fun hx => ?_); on_goal 2 => clear_value x) | (intro x; refine Sound.via (t := x.1) ?_ (fun hx => ?_); on_goal 2 => clear_value x) | (intro x; clear_value x) | intro _ | apply Sound.ite | apply State.event_sound | apply State.setChanging_sound | apply State.setSlot_sound | apply State.storeImage_sound | lift_lets | split | dsimp only | apply Sound.record)

theorem State.hostCopy_sound {u₀ s : State} (h₀ : Sound u₀ s) (q : Nat) : Sound u₀ (State.hostCopy s q) := by
  unfold State.hostCopy
  with_reducible repeat' (first | assumption | apply Sound.refl | (intro x; refine Sound.via (t := x) ?_ (fun hx => ?_); on_goal 2 => clear_value x) | (intro x; refine Sound.via (t := x.1) ?_ (fun hx => ?_); on_goal 2 => clear_value x) | (intro x; clear_value x) | intro _ | apply Sound.ite | apply State.setSlot_sound | apply State.slotWrite_sound | lift_lets | split | dsimp only)

theorem State.bankSwapped_sound {u₀ s : State} (h₀ : Sound u₀ s) (q : Nat) (at_ : Nat) : Sound u₀ (State.bankSwapped s q at_) := by
  unfold State.bankSwapped
  with_reducible repeat' (first | assumption | apply Sound.refl | (intro x; refine Sound.via (t := x) ?_ (fun hx => ?_); on_goal 2 => clear_value x) | (intro x; refine Sound.via (t := x.1) ?_ (fun hx => ?_); on_goal 2 => clear_value x) | (intro x; clear_value x) | intro _ | apply Sound.ite | apply State.changeSettle_sound | apply State.event_sound | apply State.finishJob_sound | apply State.hostCopy_sound | apply State.incF_sound | apply State.setSeq_sound | lift_lets | split | dsimp only)

theorem State.coreSwap_sound {u₀ s : State} (h₀ : Sound u₀ s) (c : Nat) : Sound u₀ (State.coreSwap s c) := by
  unfold State.coreSwap
  with_reducible repeat' (first | assumption | apply Sound.refl | apply State.bankSwapped_sound)

theorem State.activate_sound {u₀ s : State} (h₀ : Sound u₀ s) (c : Nat) (p : Nat) : Sound u₀ (State.activate s c p) := by
  unfold State.activate
  with_reducible repeat' (first | assumption | apply Sound.refl | apply Sound.ite | apply State.coreSwap_sound | split | dsimp only)

theorem State.slotLoad_sound {u₀ s : State} (h₀ : Sound u₀ s) (c : Nat) (k : Nat) : Sound u₀ (State.slotLoad s c k) := by
  unfold State.slotLoad
  with_reducible repeat' (first | assumption | apply Sound.refl | (intro x; refine Sound.via (t := x) ?_ (fun hx => ?_); on_goal 2 => clear_value x) | (intro x; clear_value x) | intro _ | apply Sound.ite | apply State.changeSettle_sound | apply State.event_sound | apply State.hbmRead_sound | apply State.incF_sound | apply State.setSeq_sound | apply State.setSlot_sound | lift_lets | split | dsimp only)

theorem State.ensure_sound {u₀ s : State} (h₀ : Sound u₀ s) (c : Nat) (p : Nat) (v : Option W32) (keep : List Nat) : Sound u₀ (State.ensure s c p v keep) := by
  unfold State.ensure
  with_reducible repeat' (first | assumption | apply Sound.refl | (intro x; refine Sound.via (t := x) ?_ (fun hx => ?_); on_goal 2 => clear_value x) | (intro x; clear_value x) | intro _ | apply Sound.ite | apply State.coreSwap_sound | apply State.slotLoad_sound | lift_lets | split | dsimp only)

theorem State.spareLoad_sound {u₀ s : State} (h₀ : Sound u₀ s) (h : Nat) : Sound u₀ (State.spareLoad s h) := by
  unfold State.spareLoad
  with_reducible repeat' (first | assumption | apply Sound.refl | (intro x; refine Sound.via (t := x) ?_ (fun hx => ?_); on_goal 2 => clear_value x) | (intro x; clear_value x) | intro _ | apply Sound.ite | apply State.ensure_sound | apply Sound.each | lift_lets | split | dsimp only)

theorem State.overloadBegin_sound {u₀ s : State} (h₀ : Sound u₀ s) (h : Nat) : Sound u₀ (State.overloadBegin s h) := by
  unfold State.overloadBegin
  with_reducible repeat' (first | assumption | apply Sound.refl | apply Sound.ite | apply State.event_sound | apply State.setHedge_sound | split | dsimp only)

theorem State.overloadUpdate_sound {u₀ s : State} (h₀ : Sound u₀ s) (h : Nat) : Sound u₀ (State.overloadUpdate s h) := by
  unfold State.overloadUpdate
  with_reducible repeat' (first | assumption | apply Sound.refl | (intro x; refine Sound.via (t := x) ?_ (fun hx => ?_); on_goal 2 => clear_value x) | (intro x; refine Sound.via (t := x.1) ?_ (fun hx => ?_); on_goal 2 => clear_value x) | (intro x; clear_value x) | intro _ | apply Sound.ite | apply State.event_sound | apply State.overloadBegin_sound | apply State.setHedge_sound | lift_lets | split | dsimp only | apply Sound.record)

theorem State.overloads_sound {u₀ s : State} (h₀ : Sound u₀ s) : Sound u₀ (State.overloads s) := by
  unfold State.overloads
  with_reducible repeat' (first | assumption | apply Sound.refl | intro _ | apply State.overloadUpdate_sound | apply Sound.each | dsimp only)

theorem State.storeReload_sound {u₀ s : State} (h₀ : Sound u₀ s) (c : Nat) (p : Nat) : Sound u₀ (State.storeReload s c p) := by
  unfold State.storeReload
  with_reducible repeat' (first | assumption | apply Sound.refl | (intro x; refine Sound.via (t := x) ?_ (fun hx => ?_); on_goal 2 => clear_value x) | (intro x; refine Sound.via (t := x.1) ?_ (fun hx => ?_); on_goal 2 => clear_value x) | (intro x; clear_value x) | intro _ | apply Sound.ite | apply State.ensure_sound | apply State.overloadBegin_sound | apply State.setSeq_sound | apply State.slotLoad_sound | lift_lets | split | dsimp only)

theorem State.imgRefuse_sound {u₀ s : State} (h₀ : Sound u₀ s) (j : JobRef) (act : Nat) (q : Nat) (b : List Byte) (refuse : Nat) (code : Nat) : Sound u₀ (State.imgRefuse s j act q b refuse code) := by
  unfold State.imgRefuse
  with_reducible repeat' (first | assumption | apply Sound.refl | (intro x; refine Sound.via (t := x) ?_ (fun hx => ?_); on_goal 2 => clear_value x) | (intro x; clear_value x) | intro _ | apply Sound.ite | apply State.event_sound | apply State.finishJob_sound | apply State.setSeq_sound | lift_lets | split | dsimp only)

theorem State.imgLoad_sound {u₀ s : State} (h₀ : Sound u₀ s) (q : Nat) (b : List Byte) : Sound u₀ (State.imgLoad s q b) := by
  unfold State.imgLoad
  with_reducible repeat' (first | assumption | apply Sound.refl | apply Sound.ite | apply State.setSeq_sound | split | dsimp only)

theorem State.imgJob_sound {u₀ s : State} (h₀ : Sound u₀ s) (r : Nat) (act : Nat) (f : State → JobRef → Nat → List Byte → State) (h_f : ∀ {a b : State}, Sound a b → ∀ x1 x2 x3, Sound a (f b x1 x2 x3)) : Sound u₀ (State.imgJob s r act f) := by
  unfold State.imgJob
  with_reducible repeat' (first | assumption | apply Sound.refl | (intro x; refine Sound.via (t := x) ?_ (fun hx => ?_); on_goal 2 => clear_value x) | (intro x; refine Sound.via (t := x.1) ?_ (fun hx => ?_); on_goal 2 => clear_value x) | (intro x; clear_value x) | intro _ | apply Sound.ite | apply h_f | apply State.imgRefuse_sound | apply State.jobReadCount_sound | apply State.latch_sound | apply State.withJob_sound | lift_lets | split | dsimp only)

theorem State.cswKick_sound {u₀ s : State} (h₀ : Sound u₀ s) (v : W32) : Sound u₀ (State.cswKick s v) := by
  unfold State.cswKick
  with_reducible repeat' (first | assumption | apply Sound.refl | (intro x; refine Sound.via (t := x) ?_ (fun hx => ?_); on_goal 2 => clear_value x) | (intro x; clear_value x) | intro _ | apply Sound.ite | apply State.event_sound | apply State.setSeq_sound | lift_lets | split | dsimp only)

theorem State.cswSwap_sound {u₀ s : State} (h₀ : Sound u₀ s) (v : W32) : Sound u₀ (State.cswSwap s v) := by
  unfold State.cswSwap
  with_reducible repeat' (first | assumption | apply Sound.refl | (intro x; refine Sound.via (t := x) ?_ (fun hx => ?_); on_goal 2 => clear_value x) | (intro x; refine Sound.via (t := x.1) ?_ (fun hx => ?_); on_goal 2 => clear_value x) | (intro x; clear_value x) | intro _ | apply Sound.ite | apply State.event_sound | apply State.setSeq_sound | lift_lets | split | dsimp only)

theorem State.cswAdvance_sound {u₀ s : State} (h₀ : Sound u₀ s) : Sound u₀ (State.cswAdvance s) := by
  unfold State.cswAdvance
  with_reducible repeat' (first | assumption | apply Sound.refl | apply Sound.ite | apply State.setF_sound | split | dsimp only)

theorem State.cswFetch_sound {u₀ s : State} (h₀ : Sound u₀ s) : Sound u₀ (State.cswFetch s).1 := by
  unfold State.cswFetch
  with_reducible repeat' (first | assumption | apply Sound.refl | (intro x; refine Sound.via (t := x) ?_ (fun hx => ?_); on_goal 2 => clear_value x) | (intro x; refine Sound.via (t := x.1) ?_ (fun hx => ?_); on_goal 2 => clear_value x) | (intro x; clear_value x) | intro _ | apply State.cswAdvance_sound | apply State.setReg_sound | apply Sound.each | lift_lets | dsimp only)

theorem State.cswStore_sound {u₀ s : State} (h₀ : Sound u₀ s) (v : W32) : Sound u₀ (State.cswStore s v) := by
  unfold State.cswStore
  with_reducible repeat' (first | assumption | apply Sound.refl | (intro x; refine Sound.via (t := x) ?_ (fun hx => ?_); on_goal 2 => clear_value x) | (intro x; refine Sound.via (t := x.1) ?_ (fun hx => ?_); on_goal 2 => clear_value x) | (intro x; clear_value x) | intro _ | apply Sound.ite | apply State.cswAdvance_sound | apply State.event_sound | apply State.setReg_sound | apply State.setSeq_sound | apply Sound.foldl | lift_lets | split | dsimp only)

theorem State.cswRevoke_sound {u₀ s : State} (h₀ : Sound u₀ s) (v : W32) : Sound u₀ (State.cswRevoke s v) := by
  unfold State.cswRevoke
  with_reducible repeat' (first | assumption | apply Sound.refl | (intro x; refine Sound.via (t := x) ?_ (fun hx => ?_); on_goal 2 => clear_value x) | (intro x; clear_value x) | intro _ | apply Sound.ite | apply State.setB_sound | lift_lets | split | dsimp only)

/-! Conceal -/

theorem State.modDec_sound {u₀ s : State} (h₀ : Sound u₀ s) (n : Nat) (i : Nat) (f : DecPic → DecPic) : Sound u₀ (State.modDec s n i f) := by
  unfold State.modDec
  with_reducible repeat' (first | assumption | apply Sound.refl | intro _ | apply Sound.ite | apply State.modSess_sound | split | dsimp only)

theorem State.modDecJob_sound {u₀ s : State} (h₀ : Sound u₀ s) (n : Nat) (i : Nat) (k : Nat) (f : DecJob → DecJob) : Sound u₀ (State.modDecJob s n i k f) := by
  unfold State.modDecJob
  with_reducible repeat' (first | assumption | apply Sound.refl | intro _ | apply Sound.ite | apply State.modDec_sound | split | dsimp only)

theorem State.mapsWrite_sound {u₀ s : State} (h₀ : Sound u₀ s) (n : Nat) (p : DecPic) : Sound u₀ (State.mapsWrite s n p) := by
  unfold State.mapsWrite
  with_reducible repeat' (first | assumption | apply Sound.refl | (intro x; refine Sound.via (t := x) ?_ (fun hx => ?_); on_goal 2 => clear_value x) | (intro x; refine Sound.via (t := x.1) ?_ (fun hx => ?_); on_goal 2 => clear_value x) | (intro x; clear_value x) | intro _ | apply Sound.ite | apply State.hbmWrite_sound | lift_lets | split | dsimp only)

theorem State.picWrite_sound {u₀ s : State} (h₀ : Sound u₀ s) (n : Nat) (p : DecPic) (f : Nat → Nat → Nat → Nat) (b : PixBlock) (toRef : Bool) (toOut : Bool) : Sound u₀ (State.picWrite s n p f b toRef toOut) := by
  unfold State.picWrite
  with_reducible repeat' (first | assumption | apply Sound.refl | (intro x; refine Sound.via (t := x) ?_ (fun hx => ?_); on_goal 2 => clear_value x) | (intro x; refine Sound.via (t := x.1) ?_ (fun hx => ?_); on_goal 2 => clear_value x) | (intro x; clear_value x) | intro _ | apply Sound.ite | apply State.writeSamples_sound | lift_lets | split | dsimp only)

theorem State.decRecord_sound {u₀ s : State} (h₀ : Sound u₀ s) (n : Nat) (p : DecPic) (x : Nat) (y : Nat) (l0 : Option RefMv) (l1 : Option RefMv) (intra : Bool) (poison : Bool) : Sound u₀ (State.decRecord s n p x y l0 l1 intra poison) := by
  unfold State.decRecord
  with_reducible repeat' (first | assumption | apply Sound.refl | (intro x; refine Sound.via (t := x) ?_ (fun hx => ?_); on_goal 2 => clear_value x) | (intro x; clear_value x) | intro _ | apply Sound.ite | apply State.hbmWrite_sound | lift_lets | split | dsimp only)

theorem State.concealBlock_sound {u₀ s : State} (h₀ : Sound u₀ s) (n : Nat) (i : Nat) (vs : List VecAt) (bad : List Nat) (poison : Bool) (b : PixBlock) : Sound u₀ (State.concealBlock s n i vs bad poison b) := by
  unfold State.concealBlock
  with_reducible repeat' (first | assumption | apply Sound.refl | (intro x; refine Sound.via (t := x) ?_ (fun hx => ?_); on_goal 2 => clear_value x) | (intro x; refine Sound.via (t := x.1) ?_ (fun hx => ?_); on_goal 2 => clear_value x) | (intro x; clear_value x) | intro _ | apply Sound.ite | apply State.decRecord_sound | apply State.modDec_sound | apply State.picWrite_sound | lift_lets | split | dsimp only)

theorem State.concealOut_sound {u₀ s : State} (h₀ : Sound u₀ s) (n : Nat) (i : Nat) (b : PixBlock) : Sound u₀ (State.concealOut s n i b) := by
  unfold State.concealOut
  with_reducible repeat' (first | assumption | apply Sound.refl | intro _ | apply Sound.ite | apply State.modDec_sound | apply State.picWrite_sound | split | dsimp only)

/-! Dec -/

theorem State.passRef_sound {u₀ s : State} (h₀ : Sound u₀ s) (a : Nat) (b : Nat) (h : W32) : Sound u₀ (State.passRef s a b h) := by
  unfold State.passRef
  with_reducible repeat' (first | assumption | apply Sound.refl | apply Sound.ite | apply State.addHold_sound | apply State.setHbuf_sound | split | dsimp only)

theorem State.outLines_sound {u₀ s : State} (h₀ : Sound u₀ s) (n : Nat) (p : DecPic) : Sound u₀ (State.outLines s n p) := by
  unfold State.outLines
  with_reducible repeat' (first | assumption | apply Sound.refl | (intro x; refine Sound.via (t := x) ?_ (fun hx => ?_); on_goal 2 => clear_value x) | (intro x; refine Sound.via (t := x.1) ?_ (fun hx => ?_); on_goal 2 => clear_value x) | (intro x; clear_value x) | intro _ | apply Sound.ite | apply State.linesDone_sound | lift_lets | split | dsimp only)

theorem State.pictureDropped_sound {u₀ s : State} (h₀ : Sound u₀ s) (n : Nat) : Sound u₀ (State.pictureDropped s n) := by
  unfold State.pictureDropped
  with_reducible repeat' (first | assumption | apply Sound.refl | (intro x; refine Sound.via (t := x) ?_ (fun hx => ?_); on_goal 2 => clear_value x) | (intro x; clear_value x) | intro _ | apply Sound.ite | apply State.satF_sound | lift_lets | split | dsimp only)

theorem State.decPublish_sound {u₀ s : State} (h₀ : Sound u₀ s) (n : Nat) (i : Nat) : Sound u₀ (State.decPublish s n i) := by
  unfold State.decPublish
  with_reducible repeat' (first | assumption | apply Sound.refl | (intro x; refine Sound.via (t := x) ?_ (fun hx => ?_); on_goal 2 => clear_value x) | (intro x; refine Sound.via (t := x.1) ?_ (fun hx => ?_); on_goal 2 => clear_value x) | (intro x; clear_value x) | intro _ | apply Sound.ite | apply State.encSource_sound | apply State.modDec_sound | apply State.modSess_sound | apply State.pictureDropped_sound | apply State.sessRelease_sound | apply State.setTxf_sound | lift_lets | split | dsimp only)

theorem State.decOutTake_sound {u₀ s : State} (h₀ : Sound u₀ s) (n : Nat) (i : Nat) : Sound u₀ (State.decOutTake s n i) := by
  unfold State.decOutTake
  with_reducible repeat' (first | assumption | apply Sound.refl | (intro x; refine Sound.via (t := x) ?_ (fun hx => ?_); on_goal 2 => clear_value x) | (intro x; refine Sound.via (t := x.1) ?_ (fun hx => ?_); on_goal 2 => clear_value x) | (intro x; clear_value x) | intro _ | apply Sound.ite | apply State.decPublish_sound | apply State.modDec_sound | apply State.poolAlloc_sound | apply State.setHbuf_sound | lift_lets | split | dsimp only)

theorem State.refsFree_sound {u₀ s : State} (h₀ : Sound u₀ s) (n : Nat) (hs : List W32) : Sound u₀ (State.refsFree s n hs) := by
  unfold State.refsFree
  with_reducible repeat' (first | assumption | apply Sound.refl | intro _ | apply Sound.ite | apply State.reconFree_sound | apply Sound.each | split | dsimp only)

theorem State.decCloseAll_sound {u₀ s : State} (h₀ : Sound u₀ s) (n : Nat) : Sound u₀ (State.decCloseAll s n) := by
  unfold State.decCloseAll
  with_reducible repeat' (first | assumption | apply Sound.refl | intro _ | apply State.modSess_sound | dsimp only)

theorem State.decOpen_sound {u₀ s : State} (h₀ : Sound u₀ s) (n : Nat) (cap : Option PtpTime) (i : PicInfo) : Sound u₀ (State.decOpen s n cap i) := by
  unfold State.decOpen
  with_reducible repeat' (first | assumption | apply Sound.refl | (intro x; refine Sound.via (t := x) ?_ (fun hx => ?_); on_goal 2 => clear_value x) | (intro x; refine Sound.via (t := x.1) ?_ (fun hx => ?_); on_goal 2 => clear_value x) | (intro x; clear_value x) | intro _ | apply Sound.ite | apply State.decCloseAll_sound | apply State.decPublish_sound | apply State.draw_sound | apply State.modSess_sound | apply State.poolBlocking_sound | apply State.refsFree_sound | apply State.setSess_sound | apply Sound.each | lift_lets | split | dsimp only)

theorem State.unitsDone_sound {u₀ s : State} (h₀ : Sound u₀ s) (n : Nat) (i : Nat) : Sound u₀ (State.unitsDone s n i) := by
  unfold State.unitsDone
  with_reducible repeat' (first | assumption | apply Sound.refl | (intro x; refine Sound.via (t := x) ?_ (fun hx => ?_); on_goal 2 => clear_value x) | (intro x; refine Sound.via (t := x.1) ?_ (fun hx => ?_); on_goal 2 => clear_value x) | (intro x; clear_value x) | intro _ | apply Sound.ite | apply State.finishJob_sound | apply State.modDec_sound | apply State.sessRelease_sound | apply Sound.each | lift_lets | split | dsimp only)

theorem State.decRetire_sound {u₀ s : State} (h₀ : Sound u₀ s) (n : Nat) (y0 : Nat) : Sound u₀ (State.decRetire s n y0) := by
  induction y0 generalizing s n with
  | zero =>
    unfold State.decRetire
    with_reducible repeat' (first | assumption | apply Sound.refl | (intro x; refine Sound.via (t := x) ?_ (fun hx => ?_); on_goal 2 => clear_value x) | (intro x; refine Sound.via (t := x.1) ?_ (fun hx => ?_); on_goal 2 => clear_value x) | (intro x; clear_value x) | intro _ | apply Sound.ite | apply ih | apply State.finishJob_sound | apply State.passRef_sound | apply State.refsFree_sound | apply State.sessRelease_sound | apply State.setSess_sound | apply State.statusRing_sound | apply State.unitsDone_sound | lift_lets | split | dsimp only)
  | succ k ih =>
    unfold State.decRetire
    with_reducible repeat' (first | assumption | apply Sound.refl | (intro x; refine Sound.via (t := x) ?_ (fun hx => ?_); on_goal 2 => clear_value x) | (intro x; refine Sound.via (t := x.1) ?_ (fun hx => ?_); on_goal 2 => clear_value x) | (intro x; clear_value x) | intro _ | apply Sound.ite | apply ih | apply State.finishJob_sound | apply State.passRef_sound | apply State.refsFree_sound | apply State.sessRelease_sound | apply State.setSess_sound | apply State.statusRing_sound | apply State.unitsDone_sound | lift_lets | split | dsimp only)

theorem State.decsRetire_sound {u₀ s : State} (h₀ : Sound u₀ s) (n : Nat) : Sound u₀ (State.decsRetire s n) := by
  unfold State.decsRetire
  with_reducible repeat' (first | assumption | apply Sound.refl | apply State.decRetire_sound)

theorem State.decAddJob_sound {u₀ s : State} (h₀ : Sound u₀ s) (n : Nat) (p : DecPic) (j : DecJob) : Sound u₀ (State.decAddJob s n p j) := by
  unfold State.decAddJob
  with_reducible repeat' (first | assumption | apply Sound.refl | (intro x; refine Sound.via (t := x) ?_ (fun hx => ?_); on_goal 2 => clear_value x) | (intro x; refine Sound.via (t := x.1) ?_ (fun hx => ?_); on_goal 2 => clear_value x) | (intro x; clear_value x) | intro _ | apply State.modDec_sound | lift_lets | dsimp only)

theorem State.concealStart_sound {u₀ s : State} (h₀ : Sound u₀ s) (n : Nat) (p : DecPic) (run : Nat × Nat × Nat) : Sound u₀ (State.concealStart s n p run) := by
  unfold State.concealStart
  with_reducible repeat' (first | assumption | apply Sound.refl | (intro x; refine Sound.via (t := x) ?_ (fun hx => ?_); on_goal 2 => clear_value x) | (intro x; refine Sound.via (t := x.1) ?_ (fun hx => ?_); on_goal 2 => clear_value x) | (intro x; clear_value x) | intro _ | apply State.decAddJob_sound | apply State.modDec_sound | lift_lets | dsimp only)

theorem State.pairEdge_sound {u₀ s : State} (h₀ : Sound u₀ s) (n : Nat) (i : Nat) (e : Nat × Nat × Bool) : Sound u₀ (State.pairEdge s n i e) := by
  unfold State.pairEdge
  with_reducible repeat' (first | assumption | apply Sound.refl | (intro x; refine Sound.via (t := x) ?_ (fun hx => ?_); on_goal 2 => clear_value x) | (intro x; refine Sound.via (t := x.1) ?_ (fun hx => ?_); on_goal 2 => clear_value x) | (intro x; clear_value x) | intro _ | apply Sound.ite | apply State.modDec_sound | apply State.picWrite_sound | lift_lets | split | dsimp only)

theorem State.cellsDone_sound {u₀ s : State} (h₀ : Sound u₀ s) (n : Nat) (i : Nat) (cs : List Nat) (f : Nat → Nat) : Sound u₀ (State.cellsDone s n i cs f) := by
  unfold State.cellsDone
  with_reducible repeat' (first | assumption | apply Sound.refl | (intro x; refine Sound.via (t := x) ?_ (fun hx => ?_); on_goal 2 => clear_value x) | (intro x; clear_value x) | intro _ | apply Sound.ite | apply State.mapsWrite_sound | apply State.modDec_sound | apply State.outLines_sound | apply State.pairEdge_sound | apply Sound.each | lift_lets | split | dsimp only)

theorem State.decodeRow_sound {u₀ s : State} (h₀ : Sound u₀ s) (n : Nat) (p : DecPic) (j : DecJob) (si : SliceInfo) (cs : List Nat) (r : Nat) : Sound u₀ (State.decodeRow s n p j si cs r) := by
  unfold State.decodeRow
  with_reducible repeat' (first | assumption | apply Sound.refl | (intro x; refine Sound.via (t := x) ?_ (fun hx => ?_); on_goal 2 => clear_value x) | (intro x; refine Sound.via (t := x.1) ?_ (fun hx => ?_); on_goal 2 => clear_value x) | (intro x; clear_value x) | intro _ | apply Sound.ite | apply State.cellsDone_sound | apply State.concealBlock_sound | apply State.decRecord_sound | apply State.modDec_sound | apply State.picWrite_sound | apply Sound.each | lift_lets | split | dsimp only)

theorem State.concealRow_sound {u₀ s : State} (h₀ : Sound u₀ s) (n : Nat) (p : DecPic) (j : DecJob) (cs : List Nat) : Sound u₀ (State.concealRow s n p j cs) := by
  unfold State.concealRow
  with_reducible repeat' (first | assumption | apply Sound.refl | intro _ | apply State.cellsDone_sound | apply State.concealBlock_sound | apply Sound.each | dsimp only)

theorem State.decRow_sound {u₀ s : State} (h₀ : Sound u₀ s) (n : Nat) (p : DecPic) (j : DecJob) : Sound u₀ (State.decRow s n p j) := by
  unfold State.decRow
  with_reducible repeat' (first | assumption | apply Sound.refl | (intro x; refine Sound.via (t := x) ?_ (fun hx => ?_); on_goal 2 => clear_value x) | (intro x; refine Sound.via (t := x.1) ?_ (fun hx => ?_); on_goal 2 => clear_value x) | (intro x; clear_value x) | intro _ | apply Sound.ite | apply State.concealRow_sound | apply State.decodeRow_sound | apply State.modDecJob_sound | lift_lets | split | dsimp only)

theorem State.decJobEnd_sound {u₀ s : State} (h₀ : Sound u₀ s) (n : Nat) (i : Nat) (k : Nat) : Sound u₀ (State.decJobEnd s n i k) := by
  unfold State.decJobEnd
  with_reducible repeat' (first | assumption | apply Sound.refl | (intro x; refine Sound.via (t := x) ?_ (fun hx => ?_); on_goal 2 => clear_value x) | (intro x; refine Sound.via (t := x.1) ?_ (fun hx => ?_); on_goal 2 => clear_value x) | (intro x; clear_value x) | intro _ | apply Sound.ite | apply State.decsRetire_sound | apply State.mapsWrite_sound | apply State.modDec_sound | apply State.outLines_sound | apply State.satF_sound | apply State.unitsDone_sound | apply Sound.elim | lift_lets | split | dsimp only)

theorem State.lossIn_sound {u₀ s : State} (h₀ : Sound u₀ s) (n : Nat) : Sound u₀ (State.lossIn s n) := by
  unfold State.lossIn
  with_reducible repeat' (first | assumption | apply Sound.refl | intro _ | apply Sound.ite | apply State.modDec_sound | apply State.modSess_sound | split | dsimp only)

theorem State.lossUnits_sound {u₀ s : State} (h₀ : Sound u₀ s) (n : Nat) (y0 : Nat) : Sound u₀ (State.lossUnits s n y0) := by
  induction y0 generalizing s n with
  | zero =>
    unfold State.lossUnits
    with_reducible repeat' (first | assumption | apply Sound.refl | (intro x; refine Sound.via (t := x) ?_ (fun hx => ?_); on_goal 2 => clear_value x) | (intro x; clear_value x) | intro _ | apply Sound.ite | apply ih | apply State.decCloseAll_sound | apply State.lossIn_sound | apply State.modSess_sound | lift_lets | split | dsimp only)
  | succ k ih =>
    unfold State.lossUnits
    with_reducible repeat' (first | assumption | apply Sound.refl | (intro x; refine Sound.via (t := x) ?_ (fun hx => ?_); on_goal 2 => clear_value x) | (intro x; clear_value x) | intro _ | apply Sound.ite | apply ih | apply State.decCloseAll_sound | apply State.lossIn_sound | apply State.modSess_sound | lift_lets | split | dsimp only)

theorem State.unitPop_sound {u₀ s : State} (h₀ : Sound u₀ s) (n : Nat) : Sound u₀ (State.unitPop s n) := by
  unfold State.unitPop
  with_reducible repeat' (first | assumption | apply Sound.refl | (intro x; refine Sound.via (t := x) ?_ (fun hx => ?_); on_goal 2 => clear_value x) | (intro x; refine Sound.via (t := x.1) ?_ (fun hx => ?_); on_goal 2 => clear_value x) | (intro x; clear_value x) | intro _ | apply Sound.ite | apply State.decsRetire_sound | apply State.finishJob_sound | apply State.lossUnits_sound | apply State.modDec_sound | apply State.sessRelease_sound | apply State.setSess_sound | apply State.unitsDone_sound | apply Sound.elim | lift_lets | split | dsimp only)

theorem State.sliceTake_sound {u₀ s : State} (h₀ : Sound u₀ s) (n : Nat) (p : DecPic) (si : SliceInfo) (u : DecUnit) : Sound u₀ (State.sliceTake s n p si u) := by
  unfold State.sliceTake
  with_reducible repeat' (first | assumption | apply Sound.refl | (intro x; refine Sound.via (t := x) ?_ (fun hx => ?_); on_goal 2 => clear_value x) | (intro x; refine Sound.via (t := x.1) ?_ (fun hx => ?_); on_goal 2 => clear_value x) | (intro x; clear_value x) | intro _ | apply Sound.ite | apply State.decAddJob_sound | apply State.modDec_sound | lift_lets | split | dsimp only)

theorem State.sliceIn_sound {u₀ s : State} (h₀ : Sound u₀ s) (n : Nat) (si : SliceInfo) (u : DecUnit) : Sound u₀ (State.sliceIn s n si u) := by
  unfold State.sliceIn
  with_reducible repeat' (first | assumption | apply Sound.refl | (intro x; refine Sound.via (t := x) ?_ (fun hx => ?_); on_goal 2 => clear_value x) | (intro x; clear_value x) | intro _ | apply Sound.ite | apply State.decCloseAll_sound | apply State.decOpen_sound | apply State.modDec_sound | apply State.modSess_sound | apply State.sliceTake_sound | apply State.unsupported_sound | lift_lets | split | dsimp only)

/-! Cores -/

theorem State.rowWait_sound {u₀ s : State} (h₀ : Sound u₀ s) (n : Nat) (p : EncPic) (j : EncJob) (row : Nat) : Sound u₀ (State.rowWait s n p j row) := by
  unfold State.rowWait
  with_reducible repeat' (first | assumption | apply Sound.refl | apply Sound.ite | apply State.subscribe_sound | split | dsimp only)

theorem State.coreBusy_sound {u₀ s : State} (h₀ : Sound u₀ s) (c : Nat) (cycles : Nat) : Sound u₀ (State.coreBusy s c cycles) := by
  unfold State.coreBusy
  with_reducible repeat' (first | assumption | apply Sound.refl | apply State.setPair_sound)

theorem State.coreFreed_sound {u₀ s : State} (h₀ : Sound u₀ s) (c : Nat) (src : W32) : Sound u₀ (State.coreFreed s c src) := by
  unfold State.coreFreed
  with_reducible repeat' (first | assumption | apply Sound.refl | (intro x; refine Sound.via (t := x) ?_ (fun hx => ?_); on_goal 2 => clear_value x) | (intro x; refine Sound.via (t := x.1) ?_ (fun hx => ?_); on_goal 2 => clear_value x) | (intro x; clear_value x) | intro _ | apply Sound.ite | apply State.latch_sound | apply State.poolRelease_sound | apply State.setCore_sound | lift_lets | split | dsimp only)

theorem State.coreDone_sound {u₀ s : State} (h₀ : Sound u₀ s) (c : Nat) (src : W32) : Sound u₀ (State.coreDone s c src) := by
  unfold State.coreDone
  with_reducible repeat' (first | assumption | apply Sound.refl | apply State.coreFreed_sound | apply State.inc_sound)

theorem State.cacheUse_sound {u₀ s : State} (h₀ : Sound u₀ s) (c : Nat) : Sound u₀ (State.cacheUse s c) := by
  unfold State.cacheUse
  with_reducible repeat' (first | assumption | apply Sound.refl | (intro x; refine Sound.via (t := x) ?_ (fun hx => ?_); on_goal 2 => clear_value x) | (intro x; clear_value x) | intro _ | apply State.draw_sound | apply State.setReg_sound | lift_lets | dsimp only)

theorem State.openDone_sound {u₀ s : State} (h₀ : Sound u₀ s) (n : Nat) : Sound u₀ (State.openDone s n) := by
  unfold State.openDone
  with_reducible repeat' (first | assumption | apply Sound.refl | (intro x; refine Sound.via (t := x) ?_ (fun hx => ?_); on_goal 2 => clear_value x) | (intro x; clear_value x) | intro _ | apply Sound.ite | apply State.bindFlow_sound | apply State.coreClocks_sound | apply State.espJoinOwn_sound | apply State.loadsUpdate_sound | apply State.ltrUpdate_sound | apply State.spareLoad_sound | apply Sound.each | lift_lets | split | dsimp only)

/-! EncStart -/

theorem State.allowanceSend_sound {u₀ s : State} (h₀ : Sound u₀ s) (n : Nat) (p : EncPic) : Sound u₀ (State.allowanceSend s n p) := by
  unfold State.allowanceSend
  with_reducible repeat' (first | assumption | apply Sound.refl | intro _ | apply Sound.ite | apply State.espOut_sound | apply Sound.each | split | dsimp only)

theorem State.substCopy_sound {u₀ s : State} (h₀ : Sound u₀ s) (g : Nat) (n : Nat) (m : Nat) (t : PtpTime) : Sound u₀ (State.substCopy s g n m t) := by
  unfold State.substCopy
  with_reducible repeat' (first | assumption | apply Sound.refl | (intro x; refine Sound.via (t := x) ?_ (fun hx => ?_); on_goal 2 => clear_value x) | (intro x; refine Sound.via (t := x.1) ?_ (fun hx => ?_); on_goal 2 => clear_value x) | (intro x; clear_value x) | intro _ | apply Sound.ite | apply State.hbmWrite_sound | apply State.setEsp_sound | apply Sound.each | lift_lets | split | dsimp only)

theorem State.espSubstitute_sound {u₀ s : State} (h₀ : Sound u₀ s) (n : Nat) (i : Nat) (m : Nat) : Sound u₀ (State.espSubstitute s n i m) := by
  unfold State.espSubstitute
  with_reducible repeat' (first | assumption | apply Sound.refl | (intro x; refine Sound.via (t := x) ?_ (fun hx => ?_); on_goal 2 => clear_value x) | (intro x; refine Sound.via (t := x.1) ?_ (fun hx => ?_); on_goal 2 => clear_value x) | (intro x; clear_value x) | intro _ | apply Sound.ite | apply State.espFlush_sound | apply State.espOut_sound | apply State.event_sound | apply State.modPic_sound | apply State.modSess_sound | apply State.picMaybeEnd_sound | apply State.satF_sound | apply State.setEsp_sound | apply State.substCopy_sound | apply Sound.each | lift_lets | split | dsimp only)

theorem State.espTake_sound {u₀ s : State} (h₀ : Sound u₀ s) (n : Nat) (i : Nat) : Sound u₀ (State.espTake s n i) := by
  unfold State.espTake
  with_reducible repeat' (first | assumption | apply Sound.refl | (intro x; refine Sound.via (t := x) ?_ (fun hx => ?_); on_goal 2 => clear_value x) | (intro x; refine Sound.via (t := x.1) ?_ (fun hx => ?_); on_goal 2 => clear_value x) | (intro x; clear_value x) | intro _ | apply Sound.ite | apply State.espFlush_sound | apply State.modPic_sound | apply State.picMaybeEnd_sound | apply State.setEsp_sound | apply Sound.each | lift_lets | split | dsimp only)

theorem State.espLeftSubst_sound {u₀ s : State} (h₀ : Sound u₀ s) (n : Nat) (i : Nat) : Sound u₀ (State.espLeftSubst s n i) := by
  unfold State.espLeftSubst
  with_reducible repeat' (first | assumption | apply Sound.refl | intro _ | apply Sound.ite | apply State.espSubstitute_sound | apply Sound.each | split | dsimp only)

theorem State.motionTake_sound {u₀ s : State} (h₀ : Sound u₀ s) (n : Nat) (p : EncPic) : Sound u₀ (State.motionTake s n p).1 := by
  unfold State.motionTake
  with_reducible repeat' (first | assumption | apply Sound.refl | (intro x; refine Sound.via (t := x) ?_ (fun hx => ?_); on_goal 2 => clear_value x) | (intro x; refine Sound.via (t := x.1) ?_ (fun hx => ?_); on_goal 2 => clear_value x) | (intro x; clear_value x) | intro _ | apply Sound.ite | apply State.modSess_sound | apply State.poolAlloc_sound | apply Sound.each | lift_lets | split | dsimp only)

theorem State.picGo_sound {u₀ s : State} (h₀ : Sound u₀ s) (n : Nat) (p : EncPic) : Sound u₀ (State.picGo s n p) := by
  unfold State.picGo
  with_reducible repeat' (first | assumption | apply Sound.refl | (intro x; refine Sound.via (t := x) ?_ (fun hx => ?_); on_goal 2 => clear_value x) | (intro x; refine Sound.via (t := x.1) ?_ (fun hx => ?_); on_goal 2 => clear_value x) | (intro x; clear_value x) | intro _ | apply Sound.ite | apply State.allowanceSend_sound | apply State.draw_sound | apply State.espLeftSubst_sound | apply State.espTake_sound | apply State.modPic_sound | apply State.motionTake_sound | apply State.picRelease_sound | apply State.picsRetire_sound | apply State.reconFree_sound | apply State.satF_sound | apply State.setEsp_sound | apply State.setSess_sound | apply Sound.each | apply Sound.elim | split | lift_lets | dsimp only)

theorem State.picAlloc_sound {u₀ s : State} (h₀ : Sound u₀ s) (n : Nat) (p : EncPic) : Sound u₀ (State.picAlloc s n p) := by
  unfold State.picAlloc
  with_reducible repeat' (first | assumption | apply Sound.refl | (intro x; refine Sound.via (t := x) ?_ (fun hx => ?_); on_goal 2 => clear_value x) | (intro x; refine Sound.via (t := x.1) ?_ (fun hx => ?_); on_goal 2 => clear_value x) | (intro x; clear_value x) | intro _ | apply Sound.ite | apply State.modPic_sound | apply State.modSess_sound | apply State.picGo_sound | apply State.poolBlocking_sound | apply State.reconFree_sound | apply Sound.each | lift_lets | split | dsimp only)

theorem State.picSkip_sound {u₀ s : State} (h₀ : Sound u₀ s) (n : Nat) (p : EncPic) : Sound u₀ (State.picSkip s n p) := by
  unfold State.picSkip
  with_reducible repeat' (first | assumption | apply Sound.refl | (intro x; refine Sound.via (t := x) ?_ (fun hx => ?_); on_goal 2 => clear_value x) | (intro x; refine Sound.via (t := x.1) ?_ (fun hx => ?_); on_goal 2 => clear_value x) | (intro x; clear_value x) | intro _ | apply State.modPic_sound | apply State.picRelease_sound | apply State.picsRetire_sound | lift_lets | dsimp only)

theorem State.recharge_sound {u₀ s : State} (h₀ : Sound u₀ s) (n : Nat) : Sound u₀ (State.recharge s n) := by
  unfold State.recharge
  with_reducible repeat' (first | assumption | apply Sound.refl | (intro x; refine Sound.via (t := x) ?_ (fun hx => ?_); on_goal 2 => clear_value x) | (intro x; refine Sound.via (t := x.1) ?_ (fun hx => ?_); on_goal 2 => clear_value x) | (intro x; clear_value x) | intro _ | apply State.modSess_sound | lift_lets | dsimp only)

theorem State.ladderTake_sound {u₀ s : State} (h₀ : Sound u₀ s) (n : Nat) : Sound u₀ (State.ladderTake s n) := by
  unfold State.ladderTake
  with_reducible repeat' (first | assumption | apply Sound.refl | (intro x; refine Sound.via (t := x) ?_ (fun hx => ?_); on_goal 2 => clear_value x) | (intro x; clear_value x) | intro _ | apply Sound.ite | apply State.loadsUpdate_sound | apply State.modSess_sound | apply State.overloads_sound | apply State.recharge_sound | apply State.spareLoad_sound | apply Sound.each | lift_lets | split | dsimp only)

theorem State.picStart_sound {u₀ s : State} (h₀ : Sound u₀ s) (n : Nat) : Sound u₀ (State.picStart s n) := by
  unfold State.picStart
  with_reducible repeat' (first | assumption | apply Sound.refl | (intro x; refine Sound.via (t := x) ?_ (fun hx => ?_); on_goal 2 => clear_value x) | (intro x; refine Sound.via (t := x.1) ?_ (fun hx => ?_); on_goal 2 => clear_value x) | (intro x; clear_value x) | intro _ | apply Sound.ite | apply State.ladderTake_sound | apply State.modSess_sound | apply State.picAlloc_sound | apply State.picSkip_sound | apply State.setSess_sound | lift_lets | split | dsimp only | apply Sound.record)

/-! Search -/

theorem State.reconWrite_sound {u₀ s : State} (h₀ : Sound u₀ s) (n : Nat) (p : EncPic) (f : Nat → Nat → Nat → Nat) (x0 : Nat) (x1 : Nat) (y0 : Nat) (y1 : Nat) : Sound u₀ (State.reconWrite s n p f x0 x1 y0 y1) := by
  unfold State.reconWrite
  with_reducible repeat' (first | assumption | apply Sound.refl | (intro x; refine Sound.via (t := x) ?_ (fun hx => ?_); on_goal 2 => clear_value x) | (intro x; refine Sound.via (t := x.1) ?_ (fun hx => ?_); on_goal 2 => clear_value x) | (intro x; clear_value x) | intro _ | apply Sound.ite | apply State.writeSamples_sound | lift_lets | split | dsimp only)

theorem State.rowWrite_sound {u₀ s : State} (h₀ : Sound u₀ s) (n : Nat) (p : EncPic) (j : EncJob) (done : RowDone) : Sound u₀ (State.rowWrite s n p j done) := by
  unfold State.rowWrite
  with_reducible repeat' (first | assumption | apply Sound.refl | (intro x; refine Sound.via (t := x) ?_ (fun hx => ?_); on_goal 2 => clear_value x) | (intro x; refine Sound.via (t := x.1) ?_ (fun hx => ?_); on_goal 2 => clear_value x) | (intro x; clear_value x) | intro _ | apply Sound.ite | apply State.reconWrite_sound | apply State.recordsWrite_sound | lift_lets | split | dsimp only)

theorem State.edgeFilter_sound {u₀ s : State} (h₀ : Sound u₀ s) (n : Nat) (p : EncPic) (j : EncJob) (row : Nat) : Sound u₀ (State.edgeFilter s n p j row) := by
  unfold State.edgeFilter
  with_reducible repeat' (first | assumption | apply Sound.refl | (intro x; refine Sound.via (t := x) ?_ (fun hx => ?_); on_goal 2 => clear_value x) | (intro x; refine Sound.via (t := x.1) ?_ (fun hx => ?_); on_goal 2 => clear_value x) | (intro x; clear_value x) | intro _ | apply Sound.ite | apply State.reconWrite_sound | lift_lets | split | dsimp only)

theorem State.aboveFilter_sound {u₀ s : State} (h₀ : Sound u₀ s) (n : Nat) (p : EncPic) (j : EncJob) : Sound u₀ (State.aboveFilter s n p j) := by
  unfold State.aboveFilter
  with_reducible repeat' (first | assumption | apply Sound.refl | (intro x; refine Sound.via (t := x) ?_ (fun hx => ?_); on_goal 2 => clear_value x) | (intro x; clear_value x) | intro _ | apply Sound.ite | apply State.reconWrite_sound | lift_lets | split | dsimp only)

/-! DecRun -/

theorem State.unitHold_sound {u₀ s : State} (h₀ : Sound u₀ s) (c : Nat) (h : W32) : Sound u₀ (State.unitHold s c h) := by
  unfold State.unitHold
  with_reducible repeat' (first | assumption | apply Sound.refl | apply Sound.ite | apply State.poolAddref_sound | split | dsimp only)

theorem State.decBegin_sound {u₀ s : State} (h₀ : Sound u₀ s) (c : Nat) (n : Nat) (i : Nat) (k : Nat) (pers : Nat) : Sound u₀ (State.decBegin s c n i k pers) := by
  unfold State.decBegin
  with_reducible repeat' (first | assumption | apply Sound.refl | (intro x; refine Sound.via (t := x) ?_ (fun hx => ?_); on_goal 2 => clear_value x) | (intro x; refine Sound.via (t := x.1) ?_ (fun hx => ?_); on_goal 2 => clear_value x) | (intro x; clear_value x) | intro _ | apply State.activate_sound | apply State.decOutTake_sound | apply State.modDecJob_sound | apply State.setCore_sound | apply State.unitHold_sound | apply Sound.elim | lift_lets | dsimp only)

theorem State.decRowEnd_sound {u₀ s : State} (h₀ : Sound u₀ s) (c : Nat) (n : Nat) (p : DecPic) (j : DecJob) (last : Bool) : Sound u₀ (State.decRowEnd s c n p j last) := by
  unfold State.decRowEnd
  with_reducible repeat' (first | assumption | apply Sound.refl | (intro x; refine Sound.via (t := x) ?_ (fun hx => ?_); on_goal 2 => clear_value x) | (intro x; clear_value x) | intro _ | apply Sound.ite | apply State.cacheUse_sound | apply State.coreBusy_sound | apply State.coreDone_sound | apply State.coreFreed_sound | apply State.decRow_sound | lift_lets | split | dsimp only)

theorem State.decComplete_sound {u₀ s : State} (h₀ : Sound u₀ s) (c : Nat) (n : Nat) (i : Nat) (k : Nat) : Sound u₀ (State.decComplete s c n i k) := by
  unfold State.decComplete
  with_reducible repeat' (first | assumption | apply Sound.refl | apply Sound.ite | apply State.decJobEnd_sound | apply State.decRowEnd_sound | apply State.setCore_sound | split | dsimp only)

theorem State.decNext_sound {u₀ s : State} (h₀ : Sound u₀ s) (n : Nat) (i : Nat) (k : Nat) : Sound u₀ (State.decNext s n i k) := by
  unfold State.decNext
  with_reducible repeat' (first | assumption | apply Sound.refl | (intro x; refine Sound.via (t := x) ?_ (fun hx => ?_); on_goal 2 => clear_value x) | (intro x; refine Sound.via (t := x.1) ?_ (fun hx => ?_); on_goal 2 => clear_value x) | (intro x; clear_value x) | intro _ | apply Sound.ite | apply State.decBegin_sound | apply State.decRowEnd_sound | apply State.modDecJob_sound | lift_lets | split | dsimp only)

/-! EncRun -/

theorem State.memberTake_sound {u₀ s : State} (h₀ : Sound u₀ s) (n : Nat) (p : EncPic) (j : EncJob) : Sound u₀ (State.memberTake s n p j) := by
  unfold State.memberTake
  with_reducible repeat' (first | assumption | apply Sound.refl | (intro x; refine Sound.via (t := x) ?_ (fun hx => ?_); on_goal 2 => clear_value x) | (intro x; refine Sound.via (t := x.1) ?_ (fun hx => ?_); on_goal 2 => clear_value x) | (intro x; clear_value x) | intro _ | apply Sound.ite | apply State.modJob_sound | apply State.satF_sound | lift_lets | split | dsimp only)

theorem State.readyMark_sound {u₀ s : State} (h₀ : Sound u₀ s) (n : Nat) (i : Nat) : Sound u₀ (State.readyMark s n i) := by
  unfold State.readyMark
  with_reducible repeat' (first | assumption | apply Sound.refl | intro _ | apply Sound.ite | apply State.modPic_sound | split | dsimp only)

theorem State.jobReady_sound {u₀ s : State} (h₀ : Sound u₀ s) (n : Nat) (p : EncPic) (j : EncJob) (deadline : Option Nat) (miss : List Nat) (lost : List Nat) : Sound u₀ (State.jobReady s n p j deadline miss lost) := by
  unfold State.jobReady
  with_reducible repeat' (first | assumption | apply Sound.refl | (intro x; refine Sound.via (t := x) ?_ (fun hx => ?_); on_goal 2 => clear_value x) | (intro x; refine Sound.via (t := x.1) ?_ (fun hx => ?_); on_goal 2 => clear_value x) | (intro x; clear_value x) | intro _ | apply Sound.ite | apply State.memberTake_sound | apply State.modJob_sound | apply State.readyMark_sound | lift_lets | split | dsimp only)

theorem State.encReady_sound {u₀ s : State} (h₀ : Sound u₀ s) (n : Nat) (i : Nat) (k : Nat) : Sound u₀ (State.encReady s n i k) := by
  unfold State.encReady
  with_reducible repeat' (first | assumption | apply Sound.refl | (intro x; refine Sound.via (t := x) ?_ (fun hx => ?_); on_goal 2 => clear_value x) | (intro x; refine Sound.via (t := x.1) ?_ (fun hx => ?_); on_goal 2 => clear_value x) | (intro x; clear_value x) | intro _ | apply Sound.ite | apply State.jobReady_sound | apply State.modJob_sound | apply State.readyMark_sound | apply State.rowWait_sound | lift_lets | split | dsimp only)

theorem State.snapTake_sound {u₀ s : State} (h₀ : Sound u₀ s) (n : Nat) (p : EncPic) (j : EncJob) : Sound u₀ (State.snapTake s n p j) := by
  unfold State.snapTake
  with_reducible repeat' (first | assumption | apply Sound.refl | (intro x; refine Sound.via (t := x) ?_ (fun hx => ?_); on_goal 2 => clear_value x) | (intro x; refine Sound.via (t := x.1) ?_ (fun hx => ?_); on_goal 2 => clear_value x) | (intro x; clear_value x) | intro _ | apply Sound.ite | apply State.draw_sound | apply State.modJob_sound | apply Sound.foldl | lift_lets | split | dsimp only)

theorem State.encBegin_sound {u₀ s : State} (h₀ : Sound u₀ s) (c : Nat) (n : Nat) (i : Nat) (k : Nat) (pers : Nat) : Sound u₀ (State.encBegin s c n i k pers) := by
  unfold State.encBegin
  with_reducible repeat' (first | assumption | apply Sound.refl | (intro x; refine Sound.via (t := x) ?_ (fun hx => ?_); on_goal 2 => clear_value x) | (intro x; refine Sound.via (t := x.1) ?_ (fun hx => ?_); on_goal 2 => clear_value x) | (intro x; clear_value x) | intro _ | apply Sound.ite | apply State.activate_sound | apply State.modJob_sound | apply State.poolAddref_sound | apply State.pushBytes_sound | apply State.setCore_sound | apply State.sliceBegin_sound | apply State.snapTake_sound | lift_lets | split | dsimp only)

theorem State.candBegin_sound {u₀ s : State} (h₀ : Sound u₀ s) (c : Nat) (x : Cand) : Sound u₀ (State.candBegin s c x) := by
  unfold State.candBegin
  with_reducible repeat' (first | assumption | apply Sound.refl | apply Sound.ite | apply State.decBegin_sound | apply State.encBegin_sound | split | dsimp only)

theorem State.dispatch_sound {u₀ s : State} (h₀ : Sound u₀ s) (c : Nat) : Sound u₀ (State.dispatch s c) := by
  unfold State.dispatch
  with_reducible repeat' (first | assumption | apply Sound.refl | apply Sound.ite | apply State.candBegin_sound | apply State.overloadUpdate_sound | split | dsimp only)

theorem State.haloCheck_sound {u₀ s : State} (h₀ : Sound u₀ s) (n : Nat) (p : EncPic) (j : EncJob) (row : Nat) : Sound u₀ (State.haloCheck s n p j row) := by
  unfold State.haloCheck
  with_reducible repeat' (first | assumption | apply Sound.refl | (intro x; refine Sound.via (t := x) ?_ (fun hx => ?_); on_goal 2 => clear_value x) | (intro x; refine Sound.via (t := x.1) ?_ (fun hx => ?_); on_goal 2 => clear_value x) | (intro x; clear_value x) | intro _ | apply Sound.ite | apply State.event_sound | apply State.modJob_sound | apply State.satF_sound | lift_lets | split | dsimp only)

theorem State.haloSend_sound {u₀ s : State} (h₀ : Sound u₀ s) (n : Nat) (p : EncPic) (j : EncJob) (row : Nat) : Sound u₀ (State.haloSend s n p j row) := by
  unfold State.haloSend
  with_reducible repeat' (first | assumption | apply Sound.refl | (intro x; refine Sound.via (t := x) ?_ (fun hx => ?_); on_goal 2 => clear_value x) | (intro x; refine Sound.via (t := x.1) ?_ (fun hx => ?_); on_goal 2 => clear_value x) | (intro x; clear_value x) | intro _ | apply Sound.ite | apply State.espOut_sound | apply Sound.each | lift_lets | split | dsimp only)

theorem State.fieldMark_sound {u₀ s : State} (h₀ : Sound u₀ s) (n : Nat) (i : Nat) (row : Nat) : Sound u₀ (State.fieldMark s n i row) := by
  unfold State.fieldMark
  with_reducible repeat' (first | assumption | apply Sound.refl | intro _ | apply Sound.ite | apply State.modSess_sound | apply Sound.each | split | dsimp only)

theorem State.rowCode_sound {u₀ s : State} (h₀ : Sound u₀ s) (c : Nat) (r : RowIn) : Sound u₀ (State.rowCode s c r) := by
  unfold State.rowCode
  with_reducible repeat' (first | assumption | apply Sound.refl | (intro x; refine Sound.via (t := x) ?_ (fun hx => ?_); on_goal 2 => clear_value x) | (intro x; refine Sound.via (t := x.1) ?_ (fun hx => ?_); on_goal 2 => clear_value x) | (intro x; clear_value x) | intro _ | apply Sound.ite | apply State.cacheUse_sound | apply State.coreBusy_sound | apply State.coreFreed_sound | apply State.edgeFilter_sound | apply State.fieldMark_sound | apply State.haloCheck_sound | apply State.haloSend_sound | apply State.modPic_sound | apply State.pushBytes_sound | apply State.rowWrite_sound | split | lift_lets | dsimp only)

theorem State.sliceEnd_sound {u₀ s : State} (h₀ : Sound u₀ s) (c : Nat) (n : Nat) (p : EncPic) (j : EncJob) : Sound u₀ (State.sliceEnd s c n p j) := by
  unfold State.sliceEnd
  with_reducible repeat' (first | assumption | apply Sound.refl | (intro x; refine Sound.via (t := x) ?_ (fun hx => ?_); on_goal 2 => clear_value x) | (intro x; refine Sound.via (t := x.1) ?_ (fun hx => ?_); on_goal 2 => clear_value x) | (intro x; clear_value x) | intro _ | apply Sound.ite | apply State.event_sound | apply State.modPic_sound | apply State.pushBytes_sound | apply State.satF_sound | apply State.sliceBegin_sound | apply State.sliceFinish_sound | apply State.sliceOut_sound | split | lift_lets | dsimp only)

theorem State.jobComplete_sound {u₀ s : State} (h₀ : Sound u₀ s) (c : Nat) : Sound u₀ (State.jobComplete s c) := by
  unfold State.jobComplete
  with_reducible repeat' (first | assumption | apply Sound.refl | (intro x; refine Sound.via (t := x) ?_ (fun hx => ?_); on_goal 2 => clear_value x) | (intro x; refine Sound.via (t := x.1) ?_ (fun hx => ?_); on_goal 2 => clear_value x) | (intro x; clear_value x) | intro _ | apply Sound.ite | apply State.aboveFilter_sound | apply State.coreBusy_sound | apply State.coreDone_sound | apply State.decComplete_sound | apply State.edgeFilter_sound | apply State.modPic_sound | apply State.picMaybeEnd_sound | apply State.picsRetire_sound | apply State.satF_sound | apply State.setCore_sound | apply State.sliceEnd_sound | lift_lets | split | dsimp only)

/-! Hedges -/

theorem State.takePlace_sound {u₀ s : State} (h₀ : Sound u₀ s) (c : Nat) (dst : Nat) : Sound u₀ (State.takePlace s c dst) := by
  unfold State.takePlace
  with_reducible repeat' (first | assumption | apply Sound.refl | intro _ | dsimp only | apply Sound.record)

theorem State.sharesMove_sound {u₀ s : State} (h₀ : Sound u₀ s) (c : Nat) : Sound u₀ (State.sharesMove s c) := by
  unfold State.sharesMove
  with_reducible repeat' (first | assumption | apply Sound.refl | intro _ | apply Sound.ite | apply State.modSess_sound | apply Sound.each | split | dsimp only)

theorem State.coreStop_sound {u₀ s : State} (h₀ : Sound u₀ s) (c : Nat) : Sound u₀ (State.coreStop s c) := by
  unfold State.coreStop
  with_reducible repeat' (first | assumption | apply Sound.refl | (intro x; refine Sound.via (t := x) ?_ (fun hx => ?_); on_goal 2 => clear_value x) | (intro x; refine Sound.via (t := x.1) ?_ (fun hx => ?_); on_goal 2 => clear_value x) | (intro x; clear_value x) | intro _ | apply State.clearRegs_sound | apply State.setBusy_sound | apply State.setCore_sound | apply State.setDomain_sound | apply State.setSeq_sound | lift_lets | dsimp only)

theorem State.lastPromo_sound {u₀ s : State} (h₀ : Sound u₀ s) (h : Nat) (fr : Nat) (dst : Option Nat) (host : Bool) (retried : Bool) : Sound u₀ (State.lastPromo s h fr dst host retried) := by
  unfold State.lastPromo
  with_reducible repeat' (first | assumption | apply Sound.refl | (intro x; refine Sound.via (t := x) ?_ (fun hx => ?_); on_goal 2 => clear_value x) | (intro x; clear_value x) | intro _ | apply Sound.ite | apply State.draw_sound | apply State.setReg_sound | apply Sound.elim | lift_lets | split | dsimp only)

theorem State.coreLeaves_sound {u₀ s : State} (h₀ : Sound u₀ s) (c : Nat) (spare : Option Nat) (host : Bool) (retried : Bool) : Sound u₀ (State.coreLeaves s c spare host retried) := by
  unfold State.coreLeaves
  with_reducible repeat' (first | assumption | apply Sound.refl | (intro x; refine Sound.via (t := x) ?_ (fun hx => ?_); on_goal 2 => clear_value x) | (intro x; clear_value x) | intro _ | apply Sound.ite | apply State.coreClocks_sound | apply State.coreEdge_sound | apply State.coreStop_sound | apply State.event_sound | apply State.lastPromo_sound | apply State.loadsUpdate_sound | apply State.overloads_sound | apply State.releaseAgent_sound | apply State.setCore_sound | apply State.setRole_sound | lift_lets | split | dsimp only)

theorem State.bistEnd_sound {u₀ s : State} (h₀ : Sound u₀ s) (h : Nat) (pass : Bool) : Sound u₀ (State.bistEnd s h pass) := by
  unfold State.bistEnd
  with_reducible repeat' (first | assumption | apply Sound.refl | (intro x; refine Sound.via (t := x) ?_ (fun hx => ?_); on_goal 2 => clear_value x) | (intro x; clear_value x) | intro _ | apply Sound.ite | apply State.event_sound | apply State.setB_sound | apply State.setCore_sound | apply State.setHedge_sound | apply State.setRole_sound | lift_lets | split | dsimp only)

theorem State.bistBegin_sound {u₀ s : State} (h₀ : Sound u₀ s) (h : Nat) : Sound u₀ (State.bistBegin s h) := by
  unfold State.bistBegin
  with_reducible repeat' (first | assumption | apply Sound.refl | (intro x; refine Sound.via (t := x) ?_ (fun hx => ?_); on_goal 2 => clear_value x) | (intro x; refine Sound.via (t := x.1) ?_ (fun hx => ?_); on_goal 2 => clear_value x) | (intro x; clear_value x) | intro _ | apply Sound.ite | apply State.setB_sound | apply State.setCore_sound | apply State.setHedge_sound | apply State.setSeq_sound | lift_lets | split | dsimp only)

theorem State.bistWrite_sound {u₀ s : State} (h₀ : Sound u₀ s) (h : Nat) (v : W32) : Sound u₀ (State.bistWrite s h v) := by
  unfold State.bistWrite
  with_reducible repeat' (first | assumption | apply Sound.refl | (intro x; refine Sound.via (t := x) ?_ (fun hx => ?_); on_goal 2 => clear_value x) | (intro x; clear_value x) | intro _ | apply Sound.ite | apply State.bistBegin_sound | apply State.setF_sound | lift_lets | split | dsimp only)

theorem State.promoBegin_sound {u₀ s : State} (h₀ : Sound u₀ s) (c : Nat) (replace : Bool) : Sound u₀ (State.promoBegin s c replace) := by
  unfold State.promoBegin
  with_reducible repeat' (first | assumption | apply Sound.refl | (intro x; refine Sound.via (t := x) ?_ (fun hx => ?_); on_goal 2 => clear_value x) | (intro x; refine Sound.via (t := x.1) ?_ (fun hx => ?_); on_goal 2 => clear_value x) | (intro x; clear_value x) | intro _ | apply Sound.ite | apply State.setBusy_sound | apply State.setCore_sound | apply State.setDomain_sound | apply State.setHedge_sound | apply State.setSeq_sound | lift_lets | split | dsimp only)

theorem State.coreFault_sound {u₀ s : State} (h₀ : Sound u₀ s) (c : Nat) (replace : Bool) : Sound u₀ (State.coreFault s c replace) := by
  unfold State.coreFault
  with_reducible repeat' (first | assumption | apply Sound.refl | (intro x; refine Sound.via (t := x) ?_ (fun hx => ?_); on_goal 2 => clear_value x) | (intro x; refine Sound.via (t := x.1) ?_ (fun hx => ?_); on_goal 2 => clear_value x) | (intro x; clear_value x) | intro _ | apply Sound.ite | apply State.bistEnd_sound | apply State.event_sound | apply State.latch_sound | apply State.promoBegin_sound | apply State.setCore_sound | apply State.setDomain_sound | apply State.setHedge_sound | apply State.setRole_sound | lift_lets | split | dsimp only)

theorem State.fieldForget_sound {u₀ s : State} (h₀ : Sound u₀ s) (n : Nat) (i : Nat) (k : Nat) : Sound u₀ (State.fieldForget s n i k) := by
  unfold State.fieldForget
  with_reducible repeat' (first | assumption | apply Sound.refl | intro _ | apply Sound.ite | apply State.modSess_sound | apply Sound.each | split | dsimp only)

theorem State.jobRetry_sound {u₀ s : State} (h₀ : Sound u₀ s) (j : Nat × Nat × Nat) (dst : Option Nat) : Sound u₀ (State.jobRetry s j dst) := by
  unfold State.jobRetry
  with_reducible repeat' (first | assumption | apply Sound.refl | (intro x; refine Sound.via (t := x) ?_ (fun hx => ?_); on_goal 2 => clear_value x) | (intro x; refine Sound.via (t := x.1) ?_ (fun hx => ?_); on_goal 2 => clear_value x) | (intro x; clear_value x) | intro _ | apply Sound.ite | apply State.fieldForget_sound | apply State.modJob_sound | apply State.modSess_sound | lift_lets | split | dsimp only)

theorem State.reissueOn_sound {u₀ s : State} (h₀ : Sound u₀ s) (c : Nat) (j : Nat × Nat × Nat) : Sound u₀ (State.reissueOn s c j) := by
  unfold State.reissueOn
  with_reducible repeat' (first | assumption | apply Sound.refl | (intro x; refine Sound.via (t := x) ?_ (fun hx => ?_); on_goal 2 => clear_value x) | (intro x; refine Sound.via (t := x.1) ?_ (fun hx => ?_); on_goal 2 => clear_value x) | (intro x; clear_value x) | intro _ | apply Sound.ite | apply State.decBegin_sound | apply State.encBegin_sound | lift_lets | split | dsimp only)

theorem State.promoteWrite_sound {u₀ s : State} (h₀ : Sound u₀ s) (h : Nat) (v : W32) : Sound u₀ (State.promoteWrite s h v) := by
  unfold State.promoteWrite
  with_reducible repeat' (first | assumption | apply Sound.refl | (intro x; refine Sound.via (t := x) ?_ (fun hx => ?_); on_goal 2 => clear_value x) | (intro x; clear_value x) | intro _ | apply Sound.ite | apply State.setHedge_sound | lift_lets | split | dsimp only)

theorem State.spareWrite_sound {u₀ s : State} (h₀ : Sound u₀ s) (h : Nat) (v : W32) : Sound u₀ (State.spareWrite s h v) := by
  unfold State.spareWrite
  with_reducible repeat' (first | assumption | apply Sound.refl | (intro x; refine Sound.via (t := x) ?_ (fun hx => ?_); on_goal 2 => clear_value x) | (intro x; clear_value x) | intro _ | apply Sound.ite | apply State.event_sound | apply State.setRole_sound | apply State.spareLoad_sound | lift_lets | split | dsimp only)

theorem State.dvfsWrite_sound {u₀ s : State} (h₀ : Sound u₀ s) (h : Nat) (v : W32) : Sound u₀ (State.dvfsWrite s h v) := by
  unfold State.dvfsWrite
  with_reducible repeat' (first | assumption | apply Sound.refl | (intro x; refine Sound.via (t := x) ?_ (fun hx => ?_); on_goal 2 => clear_value x) | (intro x; clear_value x) | intro _ | apply Sound.ite | apply State.event_sound | apply State.setF_sound | lift_lets | split | dsimp only)

theorem State.dvfsTake_sound {u₀ s : State} (h₀ : Sound u₀ s) (h : Nat) : Sound u₀ (State.dvfsTake s h) := by
  unfold State.dvfsTake
  with_reducible repeat' (first | assumption | apply Sound.refl | (intro x; refine Sound.via (t := x) ?_ (fun hx => ?_); on_goal 2 => clear_value x) | (intro x; clear_value x) | intro _ | apply Sound.ite | apply State.loadUpdate_sound | apply State.overloadUpdate_sound | apply State.setB_sound | apply State.setF_sound | lift_lets | split | dsimp only)

theorem State.hdgLate_sound {u₀ s : State} (h₀ : Sound u₀ s) (h : Nat) (w : Nat × W32) : Sound u₀ (State.hdgLate s h w) := by
  unfold State.hdgLate
  with_reducible repeat' (first | assumption | apply Sound.refl | apply Sound.ite | apply State.dvfsWrite_sound | apply State.promoteWrite_sound | apply State.spareWrite_sound | split | dsimp only)

theorem State.hdgWrite_sound {u₀ s : State} (h₀ : Sound u₀ s) (h : Nat) (off : Nat) (v : W32) : Sound u₀ (State.hdgWrite s h off v) := by
  unfold State.hdgWrite
  with_reducible repeat' (first | assumption | apply Sound.refl | apply Sound.ite | apply State.hdgLate_sound | apply State.setHedge_sound | split | dsimp only)

theorem State.promoEnd_sound {u₀ s : State} (h₀ : Sound u₀ s) (h : Nat) : Sound u₀ (State.promoEnd s h) := by
  unfold State.promoEnd
  with_reducible repeat' (first | assumption | apply Sound.refl | (intro x; refine Sound.via (t := x) ?_ (fun hx => ?_); on_goal 2 => clear_value x) | (intro x; refine Sound.via (t := x.1) ?_ (fun hx => ?_); on_goal 2 => clear_value x) | (intro x; clear_value x) | intro _ | apply Sound.ite | apply State.coreFault_sound | apply State.hdgLate_sound | apply State.setHedge_sound | apply Sound.each | lift_lets | split | dsimp only)

theorem State.promoReplies_sound {u₀ s : State} (h₀ : Sound u₀ s) (h : Nat) : Sound u₀ (State.promoReplies s h) := by
  unfold State.promoReplies
  with_reducible repeat' (first | assumption | apply Sound.refl | (intro x; refine Sound.via (t := x) ?_ (fun hx => ?_); on_goal 2 => clear_value x) | (intro x; refine Sound.via (t := x.1) ?_ (fun hx => ?_); on_goal 2 => clear_value x) | (intro x; clear_value x) | intro _ | apply Sound.ite | apply State.abortMark_sound | apply State.setHedge_sound | apply State.setSeq_sound | lift_lets | split | dsimp only | apply Sound.record)

theorem State.promoReissue_sound {u₀ s : State} (h₀ : Sound u₀ s) (h : Nat) : Sound u₀ (State.promoReissue s h) := by
  unfold State.promoReissue
  with_reducible repeat' (first | assumption | apply Sound.refl | (intro x; refine Sound.via (t := x) ?_ (fun hx => ?_); on_goal 2 => clear_value x) | (intro x; refine Sound.via (t := x.1) ?_ (fun hx => ?_); on_goal 2 => clear_value x) | (intro x; clear_value x) | intro _ | apply Sound.ite | apply State.coreLeaves_sound | apply State.ensure_sound | apply State.jobRetry_sound | apply State.overloadBegin_sound | apply State.promoEnd_sound | apply State.reissueOn_sound | apply State.setRole_sound | apply State.sharesMove_sound | apply State.takePlace_sound | lift_lets | split | dsimp only)

theorem State.hostTakeover_sound {u₀ s : State} (h₀ : Sound u₀ s) (h : Nat) : Sound u₀ (State.hostTakeover s h) := by
  unfold State.hostTakeover
  with_reducible repeat' (first | assumption | apply Sound.refl | (intro x; refine Sound.via (t := x) ?_ (fun hx => ?_); on_goal 2 => clear_value x) | (intro x; refine Sound.via (t := x.1) ?_ (fun hx => ?_); on_goal 2 => clear_value x) | (intro x; clear_value x) | intro _ | apply Sound.ite | apply State.coreLeaves_sound | apply State.setDomain_sound | apply State.setHedge_sound | apply State.setRole_sound | apply State.takePlace_sound | lift_lets | split | dsimp only)

theorem State.persPinWrite_sound {u₀ s : State} (h₀ : Sound u₀ s) (h : Nat) (v : W32) : Sound u₀ (State.persPinWrite s h v) := by
  unfold State.persPinWrite
  with_reducible repeat' (first | assumption | apply Sound.refl | intro _ | apply Sound.ite | apply State.setReg_sound | apply State.spareLoad_sound | split | dsimp only)

/-! Closes -/

theorem State.coreDiscard_sound {u₀ s : State} (h₀ : Sound u₀ s) (n : Nat) (c : Nat) : Sound u₀ (State.coreDiscard s n c) := by
  unfold State.coreDiscard
  with_reducible repeat' (first | assumption | apply Sound.refl | (intro x; refine Sound.via (t := x) ?_ (fun hx => ?_); on_goal 2 => clear_value x) | (intro x; refine Sound.via (t := x.1) ?_ (fun hx => ?_); on_goal 2 => clear_value x) | (intro x; clear_value x) | intro _ | apply Sound.ite | apply State.setCore_sound | apply State.sliceDropped_sound | apply State.sliceOut_sound | apply Sound.each | lift_lets | split | dsimp only)

theorem State.slicesDiscard_sound {u₀ s : State} (h₀ : Sound u₀ s) (n : Nat) : Sound u₀ (State.slicesDiscard s n) := by
  unfold State.slicesDiscard
  with_reducible repeat' (first | assumption | apply Sound.refl | intro _ | apply State.coreDiscard_sound | apply Sound.each | dsimp only)

theorem State.coreAbort_sound {u₀ s : State} (h₀ : Sound u₀ s) (c : Nat) : Sound u₀ (State.coreAbort s c) := by
  unfold State.coreAbort
  with_reducible repeat' (first | assumption | apply Sound.refl | (intro x; refine Sound.via (t := x) ?_ (fun hx => ?_); on_goal 2 => clear_value x) | (intro x; refine Sound.via (t := x.1) ?_ (fun hx => ?_); on_goal 2 => clear_value x) | (intro x; clear_value x) | intro _ | apply Sound.ite | apply State.abortMark_sound | apply State.coreFreed_sound | apply State.latch_sound | apply Sound.elim | lift_lets | split | dsimp only)

theorem State.encCut_sound {u₀ s : State} (h₀ : Sound u₀ s) (n : Nat) (which : EncJob → Bool) : Sound u₀ (State.encCut s n which) := by
  unfold State.encCut
  with_reducible repeat' (first | assumption | apply Sound.refl | (intro x; refine Sound.via (t := x) ?_ (fun hx => ?_); on_goal 2 => clear_value x) | (intro x; refine Sound.via (t := x.1) ?_ (fun hx => ?_); on_goal 2 => clear_value x) | (intro x; clear_value x) | intro _ | apply Sound.ite | apply State.coreAbort_sound | apply State.modSess_sound | apply State.picMaybeEnd_sound | apply State.picsRetire_sound | apply Sound.each | lift_lets | split | dsimp only)

theorem State.picsCut_sound {u₀ s : State} (h₀ : Sound u₀ s) (n : Nat) : Sound u₀ (State.picsCut s n) := by
  unfold State.picsCut
  with_reducible repeat' (first | assumption | apply Sound.refl | (intro x; refine Sound.via (t := x) ?_ (fun hx => ?_); on_goal 2 => clear_value x) | (intro x; refine Sound.via (t := x.1) ?_ (fun hx => ?_); on_goal 2 => clear_value x) | (intro x; clear_value x) | intro _ | apply Sound.ite | apply State.modSess_sound | apply State.picRelease_sound | apply State.picsRetire_sound | apply Sound.each | lift_lets | split | dsimp only)

theorem State.decCut_sound {u₀ s : State} (h₀ : Sound u₀ s) (n : Nat) (which : DecJob → Bool) : Sound u₀ (State.decCut s n which) := by
  unfold State.decCut
  with_reducible repeat' (first | assumption | apply Sound.refl | (intro x; refine Sound.via (t := x) ?_ (fun hx => ?_); on_goal 2 => clear_value x) | (intro x; refine Sound.via (t := x.1) ?_ (fun hx => ?_); on_goal 2 => clear_value x) | (intro x; clear_value x) | intro _ | apply Sound.ite | apply State.coreAbort_sound | apply State.modSess_sound | apply Sound.each | lift_lets | split | dsimp only)

theorem State.unitsCut_sound {u₀ s : State} (h₀ : Sound u₀ s) (n : Nat) : Sound u₀ (State.unitsCut s n) := by
  unfold State.unitsCut
  with_reducible repeat' (first | assumption | apply Sound.refl | (intro x; refine Sound.via (t := x) ?_ (fun hx => ?_); on_goal 2 => clear_value x) | (intro x; clear_value x) | intro _ | apply Sound.ite | apply State.finishJob_sound | apply State.modSess_sound | apply State.sessRelease_sound | apply Sound.each | apply Sound.elim | lift_lets | split | dsimp only)

theorem State.closeBegin_sound {u₀ s : State} (h₀ : Sound u₀ s) (n : Nat) (j : JobRef) : Sound u₀ (State.closeBegin s n j) := by
  unfold State.closeBegin
  with_reducible repeat' (first | assumption | apply Sound.refl | intro _ | apply State.modSess_sound | dsimp only)

theorem State.closeAbort_sound {u₀ s : State} (h₀ : Sound u₀ s) (n : Nat) : Sound u₀ (State.closeAbort s n) := by
  unfold State.closeAbort
  with_reducible repeat' (first | assumption | apply Sound.refl | (intro x; refine Sound.via (t := x) ?_ (fun hx => ?_); on_goal 2 => clear_value x) | (intro x; clear_value x) | intro _ | apply State.decCut_sound | apply State.encCut_sound | apply State.modSess_sound | apply State.picsCut_sound | apply State.slicesDiscard_sound | apply State.unitsCut_sound | lift_lets | dsimp only)

theorem State.decFlush_sound {u₀ s : State} (h₀ : Sound u₀ s) (n : Nat) : Sound u₀ (State.decFlush s n) := by
  unfold State.decFlush
  with_reducible repeat' (first | assumption | apply Sound.refl | (intro x; refine Sound.via (t := x) ?_ (fun hx => ?_); on_goal 2 => clear_value x) | (intro x; clear_value x) | intro _ | apply Sound.ite | apply State.decPublish_sound | apply State.decsRetire_sound | apply Sound.each | lift_lets | split | dsimp only)

theorem State.decDiscard_sound {u₀ s : State} (h₀ : Sound u₀ s) (n : Nat) (p : DecPic) : Sound u₀ (State.decDiscard s n p) := by
  unfold State.decDiscard
  with_reducible repeat' (first | assumption | apply Sound.refl | (intro x; refine Sound.via (t := x) ?_ (fun hx => ?_); on_goal 2 => clear_value x) | (intro x; refine Sound.via (t := x.1) ?_ (fun hx => ?_); on_goal 2 => clear_value x) | (intro x; clear_value x) | intro _ | apply Sound.ite | apply State.finishJob_sound | apply State.reconFree_sound | apply State.sessRelease_sound | apply Sound.each | apply Sound.elim | lift_lets | split | dsimp only)

theorem State.flowsFree_sound {u₀ s : State} (h₀ : Sound u₀ s) (n : Nat) : Sound u₀ (State.flowsFree s n) := by
  unfold State.flowsFree
  with_reducible repeat' (first | assumption | apply Sound.refl | (intro x; refine Sound.via (t := x) ?_ (fun hx => ?_); on_goal 2 => clear_value x) | (intro x; refine Sound.via (t := x.1) ?_ (fun hx => ?_); on_goal 2 => clear_value x) | (intro x; clear_value x) | intro _ | apply State.bindFlow_sound | apply State.poolRelease_sound | apply State.setTxf_sound | apply Sound.each | lift_lets | dsimp only)

theorem State.espLeaveOwn_sound {u₀ s : State} (h₀ : Sound u₀ s) (n : Nat) : Sound u₀ (State.espLeaveOwn s n) := by
  unfold State.espLeaveOwn
  with_reducible repeat' (first | assumption | apply Sound.refl | apply Sound.ite | apply State.espOut_sound | split | dsimp only)

theorem State.closeDone_sound {u₀ s : State} (h₀ : Sound u₀ s) (n : Nat) : Sound u₀ (State.closeDone s n) := by
  unfold State.closeDone
  with_reducible repeat' (first | assumption | apply Sound.refl | (intro x; refine Sound.via (t := x) ?_ (fun hx => ?_); on_goal 2 => clear_value x) | (intro x; refine Sound.via (t := x.1) ?_ (fun hx => ?_); on_goal 2 => clear_value x) | (intro x; clear_value x) | intro _ | apply State.coreClocks_sound | apply State.decDiscard_sound | apply State.espLeaveOwn_sound | apply State.finishJob_sound | apply State.flowsFree_sound | apply State.loadsUpdate_sound | apply State.ltrUpdate_sound | apply State.overloads_sound | apply State.reconFree_sound | apply State.sessRelease_sound | apply State.setSess_sound | apply State.spareLoad_sound | apply Sound.each | apply Sound.elim | lift_lets | dsimp only)

end Sys2Proof.Machine
end

