-- ==== Sys2Proof/Laws/SoundMedia.lean ====
section
/-! SUPPORT. The same of composition, Ethernet media, fabric ports, the host link and HBM. -/

set_option linter.unusedTactic false
set_option linter.unreachableTactic false

namespace Sys2Proof.Machine

/-! RegBase -/

theorem State.maskWrite_sound {u₀ s : State} (h₀ : Sound u₀ s) (a : Nat) (v : W32) : Sound u₀ (State.maskWrite s a v) := by
  unfold State.maskWrite
  with_reducible repeat' (first | assumption | apply Sound.refl | apply Sound.ite | apply State.setReg_sound | split | dsimp only)

theorem State.setLo_sound {u₀ s : State} (h₀ : Sound u₀ s) (a : Nat) (v : Option W32) : Sound u₀ (State.setLo s a v) := by
  unfold State.setLo
  with_reducible repeat' (first | assumption | apply Sound.refl | intro _ | dsimp only | apply Sound.record)

theorem State.rawWrite_sound {u₀ s : State} (h₀ : Sound u₀ s) (a : Nat) (v : W32) : Sound u₀ (State.rawWrite s a v) := by
  unfold State.rawWrite
  with_reducible repeat' (first | assumption | apply Sound.refl | apply Sound.ite | apply State.maskWrite_sound | apply State.setLo_sound | split | dsimp only)

/-! Compose -/

theorem State.setGroup_sound {u₀ s : State} (h₀ : Sound u₀ s) (p : Nat) (g : Nat) (x : Group) : Sound u₀ (State.setGroup s p g x) := by
  unfold State.setGroup
  with_reducible repeat' (first | assumption | apply Sound.refl | intro _ | apply State.setPipe_sound | dsimp only)

theorem State.setShown_sound {u₀ s : State} (h₀ : Sound u₀ s) (p : Nat) (l : Nat) (x : Shown) : Sound u₀ (State.setShown s p l x) := by
  unfold State.setShown
  with_reducible repeat' (first | assumption | apply Sound.refl | intro _ | apply State.setPipe_sound | dsimp only)

theorem State.groupOut_sound {u₀ s : State} (h₀ : Sound u₀ s) (p : Nat) (g : Nat) (last : Nat) : Sound u₀ (State.groupOut s p g last) := by
  unfold State.groupOut
  with_reducible repeat' (first | assumption | apply Sound.refl | (intro x; refine Sound.via (t := x) ?_ (fun hx => ?_); on_goal 2 => clear_value x) | (intro x; clear_value x) | intro _ | apply State.setB_sound | apply State.setReg_sound | lift_lets | dsimp only)

theorem State.flipRecord_sound {u₀ s : State} (h₀ : Sound u₀ s) (p : Nat) (g : Nat) (code : Nat) (layer : Nat) (reason : Nat) (t : PtpTime) : Sound u₀ (State.flipRecord s p g code layer reason t) := by
  unfold State.flipRecord
  with_reducible repeat' (first | assumption | apply Sound.refl | (intro x; refine Sound.via (t := x) ?_ (fun hx => ?_); on_goal 2 => clear_value x) | (intro x; refine Sound.via (t := x.1) ?_ (fun hx => ?_); on_goal 2 => clear_value x) | (intro x; clear_value x) | intro _ | apply Sound.ite | apply State.finishJob_sound | lift_lets | split | dsimp only)

theorem State.groupEnd_sound {u₀ s : State} (h₀ : Sound u₀ s) (p : Nat) (g : Nat) (last : Nat) (code : Nat) (layer : Nat) (reason : Nat) (t : PtpTime) : Sound u₀ (State.groupEnd s p g last code layer reason t) := by
  unfold State.groupEnd
  with_reducible repeat' (first | assumption | apply Sound.refl | (intro x; refine Sound.via (t := x) ?_ (fun hx => ?_); on_goal 2 => clear_value x) | (intro x; clear_value x) | intro _ | apply State.flipRecord_sound | apply State.groupOut_sound | apply State.setGroup_sound | lift_lets | dsimp only)

theorem State.groupCancel_sound {u₀ s : State} (h₀ : Sound u₀ s) (p : Nat) (g : Nat) : Sound u₀ (State.groupCancel s p g) := by
  unfold State.groupCancel
  with_reducible repeat' (first | assumption | apply Sound.refl | apply Sound.ite | apply State.groupEnd_sound | split | dsimp only)

theorem State.groupArm_sound {u₀ s : State} (h₀ : Sound u₀ s) (p : Nat) (g : Nat) (job : Option JobRef) : Sound u₀ (State.groupArm s p g job).1 := by
  unfold State.groupArm
  with_reducible repeat' (first | assumption | apply Sound.refl | (intro x; refine Sound.via (t := x) ?_ (fun hx => ?_); on_goal 2 => clear_value x) | (intro x; refine Sound.via (t := x.1) ?_ (fun hx => ?_); on_goal 2 => clear_value x) | (intro x; clear_value x) | intro _ | apply Sound.ite | apply State.event_sound | apply State.setB_sound | apply State.setGroup_sound | apply State.setReg_sound | lift_lets | split | dsimp only)

theorem State.grpCtlWrite_sound {u₀ s : State} (h₀ : Sound u₀ s) (p : Nat) (g : Nat) (v : W32) : Sound u₀ (State.grpCtlWrite s p g v) := by
  unfold State.grpCtlWrite
  with_reducible repeat' (first | assumption | apply Sound.refl | (intro x; refine Sound.via (t := x) ?_ (fun hx => ?_); on_goal 2 => clear_value x) | (intro x; refine Sound.via (t := x.1) ?_ (fun hx => ?_); on_goal 2 => clear_value x) | (intro x; clear_value x) | intro _ | apply Sound.ite | apply State.groupArm_sound | apply State.groupCancel_sound | apply State.setF_sound | lift_lets | split | dsimp only)

theorem State.cmpWrite_sound {u₀ s : State} (h₀ : Sound u₀ s) (p : Nat) (off : Nat) (v : W32) : Sound u₀ (State.cmpWrite s p off v) := by
  unfold State.cmpWrite
  with_reducible repeat' (first | assumption | apply Sound.refl | (intro x; refine Sound.via (t := x) ?_ (fun hx => ?_); on_goal 2 => clear_value x) | (intro x; clear_value x) | intro _ | apply Sound.ite | apply State.event_sound | apply State.grpCtlWrite_sound | apply State.rawWrite_sound | lift_lets | split | dsimp only)

theorem State.cltWrite_sound {u₀ s : State} (h₀ : Sound u₀ s) (p : Nat) (k : Nat) (j : Nat) (v : W32) : Sound u₀ (State.cltWrite s p k j v) := by
  unfold State.cltWrite
  with_reducible repeat' (first | assumption | apply Sound.refl | (intro x; refine Sound.via (t := x) ?_ (fun hx => ?_); on_goal 2 => clear_value x) | (intro x; clear_value x) | intro _ | apply Sound.ite | apply State.event_sound | apply State.setPipe_sound | lift_lets | split | dsimp only)

theorem State.shownDrop_sound {u₀ s : State} (h₀ : Sound u₀ s) (p : Nat) (l : Nat) : Sound u₀ (State.shownDrop s p l) := by
  unfold State.shownDrop
  with_reducible repeat' (first | assumption | apply Sound.refl | (intro x; refine Sound.via (t := x) ?_ (fun hx => ?_); on_goal 2 => clear_value x) | (intro x; refine Sound.via (t := x.1) ?_ (fun hx => ?_); on_goal 2 => clear_value x) | (intro x; clear_value x) | intro _ | apply Sound.ite | apply State.poolRelease_sound | apply State.setShown_sound | lift_lets | split | dsimp only)

theorem State.memberFlip_sound {u₀ s : State} (h₀ : Sound u₀ s) (p : Nat) (m : Nat) : Sound u₀ (State.memberFlip s p m) := by
  unfold State.memberFlip
  with_reducible repeat' (first | assumption | apply Sound.refl | (intro x; refine Sound.via (t := x) ?_ (fun hx => ?_); on_goal 2 => clear_value x) | (intro x; refine Sound.via (t := x.1) ?_ (fun hx => ?_); on_goal 2 => clear_value x) | (intro x; clear_value x) | intro _ | apply Sound.ite | apply State.bindFlow_sound | apply State.event_sound | apply State.poolAddref_sound | apply State.setPipe_sound | apply State.setShown_sound | apply State.shownDrop_sound | apply Sound.foldl | lift_lets | split | dsimp only)

theorem State.liveUpdate_sound {u₀ s : State} (h₀ : Sound u₀ s) (p : Nat) : Sound u₀ (State.liveUpdate s p) := by
  unfold State.liveUpdate
  with_reducible repeat' (first | assumption | apply Sound.refl | (intro x; refine Sound.via (t := x) ?_ (fun hx => ?_); on_goal 2 => clear_value x) | (intro x; clear_value x) | intro _ | apply State.setReg_sound | apply Sound.foldl | lift_lets | dsimp only)

theorem State.groupDecide_sound {u₀ s : State} (h₀ : Sound u₀ s) (p : Nat) (g : Nat) (unmet : List Nat) (t : PtpTime) : Sound u₀ (State.groupDecide s p g unmet t) := by
  unfold State.groupDecide
  with_reducible repeat' (first | assumption | apply Sound.refl | (intro x; refine Sound.via (t := x) ?_ (fun hx => ?_); on_goal 2 => clear_value x) | (intro x; refine Sound.via (t := x.1) ?_ (fun hx => ?_); on_goal 2 => clear_value x) | (intro x; clear_value x) | intro _ | apply Sound.ite | apply State.event_sound | apply State.groupEnd_sound | apply State.liveUpdate_sound | apply State.memberFlip_sound | apply State.poolAddref_sound | apply State.satF_sound | apply State.setB_sound | apply State.setReg_sound | apply Sound.each | lift_lets | split | dsimp only)

theorem State.layerLatch_sound {u₀ s : State} (h₀ : Sound u₀ s) (p : Nat) (l : Nat) : Sound u₀ (State.layerLatch s p l) := by
  unfold State.layerLatch
  with_reducible repeat' (first | assumption | apply Sound.refl | (intro x; refine Sound.via (t := x) ?_ (fun hx => ?_); on_goal 2 => clear_value x) | (intro x; refine Sound.via (t := x.1) ?_ (fun hx => ?_); on_goal 2 => clear_value x) | (intro x; clear_value x) | intro _ | apply Sound.ite | apply State.modSess_sound | apply State.passRef_sound | apply State.poolRelease_sound | apply State.satF_sound | apply State.setRxf_sound | apply State.setShown_sound | apply State.shownDrop_sound | apply Sound.each | lift_lets | split | dsimp only)

theorem State.layersLatch_sound {u₀ s : State} (h₀ : Sound u₀ s) (p : Nat) : Sound u₀ (State.layersLatch s p) := by
  unfold State.layersLatch
  with_reducible repeat' (first | assumption | apply Sound.refl | (intro x; refine Sound.via (t := x) ?_ (fun hx => ?_); on_goal 2 => clear_value x) | (intro x; clear_value x) | intro _ | apply State.event_sound | apply State.layerLatch_sound | apply State.satF_sound | apply State.shownDrop_sound | apply Sound.each | lift_lets | dsimp only)

theorem State.lineSubs_sound {u₀ s : State} (h₀ : Sound u₀ s) (p : Nat) (y : Nat) : Sound u₀ (State.lineSubs s p y) := by
  unfold State.lineSubs
  with_reducible repeat' (first | assumption | apply Sound.refl | intro _ | apply State.subscribe_sound | apply Sound.each | dsimp only)

theorem State.sourcesRead_sound {u₀ s : State} (h₀ : Sound u₀ s) (p : Nat) (y : Nat) (last : Bool) : Sound u₀ (State.sourcesRead s p y last) := by
  unfold State.sourcesRead
  with_reducible repeat' (first | assumption | apply Sound.refl | (intro x; refine Sound.via (t := x) ?_ (fun hx => ?_); on_goal 2 => clear_value x) | (intro x; refine Sound.via (t := x.1) ?_ (fun hx => ?_); on_goal 2 => clear_value x) | (intro x; clear_value x) | intro _ | apply Sound.ite | apply State.poolRelease_sound | apply State.setShown_sound | apply Sound.each | lift_lets | split | dsimp only)

theorem State.lineOut_sound {u₀ s : State} (h₀ : Sound u₀ s) (p : Nat) (bg : Bool) : Sound u₀ (State.lineOut s p bg) := by
  unfold State.lineOut
  with_reducible repeat' (first | assumption | apply Sound.refl | (intro x; refine Sound.via (t := x) ?_ (fun hx => ?_); on_goal 2 => clear_value x) | (intro x; refine Sound.via (t := x.1) ?_ (fun hx => ?_); on_goal 2 => clear_value x) | (intro x; clear_value x) | intro _ | apply Sound.ite | apply State.hbmWrite_sound | apply State.inc_sound | apply State.linesDone_sound | apply State.poolRelease_sound | apply State.setPipe_sound | apply State.sourcesRead_sound | apply Sound.each | lift_lets | split | dsimp only)

theorem State.lineLate_sound {u₀ s : State} (h₀ : Sound u₀ s) (p : Nat) : Sound u₀ (State.lineLate s p) := by
  unfold State.lineLate
  with_reducible repeat' (first | assumption | apply Sound.refl | apply Sound.ite | apply State.event_sound | apply State.lineOut_sound | apply State.satF_sound | split | dsimp only)

theorem State.linesRest_sound {u₀ s : State} (h₀ : Sound u₀ s) (p : Nat) (bg : Bool) (y0 : Nat) : Sound u₀ (State.linesRest s p bg y0) := by
  induction y0 generalizing s p bg with
  | zero =>
    unfold State.linesRest
    with_reducible repeat' (first | assumption | apply Sound.refl | apply Sound.ite | apply ih | apply State.lineLate_sound | apply State.lineOut_sound | split | dsimp only)
  | succ k ih =>
    unfold State.linesRest
    with_reducible repeat' (first | assumption | apply Sound.refl | apply Sound.ite | apply ih | apply State.lineLate_sound | apply State.lineOut_sound | split | dsimp only)

theorem State.pipeAlloc_sound {u₀ s : State} (h₀ : Sound u₀ s) (p : Nat) : Sound u₀ (State.pipeAlloc s p) := by
  unfold State.pipeAlloc
  with_reducible repeat' (first | assumption | apply Sound.refl | (intro x; refine Sound.via (t := x) ?_ (fun hx => ?_); on_goal 2 => clear_value x) | (intro x; refine Sound.via (t := x.1) ?_ (fun hx => ?_); on_goal 2 => clear_value x) | (intro x; clear_value x) | intro _ | apply Sound.ite | apply State.encSource_sound | apply State.event_sound | apply State.poolAlloc_sound | apply State.poolRelease_sound | apply State.setHbuf_sound | apply State.setPipe_sound | apply State.setTxf_sound | apply Sound.each | lift_lets | split | dsimp only)

theorem State.flipNow_sound {u₀ s : State} (h₀ : Sound u₀ s) (p : Nat) : Sound u₀ (State.flipNow s p) := by
  unfold State.flipNow
  with_reducible repeat' (first | assumption | apply Sound.refl | (intro x; refine Sound.via (t := x) ?_ (fun hx => ?_); on_goal 2 => clear_value x) | (intro x; refine Sound.via (t := x.1) ?_ (fun hx => ?_); on_goal 2 => clear_value x) | (intro x; clear_value x) | intro _ | apply Sound.ite | apply State.event_sound | apply State.groupDecide_sound | apply State.layersLatch_sound | apply State.linesRest_sound | apply State.pipeAlloc_sound | apply State.satF_sound | apply State.sourcesRead_sound | apply Sound.each | lift_lets | split | dsimp only | apply Sound.record)

theorem State.pipeClose_sound {u₀ s : State} (h₀ : Sound u₀ s) (p : Nat) : Sound u₀ (State.pipeClose s p) := by
  unfold State.pipeClose
  with_reducible repeat' (first | assumption | apply Sound.refl | (intro x; refine Sound.via (t := x) ?_ (fun hx => ?_); on_goal 2 => clear_value x) | (intro x; clear_value x) | intro _ | apply State.groupCancel_sound | apply State.shownDrop_sound | apply Sound.each | lift_lets | dsimp only)

theorem State.pipeAbort_sound {u₀ s : State} (h₀ : Sound u₀ s) (p : Nat) : Sound u₀ (State.pipeAbort s p) := by
  unfold State.pipeAbort
  with_reducible repeat' (first | assumption | apply Sound.refl | apply State.linesRest_sound | apply State.pipeClose_sound)

theorem State.lineStep_sound {u₀ s : State} (h₀ : Sound u₀ s) (p : Nat) (f : State → State) (h_f : ∀ {a b : State}, Sound a b → Sound a (f b )) : Sound u₀ (State.lineStep s p f) := by
  unfold State.lineStep
  with_reducible repeat' (first | assumption | apply Sound.refl | (intro x; refine Sound.via (t := x) ?_ (fun hx => ?_); on_goal 2 => clear_value x) | (intro x; clear_value x) | intro _ | apply Sound.ite | apply h_f | apply State.pipeClose_sound | apply State.setDrain_sound | lift_lets | split | dsimp only)

theorem State.entryWrite_sound {u₀ s : State} (h₀ : Sound u₀ s) (p : Nat) (e : Nat × Nat × W32) : Sound u₀ (State.entryWrite s p e) := by
  unfold State.entryWrite
  with_reducible repeat' (first | assumption | apply Sound.refl | apply Sound.ite | apply State.cltWrite_sound | apply State.cmpWrite_sound | apply State.rawWrite_sound | split | dsimp only)

theorem State.entriesRun_sound {u₀ s t : State} (h₀ : Sound u₀ s) (p : Nat) (b : List Byte) (k m : Nat) (h : s.entriesRun p b k m = .inl t) : Sound u₀ t := by
  induction m generalizing s k with
  | zero => unfold State.entriesRun at h; injection h with h; subst h; exact h₀
  | succ m ih =>
    unfold State.entriesRun at h
    dsimp only at h
    split at h
    · contradiction
    · exact ih (State.entryWrite_sound h₀ _ _) _ h

/-! Media -/

theorem State.skewNote_sound {u₀ s : State} (h₀ : Sound u₀ s) (f : Nat) (first : RxUsed) (pathB : Bool) : Sound u₀ (State.skewNote s f first pathB) := by
  unfold State.skewNote
  with_reducible repeat' (first | assumption | apply Sound.refl | (intro x; refine Sound.via (t := x) ?_ (fun hx => ?_); on_goal 2 => clear_value x) | (intro x; clear_value x) | intro _ | apply Sound.ite | apply State.setF_sound | lift_lets | split | dsimp only)

theorem State.rxMerge_sound {u₀ s : State} (h₀ : Sound u₀ s) (f : Nat) (n : Nat) (pathB : Bool) : Sound u₀ (State.rxMerge s f n pathB).1 := by
  unfold State.rxMerge
  with_reducible repeat' (first | assumption | apply Sound.refl | (intro x; refine Sound.via (t := x) ?_ (fun hx => ?_); on_goal 2 => clear_value x) | (intro x; refine Sound.via (t := x.1) ?_ (fun hx => ?_); on_goal 2 => clear_value x) | (intro x; clear_value x) | intro _ | apply Sound.ite | apply State.satF_sound | apply State.setRxf_sound | apply State.skewNote_sound | lift_lets | split | dsimp only)

theorem State.modRxPic_sound {u₀ s : State} (h₀ : Sound u₀ s) (f : Nat) (ts : W32) (g : RxPic → RxPic) : Sound u₀ (State.modRxPic s f ts g) := by
  unfold State.modRxPic
  with_reducible repeat' (first | assumption | apply Sound.refl | intro _ | apply Sound.ite | apply State.setRxf_sound | split | dsimp only)

theorem State.rxLines_sound {u₀ s : State} (h₀ : Sound u₀ s) (f : Nat) (p : RxPic) : Sound u₀ (State.rxLines s f p) := by
  unfold State.rxLines
  with_reducible repeat' (first | assumption | apply Sound.refl | apply Sound.ite | apply State.linesDone_sound | split | dsimp only)

theorem State.rxRepair_sound {u₀ s : State} (h₀ : Sound u₀ s) (f : Nat) (ts : W32) (y : Nat) : Sound u₀ (State.rxRepair s f ts y) := by
  unfold State.rxRepair
  with_reducible repeat' (first | assumption | apply Sound.refl | (intro x; refine Sound.via (t := x) ?_ (fun hx => ?_); on_goal 2 => clear_value x) | (intro x; refine Sound.via (t := x.1) ?_ (fun hx => ?_); on_goal 2 => clear_value x) | (intro x; clear_value x) | intro _ | apply Sound.ite | apply State.draw_sound | apply State.event_sound | apply State.hbmWrite_sound | apply State.modRxPic_sound | apply State.satF_sound | apply Sound.each | lift_lets | split | dsimp only)

theorem State.rxRepairs_sound {u₀ s : State} (h₀ : Sound u₀ s) (f : Nat) (ts : W32) (ys : List Nat) : Sound u₀ (State.rxRepairs s f ts ys) := by
  unfold State.rxRepairs
  with_reducible repeat' (first | assumption | apply Sound.refl | (intro x; refine Sound.via (t := x) ?_ (fun hx => ?_); on_goal 2 => clear_value x) | (intro x; clear_value x) | intro _ | apply Sound.ite | apply State.rxLines_sound | apply State.rxRepair_sound | apply Sound.each | lift_lets | split | dsimp only)

theorem State.rxSettle_sound {u₀ s : State} (h₀ : Sound u₀ s) (f : Nat) : Sound u₀ (State.rxSettle s f) := by
  unfold State.rxSettle
  with_reducible repeat' (first | assumption | apply Sound.refl | (intro x; refine Sound.via (t := x) ?_ (fun hx => ?_); on_goal 2 => clear_value x) | (intro x; clear_value x) | intro _ | apply Sound.ite | apply State.event_sound | apply State.setRxf_sound | lift_lets | split | dsimp only | apply Sound.record)

theorem State.rxClose_sound {u₀ s : State} (h₀ : Sound u₀ s) (f : Nat) (ts : W32) (counted : Bool) : Sound u₀ (State.rxClose s f ts counted) := by
  unfold State.rxClose
  with_reducible repeat' (first | assumption | apply Sound.refl | (intro x; refine Sound.via (t := x) ?_ (fun hx => ?_); on_goal 2 => clear_value x) | (intro x; refine Sound.via (t := x.1) ?_ (fun hx => ?_); on_goal 2 => clear_value x) | (intro x; clear_value x) | intro _ | apply Sound.ite | apply State.linesDone_sound | apply State.poolRelease_sound | apply State.rxRepairs_sound | apply State.rxSettle_sound | apply State.satF_sound | apply State.setRxf_sound | apply Sound.each | lift_lets | split | dsimp only)

theorem State.rxCloses_sound {u₀ s : State} (h₀ : Sound u₀ s) (f : Nat) (y0 : Nat) : Sound u₀ (State.rxCloses s f y0) := by
  induction y0 generalizing s f with
  | zero =>
    unfold State.rxCloses
    with_reducible repeat' (first | assumption | apply Sound.refl | apply Sound.ite | apply ih | apply State.rxClose_sound | split | dsimp only)
  | succ k ih =>
    unfold State.rxCloses
    with_reducible repeat' (first | assumption | apply Sound.refl | apply Sound.ite | apply ih | apply State.rxClose_sound | split | dsimp only)

theorem State.rxStart_sound {u₀ s : State} (h₀ : Sound u₀ s) (f : Nat) (ts : W32) (n : Nat) (ahead : Bool) : Sound u₀ (State.rxStart s f ts n ahead) := by
  unfold State.rxStart
  with_reducible repeat' (first | assumption | apply Sound.refl | (intro x; refine Sound.via (t := x) ?_ (fun hx => ?_); on_goal 2 => clear_value x) | (intro x; refine Sound.via (t := x.1) ?_ (fun hx => ?_); on_goal 2 => clear_value x) | (intro x; clear_value x) | intro _ | apply Sound.ite | apply State.encSource_sound | apply State.event_sound | apply State.poolAlloc_sound | apply State.rxClose_sound | apply State.satF_sound | apply State.setHbuf_sound | apply State.setRxf_sound | apply Sound.each | lift_lets | split | dsimp only)

theorem State.rxRowWrite_sound {u₀ s : State} (h₀ : Sound u₀ s) (f : Nat) (ts : W32) (r : RowHeader) : Sound u₀ (State.rxRowWrite s f ts r) := by
  unfold State.rxRowWrite
  with_reducible repeat' (first | assumption | apply Sound.refl | (intro x; refine Sound.via (t := x) ?_ (fun hx => ?_); on_goal 2 => clear_value x) | (intro x; refine Sound.via (t := x.1) ?_ (fun hx => ?_); on_goal 2 => clear_value x) | (intro x; clear_value x) | intro _ | apply Sound.ite | apply State.hbmWrite_sound | apply State.modRxPic_sound | lift_lets | split | dsimp only)

theorem State.rxVideo_sound {u₀ s : State} (h₀ : Sound u₀ s) (f : Nat) (p : MediaPacket) (n : Nat) (ahead : Bool) : Sound u₀ (State.rxVideo s f p n ahead) := by
  unfold State.rxVideo
  with_reducible repeat' (first | assumption | apply Sound.refl | (intro x; refine Sound.via (t := x) ?_ (fun hx => ?_); on_goal 2 => clear_value x) | (intro x; refine Sound.via (t := x.1) ?_ (fun hx => ?_); on_goal 2 => clear_value x) | (intro x; clear_value x) | intro _ | apply Sound.ite | apply State.modRxPic_sound | apply State.rxCloses_sound | apply State.rxLines_sound | apply State.rxRowWrite_sound | apply State.rxStart_sound | apply State.satF_sound | apply Sound.each | apply Sound.elim | lift_lets | split | dsimp only)

theorem State.passUnit_sound {u₀ s : State} (h₀ : Sound u₀ s) (n : Nat) (bs : List Byte) (closes : Bool) (t : PtpTime) : Sound u₀ (State.passUnit s n bs closes t) := by
  unfold State.passUnit
  with_reducible repeat' (first | assumption | apply Sound.refl | intro _ | apply State.modSess_sound | dsimp only)

theorem State.passClose_sound {u₀ s : State} (h₀ : Sound u₀ s) (n : Nat) : Sound u₀ (State.passClose s n) := by
  unfold State.passClose
  with_reducible repeat' (first | assumption | apply Sound.refl | intro _ | apply Sound.ite | apply State.decCloseAll_sound | apply State.modSess_sound | split | dsimp only)

theorem State.passLoss_sound {u₀ s : State} (h₀ : Sound u₀ s) (n : Nat) : Sound u₀ (State.passLoss s n) := by
  unfold State.passLoss
  with_reducible repeat' (first | assumption | apply Sound.refl | intro _ | apply Sound.ite | apply State.lossIn_sound | apply State.modSess_sound | split | dsimp only)

theorem State.passFrag_sound {u₀ s : State} (h₀ : Sound u₀ s) (f : Nat) (n : Nat) (g : Frag) (closes : Bool) (t : PtpTime) : Sound u₀ (State.passFrag s f n g closes t) := by
  unfold State.passFrag
  with_reducible repeat' (first | assumption | apply Sound.refl | (intro x; refine Sound.via (t := x) ?_ (fun hx => ?_); on_goal 2 => clear_value x) | (intro x; refine Sound.via (t := x.1) ?_ (fun hx => ?_); on_goal 2 => clear_value x) | (intro x; clear_value x) | intro _ | apply Sound.ite | apply State.passClose_sound | apply State.passUnit_sound | apply State.setRxf_sound | lift_lets | split | dsimp only)

theorem State.passPacket_sound {u₀ s : State} (h₀ : Sound u₀ s) (f : Nat) (n : Nat) (q : RxStaged) : Sound u₀ (State.passPacket s f n q) := by
  unfold State.passPacket
  with_reducible repeat' (first | assumption | apply Sound.refl | (intro x; refine Sound.via (t := x) ?_ (fun hx => ?_); on_goal 2 => clear_value x) | (intro x; refine Sound.via (t := x.1) ?_ (fun hx => ?_); on_goal 2 => clear_value x) | (intro x; clear_value x) | intro _ | apply Sound.ite | apply State.passClose_sound | apply State.passFrag_sound | apply State.poolRelease_sound | apply State.satF_sound | apply State.setRxf_sound | apply Sound.each | lift_lets | split | dsimp only)

theorem State.rxPass_sound {u₀ s : State} (h₀ : Sound u₀ s) (f : Nat) (n : Nat) (y0 : Nat) : Sound u₀ (State.rxPass s f n y0) := by
  induction y0 generalizing s f n with
  | zero =>
    unfold State.rxPass
    with_reducible repeat' (first | assumption | apply Sound.refl | (intro x; refine Sound.via (t := x) ?_ (fun hx => ?_); on_goal 2 => clear_value x) | (intro x; refine Sound.via (t := x.1) ?_ (fun hx => ?_); on_goal 2 => clear_value x) | (intro x; clear_value x) | intro _ | apply Sound.ite | apply ih | apply State.passLoss_sound | apply State.passPacket_sound | apply State.setRxf_sound | lift_lets | split | dsimp only)
  | succ k ih =>
    unfold State.rxPass
    with_reducible repeat' (first | assumption | apply Sound.refl | (intro x; refine Sound.via (t := x) ?_ (fun hx => ?_); on_goal 2 => clear_value x) | (intro x; refine Sound.via (t := x.1) ?_ (fun hx => ?_); on_goal 2 => clear_value x) | (intro x; clear_value x) | intro _ | apply Sound.ite | apply ih | apply State.passLoss_sound | apply State.passPacket_sound | apply State.setRxf_sound | lift_lets | split | dsimp only)

theorem State.rxStage_sound {u₀ s : State} (h₀ : Sound u₀ s) (f : Nat) (n : Nat) (p : MediaPacket) (num : Nat) : Sound u₀ (State.rxStage s f n p num) := by
  unfold State.rxStage
  with_reducible repeat' (first | assumption | apply Sound.refl | (intro x; refine Sound.via (t := x) ?_ (fun hx => ?_); on_goal 2 => clear_value x) | (intro x; refine Sound.via (t := x.1) ?_ (fun hx => ?_); on_goal 2 => clear_value x) | (intro x; clear_value x) | intro _ | apply Sound.ite | apply State.event_sound | apply State.hbmWrite_sound | apply State.poolAlloc_sound | apply State.rxPass_sound | apply State.setRxf_sound | lift_lets | split | dsimp only)

theorem State.rxPacket_sound {u₀ s : State} (h₀ : Sound u₀ s) (f : Nat) (pathB : Bool) (p : MediaPacket) : Sound u₀ (State.rxPacket s f pathB p) := by
  unfold State.rxPacket
  with_reducible repeat' (first | assumption | apply Sound.refl | (intro x; refine Sound.via (t := x) ?_ (fun hx => ?_); on_goal 2 => clear_value x) | (intro x; refine Sound.via (t := x.1) ?_ (fun hx => ?_); on_goal 2 => clear_value x) | (intro x; clear_value x) | intro _ | apply Sound.ite | apply State.inc_sound | apply State.rxMerge_sound | apply State.rxSettle_sound | apply State.rxStage_sound | apply State.rxVideo_sound | apply State.satF_sound | lift_lets | split | dsimp only)

theorem State.rxLostLines_sound {u₀ s : State} (h₀ : Sound u₀ s) (f : Nat) (n : Nat) : Sound u₀ (State.rxLostLines s f n) := by
  unfold State.rxLostLines
  with_reducible repeat' (first | assumption | apply Sound.refl | (intro x; refine Sound.via (t := x) ?_ (fun hx => ?_); on_goal 2 => clear_value x) | (intro x; refine Sound.via (t := x.1) ?_ (fun hx => ?_); on_goal 2 => clear_value x) | (intro x; clear_value x) | intro _ | apply Sound.ite | apply State.rxRepairs_sound | lift_lets | split | dsimp only)

theorem State.rxLost_sound {u₀ s : State} (h₀ : Sound u₀ s) (f : Nat) : Sound u₀ (State.rxLost s f) := by
  unfold State.rxLost
  with_reducible repeat' (first | assumption | apply Sound.refl | (intro x; refine Sound.via (t := x) ?_ (fun hx => ?_); on_goal 2 => clear_value x) | (intro x; clear_value x) | intro _ | apply Sound.ite | apply State.event_sound | apply State.rxCloses_sound | apply State.rxLostLines_sound | apply State.rxPass_sound | apply State.rxSettle_sound | apply State.satF_sound | apply State.setRxf_sound | lift_lets | split | dsimp only)

theorem State.flowEnable_sound {u₀ s : State} (h₀ : Sound u₀ s) (tx : Bool) (f : Nat) : Sound u₀ (State.flowEnable s tx f) := by
  unfold State.flowEnable
  with_reducible repeat' (first | assumption | apply Sound.refl | (intro x; refine Sound.via (t := x) ?_ (fun hx => ?_); on_goal 2 => clear_value x) | (intro x; refine Sound.via (t := x.1) ?_ (fun hx => ?_); on_goal 2 => clear_value x) | (intro x; clear_value x) | intro _ | apply Sound.ite | apply State.event_sound | apply State.setB_sound | apply State.setF_sound | apply State.setRxf_sound | lift_lets | split | dsimp only)

theorem State.txDrop_sound {u₀ s : State} (h₀ : Sound u₀ s) (ps : List TxPic) (us : List TxUnit) : Sound u₀ (State.txDrop s ps us) := by
  unfold State.txDrop
  with_reducible repeat' (first | assumption | apply Sound.refl | (intro x; refine Sound.via (t := x) ?_ (fun hx => ?_); on_goal 2 => clear_value x) | (intro x; refine Sound.via (t := x.1) ?_ (fun hx => ?_); on_goal 2 => clear_value x) | (intro x; clear_value x) | intro _ | apply State.poolRelease_sound | apply State.sliceOut_sound | apply Sound.each | lift_lets | dsimp only)

theorem State.txSettle_sound {u₀ s : State} (h₀ : Sound u₀ s) (f : Nat) : Sound u₀ (State.txSettle s f) := by
  unfold State.txSettle
  with_reducible repeat' (first | assumption | apply Sound.refl | (intro x; refine Sound.via (t := x) ?_ (fun hx => ?_); on_goal 2 => clear_value x) | (intro x; clear_value x) | intro _ | apply Sound.ite | apply State.event_sound | apply State.setTxf_sound | lift_lets | split | dsimp only | apply Sound.record)

theorem State.flowDrain_sound {u₀ s : State} (h₀ : Sound u₀ s) (tx : Bool) (f : Nat) : Sound u₀ (State.flowDrain s tx f) := by
  unfold State.flowDrain
  with_reducible repeat' (first | assumption | apply Sound.refl | (intro x; refine Sound.via (t := x) ?_ (fun hx => ?_); on_goal 2 => clear_value x) | (intro x; refine Sound.via (t := x.1) ?_ (fun hx => ?_); on_goal 2 => clear_value x) | (intro x; clear_value x) | intro _ | apply Sound.ite | apply State.rxSettle_sound | apply State.setB_sound | apply State.setRxf_sound | apply State.setTxf_sound | apply State.txDrop_sound | apply State.txSettle_sound | lift_lets | split | dsimp only | apply Sound.record)

theorem State.flowAbort_sound {u₀ s : State} (h₀ : Sound u₀ s) (tx : Bool) (f : Nat) : Sound u₀ (State.flowAbort s tx f) := by
  unfold State.flowAbort
  with_reducible repeat' (first | assumption | apply Sound.refl | (intro x; refine Sound.via (t := x) ?_ (fun hx => ?_); on_goal 2 => clear_value x) | (intro x; refine Sound.via (t := x.1) ?_ (fun hx => ?_); on_goal 2 => clear_value x) | (intro x; clear_value x) | intro _ | apply Sound.ite | apply State.poolRelease_sound | apply State.rxSettle_sound | apply State.setB_sound | apply State.setRxf_sound | apply State.setTxf_sound | apply State.txDrop_sound | apply State.txSettle_sound | apply Sound.each | lift_lets | split | dsimp only)

theorem State.flowCtlWrite_sound {u₀ s : State} (h₀ : Sound u₀ s) (tx : Bool) (f : Nat) (v : W32) : Sound u₀ (State.flowCtlWrite s tx f v) := by
  unfold State.flowCtlWrite
  with_reducible repeat' (first | assumption | apply Sound.refl | (intro x; refine Sound.via (t := x) ?_ (fun hx => ?_); on_goal 2 => clear_value x) | (intro x; clear_value x) | intro _ | apply Sound.ite | apply State.flowAbort_sound | apply State.flowDrain_sound | apply State.flowEnable_sound | apply State.maskWrite_sound | apply State.setB_sound | lift_lets | split | dsimp only)

theorem State.txPath_sound {u₀ s : State} (h₀ : Sound u₀ s) (f : Nat) (path : Nat × Bool) (seq : Nat) (ts : W32) (marker : Bool) (payload : List Byte) : Sound u₀ (State.txPath s f path seq ts marker payload) := by
  unfold State.txPath
  with_reducible repeat' (first | assumption | apply Sound.refl | (intro x; refine Sound.via (t := x) ?_ (fun hx => ?_); on_goal 2 => clear_value x) | (intro x; refine Sound.via (t := x.1) ?_ (fun hx => ?_); on_goal 2 => clear_value x) | (intro x; clear_value x) | intro _ | apply Sound.ite | apply State.draw_sound | apply State.emit_sound | apply State.event_sound | apply State.inc_sound | apply State.portSend_sound | lift_lets | split | dsimp only)

theorem State.txSendOn_sound {u₀ s : State} (h₀ : Sound u₀ s) (f : Nat) (good : Bool → Bool) (ts : W32) (marker : Bool) (payload : List Byte) : Sound u₀ (State.txSendOn s f good ts marker payload) := by
  unfold State.txSendOn
  with_reducible repeat' (first | assumption | apply Sound.refl | (intro x; refine Sound.via (t := x) ?_ (fun hx => ?_); on_goal 2 => clear_value x) | (intro x; clear_value x) | intro _ | apply State.setReg_sound | apply State.txPath_sound | apply Sound.each | lift_lets | dsimp only)

theorem State.txSend_sound {u₀ s : State} (h₀ : Sound u₀ s) (f : Nat) (ts : W32) (marker : Bool) (payload : List Byte) : Sound u₀ (State.txSend s f ts marker payload) := by
  unfold State.txSend
  with_reducible repeat' (first | assumption | apply Sound.refl | intro _ | apply State.txSendOn_sound | dsimp only)

theorem State.txHand_sound {u₀ s : State} (h₀ : Sound u₀ s) (f : Nat) (a : Nat) (h : W32) : Sound u₀ (State.txHand s f a h) := by
  unfold State.txHand
  with_reducible repeat' (first | assumption | apply Sound.refl | (intro x; refine Sound.via (t := x) ?_ (fun hx => ?_); on_goal 2 => clear_value x) | (intro x; refine Sound.via (t := x.1) ?_ (fun hx => ?_); on_goal 2 => clear_value x) | (intro x; clear_value x) | intro _ | apply Sound.ite | apply State.event_sound | apply State.poolRelease_sound | apply State.satF_sound | apply State.setTxf_sound | apply State.txDrop_sound | apply Sound.each | lift_lets | split | dsimp only)

theorem State.txVideoDue_sound {u₀ s : State} (h₀ : Sound u₀ s) (f : Nat) (p : TxPic) : Sound u₀ (State.txVideoDue s f p) := by
  unfold State.txVideoDue
  with_reducible repeat' (first | assumption | apply Sound.refl | (intro x; refine Sound.via (t := x) ?_ (fun hx => ?_); on_goal 2 => clear_value x) | (intro x; refine Sound.via (t := x.1) ?_ (fun hx => ?_); on_goal 2 => clear_value x) | (intro x; clear_value x) | intro _ | apply Sound.ite | apply State.event_sound | apply State.inc_sound | apply State.satF_sound | apply State.setTxf_sound | apply State.subscribe_sound | apply State.txDrop_sound | apply State.txSend_sound | apply State.txSettle_sound | lift_lets | split | dsimp only)

theorem State.txSliceDue_sound {u₀ s : State} (h₀ : Sound u₀ s) (f : Nat) (u : TxUnit) : Sound u₀ (State.txSliceDue s f u) := by
  unfold State.txSliceDue
  with_reducible repeat' (first | assumption | apply Sound.refl | (intro x; refine Sound.via (t := x) ?_ (fun hx => ?_); on_goal 2 => clear_value x) | (intro x; refine Sound.via (t := x.1) ?_ (fun hx => ?_); on_goal 2 => clear_value x) | (intro x; clear_value x) | intro _ | apply Sound.ite | apply State.inc_sound | apply State.satF_sound | apply State.setTxf_sound | apply State.sliceOut_sound | apply State.txSendOn_sound | apply State.txSettle_sound | lift_lets | split | dsimp only)

theorem State.frameRecord_sound {u₀ s : State} (h₀ : Sound u₀ s) (n : Nat) (typ : Nat) (flags : Nat) (len : Nat) (h : W32) (valid : Bool) : Sound u₀ (State.frameRecord s n typ flags len h valid) := by
  unfold State.frameRecord
  with_reducible repeat' (first | assumption | apply Sound.refl | (intro x; refine Sound.via (t := x) ?_ (fun hx => ?_); on_goal 2 => clear_value x) | (intro x; refine Sound.via (t := x.1) ?_ (fun hx => ?_); on_goal 2 => clear_value x) | (intro x; clear_value x) | intro _ | apply Sound.ite | apply State.draw_sound | apply State.statusRing_sound | lift_lets | split | dsimp only)

theorem State.hostFrame_sound {u₀ s : State} (h₀ : Sound u₀ s) (n : Nat) (fr : Frame) : Sound u₀ (State.hostFrame s n fr) := by
  unfold State.hostFrame
  with_reducible repeat' (first | assumption | apply Sound.refl | (intro x; refine Sound.via (t := x) ?_ (fun hx => ?_); on_goal 2 => clear_value x) | (intro x; refine Sound.via (t := x.1) ?_ (fun hx => ?_); on_goal 2 => clear_value x) | (intro x; clear_value x) | intro _ | apply Sound.ite | apply State.event_sound | apply State.frameRecord_sound | apply State.hbmWrite_sound | apply State.poolAlloc_sound | apply State.satF_sound | lift_lets | split | dsimp only)

theorem State.frameIn_sound {u₀ s : State} (h₀ : Sound u₀ s) (n : Nat) (fr : Frame) : Sound u₀ (State.frameIn s n fr) := by
  unfold State.frameIn
  with_reducible repeat' (first | assumption | apply Sound.refl | (intro x; refine Sound.via (t := x) ?_ (fun hx => ?_); on_goal 2 => clear_value x) | (intro x; refine Sound.via (t := x.1) ?_ (fun hx => ?_); on_goal 2 => clear_value x) | (intro x; clear_value x) | intro _ | apply Sound.ite | apply State.hostFrame_sound | apply State.inc_sound | apply State.rxPacket_sound | apply State.satF_sound | lift_lets | split | dsimp only)

theorem State.htxWrite_sound {u₀ s : State} (h₀ : Sound u₀ s) (n : Nat) (v : W32) : Sound u₀ (State.htxWrite s n v) := by
  unfold State.htxWrite
  with_reducible repeat' (first | assumption | apply Sound.refl | (intro x; refine Sound.via (t := x) ?_ (fun hx => ?_); on_goal 2 => clear_value x) | (intro x; refine Sound.via (t := x.1) ?_ (fun hx => ?_); on_goal 2 => clear_value x) | (intro x; clear_value x) | intro _ | apply Sound.ite | apply State.event_sound | apply State.frameRecord_sound | apply State.poolRelease_sound | apply State.poolTransfer_sound | apply State.setHtxq_sound | lift_lets | split | dsimp only)

theorem State.frameSent_sound {u₀ s : State} (h₀ : Sound u₀ s) (n : Nat) : Sound u₀ (State.frameSent s n) := by
  unfold State.frameSent
  with_reducible repeat' (first | assumption | apply Sound.refl | (intro x; refine Sound.via (t := x) ?_ (fun hx => ?_); on_goal 2 => clear_value x) | (intro x; refine Sound.via (t := x.1) ?_ (fun hx => ?_); on_goal 2 => clear_value x) | (intro x; clear_value x) | intro _ | apply Sound.ite | apply State.emit_sound | apply State.frameRecord_sound | apply State.hbmRead_sound | apply State.inc_sound | apply State.poolRelease_sound | apply State.setHtxq_sound | lift_lets | split | dsimp only)

theorem State.mtcStep_sound {u₀ s : State} (h₀ : Sound u₀ s) (t : PtpTime) (frac : Int) : Sound u₀ (State.mtcStep s t frac) := by
  unfold State.mtcStep
  with_reducible repeat' (first | assumption | apply Sound.refl | (intro x; refine Sound.via (t := x) ?_ (fun hx => ?_); on_goal 2 => clear_value x) | (intro x; refine Sound.via (t := x.1) ?_ (fun hx => ?_); on_goal 2 => clear_value x) | (intro x; clear_value x) | intro _ | apply State.event_sound | apply State.inc_sound | apply State.setB_sound | lift_lets | dsimp only | apply Sound.record)

theorem State.mtcLoad_sound {u₀ s : State} (h₀ : Sound u₀ s) : Sound u₀ (State.mtcLoad s) := by
  unfold State.mtcLoad
  with_reducible repeat' (first | assumption | apply Sound.refl | apply State.mtcStep_sound | dsimp only)

theorem State.mtcAdj_sound {u₀ s : State} (h₀ : Sound u₀ s) : Sound u₀ (State.mtcAdj s) := by
  unfold State.mtcAdj
  with_reducible repeat' (first | assumption | apply Sound.refl | (intro x; refine Sound.via (t := x) ?_ (fun hx => ?_); on_goal 2 => clear_value x) | (intro x; clear_value x) | intro _ | apply State.mtcStep_sound | lift_lets | dsimp only)

theorem State.mtcSlew_sound {u₀ s : State} (h₀ : Sound u₀ s) : Sound u₀ (State.mtcSlew s) := by
  unfold State.mtcSlew
  with_reducible repeat' (first | assumption | apply Sound.refl | (intro x; refine Sound.via (t := x) ?_ (fun hx => ?_); on_goal 2 => clear_value x) | (intro x; clear_value x) | intro _ | apply Sound.ite | apply State.event_sound | lift_lets | split | dsimp only | apply Sound.record)

theorem State.mtcCmd_sound {u₀ s : State} (h₀ : Sound u₀ s) (v : W32) : Sound u₀ (State.mtcCmd s v) := by
  unfold State.mtcCmd
  with_reducible repeat' (first | assumption | apply Sound.refl | apply Sound.ite | apply State.mtcAdj_sound | apply State.mtcLoad_sound | apply State.mtcSlew_sound | split | dsimp only)

theorem State.slewEnd_sound {u₀ s : State} (h₀ : Sound u₀ s) : Sound u₀ (State.slewEnd s) := by
  unfold State.slewEnd
  with_reducible repeat' (first | assumption | apply Sound.refl | (intro x; refine Sound.via (t := x) ?_ (fun hx => ?_); on_goal 2 => clear_value x) | (intro x; refine Sound.via (t := x.1) ?_ (fun hx => ?_); on_goal 2 => clear_value x) | (intro x; clear_value x) | intro _ | apply State.event_sound | lift_lets | dsimp only | apply Sound.record)

theorem State.mtcRead_sound {u₀ s : State} (h₀ : Sound u₀ s) : Sound u₀ (State.mtcRead s).1 := by
  unfold State.mtcRead
  with_reducible repeat' (first | assumption | apply Sound.refl | apply State.setPair_sound | dsimp only)

/-! FabPort -/

theorem State.castling_sound {u₀ s : State} (h₀ : Sound u₀ s) (n : Nat) : Sound u₀ (State.castling s n) := by
  unfold State.castling
  with_reducible repeat' (first | assumption | apply Sound.refl | (intro x; refine Sound.via (t := x) ?_ (fun hx => ?_); on_goal 2 => clear_value x) | (intro x; clear_value x) | intro _ | apply State.setB_sound | lift_lets | dsimp only)

theorem State.modeWrite_sound {u₀ s : State} (h₀ : Sound u₀ s) (n : Nat) (v : W32) : Sound u₀ (State.modeWrite s n v) := by
  unfold State.modeWrite
  with_reducible repeat' (first | assumption | apply Sound.refl | (intro x; refine Sound.via (t := x) ?_ (fun hx => ?_); on_goal 2 => clear_value x) | (intro x; clear_value x) | intro _ | apply Sound.ite | apply State.castling_sound | apply State.setF_sound | apply State.setReg_sound | lift_lets | split | dsimp only)

theorem State.trainLink_sound {u₀ s : State} (h₀ : Sound u₀ s) (n : Nat) : Sound u₀ (State.trainLink s n) := by
  unfold State.trainLink
  with_reducible repeat' (first | assumption | apply Sound.refl | apply State.emit_sound | apply State.setPort_sound)

theorem State.e2eResend_sound {u₀ s : State} (h₀ : Sound u₀ s) (node : Nat) (vc : Nat) : Sound u₀ (State.e2eResend s node vc) := by
  unfold State.e2eResend
  with_reducible repeat' (first | assumption | apply Sound.refl | (intro x; refine Sound.via (t := x) ?_ (fun hx => ?_); on_goal 2 => clear_value x) | (intro x; refine Sound.via (t := x.1) ?_ (fun hx => ?_); on_goal 2 => clear_value x) | (intro x; clear_value x) | intro _ | apply Sound.ite | apply State.e2eOut_sound | apply State.satF_sound | apply State.setE2e_sound | apply Sound.each | lift_lets | split | dsimp only | apply Sound.record)

theorem State.failover_sound {u₀ s : State} (h₀ : Sound u₀ s) (n : Nat) : Sound u₀ (State.failover s n) := by
  unfold State.failover
  with_reducible repeat' (first | assumption | apply Sound.refl | (intro x; refine Sound.via (t := x) ?_ (fun hx => ?_); on_goal 2 => clear_value x) | (intro x; refine Sound.via (t := x.1) ?_ (fun hx => ?_); on_goal 2 => clear_value x) | (intro x; clear_value x) | intro _ | apply Sound.ite | apply State.e2eResend_sound | apply State.event_sound | apply State.setB_sound | apply State.setPort_sound | apply Sound.each | lift_lets | split | dsimp only)

theorem State.linkLost_sound {u₀ s : State} (h₀ : Sound u₀ s) (n : Nat) : Sound u₀ (State.linkLost s n) := by
  unfold State.linkLost
  with_reducible repeat' (first | assumption | apply Sound.refl | (intro x; refine Sound.via (t := x) ?_ (fun hx => ?_); on_goal 2 => clear_value x) | (intro x; clear_value x) | intro _ | apply Sound.ite | apply State.event_sound | apply State.failover_sound | apply State.noteFault_sound | apply State.setB_sound | apply State.setF_sound | apply State.setPort_sound | apply State.setReg_sound | apply Sound.each | lift_lets | split | dsimp only)

theorem State.linkUp_sound {u₀ s : State} (h₀ : Sound u₀ s) (n : Nat) (credits : List Nat) (reversed : Bool) : Sound u₀ (State.linkUp s n credits reversed) := by
  unfold State.linkUp
  with_reducible repeat' (first | assumption | apply Sound.refl | (intro x; refine Sound.via (t := x) ?_ (fun hx => ?_); on_goal 2 => clear_value x) | (intro x; refine Sound.via (t := x.1) ?_ (fun hx => ?_); on_goal 2 => clear_value x) | (intro x; clear_value x) | intro _ | apply Sound.ite | apply State.event_sound | apply State.setPort_sound | apply State.setReg_sound | apply Sound.each | lift_lets | split | dsimp only)

theorem State.failback_sound {u₀ s : State} (h₀ : Sound u₀ s) (n : Nat) : Sound u₀ (State.failback s n) := by
  unfold State.failback
  with_reducible repeat' (first | assumption | apply Sound.refl | (intro x; refine Sound.via (t := x) ?_ (fun hx => ?_); on_goal 2 => clear_value x) | (intro x; refine Sound.via (t := x.1) ?_ (fun hx => ?_); on_goal 2 => clear_value x) | (intro x; clear_value x) | intro _ | apply Sound.ite | apply State.event_sound | apply State.setB_sound | apply State.setE2e_sound | apply State.setPort_sound | apply Sound.each | lift_lets | split | dsimp only)

theorem State.altSettle_sound {u₀ s : State} (h₀ : Sound u₀ s) (node : Nat) : Sound u₀ (State.altSettle s node) := by
  unfold State.altSettle
  with_reducible repeat' (first | assumption | apply Sound.refl | apply Sound.ite | apply State.setE2e_sound | split | dsimp only)

theorem State.portEnable_sound {u₀ s : State} (h₀ : Sound u₀ s) (n : Nat) : Sound u₀ (State.portEnable s n) := by
  unfold State.portEnable
  with_reducible repeat' (first | assumption | apply Sound.refl | (intro x; refine Sound.via (t := x) ?_ (fun hx => ?_); on_goal 2 => clear_value x) | (intro x; clear_value x) | intro _ | apply Sound.ite | apply State.setB_sound | apply State.trainLink_sound | lift_lets | split | dsimp only)

/-! HostLink -/

theorem State.hostLostMark_sound {u₀ s : State} (h₀ : Sound u₀ s) : Sound u₀ (State.hostLostMark s) := by
  unfold State.hostLostMark
  with_reducible repeat' (first | assumption | apply Sound.refl | apply State.event_sound | apply State.setB_sound)

theorem State.hostDown_sound {u₀ s : State} (h₀ : Sound u₀ s) : Sound u₀ (State.hostDown s) := by
  unfold State.hostDown
  with_reducible repeat' (first | assumption | apply Sound.refl | apply State.linkUp_sound | apply State.setB_sound | apply Sound.record)

theorem State.hostLost_sound {u₀ s : State} (h₀ : Sound u₀ s) : Sound u₀ (State.hostLost s) := by
  unfold State.hostLost
  with_reducible repeat' (first | assumption | apply Sound.refl | (intro x; refine Sound.via (t := x) ?_ (fun hx => ?_); on_goal 2 => clear_value x) | (intro x; clear_value x) | intro _ | apply Sound.ite | apply State.cutDescs_sound | apply State.hostDown_sound | apply State.hostLostMark_sound | apply State.icEval_sound | apply State.linkUp_sound | apply State.noteFault_sound | apply State.setRing_sound | apply Sound.each | lift_lets | split | dsimp only)

theorem State.pmeRelease_sound {u₀ s : State} (h₀ : Sound u₀ s) : Sound u₀ (State.pmeRelease s) := by
  unfold State.pmeRelease
  with_reducible repeat' (first | assumption | apply Sound.refl | (intro x; refine Sound.via (t := x) ?_ (fun hx => ?_); on_goal 2 => clear_value x) | (intro x; clear_value x) | intro _ | apply Sound.ite | apply State.sendPme_sound | apply State.setFn_sound | apply Sound.each | lift_lets | split | dsimp only)

theorem State.hostTrain_sound {u₀ s : State} (h₀ : Sound u₀ s) : Sound u₀ (State.hostTrain s) := by
  unfold State.hostTrain
  with_reducible repeat' (first | assumption | apply Sound.refl | (intro x; refine Sound.via (t := x) ?_ (fun hx => ?_); on_goal 2 => clear_value x) | (intro x; refine Sound.via (t := x.1) ?_ (fun hx => ?_); on_goal 2 => clear_value x) | (intro x; clear_value x) | intro _ | apply Sound.ite | apply State.icEval_sound | apply State.linkUp_sound | apply State.ltrUpdate_sound | apply State.pmeRelease_sound | apply State.setReg_sound | apply Sound.each | lift_lets | split | dsimp only | apply Sound.record)

theorem State.ptmFail_sound {u₀ s : State} (h₀ : Sound u₀ s) : Sound u₀ (State.ptmFail s) := by
  unfold State.ptmFail
  with_reducible repeat' (first | assumption | apply Sound.refl | apply State.event_sound | apply State.setB_sound | apply Sound.record)

theorem State.ptmLatch_sound {u₀ s : State} (h₀ : Sound u₀ s) (t : PtpTime) (master : W64) : Sound u₀ (State.ptmLatch s t master) := by
  unfold State.ptmLatch
  with_reducible repeat' (first | assumption | apply Sound.refl | (intro x; refine Sound.via (t := x) ?_ (fun hx => ?_); on_goal 2 => clear_value x) | (intro x; clear_value x) | intro _ | apply State.event_sound | apply State.setB_sound | apply State.setPair_sound | apply State.setReg_sound | lift_lets | dsimp only | apply Sound.record)

theorem State.ptmStart_sound {u₀ s : State} (h₀ : Sound u₀ s) : Sound u₀ (State.ptmStart s) := by
  unfold State.ptmStart
  with_reducible repeat' (first | assumption | apply Sound.refl | apply Sound.ite | apply State.setB_sound | split | dsimp only | apply Sound.record)

theorem State.heldFlush_sound {u₀ s : State} (h₀ : Sound u₀ s) (k : Nat) : Sound u₀ (State.heldFlush s k) := by
  unfold State.heldFlush
  with_reducible repeat' (first | assumption | apply Sound.refl | intro _ | apply State.flushHeld_sound | apply Sound.each | dsimp only)

theorem State.powerState_sound {u₀ s : State} (h₀ : Sound u₀ s) (k : Nat) (d3 : Bool) (pmeEn : Bool) (clearPme : Bool) : Sound u₀ (State.powerState s k d3 pmeEn clearPme) := by
  unfold State.powerState
  with_reducible repeat' (first | assumption | apply Sound.refl | (intro x; refine Sound.via (t := x) ?_ (fun hx => ?_); on_goal 2 => clear_value x) | (intro x; refine Sound.via (t := x.1) ?_ (fun hx => ?_); on_goal 2 => clear_value x) | (intro x; clear_value x) | intro _ | apply Sound.ite | apply State.dmaRetire_sound | apply State.heldFlush_sound | apply State.icEval_sound | apply State.ltrUpdate_sound | apply State.setFn_sound | apply Sound.each | lift_lets | split | dsimp only)

theorem State.vfSet_sound {u₀ s : State} (h₀ : Sound u₀ s) (en : Bool) (ari : Bool) (n : Nat) : Sound u₀ (State.vfSet s en ari n) := by
  unfold State.vfSet
  with_reducible repeat' (first | assumption | apply Sound.refl | (intro x; refine Sound.via (t := x) ?_ (fun hx => ?_); on_goal 2 => clear_value x) | (intro x; refine Sound.via (t := x.1) ?_ (fun hx => ?_); on_goal 2 => clear_value x) | (intro x; clear_value x) | intro _ | apply State.icReset_sound | apply State.setFn_sound | apply Sound.each | lift_lets | dsimp only | apply Sound.record)

theorem State.ringEnd_sound {u₀ s : State} (h₀ : Sound u₀ s) (r : Nat) : Sound u₀ (State.ringEnd s r) := by
  unfold State.ringEnd
  with_reducible repeat' (first | assumption | apply Sound.refl | apply State.ringAbortWork_sound | apply State.ringReset_sound)

theorem State.flr_sound {u₀ s : State} (h₀ : Sound u₀ s) (k : Nat) : Sound u₀ (State.flr s k) := by
  unfold State.flr
  with_reducible repeat' (first | assumption | apply Sound.refl | (intro x; refine Sound.via (t := x) ?_ (fun hx => ?_); on_goal 2 => clear_value x) | (intro x; clear_value x) | intro _ | apply State.closeAbort_sound | apply State.event_sound | apply State.heldFlush_sound | apply State.icReset_sound | apply State.incF_sound | apply State.ltrUpdate_sound | apply State.modSess_sound | apply State.releaseAgent_sound | apply State.ringAbortWork_sound | apply State.ringReset_sound | apply State.setFn_sound | apply Sound.each | lift_lets | dsimp only)

theorem State.hifReset_sound {u₀ s : State} (h₀ : Sound u₀ s) : Sound u₀ (State.hifReset s) := by
  unfold State.hifReset
  with_reducible repeat' (first | assumption | apply Sound.refl | (intro x; refine Sound.via (t := x) ?_ (fun hx => ?_); on_goal 2 => clear_value x) | (intro x; clear_value x) | intro _ | apply Sound.ite | apply State.event_sound | apply State.flushHeld_sound | apply State.hostDown_sound | apply State.hostLostMark_sound | apply State.icReset_sound | apply State.incF_sound | apply State.ptmFail_sound | apply State.ringAbortWork_sound | apply State.ringReset_sound | apply Sound.each | lift_lets | split | dsimp only | apply Sound.record)

/-! Hbm -/

theorem State.queuePlace_sound {u₀ s : State} (h₀ : Sound u₀ s) (write : Bool) (sector : Nat) : Sound u₀ (State.queuePlace s write sector) := by
  unfold State.queuePlace
  with_reducible repeat' (first | assumption | apply Sound.refl | (intro x; refine Sound.via (t := x) ?_ (fun hx => ?_); on_goal 2 => clear_value x) | (intro x; refine Sound.via (t := x.1) ?_ (fun hx => ?_); on_goal 2 => clear_value x) | (intro x; clear_value x) | intro _ | apply Sound.ite | apply State.inc_sound | apply State.setPch_sound | apply State.whenB_sound | lift_lets | split | dsimp only)

theorem State.queueRange_sound {u₀ s : State} (h₀ : Sound u₀ s) (write : Bool) (a : Nat) (n : Nat) : Sound u₀ (State.queueRange s write a n) := by
  unfold State.queueRange
  with_reducible repeat' (first | assumption | apply Sound.refl | intro _ | apply State.queuePlace_sound | apply Sound.each | dsimp only)

theorem State.serveRead_sound {u₀ s : State} (h₀ : Sound u₀ s) (agent : Nat) (a : Nat) (n : Nat) : Sound u₀ (State.serveRead s agent a n) := by
  unfold State.serveRead
  with_reducible repeat' (first | assumption | apply Sound.refl | (intro x; refine Sound.via (t := x) ?_ (fun hx => ?_); on_goal 2 => clear_value x) | (intro x; clear_value x) | intro _ | apply Sound.ite | apply State.emit_sound | apply State.hbmRead_sound | apply State.queueRange_sound | lift_lets | split | dsimp only)

theorem State.serveWrite_sound {u₀ s : State} (h₀ : Sound u₀ s) (agent : Nat) (a : Nat) (bs : List Byte) (pois : Bool) : Sound u₀ (State.serveWrite s agent a bs pois) := by
  unfold State.serveWrite
  with_reducible repeat' (first | assumption | apply Sound.refl | apply State.emit_sound | apply State.hbmWrite_sound | apply State.queueRange_sound)

theorem State.hbmRequest_sound {u₀ s : State} (h₀ : Sound u₀ s) (h : HbmHeld) : Sound u₀ (State.hbmRequest s h) := by
  unfold State.hbmRequest
  with_reducible repeat' (first | assumption | apply Sound.refl | apply Sound.ite | apply State.serveRead_sound | apply State.serveWrite_sound | apply State.setStack_sound | split | dsimp only)

theorem State.memUpdate_sound {u₀ s : State} (h₀ : Sound u₀ s) : Sound u₀ (State.memUpdate s) := by
  unfold State.memUpdate
  with_reducible repeat' (first | assumption | apply Sound.refl | (intro x; refine Sound.via (t := x) ?_ (fun hx => ?_); on_goal 2 => clear_value x) | (intro x; clear_value x) | intro _ | apply Sound.ite | apply State.event_sound | apply State.setB_sound | lift_lets | split | dsimp only)

theorem State.laneSwept_sound {u₀ s : State} (h₀ : Sound u₀ s) (i : Nat) (sw : List LaneSweep) (j : Nat) (write : Bool) : Sound u₀ (State.laneSwept s i sw j write).1 := by
  unfold State.laneSwept
  with_reducible repeat' (first | assumption | apply Sound.refl | intro _ | apply Sound.ite | apply State.setStack_sound | split | dsimp only)

theorem State.laneStore_sound {u₀ s : State} (h₀ : Sound u₀ s) (i : Nat) (j : Nat) (write : Bool) (tap : Nat) (width : Nat) : Sound u₀ (State.laneStore s i j write tap width) := by
  unfold State.laneStore
  with_reducible repeat' (first | assumption | apply Sound.refl | (intro x; refine Sound.via (t := x) ?_ (fun hx => ?_); on_goal 2 => clear_value x) | (intro x; clear_value x) | intro _ | apply State.setF_sound | lift_lets | dsimp only)

theorem State.marginalNote_sound {u₀ s : State} (h₀ : Sound u₀ s) (i : Nat) (lanes : List Nat) : Sound u₀ (State.marginalNote s i lanes) := by
  unfold State.marginalNote
  with_reducible repeat' (first | assumption | apply Sound.refl | (intro x; refine Sound.via (t := x) ?_ (fun hx => ?_); on_goal 2 => clear_value x) | (intro x; clear_value x) | intro _ | apply State.event_sound | apply State.noteFault_sound | apply State.setF_sound | apply Sound.each | lift_lets | dsimp only)

theorem State.trainStart_sound {u₀ s : State} (h₀ : Sound u₀ s) (i : Nat) : Sound u₀ (State.trainStart s i) := by
  unfold State.trainStart
  with_reducible repeat' (first | assumption | apply Sound.refl | apply State.setB_sound)

theorem State.fullStart_sound {u₀ s : State} (h₀ : Sound u₀ s) (i : Nat) : Sound u₀ (State.fullStart s i) := by
  unfold State.fullStart
  with_reducible repeat' (first | assumption | apply Sound.refl | (intro x; refine Sound.via (t := x) ?_ (fun hx => ?_); on_goal 2 => clear_value x) | (intro x; refine Sound.via (t := x.1) ?_ (fun hx => ?_); on_goal 2 => clear_value x) | (intro x; clear_value x) | intro _ | apply State.setB_sound | apply State.setPch_sound | apply Sound.each | lift_lets | dsimp only)

theorem State.hbtWrite_sound {u₀ s : State} (h₀ : Sound u₀ s) (i : Nat) (v : W32) : Sound u₀ (State.hbtWrite s i v) := by
  unfold State.hbtWrite
  with_reducible repeat' (first | assumption | apply Sound.refl | (intro x; refine Sound.via (t := x) ?_ (fun hx => ?_); on_goal 2 => clear_value x) | (intro x; clear_value x) | intro _ | apply Sound.ite | apply State.fullStart_sound | apply State.setB_sound | apply State.setReg_sound | apply State.setStack_sound | lift_lets | split | dsimp only)

theorem State.releaseHeld_sound {u₀ s : State} (h₀ : Sound u₀ s) (i : Nat) : Sound u₀ (State.releaseHeld s i) := by
  unfold State.releaseHeld
  with_reducible repeat' (first | assumption | apply Sound.refl | intro _ | apply State.hbmRequest_sound | apply State.setStack_sound | apply Sound.each | dsimp only)

theorem State.trainEnd_sound {u₀ s : State} (h₀ : Sound u₀ s) (i : Nat) (temp : BitVec 8) (sw : List LaneSweep) (us : W32) : Sound u₀ (State.trainEnd s i temp sw us) := by
  unfold State.trainEnd
  with_reducible repeat' (first | assumption | apply Sound.refl | (intro x; refine Sound.via (t := x) ?_ (fun hx => ?_); on_goal 2 => clear_value x) | (intro x; refine Sound.via (t := x.1) ?_ (fun hx => ?_); on_goal 2 => clear_value x) | (intro x; clear_value x) | intro _ | apply Sound.ite | apply State.event_sound | apply State.incF_sound | apply State.laneStore_sound | apply State.laneSwept_sound | apply State.marginalNote_sound | apply State.memUpdate_sound | apply State.noteFault_sound | apply State.releaseHeld_sound | apply State.setB_sound | apply State.setF_sound | apply State.setReg_sound | apply State.setStack_sound | apply Sound.each | lift_lets | split | dsimp only)

theorem State.trackRun_sound {u₀ s : State} (h₀ : Sound u₀ s) (i : Nat) (sw : List LaneSweep) (us : W32) : Sound u₀ (s.trackRun i sw us) := by
  have one : ∀ {a t : State}, Sound a t → ∀ (j : Nat) (write : Bool), Sound a
      (match trackLane (t.laneSwept i sw j write).2 (t.f (HBT_LANE i j) (laneHalf write + 6) (laneHalf write)) with
      | some r => ((t.laneSwept i sw j write).1.laneStore i j write r.1 r.2, true)
      | none => ((t.laneSwept i sw j write).1, false)).1 := by
    intro a t h j write
    split
    · exact State.laneStore_sound (State.laneSwept_sound h _ _ _ _) _ _ _ _ _
    · exact State.laneSwept_sound h _ _ _ _
  unfold State.trackRun
  dsimp only
  apply State.releaseHeld_sound
  apply State.memUpdate_sound
  apply State.event_sound
  apply State.setB_sound
  apply State.setB_sound
  apply State.setB_sound
  apply State.setStack_sound
  apply State.setReg_sound
  apply State.incF_sound
  apply State.setReg_sound
  apply State.marginalNote_sound
  apply Sound.foldlPair (p := (s, [])) h₀
  intro a b h j
  dsimp only
  apply Sound.ite
  · exact one (one h _ _) _ _
  · exact State.noteFault_sound (State.event_sound (one (one h _ _) _ _) _ _) _ _ _ _

theorem State.mapWrite_sound {u₀ s : State} (h₀ : Sound u₀ s) (v : W32) : Sound u₀ (State.mapWrite s v) := by
  unfold State.mapWrite
  with_reducible repeat' (first | assumption | apply Sound.refl | intro _ | apply Sound.ite | apply State.event_sound | apply State.setReg_sound | split | dsimp only)

theorem State.pprSoft_sound {u₀ s : State} (h₀ : Sound u₀ s) (i : Nat) : Sound u₀ (State.pprSoft s i) := by
  unfold State.pprSoft
  with_reducible repeat' (first | assumption | apply Sound.refl | (intro x; refine Sound.via (t := x) ?_ (fun hx => ?_); on_goal 2 => clear_value x) | (intro x; clear_value x) | intro _ | apply Sound.ite | apply State.draw_sound | apply State.event_sound | apply State.setStack_sound | lift_lets | split | dsimp only)

theorem State.pprHard_sound {u₀ s : State} (h₀ : Sound u₀ s) (i : Nat) : Sound u₀ (State.pprHard s i) := by
  unfold State.pprHard
  with_reducible repeat' (first | assumption | apply Sound.refl | (intro x; refine Sound.via (t := x) ?_ (fun hx => ?_); on_goal 2 => clear_value x) | (intro x; clear_value x) | intro _ | apply Sound.ite | apply State.draw_sound | apply State.event_sound | apply State.setStack_sound | lift_lets | split | dsimp only)

theorem State.pprWrite_sound {u₀ s : State} (h₀ : Sound u₀ s) (i : Nat) (v : W32) : Sound u₀ (State.pprWrite s i v) := by
  unfold State.pprWrite
  with_reducible repeat' (first | assumption | apply Sound.refl | apply Sound.ite | apply State.pprHard_sound | apply State.pprSoft_sound | split | dsimp only)

theorem State.pprApply_sound {u₀ s : State} (h₀ : Sound u₀ s) (i : Nat) (cold : Bool) : Sound u₀ (State.pprApply s i cold) := by
  unfold State.pprApply
  with_reducible repeat' (first | assumption | apply Sound.refl | (intro x; refine Sound.via (t := x) ?_ (fun hx => ?_); on_goal 2 => clear_value x) | (intro x; refine Sound.via (t := x.1) ?_ (fun hx => ?_); on_goal 2 => clear_value x) | (intro x; clear_value x) | intro _ | apply Sound.ite | apply State.setStack_sound | lift_lets | split | dsimp only)

theorem agesAdvance_sound {u₀ s : State} (h₀ : Sound u₀ s) : Sound u₀ (agesAdvance s) := by
  unfold agesAdvance
  with_reducible repeat' (first | assumption | apply Sound.refl | (intro x; refine Sound.via (t := x) ?_ (fun hx => ?_); on_goal 2 => clear_value x) | (intro x; clear_value x) | intro _ | lift_lets | dsimp only | apply Sound.record)

end Sys2Proof.Machine
end

