-- ==== Sys2Proof/Laws/SoundChip.lean ====
section
/-! SUPPORT. The same of clocks, blocks, faults, resets, power, the fabric, register access, the bus, DMA, sequencers, remote requests and idling. -/

set_option linter.unusedTactic false
set_option linter.unreachableTactic false

namespace Sys2Proof.Machine

/-! ClockBase -/

theorem State.ckgEvent_sound {u₀ s : State} (h₀ : Sound u₀ s) (b : Nat) : Sound u₀ (State.ckgEvent s b) := by
  unfold State.ckgEvent
  with_reducible repeat' (first | assumption | apply Sound.refl | (intro x; refine Sound.via (t := x) ?_ (fun hx => ?_); on_goal 2 => clear_value x) | (intro x; clear_value x) | intro _ | apply Sound.ite | apply State.event_sound | apply State.latch_sound | lift_lets | split | dsimp only | apply Sound.record)

theorem State.setQual_sound {u₀ s : State} (h₀ : Sound u₀ s) (b : Bool) (q : Bool) : Sound u₀ (State.setQual s b q) := by
  unfold State.setQual
  with_reducible repeat' (first | assumption | apply Sound.refl | apply Sound.ite | apply State.setB_sound | split | dsimp only)

theorem State.setRef_sound {u₀ s : State} (h₀ : Sound u₀ s) (b : Bool) (ok : Bool) : Sound u₀ (State.setRef s b ok) := by
  unfold State.setRef
  with_reducible repeat' (first | assumption | apply Sound.refl | (intro x; refine Sound.via (t := x) ?_ (fun hx => ?_); on_goal 2 => clear_value x) | (intro x; clear_value x) | intro _ | apply Sound.ite | apply State.setB_sound | lift_lets | split | dsimp only | apply Sound.record)

theorem State.refUpdate_sound {u₀ s : State} (h₀ : Sound u₀ s) : Sound u₀ (State.refUpdate s) := by
  unfold State.refUpdate
  with_reducible repeat' (first | assumption | apply Sound.refl | apply State.setRef_sound)

theorem State.setSys_sound {u₀ s : State} (h₀ : Sound u₀ s) (b : Bool) : Sound u₀ (State.setSys s b) := by
  unfold State.setSys
  with_reducible repeat' (first | assumption | apply Sound.refl | (intro x; refine Sound.via (t := x) ?_ (fun hx => ?_); on_goal 2 => clear_value x) | (intro x; clear_value x) | intro _ | apply Sound.ite | apply State.setB_sound | lift_lets | split | dsimp only | apply Sound.record)

theorem State.pllSwitch_sound {u₀ s : State} (h₀ : Sound u₀ s) (b : Bool) : Sound u₀ (State.pllSwitch s b) := by
  unfold State.pllSwitch
  with_reducible repeat' (first | assumption | apply Sound.refl | apply State.event_sound | apply State.inc_sound | apply State.setSys_sound)

theorem State.stackStop_sound {u₀ s : State} (h₀ : Sound u₀ s) (usable : Bool) (i : Nat) : Sound u₀ (s.stackStop usable i) := by
  unfold State.stackStop
  refine Sound.ite (State.setStack_sound h₀ _ _) (Sound.ite h₀ (State.noteFault_sound (State.event_sound ?_ _ _) _ _ _ _))
  refine h₀.trans ⟨rfl, rfl, rfl, rfl, fun m => ⟨?_, m.2⟩⟩
  refine tabWf_congr ?_ (tabWf_filter _ m.1)
  intro e he
  have hi : e.1 / (s.stackGiB * GiB) ≠ i := by simpa using (List.mem_filter.1 he).2
  show (match tabGet (fun _ => 0) (tabPut (fun _ => 0) s.memSeed i (s.fresh + 1)) (e.1 / (s.stackGiB * GiB)) with
    | 0 => memDefault e.1
    | n + 1 => Config.freeByte (n + e.1)) = s.hbmDefault e.1
  rw [tabGet_put_ne _ _ _ hi]
  rfl

theorem State.stacksStop_sound {u₀ s : State} (h₀ : Sound u₀ s) (usable : Bool) : Sound u₀ (State.stacksStop s usable) := by
  unfold State.stacksStop
  with_reducible repeat' (first | assumption | apply Sound.refl | (intro x; refine Sound.via (t := x) ?_ (fun hx => ?_); on_goal 2 => clear_value x) | (intro x; clear_value x) | intro _ | apply Sound.ite | apply State.stackStop_sound | apply Sound.each | lift_lets | split | dsimp only | apply Sound.record)

theorem State.stopPulse_sound {u₀ s : State} (h₀ : Sound u₀ s) : Sound u₀ (State.stopPulse s) := by
  unfold State.stopPulse
  with_reducible repeat' (first | assumption | apply Sound.refl | apply Sound.record)

theorem State.clockStop_sound {u₀ s : State} (h₀ : Sound u₀ s) (usable : Bool) (st : ClockState) : Sound u₀ (State.clockStop s usable st) := by
  unfold State.clockStop
  with_reducible repeat' (first | assumption | apply Sound.refl | (intro x; refine Sound.via (t := x) ?_ (fun hx => ?_); on_goal 2 => clear_value x) | (intro x; clear_value x) | intro _ | apply State.linkLost_sound | apply State.stacksStop_sound | apply State.stopPulse_sound | apply Sound.each | lift_lets | dsimp only | apply Sound.record)

theorem State.fallback_sound {u₀ s : State} (h₀ : Sound u₀ s) (usable : Bool) : Sound u₀ (State.fallback s usable) := by
  unfold State.fallback
  with_reducible repeat' (first | assumption | apply Sound.refl | apply Sound.ite | apply State.clockStop_sound | apply State.pllSwitch_sound | split | dsimp only)

theorem State.pllFail_sound {u₀ s : State} (h₀ : Sound u₀ s) (b : Bool) (refLost : Bool) : Sound u₀ (State.pllFail s b refLost) := by
  unfold State.pllFail
  with_reducible repeat' (first | assumption | apply Sound.refl | (intro x; refine Sound.via (t := x) ?_ (fun hx => ?_); on_goal 2 => clear_value x) | (intro x; clear_value x) | intro _ | apply Sound.ite | apply State.ckgEvent_sound | apply State.fallback_sound | apply State.noteFault_sound | apply State.setQual_sound | apply State.setRef_sound | lift_lets | split | dsimp only)

theorem State.bothFail_sound {u₀ s : State} (h₀ : Sound u₀ s) : Sound u₀ (State.bothFail s) := by
  unfold State.bothFail
  with_reducible repeat' (first | assumption | apply Sound.refl | (intro x; refine Sound.via (t := x) ?_ (fun hx => ?_); on_goal 2 => clear_value x) | (intro x; refine Sound.via (t := x.1) ?_ (fun hx => ?_); on_goal 2 => clear_value x) | (intro x; clear_value x) | intro _ | apply Sound.ite | apply State.ckgEvent_sound | apply State.clockStop_sound | apply State.noteFault_sound | apply State.setQual_sound | apply State.setRef_sound | apply Sound.each | lift_lets | split | dsimp only)

theorem State.refDisagree_sound {u₀ s : State} (h₀ : Sound u₀ s) : Sound u₀ (State.refDisagree s) := by
  unfold State.refDisagree
  with_reducible repeat' (first | assumption | apply Sound.refl | apply Sound.ite | apply State.ckgEvent_sound | apply State.noteFault_sound | apply State.setQual_sound | split | dsimp only)

theorem State.linkDown_sound {u₀ s : State} (h₀ : Sound u₀ s) (n : Nat) : Sound u₀ (State.linkDown s n) := by
  unfold State.linkDown
  with_reducible repeat' (first | assumption | apply Sound.refl | (intro x; refine Sound.via (t := x) ?_ (fun hx => ?_); on_goal 2 => clear_value x) | (intro x; clear_value x) | intro _ | apply Sound.ite | apply State.linkLost_sound | apply State.pllFail_sound | lift_lets | split | dsimp only)

theorem State.linkRetrain_sound {u₀ s : State} (h₀ : Sound u₀ s) (n : Nat) : Sound u₀ (State.linkRetrain s n) := by
  unfold State.linkRetrain
  with_reducible repeat' (first | assumption | apply Sound.refl | apply Sound.ite | apply State.trainLink_sound | split | dsimp only)

theorem State.meterHeld_sound {u₀ s : State} (h₀ : Sound u₀ s) : Sound u₀ (State.meterHeld s) := by
  unfold State.meterHeld
  with_reducible repeat' (first | assumption | apply Sound.refl | apply Sound.ite | apply State.draw_sound | apply State.event_sound | apply State.setB_sound | apply State.setReg_sound | split | dsimp only)

theorem State.mtcStopped_sound {u₀ s : State} (h₀ : Sound u₀ s) : Sound u₀ (State.mtcStopped s) := by
  unfold State.mtcStopped
  with_reducible repeat' (first | assumption | apply Sound.refl | apply State.event_sound | apply State.setB_sound)

theorem State.restart_sound {u₀ s : State} (h₀ : Sound u₀ s) (b : Bool) (us : Nat) : Sound u₀ (State.restart s b us) := by
  unfold State.restart
  with_reducible repeat' (first | assumption | apply Sound.refl | (intro x; refine Sound.via (t := x) ?_ (fun hx => ?_); on_goal 2 => clear_value x) | (intro x; refine Sound.via (t := x.1) ?_ (fun hx => ?_); on_goal 2 => clear_value x) | (intro x; clear_value x) | intro _ | apply Sound.ite | apply State.event_sound | apply State.hostLost_sound | apply State.incF_sound | apply State.linkRetrain_sound | apply State.meterHeld_sound | apply State.mtcStopped_sound | apply State.noteFault_sound | apply State.setF_sound | apply State.setReg_sound | apply State.setStack_sound | apply State.setSys_sound | apply Sound.each | lift_lets | split | dsimp only | apply Sound.record)

/-! Blocks -/

theorem State.dropHalves_sound {u₀ s : State} (h₀ : Sound u₀ s) (first : Nat) (n : Nat) : Sound u₀ (State.dropHalves s first n) := by
  unfold State.dropHalves
  with_reducible repeat' (first | assumption | apply Sound.refl | (intro x; refine Sound.via (t := x) ?_ (fun hx => ?_); on_goal 2 => clear_value x) | (intro x; refine Sound.via (t := x.1) ?_ (fun hx => ?_); on_goal 2 => clear_value x) | (intro x; clear_value x) | intro _ | lift_lets | dsimp only | apply Sound.record)

theorem State.clearPages_sound {u₀ s : State} (h₀ : Sound u₀ s) (first : Nat) (n : Nat) : Sound u₀ (State.clearPages s first n) := by
  unfold State.clearPages
  with_reducible repeat' (first | assumption | apply Sound.refl | intro _ | apply State.clearRegs_sound | apply State.dropHalves_sound | dsimp only)

theorem State.requestsEnd_sound {u₀ s : State} (h₀ : Sound u₀ s) (p : Nat) : Sound u₀ (State.requestsEnd s p) := by
  unfold State.requestsEnd
  with_reducible repeat' (first | assumption | apply Sound.refl | intro _ | apply Sound.ite | apply State.remotesFail_sound | split | dsimp only)

theorem State.pipeReset_sound {u₀ s : State} (h₀ : Sound u₀ s) (p : Nat) : Sound u₀ (State.pipeReset s p) := by
  unfold State.pipeReset
  with_reducible repeat' (first | assumption | apply Sound.refl | (intro x; refine Sound.via (t := x) ?_ (fun hx => ?_); on_goal 2 => clear_value x) | (intro x; refine Sound.via (t := x.1) ?_ (fun hx => ?_); on_goal 2 => clear_value x) | (intro x; clear_value x) | intro _ | apply State.bindFlow_sound | apply State.clearPages_sound | apply State.pipeAbort_sound | apply State.poolRelease_sound | apply State.releaseAgent_sound | apply State.setPipe_sound | apply State.setTxf_sound | apply Sound.each | lift_lets | dsimp only)

theorem State.portReset_sound {u₀ s : State} (h₀ : Sound u₀ s) (n : Nat) : Sound u₀ (State.portReset s n) := by
  unfold State.portReset
  with_reducible repeat' (first | assumption | apply Sound.refl | (intro x; refine Sound.via (t := x) ?_ (fun hx => ?_); on_goal 2 => clear_value x) | (intro x; clear_value x) | intro _ | apply State.castling_sound | apply State.clearPages_sound | apply State.linkDown_sound | apply State.refUpdate_sound | apply State.releaseAgent_sound | apply State.setPort_sound | lift_lets | dsimp only)

theorem State.switchReset_sound {u₀ s : State} (h₀ : Sound u₀ s) : Sound u₀ (State.switchReset s) := by
  unfold State.switchReset
  with_reducible repeat' (first | assumption | apply Sound.refl | apply State.clearPages_sound | dsimp only | apply Sound.record)

theorem State.flowEmpty_sound {u₀ s : State} (h₀ : Sound u₀ s) (tx : Bool) (f : Nat) : Sound u₀ (State.flowEmpty s tx f) := by
  unfold State.flowEmpty
  with_reducible repeat' (first | assumption | apply Sound.refl | (intro x; refine Sound.via (t := x) ?_ (fun hx => ?_); on_goal 2 => clear_value x) | (intro x; refine Sound.via (t := x.1) ?_ (fun hx => ?_); on_goal 2 => clear_value x) | (intro x; clear_value x) | intro _ | apply Sound.ite | apply State.poolRelease_sound | apply State.setRxf_sound | apply State.setTxf_sound | apply State.txDrop_sound | apply Sound.each | lift_lets | split | dsimp only)

theorem State.engineAbort_sound {u₀ s : State} (h₀ : Sound u₀ s) (n : Nat) : Sound u₀ (State.engineAbort s n) := by
  unfold State.engineAbort
  with_reducible repeat' (first | assumption | apply Sound.refl | intro _ | apply State.flowEmpty_sound | apply State.rxSettle_sound | apply State.txSettle_sound | apply Sound.each | dsimp only)

theorem State.engineReset_sound {u₀ s : State} (h₀ : Sound u₀ s) (n : Nat) : Sound u₀ (State.engineReset s n) := by
  unfold State.engineReset
  with_reducible repeat' (first | assumption | apply Sound.refl | (intro x; refine Sound.via (t := x) ?_ (fun hx => ?_); on_goal 2 => clear_value x) | (intro x; refine Sound.via (t := x.1) ?_ (fun hx => ?_); on_goal 2 => clear_value x) | (intro x; clear_value x) | intro _ | apply State.clearPages_sound | apply State.engineAbort_sound | apply State.releaseAgent_sound | apply State.setHtxq_sound | apply State.setRxf_sound | apply State.setTxf_sound | apply Sound.each | lift_lets | dsimp only)

theorem State.hedgeEnd_sound {u₀ s : State} (h₀ : Sound u₀ s) (h : Nat) (all : Bool) : Sound u₀ (State.hedgeEnd s h all) := by
  unfold State.hedgeEnd
  with_reducible repeat' (first | assumption | apply Sound.refl | (intro x; refine Sound.via (t := x) ?_ (fun hx => ?_); on_goal 2 => clear_value x) | (intro x; refine Sound.via (t := x.1) ?_ (fun hx => ?_); on_goal 2 => clear_value x) | (intro x; clear_value x) | intro _ | apply Sound.ite | apply State.decCut_sound | apply State.decsRetire_sound | apply State.encCut_sound | apply State.picsCut_sound | apply Sound.each | lift_lets | split | dsimp only)

theorem State.seqRestart_sound {u₀ s : State} (h₀ : Sound u₀ s) (q : Nat) : Sound u₀ (State.seqRestart s q) := by
  unfold State.seqRestart
  with_reducible repeat' (first | assumption | apply Sound.refl | (intro x; refine Sound.via (t := x) ?_ (fun hx => ?_); on_goal 2 => clear_value x) | (intro x; refine Sound.via (t := x.1) ?_ (fun hx => ?_); on_goal 2 => clear_value x) | (intro x; clear_value x) | intro _ | apply State.setSeq_sound | lift_lets | dsimp only)

theorem State.hedgeReset_sound {u₀ s : State} (h₀ : Sound u₀ s) (h : Nat) : Sound u₀ (State.hedgeReset s h) := by
  unfold State.hedgeReset
  with_reducible repeat' (first | assumption | apply Sound.refl | (intro x; refine Sound.via (t := x) ?_ (fun hx => ?_); on_goal 2 => clear_value x) | (intro x; refine Sound.via (t := x.1) ?_ (fun hx => ?_); on_goal 2 => clear_value x) | (intro x; clear_value x) | intro _ | apply State.clearRegs_sound | apply State.dropHalves_sound | apply State.hedgeEnd_sound | apply State.loadUpdate_sound | apply State.overloadUpdate_sound | apply State.seqRestart_sound | apply State.setHedge_sound | lift_lets | dsimp only)

theorem State.stackBoot_sound {u₀ s : State} (h₀ : Sound u₀ s) (i : Nat) : Sound u₀ (State.stackBoot s i) := by
  unfold State.stackBoot
  with_reducible repeat' (first | assumption | apply Sound.refl | (intro x; refine Sound.via (t := x) ?_ (fun hx => ?_); on_goal 2 => clear_value x) | (intro x; clear_value x) | intro _ | apply Sound.ite | apply State.setB_sound | apply State.setF_sound | apply State.setStack_sound | apply State.trainStart_sound | lift_lets | split | dsimp only)

theorem State.trainerReset_sound {u₀ s : State} (h₀ : Sound u₀ s) (i : Nat) : Sound u₀ (State.trainerReset s i) := by
  unfold State.trainerReset
  with_reducible repeat' (first | assumption | apply Sound.refl | (intro x; refine Sound.via (t := x) ?_ (fun hx => ?_); on_goal 2 => clear_value x) | (intro x; clear_value x) | intro _ | apply State.clearRegs_sound | apply State.dropHalves_sound | apply State.memUpdate_sound | apply State.setB_sound | apply State.stackBoot_sound | lift_lets | dsimp only)

theorem State.blockClear_sound {u₀ s : State} (h₀ : Sound u₀ s) (p : Nat) : Sound u₀ (State.blockClear s p) := by
  unfold State.blockClear
  with_reducible repeat' (first | assumption | apply Sound.refl | apply Sound.ite | apply State.clearPages_sound | apply State.dropHalves_sound | apply State.engineReset_sound | apply State.hedgeReset_sound | apply State.icReset_sound | apply State.pipeReset_sound | apply State.poolMgrReset_sound | apply State.portReset_sound | apply State.ringReset_sound | apply State.switchReset_sound | apply State.trainerReset_sound | split | dsimp only | apply Sound.record)

theorem State.resetFinish_sound {u₀ s : State} (h₀ : Sound u₀ s) (p : Nat) : Sound u₀ (State.resetFinish s p) := by
  unfold State.resetFinish
  with_reducible repeat' (first | assumption | apply Sound.refl | (intro x; refine Sound.via (t := x) ?_ (fun hx => ?_); on_goal 2 => clear_value x) | (intro x; clear_value x) | intro _ | apply State.blockClear_sound | apply State.ltrUpdate_sound | apply State.requestsEnd_sound | apply State.setBusy_sound | apply State.setDrain_sound | apply Sound.each | lift_lets | dsimp only)

theorem State.resetSettle_sound {u₀ s : State} (h₀ : Sound u₀ s) (p : Nat) : Sound u₀ (State.resetSettle s p) := by
  unfold State.resetSettle
  with_reducible repeat' (first | assumption | apply Sound.refl | apply Sound.ite | apply State.resetFinish_sound | split | dsimp only)

theorem State.softReset_sound {u₀ s : State} (h₀ : Sound u₀ s) (p : Nat) : Sound u₀ (State.softReset s p) := by
  unfold State.softReset
  with_reducible repeat' (first | assumption | apply Sound.refl | apply Sound.ite | apply State.resetSettle_sound | apply State.setB_sound | apply State.setBusy_sound | split | dsimp only)

theorem State.blockStart_sound {u₀ s : State} (h₀ : Sound u₀ s) (p : Nat) : Sound u₀ (State.blockStart s p) := by
  unfold State.blockStart
  with_reducible repeat' (first | assumption | apply Sound.refl | apply Sound.ite | apply State.icEval_sound | apply State.ltrUpdate_sound | apply State.portEnable_sound | apply State.setB_sound | split | dsimp only)

theorem State.blockAbort_sound {u₀ s : State} (h₀ : Sound u₀ s) (p : Nat) : Sound u₀ (State.blockAbort s p) := by
  unfold State.blockAbort
  with_reducible repeat' (first | assumption | apply Sound.refl | intro _ | apply Sound.ite | apply State.engineAbort_sound | apply State.hedgeEnd_sound | apply State.linkDown_sound | apply State.pipeAbort_sound | apply State.ringAbortWork_sound | apply State.setDrain_sound | apply State.setE2e_sound | apply State.setPort_sound | apply Sound.each | split | dsimp only | apply Sound.record)

theorem State.blockStop_sound {u₀ s : State} (h₀ : Sound u₀ s) (p : Nat) (abort : Bool) : Sound u₀ (State.blockStop s p abort) := by
  unfold State.blockStop
  with_reducible repeat' (first | assumption | apply Sound.refl | (intro x; refine Sound.via (t := x) ?_ (fun hx => ?_); on_goal 2 => clear_value x) | (intro x; refine Sound.via (t := x.1) ?_ (fun hx => ?_); on_goal 2 => clear_value x) | (intro x; clear_value x) | intro _ | apply Sound.ite | apply State.blockAbort_sound | apply State.hedgeEnd_sound | apply State.ltrUpdate_sound | apply State.pipeClose_sound | apply State.setB_sound | apply State.setDrain_sound | lift_lets | split | dsimp only)

theorem State.runWrite_sound {u₀ s : State} (h₀ : Sound u₀ s) (p : Nat) (en : Bool) (abort : Bool) : Sound u₀ (State.runWrite s p en abort) := by
  unfold State.runWrite
  with_reducible repeat' (first | assumption | apply Sound.refl | apply Sound.ite | apply State.blockAbort_sound | apply State.blockStart_sound | apply State.blockStop_sound | apply State.setB_sound | split | dsimp only)

theorem State.ctlWrite_sound {u₀ s : State} (h₀ : Sound u₀ s) (p : Nat) (v : W32) : Sound u₀ (State.ctlWrite s p v) := by
  unfold State.ctlWrite
  with_reducible repeat' (first | assumption | apply Sound.refl | apply Sound.ite | apply State.runWrite_sound | apply State.softReset_sound | split | dsimp only)

theorem State.drainEnd_sound {u₀ s : State} (h₀ : Sound u₀ s) (p : Nat) : Sound u₀ (State.drainEnd s p) := by
  unfold State.drainEnd
  with_reducible repeat' (first | assumption | apply Sound.refl | apply Sound.ite | apply State.event_sound | apply State.linkDown_sound | apply State.setDrain_sound | split | dsimp only)

/-! Faults -/

theorem State.seqStop_sound {u₀ s : State} (h₀ : Sound u₀ s) (q : Nat) (cause : Nat) : Sound u₀ (State.seqStop s q cause) := by
  unfold State.seqStop
  with_reducible repeat' (first | assumption | apply Sound.refl | (intro x; refine Sound.via (t := x) ?_ (fun hx => ?_); on_goal 2 => clear_value x) | (intro x; refine Sound.via (t := x.1) ?_ (fun hx => ?_); on_goal 2 => clear_value x) | (intro x; clear_value x) | intro _ | apply State.event_sound | apply State.setSeq_sound | lift_lets | dsimp only)

theorem State.loadsRefused_sound {u₀ s : State} (h₀ : Sound u₀ s) : Sound u₀ (State.loadsRefused s) := by
  unfold State.loadsRefused
  with_reducible repeat' (first | assumption | apply Sound.refl | (intro x; refine Sound.via (t := x) ?_ (fun hx => ?_); on_goal 2 => clear_value x) | (intro x; refine Sound.via (t := x.1) ?_ (fun hx => ?_); on_goal 2 => clear_value x) | (intro x; clear_value x) | intro _ | apply Sound.ite | apply State.event_sound | apply State.finishJob_sound | apply State.setSeq_sound | apply Sound.each | lift_lets | split | dsimp only | apply Sound.record)

theorem State.mgmtRestart_sound {u₀ s : State} (h₀ : Sound u₀ s) : Sound u₀ (State.mgmtRestart s) := by
  unfold State.mgmtRestart
  with_reducible repeat' (first | assumption | apply Sound.refl | (intro x; refine Sound.via (t := x) ?_ (fun hx => ?_); on_goal 2 => clear_value x) | (intro x; refine Sound.via (t := x.1) ?_ (fun hx => ?_); on_goal 2 => clear_value x) | (intro x; clear_value x) | intro _ | apply State.event_sound | apply State.hostCopy_sound | apply State.loadsRefused_sound | apply State.seqRestart_sound | apply State.setSeq_sound | lift_lets | dsimp only)

theorem State.hedgeRestart_sound {u₀ s : State} (h₀ : Sound u₀ s) (h : Nat) : Sound u₀ (State.hedgeRestart s h) := by
  unfold State.hedgeRestart
  with_reducible repeat' (first | assumption | apply Sound.refl | apply State.event_sound | apply State.seqRestart_sound)

theorem State.raise_sound {u₀ s : State} (h₀ : Sound u₀ s) (src : Nat) (agent : Nat) (code : Nat) (detail : W32) : Sound u₀ (State.raise s src agent code detail) := by
  unfold State.raise
  with_reducible repeat' (first | assumption | apply Sound.refl | (intro x; refine Sound.via (t := x) ?_ (fun hx => ?_); on_goal 2 => clear_value x) | (intro x; refine Sound.via (t := x.1) ?_ (fun hx => ?_); on_goal 2 => clear_value x) | (intro x; clear_value x) | intro _ | apply Sound.ite | apply State.coreFault_sound | apply State.injectSpent_sound | apply State.noteFault_sound | apply State.resetSettle_sound | lift_lets | split | dsimp only)

theorem State.seqFault_sound {u₀ s : State} (h₀ : Sound u₀ s) (q : Nat) (cause : Nat) : Sound u₀ (State.seqFault s q cause) := by
  unfold State.seqFault
  with_reducible repeat' (first | assumption | apply Sound.refl | (intro x; refine Sound.via (t := x) ?_ (fun hx => ?_); on_goal 2 => clear_value x) | (intro x; refine Sound.via (t := x.1) ?_ (fun hx => ?_); on_goal 2 => clear_value x) | (intro x; clear_value x) | intro _ | apply Sound.ite | apply State.hedgeRestart_sound | apply State.mgmtRestart_sound | apply State.raise_sound | apply State.seqStop_sound | apply Sound.elim | lift_lets | split | dsimp only)

theorem State.queuePoison_sound {u₀ s : State} (h₀ : Sound u₀ s) (h : Nat) (agent : Nat) : Sound u₀ (State.queuePoison s h agent) := by
  unfold State.queuePoison
  with_reducible repeat' (first | assumption | apply Sound.refl | (intro x; refine Sound.via (t := x) ?_ (fun hx => ?_); on_goal 2 => clear_value x) | (intro x; refine Sound.via (t := x.1) ?_ (fun hx => ?_); on_goal 2 => clear_value x) | (intro x; clear_value x) | intro _ | apply Sound.ite | apply State.setCore_sound | lift_lets | split | dsimp only | apply Sound.record)

theorem State.composerRepair_sound {u₀ s : State} (h₀ : Sound u₀ s) (p : Nat) : Sound u₀ (State.composerRepair s p) := by
  unfold State.composerRepair
  with_reducible repeat' (first | assumption | apply Sound.refl | (intro x; refine Sound.via (t := x) ?_ (fun hx => ?_); on_goal 2 => clear_value x) | (intro x; clear_value x) | intro _ | apply Sound.ite | apply State.lineLate_sound | apply State.setPipe_sound | lift_lets | split | dsimp only | apply Sound.record)

theorem State.dmaPoison_sound {u₀ s : State} (h₀ : Sound u₀ s) : Sound u₀ (State.dmaPoison s) := by
  unfold State.dmaPoison
  with_reducible repeat' (first | assumption | apply Sound.refl | (intro x; refine Sound.via (t := x) ?_ (fun hx => ?_); on_goal 2 => clear_value x) | (intro x; refine Sound.via (t := x.1) ?_ (fun hx => ?_); on_goal 2 => clear_value x) | (intro x; clear_value x) | intro _ | apply Sound.ite | apply State.draw_sound | apply State.setChan_sound | apply State.setDesc_sound | lift_lets | split | dsimp only | apply Sound.record)

theorem State.faultEffect_sound {u₀ s : State} (h₀ : Sound u₀ s) (src : Nat) (agent : Nat) (code : Nat) : Sound u₀ (State.faultEffect s src agent code) := by
  unfold State.faultEffect
  with_reducible repeat' (first | assumption | apply Sound.refl | (intro x; refine Sound.via (t := x) ?_ (fun hx => ?_); on_goal 2 => clear_value x) | (intro x; clear_value x) | intro _ | apply Sound.ite | apply State.composerRepair_sound | apply State.dmaPoison_sound | apply State.event_sound | apply State.hedgeRestart_sound | apply State.mgmtRestart_sound | apply State.queuePoison_sound | apply State.seqStop_sound | lift_lets | split | dsimp only)

theorem State.faultFound_sound {u₀ s : State} (h₀ : Sound u₀ s) (src : Nat) (agent : Nat) (code : Nat) (detail : W32) : Sound u₀ (State.faultFound s src agent code detail) := by
  unfold State.faultFound
  with_reducible repeat' (first | assumption | apply Sound.refl | (intro x; refine Sound.via (t := x) ?_ (fun hx => ?_); on_goal 2 => clear_value x) | (intro x; clear_value x) | intro _ | apply Sound.ite | apply State.faultEffect_sound | apply State.raise_sound | apply State.seqStop_sound | lift_lets | split | dsimp only)

theorem State.injectGo_sound {u₀ s : State} (h₀ : Sound u₀ s) (src : Nat) (mode : Nat) : Sound u₀ (State.injectGo s src mode) := by
  unfold State.injectGo
  with_reducible repeat' (first | assumption | apply Sound.refl | (intro x; refine Sound.via (t := x) ?_ (fun hx => ?_); on_goal 2 => clear_value x) | (intro x; refine Sound.via (t := x.1) ?_ (fun hx => ?_); on_goal 2 => clear_value x) | (intro x; clear_value x) | intro _ | apply Sound.ite | apply State.raise_sound | apply State.setB_sound | lift_lets | split | dsimp only | apply Sound.record)

theorem State.injectWrite_sound {u₀ s : State} (h₀ : Sound u₀ s) (v : W32) : Sound u₀ (State.injectWrite s v) := by
  unfold State.injectWrite
  with_reducible repeat' (first | assumption | apply Sound.refl | (intro x; refine Sound.via (t := x) ?_ (fun hx => ?_); on_goal 2 => clear_value x) | (intro x; clear_value x) | intro _ | apply Sound.ite | apply State.injectGo_sound | apply State.setReg_sound | lift_lets | split | dsimp only)

theorem State.injectMode_sound {u₀ s : State} (h₀ : Sound u₀ s) (mode : Nat) : Sound u₀ (State.injectMode s mode) := by
  unfold State.injectMode
  with_reducible repeat' (first | assumption | apply Sound.refl | apply State.injectWrite_sound | apply Sound.record)

theorem State.injectLock_sound {u₀ s : State} (h₀ : Sound u₀ s) : Sound u₀ (State.injectLock s) := by
  unfold State.injectLock
  with_reducible repeat' (first | assumption | apply Sound.refl | (intro x; refine Sound.via (t := x) ?_ (fun hx => ?_); on_goal 2 => clear_value x) | (intro x; refine Sound.via (t := x.1) ?_ (fun hx => ?_); on_goal 2 => clear_value x) | (intro x; clear_value x) | intro _ | apply State.setDomain_sound | apply State.setReg_sound | lift_lets | dsimp only | apply Sound.record)

theorem State.unlockWrite_sound {u₀ s : State} (h₀ : Sound u₀ s) (v : W32) : Sound u₀ (State.unlockWrite s v) := by
  unfold State.unlockWrite
  with_reducible repeat' (first | assumption | apply Sound.refl | (intro x; refine Sound.via (t := x) ?_ (fun hx => ?_); on_goal 2 => clear_value x) | (intro x; clear_value x) | intro _ | apply Sound.ite | apply State.setB_sound | lift_lets | split | dsimp only | apply Sound.record)

theorem State.histAck_sound {u₀ s : State} (h₀ : Sound u₀ s) (v : W32) : Sound u₀ (State.histAck s v) := by
  unfold State.histAck
  with_reducible repeat' (first | assumption | apply Sound.refl | (intro x; refine Sound.via (t := x) ?_ (fun hx => ?_); on_goal 2 => clear_value x) | (intro x; clear_value x) | intro _ | apply Sound.ite | apply State.setReg_sound | lift_lets | split | dsimp only | apply Sound.record)

/-! Resets -/

theorem State.boot_sound {u₀ s : State} (h₀ : Sound u₀ s) : Sound u₀ (State.boot s) := by
  unfold State.boot
  with_reducible repeat' (first | assumption | apply Sound.refl | (intro x; refine Sound.via (t := x) ?_ (fun hx => ?_); on_goal 2 => clear_value x) | (intro x; refine Sound.via (t := x.1) ?_ (fun hx => ?_); on_goal 2 => clear_value x) | (intro x; clear_value x) | intro _ | apply State.loadsUpdate_sound | apply State.setB_sound | apply State.setSeq_sound | apply Sound.each | lift_lets | dsimp only)

theorem State.heldAborted_sound {u₀ s : State} (h₀ : Sound u₀ s) : Sound u₀ (State.heldAborted s) := by
  unfold State.heldAborted
  with_reducible repeat' (first | assumption | apply Sound.refl | intro _ | apply State.emit_sound | apply Sound.each | dsimp only)

theorem State.transfersCut_sound {u₀ s : State} (h₀ : Sound u₀ s) : Sound u₀ (State.transfersCut s) := by
  unfold State.transfersCut
  with_reducible repeat' (first | assumption | apply Sound.refl | intro _ | apply State.descPartial_sound | apply Sound.each | dsimp only)

theorem State.warmClear_sound {u₀ s : State} (h₀ : Sound u₀ s) : Sound u₀ s.warmClear := by
  unfold State.warmClear
  refine Sound.each ?_ _ _ fun h _ => State.setB_sound h _ _ _
  exact h₀.trans ⟨rfl, rfl, rfl, rfl, fun m => m⟩

theorem State.stacksBoot_sound {u₀ s : State} (h₀ : Sound u₀ s) (cold : Bool) : Sound u₀ (State.stacksBoot s cold) := by
  unfold State.stacksBoot
  with_reducible repeat' (first | assumption | apply Sound.refl | intro _ | apply State.memUpdate_sound | apply State.pprApply_sound | apply State.setB_sound | apply State.stackBoot_sound | apply Sound.each | dsimp only)

theorem State.causeSet_sound {u₀ s : State} (h₀ : Sound u₀ s) (cause : Nat) : Sound u₀ (State.causeSet s cause) := by
  unfold State.causeSet
  with_reducible repeat' (first | assumption | apply Sound.refl | apply State.setReg_sound)

theorem State.warmReset_sound {u₀ s : State} (h₀ : Sound u₀ s) (cause : Nat) : Sound u₀ (State.warmReset s cause) := by
  unfold State.warmReset
  with_reducible repeat' (first | assumption | apply Sound.refl | (intro x; refine Sound.via (t := x) ?_ (fun hx => ?_); on_goal 2 => clear_value x) | (intro x; refine Sound.via (t := x.1) ?_ (fun hx => ?_); on_goal 2 => clear_value x) | (intro x; clear_value x) | intro _ | apply Sound.ite | apply State.boot_sound | apply State.causeSet_sound | apply State.heldAborted_sound | apply State.hostTrain_sound | apply State.inc_sound | apply State.linkDown_sound | apply State.refUpdate_sound | apply State.stacksBoot_sound | apply State.transfersCut_sound | apply State.warmClear_sound | apply Sound.each | lift_lets | split | dsimp only | apply Sound.record)

theorem State.powerOff_sound {u₀ s : State} (h₀ : Sound u₀ s) (cause : Nat) : Sound u₀ (s.powerOff cause) := by
  refine h₀.trans ⟨rfl, rfl, rfl, rfl, fun m => ⟨rfl, m.2⟩⟩

theorem State.lockA_sound {u₀ s : State} (h₀ : Sound u₀ s) : Sound u₀ (State.lockA s) := by
  unfold State.lockA
  with_reducible repeat' (first | assumption | apply Sound.refl | apply Sound.ite | split | dsimp only | apply Sound.record)

theorem State.startUp_sound {u₀ s : State} (h₀ : Sound u₀ s) : Sound u₀ (State.startUp s) := by
  unfold State.startUp
  with_reducible repeat' (first | assumption | apply Sound.refl | (intro x; refine Sound.via (t := x) ?_ (fun hx => ?_); on_goal 2 => clear_value x) | (intro x; clear_value x) | intro _ | apply State.boot_sound | apply State.causeSet_sound | apply State.hostTrain_sound | apply State.setSys_sound | apply State.stacksBoot_sound | lift_lets | dsimp only)

theorem State.configWait_sound {u₀ s : State} (h₀ : Sound u₀ s) : Sound u₀ (State.configWait s) := by
  unfold State.configWait
  with_reducible repeat' (first | assumption | apply Sound.refl | apply State.draw_sound | apply Sound.record)

theorem State.scopeReset_sound {u₀ s : State} (h₀ : Sound u₀ s) (cause : Nat) : Sound u₀ (State.scopeReset s cause) := by
  unfold State.scopeReset
  with_reducible repeat' (first | assumption | apply Sound.refl | apply Sound.ite | apply State.askReset_sound | apply State.hifReset_sound | apply State.hostDown_sound | apply State.warmReset_sound | split | dsimp only)

/-! Clocks -/

theorem State.lostEnd_sound {u₀ s : State} (h₀ : Sound u₀ s) (b : Bool) : Sound u₀ (State.lostEnd s b) := by
  unfold State.lostEnd
  with_reducible repeat' (first | assumption | apply Sound.refl | (intro x; refine Sound.via (t := x) ?_ (fun hx => ?_); on_goal 2 => clear_value x) | (intro x; clear_value x) | intro _ | apply State.noteFault_sound | apply State.setSys_sound | apply State.warmReset_sound | lift_lets | dsimp only | apply Sound.record)

theorem State.qualify_sound {u₀ s : State} (h₀ : Sound u₀ s) (b : Bool) (us : Nat) : Sound u₀ (State.qualify s b us) := by
  unfold State.qualify
  with_reducible repeat' (first | assumption | apply Sound.refl | (intro x; refine Sound.via (t := x) ?_ (fun hx => ?_); on_goal 2 => clear_value x) | (intro x; clear_value x) | intro _ | apply Sound.ite | apply State.ckgEvent_sound | apply State.lostEnd_sound | apply State.noteFault_sound | apply State.restart_sound | apply State.setQual_sound | apply State.setRef_sound | apply State.startUp_sound | lift_lets | split | dsimp only | apply Sound.record)

theorem State.selWrite_sound {u₀ s : State} (h₀ : Sound u₀ s) (b : Bool) : Sound u₀ (State.selWrite s b) := by
  unfold State.selWrite
  with_reducible repeat' (first | assumption | apply Sound.refl | apply Sound.ite | apply State.event_sound | apply State.pllSwitch_sound | split | dsimp only)

theorem State.pllbWrite_sound {u₀ s : State} (h₀ : Sound u₀ s) (v : W32) : Sound u₀ (State.pllbWrite s v) := by
  unfold State.pllbWrite
  with_reducible repeat' (first | assumption | apply Sound.refl | (intro x; refine Sound.via (t := x) ?_ (fun hx => ?_); on_goal 2 => clear_value x) | (intro x; clear_value x) | intro _ | apply Sound.ite | apply State.refUpdate_sound | apply State.setQual_sound | apply State.setReg_sound | lift_lets | split | dsimp only)

theorem State.gateSet_sound {u₀ s : State} (h₀ : Sound u₀ s) (d : Nat) (on : Bool) : Sound u₀ (State.gateSet s d on) := by
  unfold State.gateSet
  with_reducible repeat' (first | assumption | apply Sound.refl | (intro x; refine Sound.via (t := x) ?_ (fun hx => ?_); on_goal 2 => clear_value x) | (intro x; clear_value x) | intro _ | apply Sound.ite | apply State.linkDown_sound | apply State.setDomain_sound | apply State.setDrain_sound | lift_lets | split | dsimp only)

theorem State.gateTake_sound {u₀ s : State} (h₀ : Sound u₀ s) (d : Nat) (on : Bool) : Sound u₀ (State.gateTake s d on) := by
  unfold State.gateTake
  with_reducible repeat' (first | assumption | apply Sound.refl | intro _ | apply Sound.ite | apply State.blockClear_sound | apply State.event_sound | apply State.gateSet_sound | apply State.setDomain_sound | apply Sound.each | split | dsimp only)

theorem State.gateWrite_sound {u₀ s : State} (h₀ : Sound u₀ s) (k : Nat) (v : W32) : Sound u₀ (State.gateWrite s k v) := by
  unfold State.gateWrite
  with_reducible repeat' (first | assumption | apply Sound.refl | intro _ | apply State.gateTake_sound | apply Sound.each | dsimp only)

theorem State.meterWrite_sound {u₀ s : State} (h₀ : Sound u₀ s) (v : W32) : Sound u₀ (State.meterWrite s v) := by
  unfold State.meterWrite
  with_reducible repeat' (first | assumption | apply Sound.refl | (intro x; refine Sound.via (t := x) ?_ (fun hx => ?_); on_goal 2 => clear_value x) | (intro x; clear_value x) | intro _ | apply Sound.ite | apply State.setReg_sound | lift_lets | split | dsimp only)

theorem State.meterEnd_sound {u₀ s : State} (h₀ : Sound u₀ s) (count : W32) (timeout : Bool) : Sound u₀ (State.meterEnd s count timeout) := by
  unfold State.meterEnd
  with_reducible repeat' (first | assumption | apply Sound.refl | (intro x; refine Sound.via (t := x) ?_ (fun hx => ?_); on_goal 2 => clear_value x) | (intro x; clear_value x) | intro _ | apply Sound.ite | apply State.event_sound | apply State.setB_sound | apply State.setReg_sound | lift_lets | split | dsimp only)

/-! PowerUnit -/

theorem State.powerGood_sound {u₀ s : State} (h₀ : Sound u₀ s) : Sound u₀ (State.powerGood s) := by
  unfold State.powerGood
  with_reducible repeat' (first | assumption | apply Sound.refl | (intro x; refine Sound.via (t := x) ?_ (fun hx => ?_); on_goal 2 => clear_value x) | (intro x; refine Sound.via (t := x.1) ?_ (fun hx => ?_); on_goal 2 => clear_value x) | (intro x; clear_value x) | intro _ | apply Sound.ite | apply State.lockA_sound | apply State.setB_sound | lift_lets | split | dsimp only | apply Sound.record)

theorem State.railsOff_sound {u₀ s : State} (h₀ : Sound u₀ s) (cause : Nat) : Sound u₀ (State.railsOff s cause) := by
  unfold State.railsOff
  with_reducible repeat' (first | assumption | apply Sound.refl | apply Sound.ite | apply State.powerOff_sound | split | dsimp only | apply Sound.record)

theorem State.smbEvent_sound {u₀ s : State} (h₀ : Sound u₀ s) (b : Nat) : Sound u₀ (State.smbEvent s b) := by
  unfold State.smbEvent
  with_reducible repeat' (first | assumption | apply Sound.refl | apply State.event_sound | apply State.setB_sound)

theorem State.feedCross_sound {u₀ s : State} (h₀ : Sound u₀ s) (b : Bool) (low : Bool) : Sound u₀ (State.feedCross s b low) := by
  unfold State.feedCross
  with_reducible repeat' (first | assumption | apply Sound.refl | (intro x; refine Sound.via (t := x) ?_ (fun hx => ?_); on_goal 2 => clear_value x) | (intro x; refine Sound.via (t := x.1) ?_ (fun hx => ?_); on_goal 2 => clear_value x) | (intro x; clear_value x) | intro _ | apply Sound.ite | apply State.raise_sound | apply State.smbEvent_sound | lift_lets | split | dsimp only | apply Sound.record)

theorem State.sensorsRead_sound {u₀ s : State} (h₀ : Sound u₀ s) (js : List Int) (hs : List Int) : Sound u₀ (State.sensorsRead s js hs) := by
  unfold State.sensorsRead
  with_reducible repeat' (first | assumption | apply Sound.refl | (intro x; refine Sound.via (t := x) ?_ (fun hx => ?_); on_goal 2 => clear_value x) | (intro x; refine Sound.via (t := x.1) ?_ (fun hx => ?_); on_goal 2 => clear_value x) | (intro x; clear_value x) | intro _ | apply Sound.ite | apply State.smbEvent_sound | lift_lets | split | dsimp only | apply Sound.record)

theorem State.curSet_sound {u₀ s : State} (h₀ : Sound u₀ s) (h : Nat) (p : Nat) : Sound u₀ (State.curSet s h p) := by
  unfold State.curSet
  with_reducible repeat' (first | assumption | apply Sound.refl | (intro x; refine Sound.via (t := x) ?_ (fun hx => ?_); on_goal 2 => clear_value x) | (intro x; clear_value x) | intro _ | apply State.loadUpdate_sound | apply State.overloadUpdate_sound | apply State.setB_sound | apply State.setF_sound | lift_lets | dsimp only)

theorem State.limitUpdate_sound {u₀ s : State} (h₀ : Sound u₀ s) : Sound u₀ (State.limitUpdate s) := by
  unfold State.limitUpdate
  with_reducible repeat' (first | assumption | apply Sound.refl | intro _ | dsimp only | apply Sound.record)

theorem State.stepDown_sound {u₀ s : State} (h₀ : Sound u₀ s) : Sound u₀ (State.stepDown s) := by
  unfold State.stepDown
  with_reducible repeat' (first | assumption | apply Sound.refl | (intro x; refine Sound.via (t := x) ?_ (fun hx => ?_); on_goal 2 => clear_value x) | (intro x; clear_value x) | intro _ | apply Sound.ite | apply State.curSet_sound | apply State.limitUpdate_sound | apply State.raise_sound | apply State.smbEvent_sound | apply Sound.each | lift_lets | split | dsimp only)

theorem State.stepUp_sound {u₀ s : State} (h₀ : Sound u₀ s) : Sound u₀ (State.stepUp s) := by
  unfold State.stepUp
  with_reducible repeat' (first | assumption | apply Sound.refl | (intro x; refine Sound.via (t := x) ?_ (fun hx => ?_); on_goal 2 => clear_value x) | (intro x; clear_value x) | intro _ | apply State.curSet_sound | apply State.limitUpdate_sound | apply Sound.each | lift_lets | dsimp only)

theorem State.tripNow_sound {u₀ s : State} (h₀ : Sound u₀ s) : Sound u₀ (State.tripNow s) := by
  unfold State.tripNow
  with_reducible repeat' (first | assumption | apply Sound.refl | (intro x; refine Sound.via (t := x) ?_ (fun hx => ?_); on_goal 2 => clear_value x) | (intro x; clear_value x) | intro _ | apply State.curSet_sound | apply State.limitUpdate_sound | apply State.pipeAbort_sound | apply State.raise_sound | apply State.setB_sound | apply State.setDrain_sound | apply State.setPipe_sound | apply State.smbEvent_sound | apply Sound.each | lift_lets | dsimp only | apply Sound.record)

theorem State.smbRead_sound {u₀ s : State} (h₀ : Sound u₀ s) (k : Nat) : Sound u₀ (State.smbRead s k) := by
  unfold State.smbRead
  with_reducible repeat' (first | assumption | apply Sound.refl | apply Sound.ite | apply State.setF_sound | apply State.setReg_sound | split | dsimp only)

theorem State.smbWrite_sound {u₀ s : State} (h₀ : Sound u₀ s) (bus : Bool) (k : Nat) (v : BitVec 16) : Sound u₀ (State.smbWrite s bus k v) := by
  unfold State.smbWrite
  with_reducible repeat' (first | assumption | apply Sound.refl | apply Sound.ite | apply State.setReg_sound | split | dsimp only)

theorem State.measure_sound {u₀ s : State} (h₀ : Sound u₀ s) (vinA : BitVec 16) (vinB : BitVec 16) (iinA : BitVec 16) (iinB : BitVec 16) (board : BitVec 16) (pin1 : Nat) (pin100 : Nat) : Sound u₀ (State.measure s vinA vinB iinA iinB board pin1 pin100) := by
  unfold State.measure
  with_reducible repeat' (first | assumption | apply Sound.refl | (intro x; refine Sound.via (t := x) ?_ (fun hx => ?_); on_goal 2 => clear_value x) | (intro x; clear_value x) | intro _ | apply Sound.ite | apply State.setReg_sound | apply State.smbEvent_sound | apply Sound.each | lift_lets | split | dsimp only)

/-! Fabric -/

theorem State.linkReset_sound {u₀ s : State} (h₀ : Sound u₀ s) (n : Nat) : Sound u₀ (State.linkReset s n) := by
  unfold State.linkReset
  with_reducible repeat' (first | assumption | apply Sound.refl | (intro x; refine Sound.via (t := x) ?_ (fun hx => ?_); on_goal 2 => clear_value x) | (intro x; clear_value x) | intro _ | apply Sound.ite | apply State.event_sound | apply State.linkDown_sound | apply State.linkRetrain_sound | apply State.satF_sound | lift_lets | split | dsimp only)

theorem State.linkNak_sound {u₀ s : State} (h₀ : Sound u₀ s) (n : Nat) : Sound u₀ (State.linkNak s n) := by
  unfold State.linkNak
  with_reducible repeat' (first | assumption | apply Sound.refl | (intro x; refine Sound.via (t := x) ?_ (fun hx => ?_); on_goal 2 => clear_value x) | (intro x; clear_value x) | intro _ | apply Sound.ite | apply State.emit_sound | apply State.linkReset_sound | apply State.raise_sound | apply State.satF_sound | apply State.setPort_sound | lift_lets | split | dsimp only)

theorem State.linkAck_sound {u₀ s : State} (h₀ : Sound u₀ s) (n : Nat) (k : Nat) : Sound u₀ (State.linkAck s n k) := by
  unfold State.linkAck
  with_reducible repeat' (first | assumption | apply Sound.refl | (intro x; refine Sound.via (t := x) ?_ (fun hx => ?_); on_goal 2 => clear_value x) | (intro x; refine Sound.via (t := x.1) ?_ (fun hx => ?_); on_goal 2 => clear_value x) | (intro x; clear_value x) | intro _ | apply Sound.ite | apply State.portPump_sound | apply State.setPort_sound | lift_lets | split | dsimp only)

theorem State.creditsBack_sound {u₀ s : State} (h₀ : Sound u₀ s) (n : Nat) (v : Nat) (k : Nat) : Sound u₀ (State.creditsBack s n v k) := by
  unfold State.creditsBack
  with_reducible repeat' (first | assumption | apply Sound.refl | (intro x; refine Sound.via (t := x) ?_ (fun hx => ?_); on_goal 2 => clear_value x) | (intro x; clear_value x) | intro _ | apply Sound.ite | apply State.event_sound | apply State.linkReset_sound | apply State.portPump_sound | apply State.setF_sound | lift_lets | split | dsimp only)

theorem State.portRx_sound {u₀ s : State} (h₀ : Sound u₀ s) (n : Nat) (flits : Nat) : Sound u₀ (State.portRx s n flits) := by
  unfold State.portRx
  with_reducible repeat' (first | assumption | apply Sound.refl | apply State.inc_sound)

theorem State.forward_sound {u₀ s : State} (h₀ : Sound u₀ s) (h : FabHeader) (payload : List Byte) : Sound u₀ (State.forward s h payload) := by
  unfold State.forward
  with_reducible repeat' (first | assumption | apply Sound.refl | (intro x; refine Sound.via (t := x) ?_ (fun hx => ?_); on_goal 2 => clear_value x) | (intro x; clear_value x) | intro _ | apply Sound.ite | apply State.event_sound | apply State.noRoute_sound | apply State.portSend_sound | apply State.satF_sound | lift_lets | split | dsimp only)

theorem State.probeWrite_sound {u₀ s : State} (h₀ : Sound u₀ s) (n : Nat) (v : W32) : Sound u₀ (State.probeWrite s n v) := by
  unfold State.probeWrite
  with_reducible repeat' (first | assumption | apply Sound.refl | apply Sound.ite | apply State.portSend_sound | apply State.setReg_sound | split | dsimp only)

theorem State.e2ePumpAll_sound {u₀ s : State} (h₀ : Sound u₀ s) : Sound u₀ (State.e2ePumpAll s) := by
  unfold State.e2ePumpAll
  with_reducible repeat' (first | assumption | apply Sound.refl | intro _ | apply State.e2ePump_sound | apply Sound.each | dsimp only)

theorem State.e2eFree_sound {u₀ s : State} (h₀ : Sound u₀ s) (node : Nat) (vc : Nat) (ack : Nat) : Sound u₀ (State.e2eFree s node vc ack) := by
  unfold State.e2eFree
  with_reducible repeat' (first | assumption | apply Sound.refl | (intro x; refine Sound.via (t := x) ?_ (fun hx => ?_); on_goal 2 => clear_value x) | (intro x; refine Sound.via (t := x.1) ?_ (fun hx => ?_); on_goal 2 => clear_value x) | (intro x; clear_value x) | intro _ | apply Sound.ite | apply State.altSettle_sound | apply State.e2ePumpAll_sound | apply State.setE2e_sound | lift_lets | split | dsimp only | apply Sound.record)

theorem State.ackSend_sound {u₀ s : State} (h₀ : Sound u₀ s) (node : Nat) (vc : Nat) : Sound u₀ (State.ackSend s node vc) := by
  unfold State.ackSend
  with_reducible repeat' (first | assumption | apply Sound.refl | (intro x; refine Sound.via (t := x) ?_ (fun hx => ?_); on_goal 2 => clear_value x) | (intro x; refine Sound.via (t := x.1) ?_ (fun hx => ?_); on_goal 2 => clear_value x) | (intro x; clear_value x) | intro _ | apply Sound.ite | apply State.fabOut_sound | apply State.setE2e_sound | lift_lets | split | dsimp only)

theorem State.peerLost_sound {u₀ s : State} (h₀ : Sound u₀ s) (node : Nat) : Sound u₀ (State.peerLost s node) := by
  unfold State.peerLost
  with_reducible repeat' (first | assumption | apply Sound.refl | (intro x; refine Sound.via (t := x) ?_ (fun hx => ?_); on_goal 2 => clear_value x) | (intro x; refine Sound.via (t := x.1) ?_ (fun hx => ?_); on_goal 2 => clear_value x) | (intro x; clear_value x) | intro _ | apply State.e2ePumpAll_sound | apply State.event_sound | apply State.remotesFail_sound | apply State.setE2e_sound | apply State.setPort_sound | apply State.setReg_sound | apply Sound.each | lift_lets | dsimp only)

theorem State.espJoin_sound {u₀ s : State} (h₀ : Sound u₀ s) (g : Nat) (m : Nat) (hash : W64) : Sound u₀ (State.espJoin s g m hash) := by
  unfold State.espJoin
  with_reducible repeat' (first | assumption | apply Sound.refl | (intro x; refine Sound.via (t := x) ?_ (fun hx => ?_); on_goal 2 => clear_value x) | (intro x; clear_value x) | intro _ | apply Sound.ite | apply State.espAdmit_sound | apply State.espOut_sound | apply State.event_sound | apply State.setB_sound | apply State.setEsp_sound | lift_lets | split | dsimp only)

theorem State.fillSegs_sound {u₀ s : State} (h₀ : Sound u₀ s) (l : List (Nat × Nat)) (bs : List Byte) : Sound u₀ (s.fillSegs l bs) := by
  induction l generalizing s bs with
  | nil => exact h₀
  | cons e l ih => exact ih (Sound.ite h₀ (State.hbmWrite_sound h₀ _ _ _)) _

theorem State.espRowIn_sound {u₀ s : State} (h₀ : Sound u₀ s) (g : Nat) (m : Nat) (strip : Bool) (row : Nat) (t : PtpTime) (bs : List Byte) : Sound u₀ (State.espRowIn s g m strip row t bs) := by
  unfold State.espRowIn
  with_reducible repeat' (first | assumption | apply Sound.refl | (intro x; refine Sound.via (t := x) ?_ (fun hx => ?_); on_goal 2 => clear_value x) | (intro x; refine Sound.via (t := x.1) ?_ (fun hx => ?_); on_goal 2 => clear_value x) | (intro x; clear_value x) | intro _ | apply Sound.ite | apply State.fillSegs_sound | apply State.setEsp_sound | lift_lets | split | dsimp only)

theorem State.partDeliver_sound {u₀ s : State} (h₀ : Sound u₀ s) (id : PartId) (bs : List Byte) : Sound u₀ (State.partDeliver s id bs) := by
  unfold State.partDeliver
  with_reducible repeat' (first | assumption | apply Sound.refl | (intro x; refine Sound.via (t := x) ?_ (fun hx => ?_); on_goal 2 => clear_value x) | (intro x; refine Sound.via (t := x.1) ?_ (fun hx => ?_); on_goal 2 => clear_value x) | (intro x; clear_value x) | intro _ | apply Sound.ite | apply State.espTake_sound | apply State.setEsp_sound | apply Sound.elim | lift_lets | split | dsimp only)

theorem State.routeWrite_sound {u₀ s : State} (h₀ : Sound u₀ s) (m : Nat) (v : W32) : Sound u₀ (State.routeWrite s m v) := by
  unfold State.routeWrite
  with_reducible repeat' (first | assumption | apply Sound.refl | (intro x; refine Sound.via (t := x) ?_ (fun hx => ?_); on_goal 2 => clear_value x) | (intro x; clear_value x) | intro _ | apply Sound.ite | apply State.event_sound | apply State.setReg_sound | lift_lets | split | dsimp only)

/-! Registers -/

theorem State.chanError_sound {u₀ s : State} (h₀ : Sound u₀ s) (c : Nat) (err : Nat) : Sound u₀ (State.chanError s c err) := by
  unfold State.chanError
  with_reducible repeat' (first | assumption | apply Sound.refl | apply State.setB_sound | apply State.setF_sound)

theorem State.chanGo_sound {u₀ s : State} (h₀ : Sound u₀ s) (c : Nat) : Sound u₀ (State.chanGo s c) := by
  unfold State.chanGo
  with_reducible repeat' (first | assumption | apply Sound.refl | (intro x; refine Sound.via (t := x) ?_ (fun hx => ?_); on_goal 2 => clear_value x) | (intro x; refine Sound.via (t := x.1) ?_ (fun hx => ?_); on_goal 2 => clear_value x) | (intro x; clear_value x) | intro _ | apply Sound.ite | apply State.chanError_sound | apply State.setB_sound | apply State.setChan_sound | apply State.setReg_sound | lift_lets | split | dsimp only)

theorem State.chanWrite_sound {u₀ s : State} (h₀ : Sound u₀ s) (who : Who) (c : Nat) (o : Nat) (v : W32) : Sound u₀ (State.chanWrite s who c o v) := by
  unfold State.chanWrite
  with_reducible repeat' (first | assumption | apply Sound.refl | (intro x; refine Sound.via (t := x) ?_ (fun hx => ?_); on_goal 2 => clear_value x) | (intro x; clear_value x) | intro _ | apply Sound.ite | apply State.chanGo_sound | apply State.rawWrite_sound | apply State.setF_sound | lift_lets | split | dsimp only)

theorem State.alignPair_sound {u₀ s : State} (h₀ : Sound u₀ s) (lo : Nat) (hi : Nat) (l : Nat) : Sound u₀ (State.alignPair s lo hi l) := by
  unfold State.alignPair
  with_reducible repeat' (first | assumption | apply Sound.refl | apply State.setPair_sound)

theorem State.devWrite_sound {u₀ s : State} (h₀ : Sound u₀ s) (off : Nat) (v : W32) : Sound u₀ (State.devWrite s off v) := by
  unfold State.devWrite
  with_reducible repeat' (first | assumption | apply Sound.refl | (intro x; refine Sound.via (t := x) ?_ (fun hx => ?_); on_goal 2 => clear_value x) | (intro x; clear_value x) | intro _ | apply Sound.ite | apply State.alignPair_sound | apply State.askReset_sound | apply State.ltrUpdate_sound | apply State.ptmStart_sound | apply State.rawWrite_sound | apply State.setReg_sound | apply Sound.each | lift_lets | split | dsimp only)

theorem State.ckgWrite_sound {u₀ s : State} (h₀ : Sound u₀ s) (off : Nat) (v : W32) : Sound u₀ (State.ckgWrite s off v) := by
  unfold State.ckgWrite
  with_reducible repeat' (first | assumption | apply Sound.refl | apply Sound.ite | apply State.gateWrite_sound | apply State.meterWrite_sound | apply State.pllbWrite_sound | apply State.selWrite_sound | split | dsimp only)

theorem State.actWrite_sound {u₀ s : State} (h₀ : Sound u₀ s) (n : Nat) (v : W32) : Sound u₀ (State.actWrite s n v) := by
  unfold State.actWrite
  with_reducible repeat' (first | assumption | apply Sound.refl | (intro x; refine Sound.via (t := x) ?_ (fun hx => ?_); on_goal 2 => clear_value x) | (intro x; clear_value x) | intro _ | apply Sound.ite | apply State.setF_sound | lift_lets | split | dsimp only)

theorem State.fltWrite_sound {u₀ s : State} (h₀ : Sound u₀ s) (off : Nat) (v : W32) : Sound u₀ (State.fltWrite s off v) := by
  unfold State.fltWrite
  with_reducible repeat' (first | assumption | apply Sound.refl | (intro x; refine Sound.via (t := x) ?_ (fun hx => ?_); on_goal 2 => clear_value x) | (intro x; clear_value x) | intro _ | apply Sound.ite | apply State.actWrite_sound | apply State.histAck_sound | apply State.injectWrite_sound | apply State.rawWrite_sound | apply State.setB_sound | apply State.setReg_sound | apply State.unlockWrite_sound | lift_lets | split | dsimp only | apply Sound.record)

theorem State.icWrite_sound {u₀ s : State} (h₀ : Sound u₀ s) (i : Nat) (off : Nat) (v : W32) : Sound u₀ (State.icWrite s i off v) := by
  unfold State.icWrite
  with_reducible repeat' (first | assumption | apply Sound.refl | (intro x; refine Sound.via (t := x) ?_ (fun hx => ?_); on_goal 2 => clear_value x) | (intro x; clear_value x) | intro _ | apply Sound.ite | apply State.icComplete_sound | apply State.icEval_sound | apply State.icModWrite_sound | apply State.setReg_sound | lift_lets | split | dsimp only)

theorem State.poolcWrite_sound {u₀ s : State} (h₀ : Sound u₀ s) (off : Nat) (v : W32) : Sound u₀ (State.poolcWrite s off v) := by
  unfold State.poolcWrite
  with_reducible repeat' (first | assumption | apply Sound.refl | intro _ | apply Sound.ite | apply State.rawWrite_sound | split | dsimp only)

theorem State.pooltWrite_sound {u₀ s : State} (h₀ : Sound u₀ s) (p : Nat) (off : Nat) (v : W32) : Sound u₀ (State.pooltWrite s p off v) := by
  unfold State.pooltWrite
  with_reducible repeat' (first | assumption | apply Sound.refl | (intro x; refine Sound.via (t := x) ?_ (fun hx => ?_); on_goal 2 => clear_value x) | (intro x; clear_value x) | intro _ | apply Sound.ite | apply State.poolCfgWrite_sound | apply State.rawWrite_sound | lift_lets | split | dsimp only)

theorem State.cswWrite_sound {u₀ s : State} (h₀ : Sound u₀ s) (off : Nat) (v : W32) : Sound u₀ (State.cswWrite s off v) := by
  unfold State.cswWrite
  with_reducible repeat' (first | assumption | apply Sound.refl | intro _ | apply Sound.ite | apply State.cswKick_sound | apply State.cswRevoke_sound | apply State.cswStore_sound | apply State.cswSwap_sound | apply State.rawWrite_sound | apply State.setReg_sound | apply State.setSeq_sound | split | dsimp only)

theorem State.ringWrite_sound {u₀ s : State} (h₀ : Sound u₀ s) (who : Who) (r : Nat) (off : Nat) (v : W32) : Sound u₀ (State.ringWrite s who r off v) := by
  unfold State.ringWrite
  with_reducible repeat' (first | assumption | apply Sound.refl | (intro x; refine Sound.via (t := x) ?_ (fun hx => ?_); on_goal 2 => clear_value x) | (intro x; clear_value x) | intro _ | apply Sound.ite | apply State.ownerWrite_sound | apply State.rawWrite_sound | apply State.rdWrite_sound | apply State.setF_sound | apply State.setPair_sound | apply State.setReg_sound | apply State.tailWrite_sound | lift_lets | split | dsimp only)

theorem State.hdgBody_sound {u₀ s : State} (h₀ : Sound u₀ s) (h : Nat) (off : Nat) (v : W32) : Sound u₀ (State.hdgBody s h off v) := by
  unfold State.hdgBody
  with_reducible repeat' (first | assumption | apply Sound.refl | apply Sound.ite | apply State.bistWrite_sound | apply State.hdgWrite_sound | apply State.persPinWrite_sound | split | dsimp only)

theorem State.hbmBody_sound {u₀ s : State} (h₀ : Sound u₀ s) (i : Nat) (off : Nat) (v : W32) : Sound u₀ (State.hbmBody s i off v) := by
  unfold State.hbmBody
  with_reducible repeat' (first | assumption | apply Sound.refl | apply Sound.ite | apply State.mapWrite_sound | apply State.pprWrite_sound | apply State.rawWrite_sound | split | dsimp only)

theorem State.winAlign_sound {u₀ s : State} (h₀ : Sound u₀ s) (n : Nat) (w : Nat) : Sound u₀ (State.winAlign s n w) := by
  unfold State.winAlign
  with_reducible repeat' (first | assumption | apply Sound.refl | (intro x; refine Sound.via (t := x) ?_ (fun hx => ?_); on_goal 2 => clear_value x) | (intro x; clear_value x) | intro _ | apply State.alignPair_sound | lift_lets | dsimp only)

theorem State.tptWrite_sound {u₀ s : State} (h₀ : Sound u₀ s) (n : Nat) (off : Nat) (v : W32) : Sound u₀ (State.tptWrite s n off v) := by
  unfold State.tptWrite
  with_reducible repeat' (first | assumption | apply Sound.refl | (intro x; refine Sound.via (t := x) ?_ (fun hx => ?_); on_goal 2 => clear_value x) | (intro x; clear_value x) | intro _ | apply Sound.ite | apply State.modeWrite_sound | apply State.probeWrite_sound | apply State.rawWrite_sound | apply State.refUpdate_sound | apply State.winAlign_sound | lift_lets | split | dsimp only)

theorem State.espWrite_sound {u₀ s : State} (h₀ : Sound u₀ s) (g : Nat) (off : Nat) (v : W32) : Sound u₀ (State.espWrite s g off v) := by
  unfold State.espWrite
  with_reducible repeat' (first | assumption | apply Sound.refl | apply Sound.ite | apply State.rawWrite_sound | apply State.setB_sound | split | dsimp only)

theorem State.tswWrite_sound {u₀ s : State} (h₀ : Sound u₀ s) (off : Nat) (v : W32) : Sound u₀ (State.tswWrite s off v) := by
  unfold State.tswWrite
  with_reducible repeat' (first | assumption | apply Sound.refl | apply Sound.ite | apply State.espWrite_sound | apply State.rawWrite_sound | apply State.setReg_sound | split | dsimp only)

theorem State.mpeWrite_sound {u₀ s : State} (h₀ : Sound u₀ s) (n : Nat) (off : Nat) (v : W32) : Sound u₀ (State.mpeWrite s n off v) := by
  unfold State.mpeWrite
  with_reducible repeat' (first | assumption | apply Sound.refl | (intro x; refine Sound.via (t := x) ?_ (fun hx => ?_); on_goal 2 => clear_value x) | (intro x; clear_value x) | intro _ | apply Sound.ite | apply State.flowCtlWrite_sound | apply State.htxWrite_sound | apply State.rawWrite_sound | lift_lets | split | dsimp only)

theorem State.mtcWrite_sound {u₀ s : State} (h₀ : Sound u₀ s) (off : Nat) (v : W32) : Sound u₀ (State.mtcWrite s off v) := by
  unfold State.mtcWrite
  with_reducible repeat' (first | assumption | apply Sound.refl | (intro x; refine Sound.via (t := x) ?_ (fun hx => ?_); on_goal 2 => clear_value x) | (intro x; clear_value x) | intro _ | apply Sound.ite | apply State.mtcCmd_sound | apply State.rawWrite_sound | lift_lets | split | dsimp only)

theorem State.bodyWrite_sound {u₀ s : State} (h₀ : Sound u₀ s) (who : Who) (p : Nat) (off : Nat) (v : W32) : Sound u₀ (State.bodyWrite s who p off v) := by
  unfold State.bodyWrite
  with_reducible repeat' (first | assumption | apply Sound.refl | apply Sound.ite | apply State.chanWrite_sound | apply State.ckgWrite_sound | apply State.cltWrite_sound | apply State.cmpWrite_sound | apply State.cswWrite_sound | apply State.devWrite_sound | apply State.fltWrite_sound | apply State.hbmBody_sound | apply State.hbtWrite_sound | apply State.hdgBody_sound | apply State.icWrite_sound | apply State.mpeWrite_sound | apply State.mtcWrite_sound | apply State.poolcWrite_sound | apply State.pooltWrite_sound | apply State.rawWrite_sound | apply State.ringWrite_sound | apply State.routeWrite_sound | apply State.smbWrite_sound | apply State.tptWrite_sound | apply State.tswWrite_sound | split | dsimp only)

theorem State.hdrWrite_sound {u₀ s : State} (h₀ : Sound u₀ s) (p : Nat) (off : Nat) (v : W32) : Sound u₀ (State.hdrWrite s p off v) := by
  unfold State.hdrWrite
  with_reducible repeat' (first | assumption | apply Sound.refl | (intro x; refine Sound.via (t := x) ?_ (fun hx => ?_); on_goal 2 => clear_value x) | (intro x; clear_value x) | intro _ | apply Sound.ite | apply State.ctlWrite_sound | apply State.setB_sound | apply State.setReg_sound | lift_lets | split | dsimp only | apply Sound.record)

theorem State.regWrite_sound {u₀ s : State} (h₀ : Sound u₀ s) (who : Who) (a : Nat) (v : W32) : Sound u₀ (State.regWrite s who a v) := by
  unfold State.regWrite
  with_reducible repeat' (first | assumption | apply Sound.refl | (intro x; refine Sound.via (t := x) ?_ (fun hx => ?_); on_goal 2 => clear_value x) | (intro x; clear_value x) | intro _ | apply Sound.ite | apply State.bodyWrite_sound | apply State.hdrWrite_sound | lift_lets | split | dsimp only | apply Sound.record)

theorem State.bodyRead_sound {u₀ s : State} (h₀ : Sound u₀ s) (a : Nat) : Sound u₀ (State.bodyRead s a).1 := by
  unfold State.bodyRead
  with_reducible repeat' (first | assumption | apply Sound.refl | (intro x; refine Sound.via (t := x) ?_ (fun hx => ?_); on_goal 2 => clear_value x) | (intro x; refine Sound.via (t := x.1) ?_ (fun hx => ?_); on_goal 2 => clear_value x) | (intro x; clear_value x) | intro _ | apply Sound.ite | apply State.cswFetch_sound | apply State.icClaim_sound | apply State.mtcRead_sound | apply State.setReg_sound | apply State.smbRead_sound | lift_lets | split | dsimp only | apply Sound.record)

theorem State.regRead_sound {u₀ s : State} (h₀ : Sound u₀ s) (a : Nat) : Sound u₀ (State.regRead s a).1 := by
  unfold State.regRead
  with_reducible repeat' (first | assumption | apply Sound.refl | (intro x; refine Sound.via (t := x) ?_ (fun hx => ?_); on_goal 2 => clear_value x) | (intro x; refine Sound.via (t := x.1) ?_ (fun hx => ?_); on_goal 2 => clear_value x) | (intro x; clear_value x) | intro _ | apply Sound.ite | apply State.bodyRead_sound | lift_lets | split | dsimp only)

theorem State.identityWrite_sound {u₀ s : State} (h₀ : Sound u₀ s) (k : Nat) (off : Nat) (v : W32) : Sound u₀ (State.identityWrite s k off v) := by
  unfold State.identityWrite
  with_reducible repeat' (first | assumption | apply Sound.refl | apply Sound.ite | apply State.msixTable_sound | split | dsimp only)

theorem State.busRegWrite_sound {u₀ s : State} (h₀ : Sound u₀ s) (who : Who) (off : Nat) (v : W32) : Sound u₀ (State.busRegWrite s who off v) := by
  unfold State.busRegWrite
  with_reducible repeat' (first | assumption | apply Sound.refl | intro _ | apply Sound.ite | apply State.access_sound | apply State.accessHdr_sound | apply State.identityWrite_sound | apply State.regWrite_sound | apply State.unsupported_sound | split | dsimp only)

theorem State.busRegRead_sound {u₀ s : State} (h₀ : Sound u₀ s) (who : Who) (off : Nat) (n : Nat) : Sound u₀ (State.busRegRead s who off n) := by
  unfold State.busRegRead
  with_reducible repeat' (first | assumption | apply Sound.refl | (intro x; refine Sound.via (t := x) ?_ (fun hx => ?_); on_goal 2 => clear_value x) | (intro x; refine Sound.via (t := x.1) ?_ (fun hx => ?_); on_goal 2 => clear_value x) | (intro x; clear_value x) | intro _ | apply Sound.ite | apply State.accessRd_sound | apply State.emit_sound | apply State.regRead_sound | apply State.unsupported_sound | lift_lets | split | dsimp only)

theorem State.busRegWrites_sound {u₀ s : State} (h₀ : Sound u₀ s) (who : Who) (off : Nat) (y0 : List W32) : Sound u₀ (State.busRegWrites s who off y0) := by
  induction y0 generalizing s who off with
  | nil =>
    unfold State.busRegWrites
    with_reducible repeat' (first | assumption | apply Sound.refl | apply Sound.ite | apply ih | apply State.busRegWrite_sound | split | dsimp only)
  | cons e l ih =>
    unfold State.busRegWrites
    with_reducible repeat' (first | assumption | apply Sound.refl | apply Sound.ite | apply ih | apply State.busRegWrite_sound | split | dsimp only)

theorem State.busRegReads_sound {u₀ s : State} (h₀ : Sound u₀ s) (who : Who) (off : Nat) (n : Nat) : Sound u₀ (State.busRegReads s who off n) := by
  unfold State.busRegReads
  with_reducible repeat' (first | assumption | apply Sound.refl | intro _ | apply Sound.ite | apply State.busRegRead_sound | apply Sound.each | split | dsimp only)

theorem State.partialCount_sound {u₀ s : State} (h₀ : Sound u₀ s) : Sound u₀ (State.partialCount s) := by
  unfold State.partialCount
  with_reducible repeat' (first | assumption | apply Sound.refl | apply Sound.ite | apply State.event_sound | apply State.satF_sound | split | dsimp only)

theorem State.partialWrite_sound {u₀ s : State} (h₀ : Sound u₀ s) (k : FnId) (off : Nat) (be : BitVec 4) (v : W32) : Sound u₀ (State.partialWrite s k off be v) := by
  unfold State.partialWrite
  with_reducible repeat' (first | assumption | apply Sound.refl | apply Sound.ite | apply State.busRegWrite_sound | apply State.partialCount_sound | apply State.unsupported_sound | split | dsimp only)

/-! Bus -/

theorem State.wordsRead_sound {u₀ s : State} (h₀ : Sound u₀ s) (y0 : List Nat) : Sound u₀ (State.wordsRead s y0).1 := by
  induction y0 generalizing s with
  | nil =>
    unfold State.wordsRead
    with_reducible repeat' (first | assumption | apply Sound.refl | (intro x; refine Sound.via (t := x) ?_ (fun hx => ?_); on_goal 2 => clear_value x) | (intro x; refine Sound.via (t := x.1) ?_ (fun hx => ?_); on_goal 2 => clear_value x) | (intro x; clear_value x) | intro _ | apply Sound.ite | apply ih | apply State.regRead_sound | lift_lets | split | dsimp only)
  | cons e l ih =>
    unfold State.wordsRead
    with_reducible repeat' (first | assumption | apply Sound.refl | (intro x; refine Sound.via (t := x) ?_ (fun hx => ?_); on_goal 2 => clear_value x) | (intro x; refine Sound.via (t := x.1) ?_ (fun hx => ?_); on_goal 2 => clear_value x) | (intro x; clear_value x) | intro _ | apply Sound.ite | apply ih | apply State.regRead_sound | lift_lets | split | dsimp only)

theorem State.nocRead_sound {u₀ s : State} (h₀ : Sound u₀ s) (a n : Nat) : Sound u₀ (s.nocRead a n).1 := by
  unfold State.nocRead
  exact Sound.itePair (Sound.pair (State.hbmRead_sound (State.queueRange_sound h₀ _ _ _) _ _) _)
    (Sound.itePair (Sound.pair (State.wordsRead_sound h₀ _) _) (Sound.pair h₀ _))

theorem State.wordsWrite_sound {u₀ s : State} (h₀ : Sound u₀ s) (who : Who) (a : Nat) (bs : List Byte) (y0 : List Nat) : Sound u₀ (State.wordsWrite s who a bs y0).1 := by
  induction y0 generalizing s who a bs with
  | nil =>
    unfold State.wordsWrite
    with_reducible repeat' (first | assumption | apply Sound.refl | (intro x; refine Sound.via (t := x) ?_ (fun hx => ?_); on_goal 2 => clear_value x) | (intro x; refine Sound.via (t := x.1) ?_ (fun hx => ?_); on_goal 2 => clear_value x) | (intro x; clear_value x) | intro _ | apply Sound.ite | apply ih | apply State.partialCount_sound | apply State.regWrite_sound | lift_lets | split | dsimp only)
  | cons e l ih =>
    unfold State.wordsWrite
    with_reducible repeat' (first | assumption | apply Sound.refl | (intro x; refine Sound.via (t := x) ?_ (fun hx => ?_); on_goal 2 => clear_value x) | (intro x; refine Sound.via (t := x.1) ?_ (fun hx => ?_); on_goal 2 => clear_value x) | (intro x; clear_value x) | intro _ | apply Sound.ite | apply ih | apply State.partialCount_sound | apply State.regWrite_sound | lift_lets | split | dsimp only)

theorem State.nocWrite_sound {u₀ s : State} (h₀ : Sound u₀ s) (who : Who) (a : Nat) (bs : List Byte) (pois : Bool) : Sound u₀ (State.nocWrite s who a bs pois).1 := by
  unfold State.nocWrite
  with_reducible repeat' (first | assumption | apply Sound.refl | apply Sound.ite | apply State.hbmWrite_sound | apply State.queueRange_sound | apply State.wordsWrite_sound | split | dsimp only)

theorem State.bar2Read_sound {u₀ s : State} (h₀ : Sound u₀ s) (a : Nat) (len : Nat) : Sound u₀ (State.bar2Read s a len) := by
  unfold State.bar2Read
  with_reducible repeat' (first | assumption | apply Sound.refl | (intro x; refine Sound.via (t := x) ?_ (fun hx => ?_); on_goal 2 => clear_value x) | (intro x; clear_value x) | intro _ | apply Sound.ite | apply State.emit_sound | apply State.hbmRead_sound | apply State.queueRange_sound | lift_lets | split | dsimp only)

theorem State.bar2Write_sound {u₀ s : State} (h₀ : Sound u₀ s) (a : Nat) (bs : List Byte) : Sound u₀ (State.bar2Write s a bs) := by
  unfold State.bar2Write
  with_reducible repeat' (first | assumption | apply Sound.refl | (intro x; refine Sound.via (t := x) ?_ (fun hx => ?_); on_goal 2 => clear_value x) | (intro x; clear_value x) | intro _ | apply Sound.ite | apply State.hbmWrite_sound | apply State.queueRange_sound | lift_lets | split | dsimp only)

/-! Dma -/

theorem State.xferRead_sound {u₀ s : State} (h₀ : Sound u₀ s) (src : Place) (len : Nat) (x : Xfer) (req : Nat → Requester) : Sound u₀ (State.xferRead s src len x req).1 := by
  unfold State.xferRead
  with_reducible repeat' (first | assumption | apply Sound.refl | (intro x; refine Sound.via (t := x) ?_ (fun hx => ?_); on_goal 2 => clear_value x) | (intro x; refine Sound.via (t := x.1) ?_ (fun hx => ?_); on_goal 2 => clear_value x) | (intro x; clear_value x) | intro _ | apply Sound.ite | apply State.nocRead_sound | apply State.remoteRefused_sound | apply State.remoteSend_sound | apply Sound.each | lift_lets | split | dsimp only)

theorem State.xferWrite_sound {u₀ s : State} (h₀ : Sound u₀ s) (dst : Place) (circ : Nat) (bs : List (Byte × Bool)) (x : Xfer) (req : Nat → Requester) : Sound u₀ (State.xferWrite s dst circ bs x req).1 := by
  unfold State.xferWrite
  with_reducible repeat' (first | assumption | apply Sound.refl | (intro x; refine Sound.via (t := x) ?_ (fun hx => ?_); on_goal 2 => clear_value x) | (intro x; refine Sound.via (t := x.1) ?_ (fun hx => ?_); on_goal 2 => clear_value x) | (intro x; clear_value x) | intro _ | apply Sound.ite | apply State.nocWrite_sound | apply State.putCells_sound | apply State.putHost_sound | apply State.remoteRefused_sound | apply State.remoteSend_sound | apply Sound.each | lift_lets | split | dsimp only)

theorem State.xferStep_sound {u₀ s : State} (h₀ : Sound u₀ s) (src : Place) (dst : Place) (len : Nat) (circ : Nat) (f : List (Byte × Bool) → List (Byte × Bool)) (x : Xfer) (req : Nat → Requester) : Sound u₀ (State.xferStep s src dst len circ f x req).1 := by
  unfold State.xferStep
  with_reducible repeat' (first | assumption | apply Sound.refl | (intro x; refine Sound.via (t := x) ?_ (fun hx => ?_); on_goal 2 => clear_value x) | (intro x; refine Sound.via (t := x.1) ?_ (fun hx => ?_); on_goal 2 => clear_value x) | (intro x; clear_value x) | intro _ | apply Sound.ite | apply State.xferRead_sound | apply State.xferWrite_sound | lift_lets | split | dsimp only)

theorem State.bytesMoved_sound {u₀ s : State} (h₀ : Sound u₀ s) (n : Nat) : Sound u₀ (State.bytesMoved s n) := by
  unfold State.bytesMoved
  with_reducible repeat' (first | assumption | apply Sound.refl | apply State.setPair_sound)

theorem State.crcStore_sound {u₀ s : State} (h₀ : Sound u₀ s) (k : Nat) (d : Desc) (bs : List (Byte × Bool)) : Sound u₀ (s.crcStore k d bs).1 := by
  unfold State.crcStore
  exact Sound.itePair (Sound.pair h₀ _) (Sound.itePair (Sound.itePair (Sound.pair (State.hostWrite_sound h₀ _ _) _) (Sound.pair h₀ _))
    (Sound.itePair (Sound.pair (State.nocWrite_sound h₀ _ _ _ _) _) (Sound.pair h₀ _)))

theorem State.descLand_sound {u₀ s : State} (h₀ : Sound u₀ s) (r : Nat) (d : Desc) (bs : List (Byte × Bool)) : Sound u₀ (State.descLand s r d bs) := by
  unfold State.descLand
  with_reducible repeat' (first | assumption | apply Sound.refl | (intro x; refine Sound.via (t := x) ?_ (fun hx => ?_); on_goal 2 => clear_value x) | (intro x; refine Sound.via (t := x.1) ?_ (fun hx => ?_); on_goal 2 => clear_value x) | (intro x; clear_value x) | intro _ | apply Sound.ite | apply State.bytesMoved_sound | apply State.crcStore_sound | apply State.descEnd_sound | apply State.emit_sound | apply State.whenB_sound | lift_lets | split | dsimp only)

theorem State.descFail_sound {u₀ s : State} (h₀ : Sound u₀ s) (r : Nat) (d : Desc) (err : Nat) : Sound u₀ (State.descFail s r d err) := by
  unfold State.descFail
  with_reducible repeat' (first | assumption | apply Sound.refl | apply State.descEnd_sound | apply State.descPartial_sound)

theorem State.descStep_sound {u₀ s : State} (h₀ : Sound u₀ s) (r : Nat) (d : Desc) : Sound u₀ (State.descStep s r d) := by
  unfold State.descStep
  with_reducible repeat' (first | assumption | apply Sound.refl | (intro x; refine Sound.via (t := x) ?_ (fun hx => ?_); on_goal 2 => clear_value x) | (intro x; refine Sound.via (t := x.1) ?_ (fun hx => ?_); on_goal 2 => clear_value x) | (intro x; clear_value x) | intro _ | apply Sound.ite | apply State.descFail_sound | apply State.descLand_sound | apply State.linkUp_sound | apply State.setDesc_sound | apply State.xferStep_sound | lift_lets | split | dsimp only)

theorem State.descStart_sound {u₀ s : State} (h₀ : Sound u₀ s) (r : Nat) (b : List Byte) : Sound u₀ (State.descStart s r b) := by
  unfold State.descStart
  with_reducible repeat' (first | assumption | apply Sound.refl | (intro x; refine Sound.via (t := x) ?_ (fun hx => ?_); on_goal 2 => clear_value x) | (intro x; refine Sound.via (t := x.1) ?_ (fun hx => ?_); on_goal 2 => clear_value x) | (intro x; clear_value x) | intro _ | apply Sound.ite | apply State.descEnd_sound | apply State.hbmRead_sound | apply State.setRing_sound | lift_lets | split | dsimp only)

theorem State.descError_sound {u₀ s : State} (h₀ : Sound u₀ s) (r : Nat) (d : Desc) (e : XferErr) : Sound u₀ (State.descError s r d e) := by
  unfold State.descError
  with_reducible repeat' (first | assumption | apply Sound.refl | apply Sound.ite | apply State.descFail_sound | apply State.setDesc_sound | split | dsimp only)

theorem State.fetchFail_sound {u₀ s : State} (h₀ : Sound u₀ s) (r : Nat) (e : Nat) : Sound u₀ (State.fetchFail s r e) := by
  unfold State.fetchFail
  with_reducible repeat' (first | assumption | apply Sound.refl | (intro x; refine Sound.via (t := x) ?_ (fun hx => ?_); on_goal 2 => clear_value x) | (intro x; clear_value x) | intro _ | apply Sound.ite | apply State.descUnread_sound | apply State.entryBad_sound | apply State.hbmRead_sound | apply State.setHead_sound | lift_lets | split | dsimp only)

theorem State.chanLatch_sound {u₀ s : State} (h₀ : Sound u₀ s) (c : Nat) : Sound u₀ (State.chanLatch s c) := by
  unfold State.chanLatch
  with_reducible repeat' (first | assumption | apply Sound.refl | apply Sound.ite | apply State.latch_sound | split | dsimp only)

theorem State.chanClose_sound {u₀ s : State} (h₀ : Sound u₀ s) (c : Nat) (n : Nat) : Sound u₀ (State.chanClose s c n) := by
  unfold State.chanClose
  with_reducible repeat' (first | assumption | apply Sound.refl | (intro x; refine Sound.via (t := x) ?_ (fun hx => ?_); on_goal 2 => clear_value x) | (intro x; clear_value x) | intro _ | apply Sound.ite | apply State.bytesMoved_sound | apply State.chanLatch_sound | apply State.dropRemotes_sound | apply State.setB_sound | apply State.setChan_sound | apply State.setReg_sound | lift_lets | split | dsimp only)

theorem State.chanPartial_sound {u₀ s : State} (h₀ : Sound u₀ s) (x : Chan) : Sound u₀ (State.chanPartial s x).1 := by
  unfold State.chanPartial
  with_reducible repeat' (first | assumption | apply Sound.refl | (intro x; refine Sound.via (t := x) ?_ (fun hx => ?_); on_goal 2 => clear_value x) | (intro x; refine Sound.via (t := x.1) ?_ (fun hx => ?_); on_goal 2 => clear_value x) | (intro x; clear_value x) | intro _ | apply Sound.ite | apply State.putCells_sound | lift_lets | split | dsimp only | apply Sound.record)

theorem State.chanStep_sound {u₀ s : State} (h₀ : Sound u₀ s) (c : Nat) (x : Chan) : Sound u₀ (State.chanStep s c x) := by
  unfold State.chanStep
  with_reducible repeat' (first | assumption | apply Sound.refl | (intro x; refine Sound.via (t := x) ?_ (fun hx => ?_); on_goal 2 => clear_value x) | (intro x; refine Sound.via (t := x.1) ?_ (fun hx => ?_); on_goal 2 => clear_value x) | (intro x; clear_value x) | intro _ | apply Sound.ite | apply State.chanClose_sound | apply State.chanError_sound | apply State.chanPartial_sound | apply State.setB_sound | apply State.setChan_sound | apply State.xferStep_sound | lift_lets | split | dsimp only)

theorem State.fenceWrite_sound {u₀ s : State} (h₀ : Sound u₀ s) (r : Nat) (loc : Bool) (a : Nat) (v : Nat) : Sound u₀ (s.fenceWrite r loc a v).1 := by
  unfold State.fenceWrite
  exact Sound.itePair (Sound.itePair (Sound.pair (State.nocWrite_sound h₀ _ _ _ _) _) (Sound.pair h₀ _))
    (Sound.itePair (Sound.pair (State.hostWrite_sound h₀ _ _) _) (Sound.pair h₀ _))

theorem State.fenceEnd_sound {u₀ s : State} (h₀ : Sound u₀ s) (r : Nat) : Sound u₀ (State.fenceEnd s r) := by
  unfold State.fenceEnd
  with_reducible repeat' (first | assumption | apply Sound.refl | (intro x; refine Sound.via (t := x) ?_ (fun hx => ?_); on_goal 2 => clear_value x) | (intro x; refine Sound.via (t := x.1) ?_ (fun hx => ?_); on_goal 2 => clear_value x) | (intro x; clear_value x) | intro _ | apply Sound.ite | apply State.fenceWrite_sound | apply State.finishJob_sound | apply State.setRing_sound | lift_lets | split | dsimp only)

/-! Seq -/

theorem State.wordAlu_sound {u₀ s : State} (h₀ : Sound u₀ s) (q : Nat) : Sound u₀ (State.wordAlu s q) := by
  unfold State.wordAlu
  with_reducible repeat' (first | assumption | apply Sound.refl | (intro x; refine Sound.via (t := x) ?_ (fun hx => ?_); on_goal 2 => clear_value x) | (intro x; refine Sound.via (t := x.1) ?_ (fun hx => ?_); on_goal 2 => clear_value x) | (intro x; clear_value x) | intro _ | apply Sound.ite | apply State.seqFault_sound | apply State.setSeq_sound | lift_lets | split | dsimp only | apply Sound.record)

theorem State.busAnswer_sound {u₀ s : State} (h₀ : Sound u₀ s) (q : Nat) (rd : Bool) (r : Resp) (bs : List Byte) : Sound u₀ (State.busAnswer s q rd r bs) := by
  unfold State.busAnswer
  with_reducible repeat' (first | assumption | apply Sound.refl | (intro x; refine Sound.via (t := x) ?_ (fun hx => ?_); on_goal 2 => clear_value x) | (intro x; refine Sound.via (t := x.1) ?_ (fun hx => ?_); on_goal 2 => clear_value x) | (intro x; clear_value x) | intro _ | apply Sound.ite | apply State.draw_sound | apply State.setSeq_sound | lift_lets | split | dsimp only)

theorem State.unitBusRd_sound {u₀ s : State} (h₀ : Sound u₀ s) (q : Nat) : Sound u₀ (State.unitBusRd s q) := by
  unfold State.unitBusRd
  with_reducible repeat' (first | assumption | apply Sound.refl | (intro x; refine Sound.via (t := x) ?_ (fun hx => ?_); on_goal 2 => clear_value x) | (intro x; refine Sound.via (t := x.1) ?_ (fun hx => ?_); on_goal 2 => clear_value x) | (intro x; clear_value x) | intro _ | apply Sound.ite | apply State.busAnswer_sound | apply State.nocRead_sound | apply State.remoteRefused_sound | apply State.remoteSend_sound | apply State.setSeq_sound | lift_lets | split | dsimp only)

theorem State.unitBusWr_sound {u₀ s : State} (h₀ : Sound u₀ s) (q : Nat) : Sound u₀ (State.unitBusWr s q) := by
  unfold State.unitBusWr
  with_reducible repeat' (first | assumption | apply Sound.refl | (intro x; refine Sound.via (t := x) ?_ (fun hx => ?_); on_goal 2 => clear_value x) | (intro x; refine Sound.via (t := x.1) ?_ (fun hx => ?_); on_goal 2 => clear_value x) | (intro x; clear_value x) | intro _ | apply Sound.ite | apply State.busAnswer_sound | apply State.nocWrite_sound | apply State.remoteRefused_sound | apply State.remoteSend_sound | apply State.setSeq_sound | lift_lets | split | dsimp only)

theorem State.unitRegRd_sound {u₀ s : State} (h₀ : Sound u₀ s) (q : Nat) : Sound u₀ (State.unitRegRd s q) := by
  unfold State.unitRegRd
  with_reducible repeat' (first | assumption | apply Sound.refl | (intro x; refine Sound.via (t := x) ?_ (fun hx => ?_); on_goal 2 => clear_value x) | (intro x; refine Sound.via (t := x.1) ?_ (fun hx => ?_); on_goal 2 => clear_value x) | (intro x; clear_value x) | intro _ | apply Sound.ite | apply State.draw_sound | apply State.regRead_sound | apply State.setSeq_sound | lift_lets | split | dsimp only)

theorem State.unitRegWr_sound {u₀ s : State} (h₀ : Sound u₀ s) (q : Nat) : Sound u₀ (State.unitRegWr s q) := by
  unfold State.unitRegWr
  with_reducible repeat' (first | assumption | apply Sound.refl | (intro x; refine Sound.via (t := x) ?_ (fun hx => ?_); on_goal 2 => clear_value x) | (intro x; clear_value x) | intro _ | apply Sound.ite | apply State.setSeq_sound | lift_lets | split | dsimp only)

theorem State.unitEvtMask_sound {u₀ s : State} (h₀ : Sound u₀ s) (q : Nat) : Sound u₀ (State.unitEvtMask s q) := by
  unfold State.unitEvtMask
  with_reducible repeat' (first | assumption | apply Sound.refl | apply State.setSeq_sound)

theorem State.unitDch_sound {u₀ s : State} (h₀ : Sound u₀ s) (q : Nat) : Sound u₀ (State.unitDch s q) := by
  unfold State.unitDch
  with_reducible repeat' (first | assumption | apply Sound.refl | (intro x; refine Sound.via (t := x) ?_ (fun hx => ?_); on_goal 2 => clear_value x) | (intro x; refine Sound.via (t := x.1) ?_ (fun hx => ?_); on_goal 2 => clear_value x) | (intro x; clear_value x) | intro _ | apply Sound.ite | apply State.chanGo_sound | apply State.setF_sound | apply State.setPair_sound | apply State.setReg_sound | apply State.setSeq_sound | lift_lets | split | dsimp only)

theorem State.unitTimer_sound {u₀ s : State} (h₀ : Sound u₀ s) (q : Nat) : Sound u₀ (State.unitTimer s q) := by
  unfold State.unitTimer
  with_reducible repeat' (first | assumption | apply Sound.refl | apply State.setSeq_sound)

theorem State.unitStage_sound {u₀ s : State} (h₀ : Sound u₀ s) (q : Nat) : Sound u₀ (State.unitStage s q) := by
  unfold State.unitStage
  with_reducible repeat' (first | assumption | apply Sound.refl | apply State.setCore_sound)

theorem State.unitSqWrite_sound {u₀ s : State} (h₀ : Sound u₀ s) (q : Nat) : Sound u₀ (State.unitSqWrite s q) := by
  unfold State.unitSqWrite
  with_reducible repeat' (first | assumption | apply Sound.refl | intro _ | apply State.setCore_sound | dsimp only)

theorem State.unitSqPush_sound {u₀ s : State} (h₀ : Sound u₀ s) (q : Nat) : Sound u₀ (State.unitSqPush s q) := by
  unfold State.unitSqPush
  with_reducible repeat' (first | assumption | apply Sound.refl | (intro x; refine Sound.via (t := x) ?_ (fun hx => ?_); on_goal 2 => clear_value x) | (intro x; clear_value x) | intro _ | apply Sound.ite | apply State.pushWord_sound | apply State.setCore_sound | lift_lets | split | dsimp only)

theorem State.unitSnap_sound {u₀ s : State} (h₀ : Sound u₀ s) (q : Nat) : Sound u₀ (State.unitSnap s q) := by
  unfold State.unitSnap
  with_reducible repeat' (first | assumption | apply Sound.refl | apply Sound.ite | apply State.snapTake_sound | split | dsimp only)

theorem State.unitBitsPut_sound {u₀ s : State} (h₀ : Sound u₀ s) (q : Nat) : Sound u₀ (State.unitBitsPut s q) := by
  unfold State.unitBitsPut
  with_reducible repeat' (first | assumption | apply Sound.refl | (intro x; refine Sound.via (t := x) ?_ (fun hx => ?_); on_goal 2 => clear_value x) | (intro x; clear_value x) | intro _ | apply State.setCore_sound | lift_lets | dsimp only)

theorem State.unitBitsGet_sound {u₀ s : State} (h₀ : Sound u₀ s) (q : Nat) : Sound u₀ (State.unitBitsGet s q) := by
  unfold State.unitBitsGet
  with_reducible repeat' (first | assumption | apply Sound.refl | (intro x; refine Sound.via (t := x) ?_ (fun hx => ?_); on_goal 2 => clear_value x) | (intro x; clear_value x) | intro _ | apply State.draw_sound | apply State.setCore_sound | apply State.setSeq_sound | apply Sound.foldl | lift_lets | dsimp only)

theorem State.unitRun_sound {u₀ s : State} (h₀ : Sound u₀ s) (q : Nat) (op : Nat) : Sound u₀ (State.unitRun s q op) := by
  unfold State.unitRun
  with_reducible repeat' (first | assumption | apply Sound.refl | apply Sound.ite | apply State.unitBitsGet_sound | apply State.unitBitsPut_sound | apply State.unitBusRd_sound | apply State.unitBusWr_sound | apply State.unitDch_sound | apply State.unitEvtMask_sound | apply State.unitRegRd_sound | apply State.unitRegWr_sound | apply State.unitSnap_sound | apply State.unitSqPush_sound | apply State.unitSqWrite_sound | apply State.unitStage_sound | apply State.unitTimer_sound | split | dsimp only)

theorem State.unitPhase_sound {u₀ s : State} (h₀ : Sound u₀ s) (q : Nat) (f : State → Nat → State) (h_f : ∀ {a b : State}, Sound a b → ∀ x1, Sound a (f b x1)) : Sound u₀ (State.unitPhase s q f) := by
  unfold State.unitPhase
  with_reducible repeat' (first | assumption | apply Sound.refl | (intro x; refine Sound.via (t := x) ?_ (fun hx => ?_); on_goal 2 => clear_value x) | (intro x; refine Sound.via (t := x.1) ?_ (fun hx => ?_); on_goal 2 => clear_value x) | (intro x; clear_value x) | intro _ | apply Sound.ite | apply h_f | apply State.setSeq_sound | lift_lets | split | dsimp only)

theorem State.wordUnit_sound {u₀ s : State} (h₀ : Sound u₀ s) (q : Nat) : Sound u₀ (State.wordUnit s q) := by
  unfold State.wordUnit
  with_reducible repeat' (first | assumption | apply Sound.refl | intro _ | apply State.unitPhase_sound | apply State.unitRun_sound | dsimp only)

theorem State.unitCommand_sound {u₀ s : State} (h₀ : Sound u₀ s) (q : Nat) (op : Nat) (f : State → Nat → State) (h_f : ∀ {a b : State}, Sound a b → ∀ x1, Sound a (f b x1)) : Sound u₀ (State.unitCommand s q op f) := by
  unfold State.unitCommand
  with_reducible repeat' (first | assumption | apply Sound.refl | apply Sound.ite | apply h_f | apply State.unitPhase_sound | apply State.wordAlu_sound | split | dsimp only)

theorem State.publish_sound {u₀ s : State} (h₀ : Sound u₀ s) (q : Nat) (a : Nat) (v : W32) : Sound u₀ (State.publish s q a v) := by
  unfold State.publish
  with_reducible repeat' (first | assumption | apply Sound.refl | (intro x; refine Sound.via (t := x) ?_ (fun hx => ?_); on_goal 2 => clear_value x) | (intro x; refine Sound.via (t := x.1) ?_ (fun hx => ?_); on_goal 2 => clear_value x) | (intro x; clear_value x) | intro _ | apply Sound.ite | apply State.regWrite_sound | apply State.setReg_sound | lift_lets | split | dsimp only)

theorem State.publishAll_sound {u₀ s : State} (h₀ : Sound u₀ s) (q : Nat) : Sound u₀ (State.publishAll s q) := by
  unfold State.publishAll
  with_reducible repeat' (first | assumption | apply Sound.refl | (intro x; refine Sound.via (t := x) ?_ (fun hx => ?_); on_goal 2 => clear_value x) | (intro x; refine Sound.via (t := x.1) ?_ (fun hx => ?_); on_goal 2 => clear_value x) | (intro x; clear_value x) | intro _ | apply Sound.ite | apply State.publish_sound | apply State.setSeq_sound | apply Sound.each | lift_lets | split | dsimp only)

theorem State.wordCommit_sound {u₀ s : State} (h₀ : Sound u₀ s) (q : Nat) : Sound u₀ (State.wordCommit s q) := by
  unfold State.wordCommit
  with_reducible repeat' (first | assumption | apply Sound.refl | (intro x; refine Sound.via (t := x) ?_ (fun hx => ?_); on_goal 2 => clear_value x) | (intro x; clear_value x) | intro _ | apply Sound.ite | apply State.publishAll_sound | apply State.setSeq_sound | lift_lets | split | dsimp only)

theorem State.wordEnd_sound {u₀ s : State} (h₀ : Sound u₀ s) (q : Nat) (kind : Nat) (f : Seqr → W128 → W32 → Seqr) : Sound u₀ (State.wordEnd s q kind f) := by
  unfold State.wordEnd
  with_reducible repeat' (first | assumption | apply Sound.refl | (intro x; refine Sound.via (t := x) ?_ (fun hx => ?_); on_goal 2 => clear_value x) | (intro x; clear_value x) | intro _ | apply Sound.ite | apply State.draw_sound | apply State.seqFault_sound | apply State.setSeq_sound | apply State.wordAlu_sound | apply State.wordCommit_sound | apply State.wordUnit_sound | lift_lets | split | dsimp only)

theorem State.eventTake_sound {u₀ s : State} (h₀ : Sound u₀ s) (q : Nat) (e : Nat) : Sound u₀ (State.eventTake s q e) := by
  unfold State.eventTake
  with_reducible repeat' (first | assumption | apply Sound.refl | (intro x; refine Sound.via (t := x) ?_ (fun hx => ?_); on_goal 2 => clear_value x) | (intro x; refine Sound.via (t := x.1) ?_ (fun hx => ?_); on_goal 2 => clear_value x) | (intro x; clear_value x) | intro _ | apply Sound.ite | apply State.draw_sound | apply State.setSeq_sound | lift_lets | split | dsimp only)

/-! Remote -/

theorem State.windowReject_sound {u₀ s : State} (h₀ : Sound u₀ s) (n : Nat) : Sound u₀ (State.windowReject s n) := by
  unfold State.windowReject
  with_reducible repeat' (first | assumption | apply Sound.refl | apply State.event_sound | apply State.satF_sound)

theorem State.respSend_sound {u₀ s : State} (h₀ : Sound u₀ s) (h : FabHeader) (r : Resp) (bs : List Byte) : Sound u₀ (State.respSend s h r bs) := by
  unfold State.respSend
  with_reducible repeat' (first | assumption | apply Sound.refl | apply Sound.ite | apply State.e2eSend_sound | split | dsimp only)

theorem State.serveRemoteRead_sound {u₀ s : State} (h₀ : Sound u₀ s) (n : Nat) (h : FabHeader) : Sound u₀ (State.serveRemoteRead s n h) := by
  unfold State.serveRemoteRead
  with_reducible repeat' (first | assumption | apply Sound.refl | (intro x; refine Sound.via (t := x) ?_ (fun hx => ?_); on_goal 2 => clear_value x) | (intro x; refine Sound.via (t := x.1) ?_ (fun hx => ?_); on_goal 2 => clear_value x) | (intro x; clear_value x) | intro _ | apply Sound.ite | apply State.nocRead_sound | apply State.respSend_sound | apply State.windowReject_sound | lift_lets | split | dsimp only)

theorem State.serveRemoteWrite_sound {u₀ s : State} (h₀ : Sound u₀ s) (n : Nat) (h : FabHeader) (bs : List Byte) : Sound u₀ (State.serveRemoteWrite s n h bs) := by
  unfold State.serveRemoteWrite
  with_reducible repeat' (first | assumption | apply Sound.refl | (intro x; refine Sound.via (t := x) ?_ (fun hx => ?_); on_goal 2 => clear_value x) | (intro x; refine Sound.via (t := x.1) ?_ (fun hx => ?_); on_goal 2 => clear_value x) | (intro x; clear_value x) | intro _ | apply Sound.ite | apply State.nocWrite_sound | apply State.respSend_sound | apply State.windowReject_sound | lift_lets | split | dsimp only)

theorem State.remoteAnswer_sound {u₀ s : State} (h₀ : Sound u₀ s) (h : FabHeader) (bs : List Byte) : Sound u₀ (State.remoteAnswer s h bs) := by
  unfold State.remoteAnswer
  with_reducible repeat' (first | assumption | apply Sound.refl | (intro x; refine Sound.via (t := x) ?_ (fun hx => ?_); on_goal 2 => clear_value x) | (intro x; clear_value x) | intro _ | apply Sound.ite | apply State.busAnswer_sound | apply State.setChan_sound | apply State.setDesc_sound | lift_lets | split | dsimp only | apply Sound.record)

theorem State.fabDeliver_sound {u₀ s : State} (h₀ : Sound u₀ s) (p : FabHeld) : Sound u₀ (State.fabDeliver s p) := by
  unfold State.fabDeliver
  with_reducible repeat' (first | assumption | apply Sound.refl | intro _ | apply Sound.ite | apply State.partDeliver_sound | apply State.remoteAnswer_sound | apply State.serveRemoteRead_sound | apply State.serveRemoteWrite_sound | apply Sound.elim | split | dsimp only)

theorem deliverOne_sound {u₀ s : State} (h₀ : Sound u₀ s) (node vc : Nat) (p : FabHeld) : Sound u₀ (State.deliverRun.deliverOne s node vc p) := by
  unfold State.deliverRun.deliverOne
  exact Sound.ite (State.ackSend_sound (State.fabDeliver_sound (State.setE2e_sound h₀ _ _ _) _) _ _) (State.fabDeliver_sound (State.setE2e_sound h₀ _ _ _) _)

theorem State.deliverRun_sound {u₀ s : State} (h₀ : Sound u₀ s) (node vc : Nat) (p : FabHeld) (k : Nat) : Sound u₀ (s.deliverRun node vc p k) := by
  induction k generalizing s p with
  | zero => exact deliverOne_sound h₀ _ _ _
  | succ k ih =>
    unfold State.deliverRun
    dsimp only
    split
    · exact ih (State.setE2e_sound (deliverOne_sound h₀ _ _ _) _ _ _) _
    · exact deliverOne_sound h₀ _ _ _

theorem State.e2eReceive_sound {u₀ s : State} (h₀ : Sound u₀ s) (p : FabHeld) : Sound u₀ (State.e2eReceive s p) := by
  unfold State.e2eReceive
  with_reducible repeat' (first | assumption | apply Sound.refl | (intro x; refine Sound.via (t := x) ?_ (fun hx => ?_); on_goal 2 => clear_value x) | (intro x; refine Sound.via (t := x.1) ?_ (fun hx => ?_); on_goal 2 => clear_value x) | (intro x; clear_value x) | intro _ | apply Sound.ite | apply State.deliverRun_sound | apply State.setE2e_sound | lift_lets | split | dsimp only)

theorem State.fabArrive_sound {u₀ s : State} (h₀ : Sound u₀ s) (port : Nat) (typ : Nat) (vc : Nat) (h : FabHeader) (payload : List Byte) (part : Option PartId) : Sound u₀ (State.fabArrive s port typ vc h payload part) := by
  unfold State.fabArrive
  with_reducible repeat' (first | assumption | apply Sound.refl | (intro x; refine Sound.via (t := x) ?_ (fun hx => ?_); on_goal 2 => clear_value x) | (intro x; refine Sound.via (t := x.1) ?_ (fun hx => ?_); on_goal 2 => clear_value x) | (intro x; clear_value x) | intro _ | apply Sound.ite | apply State.e2eReceive_sound | apply State.portRx_sound | lift_lets | split | dsimp only)

/-! Idle -/

theorem mtcAdvance_sound {u₀ s : State} (h₀ : Sound u₀ s) : Sound u₀ (mtcAdvance s) := by
  unfold mtcAdvance
  with_reducible repeat' (first | assumption | apply Sound.refl | (intro x; refine Sound.via (t := x) ?_ (fun hx => ?_); on_goal 2 => clear_value x) | (intro x; refine Sound.via (t := x.1) ?_ (fun hx => ?_); on_goal 2 => clear_value x) | (intro x; clear_value x) | intro _ | apply Sound.ite | apply State.event_sound | lift_lets | split | dsimp only | apply Sound.record)

theorem moderationAdvance_sound {u₀ s : State} (h₀ : Sound u₀ s) : Sound u₀ (moderationAdvance s) := by
  unfold moderationAdvance
  with_reducible repeat' (first | assumption | apply Sound.refl | (intro x; refine Sound.via (t := x) ?_ (fun hx => ?_); on_goal 2 => clear_value x) | (intro x; clear_value x) | intro _ | apply Sound.ite | lift_lets | split | dsimp only | apply Sound.record)

theorem idleTick_sound {u₀ s : State} (h₀ : Sound u₀ s) : Sound u₀ (idleTick s) := by
  unfold idleTick
  with_reducible repeat' (first | assumption | apply Sound.refl | (intro x; refine Sound.via (t := x) ?_ (fun hx => ?_); on_goal 2 => clear_value x) | (intro x; clear_value x) | intro _ | apply Sound.ite | apply agesAdvance_sound | apply moderationAdvance_sound | apply mtcAdvance_sound | lift_lets | split | dsimp only | apply Sound.record)

end Sys2Proof.Machine
end

