-- ==== Sys2Proof/Laws/SoundExec.lean ====
section
/-! SUPPORT. Every command answers a next state that is `Sound`: one lemma per command. -/

set_option linter.unusedTactic false
set_option linter.unreachableTactic false

namespace Sys2Proof.Machine

theorem execIcClaim_sound (who : Who) (inst : FnId) {u₀ s : State} (h₀ : Sound u₀ s) : Goes u₀ (execIcClaim who inst s) := by
  unfold execIcClaim
  refine ⟨_, rfl, ?_⟩
  with_reducible repeat' (first | assumption | apply Sound.refl | intro _ | apply State.accessRd_sound | apply State.icClaim_sound | dsimp only)

theorem execIcComplete_sound (who : Who) (inst : FnId) (v : W32) {u₀ s : State} (h₀ : Sound u₀ s) : Goes u₀ (execIcComplete who inst v s) := by
  unfold execIcComplete
  refine ⟨_, rfl, ?_⟩
  with_reducible repeat' (first | assumption | apply Sound.refl | intro _ | apply State.access_sound | apply State.icComplete_sound | dsimp only)

theorem execMsixSend_sound (inst : FnId) {u₀ s : State} (h₀ : Sound u₀ s) : Goes u₀ (execMsixSend inst s) := by
  unfold execMsixSend
  refine ⟨_, rfl, ?_⟩
  with_reducible repeat' (first | assumption | apply Sound.refl | apply Sound.ite | apply State.icEval_sound | split | dsimp only)

theorem execIcModWrite_sound (who : Who) (inst : FnId) (r : RingId) (v : W32) {u₀ s : State} (h₀ : Sound u₀ s) : Goes u₀ (execIcModWrite who inst r v s) := by
  unfold execIcModWrite
  refine ⟨_, rfl, ?_⟩
  with_reducible repeat' (first | assumption | apply Sound.refl | intro _ | apply State.access_sound | apply State.icModWrite_sound | dsimp only)

theorem execModerationTimer_sound (r : RingId) {u₀ s : State} (h₀ : Sound u₀ s) : Goes u₀ (execModerationTimer r s) := by
  unfold execModerationTimer
  refine ⟨_, rfl, ?_⟩
  with_reducible repeat' (first | assumption | apply Sound.refl | apply Sound.ite | apply State.modFire_sound | split | dsimp only)

theorem execPmeRepeat_sound (fn : FnId) {u₀ s : State} (h₀ : Sound u₀ s) : Goes u₀ (execPmeRepeat fn s) := by
  unfold execPmeRepeat
  refine ⟨_, rfl, ?_⟩
  with_reducible repeat' (first | assumption | apply Sound.refl | (intro x; refine Sound.via (t := x) ?_ (fun hx => ?_); on_goal 2 => clear_value x) | (intro x; clear_value x) | intro _ | apply Sound.ite | apply State.sendPme_sound | lift_lets | split | dsimp only)

theorem execMsixControlWrite_sound (inst : FnId) (f : MsixField) {u₀ s : State} (h₀ : Sound u₀ s) : Goes u₀ (execMsixControlWrite inst f s) := by
  unfold execMsixControlWrite
  refine ⟨_, rfl, ?_⟩
  with_reducible repeat' (first | assumption | apply Sound.refl | intro _ | apply Sound.ite | apply State.config_sound | apply State.msixControl_sound | split | dsimp only)

theorem execAlloc_sound (src : PoolSrc) (pool : PoolId) (count : Nat) (blocking : Bool) {u₀ s : State} (h₀ : Sound u₀ s) : Goes u₀ (execAlloc src pool count blocking s) := by
  unfold execAlloc
  refine ⟨_, rfl, ?_⟩
  with_reducible repeat' (first | assumption | apply Sound.refl | (intro x; refine Sound.via (t := x) ?_ (fun hx => ?_); on_goal 2 => clear_value x) | (intro x; refine Sound.via (t := x.1) ?_ (fun hx => ?_); on_goal 2 => clear_value x) | (intro x; clear_value x) | intro _ | apply Sound.ite | apply State.poolAlloc_sound | apply State.poolBlocking_sound | apply State.poolFinish_sound | apply State.poolFor_sound | apply State.poolJob_sound | apply State.poolTell_sound | apply Sound.elim | lift_lets | split | dsimp only)

theorem execAddref_sound (src : PoolSrc) (h : W32) {u₀ s : State} (h₀ : Sound u₀ s) : Goes u₀ (execAddref src h s) := by
  unfold execAddref
  refine ⟨_, rfl, ?_⟩
  with_reducible repeat' (first | assumption | apply Sound.refl | intro _ | apply State.poolAddref_sound | apply State.poolOnHandle_sound | dsimp only)

theorem execRelease_sound (src : PoolSrc) (h : W32) {u₀ s : State} (h₀ : Sound u₀ s) : Goes u₀ (execRelease src h s) := by
  unfold execRelease
  refine ⟨_, rfl, ?_⟩
  with_reducible repeat' (first | assumption | apply Sound.refl | intro _ | apply State.poolOnHandle_sound | apply State.poolRelease_sound | dsimp only)

theorem execTransfer_sound (src : PoolSrc) (h : W32) (dst : Nat) {u₀ s : State} (h₀ : Sound u₀ s) : Goes u₀ (execTransfer src h dst s) := by
  unfold execTransfer
  refine ⟨_, rfl, ?_⟩
  with_reducible repeat' (first | assumption | apply Sound.refl | intro _ | apply State.poolOnHandle_sound | apply State.poolTransfer_sound | dsimp only)

theorem execFree_sound (src : PoolSrc) (h : W32) {u₀ s : State} (h₀ : Sound u₀ s) : Goes u₀ (execFree src h s) := by
  unfold execFree
  refine ⟨_, rfl, ?_⟩
  with_reducible repeat' (first | assumption | apply Sound.refl | intro _ | apply State.poolFreeOp_sound | apply State.poolOnHandle_sound | dsimp only)

theorem execReclaimByOwner_sound (src : PoolSrc) (pool : PoolId) (victim : Nat) {u₀ s : State} (h₀ : Sound u₀ s) : Goes u₀ (execReclaimByOwner src pool victim s) := by
  unfold execReclaimByOwner
  refine ⟨_, rfl, ?_⟩
  with_reducible repeat' (first | assumption | apply Sound.refl | intro _ | apply Sound.ite | apply State.poolFor_sound | apply State.poolJob_sound | apply State.scanStart_sound | split | dsimp only)

theorem execReclaimDone_sound (pool : PoolId) {u₀ s : State} (h₀ : Sound u₀ s) : Goes u₀ (execReclaimDone pool s) := by
  unfold execReclaimDone
  refine ⟨_, rfl, ?_⟩
  with_reducible repeat' (first | assumption | apply Sound.refl | apply Sound.ite | apply State.scanEnd_sound | split | dsimp only)

theorem execPoolWaiterServed_sound (pool : PoolId) {u₀ s : State} (h₀ : Sound u₀ s) : Goes u₀ (execPoolWaiterServed pool s) := by
  unfold execPoolWaiterServed
  refine ⟨_, rfl, ?_⟩
  with_reducible repeat' (first | assumption | apply Sound.refl | apply Sound.ite | apply State.waiterServe_sound | split | dsimp only)

theorem execPoolEnable_sound (who : Who) (pool : PoolId) {u₀ s : State} (h₀ : Sound u₀ s) : Goes u₀ (execPoolEnable who pool s) := by
  unfold execPoolEnable
  refine ⟨_, rfl, ?_⟩
  with_reducible repeat' (first | assumption | apply Sound.refl | intro _ | apply State.access_sound | apply State.poolStart_sound | dsimp only)

theorem execPoolDrain_sound (who : Who) (pool : PoolId) {u₀ s : State} (h₀ : Sound u₀ s) : Goes u₀ (execPoolDrain who pool s) := by
  unfold execPoolDrain
  refine ⟨_, rfl, ?_⟩
  with_reducible repeat' (first | assumption | apply Sound.refl | intro _ | apply State.access_sound | apply State.poolStop_sound | dsimp only)

theorem execPoolAbort_sound (who : Who) (pool : PoolId) {u₀ s : State} (h₀ : Sound u₀ s) : Goes u₀ (execPoolAbort who pool s) := by
  unfold execPoolAbort
  refine ⟨_, rfl, ?_⟩
  with_reducible repeat' (first | assumption | apply Sound.refl | intro _ | apply State.access_sound | apply State.poolStop_sound | dsimp only)

theorem execLinesDoneAdvance_sound (a : Nat) (h : W32) (lines : Nat) (complete : Bool) {u₀ s : State} (h₀ : Sound u₀ s) : Goes u₀ (execLinesDoneAdvance a h lines complete s) := by
  unfold execLinesDoneAdvance
  refine ⟨_, rfl, ?_⟩
  with_reducible repeat' (first | assumption | apply Sound.refl | intro _ | apply State.linesDone_sound | apply State.poolFor_sound | dsimp only)

theorem execRingDoorbell_sound (who : Who) (r : RingId) (tail : W32) {u₀ s : State} (h₀ : Sound u₀ s) : Goes u₀ (execRingDoorbell who r tail s) := by
  unfold execRingDoorbell
  refine ⟨_, rfl, ?_⟩
  with_reducible repeat' (first | assumption | apply Sound.refl | intro _ | apply State.access_sound | apply State.tailWrite_sound | dsimp only)

theorem execRingOwnerChange_sound (who : Who) (r : RingId) (owner : FnId) {u₀ s : State} (h₀ : Sound u₀ s) : Goes u₀ (execRingOwnerChange who r owner s) := by
  unfold execRingOwnerChange
  refine ⟨_, rfl, ?_⟩
  with_reducible repeat' (first | assumption | apply Sound.refl | intro _ | apply State.access_sound | apply State.ownerWrite_sound | dsimp only)

theorem execJobBadType_sound (r : RingId) {u₀ s : State} (h₀ : Sound u₀ s) : Goes u₀ (execJobBadType r s) := by
  unfold execJobBadType
  refine ⟨_, rfl, ?_⟩
  with_reducible repeat' (first | assumption | apply Sound.refl | (intro x; refine Sound.via (t := x) ?_ (fun hx => ?_); on_goal 2 => clear_value x) | (intro x; clear_value x) | intro _ | apply Sound.ite | apply State.finishJob_sound | apply State.takeJob_sound | lift_lets | split | dsimp only)

theorem execNop_sound (r : RingId) {u₀ s : State} (h₀ : Sound u₀ s) : Goes u₀ (execNop r s) := by
  unfold execNop
  refine ⟨_, rfl, ?_⟩
  with_reducible repeat' (first | assumption | apply Sound.refl | intro _ | apply State.finishJob_sound | apply State.withJob_sound | dsimp only)

theorem execFence_sound (r : RingId) {u₀ s : State} (h₀ : Sound u₀ s) : Goes u₀ (execFence r s) := by
  unfold execFence
  refine ⟨_, rfl, ?_⟩
  with_reducible repeat' (first | assumption | apply Sound.refl | intro _ | apply State.setRing_sound | apply State.withJob_sound | dsimp only)

theorem execSessionOpen_sound (r : RingId) {u₀ s : State} (h₀ : Sound u₀ s) : Goes u₀ (execSessionOpen r s) := by
  refine ⟨_, rfl, State.withJob_sound h₀ _ _ _ _ fun h _ _ => ?_⟩
  dsimp only
  split
  · exact State.finishJob_sound (State.jobReadCount_sound h _ _ _) _ _ _ _
  · split
    · exact State.finishJob_sound (State.jobReadCount_sound h _ _ _) _ _ _ _
    · next k => exact State.finishJob_sound (State.openDone_sound (State.openCheck_sound (State.jobReadCount_sound h _ _ _) _ _ _ k) _) _ _ _ _

theorem execInstall_sound (r : RingId) {u₀ s : State} (h₀ : Sound u₀ s) : Goes u₀ (execInstall r s) := by
  unfold execInstall
  refine ⟨_, rfl, ?_⟩
  with_reducible repeat' (first | assumption | apply Sound.refl | intro _ | apply Sound.ite | apply State.imgJob_sound | apply State.storeImage_sound | split | dsimp only | apply Sound.record)

theorem execLoad_sound (r : RingId) {u₀ s : State} (h₀ : Sound u₀ s) : Goes u₀ (execLoad r s) := by
  unfold execLoad
  refine ⟨_, rfl, ?_⟩
  with_reducible repeat' (first | assumption | apply Sound.refl | intro _ | apply State.event_sound | apply State.finishJob_sound | apply State.imgJob_sound | apply State.imgLoad_sound | dsimp only)

theorem execLoadSwap_sound (r : RingId) {u₀ s : State} (h₀ : Sound u₀ s) : Goes u₀ (execLoadSwap r s) := by
  unfold execLoadSwap
  refine ⟨_, rfl, ?_⟩
  with_reducible repeat' (first | assumption | apply Sound.refl | (intro x; refine Sound.via (t := x) ?_ (fun hx => ?_); on_goal 2 => clear_value x) | (intro x; refine Sound.via (t := x.1) ?_ (fun hx => ?_); on_goal 2 => clear_value x) | (intro x; clear_value x) | intro _ | apply State.hostCopy_sound | apply State.imgJob_sound | apply State.imgLoad_sound | apply State.setSeq_sound | lift_lets | dsimp only)

theorem execStoreReload_sound (core : CoreId) (personality : Fin 16) {u₀ s : State} (h₀ : Sound u₀ s) : Goes u₀ (execStoreReload core personality s) := by
  unfold execStoreReload
  refine ⟨_, rfl, ?_⟩
  with_reducible repeat' (first | assumption | apply Sound.refl | apply Sound.ite | apply State.storeReload_sound | split | dsimp only)

theorem execBankSwap_sound (q : SeqId) {u₀ s : State} (h₀ : Sound u₀ s) : Goes u₀ (execBankSwap q s) := by
  unfold execBankSwap
  refine ⟨_, rfl, ?_⟩
  with_reducible repeat' (first | assumption | apply Sound.refl | (intro x; refine Sound.via (t := x) ?_ (fun hx => ?_); on_goal 2 => clear_value x) | (intro x; clear_value x) | intro _ | apply Sound.ite | apply State.bankSwapped_sound | apply State.event_sound | lift_lets | split | dsimp only)

theorem execCswKick_sound (who : Who) (v : W32) {u₀ s : State} (h₀ : Sound u₀ s) : Goes u₀ (execCswKick who v s) := by
  unfold execCswKick
  refine ⟨_, rfl, ?_⟩
  with_reducible repeat' (first | assumption | apply Sound.refl | intro _ | apply State.access_sound | apply State.cswKick_sound | dsimp only)

theorem execCswSwap_sound (who : Who) (v : W32) {u₀ s : State} (h₀ : Sound u₀ s) : Goes u₀ (execCswSwap who v s) := by
  unfold execCswSwap
  refine ⟨_, rfl, ?_⟩
  with_reducible repeat' (first | assumption | apply Sound.refl | intro _ | apply State.access_sound | apply State.cswSwap_sound | dsimp only)

theorem execCswData0Read_sound (who : Who) {u₀ s : State} (h₀ : Sound u₀ s) : Goes u₀ (execCswData0Read who s) := by
  unfold execCswData0Read
  refine ⟨_, rfl, ?_⟩
  with_reducible repeat' (first | assumption | apply Sound.refl | apply State.accessRd_sound | apply State.cswFetch_sound)

theorem execCswData3Write_sound (who : Who) (v : W32) {u₀ s : State} (h₀ : Sound u₀ s) : Goes u₀ (execCswData3Write who v s) := by
  unfold execCswData3Write
  refine ⟨_, rfl, ?_⟩
  with_reducible repeat' (first | assumption | apply Sound.refl | intro _ | apply State.access_sound | apply State.cswStore_sound | dsimp only)

theorem execCswRevoke_sound (who : Who) (v : W32) {u₀ s : State} (h₀ : Sound u₀ s) : Goes u₀ (execCswRevoke who v s) := by
  unfold execCswRevoke
  refine ⟨_, rfl, ?_⟩
  with_reducible repeat' (first | assumption | apply Sound.refl | intro _ | apply State.access_sound | apply State.cswRevoke_sound | dsimp only)

theorem execSqBankSwap_sound (core : CoreId) {u₀ s : State} (h₀ : Sound u₀ s) : Goes u₀ (execSqBankSwap core s) := by
  unfold execSqBankSwap
  refine ⟨_, rfl, ?_⟩
  with_reducible repeat' (first | assumption | apply Sound.refl | (intro x; refine Sound.via (t := x) ?_ (fun hx => ?_); on_goal 2 => clear_value x) | (intro x; clear_value x) | intro _ | apply Sound.ite | apply State.bankSwap_sound | lift_lets | split | dsimp only)

theorem execSqTimeout_sound (core : CoreId) {u₀ s : State} (h₀ : Sound u₀ s) : Goes u₀ (execSqTimeout core s) := by
  unfold execSqTimeout
  refine ⟨_, rfl, ?_⟩
  with_reducible repeat' (first | assumption | apply Sound.refl | apply Sound.ite | apply State.bankSwap_sound | split | dsimp only)

theorem execSliceTrailer_sound (core : CoreId) {u₀ s : State} (h₀ : Sound u₀ s) : Goes u₀ (execSliceTrailer core s) := by
  unfold execSliceTrailer
  refine ⟨_, rfl, ?_⟩
  with_reducible repeat' (first | assumption | apply Sound.refl | (intro x; refine Sound.via (t := x) ?_ (fun hx => ?_); on_goal 2 => clear_value x) | (intro x; clear_value x) | intro _ | apply Sound.ite | apply State.espFlush_sound | apply State.stagedAct_sound | apply State.streamFinish_sound | apply State.streamStart_sound | lift_lets | split | dsimp only)

theorem execStreamSliceStart_sound (r : RingId) {u₀ s : State} (h₀ : Sound u₀ s) : Goes u₀ (execStreamSliceStart r s) := by
  unfold execStreamSliceStart
  refine ⟨_, rfl, ?_⟩
  with_reducible repeat' (first | assumption | apply Sound.refl | apply Sound.ite | apply State.streamStart_sound | split | dsimp only)

theorem execStreamSliceEnd_sound (r : RingId) {u₀ s : State} (h₀ : Sound u₀ s) : Goes u₀ (execStreamSliceEnd r s) := by
  unfold execStreamSliceEnd
  refine ⟨_, rfl, ?_⟩
  with_reducible repeat' (first | assumption | apply Sound.refl | (intro x; refine Sound.via (t := x) ?_ (fun hx => ?_); on_goal 2 => clear_value x) | (intro x; clear_value x) | intro _ | apply Sound.ite | apply State.espFlush_sound | apply State.streamFinish_sound | lift_lets | split | dsimp only)

theorem execCbufRdWrite_sound (who : Who) (r : RingId) (v : W32) {u₀ s : State} (h₀ : Sound u₀ s) : Goes u₀ (execCbufRdWrite who r v s) := by
  unfold execCbufRdWrite
  refine ⟨_, rfl, ?_⟩
  with_reducible repeat' (first | assumption | apply Sound.refl | intro _ | apply State.access_sound | apply State.rdWrite_sound | dsimp only)

theorem execDecodeJobReady_sound (sess : SessId) (si : SliceInfo) {u₀ s : State} (h₀ : Sound u₀ s) : Goes u₀ (execDecodeJobReady sess si s) := by
  unfold execDecodeJobReady
  refine ⟨_, rfl, ?_⟩
  with_reducible repeat' (first | assumption | apply Sound.refl | (intro x; refine Sound.via (t := x) ?_ (fun hx => ?_); on_goal 2 => clear_value x) | (intro x; clear_value x) | intro _ | apply Sound.ite | apply State.lossUnits_sound | apply State.sliceIn_sound | apply State.unitPop_sound | lift_lets | split | dsimp only)

theorem execConcealmentJobReady_sound (sess : SessId) (pic : Nat) {u₀ s : State} (h₀ : Sound u₀ s) : Goes u₀ (execConcealmentJobReady sess pic s) := by
  unfold execConcealmentJobReady
  refine ⟨_, rfl, ?_⟩
  with_reducible repeat' (first | assumption | apply Sound.refl | intro _ | apply Sound.ite | apply State.concealStart_sound | split | dsimp only)

theorem execConcealLatestStart_sound (sess : SessId) (pic : Nat) {u₀ s : State} (h₀ : Sound u₀ s) : Goes u₀ (execConcealLatestStart sess pic s) := by
  unfold execConcealLatestStart
  refine ⟨_, rfl, ?_⟩
  with_reducible repeat' (first | assumption | apply Sound.refl | intro _ | apply Sound.ite | apply State.concealStart_sound | split | dsimp only)

theorem execOutputDeadline_sound (sess : SessId) (row : Nat) {u₀ s : State} (h₀ : Sound u₀ s) : Goes u₀ (execOutputDeadline sess row s) := by
  unfold execOutputDeadline
  refine ⟨_, rfl, ?_⟩
  with_reducible repeat' (first | assumption | apply Sound.refl | (intro x; refine Sound.via (t := x) ?_ (fun hx => ?_); on_goal 2 => clear_value x) | (intro x; refine Sound.via (t := x.1) ?_ (fun hx => ?_); on_goal 2 => clear_value x) | (intro x; clear_value x) | intro _ | apply Sound.ite | apply State.concealOut_sound | apply State.mapsWrite_sound | apply State.modDec_sound | apply State.outLines_sound | apply Sound.each | lift_lets | split | dsimp only)

theorem execDecodeUnit_sound (r : RingId) {u₀ s : State} (h₀ : Sound u₀ s) : Goes u₀ (execDecodeUnit r s) := by
  unfold execDecodeUnit
  refine ⟨_, rfl, ?_⟩
  with_reducible repeat' (first | assumption | apply Sound.refl | (intro x; refine Sound.via (t := x) ?_ (fun hx => ?_); on_goal 2 => clear_value x) | (intro x; refine Sound.via (t := x.1) ?_ (fun hx => ?_); on_goal 2 => clear_value x) | (intro x; clear_value x) | intro _ | apply Sound.ite | apply State.finishJob_sound | apply State.hbmRead_sound | apply State.modSess_sound | apply State.withJob_sound | lift_lets | split | dsimp only)

theorem execEncodePicture_sound (r : RingId) {u₀ s : State} (h₀ : Sound u₀ s) : Goes u₀ (execEncodePicture r s) := by
  unfold execEncodePicture
  refine ⟨_, rfl, ?_⟩
  with_reducible repeat' (first | assumption | apply Sound.refl | (intro x; refine Sound.via (t := x) ?_ (fun hx => ?_); on_goal 2 => clear_value x) | (intro x; refine Sound.via (t := x.1) ?_ (fun hx => ?_); on_goal 2 => clear_value x) | (intro x; clear_value x) | intro _ | apply Sound.ite | apply State.finishJob_sound | apply State.poolAddref_sound | apply State.poolTransfer_sound | apply State.setSess_sound | apply State.withJob_sound | lift_lets | split | dsimp only)

theorem execPictureStart_sound (sess : SessId) {u₀ s : State} (h₀ : Sound u₀ s) : Goes u₀ (execPictureStart sess s) := by
  unfold execPictureStart
  refine ⟨_, rfl, ?_⟩
  with_reducible repeat' (first | assumption | apply Sound.refl | apply State.picStart_sound)

theorem execPrepass_sound (sess : SessId) (pic : Nat) (activity : List Nat) (costs : List (Nat × Nat)) (vectors : List Mv) {u₀ s : State} (h₀ : Sound u₀ s) : Goes u₀ (execPrepass sess pic activity costs vectors s) := by
  unfold execPrepass
  refine ⟨_, rfl, ?_⟩
  with_reducible repeat' (first | assumption | apply Sound.refl | (intro x; refine Sound.via (t := x) ?_ (fun hx => ?_); on_goal 2 => clear_value x) | (intro x; clear_value x) | intro _ | apply Sound.ite | apply State.measure_sound | apply State.modPic_sound | lift_lets | split | dsimp only)

theorem execSliceJobReady_sound (sess : SessId) (pic : Nat) (job : Nat) {u₀ s : State} (h₀ : Sound u₀ s) : Goes u₀ (execSliceJobReady sess pic job s) := by
  unfold execSliceJobReady
  refine ⟨_, rfl, ?_⟩
  with_reducible repeat' (first | assumption | apply Sound.refl | apply State.encReady_sound)

theorem execInheritLatestStart_sound (sess : SessId) (pic : Nat) (job : Nat) {u₀ s : State} (h₀ : Sound u₀ s) : Goes u₀ (execInheritLatestStart sess pic job s) := by
  unfold execInheritLatestStart
  refine ⟨_, rfl, ?_⟩
  with_reducible repeat' (first | assumption | apply Sound.refl | (intro x; refine Sound.via (t := x) ?_ (fun hx => ?_); on_goal 2 => clear_value x) | (intro x; refine Sound.via (t := x.1) ?_ (fun hx => ?_); on_goal 2 => clear_value x) | (intro x; clear_value x) | intro _ | apply Sound.ite | apply State.jobReady_sound | lift_lets | split | dsimp only)

theorem execSliceJobDispatch_sound (core : CoreId) {u₀ s : State} (h₀ : Sound u₀ s) : Goes u₀ (execSliceJobDispatch core s) := by
  unfold execSliceJobDispatch
  refine ⟨_, rfl, ?_⟩
  with_reducible repeat' (first | assumption | apply Sound.refl | apply State.dispatch_sound)

theorem execStripStart_sound (core : CoreId) {u₀ s : State} (h₀ : Sound u₀ s) : Goes u₀ (execStripStart core s) := by
  unfold execStripStart
  refine ⟨_, rfl, ?_⟩
  with_reducible repeat' (first | assumption | apply Sound.refl | apply Sound.ite | apply State.setCore_sound | split | dsimp only)

theorem execCtuRowStart_sound (core : CoreId) (headerBytes : Nat) (coded floors : List Nat) {u₀ s : State} (h₀ : Sound u₀ s) : Goes u₀ (execCtuRowStart core headerBytes coded floors s) := by
  unfold execCtuRowStart
  refine ⟨_, rfl, ?_⟩
  with_reducible repeat' (first | assumption | apply Sound.refl | apply Sound.ite | apply State.rowCode_sound | split | dsimp only)

theorem execPooledRowReady_sound (sess : SessId) (pic : Nat) (job : Nat) {u₀ s : State} (h₀ : Sound u₀ s) : Goes u₀ (execPooledRowReady sess pic job s) := by
  unfold execPooledRowReady
  refine ⟨_, rfl, ?_⟩
  with_reducible repeat' (first | assumption | apply Sound.refl | (intro x; refine Sound.via (t := x) ?_ (fun hx => ?_); on_goal 2 => clear_value x) | (intro x; refine Sound.via (t := x.1) ?_ (fun hx => ?_); on_goal 2 => clear_value x) | (intro x; clear_value x) | intro _ | apply Sound.ite | apply State.decNext_sound | apply State.encBegin_sound | apply State.modJob_sound | lift_lets | split | dsimp only)

theorem execSliceJobComplete_sound (core : CoreId) {u₀ s : State} (h₀ : Sound u₀ s) : Goes u₀ (execSliceJobComplete core s) := by
  unfold execSliceJobComplete
  refine ⟨_, rfl, ?_⟩
  with_reducible repeat' (first | assumption | apply Sound.refl | apply Sound.ite | apply State.jobComplete_sound | split | dsimp only)

theorem execPromotionReplyTimeout_sound (hedge : HedgeId) {u₀ s : State} (h₀ : Sound u₀ s) : Goes u₀ (execPromotionReplyTimeout hedge s) := by
  unfold execPromotionReplyTimeout
  refine ⟨_, rfl, ?_⟩
  with_reducible repeat' (first | assumption | apply Sound.refl | apply Sound.ite | apply State.promoReplies_sound | split | dsimp only)

theorem execPromotionReissue_sound (hedge : HedgeId) {u₀ s : State} (h₀ : Sound u₀ s) : Goes u₀ (execPromotionReissue hedge s) := by
  unfold execPromotionReissue
  refine ⟨_, rfl, ?_⟩
  with_reducible repeat' (first | assumption | apply Sound.refl | apply Sound.ite | apply State.promoReissue_sound | split | dsimp only)

theorem execHdgPromote_sound (who : Who) (hedge : HedgeId) (v : W32) {u₀ s : State} (h₀ : Sound u₀ s) : Goes u₀ (execHdgPromote who hedge v s) := by
  unfold execHdgPromote
  refine ⟨_, rfl, ?_⟩
  with_reducible repeat' (first | assumption | apply Sound.refl | intro _ | apply State.access_sound | apply State.hdgWrite_sound | dsimp only)

theorem execHostPromoteTakeover_sound (hedge : HedgeId) {u₀ s : State} (h₀ : Sound u₀ s) : Goes u₀ (execHostPromoteTakeover hedge s) := by
  unfold execHostPromoteTakeover
  refine ⟨_, rfl, ?_⟩
  with_reducible repeat' (first | assumption | apply Sound.refl | apply Sound.ite | apply State.hostTakeover_sound | split | dsimp only)

theorem execHdgSpare_sound (who : Who) (hedge : HedgeId) (v : W32) {u₀ s : State} (h₀ : Sound u₀ s) : Goes u₀ (execHdgSpare who hedge v s) := by
  unfold execHdgSpare
  refine ⟨_, rfl, ?_⟩
  with_reducible repeat' (first | assumption | apply Sound.refl | intro _ | apply State.access_sound | apply State.hdgWrite_sound | dsimp only)

theorem execBistStart_sound (who : Who) (hedge : HedgeId) (slot : Fin 16) {u₀ s : State} (h₀ : Sound u₀ s) : Goes u₀ (execBistStart who hedge slot s) := by
  unfold execBistStart
  refine ⟨_, rfl, ?_⟩
  with_reducible repeat' (first | assumption | apply Sound.refl | intro _ | apply State.access_sound | apply State.bistWrite_sound | dsimp only)

theorem execBistDone_sound (hedge : HedgeId) (pass : Bool) {u₀ s : State} (h₀ : Sound u₀ s) : Goes u₀ (execBistDone hedge pass s) := by
  unfold execBistDone
  refine ⟨_, rfl, ?_⟩
  with_reducible repeat' (first | assumption | apply Sound.refl | apply Sound.ite | apply State.bistEnd_sound | split | dsimp only)

theorem execHdgDvfsWrite_sound (who : Who) (hedge : HedgeId) (v : W32) {u₀ s : State} (h₀ : Sound u₀ s) : Goes u₀ (execHdgDvfsWrite who hedge v s) := by
  unfold execHdgDvfsWrite
  refine ⟨_, rfl, ?_⟩
  with_reducible repeat' (first | assumption | apply Sound.refl | intro _ | apply State.access_sound | apply State.hdgWrite_sound | dsimp only)

theorem execDvfsApply_sound (hedge : HedgeId) {u₀ s : State} (h₀ : Sound u₀ s) : Goes u₀ (execDvfsApply hedge s) := by
  unfold execDvfsApply
  refine ⟨_, rfl, ?_⟩
  with_reducible repeat' (first | assumption | apply Sound.refl | apply Sound.ite | apply State.dvfsTake_sound | split | dsimp only)

theorem execHdgPersPinWrite_sound (who : Who) (hedge : HedgeId) (v : W32) {u₀ s : State} (h₀ : Sound u₀ s) : Goes u₀ (execHdgPersPinWrite who hedge v s) := by
  unfold execHdgPersPinWrite
  refine ⟨_, rfl, ?_⟩
  with_reducible repeat' (first | assumption | apply Sound.refl | intro _ | apply State.access_sound | apply State.persPinWrite_sound | dsimp only)

theorem execSessionCloseFinish_sound (r : RingId) {u₀ s : State} (h₀ : Sound u₀ s) : Goes u₀ (execSessionCloseFinish r s) := by
  unfold execSessionCloseFinish
  refine ⟨_, rfl, ?_⟩
  with_reducible repeat' (first | assumption | apply Sound.refl | intro _ | apply State.closeBegin_sound | apply State.withJob_sound | dsimp only)

theorem execSessionCloseAbort_sound (r : RingId) {u₀ s : State} (h₀ : Sound u₀ s) : Goes u₀ (execSessionCloseAbort r s) := by
  unfold execSessionCloseAbort
  refine ⟨_, rfl, ?_⟩
  with_reducible repeat' (first | assumption | apply Sound.refl | intro _ | apply State.closeAbort_sound | apply State.closeBegin_sound | apply State.withJob_sound | dsimp only)

theorem execSessionCloseComplete_sound (sess : SessId) {u₀ s : State} (h₀ : Sound u₀ s) : Goes u₀ (execSessionCloseComplete sess s) := by
  unfold execSessionCloseComplete
  refine ⟨_, rfl, ?_⟩
  with_reducible repeat' (first | assumption | apply Sound.refl | (intro x; refine Sound.via (t := x) ?_ (fun hx => ?_); on_goal 2 => clear_value x) | (intro x; clear_value x) | intro _ | apply Sound.ite | apply State.closeDone_sound | apply State.decFlush_sound | lift_lets | split | dsimp only)

theorem execFlipPoint_sound (pipe : PipeId) {u₀ s : State} (h₀ : Sound u₀ s) : Goes u₀ (execFlipPoint pipe s) := by
  unfold execFlipPoint
  refine ⟨_, rfl, ?_⟩
  with_reducible repeat' (first | assumption | apply Sound.refl | (intro x; refine Sound.via (t := x) ?_ (fun hx => ?_); on_goal 2 => clear_value x) | (intro x; clear_value x) | intro _ | apply Sound.ite | apply State.event_sound | apply State.flipNow_sound | lift_lets | split | dsimp only)

theorem execFreewheelFlip_sound (pipe : PipeId) {u₀ s : State} (h₀ : Sound u₀ s) : Goes u₀ (execFreewheelFlip pipe s) := by
  unfold execFreewheelFlip
  refine ⟨_, rfl, ?_⟩
  with_reducible repeat' (first | assumption | apply Sound.refl | (intro x; refine Sound.via (t := x) ?_ (fun hx => ?_); on_goal 2 => clear_value x) | (intro x; clear_value x) | intro _ | apply Sound.ite | apply State.event_sound | apply State.flipNow_sound | lift_lets | split | dsimp only)

theorem execCanvasLineWrite_sound (pipe : PipeId) {u₀ s : State} (h₀ : Sound u₀ s) : Goes u₀ (execCanvasLineWrite pipe s) := by
  unfold execCanvasLineWrite
  refine ⟨_, rfl, ?_⟩
  with_reducible repeat' (first | assumption | apply Sound.refl | intro _ | apply Sound.ite | apply State.lineOut_sound | apply State.lineStep_sound | apply State.lineSubs_sound | split | dsimp only)

theorem execLateLine_sound (pipe : PipeId) {u₀ s : State} (h₀ : Sound u₀ s) : Goes u₀ (execLateLine pipe s) := by
  unfold execLateLine
  refine ⟨_, rfl, ?_⟩
  with_reducible repeat' (first | assumption | apply Sound.refl | intro _ | apply State.lineLate_sound | apply State.lineStep_sound | dsimp only)

theorem execGroupArm_sound (who : Who) (pipe : PipeId) (group : GroupId) {u₀ s : State} (h₀ : Sound u₀ s) : Goes u₀ (execGroupArm who pipe group s) := by
  unfold execGroupArm
  refine ⟨_, rfl, ?_⟩
  with_reducible repeat' (first | assumption | apply Sound.refl | intro _ | apply State.access_sound | apply State.groupArm_sound | dsimp only)

theorem execGroupCancel_sound (who : Who) (pipe : PipeId) (group : GroupId) {u₀ s : State} (h₀ : Sound u₀ s) : Goes u₀ (execGroupCancel who pipe group s) := by
  unfold execGroupCancel
  refine ⟨_, rfl, ?_⟩
  with_reducible repeat' (first | assumption | apply Sound.refl | intro _ | apply State.access_sound | apply State.groupCancel_sound | dsimp only)

theorem execFlip_sound (r : RingId) {u₀ s : State} (h₀ : Sound u₀ s) : Goes u₀ (execFlip r s) := by
  unfold execFlip
  refine ⟨_, rfl, ?_⟩
  with_reducible repeat' (first | assumption | apply Sound.refl | (intro x; refine Sound.via (t := x) ?_ (fun hx => ?_); on_goal 2 => clear_value x) | (intro x; refine Sound.via (t := x.1) ?_ (fun hx => ?_); on_goal 2 => clear_value x) | (intro x; clear_value x) | intro _ | apply Sound.ite | apply State.event_sound | apply State.finishJob_sound | apply State.groupArm_sound | apply State.setF_sound | apply State.setReg_sound | apply State.withJob_sound | lift_lets | split | dsimp only)

theorem execComposeConfig_sound (r : RingId) {u₀ s : State} (h₀ : Sound u₀ s) : Goes u₀ (execComposeConfig r s) := by
  refine ⟨_, rfl, State.withJob_sound h₀ _ _ _ _ fun h _ _ => ?_⟩
  dsimp only
  split
  · exact State.finishJob_sound (State.jobReadCount_sound h _ _ _) _ _ _ _
  · split
    · exact State.finishJob_sound (State.jobReadCount_sound h _ _ _) _ _ _ _
    · split
      · next k => exact State.finishJob_sound (State.entriesRun_sound (State.jobReadCount_sound h _ _ _) _ _ _ _ k) _ _ _ _
      · exact State.finishJob_sound (State.jobReadCount_sound h _ _ _) _ _ _ _

theorem execEthernetFrameReceive_sound (port : PortId) (f : Frame) {u₀ s : State} (h₀ : Sound u₀ s) : Goes u₀ (execEthernetFrameReceive port f s) := by
  unfold execEthernetFrameReceive
  refine ⟨_, rfl, ?_⟩
  with_reducible repeat' (first | assumption | apply Sound.refl | apply Sound.ite | apply State.frameIn_sound | split | dsimp only)

theorem execMediaPacketReceive_sound (flow : FlowId) (pathB : Bool) (p : MediaPacket) {u₀ s : State} (h₀ : Sound u₀ s) : Goes u₀ (execMediaPacketReceive flow pathB p s) := by
  unfold execMediaPacketReceive
  refine ⟨_, rfl, ?_⟩
  with_reducible repeat' (first | assumption | apply Sound.refl | apply State.rxPacket_sound)

theorem execLossDeadline_sound (flow : FlowId) {u₀ s : State} (h₀ : Sound u₀ s) : Goes u₀ (execLossDeadline flow s) := by
  unfold execLossDeadline
  refine ⟨_, rfl, ?_⟩
  with_reducible repeat' (first | assumption | apply Sound.refl | apply Sound.ite | apply State.rxLost_sound | split | dsimp only)

theorem execPictureSilenceTimeout_sound (flow : FlowId) {u₀ s : State} (h₀ : Sound u₀ s) : Goes u₀ (execPictureSilenceTimeout flow s) := by
  unfold execPictureSilenceTimeout
  refine ⟨_, rfl, ?_⟩
  with_reducible repeat' (first | assumption | apply Sound.refl | intro _ | apply Sound.ite | apply State.rxClose_sound | apply Sound.each | split | dsimp only)

theorem execHtxCmd_sound (who : Who) (port : PortId) (v : W32) {u₀ s : State} (h₀ : Sound u₀ s) : Goes u₀ (execHtxCmd who port v s) := by
  unfold execHtxCmd
  refine ⟨_, rfl, ?_⟩
  with_reducible repeat' (first | assumption | apply Sound.refl | intro _ | apply State.access_sound | apply State.htxWrite_sound | dsimp only)

theorem execHostFrameSent_sound (port : PortId) {u₀ s : State} (h₀ : Sound u₀ s) : Goes u₀ (execHostFrameSent port s) := by
  unfold execHostFrameSent
  refine ⟨_, rfl, ?_⟩
  with_reducible repeat' (first | assumption | apply Sound.refl | apply Sound.ite | apply State.frameSent_sound | split | dsimp only)

theorem execFlowEnable_sound (who : Who) (tx : Bool) (flow : FlowId) {u₀ s : State} (h₀ : Sound u₀ s) : Goes u₀ (execFlowEnable who tx flow s) := by
  unfold execFlowEnable
  refine ⟨_, rfl, ?_⟩
  with_reducible repeat' (first | assumption | apply Sound.refl | intro _ | apply State.access_sound | apply State.flowEnable_sound | dsimp only)

theorem execFlowDrain_sound (who : Who) (tx : Bool) (flow : FlowId) {u₀ s : State} (h₀ : Sound u₀ s) : Goes u₀ (execFlowDrain who tx flow s) := by
  unfold execFlowDrain
  refine ⟨_, rfl, ?_⟩
  with_reducible repeat' (first | assumption | apply Sound.refl | intro _ | apply State.access_sound | apply State.flowDrain_sound | dsimp only)

theorem execFlowAbort_sound (who : Who) (tx : Bool) (flow : FlowId) {u₀ s : State} (h₀ : Sound u₀ s) : Goes u₀ (execFlowAbort who tx flow s) := by
  unfold execFlowAbort
  refine ⟨_, rfl, ?_⟩
  with_reducible repeat' (first | assumption | apply Sound.refl | intro _ | apply State.access_sound | apply State.flowAbort_sound | dsimp only)

theorem execTxHandover_sound (flow : FlowId) (a : Nat) (h : W32) {u₀ s : State} (h₀ : Sound u₀ s) : Goes u₀ (execTxHandover flow a h s) := by
  unfold execTxHandover
  refine ⟨_, rfl, ?_⟩
  with_reducible repeat' (first | assumption | apply Sound.refl | apply Sound.ite | apply State.txHand_sound | split | dsimp only)

theorem execTxPacketDue_sound (flow : FlowId) {u₀ s : State} (h₀ : Sound u₀ s) : Goes u₀ (execTxPacketDue flow s) := by
  unfold execTxPacketDue
  refine ⟨_, rfl, ?_⟩
  with_reducible repeat' (first | assumption | apply Sound.refl | (intro x; refine Sound.via (t := x) ?_ (fun hx => ?_); on_goal 2 => clear_value x) | (intro x; refine Sound.via (t := x.1) ?_ (fun hx => ?_); on_goal 2 => clear_value x) | (intro x; clear_value x) | intro _ | apply Sound.ite | apply State.event_sound | apply State.txSliceDue_sound | apply State.txVideoDue_sound | lift_lets | split | dsimp only)

theorem execMtcLoad_sound (who : Who) {u₀ s : State} (h₀ : Sound u₀ s) : Goes u₀ (execMtcLoad who s) := by
  unfold execMtcLoad
  refine ⟨_, rfl, ?_⟩
  with_reducible repeat' (first | assumption | apply Sound.refl | apply State.access_sound | apply State.mtcLoad_sound)

theorem execMtcAdj_sound (who : Who) {u₀ s : State} (h₀ : Sound u₀ s) : Goes u₀ (execMtcAdj who s) := by
  unfold execMtcAdj
  refine ⟨_, rfl, ?_⟩
  with_reducible repeat' (first | assumption | apply Sound.refl | apply State.access_sound | apply State.mtcAdj_sound)

theorem execMtcSlew_sound (who : Who) {u₀ s : State} (h₀ : Sound u₀ s) : Goes u₀ (execMtcSlew who s) := by
  unfold execMtcSlew
  refine ⟨_, rfl, ?_⟩
  with_reducible repeat' (first | assumption | apply Sound.refl | apply State.access_sound | apply State.mtcSlew_sound)

theorem execSlewDone_sound {u₀ s : State} (h₀ : Sound u₀ s) : Goes u₀ (execSlewDone s) := by
  unfold execSlewDone
  refine ⟨_, rfl, ?_⟩
  with_reducible repeat' (first | assumption | apply Sound.refl | apply Sound.ite | apply State.slewEnd_sound | split | dsimp only)

theorem execMtcNsRead_sound (who : Who) {u₀ s : State} (h₀ : Sound u₀ s) : Goes u₀ (execMtcNsRead who s) := by
  unfold execMtcNsRead
  refine ⟨_, rfl, ?_⟩
  with_reducible repeat' (first | assumption | apply Sound.refl | apply State.accessRd_sound | apply State.mtcRead_sound)

theorem execHostLinkDown_sound {u₀ s : State} (h₀ : Sound u₀ s) : Goes u₀ (execHostLinkDown s) := by
  unfold execHostLinkDown
  refine ⟨_, rfl, ?_⟩
  with_reducible repeat' (first | assumption | apply Sound.refl | apply Sound.ite | apply State.hostLost_sound | split | dsimp only)

theorem execHostLinkRestored_sound {u₀ s : State} (h₀ : Sound u₀ s) : Goes u₀ (execHostLinkRestored s) := by
  unfold execHostLinkRestored
  refine ⟨_, rfl, ?_⟩
  with_reducible repeat' (first | assumption | apply Sound.refl | apply State.hostTrain_sound)

theorem execFlr_sound (fn : FnId) {u₀ s : State} (h₀ : Sound u₀ s) : Goes u₀ (execFlr fn s) := by
  unfold execFlr
  refine ⟨_, rfl, ?_⟩
  with_reducible repeat' (first | assumption | apply Sound.refl | intro _ | apply Sound.ite | apply State.config_sound | apply State.flr_sound | split | dsimp only)

theorem execPowerStateChange_sound (fn : FnId) (d3 : Bool) (pmeEn : Bool) (clearPme : Bool) {u₀ s : State} (h₀ : Sound u₀ s) : Goes u₀ (execPowerStateChange fn d3 pmeEn clearPme s) := by
  unfold execPowerStateChange
  refine ⟨_, rfl, ?_⟩
  with_reducible repeat' (first | assumption | apply Sound.refl | intro _ | apply Sound.ite | apply State.config_sound | apply State.powerState_sound | split | dsimp only)

theorem execBusMasterEnableChange_sound (fn : FnId) (on : Bool) {u₀ s : State} (h₀ : Sound u₀ s) : Goes u₀ (execBusMasterEnableChange fn on s) := by
  unfold execBusMasterEnableChange
  refine ⟨_, rfl, ?_⟩
  with_reducible repeat' (first | assumption | apply Sound.refl | intro _ | apply Sound.ite | apply State.config_sound | apply State.icEval_sound | apply State.setFn_sound | split | dsimp only)

theorem execVfDisable_sound (vfEnable : Bool) (ari : Bool) (numVFs : FnId) {u₀ s : State} (h₀ : Sound u₀ s) : Goes u₀ (execVfDisable vfEnable ari numVFs s) := by
  unfold execVfDisable
  refine ⟨_, rfl, ?_⟩
  with_reducible repeat' (first | assumption | apply Sound.refl | intro _ | apply Sound.ite | apply State.config_sound | apply State.vfSet_sound | split | dsimp only)

theorem execBar2Resize_sound (log2 : Nat) {u₀ s : State} (h₀ : Sound u₀ s) : Goes u₀ (execBar2Resize log2 s) := by
  unfold execBar2Resize
  refine ⟨_, rfl, ?_⟩
  with_reducible repeat' (first | assumption | apply Sound.refl | intro _ | apply Sound.ite | apply State.config_sound | apply State.setPair_sound | split | dsimp only | apply Sound.record)

theorem execPtmRequest_sound (who : Who) {u₀ s : State} (h₀ : Sound u₀ s) : Goes u₀ (execPtmRequest who s) := by
  unfold execPtmRequest
  refine ⟨_, rfl, ?_⟩
  with_reducible repeat' (first | assumption | apply Sound.refl | apply State.access_sound | apply State.ptmStart_sound)

theorem execPtmDone_sound (answer : Option PtmAnswer) {u₀ s : State} (h₀ : Sound u₀ s) : Goes u₀ (execPtmDone answer s) := by
  unfold execPtmDone
  refine ⟨_, rfl, ?_⟩
  with_reducible repeat' (first | assumption | apply Sound.refl | apply Sound.ite | apply State.ptmFail_sound | apply State.ptmLatch_sound | split | dsimp only)

theorem execHbmRead_sound (a : Nat) (addr : Nat) (len : Nat) {u₀ s : State} (h₀ : Sound u₀ s) : Goes u₀ (execHbmRead a addr len s) := by
  unfold execHbmRead
  refine ⟨_, rfl, ?_⟩
  with_reducible repeat' (first | assumption | apply Sound.refl | (intro x; refine Sound.via (t := x) ?_ (fun hx => ?_); on_goal 2 => clear_value x) | (intro x; refine Sound.via (t := x.1) ?_ (fun hx => ?_); on_goal 2 => clear_value x) | (intro x; clear_value x) | intro _ | apply Sound.ite | apply State.emit_sound | apply State.hbmRequest_sound | apply State.nocRead_sound | apply State.quiet_sound | lift_lets | split | dsimp only)

theorem execHbmWrite_sound (a : Nat) (addr : Nat) (bytes : List Byte) (poison : Bool) {u₀ s : State} (h₀ : Sound u₀ s) : Goes u₀ (execHbmWrite a addr bytes poison s) := by
  unfold execHbmWrite
  refine ⟨_, rfl, ?_⟩
  with_reducible repeat' (first | assumption | apply Sound.refl | (intro x; refine Sound.via (t := x) ?_ (fun hx => ?_); on_goal 2 => clear_value x) | (intro x; refine Sound.via (t := x.1) ?_ (fun hx => ?_); on_goal 2 => clear_value x) | (intro x; clear_value x) | intro _ | apply Sound.ite | apply State.emit_sound | apply State.hbmRequest_sound | apply State.nocWrite_sound | apply State.quiet_sound | lift_lets | split | dsimp only)

theorem execHbmRequestIssue_sound (pcx : Fin 128) {u₀ s : State} (h₀ : Sound u₀ s) : Goes u₀ (execHbmRequestIssue pcx s) := by
  unfold execHbmRequestIssue
  refine ⟨_, rfl, ?_⟩
  with_reducible repeat' (first | assumption | apply Sound.refl | (intro x; refine Sound.via (t := x) ?_ (fun hx => ?_); on_goal 2 => clear_value x) | (intro x; clear_value x) | intro _ | apply Sound.ite | apply State.setPch_sound | lift_lets | split | dsimp only)

theorem execRowIdleClose_sound (pcx : Fin 128) (bank : Nat) {u₀ s : State} (h₀ : Sound u₀ s) : Goes u₀ (execRowIdleClose pcx bank s) := by
  unfold execRowIdleClose
  refine ⟨_, rfl, ?_⟩
  with_reducible repeat' (first | assumption | apply Sound.refl | (intro x; refine Sound.via (t := x) ?_ (fun hx => ?_); on_goal 2 => clear_value x) | (intro x; clear_value x) | intro _ | apply Sound.ite | apply State.setPch_sound | lift_lets | split | dsimp only)

theorem execHbmFullTraining_sound (who : Who) (stack : StackId) {u₀ s : State} (h₀ : Sound u₀ s) : Goes u₀ (execHbmFullTraining who stack s) := by
  unfold execHbmFullTraining
  refine ⟨_, rfl, ?_⟩
  with_reducible repeat' (first | assumption | apply Sound.refl | (intro x; refine Sound.via (t := x) ?_ (fun hx => ?_); on_goal 2 => clear_value x) | (intro x; clear_value x) | intro _ | apply Sound.ite | apply State.access_sound | apply State.fullStart_sound | lift_lets | split | dsimp only)

theorem execHbmTrainingDone_sound (stack : StackId) (temp : BitVec 8) (sweeps : List LaneSweep) (us : W32) {u₀ s : State} (h₀ : Sound u₀ s) : Goes u₀ (execHbmTrainingDone stack temp sweeps us s) := by
  unfold execHbmTrainingDone
  refine ⟨_, rfl, ?_⟩
  with_reducible repeat' (first | assumption | apply Sound.refl | (intro x; refine Sound.via (t := x) ?_ (fun hx => ?_); on_goal 2 => clear_value x) | (intro x; clear_value x) | intro _ | apply Sound.ite | apply State.trainEnd_sound | lift_lets | split | dsimp only)

theorem execHbmTrackingRetrain_sound (who : Who) (stack : StackId) (sweeps : List LaneSweep) (us : W32) {u₀ s : State} (h₀ : Sound u₀ s) : Goes u₀ (execHbmTrackingRetrain who stack sweeps us s) := by
  unfold execHbmTrackingRetrain
  refine ⟨_, rfl, ?_⟩
  with_reducible repeat' (first | assumption | apply Sound.refl | (intro x; refine Sound.via (t := x) ?_ (fun hx => ?_); on_goal 2 => clear_value x) | (intro x; clear_value x) | intro _ | apply Sound.ite | apply State.access_sound | apply State.trackRun_sound | lift_lets | split | dsimp only)

theorem execHbmTempPoll_sound (stack : StackId) (temp : BitVec 8) {u₀ s : State} (h₀ : Sound u₀ s) : Goes u₀ (execHbmTempPoll stack temp s) := by
  unfold execHbmTempPoll
  refine ⟨_, rfl, ?_⟩
  with_reducible repeat' (first | assumption | apply Sound.refl | (intro x; refine Sound.via (t := x) ?_ (fun hx => ?_); on_goal 2 => clear_value x) | (intro x; clear_value x) | intro _ | apply Sound.ite | apply State.event_sound | apply State.setB_sound | apply State.setReg_sound | apply State.setStack_sound | apply State.whenB_sound | lift_lets | split | dsimp only)

theorem execHbmRefresh_sound (stack : StackId) {u₀ s : State} (h₀ : Sound u₀ s) : Goes u₀ (execHbmRefresh stack s) := by
  unfold execHbmRefresh
  refine ⟨_, rfl, ?_⟩
  with_reducible repeat' (first | assumption | apply Sound.refl | (intro x; refine Sound.via (t := x) ?_ (fun hx => ?_); on_goal 2 => clear_value x) | (intro x; clear_value x) | intro _ | apply Sound.ite | apply State.emit_sound | lift_lets | split | dsimp only)

theorem execScrubRead_sound (stack : StackId) (errs : Nat) {u₀ s : State} (h₀ : Sound u₀ s) : Goes u₀ (execScrubRead stack errs s) := by
  unfold execScrubRead
  refine ⟨_, rfl, ?_⟩
  with_reducible repeat' (first | assumption | apply Sound.refl | (intro x; refine Sound.via (t := x) ?_ (fun hx => ?_); on_goal 2 => clear_value x) | (intro x; clear_value x) | intro _ | apply Sound.ite | apply State.corrected_sound | apply State.event_sound | apply State.incF_sound | apply State.injectFire_sound | apply State.setF_sound | apply State.setStack_sound | apply State.uncorrectable_sound | apply State.whenB_sound | lift_lets | split | dsimp only)

theorem execHbmMapWrite_sound (who : Who) (v : W32) {u₀ s : State} (h₀ : Sound u₀ s) : Goes u₀ (execHbmMapWrite who v s) :=
  ⟨_, rfl, State.access_sound h₀ _ _ _ fun h => State.mapWrite_sound h _⟩

theorem execPprSoft_sound (who : Who) (stack : StackId) (key : Byte) {u₀ s : State} (h₀ : Sound u₀ s) : Goes u₀ (execPprSoft who stack key s) := by
  unfold execPprSoft
  refine ⟨_, rfl, ?_⟩
  with_reducible repeat' (first | assumption | apply Sound.refl | intro _ | apply State.access_sound | apply State.pprWrite_sound | dsimp only)

theorem execPprHard_sound (who : Who) (stack : StackId) (key : Byte) {u₀ s : State} (h₀ : Sound u₀ s) : Goes u₀ (execPprHard who stack key s) := by
  unfold execPprHard
  refine ⟨_, rfl, ?_⟩
  with_reducible repeat' (first | assumption | apply Sound.refl | intro _ | apply State.access_sound | apply State.pprWrite_sound | dsimp only)

theorem execBlockEnable_sound (who : Who) (page : PageId) {u₀ s : State} (h₀ : Sound u₀ s) : Goes u₀ (execBlockEnable who page s) := by
  unfold execBlockEnable
  refine ⟨_, rfl, ?_⟩
  with_reducible repeat' (first | assumption | apply Sound.refl | intro _ | apply State.accessHdr_sound | apply State.ctlWrite_sound | dsimp only)

theorem execDrain_sound (who : Who) (page : PageId) {u₀ s : State} (h₀ : Sound u₀ s) : Goes u₀ (execDrain who page s) := by
  unfold execDrain
  refine ⟨_, rfl, ?_⟩
  with_reducible repeat' (first | assumption | apply Sound.refl | intro _ | apply State.accessHdr_sound | apply State.ctlWrite_sound | dsimp only)

theorem execAbort_sound (who : Who) (page : PageId) {u₀ s : State} (h₀ : Sound u₀ s) : Goes u₀ (execAbort who page s) := by
  unfold execAbort
  refine ⟨_, rfl, ?_⟩
  with_reducible repeat' (first | assumption | apply Sound.refl | intro _ | apply State.accessHdr_sound | apply State.ctlWrite_sound | dsimp only)

theorem execSrst_sound (who : Who) (page : PageId) {u₀ s : State} (h₀ : Sound u₀ s) : Goes u₀ (execSrst who page s) := by
  unfold execSrst
  refine ⟨_, rfl, ?_⟩
  with_reducible repeat' (first | assumption | apply Sound.refl | intro _ | apply State.accessHdr_sound | apply State.ctlWrite_sound | dsimp only)

theorem execBlockDrainDone_sound (page : PageId) {u₀ s : State} (h₀ : Sound u₀ s) : Goes u₀ (execBlockDrainDone page s) := by
  unfold execBlockDrainDone
  refine ⟨_, rfl, ?_⟩
  with_reducible repeat' (first | assumption | apply Sound.refl | apply Sound.ite | apply State.drainEnd_sound | split | dsimp only)

theorem execBlockResetReplyTimeout_sound (page : PageId) {u₀ s : State} (h₀ : Sound u₀ s) : Goes u₀ (execBlockResetReplyTimeout page s) := by
  unfold execBlockResetReplyTimeout
  refine ⟨_, rfl, ?_⟩
  with_reducible repeat' (first | assumption | apply Sound.refl | apply Sound.ite | apply State.resetFinish_sound | split | dsimp only)

theorem execFaultRaise_sound (src : SourceId) (agent : Byte) (code : Byte) (detail : W32) {u₀ s : State} (h₀ : Sound u₀ s) : Goes u₀ (execFaultRaise src agent code detail s) := by
  unfold execFaultRaise
  refine ⟨_, rfl, ?_⟩
  with_reducible repeat' (first | assumption | apply Sound.refl | apply Sound.ite | apply State.faultFound_sound | split | dsimp only)

theorem execFaultNPulseEnd_sound {u₀ s : State} (h₀ : Sound u₀ s) : Goes u₀ (execFaultNPulseEnd s) := by
  unfold execFaultNPulseEnd
  refine ⟨_, rfl, ?_⟩
  with_reducible repeat' (first | assumption | apply Sound.refl | apply Sound.record)

theorem execFltUnlock_sound (who : Who) (v : W32) {u₀ s : State} (h₀ : Sound u₀ s) : Goes u₀ (execFltUnlock who v s) := by
  unfold execFltUnlock
  refine ⟨_, rfl, ?_⟩
  with_reducible repeat' (first | assumption | apply Sound.refl | intro _ | apply State.access_sound | apply State.unlockWrite_sound | dsimp only)

theorem execFltHistAckWrite_sound (who : Who) (v : W32) {u₀ s : State} (h₀ : Sound u₀ s) : Goes u₀ (execFltHistAckWrite who v s) := by
  unfold execFltHistAckWrite
  refine ⟨_, rfl, ?_⟩
  with_reducible repeat' (first | assumption | apply Sound.refl | intro _ | apply State.access_sound | apply State.histAck_sound | dsimp only)

theorem execEvent_sound (who : Who) {u₀ s : State} (h₀ : Sound u₀ s) : Goes u₀ (execEvent who s) := by
  unfold execEvent
  refine ⟨_, rfl, ?_⟩
  with_reducible repeat' (first | assumption | apply Sound.refl | intro _ | apply State.access_sound | apply State.injectMode_sound | dsimp only)

theorem execFlip1_sound (who : Who) {u₀ s : State} (h₀ : Sound u₀ s) : Goes u₀ (execFlip1 who s) := by
  unfold execFlip1
  refine ⟨_, rfl, ?_⟩
  with_reducible repeat' (first | assumption | apply Sound.refl | intro _ | apply State.access_sound | apply State.injectMode_sound | dsimp only)

theorem execFlip2_sound (who : Who) {u₀ s : State} (h₀ : Sound u₀ s) : Goes u₀ (execFlip2 who s) := by
  unfold execFlip2
  refine ⟨_, rfl, ?_⟩
  with_reducible repeat' (first | assumption | apply Sound.refl | intro _ | apply State.access_sound | apply State.injectMode_sound | dsimp only)

theorem execTestEnFall_sound {u₀ s : State} (h₀ : Sound u₀ s) : Goes u₀ (execTestEnFall s) := by
  unfold execTestEnFall
  refine ⟨_, rfl, ?_⟩
  with_reducible repeat' (first | assumption | apply Sound.refl | apply State.injectLock_sound | apply Sound.record)

theorem execDevRst_sound (who : Who) (v : W32) {u₀ s : State} (h₀ : Sound u₀ s) : Goes u₀ (execDevRst who v s) := by
  unfold execDevRst
  refine ⟨_, rfl, ?_⟩
  with_reducible repeat' (first | assumption | apply Sound.refl | intro _ | apply Sound.ite | apply State.access_sound | apply State.askReset_sound | split | dsimp only)

theorem execWarmReset_sound {u₀ s : State} (h₀ : Sound u₀ s) : Goes u₀ (execWarmReset s) := by
  unfold execWarmReset
  refine ⟨_, rfl, ?_⟩
  with_reducible repeat' (first | assumption | apply Sound.refl | apply Sound.ite | apply State.warmReset_sound | split | dsimp only)

theorem execPerstNAssert_sound {u₀ s : State} (h₀ : Sound u₀ s) : Goes u₀ (execPerstNAssert s) := by
  unfold execPerstNAssert
  refine ⟨_, rfl, ?_⟩
  with_reducible repeat' (first | assumption | apply Sound.refl | apply Sound.ite | apply State.scopeReset_sound | split | dsimp only | apply Sound.record)

theorem execPcieHotReset_sound {u₀ s : State} (h₀ : Sound u₀ s) : Goes u₀ (execPcieHotReset s) := by
  unfold execPcieHotReset
  refine ⟨_, rfl, ?_⟩
  with_reducible repeat' (first | assumption | apply Sound.refl | apply Sound.ite | apply State.linkUp_sound | apply State.scopeReset_sound | split | dsimp only)

theorem execPerstNDeassert_sound {u₀ s : State} (h₀ : Sound u₀ s) : Goes u₀ (execPerstNDeassert s) := by
  unfold execPerstNDeassert
  refine ⟨_, rfl, ?_⟩
  with_reducible repeat' (first | assumption | apply Sound.refl | (intro x; refine Sound.via (t := x) ?_ (fun hx => ?_); on_goal 2 => clear_value x) | (intro x; clear_value x) | intro _ | apply Sound.ite | apply State.configWait_sound | apply State.hostTrain_sound | apply State.lockA_sound | lift_lets | split | dsimp only | apply Sound.record)

theorem execClockFailure_sound (kind : ClockFail) (pllB both : Bool) {u₀ s : State} (h₀ : Sound u₀ s) : Goes u₀ (execClockFailure kind pllB both s) := by
  unfold execClockFailure
  refine ⟨_, rfl, ?_⟩
  with_reducible repeat' (first | assumption | apply Sound.refl | apply Sound.ite | apply State.bothFail_sound | apply State.pllFail_sound | apply State.refDisagree_sound | split | dsimp only)

theorem execPllQualified_sound (pllB : Bool) (holdUs : Nat) {u₀ s : State} (h₀ : Sound u₀ s) : Goes u₀ (execPllQualified pllB holdUs s) := by
  unfold execPllQualified
  refine ⟨_, rfl, ?_⟩
  with_reducible repeat' (first | assumption | apply Sound.refl | apply State.qualify_sound)

theorem execHoldTimeout_sound {u₀ s : State} (h₀ : Sound u₀ s) : Goes u₀ (execHoldTimeout s) := by
  unfold execHoldTimeout
  refine ⟨_, rfl, ?_⟩
  with_reducible repeat' (first | assumption | apply Sound.refl | apply Sound.ite | split | dsimp only | apply Sound.record)

theorem execClockSelect_sound (who : Who) (b : Bool) {u₀ s : State} (h₀ : Sound u₀ s) : Goes u₀ (execClockSelect who b s) := by
  unfold execClockSelect
  refine ⟨_, rfl, ?_⟩
  with_reducible repeat' (first | assumption | apply Sound.refl | intro _ | apply State.access_sound | apply State.selWrite_sound | dsimp only)

theorem execPllbConfigWrite_sound (who : Who) (v : W32) {u₀ s : State} (h₀ : Sound u₀ s) : Goes u₀ (execPllbConfigWrite who v s) := by
  unfold execPllbConfigWrite
  refine ⟨_, rfl, ?_⟩
  with_reducible repeat' (first | assumption | apply Sound.refl | intro _ | apply State.access_sound | apply State.pllbWrite_sound | dsimp only)

theorem execGateWrite_sound (who : Who) (k : Fin 4) (v : W32) {u₀ s : State} (h₀ : Sound u₀ s) : Goes u₀ (execGateWrite who k v s) := by
  unfold execGateWrite
  refine ⟨_, rfl, ?_⟩
  with_reducible repeat' (first | assumption | apply Sound.refl | intro _ | apply State.access_sound | apply State.gateWrite_sound | dsimp only)

theorem execFreqMeasureStart_sound (who : Who) (v : W32) {u₀ s : State} (h₀ : Sound u₀ s) : Goes u₀ (execFreqMeasureStart who v s) := by
  unfold execFreqMeasureStart
  refine ⟨_, rfl, ?_⟩
  with_reducible repeat' (first | assumption | apply Sound.refl | intro _ | apply State.access_sound | apply State.meterWrite_sound | dsimp only)

theorem execFreqMeasureDone_sound (count : W32) {u₀ s : State} (h₀ : Sound u₀ s) : Goes u₀ (execFreqMeasureDone count s) := by
  unfold execFreqMeasureDone
  refine ⟨_, rfl, ?_⟩
  with_reducible repeat' (first | assumption | apply Sound.refl | apply Sound.ite | apply State.meterEnd_sound | split | dsimp only)

theorem execFreqMeasureTimeout_sound (count : W32) {u₀ s : State} (h₀ : Sound u₀ s) : Goes u₀ (execFreqMeasureTimeout count s) := by
  unfold execFreqMeasureTimeout
  refine ⟨_, rfl, ?_⟩
  with_reducible repeat' (first | assumption | apply Sound.refl | apply Sound.ite | apply State.meterEnd_sound | split | dsimp only)

theorem execPowerUp_sound {u₀ s : State} (h₀ : Sound u₀ s) : Goes u₀ (execPowerUp s) := by
  unfold execPowerUp
  refine ⟨_, rfl, ?_⟩
  with_reducible repeat' (first | assumption | apply Sound.refl | apply State.powerGood_sound | apply Sound.record)

theorem execUndervoltage_sound {u₀ s : State} (h₀ : Sound u₀ s) : Goes u₀ (execUndervoltage s) := by
  unfold execUndervoltage
  refine ⟨_, rfl, ?_⟩
  with_reducible repeat' (first | assumption | apply Sound.refl | (intro x; refine Sound.via (t := x) ?_ (fun hx => ?_); on_goal 2 => clear_value x) | (intro x; refine Sound.via (t := x.1) ?_ (fun hx => ?_); on_goal 2 => clear_value x) | (intro x; clear_value x) | intro _ | apply State.railsOff_sound | lift_lets | dsimp only | apply Sound.record)

theorem execFeedFail_sound (feedB : Bool) {u₀ s : State} (h₀ : Sound u₀ s) : Goes u₀ (execFeedFail feedB s) := by
  unfold execFeedFail
  refine ⟨_, rfl, ?_⟩
  with_reducible repeat' (first | assumption | apply Sound.refl | apply Sound.ite | split | dsimp only | apply Sound.record)

theorem execFeedAlarm_sound (feedB : Bool) (low : Bool) {u₀ s : State} (h₀ : Sound u₀ s) : Goes u₀ (execFeedAlarm feedB low s) := by
  unfold execFeedAlarm
  refine ⟨_, rfl, ?_⟩
  with_reducible repeat' (first | assumption | apply Sound.refl | apply State.feedCross_sound)

theorem execCurrentLimitTrip_sound {u₀ s : State} (h₀ : Sound u₀ s) : Goes u₀ (execCurrentLimitTrip s) := by
  unfold execCurrentLimitTrip
  refine ⟨_, rfl, ?_⟩
  with_reducible repeat' (first | assumption | apply Sound.refl | (intro x; refine Sound.via (t := x) ?_ (fun hx => ?_); on_goal 2 => clear_value x) | (intro x; refine Sound.via (t := x.1) ?_ (fun hx => ?_); on_goal 2 => clear_value x) | (intro x; clear_value x) | intro _ | apply State.railsOff_sound | lift_lets | dsimp only | apply Sound.record)

theorem execHotSwapRetry_sound {u₀ s : State} (h₀ : Sound u₀ s) : Goes u₀ (execHotSwapRetry s) := by
  unfold execHotSwapRetry
  refine ⟨_, rfl, ?_⟩
  with_reducible repeat' (first | assumption | apply Sound.refl | apply Sound.record)

theorem execPwrEnLow_sound {u₀ s : State} (h₀ : Sound u₀ s) : Goes u₀ (execPwrEnLow s) := by
  unfold execPwrEnLow
  refine ⟨_, rfl, ?_⟩
  with_reducible repeat' (first | assumption | apply Sound.refl | (intro x; refine Sound.via (t := x) ?_ (fun hx => ?_); on_goal 2 => clear_value x) | (intro x; refine Sound.via (t := x.1) ?_ (fun hx => ?_); on_goal 2 => clear_value x) | (intro x; clear_value x) | intro _ | apply State.railsOff_sound | lift_lets | dsimp only | apply Sound.record)

theorem execPwrEnHigh_sound {u₀ s : State} (h₀ : Sound u₀ s) : Goes u₀ (execPwrEnHigh s) := by
  unfold execPwrEnHigh
  refine ⟨_, rfl, ?_⟩
  with_reducible repeat' (first | assumption | apply Sound.refl | apply State.powerGood_sound | apply Sound.record)

theorem execSensorPoll_sound (junctions : List Int) (hbmTemps : List Int) {u₀ s : State} (h₀ : Sound u₀ s) : Goes u₀ (execSensorPoll junctions hbmTemps s) := by
  unfold execSensorPoll
  refine ⟨_, rfl, ?_⟩
  with_reducible repeat' (first | assumption | apply Sound.refl | apply Sound.ite | apply State.sensorsRead_sound | split | dsimp only)

theorem execThermalStepDown_sound {u₀ s : State} (h₀ : Sound u₀ s) : Goes u₀ (execThermalStepDown s) := by
  unfold execThermalStepDown
  refine ⟨_, rfl, ?_⟩
  with_reducible repeat' (first | assumption | apply Sound.refl | apply Sound.ite | apply State.stepDown_sound | split | dsimp only)

theorem execThermalStepUp_sound {u₀ s : State} (h₀ : Sound u₀ s) : Goes u₀ (execThermalStepUp s) := by
  unfold execThermalStepUp
  refine ⟨_, rfl, ?_⟩
  with_reducible repeat' (first | assumption | apply Sound.refl | apply Sound.ite | apply State.stepUp_sound | split | dsimp only)

theorem execThermalTrip_sound {u₀ s : State} (h₀ : Sound u₀ s) : Goes u₀ (execThermalTrip s) := by
  unfold execThermalTrip
  refine ⟨_, rfl, ?_⟩
  with_reducible repeat' (first | assumption | apply Sound.refl | apply Sound.ite | apply State.tripNow_sound | split | dsimp only)

theorem execThermalShutdown_sound {u₀ s : State} (h₀ : Sound u₀ s) : Goes u₀ (execThermalShutdown s) := by
  unfold execThermalShutdown
  refine ⟨_, rfl, ?_⟩
  with_reducible repeat' (first | assumption | apply Sound.refl | (intro x; refine Sound.via (t := x) ?_ (fun hx => ?_); on_goal 2 => clear_value x) | (intro x; clear_value x) | intro _ | apply Sound.ite | apply State.railsOff_sound | lift_lets | split | dsimp only | apply Sound.record)

theorem execSmbReadWord_sound (k : Byte) (pec : Bool) {u₀ s : State} (h₀ : Sound u₀ s) : Goes u₀ (execSmbReadWord k pec s) := by
  unfold execSmbReadWord
  refine ⟨_, rfl, ?_⟩
  with_reducible repeat' (first | assumption | apply Sound.refl | apply Sound.ite | apply State.emit_sound | apply State.latch_sound | apply State.smbRead_sound | split | dsimp only)

theorem execSmbWriteWord_sound (k : Byte) (v : BitVec 16) (pecOk : Bool) {u₀ s : State} (h₀ : Sound u₀ s) : Goes u₀ (execSmbWriteWord k v pecOk s) := by
  unfold execSmbWriteWord
  refine ⟨_, rfl, ?_⟩
  with_reducible repeat' (first | assumption | apply Sound.refl | apply Sound.ite | apply State.emit_sound | apply State.latch_sound | apply State.raise_sound | apply State.smbEvent_sound | apply State.smbWrite_sound | split | dsimp only)

theorem execSmbSendByte_sound (_b : Byte) {u₀ s : State} (h₀ : Sound u₀ s) : Goes u₀ (execSmbSendByte _b s) := by
  unfold execSmbSendByte
  refine ⟨_, rfl, ?_⟩
  with_reducible repeat' (first | assumption | apply Sound.refl | apply Sound.ite | apply State.emit_sound | split | dsimp only)

theorem execSmbMeasurementUpdate_sound (vinA : BitVec 16) (vinB : BitVec 16) (iinA : BitVec 16) (iinB : BitVec 16) (board : BitVec 16) (pin1ms : Nat) (pin100ms : Nat) {u₀ s : State} (h₀ : Sound u₀ s) : Goes u₀ (execSmbMeasurementUpdate vinA vinB iinA iinB board pin1ms pin100ms s) := by
  unfold execSmbMeasurementUpdate
  refine ⟨_, rfl, ?_⟩
  with_reducible repeat' (first | assumption | apply Sound.refl | apply Sound.ite | apply State.measure_sound | split | dsimp only)

theorem execTptModeWrite_sound (who : Who) (port : PortId) (v : W32) {u₀ s : State} (h₀ : Sound u₀ s) : Goes u₀ (execTptModeWrite who port v s) := by
  unfold execTptModeWrite
  refine ⟨_, rfl, ?_⟩
  with_reducible repeat' (first | assumption | apply Sound.refl | intro _ | apply State.access_sound | apply State.modeWrite_sound | apply State.refUpdate_sound | dsimp only)

theorem execLinkTrainingStart_sound (who : Who) (port : PortId) {u₀ s : State} (h₀ : Sound u₀ s) : Goes u₀ (execLinkTrainingStart who port s) := by
  unfold execLinkTrainingStart
  refine ⟨_, rfl, ?_⟩
  with_reducible repeat' (first | assumption | apply Sound.refl | intro _ | apply State.accessHdr_sound | apply State.ctlWrite_sound | dsimp only)

theorem execTolacLinkUp_sound (port : PortId) (credits : List Nat) (reversed : Bool) {u₀ s : State} (h₀ : Sound u₀ s) : Goes u₀ (execTolacLinkUp port credits reversed s) := by
  unfold execTolacLinkUp
  refine ⟨_, rfl, ?_⟩
  with_reducible repeat' (first | assumption | apply Sound.refl | (intro x; refine Sound.via (t := x) ?_ (fun hx => ?_); on_goal 2 => clear_value x) | (intro x; clear_value x) | intro _ | apply Sound.ite | apply State.linkUp_sound | apply State.refUpdate_sound | lift_lets | split | dsimp only)

theorem execLinkTrainingTimeout_sound (port : PortId) {u₀ s : State} (h₀ : Sound u₀ s) : Goes u₀ (execLinkTrainingTimeout port s) := by
  unfold execLinkTrainingTimeout
  refine ⟨_, rfl, ?_⟩
  with_reducible repeat' (first | assumption | apply Sound.refl | apply Sound.ite | apply State.trainLink_sound | split | dsimp only)

theorem execTolacLinkDown_sound (port : PortId) {u₀ s : State} (h₀ : Sound u₀ s) : Goes u₀ (execTolacLinkDown port s) := by
  unfold execTolacLinkDown
  refine ⟨_, rfl, ?_⟩
  with_reducible repeat' (first | assumption | apply Sound.refl | (intro x; refine Sound.via (t := x) ?_ (fun hx => ?_); on_goal 2 => clear_value x) | (intro x; clear_value x) | intro _ | apply Sound.ite | apply State.linkDown_sound | apply State.linkRetrain_sound | lift_lets | split | dsimp only)

theorem execFlitNak_sound (port : PortId) {u₀ s : State} (h₀ : Sound u₀ s) : Goes u₀ (execFlitNak port s) := by
  unfold execFlitNak
  refine ⟨_, rfl, ?_⟩
  with_reducible repeat' (first | assumption | apply Sound.refl | apply Sound.ite | apply State.linkNak_sound | split | dsimp only)

theorem execLinkAckTimeout_sound (port : PortId) {u₀ s : State} (h₀ : Sound u₀ s) : Goes u₀ (execLinkAckTimeout port s) := by
  unfold execLinkAckTimeout
  refine ⟨_, rfl, ?_⟩
  with_reducible repeat' (first | assumption | apply Sound.refl | apply Sound.ite | apply State.linkReset_sound | split | dsimp only)

theorem execFlitAck_sound (port : PortId) (n : Nat) {u₀ s : State} (h₀ : Sound u₀ s) : Goes u₀ (execFlitAck port n s) := by
  unfold execFlitAck
  refine ⟨_, rfl, ?_⟩
  with_reducible repeat' (first | assumption | apply Sound.refl | apply Sound.ite | apply State.linkAck_sound | split | dsimp only)

theorem execCreditReturn_sound (port : PortId) (vc : Fin 4) (n : Nat) {u₀ s : State} (h₀ : Sound u₀ s) : Goes u₀ (execCreditReturn port vc n s) := by
  unfold execCreditReturn
  refine ⟨_, rfl, ?_⟩
  with_reducible repeat' (first | assumption | apply Sound.refl | apply Sound.ite | apply State.creditsBack_sound | split | dsimp only)

theorem execEthernetLinkDown_sound (port : PortId) {u₀ s : State} (h₀ : Sound u₀ s) : Goes u₀ (execEthernetLinkDown port s) := by
  unfold execEthernetLinkDown
  refine ⟨_, rfl, ?_⟩
  with_reducible repeat' (first | assumption | apply Sound.refl | apply Sound.ite | apply State.linkDown_sound | split | dsimp only)

theorem execEthernetLinkUp_sound (port : PortId) {u₀ s : State} (h₀ : Sound u₀ s) : Goes u₀ (execEthernetLinkUp port s) := by
  unfold execEthernetLinkUp
  refine ⟨_, rfl, ?_⟩
  with_reducible repeat' (first | assumption | apply Sound.refl | (intro x; refine Sound.via (t := x) ?_ (fun hx => ?_); on_goal 2 => clear_value x) | (intro x; clear_value x) | intro _ | apply Sound.ite | apply State.linkUp_sound | apply State.refUpdate_sound | lift_lets | split | dsimp only)

theorem execFailback_sound (port : PortId) {u₀ s : State} (h₀ : Sound u₀ s) : Goes u₀ (execFailback port s) := by
  unfold execFailback
  refine ⟨_, rfl, ?_⟩
  with_reducible repeat' (first | assumption | apply Sound.refl | apply Sound.ite | apply State.failback_sound | split | dsimp only)

theorem execFabricPacketForward_sound (port : PortId) (h : FabHeader) (payload : List Byte) {u₀ s : State} (h₀ : Sound u₀ s) : Goes u₀ (execFabricPacketForward port h payload s) := by
  unfold execFabricPacketForward
  refine ⟨_, rfl, ?_⟩
  with_reducible repeat' (first | assumption | apply Sound.refl | apply Sound.ite | apply State.forward_sound | apply State.portRx_sound | split | dsimp only)

theorem execMediaRtp_sound (port : PortId) (h : FabHeader) (payload : List Byte) {u₀ s : State} (h₀ : Sound u₀ s) : Goes u₀ (execMediaRtp port h payload s) := by
  unfold execMediaRtp
  refine ⟨_, rfl, ?_⟩
  with_reducible repeat' (first | assumption | apply Sound.refl | (intro x; refine Sound.via (t := x) ?_ (fun hx => ?_); on_goal 2 => clear_value x) | (intro x; clear_value x) | intro _ | apply Sound.ite | apply State.portRx_sound | apply State.rxPacket_sound | lift_lets | split | dsimp only)

theorem execProbe_sound (port : PortId) {u₀ s : State} (h₀ : Sound u₀ s) : Goes u₀ (execProbe port s) := by
  unfold execProbe
  refine ⟨_, rfl, ?_⟩
  with_reducible repeat' (first | assumption | apply Sound.refl | (intro x; refine Sound.via (t := x) ?_ (fun hx => ?_); on_goal 2 => clear_value x) | (intro x; clear_value x) | intro _ | apply Sound.ite | apply State.portRx_sound | apply State.portSend_sound | lift_lets | split | dsimp only)

theorem execProbeAns_sound (port : PortId) (serial : W64) (node : Nat) (farPort : Nat) (mode : Nat) {u₀ s : State} (h₀ : Sound u₀ s) : Goes u₀ (execProbeAns port serial node farPort mode s) := by
  unfold execProbeAns
  refine ⟨_, rfl, ?_⟩
  with_reducible repeat' (first | assumption | apply Sound.refl | (intro x; refine Sound.via (t := x) ?_ (fun hx => ?_); on_goal 2 => clear_value x) | (intro x; clear_value x) | intro _ | apply Sound.ite | apply State.event_sound | apply State.portRx_sound | apply State.setPair_sound | apply State.setReg_sound | lift_lets | split | dsimp only)

theorem execProbeGo_sound (who : Who) (port : PortId) {u₀ s : State} (h₀ : Sound u₀ s) : Goes u₀ (execProbeGo who port s) := by
  unfold execProbeGo
  refine ⟨_, rfl, ?_⟩
  with_reducible repeat' (first | assumption | apply Sound.refl | intro _ | apply State.access_sound | apply State.probeWrite_sound | dsimp only)

theorem execProbeTimeout_sound (port : PortId) {u₀ s : State} (h₀ : Sound u₀ s) : Goes u₀ (execProbeTimeout port s) := by
  unfold execProbeTimeout
  refine ⟨_, rfl, ?_⟩
  with_reducible repeat' (first | assumption | apply Sound.refl | (intro x; refine Sound.via (t := x) ?_ (fun hx => ?_); on_goal 2 => clear_value x) | (intro x; clear_value x) | intro _ | apply Sound.ite | apply State.event_sound | apply State.setReg_sound | lift_lets | split | dsimp only)

theorem execE2eAck_sound (port : PortId) (h : FabHeader) {u₀ s : State} (h₀ : Sound u₀ s) : Goes u₀ (execE2eAck port h s) := by
  unfold execE2eAck
  refine ⟨_, rfl, ?_⟩
  with_reducible repeat' (first | assumption | apply Sound.refl | (intro x; refine Sound.via (t := x) ?_ (fun hx => ?_); on_goal 2 => clear_value x) | (intro x; clear_value x) | intro _ | apply Sound.ite | apply State.e2eFree_sound | apply State.portRx_sound | lift_lets | split | dsimp only)

theorem execE2eAckSend_sound (node : Nat) (vc : Nat) {u₀ s : State} (h₀ : Sound u₀ s) : Goes u₀ (execE2eAckSend node vc s) := by
  unfold execE2eAckSend
  refine ⟨_, rfl, ?_⟩
  with_reducible repeat' (first | assumption | apply Sound.refl | apply Sound.ite | apply State.ackSend_sound | split | dsimp only)

theorem execE2eRetransmit_sound (node : Nat) (vc : Nat) {u₀ s : State} (h₀ : Sound u₀ s) : Goes u₀ (execE2eRetransmit node vc s) := by
  unfold execE2eRetransmit
  refine ⟨_, rfl, ?_⟩
  with_reducible repeat' (first | assumption | apply Sound.refl | (intro x; refine Sound.via (t := x) ?_ (fun hx => ?_); on_goal 2 => clear_value x) | (intro x; clear_value x) | intro _ | apply Sound.ite | apply State.e2eResend_sound | apply State.peerLost_sound | lift_lets | split | dsimp only)

theorem execMemTimeout_sound (tag : W32) {u₀ s : State} (h₀ : Sound u₀ s) : Goes u₀ (execMemTimeout tag s) := by
  unfold execMemTimeout
  refine ⟨_, rfl, ?_⟩
  with_reducible repeat' (first | assumption | apply Sound.refl | intro _ | apply Sound.ite | apply State.peerLost_sound | split | dsimp only)

theorem execJoin_sound (group : Fin 8) (member : Fin 8) (hash : W64) {u₀ s : State} (h₀ : Sound u₀ s) : Goes u₀ (execJoin group member hash s) := by
  unfold execJoin
  refine ⟨_, rfl, ?_⟩
  with_reducible repeat' (first | assumption | apply Sound.refl | apply Sound.ite | apply State.espJoin_sound | split | dsimp only)

theorem execGo_sound (group : Fin 8) (sec : BitVec 48) (ns : W32) {u₀ s : State} (h₀ : Sound u₀ s) : Goes u₀ (execGo group sec ns s) := by
  unfold execGo
  refine ⟨_, rfl, ?_⟩
  with_reducible repeat' (first | assumption | apply Sound.refl | (intro x; refine Sound.via (t := x) ?_ (fun hx => ?_); on_goal 2 => clear_value x) | (intro x; refine Sound.via (t := x.1) ?_ (fun hx => ?_); on_goal 2 => clear_value x) | (intro x; clear_value x) | intro _ | apply Sound.ite | apply State.setB_sound | apply State.setEsp_sound | lift_lets | split | dsimp only)

theorem execAllowance_sound (group : Fin 8) (sec : BitVec 48) (ns : W32) (amounts : List Nat) {u₀ s : State} (h₀ : Sound u₀ s) : Goes u₀ (execAllowance group sec ns amounts s) := by
  unfold execAllowance
  refine ⟨_, rfl, ?_⟩
  with_reducible repeat' (first | assumption | apply Sound.refl | (intro x; refine Sound.via (t := x) ?_ (fun hx => ?_); on_goal 2 => clear_value x) | (intro x; refine Sound.via (t := x.1) ?_ (fun hx => ?_); on_goal 2 => clear_value x) | (intro x; clear_value x) | intro _ | apply Sound.ite | apply State.setEsp_sound | lift_lets | split | dsimp only)

theorem execSubst_sound (group : Fin 8) (member : Fin 8) (sec : BitVec 48) (ns : W32) {u₀ s : State} (h₀ : Sound u₀ s) : Goes u₀ (execSubst group member sec ns s) := by
  unfold execSubst
  refine ⟨_, rfl, ?_⟩
  with_reducible repeat' (first | assumption | apply Sound.refl | (intro x; refine Sound.via (t := x) ?_ (fun hx => ?_); on_goal 2 => clear_value x) | (intro x; refine Sound.via (t := x.1) ?_ (fun hx => ?_); on_goal 2 => clear_value x) | (intro x; clear_value x) | intro _ | apply Sound.ite | apply State.modSess_sound | apply State.substCopy_sound | lift_lets | split | dsimp only)

theorem execLeave_sound (group : Fin 8) (member : Fin 8) {u₀ s : State} (h₀ : Sound u₀ s) : Goes u₀ (execLeave group member s) := by
  unfold execLeave
  refine ⟨_, rfl, ?_⟩
  with_reducible repeat' (first | assumption | apply Sound.refl | (intro x; refine Sound.via (t := x) ?_ (fun hx => ?_); on_goal 2 => clear_value x) | (intro x; clear_value x) | intro _ | apply Sound.ite | apply State.setEsp_sound | lift_lets | split | dsimp only)

theorem execEspHalo_sound (group : Fin 8) (member : Fin 8) (strip : Bool) (_alt : Bool) (row : Nat) (sec : BitVec 48) (ns : W32) (bytes : List Byte) {u₀ s : State} (h₀ : Sound u₀ s) : Goes u₀ (execEspHalo group member strip _alt row sec ns bytes s) := by
  unfold execEspHalo
  refine ⟨_, rfl, ?_⟩
  with_reducible repeat' (first | assumption | apply Sound.refl | (intro x; refine Sound.via (t := x) ?_ (fun hx => ?_); on_goal 2 => clear_value x) | (intro x; refine Sound.via (t := x.1) ?_ (fun hx => ?_); on_goal 2 => clear_value x) | (intro x; clear_value x) | intro _ | apply Sound.ite | apply State.espRowIn_sound | lift_lets | split | dsimp only)

theorem execPartTimeout_sound (group : Fin 8) (member : Fin 8) {u₀ s : State} (h₀ : Sound u₀ s) : Goes u₀ (execPartTimeout group member s) := by
  unfold execPartTimeout
  refine ⟨_, rfl, ?_⟩
  with_reducible repeat' (first | assumption | apply Sound.refl | (intro x; refine Sound.via (t := x) ?_ (fun hx => ?_); on_goal 2 => clear_value x) | (intro x; clear_value x) | intro _ | apply Sound.ite | apply State.espSubstitute_sound | lift_lets | split | dsimp only)

theorem execRouteEntryWrite_sound (who : Who) (entry : Fin 4096) (v : W32) {u₀ s : State} (h₀ : Sound u₀ s) : Goes u₀ (execRouteEntryWrite who entry v s) := by
  unfold execRouteEntryWrite
  refine ⟨_, rfl, ?_⟩
  with_reducible repeat' (first | assumption | apply Sound.refl | intro _ | apply State.access_sound | apply State.routeWrite_sound | dsimp only)

theorem execRegisterWrite_sound (who : Who) (off : Nat) (vs : List W32) {u₀ s : State} (h₀ : Sound u₀ s) : Goes u₀ (execRegisterWrite who off vs s) := by
  unfold execRegisterWrite
  refine ⟨_, rfl, ?_⟩
  with_reducible repeat' (first | assumption | apply Sound.refl | apply State.busRegWrites_sound)

theorem execCounterReadClear_sound (who : Who) (span : RegSpan) {u₀ s : State} (h₀ : Sound u₀ s) : Goes u₀ (execCounterReadClear who span s) := by
  unfold execCounterReadClear
  refine ⟨_, rfl, ?_⟩
  with_reducible repeat' (first | assumption | apply Sound.refl | apply State.busRegReads_sound)

theorem execBar0PartialWrite_sound (fn : FnId) (off : Nat) (be : BitVec 4) (v : W32) {u₀ s : State} (h₀ : Sound u₀ s) : Goes u₀ (execBar0PartialWrite fn off be v s) := by
  unfold execBar0PartialWrite
  refine ⟨_, rfl, ?_⟩
  with_reducible repeat' (first | assumption | apply Sound.refl | apply State.partialWrite_sound)

theorem execPairLoRead_sound (who : Who) (off : Nat) {u₀ s : State} (h₀ : Sound u₀ s) : Goes u₀ (execPairLoRead who off s) := by
  unfold execPairLoRead
  refine ⟨_, rfl, ?_⟩
  with_reducible repeat' (first | assumption | apply Sound.refl | apply State.busRegRead_sound)

theorem execPairLoWrite_sound (who : Who) (off : Nat) (v : W32) {u₀ s : State} (h₀ : Sound u₀ s) : Goes u₀ (execPairLoWrite who off v s) := by
  unfold execPairLoWrite
  refine ⟨_, rfl, ?_⟩
  with_reducible repeat' (first | assumption | apply Sound.refl | apply State.busRegWrite_sound)

theorem execEvtSet_sound (who : Who) (page : PageId) (v : W32) {u₀ s : State} (h₀ : Sound u₀ s) : Goes u₀ (execEvtSet who page v s) := by
  unfold execEvtSet
  refine ⟨_, rfl, ?_⟩
  with_reducible repeat' (first | assumption | apply Sound.refl | intro _ | apply State.accessHdr_sound | apply State.hdrWrite_sound | dsimp only)

theorem execDchGo_sound (who : Who) (ch : ChanId) {u₀ s : State} (h₀ : Sound u₀ s) : Goes u₀ (execDchGo who ch s) := by
  unfold execDchGo
  refine ⟨_, rfl, ?_⟩
  with_reducible repeat' (first | assumption | apply Sound.refl | intro _ | apply State.access_sound | apply State.chanWrite_sound | dsimp only)

theorem execBar2Access_sound (fn : FnId) (off : Nat) (len : Nat) (wr : Option (List Byte)) {u₀ s : State} (h₀ : Sound u₀ s) : Goes u₀ (execBar2Access fn off len wr s) := by
  unfold execBar2Access
  refine ⟨_, rfl, ?_⟩
  with_reducible repeat' (first | assumption | apply Sound.refl | apply Sound.ite | apply State.bar2Read_sound | apply State.bar2Write_sound | apply State.unsupported_sound | split | dsimp only)

theorem execRingEntryFetchFail_sound (r : RingId) (err : Fin 16) {u₀ s : State} (h₀ : Sound u₀ s) : Goes u₀ (execRingEntryFetchFail r err s) := by
  unfold execRingEntryFetchFail
  refine ⟨_, rfl, ?_⟩
  with_reducible repeat' (first | assumption | apply Sound.refl | apply Sound.ite | apply State.fetchFail_sound | split | dsimp only)

theorem execFenceComplete_sound (r : RingId) {u₀ s : State} (h₀ : Sound u₀ s) : Goes u₀ (execFenceComplete r s) := by
  unfold execFenceComplete
  refine ⟨_, rfl, ?_⟩
  with_reducible repeat' (first | assumption | apply Sound.refl | apply Sound.ite | apply State.fenceEnd_sound | split | dsimp only)

theorem execDmaDescriptorStart_sound (r : RingId) {u₀ s : State} (h₀ : Sound u₀ s) : Goes u₀ (execDmaDescriptorStart r s) := by
  unfold execDmaDescriptorStart
  refine ⟨_, rfl, ?_⟩
  with_reducible repeat' (first | assumption | apply Sound.refl | apply Sound.ite | apply State.descStart_sound | split | dsimp only)

theorem execDescriptorTransferError_sound (r : RingId) (index : Nat) (err : XferErr) {u₀ s : State} (h₀ : Sound u₀ s) : Goes u₀ (execDescriptorTransferError r index err s) := by
  unfold execDescriptorTransferError
  refine ⟨_, rfl, ?_⟩
  with_reducible repeat' (first | assumption | apply Sound.refl | apply Sound.ite | apply State.descError_sound | split | dsimp only)

theorem execDescriptorEnd_sound (r : RingId) (index : Nat) {u₀ s : State} (h₀ : Sound u₀ s) : Goes u₀ (execDescriptorEnd r index s) := by
  unfold execDescriptorEnd
  refine ⟨_, rfl, ?_⟩
  with_reducible repeat' (first | assumption | apply Sound.refl | apply Sound.ite | apply State.descStep_sound | split | dsimp only)

theorem execDchEnd_sound (ch : ChanId) {u₀ s : State} (h₀ : Sound u₀ s) : Goes u₀ (execDchEnd ch s) := by
  unfold execDchEnd
  refine ⟨_, rfl, ?_⟩
  with_reducible repeat' (first | assumption | apply Sound.refl | apply Sound.ite | apply State.chanStep_sound | split | dsimp only)

theorem execEventTaken_sound (q : SeqId) {u₀ s : State} (h₀ : Sound u₀ s) : Goes u₀ (execEventTaken q s) := by
  unfold execEventTaken
  refine ⟨_, rfl, ?_⟩
  with_reducible repeat' (first | assumption | apply Sound.refl | apply Sound.ite | apply State.eventTake_sound | split | dsimp only)

theorem execNext_sound (q : SeqId) {u₀ s : State} (h₀ : Sound u₀ s) : Goes u₀ (execNext q s) := by
  unfold execNext
  refine ⟨_, rfl, ?_⟩
  with_reducible repeat' (first | assumption | apply Sound.refl | intro _ | apply State.wordEnd_sound | dsimp only)

theorem execJump_sound (q : SeqId) {u₀ s : State} (h₀ : Sound u₀ s) : Goes u₀ (execJump q s) := by
  unfold execJump
  refine ⟨_, rfl, ?_⟩
  with_reducible repeat' (first | assumption | apply Sound.refl | intro _ | apply State.wordEnd_sound | dsimp only)

theorem execCjump_sound (q : SeqId) {u₀ s : State} (h₀ : Sound u₀ s) : Goes u₀ (execCjump q s) := by
  unfold execCjump
  refine ⟨_, rfl, ?_⟩
  with_reducible repeat' (first | assumption | apply Sound.refl | intro _ | apply Sound.ite | apply State.wordEnd_sound | split | dsimp only)

theorem execCall_sound (q : SeqId) {u₀ s : State} (h₀ : Sound u₀ s) : Goes u₀ (execCall q s) := by
  unfold execCall
  refine ⟨_, rfl, ?_⟩
  with_reducible repeat' (first | assumption | apply Sound.refl | intro _ | apply Sound.ite | apply State.wordEnd_sound | split | dsimp only)

theorem execRet_sound (q : SeqId) {u₀ s : State} (h₀ : Sound u₀ s) : Goes u₀ (execRet q s) := by
  unfold execRet
  refine ⟨_, rfl, ?_⟩
  with_reducible repeat' (first | assumption | apply Sound.refl | intro _ | apply Sound.ite | apply State.wordEnd_sound | split | dsimp only)

theorem execLoop_sound (q : SeqId) {u₀ s : State} (h₀ : Sound u₀ s) : Goes u₀ (execLoop q s) := by
  unfold execLoop
  refine ⟨_, rfl, ?_⟩
  with_reducible repeat' (first | assumption | apply Sound.refl | intro _ | apply State.wordEnd_sound | dsimp only)

theorem execDispatch_sound (q : SeqId) {u₀ s : State} (h₀ : Sound u₀ s) : Goes u₀ (execDispatch q s) := by
  unfold execDispatch
  refine ⟨_, rfl, ?_⟩
  with_reducible repeat' (first | assumption | apply Sound.refl | intro _ | apply State.wordEnd_sound | dsimp only)

theorem execHalt_sound (q : SeqId) {u₀ s : State} (h₀ : Sound u₀ s) : Goes u₀ (execHalt q s) := by
  unfold execHalt
  refine ⟨_, rfl, ?_⟩
  with_reducible repeat' (first | assumption | apply Sound.refl | intro _ | apply State.wordEnd_sound | dsimp only)

theorem execMicrowordAlu_sound (q : SeqId) {u₀ s : State} (h₀ : Sound u₀ s) : Goes u₀ (execMicrowordAlu q s) := by
  unfold execMicrowordAlu
  refine ⟨_, rfl, ?_⟩
  with_reducible repeat' (first | assumption | apply Sound.refl | apply Sound.ite | apply State.wordAlu_sound | split | dsimp only)

theorem execBusRd_sound (q : SeqId) {u₀ s : State} (h₀ : Sound u₀ s) : Goes u₀ (execBusRd q s) := by
  unfold execBusRd
  refine ⟨_, rfl, ?_⟩
  with_reducible repeat' (first | assumption | apply Sound.refl | apply State.unitBusRd_sound | apply State.unitCommand_sound)

theorem execBusWr_sound (q : SeqId) {u₀ s : State} (h₀ : Sound u₀ s) : Goes u₀ (execBusWr q s) := by
  unfold execBusWr
  refine ⟨_, rfl, ?_⟩
  with_reducible repeat' (first | assumption | apply Sound.refl | apply State.unitBusWr_sound | apply State.unitCommand_sound)

theorem execRegRd_sound (q : SeqId) {u₀ s : State} (h₀ : Sound u₀ s) : Goes u₀ (execRegRd q s) := by
  unfold execRegRd
  refine ⟨_, rfl, ?_⟩
  with_reducible repeat' (first | assumption | apply Sound.refl | apply State.unitCommand_sound | apply State.unitRegRd_sound)

theorem execRegWr_sound (q : SeqId) {u₀ s : State} (h₀ : Sound u₀ s) : Goes u₀ (execRegWr q s) := by
  unfold execRegWr
  refine ⟨_, rfl, ?_⟩
  with_reducible repeat' (first | assumption | apply Sound.refl | apply State.unitCommand_sound | apply State.unitRegWr_sound)

theorem execCommit_sound (q : SeqId) {u₀ s : State} (h₀ : Sound u₀ s) : Goes u₀ (execCommit q s) := by
  unfold execCommit
  refine ⟨_, rfl, ?_⟩
  with_reducible repeat' (first | assumption | apply Sound.refl | apply Sound.ite | apply State.wordAlu_sound | apply State.wordCommit_sound | apply State.wordUnit_sound | split | dsimp only)

theorem execEvtMask_sound (q : SeqId) {u₀ s : State} (h₀ : Sound u₀ s) : Goes u₀ (execEvtMask q s) := by
  unfold execEvtMask
  refine ⟨_, rfl, ?_⟩
  with_reducible repeat' (first | assumption | apply Sound.refl | apply State.unitCommand_sound | apply State.unitEvtMask_sound)

theorem execDch_sound (q : SeqId) {u₀ s : State} (h₀ : Sound u₀ s) : Goes u₀ (execDch q s) := by
  unfold execDch
  refine ⟨_, rfl, ?_⟩
  with_reducible repeat' (first | assumption | apply Sound.refl | apply State.unitCommand_sound | apply State.unitDch_sound)

theorem execTimer_sound (q : SeqId) {u₀ s : State} (h₀ : Sound u₀ s) : Goes u₀ (execTimer q s) := by
  unfold execTimer
  refine ⟨_, rfl, ?_⟩
  with_reducible repeat' (first | assumption | apply Sound.refl | apply State.unitCommand_sound | apply State.unitTimer_sound)

theorem execSeqTimerExpiry_sound (q : SeqId) {u₀ s : State} (h₀ : Sound u₀ s) : Goes u₀ (execSeqTimerExpiry q s) := by
  unfold execSeqTimerExpiry
  refine ⟨_, rfl, ?_⟩
  with_reducible repeat' (first | assumption | apply Sound.refl | (intro x; refine Sound.via (t := x) ?_ (fun hx => ?_); on_goal 2 => clear_value x) | (intro x; clear_value x) | intro _ | apply Sound.ite | apply State.latch_sound | apply State.setSeq_sound | lift_lets | split | dsimp only)

theorem execStageStart_sound (q : SeqId) {u₀ s : State} (h₀ : Sound u₀ s) : Goes u₀ (execStageStart q s) := by
  unfold execStageStart
  refine ⟨_, rfl, ?_⟩
  with_reducible repeat' (first | assumption | apply Sound.refl | apply State.unitCommand_sound | apply State.unitStage_sound)

theorem execStageDone_sound (core : CoreId) (stage : Fin 8) {u₀ s : State} (h₀ : Sound u₀ s) : Goes u₀ (execStageDone core stage s) := by
  unfold execStageDone
  refine ⟨_, rfl, ?_⟩
  with_reducible repeat' (first | assumption | apply Sound.refl | (intro x; refine Sound.via (t := x) ?_ (fun hx => ?_); on_goal 2 => clear_value x) | (intro x; clear_value x) | intro _ | apply Sound.ite | apply State.setCore_sound | lift_lets | split | dsimp only)

theorem execSqWrite_sound (q : SeqId) {u₀ s : State} (h₀ : Sound u₀ s) : Goes u₀ (execSqWrite q s) := by
  unfold execSqWrite
  refine ⟨_, rfl, ?_⟩
  with_reducible repeat' (first | assumption | apply Sound.refl | apply State.unitCommand_sound | apply State.unitSqWrite_sound)

theorem execSqPush_sound (q : SeqId) {u₀ s : State} (h₀ : Sound u₀ s) : Goes u₀ (execSqPush q s) := by
  unfold execSqPush
  refine ⟨_, rfl, ?_⟩
  with_reducible repeat' (first | assumption | apply Sound.refl | apply State.unitCommand_sound | apply State.unitSqPush_sound)

theorem execRcSnap_sound (q : SeqId) {u₀ s : State} (h₀ : Sound u₀ s) : Goes u₀ (execRcSnap q s) := by
  unfold execRcSnap
  refine ⟨_, rfl, ?_⟩
  with_reducible repeat' (first | assumption | apply Sound.refl | apply State.unitCommand_sound | apply State.unitSnap_sound)

theorem execBitsPut_sound (q : SeqId) {u₀ s : State} (h₀ : Sound u₀ s) : Goes u₀ (execBitsPut q s) := by
  unfold execBitsPut
  refine ⟨_, rfl, ?_⟩
  with_reducible repeat' (first | assumption | apply Sound.refl | apply State.unitBitsPut_sound | apply State.unitCommand_sound)

theorem execBitsGet_sound (q : SeqId) {u₀ s : State} (h₀ : Sound u₀ s) : Goes u₀ (execBitsGet q s) := by
  unfold execBitsGet
  refine ⟨_, rfl, ?_⟩
  with_reducible repeat' (first | assumption | apply Sound.refl | apply State.unitBitsGet_sound | apply State.unitCommand_sound)

theorem execSeqWatchdog_sound (q : SeqId) {u₀ s : State} (h₀ : Sound u₀ s) : Goes u₀ (execSeqWatchdog q s) := by
  unfold execSeqWatchdog
  refine ⟨_, rfl, ?_⟩
  with_reducible repeat' (first | assumption | apply Sound.refl | apply Sound.ite | apply State.seqFault_sound | split | dsimp only)

theorem execMemRd_sound (port : PortId) (h : FabHeader) {u₀ s : State} (h₀ : Sound u₀ s) : Goes u₀ (execMemRd port h s) := by
  unfold execMemRd
  refine ⟨_, rfl, ?_⟩
  with_reducible repeat' (first | assumption | apply Sound.refl | apply State.fabArrive_sound)

theorem execMemWr_sound (port : PortId) (h : FabHeader) (payload : List Byte) {u₀ s : State} (h₀ : Sound u₀ s) : Goes u₀ (execMemWr port h payload s) := by
  unfold execMemWr
  refine ⟨_, rfl, ?_⟩
  with_reducible repeat' (first | assumption | apply Sound.refl | apply State.fabArrive_sound)

theorem execMemResp_sound (port : PortId) (h : FabHeader) (payload : List Byte) {u₀ s : State} (h₀ : Sound u₀ s) : Goes u₀ (execMemResp port h payload s) := by
  unfold execMemResp
  refine ⟨_, rfl, ?_⟩
  with_reducible repeat' (first | assumption | apply Sound.refl | apply State.fabArrive_sound)

theorem execBulkWr_sound (port : PortId) (h : FabHeader) (payload : List Byte) {u₀ s : State} (h₀ : Sound u₀ s) : Goes u₀ (execBulkWr port h payload s) := by
  unfold execBulkWr
  refine ⟨_, rfl, ?_⟩
  with_reducible repeat' (first | assumption | apply Sound.refl | apply State.fabArrive_sound)

theorem execBulkRd_sound (port : PortId) (h : FabHeader) {u₀ s : State} (h₀ : Sound u₀ s) : Goes u₀ (execBulkRd port h s) := by
  unfold execBulkRd
  refine ⟨_, rfl, ?_⟩
  with_reducible repeat' (first | assumption | apply Sound.refl | apply State.fabArrive_sound)

theorem execBulkResp_sound (port : PortId) (h : FabHeader) (payload : List Byte) {u₀ s : State} (h₀ : Sound u₀ s) : Goes u₀ (execBulkResp port h payload s) := by
  unfold execBulkResp
  refine ⟨_, rfl, ?_⟩
  with_reducible repeat' (first | assumption | apply Sound.refl | apply State.fabArrive_sound)

theorem execEspPart_sound (port : PortId) (h : FabHeader) (group : Fin 8) (member : Fin 8) (sec : BitVec 48) (ns : W32) (tile : Nat) (last : Bool) (bytes : List Byte) {u₀ s : State} (h₀ : Sound u₀ s) : Goes u₀ (execEspPart port h group member sec ns tile last bytes s) := by
  unfold execEspPart
  refine ⟨_, rfl, ?_⟩
  with_reducible repeat' (first | assumption | apply Sound.refl | apply State.fabArrive_sound | dsimp only)

end Sys2Proof.Machine
end

