-- ==== Sys2Proof/Machine/ConfigSpace.lean ====
section
/-! DEFINITION. What a read of configuration space and of BAR4 shows (02_host_attachment.md R27 to R44): identity, BARs, and the fields of the capabilities, each as a number. No row of the table reads configuration space; these are the views of it. -/

namespace Sys2Proof.Machine

/-- Fields of configuration space that the spec gives. -/
inductive CfgField
  -- identity (R32)
  | vendorId | deviceId | classCode | revisionId | subsystemVendorId | subsystemId | interruptPin
  -- SR-IOV and ARI (R33)
  | totalVFs | initialVFs | numVFs | vfOffset | vfStride | vfDeviceId | vfEnable | ariCapable | ariHierarchy
  -- base address registers: log2 of the size, 0 none; 64-bit; prefetchable (R35, R38, R40)
  | barLog2 (n : Fin 6) | bar64 (n : Fin 6) | barPrefetch (n : Fin 6)
  -- Resizable BAR: one bit for each size from 1 MiB on; the size in force (R36)
  | rebarSizes | rebarLog2
  -- PCI Express: payload, read request, tags (R41)
  | maxPayload | maxReadRequest | tenBitTags | outstanding
  -- MSI-X (R37, R41, R319)
  | msixTableSize | msixEnable | msixFunctionMask | msixTableBar | msixTableOffset | msixPbaOffset
  -- AER (R41)
  | aerUncorrectable | aerFirstError | aerHeader (i : Fin 4)
  -- power management (R41, R43, R322)
  | noSoftReset | d1Support | d2Support | pmeFromD3hot | pmeFromD3cold | powerState | pmeEn | pmeStatus
  | busMasterEnable
  -- L1 PM Substates, exit latencies in ns (R41, R44)
  | l11 | l12 | l0sExitNs | l1ExitNs | tPowerOnUs | tCommonModeUs
  -- LTR, PTM, FLR, serial number, SRIS, link (R27, R29, R41, R42)
  | ltr | ptmRequester | flrCapable | serialNumber | srisSupport | maxLinkSpeed | maxLinkWidth
  -- what the module does not have (R42)
  | msi | ats | pri | pasid | atomicOps | idOrdering
  deriving DecidableEq, Repr

/-- Log2 of the size of BAR `n` of function `k`, 0 where it has none (R35, R38, R40). -/
def State.barLog2 (s : State) (k n : Nat) : Nat :=
  match n with
  | 0 => if k = 0 then 24 else 16
  | 2 => if k = 0 then s.hif.bar2Log2 else s.f DEV_VFBAR2 5 0
  | 4 => if k = 0 then 20 else 0
  | _ => 0

/-- A field of function `k`'s configuration space as a read returns it; 0 where the function does not carry it. -/
def State.cfg (s : State) (k : Nat) (f : CfgField) : Nat :=
  let x := s.fn k
  let pf (v : Nat) : Nat := if k = 0 then v else 0
  match f with
  | .vendorId => if k = 0 then 0x1E5D else 0xFFFF
  | .deviceId => if k = 0 then 0x4832 else 0xFFFF
  | .classCode => 0x040000
  | .revisionId => s.rev.toNat
  | .subsystemVendorId => 0x1E5D
  | .subsystemId => match s.variant with
    | .e96 => 0x0096
    | .e144 => 0x0144
  | .interruptPin => 0
  | .totalVFs => pf 31
  | .initialVFs => pf 31
  | .numVFs => pf s.hif.numVFs
  | .vfOffset => pf 1
  | .vfStride => pf 1
  | .vfDeviceId => pf 0x4833
  | .vfEnable => pf (b2n s.hif.vfEnable)
  | .ariCapable => pf 1
  | .ariHierarchy => pf (b2n s.hif.ari)
  | .barLog2 n => s.barLog2 k n.val
  | .bar64 n => b2n (s.barLog2 k n.val != 0)
  | .barPrefetch n => b2n (n.val == 2 && s.barLog2 k 2 != 0)
  | .rebarSizes => pf (((span 10 9).map fun i => 2 ^ i).sum)
  | .rebarLog2 => pf s.hif.bar2Log2
  | .maxPayload => 512
  | .maxReadRequest => 4096
  | .tenBitTags => 1
  | .outstanding => 768
  | .msixTableSize => 0
  | .msixEnable => b2n x.msixEn
  | .msixFunctionMask => b2n x.funcMask
  | .msixTableBar => pf 4
  | .msixTableOffset => if k = 0 then 0 else 0xF800
  | .msixPbaOffset => if k = 0 then 0x80000 else 0xFC00
  | .aerUncorrectable => x.aerUncor.toNat
  | .aerFirstError => x.aerFirst
  | .aerHeader i => (x.aerHeader.getD i.val 0).toNat
  | .noSoftReset => 1
  | .d1Support | .d2Support | .pmeFromD3cold => 0
  | .pmeFromD3hot => 1
  | .powerState => if x.d3 then 3 else 0
  | .pmeEn => b2n x.pmeEn
  | .pmeStatus => b2n x.pmeStatus
  | .busMasterEnable => b2n x.bme
  | .l11 | .l12 => pf 1
  | .l0sExitNs => 1000
  | .l1ExitNs => 8000
  | .tPowerOnUs => pf 50
  | .tCommonModeUs => pf 10
  | .ltr | .ptmRequester => pf 1
  | .flrCapable => if k = 0 then 0 else 1
  | .serialNumber => pf (s.pair DEV_SERIAL_LO DEV_SERIAL_HI)
  | .srisSupport => 1
  | .maxLinkSpeed => 5
  | .maxLinkWidth => 16
  | .msi | .ats | .pri | .pasid | .atomicOps | .idOrdering => 0

/-- Routing ID of a function: PF0's plus its number (R33). -/
def routingId (pf0 k : Nat) : Nat := pf0 + k

/-- The dword at an offset of PF0's BAR4: the MSI-X table with its one entry, and the PBA; the rest reads 0 (R35, R37). -/
def State.viewBar4 (s : State) (off : Nat) : W32 :=
  match off with
  | 0x0 => (s.fn 0).vecAddr.setWidth 32
  | 0x4 => ((s.fn 0).vecAddr >>> 32).setWidth 32
  | 0x8 => (s.fn 0).vecData
  | 0xC => BitVec.ofNat 32 (b2n (s.fn 0).vecMask)
  | 0x80000 => BitVec.ofNat 32 (b2n (s.fn 0).pba)
  | _ => 0

end Sys2Proof.Machine
end

