-- ==== Sys2Proof/WellFormed.lean ====
section
/-! DEFINITION. Well-formed commands: the bounds that the constructors' types do not already state. A register offset is aligned and inside the sender's BAR0 (R6, R35, R38); packet, header and time operands fit the fields that carry them. -/

namespace Sys2Proof

/-- Size of the BAR0 that a sender sees: 16 MiB, or 64 KiB for a VF (R35, R38). -/
def Who.barSize : Who → Nat
  | .pcie fn => if fn.val = 0 then 0x1000000 else 0x10000
  | .agent _ => 0x1000000

/-- An aligned register offset inside the sender's BAR0. -/
def Who.offOk (w : Who) (off : Nat) : Bool := decide (off % 4 = 0) && decide (off < w.barSize)

/-- A read: of 1 or 2 bytes within one dword, or of whole dwords, inside the sender's BAR0 (R52). -/
def Who.readOk (w : Who) (off len : Nat) : Bool :=
  (((len == 1 || len == 2) && decide (off % 4 + len ≤ 4)) || (decide (off % 4 = 0) && decide (len % 4 = 0) && len != 0)) &&
    decide (off + len ≤ w.barSize)

/-- The agents that exist: 62, 63, 96 to 127 and 129 to 254 are reserved, and 255 names no agent (R14, R15). -/
def agentOk (a : Nat) : Bool := decide (a < 62 ∨ 64 ≤ a ∧ a < 96 ∨ a = 128)

/-- A sender: a function, or an agent. -/
def Who.ok : Who → Bool
  | .pcie _ => true
  | .agent a => agentOk a

def PoolSrc.ok : PoolSrc → Bool
  | .job _ => true
  | .agent a => agentOk a

def RowHeader.ok (r : RowHeader) : Bool := decide (r.row < 0x8000) && decide (r.offset < 0x8000) && decide (r.bytes.length < 0x10000)

/-- An RTP packet: 32-bit extended sequence number (R429), 7-bit payload type. -/
def MediaPacket.ok (p : MediaPacket) : Bool :=
  decide (p.seq < 2 ^ 32) && decide (p.payloadType < 128) && p.rows.all RowHeader.ok

/-- A Tolac header: every field fits its bits (R459). -/
def FabHeader.ok (h : FabHeader) : Bool :=
  decide (h.ptype < 16) && decide (h.vc < 4) && decide (h.hops < 64) && decide (h.dst < 4096) &&
  decide (h.src < 4096) && decide (h.len < 8192) && decide (h.seq < 2 ^ 32) && decide (h.addr < 2 ^ 48) && decide (h.resp < 256)

/-- A frame has its two addresses and its type. -/
def Frame.ok (f : Frame) : Bool :=
  decide (14 ≤ f.bytes.length)

def LaneSweep.ok (l : LaneSweep) : Bool := decide (l.lane < 128) && (l.passing ++ l.again.getD []).all (fun t => decide (t < 128))

/-- PTP nanoseconds are below 10^9 (R22). -/
def nsOk (ns : W32) : Bool := decide (ns.toNat < 1000000000)

/-- A prepass vector lies within ±64 luma samples, in quarters (R120). -/
def Mv.preOk (v : Mv) : Bool := decide (-256 ≤ v.x ∧ v.x ≤ 256 ∧ -256 ≤ v.y ∧ v.y ≤ 256)

/-- A picture as headers can give it: a coding unit of a codec, tile columns that make up its width, a crop inside it (R67, R181). -/
def PicInfo.ok (i : PicInfo) : Bool :=
  [16, 32, 64, 128].contains i.ctu && i.width != 0 && i.height != 0 && i.tiles.all (fun w => w != 0) && i.tiles.sum * i.ctu - i.width < i.ctu &&
  decide (i.width ≤ i.tiles.sum * i.ctu) && decide (i.cropX + i.outW ≤ i.width ∧ i.cropY + i.outH ≤ i.height) && decide (i.chroma ≤ 3) &&
  decide (8 ≤ i.depth ∧ i.depth ≤ 16)

/-- A slice or tile of such a picture; other units of a run name no picture. -/
def SliceInfo.ok (si : SliceInfo) : Bool := si.count == 0 || (si.pic.ok && decide (si.tile < si.pic.tiles.length))

/-- Whether a command's operands fit what carries them. -/
def Instr.wf : Instr → Bool
  | .registerWrite w off vs => w.ok && w.offOk off && !vs.isEmpty && decide (off + 4 * vs.length ≤ w.barSize)
  | .counterReadClear w span => w.ok && w.readOk span.off span.len
  | .pairLoRead w off | .pairLoWrite w off _ => w.ok && w.offOk off
  | .bar0PartialWrite fn off be _ => (Who.pcie fn).offOk off && be != 15
  | .evtSet w _ _ | .blockEnable w _ | .drain w _ | .abort w _ | .srst w _ => w.ok
  | .msixControlWrite fn (.table off _) => decide (off % 4 = 0) && decide (off < if fn.val = 0 then 0x100000 else 0x800)
  | .msixControlWrite _ _ => true
  | .bar2Resize n => decide (30 ≤ n ∧ n ≤ 38)
  | .bar2Access _ off len wr => decide (off + len ≤ 2 ^ 48) && (match wr with | none => true | some b => decide (b.length = len))
  | .alloc src _ n _ => src.ok && decide (n < 256)
  | .addref src _ | .release src _ | .free src _ => src.ok
  | .transfer src _ d => src.ok && agentOk d
  | .reclaimByOwner src _ v => src.ok && agentOk v
  | .linesDoneAdvance a _ n _ => agentOk a && decide (n < 0x10000)
  | .hbmRead a addr len => agentOk a && decide (addr + len ≤ 2 ^ 48)
  | .hbmWrite a addr b _ => agentOk a && decide (addr + b.length ≤ 2 ^ 48)
  | .hbmTrainingDone _ _ l _ => l.all LaneSweep.ok
  | .hbmTrackingRetrain w _ l _ => w.ok && l.all LaneSweep.ok
  | .decodeJobReady _ si => si.ok
  | .ethernetFrameReceive _ f => f.ok
  | .mediaPacketReceive _ _ p => p.ok
  | .txHandover _ a _ => agentOk a
  | .fabricPacketForward _ h p => h.ok && decide (p.length ≤ 4096)
  | .e2eAck _ h => h.ok
  | .memRd _ h | .bulkRd _ h => h.ok
  | .mediaRtp _ h p | .memWr _ h p | .memResp _ h p | .bulkWr _ h p | .bulkResp _ h p => h.ok && decide (p.length ≤ 4096)
  | .espPart _ h _ _ _ ns _ _ _ => h.ok && nsOk ns
  | .go _ _ ns | .subst _ _ _ ns | .espHalo _ _ _ _ _ _ ns _ | .allowance _ _ ns _ => nsOk ns
  | .probeAns _ _ node port mode => decide (node < 4096) && decide (port < 8) && decide (mode < 4)
  | .tolacLinkUp _ cr _ => decide (cr.length = 4)
  | .e2eAckSend node vc | .e2eRetransmit node vc => decide (node < 4096) && decide (vc < 4)
  | .rowIdleClose _ b => decide (b < 64)
  | .prepass _ _ a c v => v.all Mv.preOk && a.length == v.length && c.length == v.length
  | .ctuRowStart _ _ a b => a.length == b.length
  | .clockFailure k _ both => !both || k == .reference
  | .smbMeasurementUpdate _ _ _ _ _ a b => decide (a < 0x10000) && decide (b < 0x10000)
  | .blockDrainDone .. | .blockResetReplyTimeout .. | .devRst .. | .warmReset | .perstNAssert | .pcieHotReset
  | .perstNDeassert | .hostLinkDown | .hostLinkRestored | .flr .. | .powerStateChange .. | .busMasterEnableChange ..
  | .vfDisable .. | .ptmRequest .. | .ptmDone .. | .ringDoorbell .. | .ringOwnerChange ..
  | .ringEntryFetchFail .. | .jobBadType .. | .sessionOpen .. | .sessionCloseFinish .. | .sessionCloseAbort ..
  | .sessionCloseComplete .. | .encodePicture .. | .decodeUnit .. | .composeConfig .. | .flip .. | .install ..
  | .load .. | .loadSwap .. | .nop .. | .fence .. | .fenceComplete .. | .reclaimDone .. | .poolWaiterServed ..
  | .poolEnable .. | .poolDrain .. | .poolAbort .. | .pictureStart .. | .sliceJobReady ..
  | .inheritLatestStart .. | .sliceJobDispatch .. | .stripStart .. | .pooledRowReady ..
  | .sliceJobComplete .. | .sqBankSwap .. | .sqTimeout .. | .sliceTrailer .. | .promotionReplyTimeout ..
  | .promotionReissue .. | .hdgPromote .. | .hostPromoteTakeover .. | .hdgSpare .. | .bistStart .. | .bistDone ..
  | .hdgDvfsWrite .. | .dvfsApply .. | .hdgPersPinWrite .. | .concealmentJobReady ..
  | .concealLatestStart .. | .outputDeadline .. | .flipPoint .. | .freewheelFlip .. | .canvasLineWrite ..
  | .lateLine .. | .groupArm .. | .groupCancel .. | .dchGo .. | .dchEnd .. | .dmaDescriptorStart ..
  | .descriptorTransferError .. | .descriptorEnd .. | .streamSliceStart .. | .streamSliceEnd .. | .cbufRdWrite ..
  | .icClaim .. | .icComplete .. | .msixSend .. | .icModWrite .. | .moderationTimer .. | .pmeRepeat ..
  | .hbmFullTraining .. | .hbmTempPoll .. | .hbmRefresh .. | .scrubRead .. | .hbmMapWrite .. | .pprSoft ..
  | .pprHard .. | .eventTaken .. | .next .. | .jump .. | .cjump .. | .call .. | .ret .. | .loop .. | .dispatch ..
  | .halt .. | .microwordAlu .. | .busRd .. | .busWr .. | .regRd .. | .regWr .. | .commit .. | .evtMask .. | .dch ..
  | .timer .. | .seqTimerExpiry .. | .stageStart .. | .sqWrite .. | .sqPush .. | .rcSnap .. | .bitsPut ..
  | .bitsGet .. | .seqWatchdog .. | .bankSwap .. | .storeReload .. | .cswKick .. | .cswSwap .. | .cswData0Read ..
  | .cswData3Write .. | .cswRevoke .. | .lossDeadline .. | .pictureSilenceTimeout .. | .htxCmd .. | .hostFrameSent ..
  | .flowEnable .. | .flowDrain .. | .flowAbort .. | .txPacketDue .. | .mtcLoad .. | .mtcAdj .. | .mtcSlew ..
  | .slewDone | .mtcNsRead .. | .tptModeWrite .. | .linkTrainingStart .. | .linkTrainingTimeout ..
  | .tolacLinkDown .. | .flitNak .. | .linkAckTimeout .. | .probe .. | .probeGo .. | .probeTimeout ..
  | .memTimeout .. | .failback .. | .join .. | .leave .. | .partTimeout .. | .routeEntryWrite ..
  | .pllQualified .. | .holdTimeout | .clockSelect .. | .pllbConfigWrite .. | .gateWrite .. | .freqMeasureStart ..
  | .freqMeasureDone .. | .freqMeasureTimeout .. | .faultRaise .. | .faultNPulseEnd | .fltUnlock ..
  | .fltHistAckWrite .. | .event .. | .flip1 .. | .flip2 .. | .testEnFall | .powerUp | .undervoltage | .feedFail ..
  | .feedAlarm .. | .currentLimitTrip | .hotSwapRetry | .pwrEnLow | .pwrEnHigh | .sensorPoll .. | .thermalStepDown
  | .thermalStepUp | .thermalTrip | .thermalShutdown | .smbReadWord .. | .smbWriteWord .. | .smbSendByte ..
  | .ethernetLinkDown .. | .ethernetLinkUp .. | .hbmRequestIssue .. | .creditReturn .. | .flitAck .. | .stageDone .. => true

end Sys2Proof
end

