-- ==== Sys2Proof/Tests/Slice0.lean ====
section
/-! SUPPORT. Tests: ill-formed commands, examples the spec works out, and for every statement with hypotheses a concrete state and operands that meet them, clause by clause. -/

namespace Sys2Proof.Tests
open Sys2Proof Sys2Proof.Machine
set_option Elab.async false

/-! Ill-formed commands. -/

def pf : Who := .pcie 0
def hdr : FabHeader :=
  { ptype := 7, vc := 2, alt := false, poison := false, hops := 3, dst := 2, src := 5, len := 0, seq := 1, tag := 0, addr := 0, resp := 0, sync := false }
def pkt : MediaPacket := { seq := 7, timestamp := 0, marker := false, payloadType := 96, good := true, rows := [], units := [] }
def frm : Frame :=
  { bytes := List.replicate 60 0, fcsOk := true }
/-- A picture of 128 x 128 in one tile column, in units of 64 samples. -/
def pic128 : PicInfo :=
  { startPoint := false, key := false, recovers := false, rasl := false, width := 128, height := 128, chroma := 1, depth := 8, ctu := 64, tiles := [2], cropX := 0, cropY := 0,
    outW := 128, outH := 128, poc := 0, keep := [], outputs := [], lost := 0 }
/-- A slice of its two upper units. -/
def slice1 (refs : List Nat) (last : Bool) : SliceInfo :=
  { tile := 0, first := 0, count := 2, newPicture := false, lastOfUnit := last, pic := pic128, list0 := refs, list1 := [], blocks := [], start := 0, ends := [], bins := 0,
    filterIn := false, filterAbove := false, filterLeft := false, filterBelow := false, filterRight := false, hashBad := false, result := .clean }

theorem test_wf_accepts : ([.registerWrite pf 0xFFFFFC [0], .counterReadClear pf ⟨0xFFFFFE, 2⟩, .bar2Resize 30, .bar2Resize 38, .alloc (.agent 128) 63 255 true, .alloc (.agent 61) 63 255 true, .decodeJobReady 0 (slice1 [] true), .prepass 0 0 [0] [(0, 0)] [{ x := -256, y := 256 }], .memWr 0 hdr [], .mediaPacketReceive 0 false pkt, .ethernetFrameReceive 0 frm, .go 0 0 999999999] : List Instr).all Instr.wf = true := by decide

theorem test_wf_register_accesses : ([.registerWrite pf 2 [0], .registerWrite pf 0xFFFFFC [0, 0], .registerWrite pf 0 [], .counterReadClear pf ⟨0x1000000, 4⟩, .counterReadClear pf ⟨3, 2⟩, .counterReadClear pf ⟨0, 6⟩, .counterReadClear pf ⟨2, 4⟩, .pairLoRead (.pcie 1) 0x10000, .pairLoWrite (.agent 256) 0 0, .bar0PartialWrite 0 0 15 0, .bar0PartialWrite 1 0x10000 1 0, .evtSet (.agent 255) 0 0] : List Instr).any Instr.wf = false := by decide

theorem test_wf_memory_accesses : ([.bar2Resize 29, .bar2Resize 39, .bar2Access 0 (2 ^ 48) 1 none, .bar2Access 0 0 2 (some [1]), .hbmRead 62 0 1, .hbmRead 96 0 1, .hbmRead 129 0 1, .hbmRead 255 0 1, .hbmRead 0 (2 ^ 48) 1, .hbmWrite 256 0 [] false, .hbmWrite 0 (2 ^ 48) [1] false, .rowIdleClose 0 64] : List Instr).any Instr.wf = false := by decide

theorem test_wf_pool_operands : ([.alloc (.agent 256) 0 1 false, .alloc (.agent 0) 0 256 false, .addref (.agent 256) 0, .transfer (.agent 0) 0 256, .reclaimByOwner (.agent 0) 0 256, .linesDoneAdvance 256 0 0 false, .linesDoneAdvance 0 0 0x10000 false, .txHandover 0 256 0] : List Instr).any Instr.wf = false := by decide

theorem test_wf_training_sweeps : ([.hbmTrainingDone 0 0 [⟨128, false, [], none⟩] 0, .hbmTrainingDone 0 0 [⟨0, false, [128], none⟩] 0, .hbmTrainingDone 0 0 [⟨0, false, [], some [128]⟩] 0, .hbmTrackingRetrain (.agent 256) 0 [] 0] : List Instr).any Instr.wf = false := by decide

theorem test_wf_packets : ([.mediaPacketReceive 0 false { pkt with payloadType := 128 }, .mediaPacketReceive 0 false { pkt with rows := [⟨0x8000, 0, []⟩] }, .mediaPacketReceive 0 false { pkt with rows := [⟨0, 0x8000, []⟩] }, .mediaPacketReceive 0 false { pkt with seq := 2 ^ 32 }, .ethernetFrameReceive 0 { frm with bytes := List.replicate 13 0 }, .mediaRtp 0 { hdr with dst := 4096 } []] : List Instr).any Instr.wf = false := by decide

theorem test_wf_pictures : ([{ pic128 with ctu := 48 }, { pic128 with tiles := [3] }, { pic128 with tiles := [1] }, { pic128 with tiles := [2, 0] }, { pic128 with cropX := 1 }, { pic128 with width := 0, outW := 0 }, { pic128 with depth := 7 }] : List PicInfo).any (fun p => (Instr.decodeJobReady 0 { slice1 [] true with pic := p }).wf) = false ∧
    (Instr.decodeJobReady 0 { slice1 [] true with tile := 1 }).wf = false ∧ (Instr.prepass 0 0 [0] [(0, 0)] [{ x := 257 }]).wf = false := by decide

theorem test_wf_fabric_headers : ([{ hdr with ptype := 16 }, { hdr with vc := 4 }, { hdr with hops := 64 }, { hdr with dst := 4096 }, { hdr with src := 4096 }, { hdr with len := 8192 }, { hdr with seq := 2 ^ 32 }, { hdr with addr := 2 ^ 48 }, { hdr with resp := 256 }] : List FabHeader).any (fun h => (Instr.e2eAck 0 h).wf || (Instr.memRd 0 h).wf) = false := by decide

theorem test_wf_fabric_operands : ([.go 0 0 1000000000, .subst 0 0 0 1000000000, .allowance 0 0 1000000000 [], .espHalo 0 0 false false 0 0 1000000000 [], .espPart 0 hdr 0 0 0 1000000000 0 false [], .probeAns 0 0 4096 0 0, .probeAns 0 0 0 8 0, .probeAns 0 0 0 0 4, .tolacLinkUp 0 [1, 2, 3] false, .e2eAckSend 4096 0, .e2eRetransmit 0 4, .smbMeasurementUpdate 0 0 0 0 0 0x10000 0, .smbMeasurementUpdate 0 0 0 0 0 0 0x10000] : List Instr).any Instr.wf = false := by decide

theorem test_wf_long_payload : Instr.wf (.memWr 0 hdr (List.replicate 4097 0)) = false := by decide +kernel


/-! Examples the spec works out. -/

/-- The byte string "123456789" has CRC-32C 0xE306_9283 (R292). -/
theorem test_crc32c : crc32c [0x31, 0x32, 0x33, 0x34, 0x35, 0x36, 0x37, 0x38, 0x39] = 0xE3069283 := by decide +kernel

/-- The table of swap modes (R290). -/
theorem test_swap_modes :
    (List.range 5).map (fun m => swapBytes m [0x11, 0x22, 0x33, 0x44, 0x55, 0x66, 0x77, 0x88]) =
      [[0x11, 0x22, 0x33, 0x44, 0x55, 0x66, 0x77, 0x88], [0x22, 0x11, 0x44, 0x33, 0x66, 0x55, 0x88, 0x77],
       [0x44, 0x33, 0x22, 0x11, 0x88, 0x77, 0x66, 0x55], [0x33, 0x44, 0x11, 0x22, 0x77, 0x88, 0x55, 0x66],
       [0x88, 0x77, 0x66, 0x55, 0x44, 0x33, 0x22, 0x11]] := by decide

/-- The address of R351 lies in pseudo-channel 77 at offset 0x434_7880. -/
theorem test_hbm_place : hbmPlace 24 0 0x21A3C4D80 = (77, 0x4347880) := by decide +kernel

/-- The fields of the word that publishes G5 to CORE_SLICES (R389). -/
theorem test_microword_fields :
    let w : W128 := 0x00000060040140000000000400000044
    (mwSeq w, mwYield w, mwCommit w, mwAluOp w, mwSrcA w, mwUnitOp w, mwUnitArg w) = (0, true, true, 1, 5, 4, 0x44) := by decide +kernel

/-- The job of the replay picture (08_job_formats.md, worked example). -/
def replayJob : List Byte :=
  [0x03, 0, 0x1E, 0, 0x31, 0x5A, 0, 0, 0, 8, 0x4C, 0x2A, 0x10, 0, 0, 0, 7, 1, 0x30, 0x18, 0x1F, 0, 0, 0, 0, 0x65, 0xCD, 0x1D, 0x40, 0x3C, 0x1B, 0x6A] ++
    List.replicate 16 0 ++ [0x1C, 0, 0, 0, 0xC0, 0xD4, 1, 0] ++ List.replicate 72 0

theorem test_replay_job :
    replayJob.length = 128 ∧ jobFormatOk replayJob (fun _ => true) = true ∧ (jobRefOf 0 replayJob).tag = 0x5A31 ∧
      (jobRefOf 0 replayJob).statusAddr = 0x102A4C0800 ∧ (jobRefOf 0 replayJob).sess = 30 ∧ (jobRefOf 0 replayJob).typ = 3 ∧
      hPool (BitVec.ofNat 32 (leAt replayJob 0x10 4)) = 6 ∧ hIndex (BitVec.ofNat 32 (leAt replayJob 0x10 4)) = 0x107 := by decide +kernel

/-- The intra picture floor of 1080p HEVC is 17 × (30 × 40 + 48) bytes (08_job_formats.md, worked example). -/
theorem test_picture_floor : picFloor { codec := 1, prof := 0, level := 0, tier := 0, chroma := 1, depth := 10, w := 1920, h := 1080 } true = 21216 := by decide +kernel

/-- Load units of 1080p60, 2160p60, 2160p120 and 4320p120, analysing, and of 2160p120 in AV1 (the table of R72). -/
theorem test_load_units :
    let d (fps : Byte) : List Byte := List.replicate 16 0 ++ [fps, 0, 1, 0]
    let st (codec w h : Nat) : Stream := { codec := codec, prof := 0, level := 0, tier := 0, chroma := 1, depth := 10, w := w, h := h }
    let l (codec w h : Nat) (fps : Byte) := loadOf (st codec w h) (d fps) w (cost200 (st codec w h) false false)
    (l 1 1920 1080 60, l 1 3840 2160 60, l 1 3840 2160 120, l 1 7680 4320 120, l 3 3840 2160 120) = (170, 680, 1359, 5436, 1699) := by decide +kernel

/-- The record of the replay picture, as its bytes 0x00 to 0x1B and 0x30 to 0x3F stand in the example. -/
theorem test_replay_record :
    let s : State := { State.reset with mtc := { time := { sec := 0x6A1B3C40, ns := 517420000 }, frac := 0, slew := 0 } }
    let b := s.recordBytes 0x5A31 3 0x1E 0x20 [(8, leBytes 8 0x6A1B3C401DCD6500), (0x12, leBytes 2 468), (0x14, leBytes 4 96412), (0x18, leBytes 4 4805), (0x30, leBytes 4 0x18300107), (0x34, leBytes 2 17)] false 0
    (leAt b 0 8, leAt b 8 8, leAt b 0x10 8, leAt b 0x18 4, leAt b 0x30 8, leAt b 0x38 8) =
      (0x00201E0300005A31, 0x6A1B3C401DCD6500, 0x1789C01D40000, 0x12C5, 0x1118300107, 0x800000001ED733E0) := by decide +kernel

/-! States to start from. -/

/-- A running module over a live host link. -/
def up : State :=
  { State.reset with
    clock := { State.reset.clock with st := .onA, aEnabled := true }
    power := { State.reset.power with good := true, bulk := true, perst := false }
    hif := { State.reset.hif with linkUp := true } }

/-- The same with one register at a value. -/
def upWith (a : Nat) (v : W32) : State := up.setReg a v

/-- The same with PF0 a bus master. -/
def upHost : State := up.setFn 0 { up.fn 0 with bme := true }

/-- The same with PF0 in D3hot. -/
def upD3 : State := up.setFn 0 { up.fn 0 with d3 := true, pmeEn := true, pmeStatus := true }

/-- The next state of an outcome. -/
def after (o : Host.Outcome State Fault Refusal) : State :=
  match o with
  | .next t => t
  | _ => State.reset

/-- Bytes at a local address of HBM. -/
def putHbm (a : Nat) (bs : List Byte) (s : State) : State :=
  (((span a bs.length).zip bs).filter fun e => e.2 != 0).foldl (fun s e => s.setHbmByte e.1 e.2) s

/-- Ring 0 as a ring of `kind` (0 DMA, 1 COMMAND) in HBM at 0x10000, running, with these bytes as its only entry. -/
def ringOf (kind : Nat) (bs : List Byte) (s : State) : State :=
  let s := (s.setReg (RING_CFG 0) (BitVec.ofNat 32 (kind + 8 + 4 * 16))).setReg (RING_BASE_LO 0) 0x10000
  let s := (s.setB (hCTL (pgRING 0)) 0 true).setReg (RING_TAIL 0) 1
  putHbm 0x10000 bs s

/-- A job of a type with some of its bytes set, its record in HBM. -/
def job (typ : Byte) (fields : List (Nat × Byte)) : List Byte :=
  fields.foldl (fun b e => b.set e.1 e.2) ([typ, 1] ++ List.replicate 126 0)

/-! Registers. -/

theorem witness_StepRunsFront : ({ up with pending := [.nop 0] } : State).pending = [.nop 0] := rfl

theorem test_step_takes_the_front : after (step { up with pending := [.holdTimeout, .nop 0] }) = { up with pending := [.nop 0] } := by decide +kernel

theorem witness_IdleStep : State.reset.pending = [] ∧ up.pending = [] ∧ up.running = true := by decide +kernel

theorem test_idle_step_counts : (after (step up)).uptime = 1 ∧ after (step State.reset) = State.reset := by decide +kernel

theorem witness_EveryStepKeepsThePart : State.reset.memWf ∧ (ringOf 1 (job 9 []) up).memWf := by unfold State.memWf; decide +kernel

theorem test_reset_registers : State.reset.reg (POOL_GEN 0) = 1 ∧ State.reset.reg (hCTL pgCKG) = 1 ∧ State.reset.reg (FLT_ACT 0) = regDefault (FLT_ACT 0) := by decide +kernel

theorem witness_PagesTurnedAway :
    up.clocked = true ∧ up.hif.linkUp = true ∧ up.d0 0 = true ∧
      (∀ a ∈ [0x30000, 0x3003C, 0x30040, 0x30FFC], a < 0x1000000 ∧ a % 4 = 0 ∧ (pageInfo (a / 0x1000)).isSome = true ∧
        (up.setBusy 0x30 true).gated (a / 0x1000) = false ∧ (up.setBusy 0x30 true).busy (a / 0x1000) = true) ∧
      (pageInfo 0x200).isSome = true ∧ up.gated 0x200 = true ∧ upD3.clocked = true ∧ upD3.hif.linkUp = true ∧ upD3.d0 0 = false := by decide +kernel

theorem test_resetting_body_reads_zero : (after (exec (.counterReadClear pf ⟨0x30040, 4⟩) (up.setBusy 0x30 true))).outbox = [.readData 0] := by decide +kernel

theorem witness_HeaderWrites : up.servedHdr pf pgDEV = true ∧ up.servedHdr pf pgFLT = true ∧ up.servedHdr (.agent 41) (pgRING 255) = true := by decide +kernel

theorem test_evt_set_keeps_the_pages_events : (after (exec (.evtSet pf 0 0xFFFFFFFF) up)).reg (hEVT pgDEV) = evtMaskOf pgDEV := by decide +kernel

/-- A row of the register table, at an address. -/
def rowOf (a : Nat) : Option (Block × RegRow) := (pageInfo (a / 0x1000)).bind fun r => (rowAt r.1.block (a % 0x1000)).map fun row => (r.1.block, row)

theorem witness_CountersAndPairs :
    ((rowOf (TPT_WIN_REJ 7)).any fun e => decide (e.1 = .tpt) && decide (e.2.pair = 0) && decide (e.2.rc ≠ 0)) = true ∧ up.served pf (pgTPT 7) = true ∧
      ((rowOf DEV_PTM_ROOT_LO).any fun e => decide (e.1 = .dev) && decide (e.2.pair = 1)) = true ∧ up.served pf pgDEV = true ∧
      (after (exec (.pairLoWrite pf DEV_BAR2_BASE_LO 5) up)).loOf DEV_BAR2_BASE_LO = some 5 ∧ up.clocked = true ∧ up.hif.linkUp = true ∧ up.d0 0 = true := by decide +kernel

theorem test_partial_writes_saturate :
    (after (exec (.bar0PartialWrite 0 0x50 14 0) (upWith DEV_ACC_ERR 0xFFFF))).f DEV_ACC_ERR 15 0 = 65535 ∧
      (after (exec (.bar0PartialWrite 0 0x50 14 0) up)).f DEV_ACC_ERR 15 0 = 1 := by decide +kernel

/-! Blocks, resets and the host link. -/

theorem witness_Blocks :
    up.servedHdr pf (pgRING 5) = true ∧ up.busy (pgRING 5) = false ∧ ctlMode (pgRING 5) = .host ∧ up.bit (hCTL (pgRING 5)) 0 = false ∧ up.pageActive (pgRING 5) = false ∧
      (up.setB (hCTL (pgRING 5)) 0 true).bit (hCTL (pgRING 5)) 0 = true ∧
      (up.setDrain (pgRING 5) true).inDrain (pgRING 5) = true ∧ (up.ring 5).descs = [] ∧ (up.ring 5).stream = none ∧
      (up.setDrain (pgTPT 3) true).inDrain (pgTPT 3) = true ∧ (up.port 3).queue = [] ∧
      (up.setBusy 0x224 true).busy 0x224 = true ∧ (up.setBusy 0x1FF true).busy 0x1FF = true := by decide +kernel

theorem test_drain_of_an_idle_ring_ends : (after (exec (.blockDrainDone 0x105) (up.setDrain (pgRING 5) true))).inDrain (pgRING 5) = false := by decide +kernel

theorem witness_WarmResets : up.served pf pgDEV = true ∧ fld (0x1A5 : W32) 7 0 = 0xA5 ∧ bitAt (0x1A5 : W32) 8 = true ∧ ({ up with resetReq := some 4 } : State).resetReq = some 4 ∧ up.running = true := by decide +kernel

theorem witness_WarmClearKeeps : RING_TAIL 0 ≠ HDG_BIST 0 ∧ keptWarm (RING_TAIL 0) = false ∧ keptWarm DEV_SERIAL_LO = true := by decide +kernel

/-- `up` with its host link down. -/
def linkless : State := { up with hif := { up.hif with linkUp := false } }

theorem witness_HostLink :
    linkless.clocked = true ∧ linkless.hif.linkUp = false ∧ linkless.power.perst = false ∧ linkless.hif.width ≠ 0 ∧ linkless.clock.st ≠ .onB ∧ up.power.perst = false ∧
      up.running = true ∧ up.resetReq = none ∧ (upWith DEV_HOSTCTL 1).hostOnly = true ∧ up.hif.linkUp = true := by decide +kernel

/-- `up` with VFs 1 to 7, and with a PTM dialogue. -/
def vfs : State := { up with hif := { up.hif with vfEnable := true, numVFs := 7 } }

theorem witness_FunctionConfiguration :
    vfs.fnExists 0 = true ∧ vfs.fnExists 7 = true ∧ vfs.fnExists 8 = false ∧ vfs.vfExists 1 = true ∧ vfs.vfExists 7 = true ∧ vfs.hif.readyIn = 0 ∧ ({ vfs with hif := { vfs.hif with readyIn := 1 } } : State).hif.readyIn ≠ 0 ∧ (30 : Nat) ≤ 38 ∧
      up.served pf pgDEV = true ∧ up.bit DEV_PTM_CTL 0 = false ∧ ({ up with hif := { up.hif with ptm := some up.mtc.time } } : State).hif.ptm = some up.mtc.time := by decide +kernel

theorem test_flr_ends_bus_mastering : ((after (exec (.flr 7) (vfs.setFn 7 { vfs.fn 7 with bme := true }))).fn 7).bme = false := by decide +kernel

theorem witness_Bar2Accesses : up.bar2Window 0 = some (0, 2 ^ 30) ∧ up.d0 0 = true ∧ (2 ^ 30 - 1) + 1 ≤ 2 ^ 30 := by decide +kernel

theorem test_bar2_reads_hbm : (after (exec (.bar2Access 0 0x10000 2 none) (ringOf 1 (job 9 []) up))).outbox = [.bar2Data [9, 1] false] := by decide +kernel

/-! Rings and jobs. -/

theorem witness_RingRegisters :
    up.served pf (pgRING 255) = true ∧
      (let s := (upWith (RING_CBUF_CFG 0) 12).setReg (RING_CBUF_WR 0) 100
       let z := s.cbufSize 0
       let here (v : Nat) := (v + z - s.cbufRd 0 % z) % z ≤ (s.cbufWr 0 + z - s.cbufRd 0 % z) % z
       s.served pf (pgRING 0) = true ∧ z = 4096 ∧ here 0 ∧ here 100 ∧ ¬ here 101 ∧ ¬ here 4095) ∧
      up.pageActive (pgRING 0) = false ∧ up.bit (hCTL (pgRING 0)) 0 = false ∧ up.owner 0 ≠ 7 ∧ (up.ringsOf 7).length < 8 ∧
      (ringOf 1 (job 9 []) up).bit (hCTL (pgRING 0)) 0 = true ∧
      (vfs.setReg (RING_CFG 0) 0x10000).served (.pcie 1) (pgRING 0) = true := by decide +kernel

theorem test_doorbell_takes_the_low_bits : (after (exec (.ringDoorbell pf 0 0xFFFF) (upWith (RING_CFG 0) 0x48))).ringTail 0 = 15 := by decide +kernel

/-- An unordered descriptor: host 0x2000 to HBM 0x3000, 64 bytes; and one of no bytes. -/
def descBytes (len dctl : Nat) : List Byte := leBytes 8 0x2000 ++ leBytes 8 0x3000 ++ leBytes 4 len ++ leBytes 4 dctl ++ List.replicate 8 0

theorem witness_Descriptors :
    (let b := descBytes 64 0x2201
     let s := ringOf 0 b up
     let t := s.setRing 0 { s.ring 0 with descs := [{ index := 0, bytes := b, started := true }] }
     s.mayFetch 0 = true ∧ s.ringKind 0 = 0 ∧ s.classTurn 0 = true ∧ t.classTurn 0 = true ∧ s.fetchEntry 0 (s.fetchIndex 0) = .ok b ∧ t.clocked = true ∧ (t.descAt 0 0).isSome = true ∧
       (t.descAt 0 0).all (fun d => d.started && d.xfer.waits == 0 && d.xfer.err == 0 && t.errFits 0 d .nocGated && t.errFits 0 d .bmeOff) = true) ∧
    (let ring (b : List Byte) : State := { (ringOf 0 [] upHost).setReg (RING_CFG 0) 0x40 with host := ((span 0x10000 32).zip b).filter fun e => e.2 != 0 }
     (∀ p ∈ [(64, 0), (0, 1)],
       let b := descBytes p.1 0x201
       (ring b).mayFetch 0 = true ∧ (ring b).ringKind 0 = 0 ∧ (ring b).classTurn 0 = true ∧ (ring b).ringLocal 0 = false ∧ (ring b).fetchEntry 0 ((ring b).fetchIndex 0) = .ok b ∧
         (Desc.dctl { index := 0, bytes := b }).order = false ∧ (ring b).descCheck 0 { index := 0, bytes := b } = p.2) ∧
       (ring []).fetchErr 0 0 5 = some 5 ∧ (ring []).fetchErr 0 0 14 = some 14) ∧
    (let s := (ringOf 0 [] up).setReg (RING_BASE_HI 0) 0xFFFF
     s.mayFetch 0 = true ∧ s.fetchErr 0 0 0 = some 11) := by decide +kernel

/-- A FENCE that waits in ring 0, writing or not. -/
def fencing (wr : Bool) : State := up.setRing 0 { up.ring 0 with fenceWait := some ({}, wr, true, 0x4000, 7), openJobs := [{}] }

theorem witness_NopFenceAndRefusals_due :
    ∀ b ∈ [job 9 [], job 10 [(0x10, 3)]], (ringOf 1 b up).nextJob 0 = some b ∧ (leAt b 0 1 = 9 ∨ leAt b 0 1 = 10) ∧ (ringOf 1 b up).jobCheck 0 b = 0 := by decide +kernel

theorem witness_NopFenceAndRefusals_waiting :
    ∀ w ∈ [false, true], (fencing w).clocked = true ∧ ((fencing w).ring 0).fenceWait = some ({}, w, true, 0x4000, 7) ∧ ((fencing w).ring 0).openJobs = [{}] ∧ ((fencing w).ring 0).held = [] := by decide +kernel

theorem witness_NopFenceAndRefusals_refused :
    (∀ typ ∈ ([0, 11, 255] : List Byte), (ringOf 1 (job typ []) up).nextJob 0 = some (job typ [])) ∧
    (∀ typ ∈ ([1, 2, 3, 4, 6, 9, 10] : List Byte), (ringOf 1 (job typ [(0x7F, 1)]) up).nextJob 0 = some (job typ [(0x7F, 1)]) ∧
      (ringOf 1 (job typ [(0x7F, 1)]) up).jobCheck 0 (job typ [(0x7F, 1)]) ≠ 0) := by decide +kernel

theorem test_fence_writes : (after (exec (.fenceComplete 0) (fencing true))).hbmByte 0x4000 = 7 := by decide +kernel
theorem test_nop_moves_the_head : (after (exec (.nop 0) (ringOf 1 (job 9 []) up))).ringHead 0 = 1 := by decide +kernel
theorem test_bad_type : (after (exec (.jobBadType 0) (ringOf 1 (job 11 [(9, 0x80)]) up))).hbmBytes 0x803C 4 = [0x20, 0, 0, 0x80] := by decide +kernel

theorem witness_RecordInHostMemory :
    let j : JobRef := { ring := 0, typ := 9, tag := 1, statusLocal := false, statusAddr := 0x40 }
    j.statusLocal = false ∧ j.statusAddr.toNat % 64 = 0 ∧ upHost.hif.linkUp = true ∧ (upHost.fn (upHost.owner j.ring)).bme = true ∧ upHost.d0 (upHost.owner j.ring) = true ∧
      (∀ e ∈ [(0x36, leBytes 2 1)], e.1 + e.2.length ≤ 0x38) := by decide +kernel

/-! Sessions. -/

/-- A descriptor of a HOST decode session: AVC baseline, 128 x 128, 60 pictures a second, reference pool 6, output pool 6. -/
def decDesc : List Byte :=
  ([(0, 1), (2, 1), (5, 40), (7, 1), (8, 8), (0xC, 128), (0xE, 128), (0x10, 60), (0x12, 1), (0xA2, 6), (0xA3, 6)] : List (Nat × Byte)).foldl (fun b e => b.set e.1 e.2) (List.replicate 256 0)

/-- `up` with memory ready, the decode image of AVC in the store and pool 6 of 1 MiB buffers. -/
def ready : State :=
  let s := ((up.setB (hSTAT pgDEV) 4 true).setReg (POOL_CFG 6) (1 + 4 + 8 + 20 * 16)).setReg (POOL_COUNT 6) 4
  let s := ((s.setReg (POOL_BASE_LO 6) 0x1000000).setReg POOL_META_BASE_LO 0x40000000)
  { s with store := { s.store with slots := [(2, some (1, List.replicate 512 0))] } }

/-- Ring 0 with one SESSION_OPEN job whose descriptor `d` lies in HBM at 0x5000. -/
def opening (d : List Byte) : State := putHbm 0x5000 d (ringOf 1 (job 1 [(0x11, 0x50), (0x18, 1)]) ready)


/-- What SESSION_OPEN reads for a job `b`, and the verdict on it: 0 where the session opens. -/
def verdict (s : State) (b : List Byte) : Nat × Nat :=
  let x := (s.jobTaken 0 b).jobRead 0 (leAt b 0x18 1 == 1) (leAt b 0x10 8) 256
  (x.1, ((s.jobTaken 0 b).openCheck 0 0 x.2).elim (fun _ => 0) fun e => e.1)

theorem witness_SessionJobs_open :
    let b := job 1 [(0x11, 0x50), (0x18, 1)]
    let far := job 1 [(0x15, 0xFF), (0x18, 1)]
    let s := ringOf 1 far ready
    (opening decDesc).nextJob 0 = some b ∧ leAt b 0 1 = 1 ∧ (opening decDesc).jobCheck 0 b = 0 ∧ (opening decDesc).jobHostWaits 0 false = false ∧
      verdict (opening decDesc) b = (0, 0) ∧ (verdict (opening []) b).1 = 0 ∧ (verdict (opening []) b).2 ≠ 0 ∧
      s.nextJob 0 = some far ∧ s.jobCheck 0 far = 0 ∧ (verdict s far).1 ≠ 0 := by decide +kernel

theorem test_session_opens : ((after (exec (.sessionOpen 0) (opening decDesc))).sess 0).phase = .opened := by decide +kernel

/-- Session 0 open for function 0, with a command in ring 0. -/
def opened (b : List Byte) : State := (ringOf 1 b ready).setSess 0 { ready.sess 0 with phase := .opened, desc := decDesc }

theorem witness_SessionJobs_close :
    (∀ abort ∈ ([0, 1] : List Byte), (opened (job 2 [(0x10, abort)])).nextJob 0 = some (job 2 [(0x10, abort)]) ∧
      (opened (job 2 [(0x10, abort)])).jobCheck 0 (job 2 [(0x10, abort)]) = 0) ∧
    (let s := up.setSess 0 { up.sess 0 with phase := .closing }
     s.clocked = true ∧ (s.sess 0).closeReady = true) := by decide +kernel

/-! Buffer pools. -/

/-- Pool 6, NAMED or SHARED, `n` of its four buffers allocated, buffer 0 with this record. -/
def poolOf (named : Bool) (n : Nat) (b : Buf) : State :=
  let s := (ready.setB (POOL_CFG 6) 2 named).setPool 6 { ready.pool 6 with nextNew := n, live := n }
  s.setBuf (bufKey 6 0) b

/-- The handle of buffer 0 of pool 6, in its first generation. -/
def h60 : W32 := mkHandle 6 1 0

theorem witness_Allocations :
    (let s := poolOf true 0 {}
     s.clocked = true ∧ s.busy pgPOOL = false ∧ s.poolEn 6 = true ∧ s.poolNamed 6 = true ∧ (s.pool 6).waiters.length < s.poolFree 6 ∧
       nextFree s 6 ((s.pool 6).gone + 1) (s.pool 6).nextNew = some 0 ∧ s.recPoisoned 6 0 = false) ∧
    (let s := poolOf false 4 {}
     s.clocked = true ∧ s.busy pgPOOL = false ∧ s.poolEn 6 = true ∧ (255 : Nat) ≤ 255 ∧ s.poolFree 6 ≤ (s.pool 6).waiters.length ∧ (s.pool 6).waiters.length < 64) := by decide +kernel

theorem test_alloc : ((after (exec (.alloc (.agent 40) 6 1 false) (poolOf true 0 {}))).outbox = [.poolHandle 40 h60]) := by decide +kernel

theorem witness_ReferencesAndOwnership :
    (∀ c ∈ [1, 2, 254],
      let s := poolOf false 1 { live := true, count := c, holders := [(40, c)] }
      s.clocked = true ∧ s.busy pgPOOL = false ∧ s.handleErr h60 = none ∧ s.recPoisoned (hPool h60) (hIndex h60) = false ∧ (s.hbuf h60).count = c ∧
        s.poolNamed (hPool h60) = false ∧ (s.hbuf h60).subs = []) ∧
    (∀ c ∈ [0, 1],
      let s := poolOf true 1 { live := true, count := c, owner := 40 }
      s.handleErr h60 = none ∧ s.recPoisoned (hPool h60) (hIndex h60) = false ∧ s.poolNamed (hPool h60) = true ∧ (s.hbuf h60).owner = 40 ∧
        (s.hbuf h60).freePending = false ∧ (s.hbuf h60).count = c ∧ (s.hbuf h60).subs = []) := by decide +kernel

theorem test_last_release_frees : ((after (exec (.release (.agent 40) h60) (poolOf false 1 { live := true, count := 1, holders := [(40, 1)] }))).hbuf h60).live = false := by decide +kernel

theorem witness_PoolJobs :
    ∀ op ∈ ([0, 1, 2, 3, 4, 5] : List Byte),
      let b := job 8 [(0x10, op), (0x11, 6), (0x13, 1)]
      let s := ringOf 1 b (poolOf true 0 {})
      s.nextJob 0 = some b ∧ leAt b 0 1 = 8 ∧ s.jobCheck 0 b = 0 ∧ s.busy pgPOOL = false ∧ leAt b 0x10 1 = op.toNat ∧ bitIn b 0x12 0 = false := by decide +kernel

/-- A blocking ALLOC finds a buffer, or waits. -/
theorem witness_PoolJobs_blocking :
    let b := job 8 [(0x11, 6), (0x12, 1), (0x13, 1)]
    let s (n : Nat) := ringOf 1 b (poolOf true n {})
    (∀ n ∈ [0, 4], (s n).nextJob 0 = some b ∧ leAt b 0 1 = 8 ∧ (s n).jobCheck 0 b = 0 ∧ bitIn b 0x12 0 = true) ∧
      (let u (n : Nat) := (s n).jobTaken 0 b
       let w (n : Nat) : Waiter := { agent := (u n).ringAgent 0, count := leAt b 0x13 1, job := some (jobRefOf 0 b) }
       ((u 0).poolBlocking (w 0) 6).2.isSome = true ∧ ((u 4).poolBlocking (w 4) 6).2.isNone = true) := by decide +kernel

theorem witness_ReclaimsAndWaiters :
    (let s := poolOf true 0 {}
     s.poolOn 6 = true ∧ (s.pool 6).scan = none) ∧
    (let s := up.setPool 6 { up.pool 6 with scan := some (40, none, 0) }
     s.clocked = true ∧ s.busy pgPOOL = false ∧ (s.pool 6).scan = some (40, none, 0)) ∧
    (let s := (poolOf true 3 {}).setPool 6 { nextNew := 3, live := 3, waiters := [{ agent := 40, count := 1 }] }
     s.clocked = true ∧ s.busy pgPOOL = false ∧ (s.pool 6).waiters = [{ agent := 40, count := 1 }] ∧ nextFree s 6 ((s.pool 6).gone + 1) (s.pool 6).nextNew = some 3 ∧
       s.recPoisoned 6 3 = false) := by decide +kernel

theorem witness_PoolsEnableAndLines :
    (let s := ready.setB (POOL_CFG 6) 0 false
     s.served pf (poolPage 6) = true ∧ s.poolEn 6 = false ∧ s.poolActive 6 = false ∧ s.poolCheck 6 = 0 ∧
       (s.setReg (POOL_COUNT 6) 0).poolEn 6 = false ∧ (s.setReg (POOL_COUNT 6) 0).poolActive 6 = false ∧ (s.setReg (POOL_COUNT 6) 0).poolCheck 6 ≠ 0) ∧
    ready.served pf (poolPage 6) = true ∧ ready.poolEn 6 = true ∧ (ready.pool 6).waiters = [] ∧
    (let s := poolOf true 1 { live := true, owner := 40, producer := some 40, linesDone := 10, subs := [(41, 12)] }
     s.clocked = true ∧ s.busy pgPOOL = false ∧ s.handleErr h60 = none ∧ s.recPoisoned (hPool h60) (hIndex h60) = false ∧ s.poolFrame (hPool h60) = true ∧
       (s.hbuf h60).producer = some 40) := by decide +kernel

theorem test_lines_never_go_back :
    (after (exec (.linesDoneAdvance 40 h60 5 false) (poolOf true 1 { live := true, owner := 40, producer := some 40, linesDone := 10 }))).hbuf h60 =
      { live := true, owner := 40, producer := some 40, linesDone := 10 } := by decide +kernel

/-! Encoding, slices and hedges. -/

/-- A descriptor of an encode session: AVC baseline, 128 x 128, 60 pictures a second; the given bytes differ. -/
def encDesc (fields : List (Nat × Byte)) : List Byte :=
  (([(0, 1), (5, 40), (7, 1), (8, 8), (0xC, 128), (0xE, 128), (0x10, 60), (0x12, 1)] : List (Nat × Byte)) ++ fields).foldl (fun b e => b.set e.1 e.2) (List.replicate 256 0)

/-- Session 0 with these pictures, in hedge 0, which is on with core 0 holding the AVC encode image. -/
def encoding (d : List Byte) (pics : List EncPic) (s : State) : State :=
  let s := (s.setB (hCTL (pgHDG 0)) 0 true).setDomain 0 true
  let s := s.setSeq 0 { s.seq 0 with bankA := { st := 2, source := 1, pers := 1 } }
  s.setSess 0 { s.sess 0 with phase := .opened, desc := d, parts := [(0, 10, 128)], pics := pics }

/-- A picture without a source, of one job in this phase. -/
def picWith (phase : JobPhase) (pin : Option Nat) : EncPic := { started := true, jobs := [{ units := 32, pin := pin, phase := phase }] }

/-- ENCODE_PICTURE on buffer 0 of pool 6 with EP_FLAGS `x`, for a session with SRC_BIND `d`. -/
def epJob (x : Byte) : List Byte := job 3 [(0x12, 0x10), (0x13, 0x18), (0x14, x)]
def epState (x d : Byte) : State := encoding (encDesc [(0x18, d)]) [] (ringOf 1 (epJob x) (poolOf false 1 { live := true, count := 1, holders := [(40, 1)] }))

theorem witness_Encoding_host : (epState 1 0).nextJob 0 = some (epJob 1) ∧ (epState 1 0).jobCheck 0 (epJob 1) = 0 ∧ (epState 1 0).hedgeOff 0 = false := by decide +kernel
theorem witness_Encoding_bound : (epState 0 1).nextJob 0 = some (epJob 0) ∧ (epState 0 1).jobCheck 0 (epJob 0) = 0 ∧ (epState 0 1).hedgeOff 0 = false := by decide +kernel
theorem witness_Encoding_mismatch : (epState 1 1).nextJob 0 = some (epJob 1) ∧ (epState 1 1).jobCheck 0 (epJob 1) = 0 := by decide +kernel

theorem witness_Encoding_cases :
    (bitIn (epJob 0) 0x14 0 = false ∧ bitIn (epJob 1) 0x14 0 = true ∧ encBound (encDesc [(0x18, 0)]) = false ∧ encBound (encDesc [(0x18, 1)]) = true) ∧
    ((epState 1 0).setB (hCTL (pgHDG 0)) 0 false).hedgeOff 0 = true := by decide +kernel

theorem witness_Encoding_sources :
    (match ((epState 1 0).poolAddref ((epState 1 0).sessAgent 0) h60).2, (up.poolAddref (up.sessAgent 0) h60).2 with
     | .ok _ _, .err _ => true
     | _, _ => false) = true := by decide +kernel

theorem witness_Encoding_pictures :
    (let s := encoding (encDesc [(0x9A, 1), (0x44, 1)]) [] up
     s.clocked = true ∧ (s.sess 0).phase ≠ .closed ∧ hasEnc (s.sess 0).desc = true ∧ (s.sess 0).prepassDepth ≠ 0) ∧
    (let s := encoding (encDesc []) [{ src := h60 }] up
     let u := s.ladderTake 0
     s.clocked = true ∧ (u.sess 0).phase ≠ .closed ∧ hasEnc (u.sess 0).desc = true ∧ u.hedgeOff 0 = false ∧ u.espOf 0 = none ∧
       ((u.sess 0).pics.find? fun p => !p.started).any (fun p => p.waiting.isNone && (u.sess 0).mayStart p) = true) ∧
    (let s := encoding (encDesc []) [picWith .waiting none] up
     (s.encJob 0 0 0).any (fun e => e.1.started && decide (e.2.phase = .waiting) && decide (e.2.hedge < 4) && s.rowHere 0 e.1 (e.2.firstRow + e.2.rows - 1) &&
       !(s.motionOf 0 e.1).any (fun m => m.buf == 0) && decide (s.missingRecords 0 e.1 e.2 = [])) = true ∧ s.espSilent 0 = false) ∧
    (let s := encoding (encDesc [(0xA, 1)]) [picWith .waiting none] up
     let s := s.setSess 0 { s.sess 0 with motions := [{ buf := h60, codec := 1, w := 128, h := 128 }], srcGeom := (128, 128, 3) }
     (s.encJob 0 0 0).any (fun e => e.1.started && decide (e.2.phase = .waiting) && decide (e.2.hedge < 4) && s.rowHere 0 e.1 (e.2.firstRow + e.2.rows - 1) &&
       decide (s.missingRecords 0 e.1 e.2 ≠ [])) = true) := by decide +kernel

theorem witness_CoresRunJobs :
    (let s := encoding (encDesc []) [picWith .ready none] up
     s.clocked = true ∧ s.coreFree 0 = true ∧ (firstCand (s.encCands 0 ++ s.decCands 0)).any (fun x => decide (s.resident 0 x.pers ≠ .absent)) = true) ∧
    (let s := encoding (encDesc []) [picWith .waiting (some 0)] up
     s.coreFree 0 = true ∧ s.stripJob 0 = some (0, 0, 0)) ∧
    (∀ n ∈ [0, 1],
      let s := encoding (encDesc []) [{ picWith .running (some 0) with jobs := [{ units := 32, phase := .running, done := List.replicate n {} }] }] up
      let s := s.setCore 0 { s.core 0 with job := some (0, 0, 0) }
      (s.core 0).job = some (0, 0, 0) ∧
        (s.encJob 0 0 0).any (fun e => s.sidesReady 0 e.1 e.2 && decide (e.2.phase = .running) && decide (e.2.done.length = n) && decide (e.2.rows = 1) &&
          s.rowHere 0 e.1 (e.2.firstRow + n) && s.aboveReady 0 e.1 e.2) = true) ∧
    (let s := encoding (encDesc []) [picWith .paused none] up
     let u := s.modJob 0 0 0 fun j => { j with phase := .ready }
     (s.encJob 0 0 0).any (fun e => decide (e.2.phase = .paused) && s.rowHere 0 e.1 (e.2.firstRow + e.2.done.length) && s.sidesReady 0 e.1 e.2) = true ∧ (0 : Nat) < decBase ∧
       ((span 0 9).find? fun c => u.coreFree c && u.resident c (persOf (mainStream (u.sess 0).desc).codec false) != .absent) = some 0) := by decide +kernel

/-- A slice queue word that ends slice 0 of picture 0 of session 0. -/
def lastWord : SqWord := { data := List.replicate 32 0, endMark := true }

theorem witness_SliceQueues :
    (let s := up.setCore 0 { up.core 0 with prod := [lastWord], credits := 0 }
     s.clocked = true ∧ (s.core 0).cons = [] ∧ (s.core 0).prod ≠ [] ∧ (s.core 0).credits = 0 ∧ (s.core 0).prod.any SqWord.endMark = true) ∧
    (let s := encoding (encDesc []) [picWith .done none] up
     let s := s.setCore 0 { s.core 0 with staged := [lastWord] }
     s.stagedNext 0 = some [lastWord]) ∧
    (let s := encoding (encDesc [(0x25, 9)]) [] up
     let s := s.setCore 0 { s.core 0 with cur := some (List.replicate 32 0) }
     s.stagedNext 0 = none ∧ s.bankRing 0 = some 9) := by decide +kernel

theorem test_bank_swap_returns_credits : ((after (exec (.sqTimeout 0) (up.setCore 0 { up.core 0 with prod := [lastWord], credits := 1023 }))).core 0).credits = 1024 := by decide +kernel

theorem witness_HedgeRegisters :
    up.served pf (pgHDG 3) = true ∧ (up.hedge 3).promo = none ∧ ((up.setHedge 3 { up.hedge 3 with promo := some {} }).hedge 3).promo ≠ none ∧
      up.dvfsRefused 3 0 = false ∧ up.dvfsRefused 3 5 = false ∧ fld (0x4A07 : W32) 15 8 ≠ 0x5A ∧
      (∀ slot ∈ [0, 7], up.role 3 slot = 0) ∧ fld (0x5A07 : W32) 15 8 = 0x5A ∧ (up.spareOf 3).isSome = true ∧
      (let s := (up.setRole 3 8 2).setCore 35 { up.core 35 with test := some true }
       fld (0x5A08 : W32) 3 0 = 8 ∧ s.role 3 8 = 2 ∧ (s.core 35).test = some true ∧ (s.hedge 3).bist ≠ some 8 ∧ s.spareOf 3 = none ∧ 2 ≤ s.role 3 8 ∧ (s.hedge 3).bist = none) ∧
      ((span 0 8).countP fun i => bitAt (0x81 : W32) i) = 2 := by decide +kernel

theorem test_dvfs_write : (after (exec (.hdgDvfsWrite pf 3 7) up)).f (HDG_DVFS 3) 2 0 = 5 := by decide +kernel

theorem witness_HedgeEvents :
    up.clocked = true ∧
      (∀ slot ∈ [0, 8], ((up.setHedge 0 { up.hedge 0 with bist := some slot }).hedge 0).bist = some slot) ∧
      ((up.setHedge 0 { up.hedge 0 with promo := some {} }).hedge 0).promo = some {} ∧ up.bit (HDG_DVFS 0) 7 = false ∧
      (let s := up.setHedge 0 { up.hedge 0 with hostPromote := some 1 }
       (s.hedge 0).hostPromote = some 1 ∧ s.spareOf 0 = some 8 ∧ (s.core 1).job = none ∧ (s.hedge 0).promo = none ∧ s.coreRole 1 = 0) := by decide +kernel

theorem test_failed_self_test : (after (exec (.bistDone 0 false) ((up.setRole 0 8 2).setHedge 0 { up.hedge 0 with bist := some 8 }))).role 0 8 = 3 := by decide +kernel

/-! Decoding. -/

/-- Session 0 as an open decode session in hedge 0. -/
def decoding (x : Sess) (s : State) : State :=
  (s.setB (hCTL (pgHDG 0)) 0 true).setSess 0 { x with phase := .opened, decParts := [(0, 10, 128)] }

/-- DECODE_UNIT of 2^16 hi + lo bytes of buffer 0 of pool 6, whose buffers hold 1 MiB. -/
def duJob (hi lo : Byte) : List Byte := job 4 [(0x12, 0x10), (0x13, 0x18), (0x18, lo), (0x1A, hi)]
def duState (hi lo : Byte) : State := decoding { desc := decDesc } (ringOf 1 (duJob hi lo) (poolOf true 1 { live := true, owner := 64 }))

theorem witness_Decoding_unit : (duState 16 0).nextJob 0 = some (duJob 16 0) ∧ (duState 16 0).jobCheck 0 (duJob 16 0) = 0 ∧ leAt (duJob 16 0) 0x18 4 = (duState 16 0).poolSize 6 := by decide +kernel
theorem witness_Decoding_outside : (duState 16 1).nextJob 0 = some (duJob 16 1) ∧ leAt (duJob 16 1) 0 1 = 4 ∧ leAt (duJob 16 1) 0x18 4 = (duState 16 1).poolSize 6 + 1 := by decide +kernel
theorem witness_Decoding_hedge : (duState 16 0).hedgeOff 0 = false ∧ ((duState 16 0).setB (hCTL (pgHDG 0)) 0 false).hedgeOff 0 = true := by decide +kernel

theorem witness_Decoding_pictures :
    (∀ last ∈ [false, true],
      let s := decoding { desc := decDesc, units := [{}], dpb := [{ idx := 3, handle := h60 }] } up
      let w := s.lossUnits 0 (s.sess 0).units.length
      s.clocked = true ∧ w.clocked = true ∧ (w.sess 0).units = [{}] ∧ (w.sess 0).phase = .opened ∧ hasDec (w.sess 0).desc = true ∧ w.hedgeOff 0 = false ∧ (w.sess 0).refRoom = true ∧
        ∀ i ∈ (slice1 [3, 9] last).list0 ++ (slice1 [3, 9] last).list1, (w.sess 0).refState i ≠ .partly) ∧
    (let p : DecPic := { width := 128, height := 128, cell := 64, tiles := [2], out := h60 }
     let s := decoding { desc := decDesc.set 0xA4 1, dec := [{ p with cells := [0, 0, 2, 2], closed := true }, { p with idx := 1, cells := [0, 0, 0, 0] }] } up
     (s.decPic 0 0).any (fun p => p.concealable.isSome) = true ∧ outDelay (s.sess 0).desc ≠ 0 ∧
       ((s.decPic 0 0).bind fun p => p.missing.head?).isSome = true) ∧
    (let p : DecPic := { width := 128, height := 128, cell := 64, tiles := [2], out := h60, cells := [1, 1, 1, 1] }
     let s := decoding { desc := decDesc.set 0xA4 1, dec := [p] } up
     ∀ row ∈ [0, 1],
       let cells (p : DecPic) : List Nat := (List.range p.cells.length).filter fun c => p.rowOf c == row && p.state c == 1 && !p.late.contains c
       outDelay (s.sess 0).desc ≠ 0 ∧ (s.sess 0).dec.find? (fun p => p.out != 0 && !(cells p).isEmpty) = some p) := by decide +kernel

/-! Composer. -/

/-- A COMPOSE_CONFIG job for pipe 1 with one entry (TARGET, OFFSET, value), at 0x6000 of HBM. -/
def ccJob : List Byte := job 5 [(0x10, 1), (0x11, 1), (0x12, 1), (0x19, 0x60)]
def ccState (target off : Nat) : State := putHbm 0x6000 (leBytes 2 target ++ leBytes 2 off ++ leBytes 4 5) (ringOf 1 ccJob (up.setDomain 42 true))
def ccRun (target off : Nat) : Nat × Nat :=
  let v := (ccState target off).jobTaken 0 ccJob
  let x := v.jobRead 0 true (leAt ccJob 0x18 8) 8
  (x.1, (v.entriesRun 1 x.2 0 1).elim (fun _ => 0) fun e => e.2)

theorem witness_ComposeJobs_config :
    (ccState 0 0x58).nextJob 0 = some ccJob ∧ (ccState 0 0x58).jobCheck 0 ccJob = 0 ∧ (ccState 0 0x58).jobHostWaits 0 false = false ∧
      ((ccState 0 0x58).jobTaken 0 ccJob).pipeAbsent 1 = none ∧ (((ccState 0 0x58).setBusy (pgCMP 1) true).jobTaken 0 ccJob).pipeAbsent 1 = some 0x41 ∧
      ccRun 0 0x58 = (0, 0) ∧ ccRun 17 0 = (0, 0x21) := by decide +kernel

theorem witness_ComposeJobs_unread :
    let b := job 5 [(0x10, 1), (0x11, 1), (0x12, 1), (0x1D, 0xFF)]
    let s := ringOf 1 b up
    s.nextJob 0 = some b ∧ s.jobCheck 0 b = 0 ∧ ((s.jobTaken 0 b).jobRead 0 true (leAt b 0x18 8) 8).1 ≠ 0 := by decide +kernel

/-- A FLIP job for group 3 of pipe 1 with layer 0 as its member. -/
def flipJob : List Byte := job 6 [(0x10, 1), (0x11, 3), (0x14, 1)]

theorem witness_ComposeJobs_flip :
    let s := ringOf 1 flipJob (up.setDomain 42 true)
    s.nextJob 0 = some flipJob ∧ s.jobCheck 0 flipJob = 0 ∧ (s.jobTaken 0 flipJob).pipeAbsent 1 = none ∧ ((s.jobTaken 0 flipJob).group 1 3).pending = false ∧
      (((s.setGroup 1 3 { pending := true }).jobTaken 0 flipJob).group 1 3).pending = true ∧ ((s.setBusy (pgCMP 1) true).jobTaken 0 flipJob).pipeAbsent 1 = some 0x41 := by decide +kernel

/-- Pipe 1 running, in PTP or LOCKED mode, its picture at line `y` of two. -/
def piping (locked : Bool) : State :=
  let s := ((up.setDomain 42 true).setB (hCTL (pgCMP 1)) 0 true).setB (CMP_TIMING 1) 0 locked
  s.setPipe 1 { s.pipe 1 with live := [(0x50, 0x20002)], picture := some (0, 0, {}) }

theorem witness_GroupsAndPipes_groups :
    let s := (up.setDomain 42 true).setReg (GRP_MEMBERS 1 3) 1
    let t := (s.setReg (GRP_MEMBERS 1 0) 1).setGroup 1 0 { pending := true }
    let meets (u : State) : Bool := (span 0 4).any fun k => k != 3 && (u.group 1 k).pending && (u.reg (GRP_MEMBERS 1 k) &&& u.reg (GRP_MEMBERS 1 3)) != 0
    s.served pf (pgCMP 1) = true ∧ (s.group 1 3).pending = false ∧ s.reg (GRP_MEMBERS 1 3) ≠ 0 ∧ meets s = false ∧
      meets t = true ∧ ((s.setGroup 1 3 { pending := true }).group 1 3).pending = true ∧ up.reg (GRP_MEMBERS 1 2) = 0 := by decide +kernel

theorem witness_GroupsAndPipes_pipes :
    (piping false).pipeRuns 1 = true ∧ (piping false).bit (CMP_TIMING 1) 0 = false ∧ ((piping false).setB (hCTL pgMTC) 0 true).mtcOn = true ∧
      ((piping false).setB (hCTL pgMTC) 0 false).mtcOn = false ∧ (piping true).bit (CMP_TIMING 1) 0 = true ∧
      (let s := ((piping true).setF (CMP_TIMING 1) 7 4 0).setRxf 0 { up.rxf 0 with started := [h60] }
       (s.setPipe 1 { s.pipe 1 with live := [(oLAYER 0, 5)] }).timingReady 1 = true) ∧ (piping true).timingReady 1 = false ∧
      (piping false).pipeBusy 1 = true ∧ ((piping false).pipe 1).picture = some (0, 0, {}) ∧ (piping false).inDrain (pgCMP 1) = false ∧
      (piping false).lineNeeds 1 0 = true := by decide +kernel

theorem witness_GroupsAndPipes_lines :
    ((piping false).lineOut 1 false).inDrain (pgCMP 1) = false ∧ ((piping false).lineLate 1).inDrain (pgCMP 1) = false := by decide +kernel

/-! Channels. -/

theorem witness_Channels :
    up.served pf (0x041 + 63 / 8) = true ∧ chanWriter pf 63 = true ∧ chanWriter pf 55 = false ∧ up.chan 63 = none ∧
      (upWith (chanAt 63 0x10) 1).reg (chanAt 63 0x10) = 1 ∧ (upWith (chanAt 63 0x10) 0x40000000).reg (chanAt 63 0x10) = 0x40000000 ∧
      up.reg (chanAt 63 0x10) = 0 ∧ (upWith (chanAt 63 0x10) 0x40000001).reg (chanAt 63 0x10) = 0x40000001 ∧
      (up.setChan 63 (some {})).chan 63 = some {} := by decide +kernel

theorem test_channel_of_no_bytes : (after (exec (.dchGo pf 63) up)).f (chanAt 63 0x18) 7 4 = 1 := by decide +kernel

/-! Interrupts. -/

/-- Instance 0 with source 96 + c pending and enabled for each core given. -/
def raised (cs : List Nat) : State :=
  let s := { up with edges := cs.map fun c => (96 + c, true) }
  (s.setReg (IC_EN 0 3) 0xFFFFFFFF).setReg (IC_EN 0 4) 0xFFFFFFFF

theorem witness_ClaimAndComplete :
    up.served pf (pgIC 0) = true ∧ (upWith (IC_ACTIVE 0) 399).icActive 0 = 399 ∧ fld (399 : W32) 9 0 = 399 ∧ fld (398 : W32) 9 0 ≠ 399 ∧ up.icActive 0 = 0 ∧
      (raised [0, 35]).icBest 0 = some 96 ∧ up.icBest 0 = none ∧ (upWith (IC_STATE 0) 1).icBest 0 = none ∧ (upWith (IC_STATE 0) 1).bit (IC_STATE 0) 0 = true := by decide +kernel

theorem witness_ClaimsTheLowest : (raised [35]).icBest 0 = some 131 := by decide +kernel

theorem test_claim_takes_the_lowest : (after (exec (.icClaim pf 0) (raised [3, 7]))).icActive 0 = 99 := by decide +kernel
theorem test_complete_of_another_source : (after (exec (.icComplete pf 0 98) (upWith (IC_ACTIVE 0) 99))).icActive 0 = 99 := by decide +kernel

/-- The same with instance 0 able to send, or masked. -/
def sending (masked : Bool) : State :=
  let s := (raised [3]).setB (hCTL (pgIC 0)) 0 true
  s.setFn 0 { s.fn 0 with msixEn := true, vecMask := masked, bme := true }

theorem witness_MessagesAndModeration :
    (sending false).clocked = true ∧ (sending false).icActive 0 = 0 ∧ (sending false).bit (IC_STATE 0) 0 = false ∧ ((sending false).icBest 0).isSome = true ∧
      (sending false).holdCause 0 = 0 ∧ (sending true).holdCause 0 ≠ 0 ∧ (sending true).bit (IC_STATE 0) 1 = false ∧ ((sending true).fn 0).d3 = false ∧
      up.served pf (pgIC 0) = true ∧ up.owner 5 = 0 ∧ (vfs.setReg (RING_CFG 5) 0x30000).owner 5 ≠ 0 ∧
      (let s := up.setRing 5 { up.ring 5 with modC := 4, modUs := 2 }
       s.clocked = true ∧ (s.ring 5).modC ≠ 0 ∧ 4 ≤ (s.ring 5).modC ∧ (s.ring 5).modC < 5 ∧ 2 ≤ (s.ring 5).modUs ∧ (s.ring 5).modUs < 3) ∧
      upD3.clocked = true ∧ (upD3.fn 0).d3 = true ∧ (upD3.fn 0).pmeStatus = true ∧ (upD3.fn 0).pmeEn = true ∧ upD3.hif.linkUp = true ∧
      ({ upD3 with hif := { upD3.hif with linkUp := false } } : State).hif.linkUp = false := by decide +kernel

/-! HBM. -/

/-- `up` with the four stacks trained. -/
def trained : State := (span 0 4).foldl (fun s i => s.setB (HBT_STAT i) 1 true) up

theorem witness_AddressMapOneToOne :
    (∀ aff ∈ [0, 1, 24], aff ≤ 24) ∧ 4 * 24 * GiB - 1 + 1 = 4 * 24 * GiB ∧ 24 * GiB / 32 - 1 + 1 = 24 * GiB / 32 ∧ (127 : Nat) < 128 := by decide +kernel

theorem witness_WritesStore :
    trained.clocked = true ∧ trained.affGiB ≤ trained.stackGiB ∧ trained.inHbm 0x21A3C4D7E 4 = true ∧ trained.holding 0x21A3C4D7E 4 = none ∧
      trained.inHbm (4 * 24 * GiB - 1) 1 = true ∧ trained.holding (4 * 24 * GiB - 1) 1 = none := by decide +kernel

theorem witness_ReadsAnswer : trained.clocked = true ∧ trained.inHbm 0 64 = true ∧ trained.holding 0 64 = none := by decide +kernel

theorem test_bytes_across_two_granules : ((trained.setHbmByte 0xFF 5).setHbmByte 0x100 6).hbmBytes 0xFE 4 = [0, 5, 6, 0] := by decide +kernel

theorem witness_RequestQueues :
    up.inHbm 0 64 = true ∧ up.holding 0 64 = some 0 ∧ up.inHbm (4 * 24 * GiB) 1 = false ∧ inMirror (4 * 24 * GiB) 1 = false ∧
      trained.stackServes 3 = true ∧
      (let s := trained.setPch 127 { queue := [{ bank := 2, row := 9 }], openRow := [(1, 5)] }
       (s.pch 127).pick (s.f (HBM_SCHED 3) 25 16) = some 0 ∧ ∀ q ∈ (s.pch 127).queue, q.bank ≠ 1) ∧
      (up.stack 0).selfRefresh = false := by decide +kernel

theorem witness_TrainingMapAndRepairs :
    up.served pf (pgHBT 0) = true ∧ up.f (HBT_CTL 0) 1 0 = 0 ∧ (up.setB (HBT_CTL 0) 1 true).f (HBT_CTL 0) 1 0 ≠ 0 ∧ up.clocked = true ∧
      (up.setB (HBT_STAT 0) 0 true).bit (HBT_STAT 0) 0 = true ∧ up.bit (HBT_CTL 0) 0 = false ∧ (up.stack 0).driftDue = false ∧
      ((up.setStack 0 { up.stack 0 with driftDue := true }).stack 0).driftDue = true ∧ up.bit (HBT_STAT 0) 0 = false ∧
      up.served pf (pgHBM 0) = true ∧ (∀ p ∈ span 0 64, up.poolEn p = false) ∧ ready.poolEn 6 = true ∧ up.served pf (pgHBM 3) = true ∧
      (up.stack 0).hard.length < 4 ∧ (up.inHbm (up.pprRow 0) 1 && up.stackOf (up.pprRow 0) == 0) = true := by decide +kernel

theorem witness_TrainingMapAndRepairs_repair : up.pprOpen 0 = true := by
  have h : (up.inHbm (up.pprRow 0) 1 && up.stackOf (up.pprRow 0) == 0) = true := by decide +kernel
  have k : ((up.stack 0).repaired ++ (up.stack 0).soft).length = 0 := by decide +kernel
  simp only [State.pprOpen, State.sparesLeft, h, k]
  simp

theorem test_map_is_at_most_a_stack : (after (exec (.hbmMapWrite pf 0x3F) up)).affGiB = 24 := by decide +kernel

theorem witness_TemperatureAndScrub :
    up.clocked = true ∧ (85 : Int) < (86 : BitVec 8).toInt ∧ up.bit (HBM_TEMP 0) 8 = false ∧ (95 : Int) < (96 : BitVec 8).toInt ∧ (0x80 : BitVec 8).toInt ≤ 85 ∧
      trained.stackServes 0 = true ∧ trained.f (HBM_SCRUB 0) 15 0 ≠ 0 ∧ trained.inject = none ∧ (trained.stack 0).scrubPos + 2 ≤ trained.stackGiB * GiB / 32 ∧
      (let s := trained.setStack 0 { trained.stack 0 with scrubPos := 24 * GiB / 32 - 1 }
       s.stackGiB * GiB / 32 ≤ (s.stack 0).scrubPos + 1) := by decide +kernel

theorem test_cold_stack : (after (exec (.hbmTempPoll 0 0xFF) up)).stack 0 = { up.stack 0 with temp := -1 } := by decide +kernel

/-! Images. -/

/-- Header bytes 0x00 to 0x1F of a core image of personality 1 with 33 words, its payload of zeros, and the image with its digest. -/
def imgHead : List Byte :=
  [0x4F, 0x5A, 0x44, 0x4D, 1, 0, 0, 2, 0, 1, 0, 0, 0, 0, 0, 1, 33, 0, 0, 0, 0x20, 0, 0, 0, 0x10, 2, 0, 0, 1, 0, 0, 0]
def image : List Byte := imgHead ++ (leBytes 48 (Config.sha384 (imgHead ++ List.replicate 528 0)).toNat ++ (List.replicate 432 0 ++ List.replicate 528 0))

/-- A LOAD_IMAGE job of ACTION `act` for sequencer 0, 1040 bytes at host 0x7000, with these bytes there. -/
def liJob (act : Byte) : List Byte := job 7 [(0x10, act), (0x14, 0x10), (0x15, 4), (0x19, 0x70)]
def liState (act : Byte) (bytes : List Byte) : State := { ringOf 1 (liJob act) upHost with host := (span 0x7000 bytes.length).zip bytes }

theorem leBytes_length (n v : Nat) : (leBytes n v).length = n := by
  induction n generalizing v with
  | zero => rfl
  | succ n ih => simp [leBytes, ih]

theorem span_cons (a n : Nat) : span a (n + 1) = a :: span (a + 1) n := by
  simp only [span, List.range_succ_eq_map, List.map_cons, List.map_map, Nat.add_zero]
  congr 1
  exact List.map_congr_left fun i _ => by simp only [Function.comp]; omega

theorem zip_reads (d : Nat → Byte) (l : List Byte) (a : Nat) : (span a l.length).map (tabGet d ((span a l.length).zip l)) = l := by
  induction l generalizing a with
  | nil => rfl
  | cons x l ih =>
    rw [List.length_cons, span_cons]
    simp only [List.zip_cons_cons, List.map_cons, tabGet, if_true]
    refine congrArg (x :: ·) (Eq.trans (List.map_congr_left fun k hk => ?_) (ih (a + 1)))
    have h : k ≠ a := by simp only [span, List.mem_map, List.mem_range] at hk; omega
    rw [if_neg h]

theorem witness_Images_job :
    ∀ act ∈ ([0, 1, 2] : List Byte), (liState act []).nextJob 0 = some (liJob act) ∧ (liState act []).jobCheck 0 (liJob act) = 0 ∧
      (liState act []).jobHostWaits 0 true = false ∧ leAt (liJob act) 0x10 1 = act.toNat := by decide +kernel

theorem witness_Images_refused :
    (let s := ringOf 1 (liJob 0) up
     ((s.jobTaken 0 (liJob 0)).imgRead 0 (liJob 0)).1 = 0x44) ∧
    (let x := ((liState 0 []).jobTaken 0 (liJob 0)).imgRead 0 (liJob 0)
     x.1 = 0 ∧ (liState 0 []).imgCheck 0 0 1040 x.2 = 4) := by decide +kernel

theorem image_length : image.length = 1040 := by decide +kernel

theorem witness_Images_read : ∀ act ∈ ([0, 1, 2] : List Byte), (liState act image).imgRead 0 (liJob act) = (0, image) := by
  intro act ha
  have h : (liState act image).hostBytes 0x7000 1040 = image := by
    have := zip_reads memDefault image 0x7000
    rw [image_length] at this
    have e : (liState act image).host = (span 0x7000 1040).zip image := by rw [liState, image_length]
    rw [State.hostBytes]
    exact Eq.trans (List.map_congr_left fun k _ => by rw [State.hostByte, e]) this
  have r : ∀ act ∈ ([0, 1, 2] : List Byte), (leAt (liJob act) 0x12 1 == 1) = false ∧ leAt (liJob act) 0x18 8 = 0x7000 ∧ min (leAt (liJob act) 0x14 4) (512 + 16 * 16384) = 1040 := by decide +kernel
  have u : ∀ act ∈ ([0, 1, 2] : List Byte), (!(liState act image).hif.linkUp || !((liState act image).fn ((liState act image).owner 0)).bme) = false := by decide +kernel
  rw [State.imgRead, (r act ha).1, (r act ha).2.1, (r act ha).2.2, State.jobRead]
  simp only [u act ha, h]
  rfl

theorem image_accepted (s : State) (act : Nat) (hs : s.signReq = false) (hm : s.imgSuits act 0 image = true) : s.imgCheck act 0 1040 image = 0 := by
  have f : imgFormed image 1040 = true := by decide +kernel
  have b : bitIn image 0xA 0 = false := by decide +kernel
  have t : image.take 0x20 = imgHead := List.take_left' rfl
  have d : image.drop 0x200 = List.replicate 528 0 := by
    have h : image = (imgHead ++ leBytes 48 (Config.sha384 (imgHead ++ List.replicate 528 0)).toNat ++ List.replicate 432 0) ++ List.replicate 528 0 := by
      rw [image, List.append_assoc, List.append_assoc]
    rw [h]
    exact List.drop_left' (by rw [List.length_append, List.length_append, leBytes_length]; decide +kernel)
  have g : slice image 0x20 48 = leBytes 48 (Config.sha384 (image.take 0x20 ++ image.drop 0x200)).toNat := by
    rw [t, d, slice, image, List.drop_left' (by rfl)]
    exact List.take_left' (leBytes_length _ _)
  have c : s.imgSigned image = 0 := by
    rw [State.imgSigned, g]
    simp only [b, hs, ne_eq, not_true_eq_false, if_false, Bool.false_eq_true]
  rw [State.imgCheck, f, hm, c]
  rfl

theorem witness_Images_accepted :
    ∀ act ∈ ([0, 1, 2] : List Byte),
      let v := ((liState act image).jobTaken 0 (liJob act)).latch 40 2
      v.imgCheck act.toNat 0 1040 image = 0 ∧ v.changing 1 = none ∧ ({ v with store := { v.store with change := [(1, some 0)] } } : State).changing 1 ≠ none := by
  have h : ∀ act ∈ ([0, 1, 2] : List Byte),
      let v := ((liState act image).jobTaken 0 (liJob act)).latch 40 2
      v.signReq = false ∧ v.imgSuits act.toNat 0 image = true ∧ v.changing 1 = none ∧ ({ v with store := { v.store with change := [(1, some 0)] } } : State).changing 1 ≠ none := by decide +kernel
  intro act ha
  exact ⟨image_accepted _ _ (h act ha).1 (h act ha).2.1, (h act ha).2.2⟩

/-! Sequencers. -/

/-- A microword that yields: SEQ, COND, TARGET, ALU_OP, UNIT_OP and UNIT_ARG. -/
def mw (seq cond target op unit arg : Nat) : W128 :=
  BitVec.ofNat 128 (seq <<< 125 ||| cond <<< 120 ||| target <<< 106 ||| 1 <<< 102 ||| op <<< 90 ||| unit <<< 32 ||| arg)

/-- Sequencer `q` running at address 0x10, where `w` stands; core 0 ungated. -/
def seqAt (q : Nat) (w : W128) (f : Seqr → Seqr) : State :=
  let s := up.setDomain 0 true
  s.setSeq q (f { s.seq q with run := 1, pc := 0x10, bankA := { st := 2, source := 2, pers := 1, words := [(0x10, some w)] } })

/-- The state in which the word of sequencer 40 ends. -/
def ending (s : State) : State := ((s.wordAlu 40).wordUnit 40).wordCommit 40

/-- A word with SEQ `seq` and COND `cond` on this sequencer meets what every end of a word asks; its condition is `c`. -/
def ends (seq cond : Nat) (f : Seqr → Seqr) (c : Bool) : Bool :=
  let s := seqAt 40 (mw seq cond 0x30 1 0 0) f
  let x := (ending s).seq 40
  s.seqReady 40 && x.phase == 3 && !x.overrun (s.word 40) && mwYield (s.word 40) && mwSeq (s.word 40) == seq && x.cond == c

theorem witness_WordEnds_plain : ends 0 0 id true = true ∧ ends 1 0 id true = true ∧ ends 2 0 id true = true ∧ ends 2 26 id false = true ∧ ends 7 0 id true = true := by decide +kernel

theorem witness_WordEnds_calls :
    ends 3 0 id true = true ∧ ends 3 26 id false = true ∧ ends 4 26 id false = true ∧ ends 4 0 (fun x => { x with stack := [5] }) true = true ∧
      ((ending (seqAt 40 (mw 4 0 0x30 1 0 0) fun x => { x with stack := [5] })).seq 40).stack = [5] ∧
      ends 4 0 (fun x => { x with inEvent := true, stack := [5], depthE := 1 }) true = true ∧
      (let x := (ending (seqAt 40 (mw 4 0 0x30 1 0 0) fun x => { x with inEvent := true, stack := [5], depthE := 1 })).seq 40
       x.inEvent = true ∧ x.stack.length = x.depthE) := by decide +kernel

theorem witness_WordEnds_loops :
    ends 5 0 id true = true ∧ ((ending (seqAt 40 (mw 5 0 0x30 1 0 0) id)).seq 40).counter 0 = 0 ∧ ends 5 0 (fun x => { x with lc := [(0, 1)] }) true = true ∧
      (let x := (ending (seqAt 40 (mw 5 0 0x30 1 0 0) fun x => { x with lc := [(0, 1)] })).seq 40
       x.counter 0 ≠ 0 ∧ x.lcWrite = none) ∧
      ends 6 0 (fun x => { x with work := [7] }) true = true ∧ ((ending (seqAt 40 (mw 6 0 0x30 1 0 0) fun x => { x with work := [7] })).seq 40).work = [7] ∧
      ends 6 0 id true = true ∧ ((ending (seqAt 40 (mw 6 0 0x30 1 0 0) id)).seq 40).work = [] := by decide +kernel

theorem test_jump : ((after (exec (.jump 40) (seqAt 40 (mw 1 0 0x30 0 0 0) id))).seq 40).pc = 0x30 := by decide +kernel
theorem test_call_pushes : ((after (exec (.call 40) (seqAt 40 (mw 3 0 0x30 0 0 0) id))).seq 40).stack = [0x11] := by decide +kernel
theorem test_loop_counts : ((after (exec (.loop 40) (seqAt 40 (mw 5 0 0x30 0 0 0) fun x => { x with lc := [(0, 3)] }))).seq 40).counter 0 = 2 := by decide +kernel

theorem witness_WordEffects :
    let w := mw 0 0 0 3 0 0
    let s := seqAt 40 w id
    let x := s.seq 40
    s.seqReady 40 = true ∧ x.phase = 0 ∧ s.wordFault 40 = none ∧ s.word 40 = w ∧ mwSeq w = 0 ∧ mwUnitOp w = 0 ∧ mwCommit w = false ∧ x.busWait = false ∧ mwYield w = true ∧
      (alu (mwAluOp w) (x.reg (mwSrcA w)) (x.operandB w) x.c s.freeWord (Config.freeBool (s.fresh + 1)) (Config.freeBool (s.fresh + 2))).isSome = true := by decide +kernel

theorem test_add_carries : (alu 3 0xFFFFFFFF 1 false 0 false false).map (fun o => (o.x, o.flags.z, o.flags.c, o.flags.v)) = some (0, true, true, false) := by decide +kernel
theorem test_arithmetic_shift : (alu 0xA 0x80000000 0x21 false 0 false false).map (fun o => o.x) = some 0xC0000000 := by decide +kernel

theorem witness_UnitOperations :
    (∀ op ∈ span 1 13,
      let s := seqAt 0 (mw 0 0 0 1 op 4) id
      s.seqReady 0 = true ∧ s.wordFault 0 = none ∧ (s.seq 0).phase = 0 ∧ mwUnitOp (s.word 0) = op) ∧
    (let s := seqAt 40 ((mw 0 0 0 1 0 0) ||| BitVec.ofNat 128 (1 <<< 101)) fun x => { x with phase := 2 }
     s.seqReady 40 = true ∧ s.wordFault 40 = none ∧ (s.seq 40).phase = 2 ∧ (s.seq 40).busWait = false ∧ mwCommit (s.word 40) = true) ∧
    (let s := seqAt 40 (mw 0 0 0 1 1 2) fun x => { x with phase := 1, g := [(2, 0x100)] }
     s.seqReady 40 = true ∧ s.wordFault 40 = none ∧ (s.seq 40).phase = 1 ∧ s.busPlace ((s.seq 40).regPair 2) = .loc 0x100 ∧ s.inHbm 0x100 4 = true ∧ s.inject = none) ∧
    (let s := seqAt 40 (mw 0 0 0 1 3 0x30044) fun x => { x with phase := 1, shadow := [(0x30044, some 5)] }
     s.seqReady 40 = true ∧ s.wordFault 40 = none ∧ tabGet (fun _ => none) (s.seq 40).shadow (seqReg 40 0x30044) = some 5) := by decide +kernel

theorem test_bits_put : ((after (exec (.bitsPut 0) (seqAt 0 (mw 0 0 0 1 12 2) fun x => { x with phase := 1, x := 6 }))).core 0).bitsOut = [true, true, false] := by decide +kernel

/-- Sequencer 40 idle with these events latched and enabled. -/
def events (pend : BitVec 16) (run : Nat) : State := seqAt 40 (mw 0 0 0 0 0 0) fun x => { x with run := run, yielded := true, pend := pend, enable := 0x8001 }

theorem witness_SequencerEvents :
    (events 0x8001 2).seqLive 40 = true ∧ ((events 0x8001 2).seq 40).due = some 0 ∧ ((events 0x8000 1).seq 40).due = some 15 ∧ ((events 0x8000 0).seq 40).due = some 15 ∧
      ((events 0x7FFE 2).seq 40).due = none ∧ (seqAt 40 0 fun x => { x with inEvent := true }).seqLive 40 = true ∧
      ((seqAt 40 0 fun x => { x with timer := 1 }).seq 40).timer ≠ 0 ∧ (seqAt 0 0 id).seqLive 0 = true ∧ ((seqAt 0 0 id).seq 0).run = 1 := by decide +kernel

theorem test_event_vector : ((after (exec (.eventTaken 40) (events 0x8000 2))).seq 40).pc = 30 := by decide +kernel

theorem witness_SwapsWait :
    (let s := seqAt 40 0 fun x => { x with run := 2, swapReq := some none, bankB := { st := 2 } }
     s.clocked = true ∧ (s.seq 40).swapReq = some none ∧ s.idlePoint 40 = true ∧ (s.seq 40).inactive.st = 2) ∧
    (let s := seqAt 40 0 fun x => { x with swapReq := some (some 5), inEvent := true }
     (s.seq 40).swapReq = some (some 5) ∧ (s.seq 40).inEvent = true ∧ s.idlePoint 40 = false) := by decide +kernel

theorem witness_StoreWindow :
    up.served pf pgCSW = true ∧ fld (0x3C28 : W32) 15 8 = 0x3C ∧ fld (0x3C28 : W32) 5 0 = 40 ∧ fld (0x3C29 : W32) 5 0 = 41 ∧ fld (0x5C28 : W32) 15 8 = 0x5C ∧
      (let s := (seqAt 40 0 fun x => { x with bankB := { st := 1, source := 3 } }).setReg CSW_SEL 0x128
       let t := seqAt 40 0 fun x => { x with bankB := { st := 2, source := 2 } }
       s.served pf pgCSW = true ∧ (s.noted pf pgCSW).winAllowed 40 = true ∧ ((s.noted pf pgCSW).seq 40).inactive.st = 1 ∧ ((s.noted pf pgCSW).seq 40).inactive.source = 3 ∧
         ((t.noted pf pgCSW).seq 40).inactive.st = 2 ∧ ((up.noted pf pgCSW).seq 40).inactive.st = 0 ∧ ((up.noted pf pgCSW).seq 40).inactive.source = 0) ∧
      (let s := (upWith CSW_SEL 0x128).noted pf pgCSW
       s.winAllowed s.cswSeq = true ∧ s.bit CSW_SEL 8 ≠ (s.seq s.cswSeq).activeB ∧ ((upWith CSW_SEL 0x28).noted pf pgCSW).bit CSW_SEL 8 = ((upWith CSW_SEL 0x28).seq 40).activeB) ∧
      (let left (s : State) (k : Nat) : Bool := (span 0 4).any fun i => i != k && s.bit CSW_KEYS i && !s.bit CSW_KEYS (4 + i)
       fld (0x9600 : W32) 15 8 = 0x96 ∧ left (upWith CSW_KEYS 3) 0 = true ∧ left (upWith CSW_KEYS 1) 0 = false) := by decide +kernel

/-! Media. -/

/-- A state with engine `f / 16` of flow 0's ports ungated and running, port 0 in this mode with its link up, and the fields of flow 0 given. -/
def media (mode ctl : Nat) (rx : RxFlow) : State :=
  let s := (((up.setDomain 91 true).setDomain 73 true).setDomain 81 true).setB (hCTL (pgMPE 0)) 0 true
  let s := ((s.setReg (TPT_MODE 0) (BitVec.ofNat 32 mode)).setReg (TPT_LINK 0) 1).setReg (RXF_CTL 0) (BitVec.ofNat 32 ctl)
  s.setRxf 0 rx

/-- A packet of one number with no rows. -/
def packet (seq : Nat) (good : Bool) : MediaPacket := { seq := seq, timestamp := 9, marker := false, payloadType := 96, good := good, rows := [], units := [] }

/-- A frame of `len` bytes with its FCS, of an EtherType, with this body. -/
def frame (len typ : Nat) (body : List Byte) : Frame :=
  { bytes := ([2, 0, 0, 0, 0, 1] ++ List.replicate 6 0 ++ beBytes 2 typ ++ body ++ List.replicate len 0).take (len - 4), fcsOk := true }

/-- An IPv4 packet from 10.0.0.2 to UDP port 5004 of 10.0.0.1 without a UDP checksum: an RTP header of sequence number 1. -/
def udpBody : List Byte :=
  [0x45, 0, 0, 40, 0, 0, 0, 0, 64, 17, 0x66, 0xC2, 10, 0, 0, 2, 10, 0, 0, 1, 0x13, 0x8C, 0x13, 0x8C, 0, 20, 0, 0] ++ [0x80, 96, 0, 1, 0, 0, 0, 9, 0, 0, 0, 0]

/-- Flow 0 awaits UDP port 5004 of 10.0.0.1; port 0 takes frames of 64 to 1518 bytes. -/
def listening : State :=
  ((((media 3 1 {}).setReg (RXF_DST_A_0 0 + 8) 0xFFFF0000).setReg (RXF_DST_A_0 0 + 12) 0x0100000A).setReg (RXF_UDP 0) 5004).setReg (MPE_PORT_CTL 0) (BitVec.ofNat 32 (1518 * 65536))

theorem witness_MediaReceive_frames :
    let u := listening.inc (MPE_RX_FRAMES 0)
    let bad (fr : Frame) : Prop := fr.bytes.length + 4 < 64 ∨ u.f (MPE_PORT_CTL 0) 29 16 < fr.bytes.length + 4 ∨ fr.fcsOk = false ∨ 1 < frameTags fr
    listening.engineUp 0 = true ∧ listening.etherUp 0 = true ∧
      (bad (frame 63 0 []) ∧ ¬ bad (frame 64 0 []) ∧ ¬ bad (frame 1518 0 []) ∧ bad (frame 1519 0 []) ∧ bad { frame 64 0 [] with fcsOk := false } ∧
        ¬ bad (frame 64 0x8100 [0, 1]) ∧ bad (frame 64 0x88A8 [0, 1, 0x81, 0, 0, 1])) ∧
      (¬ bad (frame 64 0x8808 [0, 1]) ∧ framePause (frame 64 0x8808 [0, 1]) = true) ∧
      (¬ bad (frame 64 0x800 udpBody) ∧ framePause (frame 64 0x800 udpBody) = false ∧ (u.flowMatch 0 (frame 64 0x800 udpBody)).map (fun m => (m.1, m.2.1, m.2.2.seq)) = some (0, false, 1)) ∧
      u.flowMatch 0 (frame 64 0 []) = none ∧ u.hostFilter 0 (frameMac (frame 64 0 [])) = false ∧
      (((listening.setReg (MPE_HOST 0) 0x4000).setReg (MPE_PORT_CTL 0) (BitVec.ofNat 32 (1518 * 65536 + 1))).inc (MPE_RX_FRAMES 0)).hostFilter 0 [2, 0, 0, 0, 0, 1] = true := by decide +kernel

theorem witness_MediaReceive_video :
    let late := media 2 1 { next := 5, closed := 5 }
    (media 2 1 {}).rxRuns 0 = true ∧ (media 2 0 { draining := true }).rxRuns 0 = false ∧ ((media 2 0 { draining := true }).rxf 0).draining = true ∧
      (packet 1 false).good = false ∧ ((media 2 0x610001 {}).inc (RXC_PKTS_A 0)).f (RXF_CTL 0) 22 16 = 97 ∧ (packet 1 true).payloadType ≠ 97 ∧
      ((media 2 1 {}).inc (RXC_PKTS_A 0)).bit (RXF_CTL 0) 2 = false ∧
      (((media 2 1 {}).inc (RXC_PKTS_A 0)).rxMerge 0 7 false).2 = true ∧ ((late.inc (RXC_PKTS_B 0)).rxMerge 0 3 true).2 = false := by decide +kernel

/-- The same, the flow carrying slices of session 0. -/
def slices (rx : RxFlow) : State := (media 2 5 rx).setSess 0 { up.sess 0 with phase := .opened, desc := (decDesc.set 0xA0 1).set 0xA1 0 }

theorem witness_MediaReceive_slices :
    let u := (slices {}).inc (RXC_PKTS_A 0)
    let late := (slices { next := 5, closed := 5 }).inc (RXC_PKTS_B 0)
    (slices {}).rxRuns 0 = true ∧ u.bit (RXF_CTL 0) 2 = true ∧ u.decSession 0 = some 0 ∧ ((media 2 5 {}).inc (RXC_PKTS_A 0)).decSession 0 = none ∧
      (u.rxMerge 0 (seqExtend (u.rxf 0).next 7) false).2 = true ∧ (late.rxMerge 0 (seqExtend (late.rxf 0).next 3) true).2 = false := by decide +kernel

theorem witness_MediaReceive_losses :
    let v (s : State) := ((s.setRxf 0 { s.rxf 0 with missing := [] }).satF (RXC_LOST 0) 31 0).event (pgMPE 0) 0
    ((media 2 1 { next := 6, missing := [5] }).rxf 0).missing = [5] ∧ (v (media 2 1 { next := 6, missing := [5] })).bit (RXF_CTL 0) 2 = false ∧
      (v (media 2 5 { next := 6, missing := [5] })).decSession 0 = none ∧ (v (slices { next := 6, missing := [5] })).bit (RXF_CTL 0) 2 = true ∧ (v (slices { next := 6, missing := [5] })).decSession 0 = some 0 := by decide +kernel

theorem test_lost_number_is_counted : (after (exec (.lossDeadline 0) (media 2 1 { next := 6, missing := [5] }))).f (RXC_LOST 0) 31 0 = 1 := by decide +kernel
theorem test_short_frame_is_an_error : (after (exec (.ethernetFrameReceive 0 (frame 63 0 [])) listening)).f (MPE_RX_ERR 0) 15 0 = 1 := by decide +kernel
theorem test_frame_to_nobody_is_filtered : (after (exec (.ethernetFrameReceive 0 (frame 64 0 [])) listening)).f (MPE_RX_FILTERED 0) 31 0 = 1 := by decide +kernel
theorem test_late_copy_is_counted : (after (exec (.mediaPacketReceive 0 true (packet 3 true)) (media 2 1 { next := 5, closed := 5 }))).f (RXC_LATE 0) 15 0 = 1 := by decide +kernel

/-- Port 0 in this mode, with a SHARED buffer of one reference held by the host's queue and named in its HANDLE register. -/
def sendQueue (mode : Nat) (q : List HtxEntry) : State :=
  let s := ((poolOf false 1 { live := true, count := 1, holders := [(64, 1)] }).setDomain 91 true).setReg (TPT_MODE 0) (BitVec.ofNat 32 mode)
  (s.setReg (MPE_HTX_HANDLE 0) h60).setHtxq 0 q

theorem witness_MediaReceive_host :
    (∀ mode ∈ [2, 3],
      let u := (sendQueue mode []).noted pf (pgMPE 0)
      (sendQueue mode []).served pf (pgMPE 0) = true ∧ (u.htxq 0).length < 64 ∧ (u.poolTransfer 64 (u.reg (MPE_HTX_HANDLE 0)) 44).2 = .ok h60 1 ∧ u.portMode 0 = mode) ∧
    (let u := ((sendQueue 3 []).setReg (MPE_HTX_HANDLE 0) 0).noted pf (pgMPE 0)
     (u.poolTransfer 64 0 44).2 = .err 4) ∧
    64 ≤ (((sendQueue 3 (List.replicate 64 {})).noted pf (pgMPE 0)).htxq 0).length := by decide +kernel

theorem test_queued_frame : ((after (exec (.htxCmd pf 0 0x4040) (sendQueue 3 []))).htxq 0).map (fun e => (e.handle, e.len, e.oneStep)) = [(h60, 64, true)] := by decide +kernel

/-- Flow 0 of transmission, carrying pictures or slices. -/
def transmits (ctl : Nat) (on : Bool) (tx : TxFlow) : State :=
  ((((media 2 0 {}).setReg (TXF_CTL 0) (BitVec.ofNat 32 ctl)).setB (hCTL pgMTC) 0 on)).setTxf 0 tx

theorem witness_MediaTransmit_switch :
    (let s := media 2 0 {}
     let u := s.noted pf (pgMPE 0)
     s.served pf (pgMPE 0) = true ∧ (∀ tx ∈ [false, true], u.bit (flowCtl tx 0) 0 = false ∧ u.flowActive tx 0 = false) ∧
       ((u.txPorts 0).all fun q => u.pathMode q.1) = true ∧ (((media 0 0 {}).noted pf (pgMPE 0)).txPorts 0).all (fun q => ((media 0 0 {}).noted pf (pgMPE 0)).pathMode q.1) = false ∧
       u.rxCheck 0 = false) ∧
    (let s := (media 2 0x6000000 {}).setReg (POOL_CFG 6) 0x85
     (s.noted pf (pgMPE 0)).rxCheck 0 = true ∧ (s.noted pf (pgMPE 0)).bit (flowCtl false 0) 0 = false) ∧
    ((media 2 1 {}).noted pf (pgMPE 0)).bit (flowCtl false 0) 0 = true ∧ ((media 2 0 { draining := true }).noted pf (pgMPE 0)).flowActive false 0 = true ∧
    ((transmits 1 true {}).noted pf (pgMPE 0)).bit (flowCtl true 0) 0 = true := by decide +kernel

theorem witness_MediaTransmit_handover :
    let o : TxPic := { handle := 5, agent := 42 }
    let u (s : State) := s.setTxf 0 { s.txf 0 with offers := (s.txf 0).offers.filter fun e => !(e.agent == 42 && e.handle == 5) }
    let s := transmits 1 true { offers := [o] }
    s.engineUp 0 = true ∧ ((s.txf 0).offers.find? fun e => e.agent == 42 && e.handle == 5) = some o ∧
      (u (transmits 0 true { offers := [o] })).txRuns 0 = false ∧ (u s).txRuns 0 = true ∧ (u s).bit (TXF_CTL 0) 2 = false ∧ (u s).mtcOn = true ∧ ((u s).txf 0).pics = [] ∧
      (u (transmits 5 true { offers := [o] })).bit (TXF_CTL 0) 2 = true ∧ (u (transmits 1 false { offers := [o] })).mtcOn = false ∧
      ((u (transmits 1 true { offers := [o], pics := [{}] })).txf 0).pics = [{}] := by decide +kernel

theorem witness_MediaTransmit_due :
    (transmits 1 true { pics := [{}] }).txRuns 0 = true ∧ ((transmits 1 true { pics := [{}] }).txf 0).pics = [{}] ∧
      ((transmits 1 true { units := [{}] }).txf 0).pics = [] ∧ ((transmits 1 true { units := [{}] }).txf 0).units = [{}] ∧ ((transmits 1 true {}).txf 0).units = [] ∧
      (transmits 0 true { draining := true }).engineUp 0 = true ∧ (transmits 1 true {}).mtcOn = true ∧ (transmits 1 false {}).mtcOn = false := by decide +kernel

theorem test_handover_to_an_idle_flow : ((after (exec (.txHandover 0 42 5) (transmits 1 true { offers := [{ handle := 5, agent := 42 }] }))).txf 0).pics = [{ handle := 5, agent := 42 }] := by decide +kernel

/-- The media time running, a slew in progress or not. -/
def timed (slew : Int) (adj : W32) : State :=
  let s := (up.setB (hCTL pgMTC) 0 true).setReg MTC_ADJ adj
  { s with mtc := { s.mtc with slew := slew } }

theorem witness_MediaTime : up.served pf pgMTC = true ∧ (timed 16000000000 1).clocked = true ∧ (timed 16000000000 1).mtcOn = true ∧ (timed 16000000000 1).mtc.slew ≠ 0 := by decide +kernel

theorem test_adj_subtracts : (after (exec (.mtcAdj pf) { timed 0 0xFFFFFFFF with mtc := { time := { sec := 1, ns := 0 } } })).mtc.time = { sec := 0, ns := 999999999 } := by decide +kernel
theorem test_slew_ends : (after (exec .slewDone (timed 16000000000 1))).mtc.time = { sec := 0, ns := 1 } := by decide +kernel

/-! Fabric. -/

/-- Port 0 up in native mode with these credits on each channel, its engine and the switch on; this is node 2. -/
def linked (p : Port) : State :=
  let s := ((((media 2 0 {}).setB (hCTL (pgTPT 0)) 0 true).setB (hCTL pgTSW) 0 true).setReg TSW_NODE 2)
  ((span 0 4).foldl (fun s v => s.setReg (TPT_CREDIT 0 v) 4) s).setPort 0 { p with credits := [4, 4, 4, 4] }

theorem witness_Ports_host :
    (up.setDomain 73 true).served pf (pgTPT 0) = true ∧ (up.setDomain 73 true).bit (hCTL (pgTPT 0)) 0 = false ∧ (up.setDomain 73 true).inDrain (pgTPT 0) = false ∧
      (linked {}).bit (hCTL (pgTPT 0)) 0 = true ∧
      (let s := (up.setDomain 73 true).setReg (TPT_MODE 0) 2
       s.servedHdr pf (pgTPT 0) = true ∧ s.busy (pgTPT 0) = false ∧ s.portMode 0 = 2 ∧ s.bit (hCTL (pgTPT 0)) 0 = false ∧ s.pageActive (pgTPT 0) = false) ∧
      (linked {}).bit (TPT_PROBE_CTL 0) 0 = false ∧ (linked {}).portTakes 0 = true ∧ ((linked {}).setReg (TPT_PROBE_CTL 0) 1).bit (TPT_PROBE_CTL 0) 0 = true ∧
      (up.setDomain 73 true).portTakes 0 = false := by decide +kernel

theorem witness_Ports_links :
    (let s := linked { training := true }
     s.clocked = true ∧ s.portMode 0 = 2 ∧ (s.port 0).training = true ∧ s.gated (pgTPT 0) = false) ∧
    (linked {}).nativeUp 0 = true ∧ (media 3 0 {}).etherUp 0 = true ∧
    (let s := ((media 3 0 {}).setReg (TPT_LINK 0) 0).setB (hCTL (pgTPT 0)) 0 true
     s.portMode 0 = 3 ∧ s.bit (hCTL (pgTPT 0)) 0 = true ∧ s.bit (TPT_LINK 0) 0 = false ∧ s.gated (pgTPT 0) = false) := by decide +kernel

theorem witness_Ports_flits :
    (linked {}).portLive 0 = true ∧ ((linked {}).port 0).replay = 0 ∧
      (∀ n ∈ [15, 16], ((linked { replay := 1, naks := n }).port 0).replay ≠ 0 ∧ ((linked { replay := 1, naks := n }).port 0).naks = n) ∧ (15 : Nat) < 16 ∧
      ((linked { replay := 3 }).port 0).queue = [] ∧ ((linked {}).port 0).credits.getD 3 0 = 4 ∧ (linked {}).f (TPT_CREDIT 0 3) 9 0 = 4 ∧
      ((linked {}).setReg (TPT_CREDIT 0 3) 3).f (TPT_CREDIT 0 3) 9 0 + 1 ≤ 4 ∧ ((linked { returning := true }).port 0).returning = true ∧
      ((linked {}).setReg (TPT_PROBE_CTL 0) 1).gated (pgTPT 0) = false ∧ ((linked {}).setReg (TPT_PROBE_CTL 0) 1).portLive 0 = true := by decide +kernel

theorem witness_Ports_routes : ∀ m ∈ [0, 1, 511, 512, 4094, 4095], (linked {}).served pf (pgTRT + m / 512) = true := by decide +kernel

theorem test_sixteenth_nak_resets : (after (exec (.flitNak 0) (linked { replay := 1, naks := 16 }))).bit (TPT_LINK 0) 0 = false := by decide +kernel
theorem test_acknowledged_flits_leave : ((after (exec (.flitAck 0 2) (linked { replay := 3, oldest := 4095 }))).port 0).oldest = 1 := by decide +kernel
theorem test_too_many_credits : (after (exec (.creditReturn 0 1 1) (linked {}))).bit (hEVT (pgTPT 0)) 7 = true := by decide +kernel
theorem test_castling_pair : (after (exec (.tptModeWrite pf 0 0) ((up.setDomain 73 true).setReg (TPT_MODE 1) 2))).bit (TPT_LINK 1) 1 = false := by decide +kernel

theorem witness_ProbesAnswered :
    (linked {}).portLive 0 = true ∧ ((linked {}).port 0).queue = [] ∧ 1 ≤ (linked {}).f (TPT_CREDIT 0 0) 9 0 ∧ ((linked { replay := 511 }).port 0).replay + 1 ≤ 512 ∧
      (linked {}).bit (TPT_PROBE_CTL 0) 0 = false := by decide +kernel

/-- A header of a type for a destination. -/
def fabHdr (typ hops dst : Nat) : FabHeader :=
  { ptype := typ, vc := 1, alt := false, poison := false, hops := hops, dst := dst, src := 3, len := 0, seq := 7, tag := 0, addr := 1, resp := 0, sync := false }

theorem witness_Packets_transit :
    let u := (linked {}).portRx 0 (flitsOf [])
    let v := ((linked {}).setReg (TRT_ENTRY 9) 0x100).portRx 0 (flitsOf [])
    (linked {}).portLive 0 = true ∧ u.switchUp = true ∧ u.bit (hCTL pgTSW) 0 = true ∧ u.delivers (fabHdr 2 1 9) = false ∧ (fabHdr 12 0 9).hops = 0 ∧ (fabHdr 12 1 9).hops ≠ 0 ∧
      13 ≤ (fabHdr 13 1 9).ptype ∧ u.route (fabHdr 12 0 9) = none ∧ v.route (fabHdr 12 0 9) = some 0 := by decide +kernel

theorem witness_Packets_delivery :
    let u := (linked {}).portRx 0 (fabFlits (fabHdr 6 1 2))
    u.delivers (fabHdr 6 1 2) = true ∧ u.delivers (fabHdr 6 1 9) = false ∧ u.portMode (u.f (RXF_CTL 7) 6 4) = 2 ∧ (((linked {}).setReg (TPT_MODE 0) 1).portRx 0 1).portMode 0 ≠ 2 ∧
      (let s := (linked {}).setE2e 3 2 { expect := 9 }
       (fabHdr 6 1 2).seq ≠ ((s.portRx 0 (fabFlits (fabHdr 6 1 2))).e2eOf 3 2).expect ∧ seqBefore ((s.portRx 0 (fabFlits (fabHdr 6 1 2))).e2eOf 3 2).expect 7 = false) := by decide +kernel

theorem witness_Packets_again :
    (linked {}).switchUp = true ∧ ((linked {}).e2eOf 3 2).unacked = 0 ∧ ((linked {}).e2eOf 3 2).store = [] ∧
      (let s := ((linked {}).setReg TSW_CFG 0x400).setE2e 3 2 { store := [(fabHdr 6 1 3, [], 4)] }
       let t := ((linked {}).setReg TSW_CFG 0x400).setE2e 3 2 { store := [(fabHdr 6 1 3, [], 3)] }
       (∃ e ∈ (s.e2eOf 3 2).store, s.f TSW_CFG 15 8 ≤ e.2.2) ∧ (t.e2eOf 3 2).store ≠ [] ∧ ∀ e ∈ (t.e2eOf 3 2).store, e.2.2 < t.f TSW_CFG 15 8) ∧
      (({ linked {} with remotes := [{ tag := 5, node := 3 }] } : State).remotes.find? fun r => r.tag == 5) = some { tag := 5, node := 3 } := by decide +kernel

theorem test_no_hops_left : (after (exec (.fabricPacketForward 0 (fabHdr 6 0 9) []) (linked {}))).f TSW_HOPDROP 31 0 = 1 := by decide +kernel
theorem test_hop_taken : ((after (exec (.fabricPacketForward 0 (fabHdr 6 3 9) []) ((linked {}).setReg (TRT_ENTRY 9) 0x100))).outbox.map fun o =>
    match o with
    | .fabric n h _ => (n, h.hops)
    | _ => (9, 9)) = [(0, 2)] := by decide +kernel

/-- Group 1 of node 2: session 0, members 0 to 2, this member and the anchor as given. -/
def grouped (me anchor : Nat) : State := ((linked {}).setReg (ESP_CTL 1) (BitVec.ofNat 32 (1 + 2 * 65536 + me * 0x100000 + anchor * 0x1000000))).setSess 0 { up.sess 0 with phase := .opened, desc := decDesc }

theorem witness_Espalier_members :
    (grouped 0 0).anchorOf 1 2 = true ∧ (grouped 0 0).anchorOf 1 3 = false ∧ ((linked {}).setReg (ESP_CTL 1) 0x20001).anchorOf 1 2 = true ∧
      (((linked {}).setReg (ESP_CTL 1) 0x20001).sess 0).phase = .closed ∧ ((grouped 0 0).sess ((grouped 0 0).espSession 1)).phase ≠ .closed ∧ ((grouped 0 0).esp 1).startTime = none ∧
      (((grouped 0 0).setEsp 1 { startTime := some {} }).esp 1).startTime ≠ none ∧ (grouped 1 0).memberOf 1 = true := by decide +kernel

/-- The hash that a JOIN must carry to be admitted is an open constant; the hypothesis is met by that value itself. -/
theorem witness_Espalier_hash :
    ∃ hash : W64, ((grouped 0 0).sess ((grouped 0 0).espSession 1)).phase ≠ .closed ∧ hash = Config.espHash (espFields ((grouped 0 0).sess ((grouped 0 0).espSession 1)).desc) :=
  ⟨_, witness_Espalier_members.2.2.2.2.1, rfl⟩

theorem witness_Espalier_parts :
    let s := (grouped 0 0).setSess 0 { (grouped 0 0).sess 0 with pics := [{ started := true, jobs := [{ hedge := 0, phase := .done }, { hedge := 6 }] }] }
    let ended (j : EncJob) : Bool := j.phase == .done || j.phase == .ended
    (∀ p ∈ (s.sess (s.espSession 1)).pics.head?, p.started = true ∧ (p.jobs.all fun j => !decide (j.hedge < 4) || ended j) = true ∧
      (p.jobs.any fun j => decide (j.hedge = 4 + 2) && !ended j) = true) ∧ s.anchorOf 1 2 = true ∧
    (∀ m ∈ [0, 2], (grouped 1 0).groupUp 1 = true ∧ (m + 1 = (grouped 1 0).espSelf 1 ∨ m = (grouped 1 0).espSelf 1 + 1) ∧ m ≤ (grouped 1 0).espLast 1) ∧
    (grouped 1 0).inject = none ∧ ((grouped 1 0).esp 1).rows.contains (2, true, 5, {}) = false ∧
    (((grouped 1 0).setEsp 1 { rows := [(2, true, 5, {})] }).esp 1).rows.contains (2, true, 5, {}) = true := by decide +kernel

theorem test_join_of_a_closed_session : (after (exec (.join 1 2 0) ((linked {}).setReg (ESP_CTL 1) 0x20001))).bit (hEVT pgTSW) 9 = true := by decide +kernel

/-! Clocks, faults, supply and sideband. -/

/-- Power good with the clocks in this state. -/
def clocking (st : ClockState) : State := { State.reset with power := { State.reset.power with good := true, bulk := true, perst := false }, clock := { State.reset.clock with st := st } }

theorem witness_Clocks_plls :
    (∀ st ∈ [ClockState.start, .hold, .clockLost], (clocking st).power.good = true ∧ (clocking st).clock.st = st ∧ (({ clocking st with clock := { st := st, aEnabled := true } } : State).mayQualify false) = true) ∧
      (clocking .start).mayQualify false = true ∧
      up.mayQualify false = true ∧ up.running = true ∧ (up.setB CKG_SYS 13 true).running = true ∧ ((up.setRef true true).pllQual true = false) := by decide +kernel

/-- The frequency meter at work on a domain. -/
def measuring (m : Nat) : State := upWith CKG_FM_CTL (BitVec.ofNat 32 (m + 0x1000000))

theorem witness_Clocks_meter :
    (measuring 0).clocked = true ∧ (measuring 0).bit CKG_FM_CTL 24 = true ∧ (measuring 0).meterRuns = false ∧ ((measuring 0).setDomain 0 true).meterRuns = true ∧
      up.served pf pgCKG = true ∧ up.bit CKG_FM_CTL 24 = false ∧ up.sysPll = some false ∧ ({ up with clock := { up.clock with st := .onB } } : State).sysPll = some true ∧
      (up.setB CKG_SYS 10 true).pllQual true = true ∧ up.pllQual true = false ∧ (∀ k ∈ [9, 10, 24, 25], fld (BitVec.ofNat 32 (k * 65536)) 20 16 = k) := by decide +kernel

theorem test_select_refused : (after (exec (.clockSelect pf true) up)).bit (hEVT pgCKG) 7 = true := by decide +kernel
theorem test_clock_select : (after (exec (.clockSelect pf true) (up.setB CKG_SYS 10 true))).sysPll = some true := by decide +kernel
theorem test_measure_without_edges : (after (exec (.freqMeasureDone 77) (measuring 0))).reg CKG_FM_COUNT = 0 := by decide +kernel

/-- The unlock at a step; errors unlocked for injection into source `n`. -/
def unlocking (k : Nat) (testEn : Bool) : State := { up with unlock := k, testEn := testEn }
def unlocked (n : Nat) : State := ((unlocking 1 true).setReg FLT_INJ_STAT 1).setReg FLT_INJ_CTL (BitVec.ofNat 32 n)

theorem witness_Faults_raise :
    (∀ n ∈ [73, 126, 194], fltClass n = 0 ∧ 0 < n ∧ n < 197 ∧ n ≠ 196 ∧ up.inject = none ∧ (up.setReg (FLT_ACT n) 0xFFFF0000).f (FLT_ACT n) 4 0 = 0) ∧ up.power.good = true := by decide +kernel

theorem witness_Faults_unlock :
    up.served pf pgFLT = true ∧ up.unlock = 0 ∧ (unlocking 1 true).unlock = 1 ∧ (up.f DEV_SERIAL_LO 15 0 < 65536) ∧ (unlocking 2 true).unlock = 2 ∧ (unlocking 2 true).testEn = true ∧
      (unlocking 2 false).testEn = false ∧ fld (0 : W32) 15 0 = 0 ∧
      (let s : State := { upWith FLT_HIST_PTR 0x20000 with histTotal := 2 }
       s.f FLT_HIST_PTR 31 16 = 2 ∧ fld (1 : W32) 15 0 < 2 ∧ ¬ fld (2 : W32) 15 0 < 2) := by decide +kernel

theorem witness_Faults_inject :
    (unlocked 73).bit FLT_INJ_STAT 0 = true ∧ (unlocked 73).bit FLT_INJ_CTL 16 = false ∧ up.bit FLT_INJ_STAT 0 = false ∧ (unlocked 0x10049).bit FLT_INJ_CTL 16 = true ∧
      (unlocked 73).f FLT_INJ_CTL 7 0 = 73 ∧ flipSource 73 true = some 37 ∧ flipSource 73 false = some 73 ∧ flipSource 1 false = none ∧ flipSource 196 true = none := by decide +kernel

theorem test_first_key : (after (exec (.fltUnlock pf 0xC1E0) up)).unlock = 1 := by decide +kernel
theorem test_flip_two_arms_the_pair : (after (exec (.flip2 pf) (unlocked 73))).inject = some (37, 2, none) := by decide +kernel
theorem test_count_of_a_silent_source : (after (exec (.faultRaise 194 255 0 0) (upWith (FLT_ACT 194) 0xFFFF0000))).f (FLT_ACT 194) 31 16 = 0 := by decide +kernel

/-- No power yet; and a poll's readings. -/
def dark (en bulk : Bool) : State := { State.reset with power := { State.reset.power with pwrEn := en, bulk := bulk } }
def hot (js hs : List Int) (trip : Bool) : State := { up with power := { up.power with junctions := js, hbmTemps := hs, trip := trip } }

theorem witness_SupplyAndTemperatures :
    (∀ en ∈ [false, true], ∀ bulk ∈ [false, true], (dark en bulk).power.good = false ∧ (dark en bulk).power.tripped = false ∧ (dark en bulk).power.shutdown = false ∧
      (dark en bulk).power.pwrEn = en ∧ (dark en bulk).power.bulk = bulk) ∧ up.power.good = true ∧ up.power.feedALow = false ∧ up.power.feedBLow = false ∧
      State.reset.power.good = false ∧ (hot [] [1519] false).power.hbmTemps.getD 0 0 < 95 * 16 ∧ 95 * 16 ≤ ([1520] : List Int).getD 0 0 ∧
      (hot [] [] true).power.trip = true ∧ (∀ x ∈ ([1584] : List Int), x ≤ 99 * 16) ∧ (∀ x ∈ ([1440] : List Int), x ≤ 90 * 16) := by decide +kernel

theorem witness_SupplyAndTemperatures_limits :
    (hot [1648] [] false).hotAt 103 95 = true ∧ (hot [1647] [1519] false).hotAt 103 95 = false ∧ (hot [] [1520] false).hotAt 103 95 = true ∧ (hot [1584] [1440] false).cool = true ∧
      (hot [1600] [1440] false).cool = false ∧ (hot [1728] [] false).hotAt 108 100 = true ∧ (hot [] [1599] false).hotAt 108 100 = false ∧ (hot [1728] [] false).clocked = true ∧
      (let s := (span 0 4).foldl (fun s h => s.setF (HDG_DVFS h) 6 4 5) (hot [1648] [] false)
       (span 0 4).all (fun h => s.f (HDG_DVFS h) 6 4 == 5) && s.hotAt 103 95) = true := by decide +kernel

theorem test_power_needs_pwr_en : (after (exec .powerUp (dark false false))).power.good = false ∧ (after (exec .powerUp (dark true false))).power.good = true := by decide +kernel
theorem test_stacks_alarm : (after (exec (.sensorPoll [800] [1520]) up)).bit SMB_ALARM 2 = true ∧ (after (exec (.sensorPoll [800] [1519]) up)).bit SMB_ALARM 2 = false := by decide +kernel

theorem witness_ShutdownWins : (hot [1840] [] false).power.good = true ∧ (hot [1840] [] false).hotAt 115 105 = true ∧ (hot [] [1680] false).hotAt 115 105 = true ∧ (hot [1839] [1679] false).hotAt 115 105 = false := by decide +kernel

theorem test_shutdown_latches : (after (exec .thermalShutdown (hot [1840] [] false))).power.shutdown = true := by decide +kernel

theorem witness_Sideband : State.reset.clocked = false ∧ up.clocked = true ∧ ((0xE : Byte) ≠ 0x11) := by decide +kernel

theorem test_alarm_bits_clear : (after (exec (.smbWriteWord 0xF 1 true) (upWith SMB_ALARM 3))).reg SMB_ALARM = 2 := by decide +kernel
theorem test_fru_read_advances : (after (exec (.smbReadWord 0x11 true) (upWith SMB_FRU_ADDR 255))).f SMB_FRU_ADDR 7 0 = 0 := by decide +kernel
theorem test_peak_keeps_the_highest : (after (exec (.smbMeasurementUpdate 0 0 0 0 0 500 0) (upWith SMB_PIN_PEAK 600))).reg SMB_PIN_PEAK = 600 := by decide +kernel

/-! Configuration space (R32, R33, R36) and motion search (R115, R118, R119). -/

theorem test_identity : up.cfg 0 .vendorId = 0x1E5D ∧ up.cfg 0 .deviceId = 0x4832 ∧ up.cfg 0 .totalVFs = 31 := by decide +kernel

/-- The zero vector and four spatial candidates leave room for eleven probes, the last of them the third of ±16 (R119). -/
theorem test_cold_start_probes :
    let own : List Mv := [mvOf 0 0, mvOf 1 0, mvOf 2 0, mvOf 3 0, mvOf 5 0]
    (candList own).length = 16 ∧ candList own = own ++ probes.take 11 ∧ (candList own).getLast? = some (mvOf 0 16) := by decide +kernel

/-- A duplicate makes room for one more (R115). -/
theorem test_duplicates_leave : (candList [mvOf 0 0, mvOf 0 0]).length = 16 ∧ (candList [mvOf 0 0, mvOf 0 0]).getLast? = some (mvOf 16 (-16)) := by decide +kernel

end Sys2Proof.Tests
end

section
/-! How a step keeps the part (R2, R11): every command is `Sound`, and so is an idle microsecond. -/

namespace Sys2Proof.Machine

/-- Every command answers a next state that is as sound as the one it is carried out in. -/
theorem exec_sound (c : Instr) {u s : State} (sound : Sound u s) : Goes u (exec c s) := by
  cases c with
  | registerWrite who off vs => exact execRegisterWrite_sound who off vs sound
  | counterReadClear who span => exact execCounterReadClear_sound who span sound
  | bar0PartialWrite fn off be v => exact execBar0PartialWrite_sound fn off be v sound
  | pairLoRead who off => exact execPairLoRead_sound who off sound
  | pairLoWrite who off v => exact execPairLoWrite_sound who off v sound
  | evtSet who page v => exact execEvtSet_sound who page v sound
  | blockEnable who page => exact execBlockEnable_sound who page sound
  | drain who page => exact execDrain_sound who page sound
  | abort who page => exact execAbort_sound who page sound
  | blockDrainDone page => exact execBlockDrainDone_sound page sound
  | srst who page => exact execSrst_sound who page sound
  | blockResetReplyTimeout page => exact execBlockResetReplyTimeout_sound page sound
  | devRst who v => exact execDevRst_sound who v sound
  | warmReset => exact execWarmReset_sound sound
  | perstNAssert => exact execPerstNAssert_sound sound
  | pcieHotReset => exact execPcieHotReset_sound sound
  | perstNDeassert => exact execPerstNDeassert_sound sound
  | hostLinkDown => exact execHostLinkDown_sound sound
  | hostLinkRestored => exact execHostLinkRestored_sound sound
  | flr fn => exact execFlr_sound fn sound
  | powerStateChange fn d3 pmeEn clearPme => exact execPowerStateChange_sound fn d3 pmeEn clearPme sound
  | busMasterEnableChange fn on => exact execBusMasterEnableChange_sound fn on sound
  | vfDisable vfEnable ari numVFs => exact execVfDisable_sound vfEnable ari numVFs sound
  | bar2Resize log2 => exact execBar2Resize_sound log2 sound
  | bar2Access fn off len wr => exact execBar2Access_sound fn off len wr sound
  | msixControlWrite fn f => exact execMsixControlWrite_sound fn f sound
  | ptmRequest who => exact execPtmRequest_sound who sound
  | ptmDone answer => exact execPtmDone_sound answer sound
  | ringDoorbell who r tail => exact execRingDoorbell_sound who r tail sound
  | ringOwnerChange who r owner => exact execRingOwnerChange_sound who r owner sound
  | ringEntryFetchFail r err => exact execRingEntryFetchFail_sound r err sound
  | jobBadType r => exact execJobBadType_sound r sound
  | sessionOpen r => exact execSessionOpen_sound r sound
  | sessionCloseFinish r => exact execSessionCloseFinish_sound r sound
  | sessionCloseAbort r => exact execSessionCloseAbort_sound r sound
  | sessionCloseComplete sess => exact execSessionCloseComplete_sound sess sound
  | encodePicture r => exact execEncodePicture_sound r sound
  | decodeUnit r => exact execDecodeUnit_sound r sound
  | composeConfig r => exact execComposeConfig_sound r sound
  | flip r => exact execFlip_sound r sound
  | install r => exact execInstall_sound r sound
  | load r => exact execLoad_sound r sound
  | loadSwap r => exact execLoadSwap_sound r sound
  | nop r => exact execNop_sound r sound
  | fence r => exact execFence_sound r sound
  | fenceComplete r => exact execFenceComplete_sound r sound
  | alloc src pool count blocking => exact execAlloc_sound src pool count blocking sound
  | addref src h => exact execAddref_sound src h sound
  | release src h => exact execRelease_sound src h sound
  | transfer src h dst => exact execTransfer_sound src h dst sound
  | free src h => exact execFree_sound src h sound
  | reclaimByOwner src pool victim => exact execReclaimByOwner_sound src pool victim sound
  | reclaimDone pool => exact execReclaimDone_sound pool sound
  | poolWaiterServed pool => exact execPoolWaiterServed_sound pool sound
  | poolEnable who pool => exact execPoolEnable_sound who pool sound
  | poolDrain who pool => exact execPoolDrain_sound who pool sound
  | poolAbort who pool => exact execPoolAbort_sound who pool sound
  | linesDoneAdvance a h lines complete => exact execLinesDoneAdvance_sound a h lines complete sound
  | pictureStart sess => exact execPictureStart_sound sess sound
  | prepass sess pic activity costs vectors => exact execPrepass_sound sess pic activity costs vectors sound
  | sliceJobReady sess pic job => exact execSliceJobReady_sound sess pic job sound
  | inheritLatestStart sess pic job => exact execInheritLatestStart_sound sess pic job sound
  | sliceJobDispatch core => exact execSliceJobDispatch_sound core sound
  | stripStart core => exact execStripStart_sound core sound
  | ctuRowStart core headerBytes coded floors => exact execCtuRowStart_sound core headerBytes coded floors sound
  | pooledRowReady sess pic job => exact execPooledRowReady_sound sess pic job sound
  | sliceJobComplete core => exact execSliceJobComplete_sound core sound
  | sqBankSwap core => exact execSqBankSwap_sound core sound
  | sqTimeout core => exact execSqTimeout_sound core sound
  | sliceTrailer core => exact execSliceTrailer_sound core sound
  | promotionReplyTimeout hedge => exact execPromotionReplyTimeout_sound hedge sound
  | promotionReissue hedge => exact execPromotionReissue_sound hedge sound
  | hdgPromote who hedge v => exact execHdgPromote_sound who hedge v sound
  | hostPromoteTakeover hedge => exact execHostPromoteTakeover_sound hedge sound
  | hdgSpare who hedge v => exact execHdgSpare_sound who hedge v sound
  | bistStart who hedge slot => exact execBistStart_sound who hedge slot sound
  | bistDone hedge pass => exact execBistDone_sound hedge pass sound
  | hdgDvfsWrite who hedge v => exact execHdgDvfsWrite_sound who hedge v sound
  | dvfsApply hedge => exact execDvfsApply_sound hedge sound
  | hdgPersPinWrite who hedge v => exact execHdgPersPinWrite_sound who hedge v sound
  | decodeJobReady sess si => exact execDecodeJobReady_sound sess si sound
  | concealmentJobReady sess pic => exact execConcealmentJobReady_sound sess pic sound
  | concealLatestStart sess pic => exact execConcealLatestStart_sound sess pic sound
  | outputDeadline sess row => exact execOutputDeadline_sound sess row sound
  | flipPoint pipe => exact execFlipPoint_sound pipe sound
  | freewheelFlip pipe => exact execFreewheelFlip_sound pipe sound
  | canvasLineWrite pipe => exact execCanvasLineWrite_sound pipe sound
  | lateLine pipe => exact execLateLine_sound pipe sound
  | groupArm who pipe group => exact execGroupArm_sound who pipe group sound
  | groupCancel who pipe group => exact execGroupCancel_sound who pipe group sound
  | dchGo who ch => exact execDchGo_sound who ch sound
  | dchEnd ch => exact execDchEnd_sound ch sound
  | dmaDescriptorStart r => exact execDmaDescriptorStart_sound r sound
  | descriptorTransferError r index err => exact execDescriptorTransferError_sound r index err sound
  | descriptorEnd r index => exact execDescriptorEnd_sound r index sound
  | streamSliceStart r => exact execStreamSliceStart_sound r sound
  | streamSliceEnd r => exact execStreamSliceEnd_sound r sound
  | cbufRdWrite who r v => exact execCbufRdWrite_sound who r v sound
  | icClaim who inst => exact execIcClaim_sound who inst sound
  | icComplete who inst v => exact execIcComplete_sound who inst v sound
  | msixSend inst => exact execMsixSend_sound inst sound
  | icModWrite who inst r v => exact execIcModWrite_sound who inst r v sound
  | moderationTimer r => exact execModerationTimer_sound r sound
  | pmeRepeat fn => exact execPmeRepeat_sound fn sound
  | hbmRead a addr len => exact execHbmRead_sound a addr len sound
  | hbmWrite a addr bytes poison => exact execHbmWrite_sound a addr bytes poison sound
  | hbmFullTraining who stack => exact execHbmFullTraining_sound who stack sound
  | hbmTrainingDone stack temp sweeps us => exact execHbmTrainingDone_sound stack temp sweeps us sound
  | hbmTrackingRetrain who stack sweeps us => exact execHbmTrackingRetrain_sound who stack sweeps us sound
  | hbmTempPoll stack temp => exact execHbmTempPoll_sound stack temp sound
  | hbmRefresh stack => exact execHbmRefresh_sound stack sound
  | scrubRead stack errs => exact execScrubRead_sound stack errs sound
  | hbmMapWrite who v => exact execHbmMapWrite_sound who v sound
  | pprSoft who stack key => exact execPprSoft_sound who stack key sound
  | pprHard who stack key => exact execPprHard_sound who stack key sound
  | eventTaken q => exact execEventTaken_sound q sound
  | next q => exact execNext_sound q sound
  | jump q => exact execJump_sound q sound
  | cjump q => exact execCjump_sound q sound
  | call q => exact execCall_sound q sound
  | ret q => exact execRet_sound q sound
  | loop q => exact execLoop_sound q sound
  | dispatch q => exact execDispatch_sound q sound
  | halt q => exact execHalt_sound q sound
  | microwordAlu q => exact execMicrowordAlu_sound q sound
  | busRd q => exact execBusRd_sound q sound
  | busWr q => exact execBusWr_sound q sound
  | regRd q => exact execRegRd_sound q sound
  | regWr q => exact execRegWr_sound q sound
  | commit q => exact execCommit_sound q sound
  | evtMask q => exact execEvtMask_sound q sound
  | dch q => exact execDch_sound q sound
  | timer q => exact execTimer_sound q sound
  | seqTimerExpiry q => exact execSeqTimerExpiry_sound q sound
  | stageStart q => exact execStageStart_sound q sound
  | sqWrite q => exact execSqWrite_sound q sound
  | sqPush q => exact execSqPush_sound q sound
  | rcSnap q => exact execRcSnap_sound q sound
  | bitsPut q => exact execBitsPut_sound q sound
  | bitsGet q => exact execBitsGet_sound q sound
  | seqWatchdog q => exact execSeqWatchdog_sound q sound
  | bankSwap q => exact execBankSwap_sound q sound
  | storeReload core personality => exact execStoreReload_sound core personality sound
  | cswKick who v => exact execCswKick_sound who v sound
  | cswSwap who v => exact execCswSwap_sound who v sound
  | cswData0Read who => exact execCswData0Read_sound who sound
  | cswData3Write who v => exact execCswData3Write_sound who v sound
  | cswRevoke who v => exact execCswRevoke_sound who v sound
  | ethernetFrameReceive port f => exact execEthernetFrameReceive_sound port f sound
  | mediaPacketReceive flow pathB p => exact execMediaPacketReceive_sound flow pathB p sound
  | lossDeadline flow => exact execLossDeadline_sound flow sound
  | pictureSilenceTimeout flow => exact execPictureSilenceTimeout_sound flow sound
  | htxCmd who port v => exact execHtxCmd_sound who port v sound
  | hostFrameSent port => exact execHostFrameSent_sound port sound
  | flowEnable who tx flow => exact execFlowEnable_sound who tx flow sound
  | flowDrain who tx flow => exact execFlowDrain_sound who tx flow sound
  | flowAbort who tx flow => exact execFlowAbort_sound who tx flow sound
  | txHandover flow a h => exact execTxHandover_sound flow a h sound
  | txPacketDue flow => exact execTxPacketDue_sound flow sound
  | mtcLoad who => exact execMtcLoad_sound who sound
  | mtcAdj who => exact execMtcAdj_sound who sound
  | mtcSlew who => exact execMtcSlew_sound who sound
  | slewDone => exact execSlewDone_sound sound
  | mtcNsRead who => exact execMtcNsRead_sound who sound
  | tptModeWrite who port v => exact execTptModeWrite_sound who port v sound
  | linkTrainingStart who port => exact execLinkTrainingStart_sound who port sound
  | tolacLinkUp port credits reversed => exact execTolacLinkUp_sound port credits reversed sound
  | linkTrainingTimeout port => exact execLinkTrainingTimeout_sound port sound
  | tolacLinkDown port => exact execTolacLinkDown_sound port sound
  | flitNak port => exact execFlitNak_sound port sound
  | linkAckTimeout port => exact execLinkAckTimeout_sound port sound
  | fabricPacketForward port h payload => exact execFabricPacketForward_sound port h payload sound
  | probe port => exact execProbe_sound port sound
  | probeAns port serial node farPort mode => exact execProbeAns_sound port serial node farPort mode sound
  | probeGo who port => exact execProbeGo_sound who port sound
  | probeTimeout port => exact execProbeTimeout_sound port sound
  | e2eAck port h => exact execE2eAck_sound port h sound
  | e2eAckSend node vc => exact execE2eAckSend_sound node vc sound
  | e2eRetransmit node vc => exact execE2eRetransmit_sound node vc sound
  | memTimeout tag => exact execMemTimeout_sound tag sound
  | failback port => exact execFailback_sound port sound
  | mediaRtp port h payload => exact execMediaRtp_sound port h payload sound
  | memRd port h => exact execMemRd_sound port h sound
  | memWr port h payload => exact execMemWr_sound port h payload sound
  | memResp port h payload => exact execMemResp_sound port h payload sound
  | bulkWr port h payload => exact execBulkWr_sound port h payload sound
  | bulkRd port h => exact execBulkRd_sound port h sound
  | bulkResp port h payload => exact execBulkResp_sound port h payload sound
  | join group member hash => exact execJoin_sound group member hash sound
  | go group sec ns => exact execGo_sound group sec ns sound
  | allowance group sec ns amounts => exact execAllowance_sound group sec ns amounts sound
  | subst group member sec ns => exact execSubst_sound group member sec ns sound
  | leave group member => exact execLeave_sound group member sound
  | espHalo group member strip alt row sec ns bytes => exact execEspHalo_sound group member strip alt row sec ns bytes sound
  | espPart port h group member sec ns tile last bytes => exact execEspPart_sound port h group member sec ns tile last bytes sound
  | partTimeout group member => exact execPartTimeout_sound group member sound
  | routeEntryWrite who entry v => exact execRouteEntryWrite_sound who entry v sound
  | clockFailure kind pllB both => exact execClockFailure_sound kind pllB both sound
  | pllQualified pllB holdUs => exact execPllQualified_sound pllB holdUs sound
  | holdTimeout => exact execHoldTimeout_sound sound
  | clockSelect who b => exact execClockSelect_sound who b sound
  | pllbConfigWrite who v => exact execPllbConfigWrite_sound who v sound
  | gateWrite who k v => exact execGateWrite_sound who k v sound
  | freqMeasureStart who v => exact execFreqMeasureStart_sound who v sound
  | freqMeasureDone count => exact execFreqMeasureDone_sound count sound
  | freqMeasureTimeout count => exact execFreqMeasureTimeout_sound count sound
  | faultRaise src agent code detail => exact execFaultRaise_sound src agent code detail sound
  | faultNPulseEnd => exact execFaultNPulseEnd_sound sound
  | fltUnlock who v => exact execFltUnlock_sound who v sound
  | fltHistAckWrite who v => exact execFltHistAckWrite_sound who v sound
  | event who => exact execEvent_sound who sound
  | flip1 who => exact execFlip1_sound who sound
  | flip2 who => exact execFlip2_sound who sound
  | testEnFall => exact execTestEnFall_sound sound
  | powerUp => exact execPowerUp_sound sound
  | undervoltage => exact execUndervoltage_sound sound
  | feedFail feedB => exact execFeedFail_sound feedB sound
  | feedAlarm feedB low => exact execFeedAlarm_sound feedB low sound
  | currentLimitTrip => exact execCurrentLimitTrip_sound sound
  | hotSwapRetry => exact execHotSwapRetry_sound sound
  | pwrEnLow => exact execPwrEnLow_sound sound
  | pwrEnHigh => exact execPwrEnHigh_sound sound
  | sensorPoll junctions hbmTemps => exact execSensorPoll_sound junctions hbmTemps sound
  | thermalStepDown => exact execThermalStepDown_sound sound
  | thermalStepUp => exact execThermalStepUp_sound sound
  | thermalTrip => exact execThermalTrip_sound sound
  | thermalShutdown => exact execThermalShutdown_sound sound
  | smbReadWord k pec => exact execSmbReadWord_sound k pec sound
  | smbWriteWord k v pecOk => exact execSmbWriteWord_sound k v pecOk sound
  | smbSendByte b => exact execSmbSendByte_sound b sound
  | ethernetLinkDown port => exact execEthernetLinkDown_sound port sound
  | ethernetLinkUp port => exact execEthernetLinkUp_sound port sound
  | hbmRequestIssue pcx => exact execHbmRequestIssue_sound pcx sound
  | rowIdleClose pcx bank => exact execRowIdleClose_sound pcx bank sound
  | creditReturn port vc n => exact execCreditReturn_sound port vc n sound
  | flitAck port n => exact execFlitAck_sound port n sound
  | stageDone core stage => exact execStageDone_sound core stage sound
  | smbMeasurementUpdate vinA vinB iinA iinB board pin1ms pin100ms => exact execSmbMeasurementUpdate_sound vinA vinB iinA iinB board pin1ms pin100ms sound

/-- With nothing waiting, a step is an idle microsecond. -/
theorem step_of_pending_nil {s : State} (hp : s.pending = []) : step s = .next (idleTick s) := by
  simp only [step, hp]

/-- A step carries out the oldest waiting command on the state with the queue's rest. -/
theorem step_of_pending_cons {s : State} {c : Instr} {rest : List Instr} (hp : s.pending = c :: rest) :
    step s = exec c { s with pending := rest } := by
  simp only [step, hp]

/-- Settles O4: a step is a command on the state with the queue's rest, or an idle microsecond, and both are `Sound`. -/
theorem everyStepKeepsThePart : Obligations.EveryStepKeepsThePart := by
  intro s
  cases hp : s.pending with
  | nil =>
    have k := idleTick_sound (Sound.refl s)
    exact ⟨_, step_of_pending_nil hp, k.pending.trans hp, k.variant, k.rev, k.signReq, k.mem⟩
  | cons c rest =>
    obtain ⟨t, ht, k⟩ := exec_sound c (Sound.refl { s with pending := rest })
    exact ⟨t, (step_of_pending_cons hp).trans ht, k.pending, k.variant, k.rev, k.signReq, k.mem⟩

/-- Settles O3: by computing the reset state. -/
theorem resetState : Obligations.ResetState :=
  ⟨rfl, rfl, rfl, rfl, rfl, ⟨rfl, rfl⟩, fun _ => rfl⟩

end Sys2Proof.Machine
end

section
/-! What a warm reset keeps (R509, R510): the registers that the tables mark, and nothing of the units. -/

namespace Sys2Proof.Machine

/-- A table whose entries are kept by their keys: the kept ones read as before, the others as their default. -/
theorem tabGet_filter_key {α : Type} (d : Nat → α) (p : Nat → Bool) (t : Tab α) (k : Nat) :
    tabGet d (t.filter fun e => p e.1) k = if p k then tabGet d t k else d k := by
  induction t with
  | nil => simp
  | cons e t ih =>
    obtain ⟨j, v⟩ := e
    by_cases hj : p j = true
    · by_cases hk : k = j
      · subst hk; simp [tabGet, hj]
      · simp [tabGet, hj, hk, ih]
    · by_cases hk : k = j
      · subst hk; simp [hj, ih]
      · simp [tabGet, hj, hk, ih]

/-- What every step of an operation over a list leaves, the whole operation leaves. -/
theorem State.each_keeps {α β : Type} (p : State → β) {f : State → α → State} (hf : ∀ t x, p (f t x) = p t) (l : List α) (s : State) :
    p (s.each l f) = p s := by
  unfold State.each
  induction l generalizing s with
  | nil => rfl
  | cons x l ih => exact (ih (f s x)).trans (hf s x)

/-- A register that is no HDG_BIST after a warm reset: kept where the tables say so, else at its reset value. -/
theorem State.warmClear_reg (s : State) {a : Nat} (ha : ∀ h, a ≠ HDG_BIST h) :
    s.warmClear.reg a = if keptWarm a then s.reg a else regDefault a := by
  have tests : ∀ (t : State) h, (t.setB (HDG_BIST h) 8 false).reg a = t.reg a := fun t h => t.reg_setReg_ne _ (ha h)
  exact (State.each_keeps (fun t => t.reg a) tests _ _).trans (tabGet_filter_key _ _ _ _)

/-- Settles O10: beside HDG_BIST, whose running tests it ends, a warm reset writes no register, and no unit's table is carried over. -/
theorem warmClearKeeps : Obligations.WarmClearKeeps := by
  intro s
  have keeps {β : Type} (p : State → β) (hp : ∀ t a v, p (State.setReg t a v) = p t) {l : List Nat} {t : State} :
      p (t.each l fun u h => u.setB (HDG_BIST h) 8 false) = p t := State.each_keeps p (fun _ _ => hp _ _ _) _ _
  exact ⟨fun _ => s.warmClear_reg, keeps State.hbm State.setReg_hbm, keeps State.host State.setReg_host, keeps State.pending State.setReg_pending,
    keeps State.power State.setReg_power, keeps State.resetting State.setReg_resetting, keeps State.draining State.setReg_draining,
    keeps State.rings State.setReg_rings, keeps State.chans State.setReg_chans, keeps State.pools State.setReg_pools,
    keeps State.bufs State.setReg_bufs, keeps State.sessions State.setReg_sessions, keeps State.hedges State.setReg_hedges,
    keeps State.pipes State.setReg_pipes, keeps State.ports State.setReg_ports, keeps (fun t => t.hif.linkUp) fun _ _ _ => rfl⟩

end Sys2Proof.Machine
end

section
/-! The bytes of a record (R5, R265) and of host memory: what is read back after a write, and the record of a job that goes there (R246, R272). -/

namespace Sys2Proof.Machine

@[simp] theorem length_leBytes (n v : Nat) : (leBytes n v).length = n := by
  induction n generalizing v with
  | zero => rfl
  | succ n ih => simp [leBytes, ih]

/-- A field that lies in a structure leaves its length. -/
theorem length_putAt {bs v : List Byte} {o : Nat} (h : o + v.length ≤ bs.length) : (putAt bs o v).length = bs.length := by
  simp only [putAt, List.length_append, List.length_take, List.length_drop]; omega

/-- From its offset on, a structure holds the field that was put there. -/
theorem drop_putAt {bs : List Byte} {o : Nat} (v : List Byte) (h : o ≤ bs.length) : (putAt bs o v).drop o = v ++ bs.drop (o + v.length) := by
  have hl : (bs.take o).length = o := by simp [h]
  rw [putAt, List.append_assoc, List.drop_append, hl, Nat.sub_self, List.drop_zero, List.drop_eq_nil_of_le hl.le, List.nil_append]

/-- Fields that lie in a structure leave its length. -/
theorem length_foldl_putAt {body : List (Nat × List Byte)} {bs : List Byte} (h : ∀ e ∈ body, e.1 + e.2.length ≤ bs.length) :
    (body.foldl (fun b x => putAt b x.1 x.2) bs).length = bs.length := by
  induction body generalizing bs with
  | nil => rfl
  | cons e body ih =>
    have he := length_putAt (h e (by simp))
    rw [List.foldl_cons, ih (fun x hx => he ▸ h x (List.mem_cons_of_mem _ hx)), he]

/-- A record with its body in bytes 0x8 to 0x37 has 64 bytes, the last four of them its completion dword. -/
theorem State.recordBytes_split (s : State) (tag : W32) (typ sess flags : Nat) {body : List (Nat × List Byte)} (phase : Bool) (code : Nat)
    (hb : ∀ e ∈ body, e.1 + e.2.length ≤ 0x38) :
    (s.recordBytes tag typ sess flags body phase code).length = 64 ∧
      (s.recordBytes tag typ sess flags body phase code).drop 0x3C = leBytes 4 (1 <<< 31 ||| b2n phase <<< 30 ||| code) := by
  have put {bs v : List Byte} {o : Nat} (h : bs.length = 64) (ho : o + v.length ≤ 64) : (putAt bs o v).length = 64 := by
    rw [length_putAt (by omega), h]
  have hdr := put (v := leBytes 2 flags) (o := 6) (put (v := leBytes 1 sess) (o := 5) (put (v := leBytes 1 typ) (o := 4)
    (put (v := leBytes 4 tag.toNat) (o := 0) (List.length_replicate (n := 64) (a := (0 : Byte))) (by simp)) (by simp)) (by simp)) (by simp)
  have full := put (v := leBytes 4 s.mtc.time.ns.toNat) (o := 0x38)
    ((length_foldl_putAt fun e he => by have := hb e he; omega).trans hdr) (by simp)
  refine ⟨put full (by simp), ?_⟩
  simp only [State.recordBytes]
  rw [drop_putAt _ (by omega), length_leBytes, List.drop_eq_nil_of_le full.le, List.append_nil]

/-! Host memory. -/

/-- A write of host memory leaves HBM. -/
@[simp] theorem State.hostWrite_hbm (s : State) (a : Nat) (bs : List Byte) : (s.hostWrite a bs).hbm = s.hbm := by
  induction bs generalizing s a with
  | nil => rfl
  | cons b bs ih => exact ih _ _

/-- A byte apart from the range written. -/
theorem State.hostByte_hostWrite_ne (s : State) {a x : Nat} {bs : List Byte} (h : x < a ∨ a + bs.length ≤ x) :
    (s.hostWrite a bs).hostByte x = s.hostByte x := by
  induction bs generalizing s a with
  | nil => rfl
  | cons b bs ih =>
    rw [List.length_cons] at h
    rw [State.hostWrite, ih _ (by omega)]
    exact tabGet_put_ne _ _ _ (by omega)

/-- The bytes of a range, first to last. -/
theorem span_succ (a n : Nat) : span a (n + 1) = a :: span (a + 1) n := by
  simp only [span, List.range_succ_eq_map, List.map_cons, List.map_map, Nat.add_zero]
  congr 1
  exact List.map_congr_left fun x _ => by simp only [Function.comp]; omega

theorem State.hostBytes_succ (s : State) (a n : Nat) : s.hostBytes a (n + 1) = s.hostByte a :: s.hostBytes (a + 1) n := by
  simp only [State.hostBytes, span_succ, List.map_cons]

theorem State.hostBytes_add (s : State) (a m n : Nat) : s.hostBytes a (m + n) = s.hostBytes a m ++ s.hostBytes (a + m) n := by
  induction m generalizing a with
  | zero => rw [Nat.zero_add]; rfl
  | succ m ih =>
    rw [Nat.add_right_comm, State.hostBytes_succ, ih, State.hostBytes_succ, List.cons_append, Nat.add_right_comm a 1 m, Nat.add_assoc a m 1]

/-- Bytes apart from the range written. -/
theorem State.hostBytes_hostWrite_ne (s : State) {a x n : Nat} {bs : List Byte} (h : x + n ≤ a ∨ a + bs.length ≤ x) :
    (s.hostWrite a bs).hostBytes x n = s.hostBytes x n := by
  refine List.map_congr_left fun y hy => s.hostByte_hostWrite_ne ?_
  obtain ⟨i, hi, rfl⟩ := List.mem_map.1 hy
  have := List.mem_range.1 hi
  omega

/-- The bytes written are read back. -/
theorem State.hostBytes_hostWrite (s : State) (a : Nat) (bs : List Byte) : (s.hostWrite a bs).hostBytes a bs.length = bs := by
  induction bs generalizing s a with
  | nil => rfl
  | cons b bs ih =>
    rw [List.length_cons, State.hostBytes_succ, State.hostWrite, ih, State.hostByte_hostWrite_ne _ (by omega)]
    exact congrArg (· :: bs) (tabGet_put_same _ _ _ _)

/-! A job's record in host memory. -/

/-- A completion that a ring counts changes registers and the ring's own state alone. -/
theorem State.ringCompletion_eq (s : State) (r : Nat) : ∃ regs rings, s.ringCompletion r = { s with regs := regs, rings := rings } := by
  unfold State.ringCompletion
  extract_lets t c u
  split
  · exact ⟨_, _, rfl⟩
  · exact ⟨_, _, rfl⟩

@[simp] theorem State.ringCompletion_host (s : State) (r : Nat) : (s.ringCompletion r).host = s.host := by
  obtain ⟨_, _, e⟩ := s.ringCompletion_eq r
  rw [e]

@[simp] theorem State.ringCompletion_hbm (s : State) (r : Nat) : (s.ringCompletion r).hbm = s.hbm := by
  obtain ⟨_, _, e⟩ := s.ringCompletion_eq r
  rw [e]

/-- A record for host memory that its function reaches is written there, and counted. -/
theorem State.writeStatus_host {s : State} {j : JobRef} (bs : List Byte) (hl : j.statusLocal = false) (ha : j.statusAddr.toNat % 64 = 0)
    (hu : s.hif.linkUp = true) (hb : (s.fn (s.owner j.ring)).bme = true) (hd : s.d0 (s.owner j.ring) = true) :
    s.writeStatus j bs = (s.recordWrite false j.statusAddr.toNat bs).ringCompletion j.ring := by
  simp [State.writeStatus, hl, ha, hu, hb, hd]

/-- The host memory that a record of 64 bytes leaves. -/
theorem State.recordWrite_host (s : State) (a : Nat) {bs : List Byte} (h : bs.length = 64) :
    (s.recordWrite false a bs).hostBytes a 64 = bs ∧
    (s.recordWrite false a bs).hostBytes (a + 0x3C) 4 = bs.drop 0x3C ∧
    (∀ x, (x < a ∨ a + 64 ≤ x) → (s.recordWrite false a bs).hostByte x = s.hostByte x) := by
  have h1 : (bs.take 0x3C).length = 0x3C := by simp [h]
  have h2 : (bs.drop 0x3C).length = 4 := by simp [h]
  have last : (s.recordWrite false a bs).hostBytes (a + 0x3C) 4 = bs.drop 0x3C := by
    have k := State.hostBytes_hostWrite (s.hostWrite a (bs.take 0x3C)) (a + 0x3C) (bs.drop 0x3C)
    rwa [h2] at k
  have first : (s.recordWrite false a bs).hostBytes a 0x3C = bs.take 0x3C := by
    have k := State.hostBytes_hostWrite s a (bs.take 0x3C)
    rw [h1] at k
    exact (State.hostBytes_hostWrite_ne _ (by omega)).trans k
  refine ⟨?_, last, fun x hx => ?_⟩
  · rw [State.hostBytes_add _ a 0x3C 4, first, last, List.take_append_drop]
  · exact (State.hostByte_hostWrite_ne _ (by omega)).trans (State.hostByte_hostWrite_ne _ (by omega))

/-- A record for host memory leaves HBM. -/
theorem State.recordWrite_host_hbm (s : State) (a : Nat) (bs : List Byte) : (s.recordWrite false a bs).hbm = s.hbm :=
  (State.hostWrite_hbm _ _ _).trans (State.hostWrite_hbm _ _ _)

/-- The memories that the completion of such a job leaves: those of its record's write. -/
theorem State.finishJob_host {s : State} {j : JobRef} (flags : Nat) (body : List (Nat × List Byte)) (code : Nat)
    (hl : j.statusLocal = false) (ha : j.statusAddr.toNat % 64 = 0) (hu : s.hif.linkUp = true)
    (hb : (s.fn (s.owner j.ring)).bme = true) (hd : s.d0 (s.owner j.ring) = true) :
    (s.finishJob j flags body code).host = (s.recordWrite false j.statusAddr.toNat
      (s.recordBytes j.tag j.typ (if jobNamesSess j.typ then j.sess else 0) flags body false code)).host ∧
    (s.finishJob j flags body code).hbm = s.hbm := by
  simp only [State.finishJob, State.writeStatus_host _ hl ha hu hb hd, State.setRing_host, State.setRing_hbm, State.ringCompletion_host,
    State.ringCompletion_hbm, State.recordWrite_host_hbm, and_self]

/-- States with the same host memory read the same bytes of it. -/
theorem State.hostByte_congr {s t : State} (h : t.host = s.host) : t.hostByte = s.hostByte := by
  funext x; simp only [State.hostByte, h]

/-- Settles O17: the record is written in two parts that meet at its completion dword, and counting the completion touches no memory. -/
theorem recordInHostMemory : Obligations.RecordInHostMemory := by
  intro j flags body code s hl ha hu hb hd hbody a t
  obtain ⟨len, last⟩ := s.recordBytes_split j.tag j.typ (if jobNamesSess j.typ then j.sess else 0) flags false code hbody
  obtain ⟨hhost, hhbm⟩ := State.finishJob_host flags body code hl ha hu hb hd
  obtain ⟨all, dword, rest⟩ := s.recordWrite_host a len
  have bytes : t.hostByte = _ := State.hostByte_congr hhost
  refine ⟨?_, ?_, fun x hx => (congrFun bytes x).trans (rest x hx), hhbm⟩
  · rw [State.hostBytes, bytes]; exact all
  · rw [State.hostBytes, bytes]; exact dword.trans (last.trans (by simp [b2n]))

end Sys2Proof.Machine
end

section
/-! Writes of the common header (R54), reads of counters and pairs (R7, R53), and partial writes (R52). -/

namespace Sys2Proof.Machine

/-- A served write through PF0 of a register of the common header. -/
theorem exec_registerWrite_header {s : State} {p off : Nat} (v : W32) (h : s.servedHdr (.pcie 0) p = true) (ho : off < 0x40) (h4 : off % 4 = 0) :
    exec (.registerWrite (.pcie 0) (pg p off) [v]) s = .next ((s.noted (.pcie 0) p).hdrWrite p off v) := by
  have hp : pg p off / 0x1000 = p := by unfold pg; omega
  have hr : pg p off % 0x1000 = off := by unfold pg; omega
  have h4' : off / 4 * 4 = off := by omega
  have e := State.busRegWrite_header (s := s) (a := pg p off) v (by rwa [hp]) (by rwa [hr])
  rw [hp] at e
  refine congrArg Host.Outcome.next (e.trans ?_)
  simp only [State.regWrite, hp, hr, h4', if_pos ho]

/-- Settles O6: what the header's write does at the three offsets, in the state that a served access is noted in. -/
theorem headerWrites : Obligations.HeaderWrites := by
  intro page v s p pf0 plain
  have reg (who : Who) : (plain (s.noted who p)).reg (hEVT p) = s.reg (hEVT p) :=
    (State.unlock_reg _ _ _).trans (State.noted_reg _ _ _ _)
  refine ⟨fun h => ⟨exec_registerWrite_header v h (by decide) (by decide), ?_⟩, fun who h => ?_⟩
  · have e := exec_registerWrite_header (off := 0x10) v h (by decide) (by decide)
    rw [← reg pf0]; exact e
  · rw [← reg who]
    exact congrArg Host.Outcome.next (State.accessHdr_served h _)

/-! Reads. -/

/-- A read of a body register through PF0, in a block whose reads have no effect of their own: by the register's row. -/
theorem State.bodyRead_row {s : State} {a i : Nat} {r : PageRow} {row : RegRow} (hp : pageInfo (a / 0x1000) = some (r, i))
    (hr : rowAt r.block (a % 0x1000) = some row) (hic : r.block ≠ .ic) (hcsw : r.block ≠ .csw) (hmtc : r.block ≠ .mtc)
    (hsmb : r.block ≠ .smb) (hpoolt : r.block ≠ .poolt) :
    s.bodyRead a =
      if row.pair = 1 then ({ s with hiLatch := tabPut (fun _ => none) s.hiLatch (a + 4) (some (s.view (a + 4))) }, s.view a)
      else if row.pair = 2 then (s, (tabGet (fun _ => none) s.hiLatch a).getD (s.view a))
      else if row.rc = 0 then (s, s.view a)
      else (s.setReg a (s.reg a &&& ~~~BitVec.ofNat 32 row.rc), s.view a) := by
  simp only [State.bodyRead, hp]
  split
  · contradiction
  · contradiction
  · contradiction
  · contradiction
  · simp only [hr, hpoolt, false_and, if_false]

/-- A write of a body register, but for the latched half that it drops (R53). -/
theorem State.regWrite_body (s : State) (who : Who) {a : Nat} (v : W32) (ha : 0x40 ≤ a % 0x1000) (h4 : a % 4 = 0) :
    ∃ l, s.regWrite who a v = { s with hiLatch := l }.bodyWrite who (a / 0x1000) (a % 0x1000) v := by
  have e : a % 0x1000 / 4 * 4 = a % 0x1000 := by omega
  have hn : ¬ a % 0x1000 < 0x40 := by omega
  simp only [State.regWrite, e, if_neg hn]
  split
  · exact ⟨_, rfl⟩
  · exact ⟨_, rfl⟩

/-! DEV_BAR2_BASE (R36, R53): a write of the low half waits for the high half. -/

/-- A value below 2^64 that is stored in a pair is read back. -/
theorem State.pair_setPair (s : State) {lo hi : Nat} (v : Nat) (hne : lo ≠ hi) (hv : v < 2 ^ 64) : (s.setPair lo hi v).pair lo hi = v := by
  simp only [State.pair, State.setPair_eq, State.reg_setReg_same, State.reg_setReg_ne _ _ hne, BitVec.toNat_ofNat]
  omega

theorem alignBase_lt (l v : Nat) : alignBase l v < 2 ^ 48 :=
  (Nat.div_mul_le_self _ _).trans_lt (Nat.mod_lt _ (by decide))

/-- A base has 48 bits. -/
theorem alignBase_mod (l v : Nat) : alignBase l (v % 2 ^ 48) = alignBase l v := by
  simp only [alignBase, Nat.mod_mod]

/-- A register whose bits are all RW holds what was written. -/
theorem maskedValue_of_rw_all {r : RegRow} (old v : W32) (hrw : r.rw = 0xFFFFFFFF) (hw1c : r.w1c = 0) : maskedValue r old v = v := by
  have all : v &&& BitVec.ofNat 32 0xFFFFFFFF = v := BitVec.and_allOnes
  simp only [maskedValue, hrw, hw1c]
  simp [all]

/-- One whose low 16 bits are RW holds them as written. -/
theorem maskedValue_mod_of_rw_low {r : RegRow} (old v : W32) (hrw : r.rw = 0xFFFF) (hw1c : r.w1c = 0) :
    (maskedValue r old v).toNat % 2 ^ 16 = v.toNat % 2 ^ 16 := by
  have all (w : BitVec 16) : w &&& BitVec.ofNat 16 0xFFFF = w := BitVec.and_allOnes
  have e : (maskedValue r old v).setWidth 16 = v.setWidth 16 := by
    simp only [maskedValue, hrw, hw1c]
    simp [all]
  simpa only [BitVec.toNat_setWidth] using congrArg BitVec.toNat e

theorem regRow_DEV_BAR2_BASE_HI : regRow DEV_BAR2_BASE_HI = some ⟨0x54, 0x8, 1, 0xFFFF, 0, 0, 0, 0, false, 2⟩ := rfl

/-- The high half takes effect with the low half that is held. -/
theorem State.rawWrite_DEV_BAR2_BASE_HI {s : State} {l : W32} (v : W32) (h : s.loOf DEV_BAR2_BASE_LO = some l) :
    s.rawWrite DEV_BAR2_BASE_HI v =
      ((s.maskWrite DEV_BAR2_BASE_LO l).maskWrite DEV_BAR2_BASE_HI v).setLo DEV_BAR2_BASE_LO none := by
  have h' : s.loOf (DEV_BAR2_BASE_HI - 4) = some l := h
  simp only [State.rawWrite, regRow_DEV_BAR2_BASE_HI, h']
  rfl

/-- The base that such a write leaves, before it is aligned: bits above 47 are whatever they were. -/
theorem State.pair_rawWrite_DEV_BAR2_BASE_HI {s : State} {l : W32} (v : W32) (h : s.loOf DEV_BAR2_BASE_LO = some l) :
    (s.rawWrite DEV_BAR2_BASE_HI v).pair DEV_BAR2_BASE_LO DEV_BAR2_BASE_HI % 2 ^ 48 = l.toNat + 2 ^ 32 * (v.toNat % 2 ^ 16) := by
  have hne : DEV_BAR2_BASE_LO ≠ DEV_BAR2_BASE_HI := by decide
  have lo : (s.rawWrite DEV_BAR2_BASE_HI v).reg DEV_BAR2_BASE_LO = l := by
    rw [State.rawWrite_DEV_BAR2_BASE_HI v h]
    show ((s.setReg DEV_BAR2_BASE_LO (maskedValue _ _ l)).setReg DEV_BAR2_BASE_HI _).reg DEV_BAR2_BASE_LO = l
    rw [State.reg_setReg_ne _ _ hne, State.reg_setReg_same, maskedValue_of_rw_all _ _ rfl rfl]
  have hi : ((s.rawWrite DEV_BAR2_BASE_HI v).reg DEV_BAR2_BASE_HI).toNat % 2 ^ 16 = v.toNat % 2 ^ 16 := by
    rw [State.rawWrite_DEV_BAR2_BASE_HI v h]
    show ((State.setReg _ DEV_BAR2_BASE_HI (maskedValue _ _ v)).reg DEV_BAR2_BASE_HI).toNat % 2 ^ 16 = _
    rw [State.reg_setReg_same, maskedValue_mod_of_rw_low _ _ rfl rfl]
  rw [State.pair, lo]
  omega

@[simp] theorem State.loOf_setLo (s : State) (a : Nat) (v : Option W32) : (s.setLo a v).loOf a = v := tabGet_put_same _ _ _ _

@[simp] theorem State.alignPair_loOf (s : State) (lo hi l a : Nat) : (s.alignPair lo hi l).loOf a = s.loOf a := rfl

/-- A write of the low half is held. -/
theorem State.devWrite_DEV_BAR2_BASE_LO (s : State) (v : W32) : s.devWrite DEV_BAR2_BASE_LO v = s.setLo DEV_BAR2_BASE_LO (some v) := rfl

/-- A write of the high half with a low half held: both take effect, aligned, and none is held any longer. -/
theorem State.devWrite_DEV_BAR2_BASE_HI {s : State} {l : W32} (v : W32) (h : s.loOf DEV_BAR2_BASE_LO = some l) :
    (s.devWrite DEV_BAR2_BASE_HI v).loOf DEV_BAR2_BASE_LO = none ∧
    (s.devWrite DEV_BAR2_BASE_HI v).pair DEV_BAR2_BASE_LO DEV_BAR2_BASE_HI = alignBase s.hif.bar2Log2 (l.toNat + 2 ^ 32 * (v.toNat % 2 ^ 16)) := by
  have e : s.devWrite DEV_BAR2_BASE_HI v = (s.rawWrite DEV_BAR2_BASE_HI v).alignPair DEV_BAR2_BASE_LO DEV_BAR2_BASE_HI s.hif.bar2Log2 := by
    have hif : (s.rawWrite DEV_BAR2_BASE_HI v).hif = s.hif := by rw [State.rawWrite_DEV_BAR2_BASE_HI v h]; rfl
    rw [← hif]; rfl
  rw [e]
  constructor
  · rw [State.rawWrite_DEV_BAR2_BASE_HI v h]
    exact (State.alignPair_loOf _ _ _ _ _).trans (State.loOf_setLo _ _ _)
  · rw [State.alignPair, State.pair_setPair _ _ (by decide) ((alignBase_lt _ _).trans (by decide)), ← alignBase_mod,
      State.pair_rawWrite_DEV_BAR2_BASE_HI v h]

/-- A served write through PF0 of a DEV body register. -/
theorem State.busRegWrite_dev {s : State} {off : Nat} (v : W32) (h : s.served (.pcie 0) pgDEV = true) (h1 : 0x40 ≤ off) (h2 : off < 0x1000) (h4 : off % 4 = 0) :
    ∃ l, s.busRegWrite (.pcie 0) off v = { s with hiLatch := l }.devWrite off v := by
  have hp : off / 0x1000 = pgDEV := (by omega : off / 0x1000 = 0)
  have hr : off % 0x1000 = off := by omega
  obtain ⟨l, e⟩ := (s.noted (.pcie 0) pgDEV).regWrite_body (.pcie 0) v (hr.symm ▸ h1) h4
  have plain : s.noted (.pcie 0) pgDEV = s := State.noted_plain (by decide) (by decide) (by decide) (by decide)
  rw [plain, hp, hr] at e
  refine ⟨l, ?_⟩
  rw [State.busRegWrite_body v (hp ▸ h) (hr.symm ▸ h1), hp, plain, e]
  rfl

/-- Settles O7: a counter and a low half by their rows, DEV_BAR2_BASE by its two writes, a partial write by the counter's room. -/
theorem countersAndPairs : Obligations.CountersAndPairs := by
  refine ⟨?_, ?_, ?_⟩
  · intro a r i row s h4 ha hp hr hic hcsw hmtc hsmb hpoolt h
    have read := State.busRegRead_body h ha h4
    rw [State.bodyRead_row hp hr hic hcsw hmtc hsmb hpoolt] at read
    refine ⟨fun hpair hrc => ?_, fun hpair => ?_⟩
    · have word : s.busRegReads (.pcie 0) a 4 = _ := (s.busRegReads_word _ a).trans read
      simp only [hpair, hrc, if_false, OfNat.zero_ne_ofNat, zero_ne_one] at word
      exact congrArg Host.Outcome.next word
    · simp only [hpair, if_true] at read
      exact ⟨_, congrArg Host.Outcome.next read, rfl, rfl, tabGet_put_same (fun _ => none) s.hiLatch (a + 4) (some (s.view (a + 4)))⟩
  · intro lo hi s h
    obtain ⟨l, eLo⟩ := State.busRegWrite_dev (off := DEV_BAR2_BASE_LO) lo h (by decide) (by decide) (by decide)
    obtain ⟨l', eHi⟩ := State.busRegWrite_dev (off := DEV_BAR2_BASE_HI) hi h (by decide) (by decide) (by decide)
    rw [State.devWrite_DEV_BAR2_BASE_LO] at eLo
    refine ⟨⟨_, congrArg Host.Outcome.next eLo, rfl, State.loOf_setLo _ _ _⟩, fun held => ⟨_, congrArg Host.Outcome.next eHi, ?_⟩⟩
    exact State.devWrite_DEV_BAR2_BASE_HI (s := { s with hiLatch := l' }) hi held
  · intro fn off be v s hbe hc hl hd n
    have e : exec (.bar0PartialWrite fn off be v) s = .next s.partialCount := by
      have hu : s.hostUp = true := by simp [State.hostUp, hc, hl]
      refine congrArg Host.Outcome.next ?_
      rw [State.partialWrite, if_neg hbe]
      simp [hu, hd]
    refine ⟨fun hn => e.trans (congrArg Host.Outcome.next ?_), fun hn => e.trans (congrArg Host.Outcome.next (if_pos hn))⟩
    have room : min (n + 1) (2 ^ (15 + 1 - 0) - 1) = n + 1 := by omega
    have hne : ¬ s.f DEV_ACC_ERR 15 0 = 0xFFFF := Nat.ne_of_lt hn
    rw [State.partialCount, if_neg hne, State.satF_eq]
    exact congrArg (fun k => (s.setReg DEV_ACC_ERR (setFld (s.reg DEV_ACC_ERR) 15 0 k)).event pgDEV 3) room

end Sys2Proof.Machine
end

section
/-! The address map of HBM (R350, R351): every local address has a place of its own, so that its cell is its own too. -/

namespace Sys2Proof.Machine

/-- What two numbers share cancels in the difference of their hashes. -/
theorem xor_mod_two_pow_cancel (a b r n : Nat) (hb : b % 2 ^ n = 0) : (a ^^^ r) % 2 ^ n ^^^ (b ^^^ r) % 2 ^ n = a % 2 ^ n := by
  rw [Nat.xor_mod_two_pow, Nat.xor_mod_two_pow, hb, Nat.zero_xor, Nat.xor_assoc, Nat.xor_self, Nat.xor_zero]

/-- The hash of a granule differs from that of its row of granules by the granule's place in the row. -/
theorem pcx7_xor (g : Nat) : pcx7 g ^^^ pcx7 (g / 128 * 128) = g % 128 := by
  have shift7 : (g / 128 * 128) >>> 7 = g >>> 7 := by omega
  have shift14 : (g / 128 * 128) >>> 14 = g >>> 14 := by omega
  have shift21 : (g / 128 * 128) >>> 21 = g >>> 21 := by omega
  have shift28 : (g / 128 * 128) >>> 28 = g >>> 28 := by omega
  simp only [pcx7, shift7, shift14, shift21, shift28, Nat.xor_assoc]
  exact xor_mod_two_pow_cancel _ _ _ 7 (Nat.mul_mod_left _ _)

theorem pcx5_xor (g : Nat) : pcx5 g ^^^ pcx5 (g / 32 * 32) = g % 32 := by
  have shift5 : (g / 32 * 32) >>> 5 = g >>> 5 := by omega
  have shift10 : (g / 32 * 32) >>> 10 = g >>> 10 := by omega
  have shift15 : (g / 32 * 32) >>> 15 = g >>> 15 := by omega
  have shift20 : (g / 32 * 32) >>> 20 = g >>> 20 := by omega
  have shift25 : (g / 32 * 32) >>> 25 = g >>> 25 := by omega
  simp only [pcx5, shift5, shift10, shift15, shift20, shift25, Nat.xor_assoc]
  exact xor_mod_two_pow_cancel _ _ _ 5 (Nat.mul_mod_left _ _)

theorem pcx5_lt (g : Nat) : pcx5 g < 32 := Nat.mod_lt _ (by decide)

/-- An address below the affine regions. -/
theorem hbmPlace_of_lt {c aff a : Nat} (h : a < 4 * (c - aff) * GiB) :
    hbmPlace c aff a = (pcx7 (a / 256), a / 256 / 128 * 256 + a % 256) := if_pos h

/-- An address of the affine regions, by its distance `b` from their start. -/
theorem hbmPlace_of_ge {c aff : Nat} (b : Nat) :
    hbmPlace c aff (4 * (c - aff) * GiB + b) =
      (b / (aff * GiB) * 32 + pcx5 (b % (aff * GiB) / 256), (c - aff) * GiB / 32 + b % (aff * GiB) / 256 / 32 * 256 + b % 256) := by
  have low : (4 * (c - aff) * GiB + b) % 256 = b % 256 := by simp only [GiB]; omega
  rw [hbmPlace, if_neg (by omega), low, Nat.add_sub_cancel_left]

/-- A place in a pseudo-channel lies inside it. -/
theorem hbmPlace_snd_lt {c aff a : Nat} (h : aff ≤ c) (ha : a < 4 * c * GiB) : (hbmPlace c aff a).2 < c * GiB / 32 := by
  by_cases hl : a < 4 * (c - aff) * GiB
  · rw [hbmPlace_of_lt hl]
    simp only [GiB] at hl ⊢
    omega
  · obtain ⟨b, rfl⟩ := Nat.exists_eq_add_of_le (Nat.le_of_not_lt hl)
    have hb : b % (aff * GiB) < aff * GiB := Nat.mod_lt _ (by simp only [GiB] at hl ha ⊢; omega)
    rw [hbmPlace_of_ge]
    simp only [GiB] at hb ⊢
    generalize b % (aff * 2 ^ 30) = r at hb ⊢
    omega

/-- The address of an address's place is the address. -/
theorem hbmAddr_hbmPlace {c aff a : Nat} (ha : a < 4 * c * GiB) :
    hbmAddr c aff (hbmPlace c aff a).1 (hbmPlace c aff a).2 = a := by
  by_cases hl : a < 4 * (c - aff) * GiB
  · have inside : a / 256 / 128 * 256 + a % 256 < (c - aff) * GiB / 32 := by simp only [GiB] at hl ⊢; omega
    have row : (a / 256 / 128 * 256 + a % 256) / 256 = a / 256 / 128 := by omega
    rw [hbmPlace_of_lt hl, hbmAddr, if_pos inside]
    simp only [row, pcx7_xor]
    omega
  · obtain ⟨b, rfl⟩ := Nat.exists_eq_add_of_le (Nat.le_of_not_lt hl)
    rw [hbmPlace_of_ge, hbmAddr, if_neg (by omega)]
    have parts := Nat.div_add_mod' b (aff * GiB)
    have whole : b / (aff * GiB) * (aff * GiB) = 256 * (b / (aff * GiB) * (aff * 2 ^ 22)) := by simp only [GiB]; ring
    have cut : (c - aff) * GiB / 32 % 256 = 0 := by simp only [GiB]; omega
    generalize hr : b % (aff * GiB) = r at *
    generalize b / (aff * GiB) = q at *
    generalize (c - aff) * GiB / 32 = e at *
    have row : (e + r / 256 / 32 * 256 + b % 256 - e) / 256 = r / 256 / 32 := by omega
    have chan := pcx5_lt (r / 256)
    have stack : (q * 32 + pcx5 (r / 256)) / 32 = q := by omega
    have pc : (q * 32 + pcx5 (r / 256)) % 32 = pcx5 (r / 256) := by omega
    simp only [row, stack, pc, pcx5_xor]
    omega

/-- Addresses of HBM with one cell are one address. -/
theorem State.cell_inj {s : State} (h : s.affGiB ≤ s.stackGiB) {a b : Nat} (ha : a < s.hbmSize) (hb : b < s.hbmSize)
    (e : s.cell a = s.cell b) : a = b := by
  have la := hbmPlace_snd_lt h ha
  have lb := hbmPlace_snd_lt h hb
  have size (p : Nat) {o n : Nat} (ho : o < n) : (p * n + o) / n = p ∧ (p * n + o) % n = o := by
    rw [Nat.mul_comm, Nat.mul_add_div (by omega), Nat.mul_add_mod, Nat.div_eq_of_lt ho, Nat.mod_eq_of_lt ho]
    exact ⟨rfl, rfl⟩
  obtain ⟨divA, modA⟩ := size (hbmPlace s.stackGiB s.affGiB a).1 la
  obtain ⟨divB, modB⟩ := size (hbmPlace s.stackGiB s.affGiB b).1 lb
  have chan : (hbmPlace s.stackGiB s.affGiB a).1 = (hbmPlace s.stackGiB s.affGiB b).1 := divA.symm.trans ((congrArg (· / _) e).trans divB)
  have off : (hbmPlace s.stackGiB s.affGiB a).2 = (hbmPlace s.stackGiB s.affGiB b).2 := modA.symm.trans ((congrArg (· % _) e).trans modB)
  rw [← hbmAddr_hbmPlace ha, chan, off, hbmAddr_hbmPlace hb]

end Sys2Proof.Machine
end

section
/-! What serving a request leaves as it was (R359, R364, R365, R539): the corrections of a read, the faults they raise and the counters write registers and sequencers, but neither memory nor what is sent nor the address map. -/

namespace Sys2Proof.Machine

/-- What a byte's value rests on, and what is sent: both memories, the contents' seeds, the address map, and the outbox. -/
def State.memView (s : State) : Tab Byte × Tab Nat × Tab Byte × Variant × W32 × List Output :=
  (s.hbm, s.memSeed, s.host, s.variant, s.reg (HBM_MAP 0), s.outbox)

/-- What is read of the memories rests on their view. -/
theorem State.memView_eq {s t : State} (h : t.memView = s.memView) :
    t.hbm = s.hbm ∧ t.hbmDefault = s.hbmDefault ∧ t.host = s.host ∧ t.stackGiB = s.stackGiB ∧ t.affGiB = s.affGiB ∧ t.outbox = s.outbox := by
  simp only [State.memView, Prod.mk.injEq] at h
  obtain ⟨hbm, seed, host, variant, map, outbox⟩ := h
  exact ⟨hbm, hbmDefault_congr variant seed, host, by simp only [State.stackGiB, variant], by simp only [State.affGiB, State.f, map], outbox⟩

theorem State.cell_congr {s t : State} (h : t.memView = s.memView) : t.cell = s.cell := by
  obtain ⟨-, -, -, size, aff, -⟩ := State.memView_eq h
  funext a
  simp only [State.cell, size, aff]

theorem State.hbmByte_congr {s t : State} (h : t.memView = s.memView) : t.hbmByte = s.hbmByte := by
  obtain ⟨hbm, dflt, -⟩ := State.memView_eq h
  funext a
  simp only [State.hbmByte, hbm, dflt, State.cell_congr h]

/-- A register that is not HBM_MAP. -/
theorem State.memView_setReg (s : State) {a : Nat} (v : W32) (h : a ≠ 0x240040) : (s.setReg a v).memView = s.memView := by
  simp only [State.memView, State.reg_setReg_ne s v h.symm]
  rfl

/-- The header of a page holds no HBM_MAP. -/
@[simp] theorem State.memView_event (s : State) (p b : Nat) : (s.event p b).memView = s.memView :=
  s.memView_setReg _ (by simp only [hEVT]; omega)

theorem State.memView_whenB (s : State) (c : Bool) {f : State → State} (hf : ∀ t, (f t).memView = t.memView) : (s.whenB c f).memView = s.memView := by
  cases c
  · rfl
  · exact hf s

theorem fld_lt (w : W32) (hi lo : Nat) : fld w hi lo < 2 ^ (hi + 1 - lo) := Nat.mod_lt _ (Nat.two_pow_pos _)

/-! A fault's record (R525). -/

@[simp] theorem State.memView_latch (s : State) (q e : Nat) : (s.latch q e).memView = s.memView := rfl
@[simp] theorem State.memView_setBusy (s : State) (p : Nat) (b : Bool) : (s.setBusy p b).memView = s.memView := rfl
@[simp] theorem State.memView_power (s : State) (x : Power) : ({ s with power := x } : State).memView = s.memView := rfl
@[simp] theorem State.memView_histTotal (s : State) (n : Nat) : ({ s with histTotal := n } : State).memView = s.memView := rfl

@[simp] theorem State.memView_pinPulse (s : State) : s.pinPulse.memView = s.memView := by
  unfold State.pinPulse
  split
  · rw [State.memView_power, State.memView_event, State.setB_eq, State.memView_setReg _ _ (by decide)]
  · rfl

/-- The entry that is written is one of the 32. -/
@[simp] theorem State.memView_histWrite (s : State) (src agent code : Nat) (detail : W32) : (s.histWrite src agent code detail).memView = s.memView := by
  have slot : s.f FLT_HIST_PTR 4 0 < 32 := fld_lt _ 4 0
  have lost : (s.whenB (s.histUnread (s.f FLT_HIST_PTR 4 0)) fun s => (s.satF FLT_HIST_OVF 31 0).event pgFLT 1).memView = s.memView :=
    s.memView_whenB _ fun t => by rw [State.memView_event, State.satF_eq, t.memView_setReg _ (by decide)]
  simp only [State.histWrite, State.memView_histTotal]
  generalize s.f FLT_HIST_PTR 4 0 = i at slot lost ⊢
  have entry (o : Nat) (h : o < 0x20) : 0x3400 + o + i * 0x20 ≠ 0x240040 := by omega
  rw [State.memView_setReg _ _ (by decide), State.memView_setReg _ _ (entry 0x18 (by decide)), State.memView_setReg _ _ (entry 0x14 (by decide)),
    State.memView_setReg _ _ (entry 0x10 (by decide)), State.memView_setReg _ _ (entry 0xC (by decide)),
    State.memView_setReg _ _ (entry 0x8 (by decide)), State.memView_setReg _ _ (entry 0x4 (by decide)),
    State.memView_setReg _ _ (entry 0x0 (by decide))]
  exact lost

@[simp] theorem State.memView_syndrome (s : State) (src agent code : Nat) : (s.syndrome src agent code).memView = s.memView := by
  unfold State.syndrome
  split
  · rfl
  · split
    · rfl
    · exact s.memView_setReg _ (by simp only [hSYND]; omega)

@[simp] theorem State.memView_askReset (s : State) (cause : Nat) : (s.askReset cause).memView = s.memView := by
  unfold State.askReset
  split_ifs <;> rfl

@[simp] theorem State.memView_rAction (s : State) (src : Nat) : (s.rAction src).memView = s.memView := by
  unfold State.rAction
  split_ifs
  · exact s.memView_askReset 5
  · split
    · split
      · rfl
      · exact State.each_keeps State.memView (fun t p => t.memView_setBusy p true) _ s
    · rfl
  · rfl

@[simp] theorem State.memView_noteFault (s : State) (src agent code : Nat) (detail : W32) : (s.noteFault src agent code detail).memView = s.memView := by
  unfold State.noteFault
  split
  · rfl
  · next raised =>
    have known : src < 197 := by simp only [fltRaised, Bool.not_eq_true', decide_eq_false_iff_not] at raised; omega
    extract_lets counted act marked latched logged noted pended pulsed
    have hcounted : counted.memView = s.memView := by
      simp only [counted, State.incF_eq, State.memView_setReg s _ (show FLT_ACT src ≠ 0x240040 by simp only [FLT_ACT]; omega)]
    have hmarked : marked.memView = s.memView := by
      refine (counted.memView_whenB _ fun t => ?_).trans hcounted
      split
      · exact t.memView_setReg _ (by simp only [hSTAT]; omega)
      · rfl
    split
    · exact hmarked
    · have hpended : pended.memView = noted.memView := noted.memView_whenB _ fun t => by
        rw [State.memView_event, State.setB_eq, t.memView_setReg _ (by simp only [FLT_PEND]; omega)]
      calc (pulsed.rAction src).memView
        _ = pulsed.memView := State.memView_rAction _ _
        _ = pended.memView := State.memView_whenB _ _ State.memView_pinPulse
        _ = noted.memView := hpended
        _ = logged.memView := State.memView_syndrome _ _ _ _
        _ = latched.memView := State.memView_whenB _ _ fun t => t.memView_histWrite src agent code detail
        _ = marked.memView := State.memView_latch _ _ _
        _ = s.memView := hmarked

/-! Corrections, injections and counters. -/

@[simp] theorem State.memView_inject (s : State) (x : Option (Nat × Nat × Option Nat)) : ({ s with inject := x } : State).memView = s.memView := rfl
@[simp] theorem State.memView_poison (s : State) (x : Tab Bool) : ({ s with poison := x } : State).memView = s.memView := rfl
@[simp] theorem State.memView_setPoison (s : State) (a : Nat) (b : Bool) : (s.setPoison a b).memView = s.memView := rfl
@[simp] theorem State.memView_setPch (s : State) (c : Nat) (x : Pch) : (s.setPch c x).memView = s.memView := rfl

@[simp] theorem State.memView_injectSpent (s : State) : s.injectSpent.memView = s.memView := by
  rw [State.injectSpent, State.setB_eq, State.memView_setReg _ _ (by decide), State.setB_eq, State.memView_setReg _ _ (by decide), State.memView_inject]

@[simp] theorem State.memView_corrected (s : State) (k : Nat) : (s.corrected k).memView = s.memView := by
  simp only [State.corrected, State.memView_noteFault, State.memView_event, State.satF_eq]
  exact s.memView_setReg _ (by simp only [HBM_ECC_CE]; omega)

/-- A pair of the page's registers beside HBM_MAP. -/
theorem State.memView_setPair (s : State) {lo hi : Nat} (v : Nat) (hlo : lo ≠ 0x240040) (hhi : hi ≠ 0x240040) :
    (s.setPair lo hi v).memView = s.memView := by
  rw [State.setPair_eq, State.memView_setReg _ _ hhi, State.memView_setReg _ _ hlo]

@[simp] theorem State.memView_uncorrectable (s : State) (k : Nat) : (s.uncorrectable k).memView = s.memView := by
  unfold State.uncorrectable
  extract_lets l i tagged counted size logged
  have hlogged : logged.memView = counted.memView := counted.memView_whenB _ fun t => by
    extract_lets placed located
    rw [State.memView_setReg _ _ (by simp only [HBM_ERRLOG_ROW]; omega)]
    simp only [located]
    rw [State.memView_setReg _ _ (by simp only [HBM_ERRLOG_LOC]; omega)]
    exact t.memView_setPair _ (by simp only [HBM_ERRLOG_ADDR_LO]; omega) (by simp only [HBM_ERRLOG_ADDR_HI]; omega)
  have hcounted : counted.memView = s.memView := by
    simp only [counted, State.memView_event, State.satF_eq]
    rw [State.memView_setReg _ _ (by simp only [HBM_ECC_UE]; omega)]
    exact s.memView_poison _
  exact (State.memView_noteFault _ _ _ _ _).trans (hlogged.trans hcounted)

@[simp] theorem State.memView_injectFire (s : State) (pred : Nat → Bool) : (s.injectFire pred).memView = s.memView := by
  unfold State.injectFire
  split
  · split_ifs <;> simp
  · rfl

@[simp] theorem State.memView_injectTake (s : State) (a n : Nat) : (s.injectTake a n).memView = s.memView := by
  unfold State.injectTake
  split
  · split_ifs
    · split
      · split <;> rfl
      · split_ifs <;> rfl
    · rfl
  · rfl

@[simp] theorem State.memView_writeTags (s : State) (a n : Nat) (pois : Bool) : (s.writeTags a n pois).memView = s.memView :=
  State.each_keeps State.memView (fun t b => by split_ifs <;> simp) _ s

/-- The counters of bytes served are registers of the stacks beside HBM_MAP. -/
theorem State.memView_countHbm (s : State) {lo hi : Nat → Nat} (a n : Nat) (hlo : ∀ i, lo i ≠ 0x240040) (hhi : ∀ i, hi i ≠ 0x240040) :
    (s.countHbm lo hi a n).memView = s.memView :=
  State.each_keeps State.memView (fun t i => by
    dsimp only
    split_ifs
    · rfl
    · exact t.memView_setPair _ (hlo i) (hhi i)) _ s

@[simp] theorem State.memView_queuePlace (s : State) (write : Bool) (sector : Nat) : (s.queuePlace write sector).memView = s.memView := by
  refine (State.memView_whenB _ _ fun t => ?_).trans (s.memView_setPch _ _)
  rw [State.inc_eq, State.memView_setReg _ _ (by simp only [HBM_INORDER]; omega)]

@[simp] theorem State.memView_queueRange (s : State) (write : Bool) (a n : Nat) : (s.queueRange write a n).memView = s.memView :=
  State.each_keeps State.memView (fun t _ => t.memView_queuePlace write _) _ s

/-- A read leaves every byte. -/
@[simp] theorem State.memView_hbmRead (s : State) (a n : Nat) : (s.hbmRead a n).memView = s.memView := by
  rw [State.hbmRead, State.memView_countHbm _ _ _ (fun i => by simp only [HBM_RD_BYTES_LO]; omega) (fun i => by simp only [HBM_RD_BYTES_HI]; omega),
    State.memView_injectFire]

/-- A write leaves what the store of its bytes leaves. -/
theorem State.memView_hbmWrite (s : State) (a : Nat) (bs : List Byte) (pois : Bool) :
    ∃ u : State, u.memView = s.memView ∧ (s.hbmWrite a bs pois).memView = (u.storeHbm a bs).memView :=
  ⟨_, s.memView_injectFire _, by
    rw [State.hbmWrite, State.memView_injectTake,
      State.memView_countHbm _ _ _ (fun i => by simp only [HBM_WR_BYTES_LO]; omega) (fun i => by simp only [HBM_WR_BYTES_HI]; omega),
      State.memView_writeTags]⟩

end Sys2Proof.Machine
end

section
/-! Requests of HBM (R17, R19, R356 to R362): what a read answers, what a write stores, where a request waits, and the controller's queue. -/

namespace Sys2Proof.Machine

/-! The store of a write's bytes. -/

theorem State.hbmByte_setHbmByte (s : State) (a x : Nat) (b : Byte) :
    (s.setHbmByte a b).hbmByte x = if s.cell x = s.cell a then b else s.hbmByte x := tabGet_put _ _ _ _ _

@[simp] theorem State.storeHbm_host (s : State) (a : Nat) (bs : List Byte) : (s.storeHbm a bs).host = s.host := by
  induction bs generalizing s a with
  | nil => rfl
  | cons b bs ih => exact ih _ _

@[simp] theorem State.storeHbm_outbox (s : State) (a : Nat) (bs : List Byte) : (s.storeHbm a bs).outbox = s.outbox := by
  induction bs generalizing s a with
  | nil => rfl
  | cons b bs ih => exact ih _ _

/-- A byte apart from the range stored. -/
theorem State.hbmByte_storeHbm_ne {s : State} {a x : Nat} {bs : List Byte} (map : s.affGiB ≤ s.stackGiB) (ha : a + bs.length ≤ s.hbmSize)
    (hx : x < s.hbmSize) (h : x < a ∨ a + bs.length ≤ x) : (s.storeHbm a bs).hbmByte x = s.hbmByte x := by
  induction bs generalizing s a with
  | nil => rfl
  | cons b bs ih =>
    rw [List.length_cons] at ha h
    have other : s.cell x ≠ s.cell a := fun e => by
      have := State.cell_inj map hx (by omega) e
      omega
    calc ((s.setHbmByte a b).storeHbm (a + 1) bs).hbmByte x
      _ = (s.setHbmByte a b).hbmByte x := ih (s := s.setHbmByte a b) map (by rw [Nat.add_right_comm]; exact ha) hx (by omega)
      _ = s.hbmByte x := (s.hbmByte_setHbmByte a x b).trans (if_neg other)

/-- The bytes stored, first to last. -/
theorem State.hbmByte_storeHbm {s : State} {a k : Nat} {bs : List Byte} (map : s.affGiB ≤ s.stackGiB) (ha : a + bs.length ≤ s.hbmSize)
    (hk : k < bs.length) : (s.storeHbm a bs).hbmByte (a + k) = bs.getD k 0 := by
  induction bs generalizing s a k with
  | nil => exact absurd hk (Nat.not_lt_zero k)
  | cons b bs ih =>
    rw [List.length_cons] at ha hk
    have rest : a + 1 + bs.length ≤ (s.setHbmByte a b).hbmSize := by rw [Nat.add_right_comm]; exact ha
    cases k with
    | zero =>
      have here : a < s.hbmSize := by omega
      calc ((s.setHbmByte a b).storeHbm (a + 1) bs).hbmByte a
        _ = (s.setHbmByte a b).hbmByte a := State.hbmByte_storeHbm_ne (s := s.setHbmByte a b) map rest here (by omega)
        _ = b := (s.hbmByte_setHbmByte a a b).trans (if_pos rfl)
    | succ k =>
      have e := ih (s := s.setHbmByte a b) (a := a + 1) (k := k) map rest (by omega)
      rw [Nat.add_right_comm, Nat.add_assoc] at e
      exact e

/-! Requests that no stack holds. -/

@[simp] theorem State.hbmByte_emit (s : State) (o : Output) : (s.emit o).hbmByte = s.hbmByte := rfl
@[simp] theorem State.hostByte_emit (s : State) (o : Output) : (s.emit o).hostByte = s.hostByte := rfl

theorem exec_hbmWrite_served {a addr : Nat} {bytes : List Byte} {poison : Bool} {s : State} (hc : s.clocked = true)
    (hin : s.inHbm addr bytes.length = true) (free : s.holding addr bytes.length = none) :
    exec (.hbmWrite a addr bytes poison) s = .next (s.serveWrite a addr bytes poison) := by
  show execHbmWrite a addr bytes poison s = _
  simp only [execHbmWrite, hc, hin, State.hbmRequest, free, Bool.not_true, Bool.false_eq_true, if_false, if_true]

theorem exec_hbmRead_served {a addr len : Nat} {s : State} (hc : s.clocked = true) (hin : s.inHbm addr len = true) (free : s.holding addr len = none) :
    exec (.hbmRead a addr len) s = .next (s.serveRead a addr len) := by
  show execHbmRead a addr len s = _
  simp only [execHbmRead, hc, hin, State.hbmRequest, free, Bool.not_true, Bool.false_eq_true, if_false, if_true]

/-- Settles O37: serving the write stores its bytes and else leaves what the bytes rest on; no two addresses of HBM share a cell. -/
theorem writesStore : Obligations.WritesStore := by
  intro a addr bytes poison s hc map hin free
  obtain ⟨u, hu, hw⟩ := (s.queueRange true addr bytes.length).memView_hbmWrite addr bytes poison
  have view : u.memView = s.memView := hu.trans (s.memView_queueRange _ _ _)
  obtain ⟨-, -, host, size, aff, outbox⟩ := State.memView_eq view
  obtain ⟨-, -, host', -, -, outbox'⟩ := State.memView_eq hw
  have map' : u.affGiB ≤ u.stackGiB := by rw [aff, size]; exact map
  have size' : u.hbmSize = s.hbmSize := by simp only [State.hbmSize, size]
  have range : addr + bytes.length ≤ u.hbmSize := by rw [size']; exact of_decide_eq_true hin
  have byte (x : Nat) : (s.serveWrite a addr bytes poison).hbmByte x = (u.storeHbm addr bytes).hbmByte x := by
    rw [State.serveWrite, State.hbmByte_emit, State.hbmByte_congr hw]
  refine ⟨_, exec_hbmWrite_served hc hin free, ?_, fun k hk => ?_, fun x hx apart => ?_, fun x => ?_⟩
  · rw [State.serveWrite, State.outbox_emit, outbox', State.storeHbm_outbox, outbox]
  · exact (byte _).trans (State.hbmByte_storeHbm map' range hk)
  · rw [byte, State.hbmByte_storeHbm_ne map' range (hx.trans_eq size'.symm) apart, State.hbmByte_congr view]
  · rw [State.serveWrite, State.hostByte_emit, State.hostByte_congr (host'.trans ((u.storeHbm_host _ _).trans host))]

/-- Settles O38: a read's queueing, corrections and counters leave what the bytes rest on. -/
theorem readsAnswer : Obligations.ReadsAnswer := by
  intro a addr len s hc hin free
  have queued : (s.queueRange false addr len).memView = s.memView := s.memView_queueRange _ _ _
  have read : ((s.queueRange false addr len).hbmRead addr len).memView = s.memView := (State.memView_hbmRead _ _ _).trans queued
  obtain ⟨-, -, host, -, -, outbox⟩ := State.memView_eq read
  have bytes : (s.queueRange false addr len).hbmBytes addr len = s.hbmBytes addr len := by
    simp only [State.hbmBytes, State.hbmByte_congr queued]
  refine ⟨_, if ((s.queueRange false addr len).hbmRead addr len).poisoned addr len then .okPoison else .ok, exec_hbmRead_served hc hin free,
    ?_, ?_, fun x => ?_, fun x => ?_⟩
  · rw [State.serveRead, State.outbox_emit, outbox, bytes]
  · split
    · exact .inr rfl
    · exact .inl rfl
  · rw [State.serveRead, State.hbmByte_emit, State.hbmByte_congr read]
  · rw [State.serveRead, State.hostByte_emit, State.hostByte_congr host]

end Sys2Proof.Machine
end

section
/-! The controllers' queues (R356 to R362) and the front of the command queue (R21). -/

namespace Sys2Proof.Machine

/-- A read that meets a stack out of service waits with it. -/
theorem exec_hbmRead_held {a addr len i : Nat} {s : State} (hc : s.clocked = true) (hin : s.inHbm addr len = true) (held : s.holding addr len = some i) :
    exec (.hbmRead a addr len) s =
      .next (s.setStack i { s.stack i with waiting := (s.stack i).waiting ++ [{ agent := a, addr := addr, len := len }] }) := by
  show execHbmRead a addr len s = _
  simp only [execHbmRead, hc, hin, State.hbmRequest, held, Bool.not_true, Bool.false_eq_true, if_false, if_true]

/-- A range outside HBM and its mirror. -/
theorem exec_hbmRead_unmapped {a addr len : Nat} {s : State} (hc : s.clocked = true) (hin : s.inHbm addr len = false) (hm : inMirror addr len = false) :
    exec (.hbmRead a addr len) s = .next (s.emit (.resp a .abortUnmapped [])) := by
  show execHbmRead a addr len s = _
  simp only [execHbmRead, State.nocRead, hc, hin, hm, Bool.not_true, Bool.false_eq_true, if_false]

theorem exec_hbmWrite_unmapped {a addr : Nat} {bytes : List Byte} {p : Bool} {s : State} (hc : s.clocked = true)
    (hin : s.inHbm addr bytes.length = false) (hm : inMirror addr bytes.length = false) :
    exec (.hbmWrite a addr bytes p) s = .next (s.emit (.resp a .abortUnmapped [])) := by
  show execHbmWrite a addr bytes p s = _
  simp only [execHbmWrite, State.nocWrite, hc, hin, hm, Bool.not_true, Bool.false_eq_true, if_false]

/-- The request that the rules pick is issued. -/
theorem exec_hbmRequestIssue {pcx : Fin 128} {k : Nat} {s : State} (hc : s.clocked = true) (serves : s.stackServes (pcx.val / 32) = true)
    (pick : (s.pch pcx.val).pick (s.f (HBM_SCHED (pcx.val / 32)) 25 16) = some k) :
    exec (.hbmRequestIssue pcx) s = .next (s.setPch pcx.val ((s.pch pcx.val).issue k (s.f (HBM_SCHED (pcx.val / 32)) 9 0))) := by
  show execHbmRequestIssue pcx s = _
  simp only [execHbmRequestIssue, hc, serves, pick, Bool.not_true, Bool.or_self, Bool.false_eq_true, if_false]

/-- A bank with no request waiting has its row closed. -/
theorem exec_rowIdleClose {pcx : Fin 128} {bank : Nat} {s : State} (hc : s.clocked = true) (idle : ∀ q ∈ (s.pch pcx.val).queue, q.bank ≠ bank) :
    exec (.rowIdleClose pcx bank) s =
      .next (s.setPch pcx.val { s.pch pcx.val with openRow := tabPut (fun _ => 0) (s.pch pcx.val).openRow bank 0 }) := by
  have unasked : ((s.pch pcx.val).queue.any fun q => q.bank == bank) = false := by simpa using idle
  show execRowIdleClose pcx bank s = _
  simp only [execRowIdleClose, hc, unasked, Bool.not_true, Bool.or_self, Bool.false_eq_true, if_false]

/-- A stack that does not refresh itself is sent a refresh. -/
theorem exec_hbmRefresh {i : StackId} {s : State} (hc : s.clocked = true) (awake : (s.stack i.val).selfRefresh = false) :
    exec (.hbmRefresh i) s = .next (s.emit (.hbmCommand i.val (b2n (s.bit (HBM_SCHED i.val) 28) + 2 * b2n (s.bit (HBM_TEMP i.val) 8)))) := by
  show execHbmRefresh i s = _
  simp only [execHbmRefresh, hc, awake, Bool.not_true, Bool.or_self, Bool.false_eq_true, if_false]

/-- Settles O39: the five commands by their equations; the row that a bank closes reads as none. -/
theorem requestQueues : Obligations.RequestQueues := by
  refine ⟨fun a addr len s hc => ⟨fun i hin held => exec_hbmRead_held hc hin held, fun hin hm => ⟨exec_hbmRead_unmapped hc hin hm, ?_⟩⟩,
    fun s hc => ⟨fun pcx k serves pick => exec_hbmRequestIssue hc serves pick, fun pcx bank idle => ⟨_, exec_rowIdleClose hc idle, ?_, ?_, rfl, rfl⟩,
      fun i awake => exec_hbmRefresh hc awake⟩⟩
  · rintro bytes p rfl
    exact exec_hbmWrite_unmapped hc hin hm
  · rw [State.pch_setPch_same, tabGet_put_same]
  · rw [State.pch_setPch_same]

/-- Settles O1: `step` takes the front of the queue. -/
theorem stepRunsFront : Obligations.StepRunsFront := fun _ _ _ waiting => step_of_pending_cons waiting

end Sys2Proof.Machine
end

section
/-! Where a spare's reload leaves no clock to a picture's start (R80, R364, R525, R526): the state against which the second clause of `Obligations.Encoding` fails. -/

namespace Sys2Proof.Machine

/-- An encode session of ladder 1 whose analysing rung has gone, with one picture without a source to start. Core 0 is the spare of hedge 0 and has to hold personality 1, whose image of one byte lies far beyond the stacks. Source 151 acts by R alone. -/
def strayImage : State :=
  { clock := { st := .onA },
    regs := [(FLT_ACT 151, 0x308), (CSW_STORE_BASE_HI, 0xD00), (HDG_ROLES 0, 1), (HDG_PERS_PIN 0, 1)],
    sessions := [(0, { phase := .opened, desc := (List.replicate 256 0).set 0xA 1, pics := [{}] })],
    store := { slots := [(0, some (0, [0]))] } }

/-- The same with an injected error in the image's sector, whose cell counts as one of stack 17: its correction raises source 134 + 17, which is FATAL. -/
def strayReload : State := { strayImage with inject := some (134, 1, some (strayImage.cell (strayImage.slotAddr 0) / 32)) }

/-- The clocks run until the ladder's new head makes the spare reload; the warm reset that is then due ends them. -/
theorem strayReload_clocked : strayReload.clocked = true ∧ (strayReload.ladderTake 0).clocked = false := by decide +kernel

/-- The picture is one that the clause lets start. -/
theorem strayReload_due :
    let u := strayReload.ladderTake 0
    (u.sess 0).phase ≠ .closed ∧ hasEnc (u.sess 0).desc = true ∧ u.hedgeOff 0 = false ∧
      (u.sess 0).pics.find? (fun p => !p.started) = some {} ∧ (u.sess 0).mayStart {} = true ∧ u.espOf 0 = none := by decide +kernel

/-- The picture's start would end it, having no reconstruction buffer; it is still there. -/
theorem strayReload_pics :
    ((((strayReload.ladderTake 0).modSess 0 Sess.older).picAlloc 0 {}).sess 0).pics ≠ ((strayReload.ladderTake 0).sess 0).pics := by decide +kernel

/-- Without clocks PICTURE_START does no more than give a ladder its head. -/
theorem exec_pictureStart_unclocked {n : SessId} {s : State} (h : (s.ladderTake n.val).clocked = false) :
    exec (.pictureStart n) s = .next (s.ladderTake n.val) := by
  show execPictureStart n s = _
  simp only [execPictureStart, State.picStart, h, Bool.not_false, Bool.true_or, if_true]

/-- Refutes O24: its second clause takes the clocks to run before a ladder gets its new head, but the spare's reload that follows can raise a FATAL source, as nothing keeps an injected error's cell inside the stacks, and PICTURE_START then leaves the picture. -/
theorem not_encoding : ¬ Obligations.Encoding := by
  rintro ⟨-, start, -⟩
  obtain ⟨running, reset⟩ := strayReload_clocked
  obtain ⟨opened, enc, on, next, may, alone⟩ := strayReload_due
  have claimed : exec (.pictureStart ⟨0, by decide⟩) strayReload =
      .next (((strayReload.ladderTake 0).modSess 0 Sess.older).picAlloc 0 {}) := start ⟨0, _⟩ strayReload {} running opened enc on next rfl may alone
  have same : strayReload.ladderTake 0 = ((strayReload.ladderTake 0).modSess 0 Sess.older).picAlloc 0 {} :=
    Host.Outcome.next.inj ((exec_pictureStart_unclocked (n := ⟨0, by decide⟩) reset).symm.trans claimed)
  exact strayReload_pics (congrArg (fun t => (State.sess t 0).pics) same.symm)

end Sys2Proof.Machine
end

section
/-! An idle microsecond (R60, R321, R423; log entry 6). -/

namespace Sys2Proof.Machine

/-- The media time's advance writes the counter and its event. -/
theorem mtcAdvance_eq (s : State) : ∃ regs mtc, mtcAdvance s = { s with regs := regs, mtc := mtc } := by
  unfold mtcAdvance
  split
  · extract_lets
    split
    · exact ⟨_, _, rfl⟩
    · exact ⟨_, _, rfl⟩
  · exact ⟨_, _, rfl⟩

/-- What an idle microsecond leaves, and the uptime counter. -/
theorem idleTick_keeps (s : State) :
    (idleTick s).pending = s.pending ∧ (idleTick s).outbox = s.outbox ∧ (idleTick s).hbm = s.hbm ∧ (idleTick s).host = s.host ∧
      (idleTick s).uptime = if s.running then s.uptime + 1 else s.uptime := by
  obtain ⟨_, _, time⟩ := mtcAdvance_eq { s with hif := { s.hif with readyIn := s.hif.readyIn - 1 }, uptime := s.uptime + 1 }
  cases hr : s.running with
  | true =>
    have e : idleTick s = agesAdvance (moderationAdvance (mtcAdvance { s with hif := { s.hif with readyIn := s.hif.readyIn - 1 }, uptime := s.uptime + 1 })) :=
      if_pos hr
    rw [e, time]
    exact ⟨rfl, rfl, rfl, rfl, rfl⟩
  | false =>
    have e : idleTick s = { s with hif := { s.hif with readyIn := s.hif.readyIn - 1 } } := if_neg (Bool.eq_false_iff.1 hr)
    rw [e]
    exact ⟨rfl, rfl, rfl, rfl, rfl⟩

/-- Settles O2: a step on an empty queue is an idle microsecond. -/
theorem idleStep : Obligations.IdleStep := by
  intro s empty
  obtain ⟨queue, rest⟩ := idleTick_keeps s
  exact ⟨_, step_of_pending_nil empty, queue.trans empty, rest⟩

end Sys2Proof.Machine
end

section
/-! Pages that turn accesses away (R10, R19, R20, R43, R56; log entry 87). -/

namespace Sys2Proof.Machine

/-- A write of one register. -/
theorem exec_registerWrite_one (who : Who) (a : Nat) (v : W32) (s : State) : exec (.registerWrite who a [v]) s = .next (s.busRegWrite who a v) := rfl

/-- A read of one whole register. -/
theorem exec_counterReadClear_word (who : Who) (a : Nat) (s : State) : exec (.counterReadClear who ⟨a, 4⟩) s = .next (s.busRegRead who a) :=
  congrArg Host.Outcome.next (s.busRegReads_word who a)

/-! A function in D3hot. -/

theorem State.busRegRead_d3 {s : State} {k : FnId} (up : s.hostUp = true) (d3 : s.d0 k.val = false) (a : Nat) :
    s.busRegRead (.pcie k) a = s.unsupported k.val := by
  simp only [State.busRegRead, up, d3, Bool.not_true, Bool.not_false, Bool.false_eq_true, if_false, if_true]

theorem State.access_d3 {s : State} {k : FnId} (up : s.hostUp = true) (d3 : s.d0 k.val = false) (p : Nat) (f : State → State) :
    s.access (.pcie k) p f = s.unsupported k.val ∧ s.accessHdr (.pcie k) p f = s.unsupported k.val := by
  simp only [State.access, State.accessHdr, up, d3, Bool.not_true, Bool.not_false, Bool.false_eq_true, if_false, if_true, and_self]

theorem State.busRegWrite_d3 {s : State} {k : FnId} (up : s.hostUp = true) (d3 : s.d0 k.val = false) (a : Nat) (v : W32) :
    s.busRegWrite (.pcie k) a v = s.unsupported k.val := by
  cases e : s.barMap k.val a with
  | none => simp [State.busRegWrite, e, up, d3]
  | some b => simp only [State.busRegWrite, e, (State.access_d3 up d3 _ _).1, (State.access_d3 up d3 _ _).2, ite_self]

/-! PF0 in D0 on a page that is gated or resetting. -/

/-- BAR0 of PF0 shows every page as it is: a read by PF0 in D0 answers 0 from a gated page, and else the register. -/
theorem State.busRegRead_pf {s : State} (up : s.hostUp = true) (d0 : s.d0 0 = true) (a : Nat) :
    s.busRegRead (.pcie 0) a =
      if s.gated (a / 0x1000) then s.emit (.readData 0) else (s.regRead a).1.emit (.readData (s.regRead a).2) := by
  show (if (!s.hostUp) = true then s else if (!s.d0 0) = true then s.unsupported 0 else
    if (!s.reaches 0 (a / 0x1000) || s.gated (a / 0x1000)) = true then s.emit (.readData 0)
    else (s.regRead a).1.emit (.readData (laneWord a 4 (s.regRead a).2))) = _
  simp [up, d0, State.reaches, laneWord]

/-- A write by PF0 is an access of the page it names, of the header or of the body. -/
theorem State.busRegWrite_pf (s : State) (a : Nat) (v : W32) :
    s.busRegWrite (.pcie 0) a v =
      if a % 0x1000 < 0x40 then s.accessHdr (.pcie 0) (a / 0x1000) fun s => s.regWrite (.pcie 0) a v
      else s.access (.pcie 0) (a / 0x1000) fun s => s.regWrite (.pcie 0) a v := rfl

/-- A gated page drops what a function writes, wherever it writes. -/
theorem State.access_gated {s : State} {k : FnId} {p : Nat} (up : s.hostUp = true) (d0 : s.d0 k.val = true) (off : s.gated p = true) (f : State → State) :
    s.access (.pcie k) p f = s ∧ s.accessHdr (.pcie k) p f = s := by
  simp [State.access, State.accessHdr, up, d0, off]

/-- A resetting page drops what a function writes to its body. -/
theorem State.access_busy {s : State} {k : FnId} {p : Nat} (up : s.hostUp = true) (d0 : s.d0 k.val = true) (busy : s.busy p = true) (f : State → State) :
    s.access (.pcie k) p f = s := by
  simp [State.access, up, d0, busy]

/-- A read of a resetting page's header, or of its body, has no effect of its own. -/
theorem State.regRead_busy {s : State} {a : Nat} (busy : s.busy (a / 0x1000) = true) (h4 : a % 4 = 0) : s.regRead a = (s, s.view a) := by
  have e : a / 4 * 4 = a := by omega
  simp only [State.regRead, e, busy, or_true, if_true]

theorem State.view_header {s : State} {a : Nat} (page : (pageInfo (a / 0x1000)).isSome = true) (on : s.gated (a / 0x1000) = false)
    (header : a % 0x1000 < 0x40) : s.view a = s.viewHdr (a / 0x1000) (a % 0x1000) := by
  simp [State.view, Option.isNone_eq_false_iff.2 page, on, header]

theorem State.view_busy_body {s : State} {a : Nat} (busy : s.busy (a / 0x1000) = true) (body : 0x40 ≤ a % 0x1000) : s.view a = 0 := by
  simp [State.view, Nat.not_lt.2 body, busy]

/-! Agents. -/

/-- An agent's write of the register space is an access of its page, to the header or the body. -/
theorem State.busRegWrite_agent {s : State} {g a : Nat} (v : W32) (space : a < 0x1000000) :
    s.busRegWrite (.agent g) a v = s.access (.agent g) (a / 0x1000) fun s => s.regWrite (.agent g) a v := by
  simp only [State.busRegWrite, State.busRegWrite.a_ok, space, decide_true, if_true]
  split <;> rfl

theorem State.busReg_agent_gated {s : State} {g a : Nat} (clocked : s.clocked = true) (space : a < 0x1000000) (off : s.gated (a / 0x1000) = true) (v : W32) :
    s.busRegRead (.agent g) a = s.emit (.resp g .abortGated []) ∧ s.busRegWrite (.agent g) a v = s.emit (.resp g .abortGated []) := by
  simp [State.busRegWrite_agent _ space, State.busRegRead, State.access, State.accessRd, clocked, off]

theorem State.busReg_agent_busy {s : State} {g a : Nat} (clocked : s.clocked = true) (space : a < 0x1000000) (on : s.gated (a / 0x1000) = false)
    (busy : s.busy (a / 0x1000) = true) (v : W32) :
    s.busRegRead (.agent g) a = s.emit (.resp g .abortReset []) ∧ s.busRegWrite (.agent g) a v = s.emit (.resp g .abortReset []) := by
  simp [State.busRegWrite_agent _ space, State.busRegRead, State.access, State.accessRd, clocked, on, busy]

/-- Settles O5: by what a gated page, a resetting page, a function in D3hot, and an agent meet. -/
theorem pagesTurnedAway : Obligations.PagesTurnedAway := by
  intro a v s p off clocked space aligned page
  have up (link : s.hif.linkUp = true) : s.hostUp = true := by simp [State.hostUp, clocked, link]
  have h4 : a % 4 = 0 := by omega
  simp only [exec_registerWrite_one, exec_counterReadClear_word, Host.Outcome.next.injEq]
  refine ⟨fun link d0 => ⟨fun on busy => ⟨fun header => ?_, fun body => ⟨?_, ?_⟩⟩, fun gated => ⟨?_, ?_⟩⟩,
    fun k link d3 => ⟨State.busRegRead_d3 (up link) d3 a, State.busRegWrite_d3 (up link) d3 a v⟩,
    fun g => ⟨fun gated => State.busReg_agent_gated clocked space gated v, fun on busy => State.busReg_agent_busy clocked space on busy v⟩⟩
  · rw [State.busRegRead_pf (up link) d0, on, State.regRead_busy busy h4, State.view_header page on header]; rfl
  · rw [State.busRegRead_pf (up link) d0, on, State.regRead_busy busy h4, State.view_busy_body busy body]; rfl
  · rw [State.busRegWrite_pf, if_neg (Nat.not_lt.2 body), State.access_busy (up link) d0 busy]
  · rw [State.busRegRead_pf (up link) d0, gated, if_pos rfl]
  · rw [State.busRegWrite_pf, (State.access_gated (up link) d0 gated _).1, (State.access_gated (up link) d0 gated _).2, ite_self]

end Sys2Proof.Machine
end

section
/-! Reads of a register after writes of the same or of another one (R7). -/

namespace Sys2Proof.Machine

theorem State.bit_setB_same (s : State) (a : Nat) {i : Nat} (b : Bool) (h : i < 32) : (s.setB a i b).bit a i = b := by
  rw [State.bit, State.setB, State.reg_setReg_same, bitAt_setBit_same _ _ _ h]

theorem State.bit_setB_ne (s : State) (a : Nat) {i j : Nat} (b : Bool) (h : j ≠ i) : (s.setB a i b).bit a j = s.bit a j := by
  rw [State.bit, State.setB, State.reg_setReg_same, bitAt_setBit_ne _ _ h, State.bit]

theorem State.bit_setReg_ne (s : State) {a a' : Nat} (v : W32) (i : Nat) (h : a' ≠ a) : (s.setReg a v).bit a' i = s.bit a' i := by
  rw [State.bit, State.reg_setReg_ne _ _ h, State.bit]

theorem State.f_setF_same (s : State) (a : Nat) {hi : Nat} (lo v : Nat) (h : hi < 32) : (s.setF a hi lo v).f a hi lo = v % 2 ^ (hi + 1 - lo) := by
  rw [State.f, State.setF, State.reg_setReg_same, fld_setFld_same _ _ _ _ h]

theorem State.told_bit (s : State) (who : Who) (a i : Nat) : (s.told who).bit a i = s.bit a i := congrArg (bitAt · i) (s.told_reg who a)

theorem State.told_f (s : State) (who : Who) (a hi lo : Nat) : (s.told who).f a hi lo = s.f a hi lo := congrArg (fld · hi lo) (s.told_reg who a)

/-- A field of a word that holds a number. -/
theorem fld_ofNat {n : Nat} (hi lo : Nat) (h : n < 2 ^ 32) : fld (BitVec.ofNat 32 n) hi lo = n >>> lo % 2 ^ (hi + 1 - lo) := by
  rw [fld, BitVec.toNat_ofNat, Nat.mod_eq_of_lt h]

end Sys2Proof.Machine
end

section
/-! Registers of a ring that act as they are written (R39, R283, R284, R297, R321). -/

namespace Sys2Proof.Machine

/-- No sequencer serves a ring's page. -/
theorem State.noted_ringPage (s : State) (who : Who) (r : RingId) : s.noted who (pgRING r.val) = s :=
  State.noted_plain (by unfold pgRING; omega) (by unfold pgRING pgCSW; omega) (by unfold pgRING pgSMB; omega) (by unfold pgRING; omega)

/-- A served access of a ring's page acts in the state itself. -/
theorem State.access_ringPage {s : State} {who : Who} {r : RingId} (h : s.served who (pgRING r.val) = true) (f : State → State) :
    s.access who (pgRING r.val) f = (f s).told who := by
  rw [State.access_served h, State.noted_ringPage]

/-- RING_TAIL holds what was written, below the ring's size. -/
theorem State.ringTail_tailWrite (s : State) (r : Nat) (v : W32) : (s.tailWrite r v).ringTail r = v.toNat % 65536 % 2 ^ s.f (RING_CFG r) 8 4 := by
  have small : v.toNat % 65536 % 2 ^ s.f (RING_CFG r) 8 4 < 65536 := (Nat.mod_le _ _).trans_lt (Nat.mod_lt _ (by decide))
  have low : fld v 15 0 = v.toNat % 65536 := rfl
  rw [State.ringTail, State.f, State.tailWrite, State.reg_setReg_same, low, State.ringSize, fld_ofNat 15 0 (small.trans (by decide))]
  exact Nat.mod_eq_of_lt small

/-- RING_CBUF_RD takes a value in the buffer that lies between what it shows and what has been written. -/
theorem State.rdWrite_eq (s : State) (r : Nat) (v : W32) :
    s.rdWrite r v =
      if v.toNat < s.cbufSize r ∧ (v.toNat + s.cbufSize r - s.cbufRd r % s.cbufSize r) % s.cbufSize r ≤
        (s.cbufWr r + s.cbufSize r - s.cbufRd r % s.cbufSize r) % s.cbufSize r then s.setReg (RING_CBUF_RD r) v else s := rfl

/-! The owner of a ring. -/

/-- A VF does not change a ring's owner. -/
theorem State.ownerWrite_vf (s : State) {k : FnId} (vf : k.val ≠ 0) (r o : Nat) : s.ownerWrite (.pcie k) r o = s := by
  simp [State.ownerWrite, vf]

/-- Nor does anyone change that of an enabled ring. -/
theorem State.ownerWrite_enabled {s : State} {r : Nat} (en : s.bit (hCTL (pgRING r)) 0 = true) (who : Who) (o : Nat) : s.ownerWrite who r o = s := by
  simp [State.ownerWrite, en]

/-- Through PF0 or by an agent an idle ring gets its new owner; a VF gets no ninth ring. -/
theorem State.ownerWrite_idle {s : State} {who : Who} {r o : Nat} (pf : ∀ k : FnId, who = .pcie k → k.val = 0)
    (dis : s.bit (hCTL (pgRING r)) 0 = false) (idle : s.pageActive (pgRING r) = false) (new : s.owner r ≠ o) (room : o = 0 ∨ (s.ringsOf o).length < 8) :
    s.ownerWrite who r o = ((s.setF (RING_CFG r) 20 16 o).modClear r).icUnroute r := by
  have few : ¬ (o ≠ 0 ∧ 8 ≤ (s.ringsOf o).length) := by omega
  cases who with
  | pcie k => simpa [State.ownerWrite, pf k rfl, dis, idle, new] using fun h k => absurd ⟨h, k⟩ few
  | agent g => simpa [State.ownerWrite, dis, idle, new] using fun h k => absurd ⟨h, k⟩ few

/-- Taking a ring's source out of every controller writes IC_EN and IC_MOD alone. -/
theorem State.icUnroute_keeps {β : Type} (p : State → β) {r : Nat} (hen : ∀ t i v, p (State.setReg t (IC_EN i ((144 + r) / 32)) v) = p t)
    (hmod : ∀ t i v, p (State.setReg t (IC_MOD i r) v) = p t) (s : State) : p (s.icUnroute r) = p s := by
  refine State.each_keeps p (fun t i => ?_) _ _
  refine (hmod _ _ _).trans ?_
  split
  · exact hen _ _ _
  · rfl

/-- So the ring's configuration is left. -/
theorem State.reg_icUnroute_ringCfg (s : State) {r : Nat} (hr : r < 256) : (s.icUnroute r).reg (RING_CFG r) = s.reg (RING_CFG r) :=
  State.icUnroute_keeps (fun t => t.reg (RING_CFG r)) (fun t _ v => t.reg_setReg_ne v (by unfold RING_CFG IC_EN; omega))
    (fun t _ v => t.reg_setReg_ne v (by unfold RING_CFG IC_MOD; omega)) s

/-- A ring has the owner written, and its moderation is cleared. -/
theorem State.ownerWrite_idle_spec (s : State) (r : RingId) (o : FnId) :
    (((s.setF (RING_CFG r.val) 20 16 o.val).modClear r.val).icUnroute r.val).owner r.val = o.val ∧
      (((s.setF (RING_CFG r.val) 20 16 o.val).modClear r.val).icUnroute r.val).ring r.val =
        { s.ring r.val with modFired := false, modC := 0, modUs := 0 } := by
  constructor
  · have owner : (s.setF (RING_CFG r.val) 20 16 o.val).f (RING_CFG r.val) 20 16 = o.val :=
      (State.f_setF_same s (RING_CFG r.val) 16 o.val (by decide)).trans (Nat.mod_eq_of_lt o.isLt)
    rw [State.owner, State.f, State.reg_icUnroute_ringCfg _ r.isLt]
    exact owner
  · exact (State.icUnroute_keeps (fun t => t.ring r.val) (fun _ _ _ => rfl) (fun _ _ _ => rfl) _).trans (State.ring_setRing_same _ _ _)

/-- Settles O14: by the writes of the three registers. -/
theorem ringRegisters : Obligations.RingRegisters := by
  refine ⟨fun who r v s h => ?_, fun who r v s h => ?_, fun who r o s h idle => ?_⟩
  · have e : exec (.ringDoorbell who r v) s = .next ((s.tailWrite r.val v).told who) := congrArg Host.Outcome.next (State.access_ringPage h _)
    exact ⟨e, _, e, (State.told_f _ _ _ _ _).trans (s.ringTail_tailWrite r.val v)⟩
  · have e : exec (.cbufRdWrite who r v) s = .next ((s.rdWrite r.val v).told who) := congrArg Host.Outcome.next (State.access_ringPage h _)
    refine ⟨fun inside here => ?_, fun beyond => ?_⟩
    · rw [e, State.rdWrite_eq, if_pos ⟨inside, here⟩]
    · rw [e, State.rdWrite_eq, if_neg (by omega)]
  · have e : exec (.ringOwnerChange who r o) s = .next ((s.ownerWrite who r.val o.val).told who) := congrArg Host.Outcome.next (State.access_ringPage h _)
    rw [e, State.noted_ringPage]
    refine ⟨?_, fun en => ?_, fun dis pf new room => ?_⟩
    · rintro k rfl vf
      rw [State.ownerWrite_vf _ vf]; rfl
    · rw [State.ownerWrite_enabled en]
    · rw [State.ownerWrite_idle pf dis idle new room]
      obtain ⟨owner, ring⟩ := s.ownerWrite_idle_spec r o
      refine ⟨_, rfl, (State.told_f _ _ _ _ _).trans owner, ?_, ?_⟩
      · rw [State.told_ring, ring]
      · rw [State.told_ring, ring]

end Sys2Proof.Machine
end

section
/-! The media time (R423, R444; log entry 85). -/

namespace Sys2Proof.Machine

/-- No sequencer serves the page of the media time. -/
theorem State.noted_mtcPage (s : State) (who : Who) : s.noted who pgMTC = s :=
  State.noted_plain (by decide) (by decide) (by decide) (by decide)

/-- A time of less than 2^48 seconds is the number of nanoseconds it stands for. -/
theorem PtpTime.nat_ofNat {n : Nat} (h : n < 2 ^ 48 * 1000000000) : (PtpTime.ofNat n).nat = n := by
  simp only [PtpTime.nat, PtpTime.ofNat, BitVec.toNat_ofNat]
  omega

/-- A number of nanoseconds as a time, whatever its sign and size: the seconds are counted modulo 2^48. -/
theorem PtpTime.nat_ofInt_emod (n : Int) :
    ((PtpTime.ofNat (n % ((2 ^ 48 * 1000000000 : Nat) : Int)).toNat).nat : Int) = n % (2 ^ 48 * 1000000000) := by
  rw [PtpTime.nat_ofNat (by omega)]
  omega

/-- A step of the counter sets its time, drops a slew, is counted, and shows. -/
theorem State.mtcStep_spec (s : State) (time : PtpTime) (frac : Int) :
    (s.mtcStep time frac).mtc = { time := time, frac := frac, slew := 0 } ∧ (s.mtcStep time frac).bit (hEVT pgMTC) 0 = true ∧
      (s.mtcStep time frac).reg MTC_STEPS = s.reg MTC_STEPS + 1 ∧ (s.mtcStep time frac).bit MTC_STATUS 0 = false := by
  refine ⟨rfl, State.bit_setB_same _ _ _ (by decide), ?_, ?_⟩
  · rw [State.mtcStep]
    simp only [State.event_eq, State.setB_eq, State.inc_eq]
    rw [State.reg_setReg_ne _ _ (by decide), State.reg_setReg_ne _ _ (by decide), State.reg_setReg_same]
    rfl
  · exact (State.bit_setReg_ne _ _ _ (by decide)).trans (State.bit_setB_same _ _ _ (by decide))

/-- ADJ adds its amount. -/
theorem State.mtcAdj_time (s : State) :
    (s.mtcAdj.mtc.time.nat : Int) = ((s.mtc.time.nat : Int) + (s.reg MTC_ADJ).toInt) % (2 ^ 48 * 1000000000) := PtpTime.nat_ofInt_emod _

/-- SLEW keeps its amount; where that is 0 it is applied at once. -/
theorem State.mtcSlew_spec (s : State) :
    s.mtcSlew.mtc = { s.mtc with slew := (s.reg MTC_ADJ).toInt * 16000000000 } ∧
      s.mtcSlew.bit (hEVT pgMTC) 2 = (s.bit (hEVT pgMTC) 2 || s.reg MTC_ADJ == 0) := by
  unfold State.mtcSlew
  by_cases zero : s.reg MTC_ADJ = 0
  · rw [if_pos (by rw [zero]; rfl), zero, beq_self_eq_true, Bool.or_true]
    exact ⟨rfl, State.bit_setB_same _ _ _ (by decide)⟩
  · have amount : (s.reg MTC_ADJ).toInt ≠ 0 := fun h => zero (BitVec.toInt_inj.1 h)
    rw [if_neg amount, beq_false_of_ne zero, Bool.or_false]
    exact ⟨rfl, rfl⟩

/-- The read of MTC_NS latches the seconds. -/
theorem State.mtcRead_pair (s : State) : s.mtcRead.1.pair MTC_SEC_LO MTC_SEC_HI = s.mtc.time.sec.toNat :=
  State.pair_setPair s _ (by decide) (s.mtc.time.sec.isLt.trans (by decide))

/-- Settles O51: by the three commands on the counter, the latch of the seconds, and the end of a slew. -/
theorem mediaTime : Obligations.MediaTime := by
  refine ⟨fun who s h => ?_, fun s clocked on slew => ?_⟩
  · have write (f : State → State) : s.access who pgMTC f = (f s).told who := by rw [State.access_served h, State.noted_mtcPage]
    obtain ⟨-, lshown, lcount, lsure⟩ := s.mtcStep_spec { sec := BitVec.ofNat 48 (s.pair MTC_SET_SEC_LO MTC_SET_SEC_HI), ns := s.reg MTC_SET_NS } 0
    obtain ⟨-, ashown, acount, asure⟩ := s.mtcStep_spec
      (PtpTime.ofNat (((s.mtc.time.nat : Int) + (s.reg MTC_ADJ).toInt) % ((2 ^ 48 * 1000000000 : Nat) : Int)).toNat) s.mtc.frac
    obtain ⟨slewed, sshown⟩ := s.mtcSlew_spec
    refine ⟨⟨_, congrArg Host.Outcome.next (write State.mtcLoad), ?_⟩, ⟨_, congrArg Host.Outcome.next (write State.mtcAdj), ?_⟩,
      ⟨_, congrArg Host.Outcome.next (write State.mtcSlew), ?_⟩, ⟨_, congrArg Host.Outcome.next (State.accessRd_served h State.mtcRead), ?_⟩⟩
    · simp only [State.told_mtc, State.told_bit, State.told_reg]
      exact ⟨BitVec.toNat_ofNat _ _, rfl, rfl, lshown, lcount, lsure⟩
    · simp only [State.told_mtc, State.told_bit, State.told_reg]
      exact ⟨s.mtcAdj_time, rfl, ashown, acount, asure⟩
    · simp only [State.told_mtc, State.told_bit, slewed, true_and]
      exact sshown
    · cases who with
      | pcie k => exact ⟨rfl, s.mtcRead_pair, rfl⟩
      | agent g => exact ⟨rfl, s.mtcRead_pair, rfl⟩
  · have e : exec .slewDone s = .next s.slewEnd := congrArg Host.Outcome.next (if_pos (by simp [clocked, on, slew]))
    exact ⟨_, e, rfl, State.bit_setB_same _ _ _ (by decide), PtpTime.nat_ofInt_emod _, rfl⟩

end Sys2Proof.Machine
end

section
/-! What an evaluation of interrupts and a change of the LTR row leave as they were (R44, R316 to R322). -/

namespace Sys2Proof.Machine

/-- A change of the LTR row writes what was last sent, and sends it. -/
theorem State.ltrUpdate_eq (s : State) : ∃ ltr outbox, s.ltrUpdate = { s with hif := { s.hif with ltr := ltr }, outbox := outbox } := by
  unfold State.ltrUpdate
  split
  · cases up : s.hif.linkUp with
    | true => exact ⟨s.ltrRow, s.outbox ++ [.ltr s.ltrRow], by simp [State.whenB, State.emit, up]⟩
    | false => exact ⟨s.ltrRow, s.outbox, by simp [State.whenB, up]⟩
  · exact ⟨_, _, rfl⟩

theorem State.ltrUpdate_reg (s : State) (a : Nat) : s.ltrUpdate.reg a = s.reg a := by obtain ⟨_, _, e⟩ := s.ltrUpdate_eq; rw [e]; rfl
theorem State.ltrUpdate_fn (s : State) (k : Nat) : s.ltrUpdate.fn k = s.fn k := by obtain ⟨_, _, e⟩ := s.ltrUpdate_eq; rw [e]; rfl
theorem State.ltrUpdate_busy (s : State) (p : Nat) : s.ltrUpdate.busy p = s.busy p := by obtain ⟨_, _, e⟩ := s.ltrUpdate_eq; rw [e]; rfl
theorem State.ltrUpdate_inDrain (s : State) (p : Nat) : s.ltrUpdate.inDrain p = s.inDrain p := by obtain ⟨_, _, e⟩ := s.ltrUpdate_eq; rw [e]; rfl

section
variable {β : Type} (p : State → β) {i : Nat}
  (hstate : ∀ t v, p (State.setReg t (IC_STATE i) v) = p t)
  (hmsgs : ∀ t v, p (State.setReg t (IC_MSGS i) v) = p t)
  (hfn : ∀ t x, x.d3 = (State.fn t i).d3 → x.pmeEn = (State.fn t i).pmeEn → p (State.setFn t i x) = p t)
  (hemit : ∀ t o, p (State.emit t o) = p t)
include hfn hemit

/-- A PM_PME that falls due leaves the power state and PME_En of its function, and all but its function and what is sent. -/
theorem State.sendPme_keeps (s : State) : p (s.sendPme i) = p s := by
  unfold State.sendPme
  split
  · exact (hemit _ _).trans (hfn _ _ rfl rfl)
  · exact hfn _ _ rfl rfl

include hstate

theorem State.icHold_keeps (s : State) : p (s.icHold i) = p s := by
  have held : p ((s.setFn i { s.fn i with pba := true }).setF (IC_STATE i) 4 1 (s.holdCause i <<< 1 ||| 1)) = p s :=
    (hstate _ _).trans (hfn _ _ rfl rfl)
  have due (t : State) : p (t.setFn i { t.fn i with pmeStatus := true }) = p t := hfn _ _ rfl rfl
  unfold State.icHold
  extract_lets
  split
  · split
    · exact (State.sendPme_keeps p hfn hemit _).trans ((due _).trans held)
    · exact (due _).trans held
  · exact held

include hmsgs

theorem State.icSend_keeps (s : State) : p (s.icSend i) = p s :=
  (hemit _ _).trans ((hmsgs _ _).trans ((hstate _ _).trans (hfn _ _ rfl rfl)))

/-- An evaluation of an interrupt controller leaves the power state and PME_En of its function, and all but IC_STATE, IC_MSGS, its function and what is sent. -/
theorem State.icEval_keeps (s : State) : p (s.icEval i) = p s := by
  unfold State.icEval
  extract_lets free
  split
  · split
    · split
      · exact State.icSend_keeps p hstate hmsgs hfn hemit s
      · exact (hstate _ _).trans (hfn _ _ rfl rfl)
    · exact hstate _ _
  · split
    · split
      · exact State.icSend_keeps p hstate hmsgs hfn hemit s
      · exact State.icHold_keeps p hstate hfn hemit s
    · rfl

end

/-- So it leaves every other register. -/
theorem State.icEval_reg (s : State) {i a : Nat} (hs : a ≠ IC_STATE i) (hm : a ≠ IC_MSGS i) : (s.icEval i).reg a = s.reg a :=
  State.icEval_keeps (fun t => t.reg a) (fun t v => t.reg_setReg_ne v hs) (fun t v => t.reg_setReg_ne v hm) (fun _ _ _ _ => rfl) (fun _ _ => rfl) s

/-- And the power state of the function, with PME_En. -/
theorem State.icEval_power (s : State) (i : Nat) : ((s.icEval i).fn i).d3 = (s.fn i).d3 ∧ ((s.icEval i).fn i).pmeEn = (s.fn i).pmeEn :=
  Prod.mk.inj (State.icEval_keeps (fun t => ((t.fn i).d3, (t.fn i).pmeEn)) (fun _ _ => rfl) (fun _ _ => rfl)
    (fun t x hd hp => by rw [State.fn_setFn_same, hd, hp]) (fun _ _ => rfl) s)

end Sys2Proof.Machine
end

section
/-! The host link and the resets of the host interface (R27 to R31, R61, R62, R508; log entries 75, 77, 94). -/

namespace Sys2Proof.Machine

/-- The messages that leave with a link write functions and what is sent. -/
theorem State.pmeRelease_keeps {β : Type} (p : State → β) (hfn : ∀ t k x, p (State.setFn t k x) = p t) (hemit : ∀ t o, p (State.emit t o) = p t)
    (s : State) : p s.pmeRelease = p s := by
  refine State.each_keeps p (fun t k => ?_) _ _
  extract_lets f
  split
  · rfl
  · split
    · exact State.sendPme_keeps p (fun t x _ _ => hfn t k x) hemit t
    · exact hfn _ _ _

/-- The link has trained; the messages that were held have not left yet. -/
def State.linkTrained (s : State) : State :=
  { s with hif := { s.hif with linkUp := true, ltr := none } }.setReg DEV_LINK
    (BitVec.ofNat 32 (s.hif.gen ||| s.hif.width <<< 4 ||| b2n (s.clock.st == ClockState.onB) <<< 9 ||| 1 <<< 10))

/-- Where the link trains. -/
theorem State.hostTrain_eq {s : State} (clocked : s.clocked = true) (down : s.hif.linkUp = false) (high : s.power.perst = false)
    (lanes : s.hif.width ≠ 0) (sris : s.clock.st ≠ .onB ∨ s.hif.partnerSris = true) :
    s.hostTrain = (s.linkTrained.pmeRelease.each (span 0 32) State.icEval).ltrUpdate := by
  have trains : (s.hif.linkUp || s.power.perst || !s.clocked || (s.clock.st == .onB && !s.hif.partnerSris) || s.hif.width == 0) = false := by
    simpa [clocked, down, high, lanes] using or_iff_not_imp_left.1 sris
  exact if_neg (Bool.eq_false_iff.1 trains)

/-- What shows that the link has trained, and what training leaves. -/
def State.linkView (s : State) : Bool × Power × Tab Sess × W32 := (s.hif.linkUp, s.power, s.sessions, s.reg DEV_LINK)

theorem State.linkView_setReg (s : State) {a : Nat} (v : W32) (h : DEV_LINK ≠ a) : (s.setReg a v).linkView = s.linkView :=
  congrArg (fun w => (s.hif.linkUp, s.power, s.sessions, w)) (s.reg_setReg_ne v h)

theorem State.linkView_pmeRelease (s : State) : s.pmeRelease.linkView = s.linkView :=
  State.pmeRelease_keeps State.linkView (fun _ _ _ => rfl) (fun _ _ => rfl) s

theorem State.linkView_icEval (s : State) (i : Nat) : (s.icEval i).linkView = s.linkView :=
  State.icEval_keeps State.linkView (fun t v => t.linkView_setReg v (by unfold DEV_LINK IC_STATE; omega))
    (fun t v => t.linkView_setReg v (by unfold DEV_LINK IC_MSGS; omega)) (fun _ _ _ _ => rfl) (fun _ _ => rfl) s

theorem State.linkView_ltrUpdate (s : State) : s.ltrUpdate.linkView = s.linkView := by obtain ⟨_, _, e⟩ := s.ltrUpdate_eq; rw [e]; rfl

/-- A link that trains is up, DEV_LINK shows what it trained to, and supply and sessions stand. -/
theorem State.linkView_hostTrain {s : State} (clocked : s.clocked = true) (down : s.hif.linkUp = false) (high : s.power.perst = false)
    (lanes : s.hif.width ≠ 0) (sris : s.clock.st ≠ .onB ∨ s.hif.partnerSris = true) :
    s.hostTrain.linkView = (true, s.power, s.sessions,
      BitVec.ofNat 32 (s.hif.gen ||| s.hif.width <<< 4 ||| b2n (s.clock.st == .onB) <<< 9 ||| 1 <<< 10)) := by
  rw [State.hostTrain_eq clocked down high lanes sris, State.linkView_ltrUpdate, State.each_keeps State.linkView State.linkView_icEval,
    State.linkView_pmeRelease, State.linkView, State.linkTrained, State.reg_setReg_same]
  rfl

/-- A reset of the host interface leaves the link down and no function of its own, and shows. -/
theorem State.hifReset_spec (s : State) :
    s.hifReset.hif.linkUp = false ∧ s.hifReset.hif.funcs = [] ∧ s.hifReset.hif.vfEnable = false ∧ s.hifReset.bit (hEVT pgRST) 0 = true :=
  ⟨rfl, rfl, rfl, State.bit_setB_same _ _ _ (by decide)⟩

/-- While the clocks run and no reset has been asked for, PERST_SCOPE 1 selects the host interface alone. -/
theorem State.scopeReset_hostOnly {s : State} (running : s.running = true) (calm : s.resetReq = none) (host : s.hostOnly = true) (cause : Nat) :
    s.scopeReset cause = s.hifReset := by
  unfold State.scopeReset
  cases st : s.clock.st with
  | onA => simp only [calm, host, Option.isSome_none, Bool.false_eq_true, if_false, if_true]
  | onB => simp only [calm, host, Option.isSome_none, Bool.false_eq_true, if_false, if_true]
  | _ => simp [State.running, st] at running

theorem State.scopeReset_spec {s : State} (running : s.running = true) (calm : s.resetReq = none) (host : s.hostOnly = true) (cause : Nat) :
    (s.scopeReset cause).hif.linkUp = false ∧ (s.scopeReset cause).hif.funcs = [] ∧ (s.scopeReset cause).hif.vfEnable = false ∧
      (s.scopeReset cause).bit (hEVT pgRST) 0 = true := by
  rw [State.scopeReset_hostOnly running calm host]
  exact s.hifReset_spec

/-- Settles O11: the link as it is lost and as it trains, and the reset that PERST_SCOPE selects. -/
theorem hostLink : Obligations.HostLink := by
  refine ⟨fun s clocked => ⟨congrArg Host.Outcome.next (if_pos clocked), fun down high lanes sris => ?_⟩,
    fun s => ⟨fun high => ?_, fun running up => ?_, fun low => ?_⟩⟩
  · obtain ⟨link, rest⟩ := Prod.mk.inj (State.linkView_hostTrain clocked down high lanes sris)
    obtain ⟨power, rest⟩ := Prod.mk.inj rest
    exact ⟨_, rfl, link, power, Prod.mk.inj rest⟩
  · have e : exec .perstNAssert s = .next ({ s with power := { s.power with perst := true } }.scopeReset 2) :=
      congrArg Host.Outcome.next (if_neg (Bool.eq_false_iff.1 high))
    exact ⟨e, fun running calm host => ⟨_, e, State.scopeReset_spec (s := { s with power := { s.power with perst := true } }) running calm host 2⟩⟩
  · have e : exec .pcieHotReset s = .next (s.scopeReset 3) := congrArg Host.Outcome.next (if_pos (by simp [running, up]))
    exact ⟨e, fun calm host => ⟨_, e, State.scopeReset_spec running calm host 3⟩⟩
  · show Host.Outcome.next _ = _
    simp only [low, if_true]

end Sys2Proof.Machine
end

section
/-! Interrupt messages, their holding, and moderation (R43, R316 to R322; log entry 4). -/

namespace Sys2Proof.Machine

/-- The upper part of a field that was replaced. -/
theorem fld_setFld_upper (w : W32) {hi lo lo' : Nat} (v : Nat) (h : hi < 32) (hl : lo ≤ lo') :
    fld (setFld w hi lo v) hi lo' = v >>> (lo' - lo) % 2 ^ (hi + 1 - lo') := by
  refine Nat.eq_of_testBit_eq fun k => ?_
  rw [testBit_fld, bitAt_setFld, Nat.testBit_mod_two_pow, Nat.testBit_shiftRight]
  by_cases hk : k < hi + 1 - lo'
  · rw [if_pos (by omega), Nat.sub_add_comm hl]
  · simp only [hk, decide_false, Bool.false_and]

/-! Messages. -/

/-- An evaluation of an interrupt controller with a source waiting, nothing active and nothing signalled: the message leaves, or is held. -/
theorem State.icEval_free {s : State} {i : Nat} (idle : s.icActive i = 0) (quiet : s.bit (IC_STATE i) 0 = false) (waiting : (s.icBest i).isSome = true) :
    (s.holdCause i = 0 → s.icEval i = s.icSend i) ∧
      (s.holdCause i ≠ 0 → s.bit (IC_STATE i) 1 = false → s.icEval i = s.icHold i) := by
  have free : (s.icActive i == 0 && !s.bit (IC_STATE i) 0 && (s.icBest i).isSome) = true := by simp [idle, quiet, waiting]
  refine ⟨fun go => ?_, fun stop fresh => ?_⟩
  · simp only [State.icEval, free, go, if_true, ite_self]
  · simp only [State.icEval, free, stop, fresh, Bool.false_eq_true, if_false, if_true]

/-- A message that leaves is signalled and counted. -/
theorem State.icSend_spec (s : State) (i : Nat) :
    (s.icSend i).outbox = s.outbox ++ [.msix i (s.fn i).vecAddr (s.fn i).vecData] ∧ (s.icSend i).bit (IC_STATE i) 0 = true ∧
      (s.icSend i).bit (IC_STATE i) 1 = false ∧ ((s.icSend i).fn i).pba = false ∧ (s.icSend i).reg (IC_MSGS i) = s.reg (IC_MSGS i) + 1 := by
  have apart : IC_STATE i ≠ IC_MSGS i := by unfold IC_STATE IC_MSGS; omega
  have state : (s.icSend i).reg (IC_STATE i) = setFld (s.reg (IC_STATE i)) 4 0 1 :=
    (State.reg_setReg_ne _ _ apart).trans (State.reg_setReg_same _ _ _)
  have msgs : (s.icSend i).reg (IC_MSGS i) = _ := State.reg_setReg_same _ _ _
  refine ⟨rfl, ?_, ?_, congrArg Func.pba (State.fn_setFn_same _ _ _), msgs.trans ?_⟩
  · rw [State.bit, state, bitAt_setFld]; rfl
  · rw [State.bit, state, bitAt_setFld]; rfl
  · exact congrArg (· + 1) (State.reg_setReg_ne _ _ apart.symm)

/-- A cause of holding fits its field. -/
theorem State.holdCause_lt (s : State) (i : Nat) : s.holdCause i < 8 := by
  unfold State.holdCause
  extract_lets k
  split_ifs <;> decide

/-- The message of a function in D0 that is held shows its cause, and nothing leaves. -/
theorem State.icHold_spec {s : State} {i : Nat} (d0 : (s.fn i).d3 = false) :
    (s.icHold i).outbox = s.outbox ∧ (s.icHold i).bit (IC_STATE i) 0 = s.bit (IC_STATE i) 0 ∧ (s.icHold i).bit (IC_STATE i) 1 = true ∧
      (s.icHold i).f (IC_STATE i) 4 2 = s.holdCause i ∧ ((s.icHold i).fn i).pba = true := by
  have held : ((s.setFn i { s.fn i with pba := true }).setF (IC_STATE i) 4 1 (s.holdCause i <<< 1 ||| 1)).fn i = { s.fn i with pba := true } :=
    State.fn_setFn_same _ _ _
  have e : s.icHold i = (s.setFn i { s.fn i with pba := true }).setF (IC_STATE i) 4 1 (s.holdCause i <<< 1 ||| 1) :=
    if_neg (by rw [held, d0]; decide)
  have state : (s.icHold i).reg (IC_STATE i) = setFld (s.reg (IC_STATE i)) 4 1 (s.holdCause i <<< 1 ||| 1) := by
    rw [e]; exact State.reg_setReg_same _ _ _
  have lt := s.holdCause_lt i
  have odd : (s.holdCause i <<< 1 ||| 1) = 2 * s.holdCause i + 1 := by
    rw [← Nat.shiftLeft_add_eq_or_of_lt (by decide), Nat.shiftLeft_eq]; omega
  refine ⟨by rw [e]; rfl, ?_, ?_, ?_, by rw [e, held]⟩
  · rw [State.bit, state, bitAt_setFld_ne _ _ (by decide), State.bit]
  · rw [State.bit, state, bitAt_setFld, odd]; simp
  · rw [State.f, state, fld_setFld_upper _ _ (by decide) (by decide), odd, Nat.shiftRight_eq_div_pow]; omega

/-! Moderation. -/

/-- No sequencer serves the page of an interrupt controller. -/
theorem State.noted_icPage (s : State) (who : Who) (i : FnId) : s.noted who (pgIC i.val) = s :=
  State.noted_plain (by unfold pgIC; omega) (by unfold pgIC pgCSW; omega) (by unfold pgIC pgSMB; omega) (by unfold pgIC; omega)

/-- IC_MOD holds a COUNT and a TIME. -/
theorem fld_modWord {c m : Nat} (hc : c < 2 ^ 8) (hm : m < 2 ^ 16) :
    fld (BitVec.ofNat 32 (m <<< 16 ||| c)) 7 0 = c ∧ fld (BitVec.ofNat 32 (m <<< 16 ||| c)) 31 16 = m := by
  rw [← Nat.shiftLeft_add_eq_or_of_lt (hc.trans (by decide)), Nat.shiftLeft_eq, fld_ofNat 7 0 (by omega), fld_ofNat 31 16 (by omega),
    Nat.shiftRight_eq_div_pow, Nat.shiftRight_eq_div_pow]
  omega

section
variable {s : State} {i r c m : Nat} {v : W32} (own : s.owner r = i)
  (count : c = if fld v 7 0 = 0 then 1 else fld v 7 0) (time : m = if fld v 31 16 = 0 then 1 else fld v 31 16)
include own count time

/-- IC_MOD of a ring that is routed to the controller is written; the ring fires if its count or time reaches what is written. -/
theorem State.icModWrite_own :
    s.icModWrite i r v =
      if (s.ring r).modC ≠ 0 ∧ (c ≤ (s.ring r).modC ∨ m ≤ (s.ring r).modUs) then (s.setReg (IC_MOD i r) (BitVec.ofNat 32 (m <<< 16 ||| c))).modFire r
      else s.setReg (IC_MOD i r) (BitVec.ofNat 32 (m <<< 16 ||| c)) := by
  rw [count, time]
  exact if_pos own

theorem State.icModWrite_own_spec :
    (s.icModWrite i r v).f (IC_MOD i r) 7 0 = c ∧ (s.icModWrite i r v).f (IC_MOD i r) 31 16 = m ∧
      ((s.ring r).modC ≠ 0 → (c ≤ (s.ring r).modC ∨ m ≤ (s.ring r).modUs) → ((s.icModWrite i r v).ring r).modFired = true) ∧
      (((s.ring r).modC = 0 ∨ ((s.ring r).modC < c ∧ (s.ring r).modUs < m)) → (s.icModWrite i r v).ring r = s.ring r) := by
  have hc : c < 2 ^ 8 := by have := fld_lt v 7 0; split at count <;> omega
  have hm : m < 2 ^ 16 := by have := fld_lt v 31 16; split at time <;> omega
  obtain ⟨low, high⟩ := fld_modWord hc hm
  have word : (s.icModWrite i r v).reg (IC_MOD i r) = BitVec.ofNat 32 (m <<< 16 ||| c) := by
    rw [State.icModWrite_own own count time]
    split
    · exact State.reg_setReg_same _ _ _
    · exact State.reg_setReg_same _ _ _
  refine ⟨by rw [State.f, word, low], by rw [State.f, word, high], fun counted reached => ?_, fun short => ?_⟩
  · rw [State.icModWrite_own own count time, if_pos ⟨counted, reached⟩]
    exact congrArg Ring.modFired (State.ring_setRing_same _ _ _)
  · rw [State.icModWrite_own own count time, if_neg (by omega)]
    rfl

end

/-- Settles O35: by the evaluation that sends or holds, the write of IC_MOD, and what a timer and a repeated PM_PME do. -/
theorem messagesAndModeration : Obligations.MessagesAndModeration := by
  refine ⟨?_, ?_, fun r s clocked unsignalled => congrArg Host.Outcome.next (if_pos (by simp [clocked, unsignalled])), fun fn s clocked d3 status en => ?_⟩
  · intro inst s i clocked idle quiet waiting
    have e : exec (.msixSend inst) s = .next (s.icEval inst.val) := congrArg Host.Outcome.next (if_pos clocked)
    obtain ⟨sends, holds⟩ := State.icEval_free idle quiet waiting
    refine ⟨fun go => ⟨_, e, ?_⟩, fun stop fresh d0 => ⟨_, e, ?_⟩⟩
    · rw [sends go]; exact s.icSend_spec i
    · obtain ⟨outbox, state, rest⟩ := State.icHold_spec d0
      rw [holds stop fresh]; exact ⟨outbox, state.trans quiet, rest⟩
  · intro who inst r v s i c m h
    have e : exec (.icModWrite who inst r v) s = .next ((s.icModWrite inst.val r.val v).told who) :=
      congrArg Host.Outcome.next ((State.access_served h _).trans (by rw [State.noted_icPage]))
    refine ⟨fun other => ?_, fun own => ⟨_, e, ?_⟩⟩
    · rw [e, State.icModWrite, if_neg other]
    · simp only [State.told_f, State.told_ring]
      exact State.icModWrite_own_spec own rfl rfl
  · have e : exec (.pmeRepeat fn) s = .next (s.sendPme fn.val) := congrArg Host.Outcome.next (if_pos (by simp [clocked, d3, status, en]))
    refine ⟨fun up => ⟨_, e, ?_⟩, fun down => ?_⟩
    · rw [State.sendPme, if_pos up]
      exact ⟨rfl, congrArg Func.pmeHeld (State.fn_setFn_same _ _ _)⟩
    · rw [e, State.sendPme, if_neg (by simp [down])]

end Sys2Proof.Machine
end

section
/-! Accesses through BAR2 (R35, R36, R40, R368; log entries 3, 76). -/

namespace Sys2Proof.Machine

/-- The bytes of HBM from an address on, one by one. -/
theorem State.getD_hbmBytes (s : State) {a n k : Nat} (h : k < n) : (s.hbmBytes a n).getD k 0 = s.hbmByte (a + k) := by
  simp [State.hbmBytes, span, List.getD_eq_getElem?_getD, h]

/-- A read through BAR2 answers bytes of HBM, and 0 from HBM's end on. -/
theorem State.bar2Read_spec (s : State) (a len : Nat) :
    ∃ bs p, (s.bar2Read a len).outbox.getLast? = some (.bar2Data bs p) ∧ bs.length = len ∧
      ∀ k, k < len → bs.getD k 0 = if a + k < s.hbmSize then s.hbmByte (a + k) else 0 := by
  have length : (s.hbmBytes a (min len (s.hbmSize - a))).length = min len (s.hbmSize - a) := by simp [State.hbmBytes, span]
  refine ⟨_, _, List.getLast?_concat .., ?_, fun k hk => ?_⟩
  · rw [List.length_append, length, List.length_replicate]; omega
  · by_cases inside : a + k < s.hbmSize
    · rw [if_pos inside, List.getD_append _ _ _ _ (by omega), s.getD_hbmBytes (by omega)]
    · rw [if_neg inside, List.getD_append_right _ _ _ _ (by omega), List.getD_replicate _ (by omega)]

/-- Settles O13: inside the window both accesses are those of HBM from the window's base. -/
theorem bar2Accesses : Obligations.Bar2Accesses := by
  intro fn off b z s clocked link d0 window
  have up : s.hostUp = true := by simp [State.hostUp, clocked, link]
  refine ⟨fun len fits => ?_, fun len bs fits => ?_⟩
  · have e : exec (.bar2Access fn off len none) s = .next (s.bar2Read (b + off) len) := by
      show execBar2Access fn off len none s = _
      simp [execBar2Access, up, d0, window, fits]
    obtain ⟨bs, p, spec⟩ := s.bar2Read_spec (b + off) len
    exact ⟨_, bs, p, e, spec⟩
  · show execBar2Access fn off len (some bs) s = _
    simp [execBar2Access, up, d0, window, fits]

end Sys2Proof.Machine
end

section
/-! Configuration of the functions and the PTM dialogue (R30, R33, R36, R37, R41, R43, R46, R47; log entries 75, 76, 93, 94, 125). -/

namespace Sys2Proof.Machine

/-- A configuration write over a live link takes effect once configuration space is ready. -/
theorem State.config_ready {s : State} (ready : s.hif.readyIn = 0) (k : Nat) (f : State → State) : s.config k f = f s := if_pos ready

/-- Before that it has the Retry Status. -/
theorem State.config_early {s : State} (early : s.hif.readyIn ≠ 0) (k : Nat) (f : State → State) : s.config k f = s.emit (.configRetry k) := if_neg early

/-! What each configuration write does where it arrives. -/

section
variable {s : State} (up : s.hostUp = true)
include up

theorem exec_vfDisable (en ari : Bool) (n : FnId) : exec (.vfDisable en ari n) s = .next (s.config 0 fun s => s.vfSet en ari n.val) :=
  congrArg Host.Outcome.next (if_pos up)

theorem exec_bar2Resize {l : Nat} (low : 30 ≤ l) (high : l ≤ 38) :
    exec (.bar2Resize l) s = .next (s.config 0 fun s => { s with hif := { s.hif with bar2Log2 := l } }.setPair DEV_BAR2_BASE_LO DEV_BAR2_BASE_HI
      (alignBase l (s.pair DEV_BAR2_BASE_LO DEV_BAR2_BASE_HI))) :=
  congrArg Host.Outcome.next (if_pos (by simp [up, low, high]))

theorem exec_flr {fn : FnId} (vf : s.vfExists fn.val = true) : exec (.flr fn) s = .next (s.config fn.val fun s => s.flr fn.val) :=
  congrArg Host.Outcome.next (if_pos (by simp [up, vf]))

variable {fn : FnId} (here : s.fnExists fn.val = true)
include here

theorem exec_powerStateChange (d3 pmeEn clearPme : Bool) :
    exec (.powerStateChange fn d3 pmeEn clearPme) s = .next (s.config fn.val fun s => s.powerState fn.val d3 pmeEn clearPme) :=
  congrArg Host.Outcome.next (if_pos (by simp [up, here]))

theorem exec_busMasterEnableChange (on : Bool) :
    exec (.busMasterEnableChange fn on) s =
      .next (s.config fn.val fun s => (s.setFn fn.val { s.fn fn.val with bme := on }).icEval fn.val) :=
  congrArg Host.Outcome.next (if_pos (by simp [up, here]))

theorem exec_msixControlWrite (ready : s.hif.readyIn = 0) (f : MsixField) :
    exec (.msixControlWrite fn f) s = .next (s.msixControl fn.val f) := by
  refine congrArg Host.Outcome.next ((if_pos (by simp [up, here])).trans ?_)
  cases f with
  | enable b => exact State.config_ready ready _ _
  | functionMask b => exact State.config_ready ready _ _
  | table off v => rfl

end

/-! What the functions hold afterwards. -/

/-- Into D3hot, or in D0, the function has the power state and PME_En written. -/
theorem State.powerState_fn {s : State} {k : Nat} {d3 : Bool} (stays : (s.fn k).d3 = false ∨ d3 = true) (pmeEn clearPme : Bool) :
    ((s.powerState k d3 pmeEn clearPme).fn k).d3 = d3 ∧ ((s.powerState k d3 pmeEn clearPme).fn k).pmeEn = pmeEn := by
  have written := s.fn_setFn_same k { s.fn k with d3 := d3, pmeEn := pmeEn, pmeStatus := (s.fn k).pmeStatus && !clearPme }
  have e : s.powerState k d3 pmeEn clearPme =
      (s.setFn k { s.fn k with d3 := d3, pmeEn := pmeEn, pmeStatus := (s.fn k).pmeStatus && !clearPme }).icEval k :=
    if_neg (by rcases stays with h | h <;> simp [h])
  obtain ⟨power, pme⟩ := State.icEval_power (s.setFn k { s.fn k with d3 := d3, pmeEn := pmeEn, pmeStatus := (s.fn k).pmeStatus && !clearPme }) k
  rw [e, power, pme, written]
  exact ⟨rfl, rfl⟩

/-- What a write of VF Enable, ARI and NumVFs decides, and the link. -/
def State.vfView (s : State) : Bool × Bool × Nat × Bool := (s.hif.vfEnable, s.hif.ari, s.hif.numVFs, s.hif.linkUp)

theorem State.vfView_icReset (s : State) (i : Nat) : (s.icReset i).vfView = s.vfView :=
  State.each_keeps State.vfView (f := State.modClear) (fun _ _ => rfl) _ _

/-- The fields are as they are written, and the link stays. -/
theorem State.vfView_vfSet (s : State) (en ari : Bool) (n : Nat) : (s.vfSet en ari n).vfView = (en, ari, n, s.hif.linkUp) :=
  State.each_keeps State.vfView (f := fun t k => (t.icReset k).setFn k {}) (fun t k => t.vfView_icReset k) _
    { s with hif := { s.hif with vfEnable := en, numVFs := n, ari := ari } }

/-- The reset of a VF leaves its configuration at reset values, and shows. -/
theorem State.flr_spec (s : State) (k : Nat) : (s.flr k).bit (hEVT pgRST) 1 = true ∧ (s.flr k).fn k = {} := by
  constructor
  · rw [State.flr, State.bit, State.ltrUpdate_reg]
    exact State.bit_setB_same _ _ _ (by decide)
  · rw [State.flr, State.ltrUpdate_fn]
    exact State.fn_setFn_same _ _ _

/-! The PTM dialogue. -/

theorem State.pair_setReg_ne (s : State) {lo hi a : Nat} (v : W32) (hlo : lo ≠ a) (hhi : hi ≠ a) : (s.setReg a v).pair lo hi = s.pair lo hi := by
  rw [State.pair, State.reg_setReg_ne _ _ hlo, State.reg_setReg_ne _ _ hhi, State.pair]

/-- A dialogue that fails ends, with no time that is valid. -/
theorem State.ptmFail_spec (s : State) :
    s.ptmFail.hif.ptm = none ∧ s.ptmFail.bit DEV_PTM_CTL 0 = false ∧ s.ptmFail.bit DEV_PTM_CTL 1 = false ∧ s.ptmFail.bit (hEVT pgDEV) 1 = true := by
  refine ⟨rfl, ?_, ?_, State.bit_setB_same _ _ _ (by decide)⟩
  · rw [State.ptmFail, State.event, State.setB, State.bit_setReg_ne _ _ _ (by decide), State.bit_setB_ne _ _ _ (by decide), State.bit_setB_same _ _ _ (by decide)]
  · rw [State.ptmFail, State.event, State.setB, State.bit_setReg_ne _ _ _ (by decide), State.bit_setB_same _ _ _ (by decide)]

/-- The registers that the answer of a dialogue latches. -/
def State.ptmTimes (s : State) (t : PtpTime) (master : W64) : State :=
  (({ s with hif := { s.hif with ptm := none } }.setReg DEV_PTM_MTC_NS t.ns).setPair DEV_PTM_MTC_SEC_LO DEV_PTM_MTC_SEC_HI t.sec.toNat).setPair
    DEV_PTM_ROOT_LO DEV_PTM_ROOT_HI master.toNat

theorem State.ptmLatch_eq (s : State) (t : PtpTime) (master : W64) :
    s.ptmLatch t master = (((s.ptmTimes t master).setB DEV_PTM_CTL 0 false).setB DEV_PTM_CTL 1 true).event pgDEV 1 := rfl

theorem State.ptmTimes_spec (s : State) (t : PtpTime) (master : W64) :
    (s.ptmTimes t master).pair DEV_PTM_ROOT_LO DEV_PTM_ROOT_HI = master.toNat ∧ (s.ptmTimes t master).reg DEV_PTM_MTC_NS = t.ns ∧
      (s.ptmTimes t master).pair DEV_PTM_MTC_SEC_LO DEV_PTM_MTC_SEC_HI = t.sec.toNat := by
  unfold State.ptmTimes
  refine ⟨State.pair_setPair _ _ (by decide) master.isLt, ?_, ?_⟩
  · simp only [State.setPair_eq]
    rw [State.reg_setReg_ne _ _ (by decide), State.reg_setReg_ne _ _ (by decide), State.reg_setReg_ne _ _ (by decide),
      State.reg_setReg_ne _ _ (by decide), State.reg_setReg_same]
  · rw [State.setPair_eq _ DEV_PTM_ROOT_LO, State.pair_setReg_ne _ _ (by decide) (by decide), State.pair_setReg_ne _ _ (by decide) (by decide)]
    exact State.pair_setPair _ _ (by decide) (t.sec.isLt.trans (by decide))

/-- A dialogue that is answered ends with the times of the answer. -/
theorem State.ptmLatch_spec (s : State) (t : PtpTime) (master : W64) :
    (s.ptmLatch t master).hif.ptm = none ∧ (s.ptmLatch t master).bit DEV_PTM_CTL 0 = false ∧ (s.ptmLatch t master).bit DEV_PTM_CTL 1 = true ∧
      (s.ptmLatch t master).pair DEV_PTM_ROOT_LO DEV_PTM_ROOT_HI = master.toNat ∧ (s.ptmLatch t master).reg DEV_PTM_MTC_NS = t.ns ∧
      (s.ptmLatch t master).pair DEV_PTM_MTC_SEC_LO DEV_PTM_MTC_SEC_HI = t.sec.toNat ∧ (s.ptmLatch t master).bit (hEVT pgDEV) 1 = true := by
  obtain ⟨root, ns, sec⟩ := s.ptmTimes_spec t master
  rw [State.ptmLatch_eq]
  refine ⟨rfl, ?_, ?_, ?_, ?_, ?_, State.bit_setB_same _ _ _ (by decide)⟩
  · rw [State.event, State.setB, State.bit_setReg_ne _ _ _ (by decide), State.bit_setB_ne _ _ _ (by decide), State.bit_setB_same _ _ _ (by decide)]
  · rw [State.event, State.setB, State.bit_setReg_ne _ _ _ (by decide), State.bit_setB_same _ _ _ (by decide)]
  · simp only [State.event_eq, State.setB_eq]
    rw [State.pair_setReg_ne _ _ (by decide) (by decide), State.pair_setReg_ne _ _ (by decide) (by decide),
      State.pair_setReg_ne _ _ (by decide) (by decide), root]
  · simp only [State.event_eq, State.setB_eq]
    rw [State.reg_setReg_ne _ _ (by decide), State.reg_setReg_ne _ _ (by decide), State.reg_setReg_ne _ _ (by decide), ns]
  · simp only [State.event_eq, State.setB_eq]
    rw [State.pair_setReg_ne _ _ (by decide) (by decide), State.pair_setReg_ne _ _ (by decide) (by decide),
      State.pair_setReg_ne _ _ (by decide) (by decide), sec]

/-- Settles O12: the configuration writes with configuration space ready and before, and the PTM dialogue from its request to its end. -/
theorem functionConfiguration : Obligations.FunctionConfiguration := by
  have arrives {s : State} (clocked : s.clocked = true) (link : s.hif.linkUp = true) : s.hostUp = true := by simp [State.hostUp, clocked, link]
  refine ⟨fun s clocked link ready => ?_, fun s clocked link early => ?_, fun s => ⟨fun who h idle => ?_, fun time clocked running => ?_⟩⟩
  · have up := arrives clocked link
    refine ⟨fun fn d3 pmeEn clearPme here => ?_, fun fn on here => ?_, fun fn here => ⟨fun b => ?_, fun b => ?_, fun off v d0 => ?_⟩,
      fun en ari n => ?_, fun l low high => ?_, fun fn vf => ?_⟩
    · have e := exec_powerStateChange up here d3 pmeEn clearPme
      rw [State.config_ready ready] at e
      exact ⟨e, fun stays => ⟨_, e, State.powerState_fn stays pmeEn clearPme⟩⟩
    · rw [exec_busMasterEnableChange up here, State.config_ready ready]
    · exact exec_msixControlWrite up here ready _
    · exact exec_msixControlWrite up here ready _
    · rw [exec_msixControlWrite up here ready, State.msixControl, if_pos d0, State.msixTable]
    · obtain ⟨hen, rest⟩ := Prod.mk.inj (s.vfView_vfSet en ari n.val)
      obtain ⟨hari, rest⟩ := Prod.mk.inj rest
      obtain ⟨hn, hlink⟩ := Prod.mk.inj rest
      exact ⟨_, (exec_vfDisable up en ari n).trans (congrArg _ (State.config_ready ready _ _)), hen, hari, hn, hlink.trans link⟩
    · exact ⟨_, (exec_bar2Resize up low high).trans (congrArg _ (State.config_ready ready _ _)), rfl,
        State.pair_setPair _ _ (by decide) ((alignBase_lt _ _).trans (by decide))⟩
    · obtain ⟨shown, cleared⟩ := s.flr_spec fn.val
      exact ⟨_, (exec_flr up vf).trans (congrArg _ (State.config_ready ready _ _)), shown, by rw [cleared], by rw [cleared]⟩
  · have up := arrives clocked link
    refine ⟨fun fn d3 pmeEn clearPme here => ?_, fun fn on here => ?_, fun en ari n => ?_, fun fn vf => ?_⟩
    · rw [exec_powerStateChange up here, State.config_early early]
    · rw [exec_busMasterEnableChange up here, State.config_early early]
    · rw [exec_vfDisable up, State.config_early early]
    · rw [exec_flr up vf, State.config_early early]
  · have plain : s.noted who pgDEV = s := State.noted_plain (by decide) (by decide) (by decide) (by decide)
    have e : exec (.ptmRequest who) s = .next (s.ptmStart.told who) := congrArg Host.Outcome.next ((State.access_served h _).trans (by rw [plain]))
    refine ⟨_, e, ?_, ?_⟩
    · rw [State.told_hif, State.ptmStart, if_neg (by simp [idle])]; rfl
    · rw [State.told_bit, State.ptmStart, if_neg (by simp [idle])]; exact State.bit_setB_same _ _ _ (by decide)
  · refine ⟨⟨s.ptmFail, ?_, s.ptmFail_spec⟩, fun m => ⟨s.ptmLatch time (ptmMaster m), ?_, s.ptmLatch_spec time (ptmMaster m)⟩⟩
    · show execPtmDone none s = _
      simp only [execPtmDone, running, clocked, if_true]
    · show execPtmDone (some m) s = _
      simp only [execPtmDone, running, clocked, if_true]

end Sys2Proof.Machine
end

section
/-! Which row of the page map a page stands in (R578). -/

namespace Sys2Proof.Machine

/-- What the map says of a page stands in its row. -/
theorem mem_pageRows_of_pageInfo {p i : Nat} {r : PageRow} (h : pageInfo p = some (r, i)) :
    r ∈ pageRows ∧ r.first ≤ p ∧ p < r.first + r.count ∧ i = p - r.first := by
  unfold pageInfo at h
  split at h
  · next row found =>
    obtain ⟨rfl, rfl⟩ := Prod.mk.inj (Option.some.inj h)
    have inside := of_decide_eq_true (List.find?_some found :)
    exact ⟨List.mem_of_find?_eq_some found, inside.1, inside.2, rfl⟩
  · contradiction

/-- The rows of the map do not overlap. -/
theorem pageRows_apart {r r' : PageRow} (h : r ∈ pageRows) (h' : r' ∈ pageRows) :
    r = r' ∨ r.first + r.count ≤ r'.first ∨ r'.first + r'.count ≤ r.first := by
  have ordered : pageRows.Pairwise fun a b => a.first + a.count ≤ b.first := by decide
  have either (a b : PageRow) (k : a.first + a.count ≤ b.first) : a = b ∨ a.first + a.count ≤ b.first ∨ b.first + b.count ≤ a.first := .inr (.inl k)
  have flipped (a b : PageRow) (k : a.first + a.count ≤ b.first) : b = a ∨ b.first + b.count ≤ a.first ∨ a.first + a.count ≤ b.first := .inr (.inr k)
  exact (ordered.imp (either _ _)).forall_of_forall_of_flip (fun _ _ => .inl rfl) (ordered.imp (flipped _ _)) h h'

/-- So each page of a row is found there. -/
theorem pageInfo_of_mem {p : Nat} {r : PageRow} (h : r ∈ pageRows) (low : r.first ≤ p) (high : p < r.first + r.count) :
    pageInfo p = some (r, p - r.first) := by
  cases found : pageRows.find? (fun r => decide (r.first ≤ p ∧ p < r.first + r.count)) with
  | none => exact absurd (decide_eq_true ⟨low, high⟩) (List.find?_eq_none.1 found r h)
  | some r' =>
    have inside : r'.first ≤ p ∧ p < r'.first + r'.count := of_decide_eq_true (List.find?_some found :)
    have same : r = r' := (pageRows_apart h (List.mem_of_find?_eq_some found)).resolve_right (by omega)
    rw [pageInfo, found, ← same]

theorem pageInfo_ring (r : RingId) : ∃ row, pageInfo (pgRING r.val) = some (row, r.val) ∧ row.block = .ring :=
  ⟨_, (pageInfo_of_mem (r := ⟨.ring, 0x100, 256, 0x4A00, 0, 0x1004, .host, 0x3F⟩) (by simp [pageRows]) (Nat.le_add_right _ _)
    (Nat.add_lt_add_left r.isLt _)).trans (by rw [Nat.add_sub_cancel_left]), rfl⟩

theorem pageInfo_port (n : PortId) : ∃ row, pageInfo (pgTPT n.val) = some (row, n.val) ∧ row.block = .tpt :=
  ⟨_, (pageInfo_of_mem (r := ⟨.tpt, 0x2A0, 8, 0x8A00, 0, 0x104, .host, 0x1FF⟩) (by simp [pageRows]) (Nat.le_add_right _ _)
    (Nat.add_lt_add_left n.isLt _)).trans (by rw [Nat.add_sub_cancel_left]), rfl⟩

/-- The ports' pages are those of their row. -/
theorem page_of_port {p i : Nat} {r : PageRow} (h : pageInfo p = some (r, i)) (port : r.block = .tpt) : pgTPT 0 ≤ p ∧ p ≤ pgTPT 7 := by
  have rows : ∀ r ∈ pageRows, r.block = .tpt → r.first = pgTPT 0 ∧ r.count = 8 := by decide
  obtain ⟨mem, low, high, -⟩ := mem_pageRows_of_pageInfo h
  obtain ⟨first, count⟩ := rows r mem port
  unfold pgTPT at *
  omega

end Sys2Proof.Machine
end

section
/-! How a block runs, drains, aborts and is reset by its CTL (R54, R55, R301, R481, R533, R534; log entry 66). -/

namespace Sys2Proof.Machine

/-- A served write of CTL by the four commands. -/
theorem exec_ctlWrite_served {who : Who} {page : PageId} {s : State} (h : s.servedHdr who page.val = true) :
    exec (.blockEnable who page) s = .next (((s.noted who page.val).ctlWrite page.val 1).told who) ∧
      exec (.drain who page) s = .next (((s.noted who page.val).ctlWrite page.val 0).told who) ∧
      exec (.abort who page) s = .next (((s.noted who page.val).ctlWrite page.val 2).told who) ∧
      exec (.srst who page) s = .next (((s.noted who page.val).ctlWrite page.val 4).told who) :=
  ⟨congrArg Host.Outcome.next (State.accessHdr_served h _), congrArg Host.Outcome.next (State.accessHdr_served h _),
    congrArg Host.Outcome.next (State.accessHdr_served h _), congrArg Host.Outcome.next (State.accessHdr_served h _)⟩

/-- What a served access notes, it notes in a sequencer. -/
theorem State.noted_eq (s : State) (who : Who) (p : Nat) : ∃ seqs, s.noted who p = { s with seqs := seqs } := by
  cases who with
  | pcie k =>
    simp only [State.noted, State.regLatch]
    split_ifs
    · exact ⟨_, rfl⟩
    · exact ⟨_, rfl⟩
    · exact ⟨_, rfl⟩
  | agent a => exact ⟨_, rfl⟩

/-- A sequencer holds none of the work that makes a page active, and no open request of a block. -/
theorem State.noted_work (s : State) (who : Who) (p q : Nat) :
    (s.noted who p).pageActive q = s.pageActive q ∧ (s.noted who p).openRequests q = s.openRequests q := by
  obtain ⟨_, e⟩ := s.noted_eq who p
  rw [e]
  exact ⟨rfl, rfl⟩

/-! CTL by its value. -/

/-- Where hardware does not run the block by CTL, or while the page resets, a write changes nothing. -/
theorem State.ctlWrite_ignored {s : State} {p : Nat} (h : s.busy p = true ∨ (ctlMode p ≠ .host ∧ ctlMode p ≠ .hdg)) (v : W32) :
    s.ctlWrite p v = s := by
  rcases h with busy | ⟨hhost, hhdg⟩
  · have run (en abort : Bool) : s.runWrite p en abort = s := if_pos busy
    have reset : s.softReset p = s := if_pos (.inr busy)
    cases mode : ctlMode p <;> simp [State.ctlWrite, mode, run, reset]
  · cases mode : ctlMode p with
    | host => exact absurd mode hhost
    | hdg => exact absurd mode hhdg
    | _ => simp only [State.ctlWrite, mode]

section
variable {s : State} {p : Nat} (run : ctlMode p = .host ∨ ctlMode p = .hdg)
include run

/-- A block whose CTL the host writes is run, stopped or reset by it. -/
theorem State.ctlWrite_commands :
    s.ctlWrite p 1 = s.runWrite p true false ∧ s.ctlWrite p 0 = s.runWrite p false false ∧ s.ctlWrite p 2 = s.runWrite p false true ∧
      s.ctlWrite p 4 = s.softReset p := by
  rcases run with mode | mode <;> simp only [State.ctlWrite, mode] <;> exact ⟨rfl, rfl, rfl, rfl⟩

variable (calm : s.busy p = false)
include calm

/-- SRST clears EN and DRAIN_MODE and raises RESET_BUSY; the reset ends at once unless a request of the block is open. -/
theorem State.ctlWrite_srst :
    s.ctlWrite p 4 =
      if s.openRequests p then ((s.setB (hCTL p) 0 false).setB (hCTL p) 1 false).setBusy p true
      else (((s.setB (hCTL p) 0 false).setB (hCTL p) 1 false).setBusy p true).resetFinish p := by
  obtain ⟨-, -, -, reset⟩ := State.ctlWrite_commands (s := s) run
  have taken : ¬ ((ctlMode p ≠ .host ∧ ctlMode p ≠ .hdg) ∨ s.busy p = true) := by simpa [calm] using or_iff_not_imp_left.1 run
  have busy := State.busy_setBusy_same ((s.setB (hCTL p) 0 false).setB (hCTL p) 1 false) p true
  have same : (((s.setB (hCTL p) 0 false).setB (hCTL p) 1 false).setBusy p true).openRequests p = s.openRequests p := rfl
  rw [reset, State.softReset, if_neg taken, State.resetSettle, busy, same]
  cases s.openRequests p <;> rfl

/-- An enabled block is stopped, or leaves the drain mode it had. -/
theorem State.ctlWrite_enabled (en : s.bit (hCTL p) 0 = true) :
    s.ctlWrite p 1 = s.setB (hCTL p) 1 false ∧ s.ctlWrite p 0 = s.blockStop p false ∧ s.ctlWrite p 2 = s.blockStop p true := by
  obtain ⟨start, stop, cut, -⟩ := State.ctlWrite_commands (s := s) run
  rw [start, stop, cut]
  simp only [State.runWrite, calm, en, Bool.false_eq_true, if_false, if_true, and_self]

variable (dis : s.bit (hCTL p) 0 = false)
include dis

/-- A block whose work still ends takes an abort of its drain, and nothing else. -/
theorem State.ctlWrite_ending (active : s.pageActive p = true) :
    s.ctlWrite p 1 = s ∧ s.ctlWrite p 0 = s ∧
      s.ctlWrite p 2 = if s.bit (hCTL p) 1 then s else (s.setB (hCTL p) 1 true).blockAbort p := by
  obtain ⟨start, stop, cut, -⟩ := State.ctlWrite_commands (s := s) run
  rw [start, stop, cut]
  cases mode : s.bit (hCTL p) 1 <;>
    simp only [State.runWrite, calm, dis, active, mode, Bool.false_and, Bool.true_and, Bool.not_true, Bool.not_false, Bool.false_eq_true,
      if_false, if_true, and_self]

/-- A stopped block keeps the drain mode written, or starts. -/
theorem State.ctlWrite_stopped (idle : s.pageActive p = false) :
    s.ctlWrite p 1 = (s.setB (hCTL p) 1 false).blockStart p ∧ s.ctlWrite p 0 = s.setB (hCTL p) 1 false ∧ s.ctlWrite p 2 = s.setB (hCTL p) 1 true := by
  obtain ⟨start, stop, cut, -⟩ := State.ctlWrite_commands (s := s) run
  rw [start, stop, cut]
  simp only [State.runWrite, calm, dis, idle, Bool.false_eq_true, if_false, if_true, and_self]

end

/-- The start of a block that is no port sets EN. -/
theorem State.blockStart_reg {s : State} {p : Nat} (run : ctlMode p = .host ∨ ctlMode p = .hdg) (noPort : p < pgTPT 0 ∨ pgTPT 7 < p) :
    (s.blockStart p).reg (hCTL p) = setBit (s.reg (hCTL p)) 0 true := by
  have written := s.reg_setReg_same (hCTL p) (setBit (s.reg (hCTL p)) 0 true)
  cases info : pageInfo p with
  | none => simp [ctlMode, info] at run
  | some e =>
    obtain ⟨row, i⟩ := e
    cases block : row.block with
    | tpt => exact absurd (page_of_port info block) (by omega)
    | ic =>
      simp only [State.blockStart, info, block]
      exact (State.icEval_reg _ (by unfold hCTL IC_STATE; omega) (by unfold hCTL IC_MSGS; omega)).trans written
    | ring =>
      simp only [State.blockStart, info, block]
      exact (State.ltrUpdate_reg _ _).trans written
    | _ =>
      simp only [State.blockStart, info, block]
      exact written

/-- So a block that starts is enabled and not in drain mode. -/
theorem State.blockStart_bits {s : State} {p : Nat} (run : ctlMode p = .host ∨ ctlMode p = .hdg) (noPort : p < pgTPT 0 ∨ pgTPT 7 < p) :
    ((s.setB (hCTL p) 1 false).blockStart p).bit (hCTL p) 0 = true ∧ ((s.setB (hCTL p) 1 false).blockStart p).bit (hCTL p) 1 = false := by
  rw [State.bit, State.bit, State.blockStart_reg run noPort, bitAt_setBit_same _ _ _ (by decide), bitAt_setBit_ne _ _ (by decide)]
  exact ⟨rfl, State.bit_setB_same _ _ _ (by decide)⟩

/-- The drain of a ring or a port: EN and the drain mode are 0, and it is DRAINING. -/
theorem State.blockStop_drains (s : State) {p : Nat} (drain : drains p = true) :
    (s.blockStop p false).bit (hCTL p) 0 = false ∧ (s.blockStop p false).bit (hCTL p) 1 = false ∧ (s.blockStop p false).inDrain p = true := by
  have e : s.blockStop p false = (((s.setB (hCTL p) 0 false).setB (hCTL p) 1 false).setDrain p true).ltrUpdate := by
    cases info : pageInfo p with
    | none => simp [drains, info] at drain
    | some x =>
      obtain ⟨⟨block, _⟩, i⟩ := x
      have rings : block = .ring ∨ block = .tpt := by simpa [drains, info] using drain
      rcases rings with rfl | rfl <;> simp only [State.blockStop, drain, info] <;> rfl
  have low : ((s.setB (hCTL p) 0 false).setB (hCTL p) 1 false).bit (hCTL p) 0 = false :=
    (State.bit_setB_ne _ _ _ (by decide)).trans (State.bit_setB_same _ _ _ (by decide))
  have mode : ((s.setB (hCTL p) 0 false).setB (hCTL p) 1 false).bit (hCTL p) 1 = false := State.bit_setB_same _ _ _ (by decide)
  rw [e, State.bit, State.bit, State.ltrUpdate_reg, State.ltrUpdate_inDrain]
  exact ⟨low, mode, State.inDrain_setDrain_same _ _ _⟩

/-! The ends of a drain and of a reset. -/

theorem exec_blockDrainDone {page : PageId} {s : State} (clocked : s.clocked = true) (calm : s.busy page.val = false) :
    exec (.blockDrainDone page) s = .next (s.drainEnd page.val) := congrArg Host.Outcome.next (if_pos (by simp [clocked, calm]))

theorem exec_blockResetReplyTimeout {page : PageId} {s : State} (clocked : s.clocked = true) (busy : s.busy page.val = true)
    (noCore : page.val < 0x200 ∨ 0x224 ≤ page.val) : exec (.blockResetReplyTimeout page) s = .next (s.resetFinish page.val) :=
  congrArg Host.Outcome.next (if_pos (by simp [clocked, busy, noCore]))

theorem State.drainEnd_ring {s : State} {r : RingId} (draining : s.inDrain (pgRING r.val) = true) (noDescs : (s.ring r.val).descs = [])
    (noStream : (s.ring r.val).stream = none) : s.drainEnd (pgRING r.val) = (s.setDrain (pgRING r.val) false).event (pgRING r.val) 4 := by
  obtain ⟨⟨block, _⟩, info, rfl⟩ := pageInfo_ring r
  simp only [State.drainEnd, draining, info, noDescs, noStream]
  rfl

theorem State.drainEnd_port {s : State} {n : PortId} (draining : s.inDrain (pgTPT n.val) = true) (noQueue : (s.port n.val).queue = []) :
    s.drainEnd (pgTPT n.val) = ((s.linkDown n.val).setDrain (pgTPT n.val) false).event (pgTPT n.val) 8 := by
  obtain ⟨⟨block, _⟩, info, rfl⟩ := pageInfo_port n
  simp only [State.drainEnd, draining, info, noQueue]
  rfl

/-- A page is among those that its reset takes. -/
theorem mem_resetPages (p : Nat) : p ∈ resetPages p := by
  unfold resetPages
  split
  · next h => exact List.mem_map.2 ⟨p - 0x30, List.mem_range.2 (by omega), by omega⟩
  · exact List.mem_singleton_self p

/-- What one element of a list establishes and every element keeps holds after all of them. -/
theorem State.each_establishes {α : Type} {P : State → Prop} {f : State → α → State} {x : α} (sets : ∀ t, P (f t x)) (keeps : ∀ t y, P t → P (f t y))
    {l : List α} (h : x ∈ l) (s : State) : P (s.each l f) := by
  induction l generalizing s with
  | nil => exact absurd h List.not_mem_nil
  | cons y l ih =>
    rcases List.mem_cons.1 h with rfl | h
    · exact List.foldlRecOn l f (sets s) fun t ht y _ => keeps t y ht
    · exact ih h (f s y)

/-- A page that is neither resetting nor draining. -/
def State.calmAt (p : Nat) (s : State) : Prop := s.busy p = false ∧ s.inDrain p = false

theorem State.calmAt_cleared (s : State) (p : Nat) : ((s.setBusy p false).setDrain p false).calmAt p :=
  ⟨State.busy_setBusy_same s p false, State.inDrain_setDrain_same _ _ _⟩

/-- Clearing another page leaves a page as calm as it was. -/
theorem State.calmAt_clear {s : State} {p : Nat} (q : Nat) (h : s.calmAt p) : ((s.setBusy q false).setDrain q false).calmAt p := by
  by_cases same : p = q
  · subst same; exact s.calmAt_cleared p
  · exact ⟨(State.busy_setBusy_ne s q false same).trans h.1, (State.inDrain_setDrain_ne _ _ _ same).trans h.2⟩

/-- When a reset ends, the page is neither resetting nor draining. -/
theorem State.calmAt_resetFinish (s : State) (p : Nat) : (s.resetFinish p).calmAt p := by
  rw [State.resetFinish, State.calmAt, State.ltrUpdate_busy, State.ltrUpdate_inDrain]
  exact State.each_establishes (P := State.calmAt p) (f := fun t q => (t.setBusy q false).setDrain q false)
    (fun t => t.calmAt_cleared p) (fun _ q => State.calmAt_clear q) (mem_resetPages p) _

/-- Settles O8: CTL by the state of its block, and the ends of a drain and of a reset. -/
theorem blocks : Obligations.Blocks := by
  refine ⟨fun who page s => ?_, fun page s => ?_⟩
  · intro p u h
    obtain ⟨enable, drain, abort, srst⟩ := exec_ctlWrite_served h
    rw [enable, drain, abort, srst]
    have busy : u.busy p = s.busy p := State.noted_busy _ _ _ _
    have bit (i : Nat) : u.bit (hCTL p) i = s.bit (hCTL p) i := congrArg (bitAt · i) (State.noted_reg _ _ _ _)
    obtain ⟨active, requests⟩ : u.pageActive p = s.pageActive p ∧ u.openRequests p = s.openRequests p := s.noted_work who p p
    simp only [← busy, ← bit, ← active, ← requests]
    refine ⟨fun ignored => ?_, fun calm run => ⟨fun on => ?_, fun off work => ?_, fun off idle => ?_, fun on => ?_, fun pending => ?_, fun answered => ?_⟩⟩
    · have same (v : W32) : u.ctlWrite p v = u := State.ctlWrite_ignored ignored v
      rw [same, same, same, same]
      exact ⟨rfl, rfl, rfl, rfl⟩
    · rw [(State.ctlWrite_enabled run calm on).1]
    · obtain ⟨start, stop, cut⟩ := State.ctlWrite_ending run calm off work
      rw [start, stop, cut]
      exact ⟨rfl, rfl, fun aborted => by rw [if_pos aborted], fun drained => by rw [if_neg (Bool.eq_false_iff.1 drained)]⟩
    · obtain ⟨start, stop, cut⟩ := State.ctlWrite_stopped run calm off idle
      rw [start, stop, cut]
      refine ⟨rfl, rfl, rfl, fun noPort => ⟨_, rfl, ?_⟩⟩
      simp only [State.told_bit]
      exact State.blockStart_bits run noPort
    · obtain ⟨-, stop, cut⟩ := State.ctlWrite_enabled run calm on
      rw [stop, cut]
      refine ⟨rfl, rfl, fun draining => ⟨_, rfl, ?_⟩⟩
      simp only [State.told_bit, State.told_inDrain]
      exact u.blockStop_drains draining
    · rw [State.ctlWrite_srst run calm, if_pos pending]
    · rw [State.ctlWrite_srst run calm, if_neg (Bool.eq_false_iff.1 answered)]
  · intro p clocked
    refine ⟨fun r ring calm draining noDescs noStream => ?_, fun n port calm draining noQueue => ?_, fun busy noCore => ?_⟩
    · rw [exec_blockDrainDone clocked calm]
      rw [ring] at draining ⊢
      rw [show page.val = pgRING r.val from ring, State.drainEnd_ring draining noDescs noStream]
    · rw [exec_blockDrainDone clocked calm]
      rw [port] at draining ⊢
      rw [show page.val = pgTPT n.val from port, State.drainEnd_port draining noQueue]
    · exact ⟨_, exec_blockResetReplyTimeout clocked busy noCore, s.calmAt_resetFinish p⟩

end Sys2Proof.Machine
end

section
/-! The next job of a ring, and SESSION_OPEN and SESSION_CLOSE (R75, R76, R248, R254, R255, R275; log entry 80). -/

namespace Sys2Proof.Machine

/-- A job that is due, and that its command picks, is carried out on the state after its fetch. -/
theorem State.withJob_due {s : State} {r typ : Nat} {b : List Byte} (due : s.jobDue r typ b) {pick : List Byte → Bool} (picked : pick b = true)
    (f : State → JobRef → List Byte → State) : s.withJob r typ pick f = f (s.jobTaken r b) (jobRefOf r b) b := by
  obtain ⟨next, rfl, passed⟩ := due
  simp only [State.withJob, next, picked, passed, State.jobTaken, true_and, and_self, if_true]
  rfl

/-! Placement (R76) gives a session its cores; what its opening has set stays. -/

/-- What SESSION_OPEN sets in a session before it is placed. -/
def Sess.terms (x : Sess) : SessPhase × List Byte × Nat := (x.phase, x.desc, x.fn)

/-- A placement that succeeds leaves the terms of session `n` as they are. -/
structure State.Places (s : State) (n : Nat) (o : Option State) : Prop where
  terms : ∀ t, o = some t → (t.sess n).terms = (s.sess n).terms

theorem State.places_none (s : State) (n : Nat) : s.Places n none := ⟨fun t e => (Option.some_ne_none t e.symm).elim⟩

theorem State.places_some {s t : State} {n : Nat} (h : (t.sess n).terms = (s.sess n).terms) : s.Places n (some t) :=
  ⟨fun _ e => Option.some.inj e ▸ h⟩

theorem State.Places.ite {s : State} {n : Nat} {c : Prop} [Decidable c] {o o' : Option State} (h : s.Places n o) (h' : s.Places n o') :
    s.Places n (if c then o else o') := by split <;> assumption

theorem State.Places.of_terms {s t : State} {n : Nat} {o : Option State} (k : t.Places n o) (h : (t.sess n).terms = (s.sess n).terms) : s.Places n o :=
  ⟨fun u e => (k.terms u e).trans h⟩

theorem State.Places.bind {s : State} {n : Nat} {o : Option State} {f : State → Option State} (h : s.Places n o) (k : ∀ t : State, t.Places n (f t)) :
    s.Places n (o.bind f) := by
  refine ⟨fun u e => ?_⟩
  obtain ⟨t, placed, next⟩ := Option.bind_eq_some_iff.1 e
  exact ((k t).terms u next).trans (h.terms t placed)

theorem State.places_findSome {α : Type} {s : State} {n : Nat} {f : α → Option State} (h : ∀ x, s.Places n (f x)) (l : List α) :
    s.Places n (l.findSome? f) := by
  refine ⟨fun t e => ?_⟩
  obtain ⟨x, -, found⟩ := List.exists_of_findSome?_eq_some e
  exact (h x).terms t found

theorem State.terms_setSess {s : State} {n : Nat} {x : Sess} (h : x.terms = (s.sess n).terms) : ((s.setSess n x).sess n).terms = (s.sess n).terms := by
  rw [State.sess_setSess_same, h]

theorem State.places_giveShares (s : State) (n h p units k : Nat) : s.Places n (s.giveShares n h p units k) := by
  induction k generalizing s with
  | zero => exact State.places_some rfl
  | succ k ih =>
    simp only [State.giveShares]
    split
    · exact s.places_none n
    · exact (ih _).of_terms (State.terms_setSess rfl)

/-- A pinned placement in one hedge gives `cores` shares, if that number is possible. -/
theorem State.tryPinned_eq (s : State) (n h cost l srcH : Nat) :
    ∃ cores units, s.tryPinned n h cost l srcH = if cores = 0 ∨ 8 < cores then none
      else (s.setSess n { s.sess n with n := cores }).giveShares n h (persOf (mainStream (s.sess n).desc).codec false) units cores :=
  ⟨_, _, rfl⟩

theorem State.places_tryPinned (s : State) (n h cost l srcH : Nat) : s.Places n (s.tryPinned n h cost l srcH) := by
  obtain ⟨_, _, e⟩ := s.tryPinned_eq n h cost l srcH
  rw [e]
  exact .ite (s.places_none n) ((State.places_giveShares ..).of_terms (State.terms_setSess rfl))

theorem State.terms_addPart (s : State) (n : Nat) (dec : Bool) (x : Nat × Nat × Nat) : ((s.addPart n dec x).sess n).terms = (s.sess n).terms := by
  cases dec <;> exact State.terms_setSess rfl

theorem State.places_tryPooled (s : State) (n h : Nat) (dec : Bool) (p l w : Nat) : s.Places n (s.tryPooled n h dec p l w) :=
  .ite (State.places_some (s.terms_addPart ..)) (s.places_none n)

/-- Parts are placed one after another, until one fails. -/
theorem State.places_foldl {α : Type} {s : State} {n : Nat} {f : Option State → α → Option State} (h : ∀ o x, s.Places n o → s.Places n (f o x))
    (l : List α) {o : Option State} (start : s.Places n o) : s.Places n (l.foldl f o) := by
  induction l generalizing o with
  | nil => exact start
  | cons x l ih => exact ih (h o x start)

theorem State.places_trySplit (s : State) (n : Nat) (dec : Bool) (st : Stream) (cost cols : Nat) (hs : List Nat) :
    s.Places n (s.trySplit n dec st cost cols hs) := by
  refine State.places_foldl (fun o x before => ?_) _ (State.places_some rfl)
  cases o with
  | none => exact s.places_none n
  | some t => exact .ite (s.places_none n) ((t.places_tryPooled ..).of_terms (before.terms t rfl))

theorem State.places_placeSplit (s : State) (n : Nat) (dec : Bool) (st : Stream) (cost limit cols : Nat) :
    s.Places n (s.placeSplit n dec st cost limit cols) :=
  State.places_findSome (fun _ => .ite (s.places_trySplit ..) (s.places_none n)) _

theorem State.places_placeDec (s : State) (n : Nat) (order : List Nat) : s.Places n (s.placeDec n order) := by
  simp only [State.placeDec]
  split
  · next t found => exact found ▸ State.places_findSome (fun _ => s.places_tryPooled ..) _
  · exact .ite (s.places_placeSplit ..) (s.places_none n)

theorem State.places_placeEnc (s : State) (n : Nat) (inherit : Bool) (srcH w : Nat) (order : List Nat) :
    s.Places n (s.placeEnc n inherit srcH w order) := by
  simp only [State.placeEnc]
  refine .ite (State.places_findSome (fun _ => s.places_tryPinned ..) _) ?_
  split
  · next t found => exact found ▸ State.places_findSome (fun _ => s.places_tryPooled ..) _
  · exact s.places_placeSplit ..

theorem State.places_place (s : State) (n : Nat) (inherit : Bool) (srcH w : Nat) (first : Option Nat) : s.Places n (s.place n inherit srcH w first) := by
  simp only [State.place]
  split
  · exact s.places_placeEnc ..
  · exact s.places_placeDec ..
  · have both (order : List Nat) (after : State → List Nat) :
        s.Places n ((s.placeDec n order).bind fun t => t.placeEnc n inherit srcH w (after t)) :=
      .bind (s.places_placeDec ..) fun t => t.places_placeEnc ..
    split
    · next t found => exact found ▸ State.places_findSome (fun h => both [h] fun _ => [h]) _
    · exact both _ _

/-- A descriptor that passes opens the session, with it and for the function. -/
theorem State.openCheck_passed {s t : State} {n k : Nat} {d : List Byte} (passed : s.openCheck n k d = .inl t) :
    (t.sess n).phase = .opened ∧ (t.sess n).desc = d ∧ (t.sess n).fn = k := by
  simp only [State.openCheck] at passed
  split at passed
  · cases passed
  split at passed
  · cases passed
  split at passed
  · cases passed
  split at passed
  · cases passed
  split at passed
  · cases passed
  split at passed
  · next placed =>
    obtain rfl := Sum.inl.inj passed
    have terms := (State.places_place ..).terms _ placed
    rw [State.sess_setSess_same] at terms
    simpa only [Sess.terms, Prod.mk.injEq] using terms
  · cases passed

/-! The close (R255; log entry 80). -/

/-- Where a closing session has nothing left, no picture is held back for its output order. -/
theorem State.decFlush_ready {s : State} {n : Nat} (ready : (s.sess n).closeReady = true) : s.decFlush n = s := by
  simp only [Sess.closeReady, Bool.and_eq_true, beq_iff_eq, List.all_eq_true, Bool.not_eq_true'] at ready
  obtain ⟨⟨⟨closing, -⟩, units⟩, idle⟩ := ready
  have none : (s.sess n).dec.filter (fun p => p.closed && p.whole) = [] :=
    List.filter_eq_nil_iff.2 fun p hp => by simp [(idle p hp).1]
  have retires : s.decsRetire n = s := by
    rw [State.decsRetire]
    cases held : (s.sess n).dec with
    | nil => rfl
    | cons p ps =>
      have here : p.through = false := by simp [DecPic.through, (idle p (held ▸ List.mem_cons_self)).1]
      simp [State.decRetire, held, here]
  simpa [State.decFlush, closing, units, none, sortBy, State.each] using retires

/-- Settles O18: each command on the job's fetch, by the result of the descriptor's read and of its checks. -/
theorem sessionJobs : Obligations.SessionJobs := by
  refine ⟨?_, fun r b s due => ⟨fun finish => ?_, fun abort => ?_⟩, fun n s clocked ready => ?_⟩
  · intro r b s due here j u x u1
    have e : exec (.sessionOpen r) s = .next (if x.1 ≠ 0 then u1.finishJob j 0 (u1.openBody j.sess false 0xFFFF) x.1
        else match u1.openCheck j.sess (u1.owner r.val) x.2 with
          | .inr e => u1.finishJob j 0 (u1.openBody j.sess false e.2) e.1
          | .inl t => (t.openDone j.sess).finishJob j 0 ((t.openDone j.sess).openBody j.sess true 0xFFFF) 0) :=
      congrArg Host.Outcome.next (State.withJob_due due (by simp [here]) _)
    refine ⟨fun failed => ?_, fun code field read refused => ?_, fun t read passed => ⟨?_, State.openCheck_passed passed⟩⟩
    · rw [e, if_pos failed]
    · rw [e, if_neg (not_not.2 read), refused]
    · rw [e, if_neg (not_not.2 read), passed]
  · exact ⟨_, congrArg Host.Outcome.next (State.withJob_due due (by simp [finish]) _),
      congrArg Sess.phase (State.sess_setSess_same ..), congrArg Sess.closeJob (State.sess_setSess_same ..)⟩
  · exact congrArg Host.Outcome.next (State.withJob_due due (by simp [abort]) _)
  · show execSessionCloseComplete n s = _
    simp [execSessionCloseComplete, clocked, State.decFlush_ready ready, ready]

end Sys2Proof.Machine
end

section
/-! Cores take, run and end slice jobs (R77 to R84, R149, R150; log entry 10). -/

namespace Sys2Proof.Machine

/-- Settles O25: each command by the state's own choice, of a candidate, of a strip's job, or of the paused job's core. -/
theorem coresRunJobs : Obligations.CoresRunJobs := by
  intro c s clocked
  refine ⟨fun x free first held => ?_, fun j free strip => ?_, fun n i k p j _ _ _ _ => ⟨fun hb cs fs _ _ _ => ?_, fun _ _ => ?_⟩, ?_⟩
  · refine congrArg Host.Outcome.next ?_
    rw [State.dispatch, first]
    simp [free, held]
  · have e : exec (.stripStart c) s = .next (s.setCore c.val { s.core c.val with strip := some j }) := by
      refine congrArg Host.Outcome.next ?_
      rw [if_pos free, strip]
    exact ⟨_, e, congrArg Core.strip (State.core_setCore_same ..), rfl, rfl⟩
  · exact congrArg Host.Outcome.next (if_pos clocked)
  · exact congrArg Host.Outcome.next (if_pos clocked)
  · intro n pic job p j k encodes found paused rows sides u pers chosen
    refine congrArg Host.Outcome.next ?_
    rw [if_neg (by omega), found]
    simp only [clocked, paused, rows, sides]
    rw [if_pos (by rfl), chosen]

end Sys2Proof.Machine
end

section
/-! A hedge's registers (R80, R88, R89, R93, R94, R99; log entry 101), and what it does on its own (R65, R86; log entries 66, 67, 99, 100). -/

namespace Sys2Proof.Machine

theorem State.f_setReg_ne (s : State) {a a' : Nat} (v : W32) (hi lo : Nat) (h : a' ≠ a) : (s.setReg a v).f a' hi lo = s.f a' hi lo := by
  rw [State.f, State.reg_setReg_ne _ _ h, State.f]

/-- HDG_ROLES holds the role that a slot was given. -/
theorem fld_setFld_role (w : W32) {slot v : Nat} (hs : slot < 9) (hv : v < 4) :
    fld (setFld w (2 * slot + 1) (2 * slot) v) (2 * slot + 1) (2 * slot) = v := by
  have width : 2 * slot + 1 + 1 - 2 * slot = 2 := by omega
  rw [fld_setFld_same _ _ _ _ (by omega), width]
  exact Nat.mod_eq_of_lt hv

/-! A served write. -/

/-- What a served access notes leaves the banks of every sequencer. -/
theorem State.noted_banks (s : State) (who : Who) (p c : Nat) :
    ((s.noted who p).seq c).bankA = (s.seq c).bankA ∧ ((s.noted who p).seq c).bankB = (s.seq c).bankB := by
  have latch (q e : Nat) : ((s.latch q e).seq c).bankA = (s.seq c).bankA ∧ ((s.latch q e).seq c).bankB = (s.seq c).bankB := by
    by_cases h : c = q
    · subst h; simp [State.latch]
    · simp [State.latch, State.seq_setSeq_ne _ _ _ h]
  cases who with
  | pcie k =>
    simp only [State.noted, State.regLatch]
    split_ifs
    · exact latch _ _
    · exact latch _ _
    · exact ⟨rfl, rfl⟩
  | agent a => exact ⟨rfl, rfl⟩

/-- The banks are all that a refused performance point turns on in a sequencer, so it is refused after an access where it was before. -/
theorem State.dvfsRefused_noted (s : State) (who : Who) (p h point : Nat) : (s.noted who p).dvfsRefused h point = s.dvfsRefused h point := by
  have needed : (s.noted who p).neededPers = s.neededPers := by
    funext c
    obtain ⟨bankA, bankB⟩ := s.noted_banks who p c
    simp only [State.neededPers, bankA, bankB, State.pooledPers, State.pinnedPers, State.noted_sessions]
  obtain ⟨_, e⟩ := s.noted_eq who p
  simp only [State.dvfsRefused, needed]
  rw [e]
  rfl

theorem State.role_noted (s : State) (who : Who) (p h slot : Nat) : (s.noted who p).role h slot = s.role h slot :=
  congrArg (fld · _ _) (s.noted_reg who p _)

theorem State.spareOf_noted (s : State) (who : Who) (p h : Nat) : (s.noted who p).spareOf h = s.spareOf h := by
  obtain ⟨_, e⟩ := s.noted_eq who p
  rw [e]
  rfl

section
variable {s : State} {who : Who} {hd : HedgeId} (served : s.served who (pgHDG hd.val) = true) (v : W32)
include served

/-- The three writes that a promotion holds back. -/
theorem exec_hdgWrite_served :
    exec (.hdgDvfsWrite who hd v) s = .next (((s.noted who (pgHDG hd.val)).hdgWrite hd.val 0x50 v).told who) ∧
      exec (.hdgPromote who hd v) s = .next (((s.noted who (pgHDG hd.val)).hdgWrite hd.val 0x54 v).told who) ∧
      exec (.hdgSpare who hd v) s = .next (((s.noted who (pgHDG hd.val)).hdgWrite hd.val 0x58 v).told who) :=
  ⟨congrArg Host.Outcome.next (State.access_served served _), congrArg Host.Outcome.next (State.access_served served _),
    congrArg Host.Outcome.next (State.access_served served _)⟩

theorem exec_bistStart_served (slot : Fin 16) :
    exec (.bistStart who hd slot) s = .next (((s.noted who (pgHDG hd.val)).bistWrite hd.val (BitVec.ofNat 32 (0x100 ||| slot.val))).told who) :=
  congrArg Host.Outcome.next (State.access_served served _)

theorem exec_hdgPersPinWrite_served :
    exec (.hdgPersPinWrite who hd v) s = .next (((s.noted who (pgHDG hd.val)).persPinWrite hd.val v).told who) :=
  congrArg Host.Outcome.next (State.access_served served _)

end

/-- During a promotion a write waits behind the others. -/
theorem State.hdgWrite_waits {s : State} {h : Nat} (promo : (s.hedge h).promo ≠ none) (off : Nat) (v : W32) :
    s.hdgWrite h off v = s.setHedge h { s.hedge h with deferred := (s.hedge h).deferred ++ [(off, v)] } :=
  if_pos (Option.isSome_iff_ne_none.2 promo)

/-- Without one the three writes act at once. -/
theorem State.hdgWrite_acts {s : State} {h : Nat} (promo : (s.hedge h).promo = none) (v : W32) :
    s.hdgWrite h 0x50 v = s.dvfsWrite h v ∧ s.hdgWrite h 0x54 v = s.promoteWrite h v ∧ s.hdgWrite h 0x58 v = s.spareWrite h v := by
  simp [State.hdgWrite, State.hdgLate, promo]

/-! Self-tests. -/

/-- A write of HDG_BIST with START names the slot and starts its test. -/
theorem State.bistWrite_start (s : State) (h : Nat) (slot : Fin 16) :
    s.bistWrite h (BitVec.ofNat 32 (0x100 ||| slot.val)) = (s.setF (HDG_BIST h) 3 0 slot.val).bistBegin h := by
  have word : fld (BitVec.ofNat 32 (0x100 ||| slot.val)) 3 0 = slot.val ∧ bitAt (BitVec.ofNat 32 (0x100 ||| slot.val)) 8 = true := by
    revert slot; decide
  simp only [State.bistWrite, word, if_true]

/-- The self-test of a slot that is out of service starts where none runs. -/
theorem State.bistBegin_spec {s : State} {h slot : Nat} (named : s.f (HDG_BIST h) 3 0 = slot) (low : slot < 9) (out : 2 ≤ s.role h slot)
    (idle : (s.hedge h).bist = none) :
    ((s.bistBegin h).hedge h).bist = some slot ∧ (s.bistBegin h).bit (HDG_BIST h) 8 = true ∧ (s.bistBegin h).f (HDG_BIST h) 3 0 = slot := by
  subst named
  have slot9 : fld (s.reg (HDG_BIST h)) 3 0 < 9 := low
  have role2 : 2 ≤ s.role h (fld (s.reg (HDG_BIST h)) 3 0) := out
  simp [State.bistBegin, State.bit, State.f, slot9, role2, idle, fld_setBit_ne]

/-- A self-test ends with its verdict in the slot's role and in HDG_BIST. -/
theorem State.bistEnd_spec {s : State} {h slot : Nat} (low : slot < 9) (runs : (s.hedge h).bist = some slot) (pass : Bool) :
    let t := s.bistEnd h pass
    (t.hedge h).bist = none ∧ (t.core (9 * h + slot)).test = some pass ∧ t.role h slot = (if pass then 2 else 3) ∧
      t.bit (HDG_BIST h) 8 = false ∧ t.bit (HDG_BIST h) 9 = pass ∧ t.bit (HDG_BIST h) 10 = true ∧ t.bit (hEVT (pgHDG h)) 5 = true := by
  have apart : HDG_BIST h ≠ hEVT (pgHDG h) ∧ HDG_ROLES h ≠ HDG_BIST h ∧ HDG_ROLES h ≠ hEVT (pgHDG h) := by
    simp only [HDG_BIST, HDG_ROLES, hEVT, pgHDG]; omega
  obtain ⟨bistEvt, rolesBist, rolesEvt⟩ := apart
  have verdict : (if pass then 2 else 3) < 4 := by cases pass <;> decide
  simp [State.bistEnd, runs, State.bit, State.role, State.f, State.setRole, State.reg_setReg_ne _ _ bistEvt, State.reg_setReg_ne _ _ rolesBist,
    State.reg_setReg_ne _ _ rolesEvt, fld_setFld_role _ low verdict]

/-! Promotions. -/

theorem State.remotes_hedge (s : State) (l : List Remote) (h : Nat) : ({ s with remotes := l } : State).hedge h = s.hedge h := rfl

/-- A promotion without a job learns that the replies are in: the failed core waits for none, and no register changes. -/
theorem State.promoReplies_spec {s : State} {h : Nat} {p : Promo} (promo : (s.hedge h).promo = some p) (owed : p.repliesDone = false)
    (idle : p.job = none) :
    ((s.promoReplies h).hedge h).promo = some { p with repliesDone := true } ∧ ((s.promoReplies h).seq p.failed).busWait = false ∧
      (s.promoReplies h).regs = s.regs := by
  simp only [State.promoReplies, promo, owed, idle, Bool.false_eq_true, if_false]
  refine ⟨?_, ?_, rfl⟩
  · rw [State.setSeq_hedge, State.remotes_hedge, State.hedge_setHedge_same]
  · rw [State.seq_setSeq_same]

/-- The host's promotion of an idle active core. -/
theorem State.hostTakeover_takes {s : State} {h c k : Nat} (asked : (s.hedge h).hostPromote = some c) (spare : s.spareOf h = some k)
    (idle : (s.core c).job = none) (calm : (s.hedge h).promo = none) (active : s.coreRole c = 0) :
    s.hostTakeover h = (((((s.setHedge h { s.hedge h with hostPromote := none }).setRole h (k % 9) 0).setDomain k true).setRole h (c % 9) 2).takePlace
      c k).coreLeaves c (some k) true false := by
  simp only [State.hostTakeover, asked, spare, idle, calm]
  rw [if_neg (by simp)]
  exact if_neg (not_not.2 active)

/-- Settles O27: the three writes wait or act, and the self-test and the pins act at once. -/
theorem hedgeRegisters : Obligations.HedgeRegisters := by
  intro who hd v s h u served
  have hedge : u.hedge h = s.hedge h := State.noted_hedge ..
  obtain ⟨dvfs, promote, spare⟩ := exec_hdgWrite_served served v
  refine ⟨fun promo => ?_, fun calm => ?_, fun slot low out idle => ?_, fun few => ?_⟩
  · have waits (off : Nat) := State.hdgWrite_waits (s := u) (hedge.symm ▸ promo) off v
    have queued (off : Nat) : (((u.hdgWrite h off v).told who).hedge h).deferred = (s.hedge h).deferred ++ [(off, v)] ∧
        ((u.hdgWrite h off v).told who).regs = s.regs := by
      rw [waits, State.told_hedge, State.hedge_setHedge_same, hedge, State.told_regs]
      exact ⟨rfl, State.noted_regs ..⟩
    exact ⟨⟨_, dvfs, queued _⟩, ⟨_, promote, queued _⟩, ⟨_, spare, queued _⟩⟩
  · obtain ⟨dvfsActs, promoteActs, spareActs⟩ := State.hdgWrite_acts (hedge.symm ▸ calm : (u.hedge h).promo = none) v
    have refusal := s.dvfsRefused_noted who (pgHDG h) h (min (fld v 2 0) 5)
    have role : u.role h (fld v 3 0) = s.role h (fld v 3 0) := State.role_noted ..
    have standby : u.spareOf h = s.spareOf h := State.spareOf_noted ..
    rw [dvfs, promote, spare, dvfsActs, promoteActs, spareActs]
    refine ⟨fun refused => ?_, fun unkeyed => ?_, fun granted => ?_, fun key low active spared => ?_, fun key low failed passed untested none => ?_⟩
    · rw [State.dvfsWrite, if_pos (refusal.trans refused)]
    · rw [State.promoteWrite, State.spareWrite, if_neg (fun k => unkeyed k.1), if_pos unkeyed]
      exact ⟨rfl, rfl⟩
    · rw [State.dvfsWrite, if_neg (by rw [refusal, granted]; decide)]
    · rw [State.promoteWrite, if_pos ⟨key, low, role.trans active, standby ▸ spared, by rw [hedge, calm]; rfl⟩]
      exact ⟨_, rfl, by rw [State.told_hedge, State.hedge_setHedge_same], (State.told_regs ..).trans (State.noted_regs ..)⟩
    · rw [State.spareWrite, if_neg (not_not.2 key),
        if_pos ⟨low, role.trans failed, by rw [State.noted_core]; exact passed, hedge.symm ▸ untested, standby.trans none⟩]
  · have started := State.bistBegin_spec (s := u.setF (HDG_BIST h) 3 0 slot.val) (h := h) (slot := slot.val)
      ((State.f_setF_same _ _ _ _ (by decide)).trans (Nat.mod_eq_of_lt slot.isLt)) low
      (out.trans_eq ((State.role_noted ..).symm.trans (State.f_setReg_ne _ _ _ _ (by simp [HDG_ROLES, HDG_BIST])).symm))
      (by rw [State.setF, State.setReg_hedge, hedge, idle])
    refine ⟨_, exec_bistStart_served served slot, ?_⟩
    rw [State.bistWrite_start, State.told_hedge, State.told_bit, State.told_f]
    exact started
  · rw [exec_hdgPersPinWrite_served served, State.persPinWrite, if_neg (Nat.not_lt.2 few)]

/-- Settles O28: what each step of a hedge does where its condition holds. -/
theorem hedgeEvents : Obligations.HedgeEvents := by
  intro hd s h clocked
  refine ⟨fun slot pass low runs => ?_, fun p promo owed idle => ?_, congrArg Host.Outcome.next (if_pos clocked), fun free => ?_,
    fun c k asked spare idle calm active => ?_⟩
  · exact ⟨_, congrArg Host.Outcome.next (if_pos clocked), State.bistEnd_spec low runs pass⟩
  · exact ⟨_, congrArg Host.Outcome.next (if_pos clocked), State.promoReplies_spec promo owed idle⟩
  · refine congrArg Host.Outcome.next ((if_pos clocked).trans ?_)
    rw [State.dvfsTake, if_neg (by rw [free]; simp)]
  · exact congrArg Host.Outcome.next ((if_pos clocked).trans (State.hostTakeover_takes asked spare idle calm active))

end Sys2Proof.Machine
end

section
/-! Slice queues, their consumers and output rings (R161, R163 to R165, R298; log entries 59, 68). -/

namespace Sys2Proof.Machine

/-- A swap takes place where the consumer's bank is empty and the producer's holds words (R163). -/
theorem State.bankSwap_ready {s : State} {c : Nat} (drained : (s.core c).cons = []) (filled : (s.core c).prod ≠ []) :
    s.bankSwap c = (((s.setCore c { s.core c with cons := (s.core c).prod, prod := [], credits := 1024 }).latch c 4).drainBank c 1024).payOwed c :=
  if_pos (by simp [drained, filled])

/-- A trailer acts on a staged slice whose turn has come before it looks at a ring (R164). -/
theorem exec_sliceTrailer_staged {c : CoreId} {ws : List SqWord} {s : State} (clocked : s.clocked = true) (staged : s.stagedNext c.val = some ws) :
    exec (.sliceTrailer c) s = .next (s.stagedAct c.val ws) := by
  show execSliceTrailer c s = _
  simp [execSliceTrailer, clocked, staged]

/-- Without such a slice the ring that the bank belongs to begins its slice, ends it where it is whole, and lets the parts behind it go. -/
theorem exec_sliceTrailer_ring {c : CoreId} {r : Nat} {s : State} (clocked : s.clocked = true) (unstaged : s.stagedNext c.val = none)
    (bank : s.bankRing c.val = some r) :
    exec (.sliceTrailer c) s = .next (((s.streamStart r).streamFinish r).espFlush ((s.streamStart r).streamSess r)) := by
  show execSliceTrailer c s = _
  simp [execSliceTrailer, clocked, unstaged, bank]

/-- Settles O26: a ready pair of banks swaps on either occasion, a trailer acts on staging first and else on its ring, and a ring starts and ends its slices. -/
theorem sliceQueues : Obligations.SliceQueues := by
  refine ⟨fun c s clocked drained filled => ?_, fun c ws s clocked staged => exec_sliceTrailer_staged clocked staged,
    fun c r s clocked unstaged bank => exec_sliceTrailer_ring clocked unstaged bank, fun r s clocked => ⟨?_, ?_⟩⟩
  · have swaps := State.bankSwap_ready drained filled
    refine ⟨congrArg Host.Outcome.next ((if_pos clocked).trans swaps), fun due => congrArg Host.Outcome.next ((if_pos ?_).trans swaps)⟩
    rwa [clocked, Bool.true_and, Bool.or_eq_true, beq_iff_eq]
  · exact congrArg Host.Outcome.next (if_pos clocked)
  · exact congrArg Host.Outcome.next (if_pos clocked)

end Sys2Proof.Machine
end

section
/-! DECODE_UNIT and the pictures of a decode session (R182, R183, R186, R190, R258): a read of HBM leaves every session, a refused job completes with the code of its check, and a picture's command does its work where its condition holds. -/

namespace Sys2Proof.Machine

/-! The sessions after a read of HBM (R364, R365, R525, R539): its corrections and the faults they raise leave them. -/

@[simp] theorem State.latch_sess (s : State) (q e n : Nat) : (s.latch q e).sess n = s.sess n := rfl
@[simp] theorem State.event_sess (s : State) (p b n : Nat) : (s.event p b).sess n = s.sess n := rfl
@[simp] theorem State.satF_sess (s : State) (a hi lo k n : Nat) : (s.satF a hi lo k).sess n = s.sess n := s.setReg_sess _ _ n
@[simp] theorem State.setPair_sess (s : State) (lo hi v n : Nat) : (s.setPair lo hi v).sess n = s.sess n := rfl
@[simp] theorem State.poison_sess (s : State) (x : Tab Bool) (n : Nat) : ({ s with poison := x } : State).sess n = s.sess n := rfl
@[simp] theorem State.histTotal_sess (s : State) (k n : Nat) : ({ s with histTotal := k } : State).sess n = s.sess n := rfl

theorem State.whenB_sess {s : State} {n : Nat} (c : Bool) {f : State → State} (hf : ∀ t, (f t).sess n = t.sess n) : (s.whenB c f).sess n = s.sess n := by
  cases c
  · rfl
  · exact hf s

@[simp] theorem State.pinPulse_sess (s : State) (n : Nat) : s.pinPulse.sess n = s.sess n := by
  unfold State.pinPulse
  split <;> rfl

@[simp] theorem State.histWrite_sess (s : State) (src agent code : Nat) (detail : W32) (n : Nat) : (s.histWrite src agent code detail).sess n = s.sess n := by
  simp only [State.histWrite, State.histTotal_sess, State.setReg_sess]
  exact State.whenB_sess _ fun t => by rw [State.event_sess, State.satF_sess]

@[simp] theorem State.syndrome_sess (s : State) (src agent code n : Nat) : (s.syndrome src agent code).sess n = s.sess n := by
  unfold State.syndrome
  split
  · rfl
  · split <;> rfl

@[simp] theorem State.askReset_sess (s : State) (cause n : Nat) : (s.askReset cause).sess n = s.sess n := by
  unfold State.askReset
  split_ifs <;> rfl

@[simp] theorem State.rAction_sess (s : State) (src n : Nat) : (s.rAction src).sess n = s.sess n := by
  unfold State.rAction
  split_ifs
  · exact s.askReset_sess 5 n
  · split
    · split
      · rfl
      · exact State.each_keeps (State.sess · n) (fun t p => t.setBusy_sess p true n) _ s
    · rfl
  · rfl

@[simp] theorem State.noteFault_sess (s : State) (src agent code : Nat) (detail : W32) (n : Nat) :
    (s.noteFault src agent code detail).sess n = s.sess n := by
  unfold State.noteFault
  split
  · rfl
  · extract_lets counted act marked latched logged noted pended pulsed
    have hmarked : marked.sess n = s.sess n := State.whenB_sess (s := counted) _ fun t => by split <;> rfl
    split
    · exact hmarked
    · calc (pulsed.rAction src).sess n
        _ = pulsed.sess n := State.rAction_sess _ _ _
        _ = pended.sess n := State.whenB_sess _ fun t => t.pinPulse_sess n
        _ = noted.sess n := State.whenB_sess _ fun _ => rfl
        _ = logged.sess n := State.syndrome_sess _ _ _ _ _
        _ = marked.sess n := State.whenB_sess _ fun t => t.histWrite_sess src agent code detail n
        _ = s.sess n := hmarked

@[simp] theorem State.corrected_sess (s : State) (k n : Nat) : (s.corrected k).sess n = s.sess n := by
  rw [State.corrected, State.noteFault_sess, State.event_sess, State.satF_sess]

@[simp] theorem State.uncorrectable_sess (s : State) (k n : Nat) : (s.uncorrectable k).sess n = s.sess n := by
  unfold State.uncorrectable
  extract_lets l i tagged counted size logged
  have hcounted : counted.sess n = s.sess n := by
    rw [show counted.sess n = _ from State.event_sess _ _ _ _, State.satF_sess]
    exact s.poison_sess _ n
  have hlogged : logged.sess n = counted.sess n := State.whenB_sess _ fun t => by
    extract_lets placed located
    rw [State.setReg_sess, show located.sess n = _ from State.setReg_sess _ _ _ _, show placed.sess n = _ from State.setPair_sess _ _ _ _ _]
  rw [State.noteFault_sess, hlogged, hcounted]

@[simp] theorem State.injectSpent_sess (s : State) (n : Nat) : s.injectSpent.sess n = s.sess n := by
  rw [State.injectSpent, State.setB_eq, State.setReg_sess, State.setB_eq, State.setReg_sess]
  rfl

@[simp] theorem State.injectFire_sess (s : State) (pred : Nat → Bool) (n : Nat) : (s.injectFire pred).sess n = s.sess n := by
  unfold State.injectFire
  split
  · split_ifs
    · exact (State.corrected_sess _ _ _).trans (s.injectSpent_sess n)
    · exact (State.uncorrectable_sess _ _ _).trans (s.injectSpent_sess n)
    · rfl
  · rfl

@[simp] theorem State.countHbm_sess (s : State) (lo hi : Nat → Nat) (a len n : Nat) : (s.countHbm lo hi a len).sess n = s.sess n :=
  State.each_keeps (State.sess · n) (fun t i => by dsimp only; split_ifs <;> rfl) _ s

@[simp] theorem State.hbmRead_sess (s : State) (a len n : Nat) : (s.hbmRead a len).sess n = s.sess n :=
  (State.countHbm_sess _ _ _ _ _ _).trans (s.injectFire_sess _ n)

/-! DECODE_UNIT. -/

/-- A job that its command picks, and that fails a check of R248, is fetched and completes with that check's code. -/
theorem State.withJob_refused {s : State} {r typ : Nat} {b : List Byte} (next : s.nextJob r = some b) (typed : leAt b 0 1 = typ) {pick : List Byte → Bool}
    (picked : pick b = true) (failed : s.jobCheck r b ≠ 0) (f : State → JobRef → List Byte → State) :
    s.withJob r typ pick f = (s.takeJob r (jobRefOf r b)).finishJob (jobRefOf r b) 0 [] (s.jobCheck r b) := by
  simp [State.withJob, next, typed, picked, failed]

/-- A unit that reaches beyond its buffer fails the check of its format. -/
theorem State.jobCheck_unitOutside {s : State} {b : List Byte} (r : Nat) (unit : leAt b 0 1 = 4)
    (outside : s.poolSize (hPool (BitVec.ofNat 32 (leAt b 0x10 4))) < leAt b 0x14 4 + leAt b 0x18 4) : s.jobCheck r b = 0x21 :=
  if_pos (by simp [unit, outside])

/-! The pictures of a decode session. -/

/-- The slice of the oldest unit that is left after the gaps before it is taken in once it waits for no reference and its picture has room. -/
theorem exec_decodeJobReady_slice {n : SessId} {si : SliceInfo} {s : State} {u : DecUnit} {us : List DecUnit} (clocked : s.clocked = true) :
    let w := s.lossUnits n.val (s.sess n.val).units.length
    let x := w.sess n.val
    w.clocked = true → x.units = u :: us → x.phase = .opened → hasDec x.desc = true → w.hedgeOff n.val = false →
    (∀ i ∈ si.list0 ++ si.list1, x.refState i ≠ .partly) → (si.newPicture = true → x.refRoom = true) →
    exec (.decodeJobReady n si) s = .next (if si.lastOfUnit then (w.sliceIn n.val si u).unitPop n.val else w.sliceIn n.val si u) := by
  intro w x running oldest opened decodes on refs room
  have there : ((si.list0 ++ si.list1).all fun i => x.refState i != .partly) = true := List.all_eq_true.2 fun i hi => bne_iff_ne.2 (refs i hi)
  have fits : (!si.newPicture || x.refRoom) = true := by cases new : si.newPicture <;> simp [room, new]
  have ready : (w.clocked && x.phase == .opened && hasDec x.desc && !w.hedgeOff n.val &&
      (si.list0 ++ si.list1).all (fun i => x.refState i != .partly) && (!si.newPicture || x.refRoom)) = true := by
    rw [there, fits]
    simp [running, opened, decodes, on]
  show execDecodeJobReady n si s = _
  simp only [execDecodeJobReady, if_pos clocked]
  refine congrArg Host.Outcome.next ?_
  show (match x.units with | u :: _ => _ | [] => w) = _
  rw [oldest]
  exact if_pos ready

/-- A command with the condition of an output deadline goes on where the clocks run and the session has one. -/
theorem State.deadline_goesOn {s : State} {n : SessId} (clocked : s.clocked = true) (deadline : outDelay (s.sess n.val).desc ≠ 0) :
    ¬ (!s.clocked || decide (outDelay (s.sess n.val).desc = 0)) = true := by
  simp [clocked, deadline]

/-- Settles O29: a unit by its checks and its hedges, the read of its bytes leaving the session; a slice by the gaps before it; a concealment by the picture's range; a deadline by the picture that missed it. -/
theorem decoding : Obligations.Decoding := by
  refine ⟨fun r b s next unit outside => ?_, fun r b s due => ?_, fun n s clocked => ⟨fun si u us => exec_decodeJobReady_slice clocked,
    fun i p run held range => ?_, fun i p run deadline held range => ?_, ?_⟩⟩
  · have code := State.jobCheck_unitOutside r.val unit outside
    exact congrArg Host.Outcome.next ((State.withJob_refused next unit rfl (by rw [code]; decide) _).trans (by rw [code]))
  · intro j u n h off len
    refine ⟨fun gated => ?_, fun enabled => ?_⟩
    · exact congrArg Host.Outcome.next ((State.withJob_due due rfl _).trans (if_pos gated))
    · refine ⟨_, _, congrArg Host.Outcome.next ((State.withJob_due due rfl _).trans (if_neg (Bool.eq_false_iff.1 enabled))),
        (congrArg Sess.units (State.sess_setSess_same _ _ _)).trans (congrArg (fun x : Sess => x.units ++ _) (State.hbmRead_sess _ _ _ _)), ?_⟩
      exact ⟨rfl, rfl, rfl, rfl, rfl⟩
  · show execConcealmentJobReady n i s = _
    simp [execConcealmentJobReady, clocked, held, range]
  · refine congrArg Host.Outcome.next ((if_neg (State.deadline_goesOn clocked deadline)).trans ?_)
    rw [held]
    simp only [range]
  · intro row p cells deadline found
    refine congrArg Host.Outcome.next ((if_neg (State.deadline_goesOn clocked deadline)).trans ?_)
    rewrite [found]
    rfl

end Sys2Proof.Machine
end

section
/-! COMPOSE_CONFIG and FLIP (R260, R261), the groups of a composer pipe (R222, R234), its flip points (R206, R224) and its canvas lines (R207); log entries 24, 113, 123. -/

namespace Sys2Proof.Machine

/-! Groups. -/

theorem State.group_setGroup_same (s : State) (p g : Nat) (x : Group) : (s.setGroup p g x).group p g = x := by
  rw [State.group, State.setGroup, State.pipe_setPipe_same, tabGet_put_same]

@[simp] theorem State.told_group (s : State) (who : Who) (p g : Nat) : (s.told who).group p g = s.group p g :=
  congrArg (fun x : Pipe => tabGet (fun _ => ({} : Group)) x.groups g) (s.told_pipe who p)

/-- Group `g` shares a member with another group of pipe `p` that is pending (R222). -/
def State.groupMeets (s : State) (p g : Nat) : Bool :=
  (span 0 4).any fun k => k != g && (s.group p k).pending && (s.reg (GRP_MEMBERS p k) &&& s.reg (GRP_MEMBERS p g)) != 0

/-- ARM is decided by three tests. -/
theorem State.groupArm_eq (s : State) (p g : Nat) (job : Option JobRef) :
    s.groupArm p g job = if (s.group p g).pending || s.reg (GRP_MEMBERS p g) == 0 || s.groupMeets p g then (s.event (pgCMP p) 9, false) else
      let t := (s.setGroup p g { pending := true, job := job }).setB (GRP_CTL p g) 0 true
      (t.setReg (GRP_STAT p g) (setFld (t.reg (GRP_STAT p g) &&& 0xC) 0 0 1), true) := rfl

/-- An ARM of a group that is pending, empty or in conflict sets the event and does nothing else. -/
theorem State.groupArm_refused {s : State} {p g : Nat}
    (barred : (s.group p g).pending = true ∨ s.reg (GRP_MEMBERS p g) = 0 ∨ s.groupMeets p g = true) (job : Option JobRef) :
    s.groupArm p g job = (s.event (pgCMP p) 9, false) :=
  (s.groupArm_eq p g job).trans (if_pos (by simpa only [Bool.or_eq_true, beq_iff_eq, or_assoc] using barred))

/-- Any other ARM leaves the group pending for its job, with ARM and PENDING set. -/
theorem State.groupArm_accepted {s : State} {p g : Nat} (idle : (s.group p g).pending = false) (named : s.reg (GRP_MEMBERS p g) ≠ 0)
    (apart : s.groupMeets p g = false) (job : Option JobRef) :
    let t := (s.groupArm p g job).1
    t.group p g = { pending := true, job := job } ∧ t.bit (GRP_CTL p g) 0 = true ∧ t.f (GRP_STAT p g) 0 0 = 1 := by
  have passes : ¬ ((s.group p g).pending || s.reg (GRP_MEMBERS p g) == 0 || s.groupMeets p g) = true := by
    simpa only [Bool.or_eq_true, beq_iff_eq, idle, apart, Bool.false_eq_true, false_or, or_false] using named
  have otherReg : GRP_CTL p g ≠ GRP_STAT p g := by simp only [GRP_CTL, GRP_STAT]; omega
  rw [State.groupArm_eq, if_neg passes]
  refine ⟨s.group_setGroup_same p g _, ?_, ?_⟩
  · exact (State.bit_setReg_ne _ _ _ otherReg).trans (State.bit_setB_same _ _ _ (by decide))
  · rw [State.f, State.reg_setReg_same, fld_setFld_same _ _ _ _ (by decide)]
    rfl

/-- A group that has ended is not pending. -/
theorem State.groupEnd_group (s : State) (p g last code layer reason : Nat) (t : PtpTime) :
    (s.groupEnd p g last code layer reason t).group p g = {} :=
  State.group_setGroup_same _ p g {}

/-- No sequencer serves a composer page: a served access acts in the state itself. -/
theorem State.noted_cmp (s : State) (who : Who) (p : Nat) : s.noted who (pgCMP p) = s :=
  State.noted_plain (by simp only [pgCMP]; omega) (by simp only [pgCMP, pgCSW]; omega) (by simp only [pgCMP, pgSMB]; omega)
    (by simp only [pgCMP]; omega)

section
variable {s : State} {who : Who} {pipe : PipeId} (served : s.served who (pgCMP pipe.val) = true) (group : GroupId)
include served

theorem exec_groupArm_served : exec (.groupArm who pipe group) s = .next ((s.groupArm pipe.val group.val none).1.told who) :=
  congrArg Host.Outcome.next ((State.access_served served _).trans (by rw [State.noted_cmp]))

theorem exec_groupCancel_served : exec (.groupCancel who pipe group) s = .next ((s.groupCancel pipe.val group.val).told who) :=
  congrArg Host.Outcome.next ((State.access_served served _).trans (by rw [State.noted_cmp]))

end

/-! Jobs. -/

/-- Settles O30: a COMPOSE_CONFIG ends by its read, its pipe or its entries, a FLIP by its pipe or its group. -/
theorem composeJobs : Obligations.ComposeJobs := by
  intro r b s
  dsimp only
  refine ⟨fun due goesOn => ?_, fun due => ?_⟩
  · have run := State.withJob_due due (pick := fun b => !s.jobHostWaits r.val (leAt b 0x11 1 == 0)) (by rw [goesOn]; rfl)
    refine ⟨fun unread => congrArg Host.Outcome.next ((run _).trans (if_pos unread)), fun read c absent => ?_,
      fun read there => ⟨fun t written => ?_, fun k c barred => ?_⟩⟩
    all_goals refine congrArg Host.Outcome.next ((run _).trans ((if_neg (not_not.2 read)).trans ?_))
    · rw [absent]
    · rw [there, written]
    · rw [there, barred]
  · have run := State.withJob_due due (pick := fun _ => true) rfl
    refine ⟨fun c absent => ?_, fun there pending => ?_, fun there idle => ?_⟩
    all_goals refine congrArg Host.Outcome.next ((run _).trans ?_); dsimp only
    · rw [absent]
    · rw [there]
      exact if_pos pending
    · rw [there]
      exact if_neg (by rw [idle]; decide)

/-! Flip points and lines. -/

/-- A step of the picture in progress is its whole effect on a pipe that does not drain afterwards. -/
theorem State.lineStep_of_not_inDrain {s : State} {p : Nat} {f : State → State} (busy : s.pipeBusy p = true) (shown : (s.pipe p).picture.isNone = false)
    (stays : (f s).inDrain (pgCMP p) = false) : s.lineStep p f = f s := by
  simp [State.lineStep, busy, shown, stays]

/-- Settles O31: an access of a group by what arming and cancelling do, a flip by the pipe's mode, a line by its sources. -/
theorem groupsAndPipes : Obligations.GroupsAndPipes := by
  refine ⟨?_, ?_⟩
  · intro who pipe group s p g mask meets served
    rw [exec_groupArm_served served, exec_groupCancel_served served]
    refine ⟨fun idle named apart => ?_, fun barred => ?_, fun pending => ?_, fun idle => ?_⟩
    · obtain ⟨armed, ctl, stat⟩ := State.groupArm_accepted idle named apart none
      refine ⟨_, rfl, ?_⟩
      rw [State.told_group, State.told_bit, State.told_f, armed]
      exact ⟨rfl, rfl, ctl, stat⟩
    · rw [State.groupArm_refused barred]
    · refine ⟨_, rfl, ?_⟩
      rw [State.told_group, State.groupCancel, if_pos pending, State.groupEnd_group]
    · rw [State.groupCancel, if_neg (by rw [idle]; decide)]
  · intro pipe s p
    refine ⟨fun runs => ⟨fun ptp on => ?_, fun ptp off => ?_, fun locked new => ?_, fun locked old => ?_⟩, fun h y t busy picture _ => ?_⟩
    · show execFlipPoint pipe s = _
      simp [execFlipPoint, p, runs, ptp, on]
    · show execFlipPoint pipe s = _
      simp [execFlipPoint, p, runs, ptp, off]
    · show execFlipPoint pipe s = _
      simp [execFlipPoint, p, runs, locked, new]
    · show execFreewheelFlip pipe s = _
      simp [execFreewheelFlip, p, runs, locked, old]
    · have shown : (s.pipe p).picture.isNone = false := by rw [picture]; rfl
      have line (f : State → State) (u : State) (does : f s = u) (stays : u.inDrain (pgCMP p) = false) : s.lineStep p f = u :=
        (State.lineStep_of_not_inDrain busy shown (does ▸ stays)).trans does
      refine ⟨fun needs stays => ?_, fun owed stays => ?_, fun stays => ?_⟩
      · exact congrArg Host.Outcome.next (line _ _ (by rw [picture]; exact if_pos needs) stays)
      · exact congrArg Host.Outcome.next (line _ _ (by rw [picture]; exact if_neg (by rw [owed]; decide)) stays)
      · exact congrArg Host.Outcome.next (line _ _ rfl stays)

end Sys2Proof.Machine
end

section
/-! NOP, FENCE, and the jobs that fail a check (R246, R248, R264 to R266, R271). -/

namespace Sys2Proof.Machine

/-- A ring that waits for its FENCE has no next job. -/
theorem State.nextJob_fenceWait {s : State} {r : Nat} (waits : (s.ring r).fenceWait.isNone = false) : s.nextJob r = none := by
  simp [State.nextJob, waits]

/-- A fence that is its ring's one open job, with no record held and its value's memory in reach, completes. -/
theorem State.fenceEnd_alone {s : State} {r : Nat} {j : JobRef} {wr loc : Bool} {a v : W64} (fence : (s.ring r).fenceWait = some (j, wr, loc, a, v))
    (alone : (s.ring r).openJobs = [j]) (unheld : (s.ring r).held = []) (reached : wr = false ∨ loc = true ∨ s.d0 (s.owner r) = true) :
    s.fenceEnd r =
      let x := if wr then s.fenceWrite r loc a.toNat v.toNat else (s, 0)
      (x.1.setRing r { x.1.ring r with fenceWait := none }).finishJob j 0 [(0x08, leBytes 8 (if wr && x.2 == 0 then v.toNat else 0))] x.2 := by
  have goesOn : ((s.ring r).openJobs.any (fun x => x != j) || !(s.ring r).held.isEmpty || (wr && !loc && !s.d0 (s.owner r))) = false := by
    rcases reached with h | h | h <;> simp [alone, unheld, h]
  simp only [State.fenceEnd, fence, goesOn, Bool.false_eq_true, if_false]

theorem exec_fenceComplete_clocked {r : RingId} {s : State} (clocked : s.clocked = true) : exec (.fenceComplete r) s = .next (s.fenceEnd r.val) :=
  congrArg Host.Outcome.next (if_pos clocked)

/-- JOB_BAD_TYPE ends a job of an undefined type. -/
theorem exec_jobBadType_undefined {r : RingId} {b : List Byte} {s : State} (next : s.nextJob r.val = some b) (undefined : leAt b 0 1 = 0 ∨ 10 < leAt b 0 1) :
    exec (.jobBadType r) s = .next ((s.takeJob r.val (jobRefOf r.val b)).finishJob (jobRefOf r.val b) 0 [] 0x20) := by
  show execJobBadType r s = _
  rw [execJobBadType, next]
  exact congrArg Host.Outcome.next (if_pos undefined)

/-- Settles O16: a job that passes its checks by what its command does with it, a fence's end where nothing else of its ring is left, a job that fails one by the code of the check. -/
theorem nopFenceAndRefusals : Obligations.NopFenceAndRefusals := by
  refine ⟨fun r b s => ⟨fun due => ?_, fun due => ?_, fun j loc a v clocked fence alone unheld => ?_, fun j loc a v clocked fence alone unheld reached => ?_⟩,
    fun r b s next => ?_⟩
  · exact congrArg Host.Outcome.next (State.withJob_due due rfl _)
  · exact ⟨_, congrArg Host.Outcome.next (State.withJob_due due rfl _),
      State.nextJob_fenceWait (congrArg (fun x : Ring => x.fenceWait.isNone) (State.ring_setRing_same _ _ _)),
      congrArg Ring.fenceWait (State.ring_setRing_same _ _ _)⟩
  · rw [exec_fenceComplete_clocked clocked, State.fenceEnd_alone fence alone unheld (.inl rfl)]
    simp only [Bool.false_and, Bool.false_eq_true, if_false]
  · rw [exec_fenceComplete_clocked clocked, State.fenceEnd_alone fence alone unheld (.inr reached)]
    simp only [Bool.true_and, if_true]
  · refine ⟨exec_jobBadType_undefined next, fun failed => ?_⟩
    have ends {typ : Nat} (typed : leAt b 0 1 = typ) {pick : List Byte → Bool} (picked : pick b = true) (f : State → JobRef → List Byte → State) :=
      congrArg (Host.Outcome.next (φ := Fault) (ρ := Refusal)) (State.withJob_refused next typed picked failed f)
    exact ⟨fun typed here => ends typed (by simp [here]) _, fun typed finish => ends typed (by simp [finish]) _, fun typed abort => ends typed (by simp [abort]) _,
      fun typed => ends typed rfl _, fun typed => ends typed rfl _, fun typed => ends typed rfl _, fun typed => ends typed rfl _, fun typed => ends typed rfl _⟩

end Sys2Proof.Machine
end

section
/-! A job's fetch leaves every reset as it is (R244, R351, R364, R365, R525): it reads inside HBM, and no sector there, corrected or not, raises a source that resets a block. -/

namespace Sys2Proof.Machine

/-! The cells of the addresses of HBM, for every value of AFF_GIB. -/

/-- The place of an address of HBM: one of 128 pseudo-channels, and an offset below the larger of a stack and an affine region. -/
theorem hbmPlace_bounds {c aff a : Nat} (ha : a < 4 * c * GiB) : (hbmPlace c aff a).1 < 128 ∧ (hbmPlace c aff a).2 < max c aff * 2 ^ 25 := by
  by_cases low : a < 4 * (c - aff) * GiB
  · rw [hbmPlace_of_lt low]
    refine ⟨Nat.mod_lt _ (by decide), ?_⟩
    simp only [GiB] at low ⊢
    omega
  · obtain ⟨b, rfl⟩ := Nat.exists_eq_add_of_le (Nat.le_of_not_lt low)
    have inside : b < aff * GiB * 4 := by simp only [GiB] at ha low ⊢; omega
    have rest : b % (aff * GiB) < aff * GiB := Nat.mod_lt _ (by omega)
    have region : b / (aff * GiB) < 4 := Nat.div_lt_of_lt_mul inside
    have channel := pcx5_lt (b % (aff * GiB) / 256)
    rw [hbmPlace_of_ge]
    simp only [GiB] at *
    generalize b % (aff * 2 ^ 30) = r at rest channel ⊢
    generalize b / (aff * 2 ^ 30) = q at region ⊢
    omega

/-- The sector of an address of HBM counts as one of stacks 0 to 7. -/
theorem State.locOf_stack_lt {s : State} {a : Nat} (ha : a < s.hbmSize) : (s.locOf (s.cell a / 32 * 32)).stack < 8 := by
  obtain ⟨channel, offset⟩ := hbmPlace_bounds (aff := s.affGiB) ha
  have aff : s.affGiB < 2 ^ 6 := fld_lt _ 5 0
  have size : 24 ≤ s.stackGiB ∧ s.stackGiB ≤ 36 := by unfold State.stackGiB; split <;> decide
  have stack : s.stackGiB * GiB / 32 = s.stackGiB * 2 ^ 25 := by simp only [GiB]; omega
  have reach : s.cell a < s.stackGiB * 2 ^ 25 * 256 := by
    have channels := Nat.mul_le_mul_right (s.stackGiB * 2 ^ 25) (Nat.le_of_lt_succ channel)
    simp only [State.cell, stack]
    omega
  have index : s.cell a / 32 * 32 / (s.stackGiB * 2 ^ 25) < 256 := Nat.div_lt_of_lt_mul (by omega)
  simp only [State.locOf, stack]
  omega

/-! The resets after a fault whose source is CORRECTED or DEFERRED. -/

@[simp] theorem State.latch_busy (s : State) (q e p : Nat) : (s.latch q e).busy p = s.busy p := rfl
@[simp] theorem State.event_busy (s : State) (k b p : Nat) : (s.event k b).busy p = s.busy p := s.setReg_busy _ _ p
@[simp] theorem State.satF_busy (s : State) (a hi lo k p : Nat) : (s.satF a hi lo k).busy p = s.busy p := s.setReg_busy _ _ p
@[simp] theorem State.setPair_busy (s : State) (lo hi v p : Nat) : (s.setPair lo hi v).busy p = s.busy p := rfl
@[simp] theorem State.poison_busy (s : State) (x : Tab Bool) (p : Nat) : ({ s with poison := x } : State).busy p = s.busy p := rfl
@[simp] theorem State.histTotal_busy (s : State) (k p : Nat) : ({ s with histTotal := k } : State).busy p = s.busy p := rfl

theorem State.whenB_busy {s : State} {p : Nat} (c : Bool) {f : State → State} (hf : ∀ t, (f t).busy p = t.busy p) : (s.whenB c f).busy p = s.busy p := by
  cases c
  · rfl
  · exact hf s

theorem State.pinPulse_busy (s : State) (p : Nat) : s.pinPulse.busy p = s.busy p := by
  unfold State.pinPulse
  split <;> rfl

theorem State.histWrite_busy (s : State) (src agent code : Nat) (detail : W32) (p : Nat) : (s.histWrite src agent code detail).busy p = s.busy p := by
  simp only [State.histWrite, State.histTotal_busy, State.setReg_busy]
  exact State.whenB_busy _ fun t => by rw [State.event_busy, State.satF_busy]

theorem State.syndrome_busy (s : State) (src agent code p : Nat) : (s.syndrome src agent code).busy p = s.busy p := by
  unfold State.syndrome
  split
  · rfl
  · split <;> rfl

/-- Only a CONTAINED or a FATAL source acts by R. -/
theorem State.rAction_mild {src : Nat} (mild : fltClass src < 2) (s : State) : s.rAction src = s := by
  rw [State.rAction, if_neg (by omega), if_neg (by omega)]

theorem State.noteFault_busy {src : Nat} (mild : fltClass src < 2) (s : State) (agent code : Nat) (detail : W32) (p : Nat) :
    (s.noteFault src agent code detail).busy p = s.busy p := by
  unfold State.noteFault
  split
  · rfl
  · extract_lets counted act marked latched logged noted pended pulsed
    have hmarked : marked.busy p = s.busy p := State.whenB_busy (s := counted) _ fun t => by split <;> rfl
    split
    · exact hmarked
    · calc (pulsed.rAction src).busy p
        _ = pulsed.busy p := by rw [State.rAction_mild mild]
        _ = pended.busy p := State.whenB_busy _ fun t => t.pinPulse_busy p
        _ = noted.busy p := State.whenB_busy _ fun _ => rfl
        _ = logged.busy p := State.syndrome_busy _ _ _ _ _
        _ = marked.busy p := State.whenB_busy _ fun t => t.histWrite_busy src agent code detail p
        _ = s.busy p := hmarked

/-- The sources of corrected and of uncorrectable sectors, for stacks 0 to 7. -/
theorem fltClass_sectors : ∀ i < 8, fltClass (134 + i) < 2 ∧ fltClass (138 + i) < 2 := by decide

section
variable {s : State} {k : Nat} (near : (s.locOf (k * 32)).stack < 8) (p : Nat)
include near

theorem State.corrected_busy : (s.corrected k).busy p = s.busy p := by
  rw [State.corrected, State.noteFault_busy (fltClass_sectors _ near).1, State.event_busy, State.satF_busy]

theorem State.uncorrectable_busy : (s.uncorrectable k).busy p = s.busy p := by
  unfold State.uncorrectable
  extract_lets l i tagged counted size logged
  have hlogged : logged.busy p = counted.busy p := State.whenB_busy _ fun t => by
    extract_lets placed located
    rw [State.setReg_busy, show located.busy p = _ from State.setReg_busy _ _ _ _, show placed.busy p = _ from State.setPair_busy _ _ _ _ _]
  rw [State.noteFault_busy (fltClass_sectors _ near).2, hlogged, show counted.busy p = _ from State.event_busy _ _ _ _, State.satF_busy]
  exact s.poison_busy _ p

end

@[simp] theorem State.injectSpent_busy (s : State) (p : Nat) : s.injectSpent.busy p = s.busy p := by
  rw [State.injectSpent, State.setB_eq, State.setReg_busy, State.setB_eq, State.setReg_busy]
  rfl

theorem State.injectFire_busy {s : State} {pred : Nat → Bool} (near : ∀ k, pred k = true → (s.locOf (k * 32)).stack < 8) (p : Nat) :
    (s.injectFire pred).busy p = s.busy p := by
  unfold State.injectFire
  split
  · next k _ =>
    split_ifs with fires
    · exact (State.corrected_busy (s := s.injectSpent) (near k fires) p).trans (s.injectSpent_busy p)
    · exact (State.uncorrectable_busy (s := s.injectSpent) (near k fires) p).trans (s.injectSpent_busy p)
    · rfl
  · rfl

theorem State.countHbm_busy (s : State) (lo hi : Nat → Nat) (a n p : Nat) : (s.countHbm lo hi a n).busy p = s.busy p :=
  State.each_keeps (State.busy · p) (fun t i => by dsimp only; split_ifs <;> rfl) _ s

/-- A sector that a range touches begins before the range's end. -/
theorem lt_of_mem_sectors {a n x : Nat} (h : x ∈ sectors a n) : x < a + n := by
  unfold sectors at h
  split_ifs at h with empty
  · cases h
  · simp only [span, List.mem_map, List.mem_range] at h
    omega

theorem State.hbmRead_busy {s : State} {a n : Nat} (inside : s.inHbm a n = true) (p : Nat) : (s.hbmRead a n).busy p = s.busy p := by
  refine (State.countHbm_busy _ _ _ _ _ p).trans (State.injectFire_busy (fun k touched => ?_) p)
  simp only [List.any_eq_true, beq_iff_eq] at touched
  obtain ⟨x, sector, rfl⟩ := touched
  exact State.locOf_stack_lt ((lt_of_mem_sectors sector).trans_le (of_decide_eq_true inside))

/-! The fetch. -/

/-- A next job is a COMMAND ring's entry at its head. -/
theorem State.nextJob_fetched {s : State} {r : Nat} {b : List Byte} (next : s.nextJob r = some b) :
    s.ringKind r = 1 ∧ s.fetchEntry r (s.ringHead r) = .ok b := by
  unfold State.nextJob at next
  split_ifs at next with fetches
  simp only [Bool.and_eq_true, beq_iff_eq] at fetches
  obtain ⟨⟨⟨⟨⟨⟨-, command⟩, -⟩, -⟩, -⟩, -⟩, -⟩ := fetches
  refine ⟨command, ?_⟩
  split at next
  · next found => rw [found, Option.some.inj next]
  · cases next

/-- A job that is fetched from HBM lies there whole. -/
theorem State.inHbm_of_nextJob {s : State} {r : Nat} {b : List Byte} (next : s.nextJob r = some b) (loc : s.ringLocal r = true) :
    s.inHbm (s.entryAddr r (s.ringHead r)) 128 = true := by
  obtain ⟨command, found⟩ := State.nextJob_fetched next
  simp only [State.fetchEntry, loc, command, entryBytes, if_true] at found
  split_ifs at found with window outside
  simpa only [Bool.not_eq_true', Bool.not_eq_false] using outside

theorem State.takeJob_busy {s : State} {r : Nat} {b : List Byte} (next : s.nextJob r = some b) (j : JobRef) (p : Nat) :
    (s.takeJob r j).busy p = s.busy p := by
  simp only [State.takeJob, State.setRing_busy, State.setHead, State.setReg_busy]
  split
  · next loc => exact State.hbmRead_busy (State.inHbm_of_nextJob next loc) p
  · rfl

end Sys2Proof.Machine
end

section
/-! POOL_OP (R263, R336, R344; log entry 18). -/

namespace Sys2Proof.Machine

/-- A POOL_OP job that is due, its OP being the command's, is carried out on the state after its fetch, which leaves the pool manager serving. -/
theorem State.poolJob_due {s : State} {r op : Nat} {b : List Byte} (due : s.jobDue r 8 b) (serves : s.busy pgPOOL = false) (named : leAt b 0x10 1 = op)
    (f : State → JobRef → List Byte → State) : s.poolJob r op f = f (s.jobTaken r b) (jobRefOf r b) b := by
  have taken : (s.jobTaken r b).busy pgPOOL = false := by
    obtain ⟨next, typed, -⟩ := due
    rw [State.jobTaken, typed, if_neg (by decide), State.takeJob_busy next, serves]
  exact (State.withJob_due due (by simp [named]) _).trans (if_neg (by rw [taken]; decide))

/-- Settles O21: each command is its operation on the state after the job's fetch. -/
theorem poolJobs : Obligations.PoolJobs := by
  intro r b s due serves j u a h op fin
  have acts {k : Nat} (named : op = k) (f : State → JobRef → List Byte → State) : s.poolJob r.val k f = f u j b := State.poolJob_due due serves named f
  refine ⟨fun alloc once pool n bl => ?_, fun alloc blocking pool n bl => ⟨fun waits => ?_, fun x answer => ?_⟩,
    fun addref h' => congrArg Host.Outcome.next (acts addref _), fun release h' => congrArg Host.Outcome.next (acts release _),
    fun transfer h' d => congrArg Host.Outcome.next (acts transfer _), fun free h' => congrArg Host.Outcome.next (acts free _),
    fun reclaim pool v => congrArg Host.Outcome.next (acts reclaim _)⟩
  · exact congrArg Host.Outcome.next ((acts alloc _).trans (if_neg (by rw [once]; decide)))
  · exact congrArg Host.Outcome.next ((acts alloc _).trans ((if_pos blocking).trans (congrArg (fun o => Option.elim o _ _) waits)))
  · exact congrArg Host.Outcome.next ((acts alloc _).trans ((if_pos blocking).trans (congrArg (fun o => Option.elim o _ _) answer)))

end Sys2Proof.Machine
end

section
/-! LOAD_IMAGE and STORE_RELOAD (R262, R400 to R402, R404; log entries 81, 128). -/

namespace Sys2Proof.Machine

/-! The banks of a sequencer. -/

@[simp] theorem Seqr.inactive_setInactive (q : Seqr) (x : Bank) : (q.setInactive x).inactive = x := by
  cases h : q.activeB <;> simp [Seqr.setInactive, Seqr.inactive, Seqr.setBank, h]

@[simp] theorem Seqr.active_setInactive (q : Seqr) (x : Bank) : (q.setInactive x).active = q.active := by
  cases h : q.activeB <;> simp [Seqr.setInactive, Seqr.active, Seqr.setBank, h]

/-- A LOAD_IMAGE job that is due is ended by its read, by the checks of R404, or carried out. -/
theorem State.imgJob_due {s : State} {r : Nat} {b : List Byte} (due : s.jobDue r 7 b) (here : s.jobHostWaits r (leAt b 0x12 1 == 0) = false) {a : Nat}
    (action : leAt b 0x10 1 = a) (f : State → JobRef → Nat → List Byte → State) :
    let act := leAt b 0x10 1
    let q := leAt b 0x11 1
    let u := (s.jobTaken r b).latch 40 2
    let x := u.imgRead r b
    let v := u.jobReadCount (leAt b 0x12 1 == 1) (leAt b 0x18 8) x.2.length
    let c := v.imgCheck act q (leAt b 0x14 4) x.2
    s.imgJob r a f = if x.1 ≠ 0 then v.imgRefuse (jobRefOf r b) act q [] 0 x.1
      else if c ≠ 0 then v.imgRefuse (jobRefOf r b) act q x.2 c 0x30 else f v (jobRefOf r b) q x.2 := by
  subst action
  exact State.withJob_due due (by simp [here]) _

/-- A load puts the image into the inactive bank of its sequencer, and leaves the others. -/
theorem State.imgLoad_seq (s : State) (q : Nat) (b : List Byte) :
    (s.imgLoad q b).seq q = (s.seq q).setInactive { imgBank b 2 (imgWord b) with image := if q < 36 then [] else b } :=
  State.seq_setSeq_same _ _ _

theorem State.imgLoad_seq_ne (s : State) {q k : Nat} (other : k ≠ q) (b : List Byte) : (s.imgLoad q b).seq k = s.seq k :=
  State.seq_setSeq_ne _ _ _ other

/-- Settles O42: each action by the job's read and checks, an INSTALL also by whether its personality's changeover runs. -/
theorem images : Obligations.Images := by
  refine ⟨fun r b s due here => ?_, fun core p s clocked low high => ?_⟩
  · intro j act q u x v c refused
    have job {a : Nat} (action : act = a) (f : State → JobRef → Nat → List Byte → State) := State.imgJob_due due here action f
    have ends {t : State} (all : ∀ a f, act = a → s.imgJob r.val a f = t) : refused t :=
      ⟨fun action => congrArg Host.Outcome.next (all 0 _ action), fun action => congrArg Host.Outcome.next (all 1 _ action),
        fun action => congrArg Host.Outcome.next (all 2 _ action)⟩
    refine ⟨fun unread => ends fun a f action => (job action f).trans (if_pos unread),
      fun read barred => ends fun a f action => (job action f).trans ((if_neg (not_not.2 read)).trans (if_pos barred)), fun read passed => ?_⟩
    have done {a : Nat} (action : act = a) (f : State → JobRef → Nat → List Byte → State) : s.imgJob r.val a f = f v j q x.2 :=
      (job action f).trans ((if_neg (not_not.2 read)).trans (if_neg (not_not.2 passed)))
    refine ⟨fun install idle => ?_, fun install changes => ?_, fun load => ?_, fun swap => ?_⟩
    · exact congrArg Host.Outcome.next ((done install _).trans (if_neg (by rw [idle]; decide)))
    · exact congrArg Host.Outcome.next ((done install _).trans (if_pos (Option.isSome_iff_ne_none.2 changes)))
    · exact congrArg Host.Outcome.next (done load _)
    · have loaded := v.imgLoad_seq q x.2
      refine ⟨_, congrArg Host.Outcome.next (done swap _), congrArg Seqr.swapReq (State.seq_setSeq_same _ _ _),
        congrArg Seqr.swapJob (State.seq_setSeq_same _ _ _), (congrArg Seqr.inactive (State.seq_setSeq_same _ _ _)).trans ?_,
        (congrArg Seqr.active (State.seq_setSeq_same _ _ _)).trans ?_, fun k other => ?_⟩
      · exact (congrArg Seqr.inactive loaded).trans (Seqr.inactive_setInactive _ _)
      · exact (congrArg Seqr.active loaded).trans (Seqr.active_setInactive _ _)
      · exact (State.seq_setSeq_ne _ _ _ other).trans (v.imgLoad_seq_ne other _)
  · exact congrArg Host.Outcome.next (if_pos (by simp [clocked, low, high]))

end Sys2Proof.Machine
end

section
/-! The entries of a DMA ring (R287 to R289, R294 to R296, R587; log entries 61, 62, 63, 124). -/

namespace Sys2Proof.Machine

section
variable {s : State} {r : RingId}

/-- DMA_DESCRIPTOR_START starts the entry that it fetches. -/
theorem exec_dmaDescriptorStart_fetched {b : List Byte} (fetches : s.mayFetch r.val = true) (dma : s.ringKind r.val = 0) (turn : s.classTurn r.val = true)
    (entry : s.fetchEntry r.val (s.fetchIndex r.val) = .ok b) : exec (.dmaDescriptorStart r) s = .next (s.descStart r.val b) := by
  show execDmaDescriptorStart r s = _
  simp [execDmaDescriptorStart, fetches, dma, turn, entry]

/-- DESCRIPTOR_END takes a started descriptor further. -/
theorem exec_descriptorEnd_started {i : Nat} {d : Desc} (clocked : s.clocked = true) (found : s.descAt r.val i = some d) (started : d.started = true)
    (turn : s.classTurn r.val = true) : exec (.descriptorEnd r i) s = .next (s.descStep r.val d) := by
  show execDescriptorEnd r i s = _
  simp [execDescriptorEnd, clocked, found, started, turn]

/-- DESCRIPTOR_TRANSFER_ERROR gives a started descriptor an error that fits it. -/
theorem exec_descriptorTransferError_fits {i : Nat} {d : Desc} {e : XferErr} (clocked : s.clocked = true) (found : s.descAt r.val i = some d)
    (started : d.started = true) (fits : s.errFits r.val d e = true) : exec (.descriptorTransferError r i e) s = .next (s.descError r.val d e) := by
  show execDescriptorTransferError r i e s = _
  simp [execDescriptorTransferError, clocked, found, started, fits]

/-- RING_ENTRY_FETCH_FAIL ends the entry with the error of its fetch. -/
theorem exec_ringEntryFetchFail_error {err : Fin 16} {e : Nat} (fetches : s.mayFetch r.val = true)
    (error : s.fetchErr r.val (s.fetchIndex r.val) err.val = some e) : exec (.ringEntryFetchFail r err) s = .next (s.fetchFail r.val e) := by
  show execRingEntryFetchFail r err s = _
  simp [execRingEntryFetchFail, fetches, error]

end

/-- A descriptor that waits for no response fails at once (R295). -/
theorem State.descError_idle {s : State} {d : Desc} (idle : d.xfer.waits = 0) (r : Nat) (e : XferErr) :
    s.descError r d e = s.descFail r d (xferErrCode e) :=
  if_pos idle

/-- One that waits keeps its first error (R295). -/
theorem State.descError_first {s : State} {d : Desc} (waits : d.xfer.waits ≠ 0) (unset : d.xfer.err = 0) (r : Nat) (e : XferErr) :
    s.descError r d e = s.setDesc r { d with xfer := { d.xfer with err := xferErrCode e } } := by
  rw [State.descError, if_neg waits, if_pos unset]

section
variable {s : State} {r : Nat} {b : List Byte} (host : s.ringLocal r = false)
  (unordered : (Desc.dctl { index := s.fetchIndex r, bytes := b }).order = false)
include host unordered

/-- An unordered entry of host memory that passes the checks of R289 joins the ring's descriptors, started. -/
theorem State.descStart_passes (passes : s.descCheck (s.owner r) { index := s.fetchIndex r, bytes := b } = 0) :
    s.descStart r b =
      s.setRing r { s.ring r with descs := (s.ring r).descs ++ [{ index := s.fetchIndex r, bytes := b, started := true }] } := by
  simp [State.descStart, host, unordered, passes]

/-- One that a check refuses joins them unstarted and ends with the check's error. -/
theorem State.descStart_refused (refused : s.descCheck (s.owner r) { index := s.fetchIndex r, bytes := b } ≠ 0) :
    s.descStart r b =
      (s.setRing r { s.ring r with descs := (s.ring r).descs ++ [{ index := s.fetchIndex r, bytes := b }] }).descEnd r
        { index := s.fetchIndex r, bytes := b } 1 (s.descCheck (s.owner r) { index := s.fetchIndex r, bytes := b }) := by
  have unstarted : (s.descCheck (s.owner r) { index := s.fetchIndex r, bytes := b } == 0) = false := beq_false_of_ne refused
  simp [State.descStart, host, unordered, refused, unstarted]

end

/-- Settles O15: by what each command does with the entry or the descriptor that it finds. -/
theorem descriptors : Obligations.Descriptors := by
  refine ⟨fun r s => ⟨fun b fetches dma turn entry => exec_dmaDescriptorStart_fetched fetches dma turn entry, fun i d clocked found started => ⟨?_, ?_, ?_⟩⟩,
    fun r b s fetches dma turn host entry => ?_, fun r err e s fetches error => exec_ringEntryFetchFail_error fetches error⟩
  · exact exec_descriptorEnd_started clocked found started
  · intro e fits idle
    rw [exec_descriptorTransferError_fits clocked found started fits, State.descError_idle idle]
  · intro e fits waits unset
    rw [exec_descriptorTransferError_fits clocked found started fits, State.descError_first waits unset]
  · intro d unordered
    rw [exec_dmaDescriptorStart_fetched fetches dma turn entry]
    exact ⟨fun passes => congrArg Host.Outcome.next (State.descStart_passes host unordered passes),
      fun refused => congrArg Host.Outcome.next (State.descStart_refused host unordered refused)⟩

end Sys2Proof.Machine
end

section
/-! Direct channels (R280, R281, R304; log entry 46). -/

namespace Sys2Proof.Machine

/-- No sequencer serves a page of channels. -/
theorem State.noted_chanPage (s : State) (who : Who) (ch : ChanId) : s.noted who (0x041 + ch.val / 8) = s :=
  State.noted_plain (by omega) (by unfold pgCSW; omega) (by unfold pgSMB; omega) (by omega)

/-- A served DCH_GO writes the channel's control word with GO in it. -/
theorem exec_dchGo_served {who : Who} {ch : ChanId} {s : State} (served : s.served who (0x041 + ch.val / 8) = true) :
    exec (.dchGo who ch) s = .next ((s.chanWrite who ch.val 0x14 (setBit (s.reg (chanAt ch.val 0x14)) 0 true)).told who) :=
  congrArg Host.Outcome.next ((State.access_served served _).trans (by rw [State.noted_chanPage]))

/-- DCH_END takes a running channel further. -/
theorem exec_dchEnd_runs {ch : ChanId} {x : Chan} {s : State} (clocked : s.clocked = true) (runs : s.chan ch.val = some x) :
    exec (.dchEnd ch) s = .next (s.chanStep ch.val x) := by
  show execDchEnd ch s = _
  simp [execDchEnd, runs, clocked]

/-- A word stays as it is when a field takes the value it has. -/
theorem setFld_fld_self (w : W32) (hi lo : Nat) : setFld w hi lo (fld w hi lo) = w := by
  refine BitVec.eq_of_getLsbD_eq fun j _ => ?_
  rw [← bitAt_eq, ← bitAt_eq, bitAt_setFld]
  split_ifs with inside
  · rw [testBit_fld, Nat.add_sub_cancel' inside.1, decide_eq_true (by omega), Bool.true_and]
  · rfl

theorem State.reg_setF_self (s : State) (a hi lo : Nat) : (s.setF a hi lo (s.f a hi lo)).reg = s.reg := by
  funext x
  by_cases same : x = a
  · rw [same, State.setF, State.reg_setReg_same, State.f, setFld_fld_self]
  · exact State.reg_setReg_ne _ _ same

/-- A write by another than the channel's writer is ignored, and so is one while the channel runs (R280, R281). -/
theorem State.chanWrite_ignored {s : State} {who : Who} {c : Nat} (ignored : chanWriter who c = false ∨ s.chan c ≠ none) (o : Nat) (v : W32) :
    s.chanWrite who c o v = s := by
  refine if_pos ?_
  rcases ignored with other | runs
  · simp [other]
  · simp [Option.isSome_iff_ne_none.2 runs]

/-- GO by the writer of an idle channel starts it, with every register as it was: the write gives the control word's fields the values they have. -/
theorem State.chanWrite_go {s : State} {who : Who} {c : Nat} (writer : chanWriter who c = true) (idle : s.chan c = none) :
    ∃ u : State, u.reg = s.reg ∧ u.chan c = none ∧ s.chanWrite who c 0x14 (setBit (s.reg (chanAt c 0x14)) 0 true) = u.chanGo c :=
  ⟨s.setF (chanAt c 0x14) 2 1 (s.f (chanAt c 0x14) 2 1), s.reg_setF_self _ _ _, idle, by
    simp [State.chanWrite, writer, idle, State.f, fld_setBit_ne]⟩

/-- The registers of one channel stand apart where their offsets differ. -/
theorem chanAt_ne (c : Nat) {o o' : Nat} (h : o ≠ o') : chanAt c o ≠ chanAt c o' := by
  unfold chanAt; omega

section
variable {s : State} {c : Nat} (idle : s.chan c = none)
include idle

/-- A channel with a count in range runs with the values of its registers (R281). -/
theorem State.chanGo_runs (low : 1 ≤ (s.reg (chanAt c 0x10)).toNat) (high : (s.reg (chanAt c 0x10)).toNat ≤ 2 ^ 30) :
    (s.chanGo c).chan c = some { src := s.pair (chanAt c 0) (chanAt c 4), dst := s.pair (chanAt c 8) (chanAt c 0xC),
                                 count := (s.reg (chanAt c 0x10)).toNat, srcGlobal := s.bit (chanAt c 0x14) 1, dstGlobal := s.bit (chanAt c 0x14) 2 } ∧
      (s.chanGo c).bit (chanAt c 0x14) 0 = true ∧ (s.chanGo c).bit (chanAt c 0x18) 0 = true ∧ (s.chanGo c).reg (chanAt c 0x1C) = 0 := by
  have inRange : ¬ ((s.reg (chanAt c 0x10)).toNat = 0 ∨ 2 ^ 30 < (s.reg (chanAt c 0x10)).toNat) := by omega
  have cleared {lo hi : Nat} (apart : lo ≠ 0x1C ∧ hi ≠ 0x1C) : (s.setReg (chanAt c 0x1C) 0).pair (chanAt c lo) (chanAt c hi) = s.pair (chanAt c lo) (chanAt c hi) :=
    State.pair_setReg_ne _ _ (chanAt_ne c apart.1) (chanAt_ne c apart.2)
  have control (i : Nat) : (s.setReg (chanAt c 0x1C) 0).bit (chanAt c 0x14) i = s.bit (chanAt c 0x14) i := State.bit_setReg_ne _ _ _ (chanAt_ne c (by decide))
  rw [State.chanGo, if_neg (by simp [idle])]
  simp only [if_neg inRange, cleared (lo := 0) (hi := 4) (by decide), cleared (lo := 8) (hi := 0xC) (by decide), control]
  refine ⟨by simp only [State.setB, State.setReg_chan, State.chan_setChan_same], ?_, State.bit_setB_same _ _ _ (by decide), ?_⟩
  · exact (State.bit_setReg_ne _ _ _ (chanAt_ne c (by decide))).trans (State.bit_setB_same _ _ _ (by decide))
  · exact (State.reg_setReg_ne _ _ (chanAt_ne c (by decide))).trans
      ((State.reg_setReg_ne _ _ (chanAt_ne c (by decide))).trans (State.reg_setReg_same _ _ _))

/-- With any other count it stays idle, and its status holds ERROR and FORMAT (R281, R304). -/
theorem State.chanGo_format (count : (s.reg (chanAt c 0x10)).toNat = 0 ∨ 2 ^ 30 < (s.reg (chanAt c 0x10)).toNat) :
    (s.chanGo c).chan c = none ∧ (s.chanGo c).bit (chanAt c 0x18) 2 = true ∧ (s.chanGo c).f (chanAt c 0x18) 7 4 = eFORMAT := by
  rw [State.chanGo, if_neg (by simp [idle]), if_pos count]
  refine ⟨idle, ?_, State.f_setF_same _ _ _ _ (by decide)⟩
  rw [State.chanError, State.bit, State.setF, State.reg_setReg_same, bitAt_setFld_ne _ _ (by decide)]
  exact State.bit_setB_same _ _ _ (by decide)

end

/-- Settles O32: a GO is ignored, starts the channel, or ends it with FORMAT; a running channel takes a step. -/
theorem channels : Obligations.Channels := by
  refine ⟨?_, fun ch x s clocked runs => exec_dchEnd_runs clocked runs⟩
  intro who ch s c n served
  refine ⟨fun ignored => ?_, fun writer idle => ?_⟩
  · rw [exec_dchGo_served served, State.chanWrite_ignored ignored]
  · have go := exec_dchGo_served served
    obtain ⟨u, regs, still, write⟩ := State.chanWrite_go writer idle
    rw [write] at go
    refine ⟨fun low high => ?_, fun count => ?_⟩
    · obtain ⟨run, goBit, busy, moved⟩ := State.chanGo_runs still (regs ▸ low) (regs ▸ high)
      simp only [State.pair, State.bit, regs] at run
      exact ⟨_, _, go, (State.told_chan _ _ _).trans run, rfl, rfl, rfl, rfl, rfl, (State.told_bit _ _ _ _).trans goBit, (State.told_bit _ _ _ _).trans busy,
        (State.told_reg _ _ _).trans moved⟩
    · obtain ⟨stays, error, code⟩ := State.chanGo_format still (regs ▸ count)
      exact ⟨_, go, (State.told_chan _ _ _).trans stays, (State.told_bit _ _ _ _).trans error, (State.told_f _ _ _ _ _).trans code⟩

end Sys2Proof.Machine
end

section
/-! CLAIM and COMPLETE of an interrupt controller (R314 to R318, R321). -/

namespace Sys2Proof.Machine

/-! The search for a source. -/

/-- A search of consecutive numbers finds the lowest that satisfies. -/
theorem find?_span {a m n : Nat} {p : Nat → Bool} (found : (span a m).find? p = some n) :
    a ≤ n ∧ n < a + m ∧ p n = true ∧ ∀ k, a ≤ k → k < n → p k = false := by
  rw [span, List.find?_map, Option.map_eq_some_iff] at found
  obtain ⟨j, found, rfl⟩ := found
  obtain ⟨hit, mem, least⟩ := List.find?_range_eq_some.mp found
  refine ⟨Nat.le_add_right a j, Nat.add_lt_add_left (List.mem_range.mp mem) a, hit, fun k low below => ?_⟩
  obtain ⟨d, rfl⟩ := Nat.exists_eq_add_of_le low
  simpa using least d (Nat.lt_of_add_lt_add_left below)

/-- Settles O34: the search runs through the sources 1 to 399 in order. -/
theorem claimsTheLowest : Obligations.ClaimsTheLowest := by
  intro i n s best
  obtain ⟨low, high, hit, least⟩ := find?_span best
  exact ⟨low, by omega, hit, least⟩

/-! Acknowledgement. -/

/-- The state with source `n` acknowledged: a core's edge is cleared, a ring's MOD_FIRED too; the other sources are levels (R315, R317, R321). -/
def State.srcAck (s : State) (n : Nat) : State :=
  if srcEdge n then { s with edges := tabPut (fun _ => false) s.edges n false }
  else if srcRing n then s.setRing (n - 144) { s.ring (n - 144) with modFired := false }
  else s

theorem State.srcAck_eq (s : State) (n : Nat) : ∃ edges rings, s.srcAck n = { s with edges := edges, rings := rings } := by
  unfold State.srcAck
  split_ifs
  · exact ⟨_, _, rfl⟩
  · exact ⟨_, _, rfl⟩
  · exact ⟨_, _, rfl⟩

theorem State.srcAck_reg (s : State) (n a : Nat) : (s.srcAck n).reg a = s.reg a := by
  obtain ⟨_, _, e⟩ := s.srcAck_eq n; rw [e]; rfl

theorem State.srcAck_outbox (s : State) (n : Nat) : (s.srcAck n).outbox = s.outbox := by
  obtain ⟨_, _, e⟩ := s.srcAck_eq n; rw [e]

theorem State.srcAck_edge (s : State) {n : Nat} (edge : srcEdge n = true) : tabGet (fun _ => false) (s.srcAck n).edges n = false := by
  rw [State.srcAck, if_pos edge, tabGet_put_same]

/-- No source is both a core's edge and a ring's. -/
theorem srcEdge_of_srcRing {n : Nat} (ring : srcRing n = true) : srcEdge n = false := by
  simp only [srcRing, srcEdge, decide_eq_true_eq, decide_eq_false_iff_not] at *
  omega

theorem State.srcAck_modFired (s : State) {n : Nat} (ring : srcRing n = true) : ((s.srcAck n).ring (n - 144)).modFired = false := by
  rw [State.srcAck, if_neg (by simp [srcEdge_of_srcRing ring]), if_pos ring, State.ring_setRing_same]

/-! What CLAIM answers. -/

section
variable {s : State} {i : Nat}

theorem State.icClaim_active (active : s.icActive i ≠ 0) : s.icClaim i = (s, BitVec.ofNat 32 (s.icActive i)) :=
  if_pos (bne_iff_ne.mpr active)

variable (idle : s.icActive i = 0)
include idle

theorem State.icClaim_best {n : Nat} (best : s.icBest i = some n) :
    s.icClaim i = (((s.setReg (IC_ACTIVE i) (BitVec.ofNat 32 n)).setB (IC_STATE i) 0 false).srcAck n, BitVec.ofNat 32 n) := by
  rw [State.icClaim, if_neg (by simp [idle]), best]
  rfl

theorem State.icClaim_signalled (empty : s.icBest i = none) (signalled : s.bit (IC_STATE i) 0 = true) :
    s.icClaim i = (s.setB (IC_STATE i) 0 false, 1023) := by
  rw [State.icClaim, if_neg (by simp [idle]), empty]
  exact if_pos signalled

theorem State.icClaim_nothing (empty : s.icBest i = none) (quiet : s.bit (IC_STATE i) 0 = false) : s.icClaim i = (s, 0) := by
  rw [State.icClaim, if_neg (by simp [idle]), empty]
  exact if_neg (by simp [quiet])

/-- The source that is claimed becomes the active one, is no more signalled, and is acknowledged. -/
theorem State.icClaim_best_spec {n : Nat} (best : s.icBest i = some n) :
    (s.icClaim i).1.icActive i = n ∧ (s.icClaim i).1.bit (IC_STATE i) 0 = false ∧ (s.icClaim i).1.outbox = s.outbox ∧
      (srcEdge n = true → tabGet (fun _ => false) (s.icClaim i).1.edges n = false) ∧
      (srcRing n = true → ((s.icClaim i).1.ring (n - 144)).modFired = false) := by
  obtain ⟨-, high, -, -⟩ := claimsTheLowest i n s best
  have apart : IC_ACTIVE i ≠ IC_STATE i := by unfold IC_ACTIVE IC_STATE; omega
  rw [State.icClaim_best idle best]
  refine ⟨?_, ?_, State.srcAck_outbox _ n, State.srcAck_edge _, State.srcAck_modFired _⟩
  · rw [State.icActive, State.f, State.srcAck_reg, State.setB, State.reg_setReg_ne _ _ apart, State.reg_setReg_same, fld_ofNat 9 0 (by omega)]
    exact Nat.mod_eq_of_lt (by rw [Nat.shiftRight_zero]; omega)
  · rw [State.bit, State.srcAck_reg]
    exact State.bit_setB_same _ _ _ (by decide)

end

/-! The two commands on a page that serves them. -/

/-- What a served read answers does not rest on the state. -/
theorem toldWord_emits (who : Who) (w : W32) : ∃ o, ∀ t : State, t.toldWord who w = t.emit o := by
  cases who with
  | pcie k => exact ⟨_, fun _ => rfl⟩
  | agent a => exact ⟨_, fun _ => rfl⟩

section
variable {s : State} {who : Who} {inst : FnId} (served : s.served who (pgIC inst.val) = true)
include served

theorem exec_icClaim_served : exec (.icClaim who inst) s = .next ((s.icClaim inst.val).1.toldWord who (s.icClaim inst.val).2) :=
  congrArg Host.Outcome.next (State.accessRd_served served _)

theorem exec_icComplete_served (v : W32) : exec (.icComplete who inst v) s = .next ((s.icComplete inst.val v).told who) :=
  congrArg Host.Outcome.next ((State.access_served served _).trans (by rw [State.noted_icPage]))

end

/-- Settles O33: by what CLAIM answers in each case, and by whether COMPLETE names the active source. -/
theorem claimAndComplete : Obligations.ClaimAndComplete := by
  refine ⟨?_, ?_⟩
  · intro who inst s i served
    have claim := exec_icClaim_served served
    refine ⟨fun active => ?_, fun idle => ⟨fun n best => ?_, fun empty signalled => ?_, fun empty quiet => ?_⟩⟩
    · rw [claim, State.icClaim_active active]
    · obtain ⟨active, unsignalled, outbox, edge, ring⟩ := State.icClaim_best_spec idle best
      obtain ⟨o, told⟩ := toldWord_emits who (BitVec.ofNat 32 n)
      have answer : (s.icClaim i).2 = BitVec.ofNat 32 n := congrArg Prod.snd (State.icClaim_best idle best)
      rw [answer, told] at claim
      refine ⟨_, claim, active, unsignalled, ?_, edge, ring⟩
      rw [told]
      exact congrArg (· ++ [o]) outbox
    · rw [claim, State.icClaim_signalled idle empty signalled]
    · rw [claim, State.icClaim_nothing idle empty quiet]
  · intro who inst v s i served
    refine ⟨fun active named => ?_, fun other => ?_⟩
    · rw [exec_icComplete_served served, State.icComplete, if_pos ⟨named ▸ active, named⟩]
    · rw [exec_icComplete_served served, State.icComplete, if_neg fun ⟨nonzero, named⟩ => other.elim nonzero (absurd named)]

end Sys2Proof.Machine
end

section
/-! Handles, holder slots, and ALLOC (R334, R336, R337, R339, R340, R342). -/

namespace Sys2Proof.Machine

/-- An agent's operation while the pool manager serves is carried out. -/
theorem State.poolFor_serves {s : State} (clocked : s.clocked = true) (serves : s.busy pgPOOL = false) (a : Nat) (f : State → State) : s.poolFor a f = f s := by
  simp only [State.poolFor, clocked, serves, Bool.not_true, Bool.false_eq_true, if_false]

/-! What a handle names. -/

theorem mkHandle_eq {p g i : Nat} (hg : g < 64) (hi : i < 2 ^ 20) : mkHandle p g i = BitVec.ofNat 32 (p * 2 ^ 26 + g * 2 ^ 20 + i) := by
  have low : g <<< 20 ||| i = g * 2 ^ 20 + i := by rw [← Nat.shiftLeft_add_eq_or_of_lt hi, Nat.shiftLeft_eq]
  have whole : p <<< 26 ||| (g * 2 ^ 20 + i) = p * 2 ^ 26 + (g * 2 ^ 20 + i) := by
    rw [← Nat.shiftLeft_add_eq_or_of_lt (by omega), Nat.shiftLeft_eq]
  rw [mkHandle, Nat.or_assoc, low, whole, Nat.add_assoc]

theorem hPool_mkHandle {p g i : Nat} (hp : p < 64) (hg : g < 64) (hi : i < 2 ^ 20) : hPool (mkHandle p g i) = p := by
  rw [mkHandle_eq hg hi, hPool, fld_ofNat 31 26 (by omega), Nat.shiftRight_eq_div_pow]
  omega

theorem hIndex_mkHandle {p g i : Nat} (hp : p < 64) (hg : g < 64) (hi : i < 2 ^ 20) : hIndex (mkHandle p g i) = i := by
  rw [mkHandle_eq hg hi, hIndex, fld_ofNat 19 0 (by omega), Nat.shiftRight_zero]
  omega

/-- The handle of a buffer names that buffer. -/
theorem State.bufHandle_key (s : State) {p i : Nat} (hp : p < 64) (hi : i < 2 ^ 20) : bufKey (hPool (s.bufHandle p i)) (hIndex (s.bufHandle p i)) = bufKey p i := by
  have gen : s.bufGen p i < 64 := Nat.succ_lt_succ (Nat.mod_lt _ (by decide))
  rw [State.bufHandle, hPool_mkHandle hp gen hi, hIndex_mkHandle hp gen hi]

/-! Holder slots. -/

/-- From `s` to `t` nothing of pools, buffers and outbox changes but holder slots, and those of the buffer that `h` names alone. -/
structure HoldsOnly (h : W32) (s t : State) : Prop where
  pools : t.pools = s.pools
  outbox : t.outbox = s.outbox
  apart : ∀ k, k ≠ bufKey (hPool h) (hIndex h) → t.buf k = s.buf k
  slots : ∀ k, ∃ hs u, t.buf k = { s.buf k with holders := hs, untracked := u }

theorem HoldsOnly.refl (h : W32) (s : State) : HoldsOnly h s s := ⟨rfl, rfl, fun _ _ => rfl, fun _ => ⟨_, _, rfl⟩⟩

theorem HoldsOnly.trans {h : W32} {s t u : State} (st : HoldsOnly h s t) (tu : HoldsOnly h t u) : HoldsOnly h s u where
  pools := tu.pools.trans st.pools
  outbox := tu.outbox.trans st.outbox
  apart k other := (tu.apart k other).trans (st.apart k other)
  slots k := by
    obtain ⟨_, _, first⟩ := st.slots k
    obtain ⟨hs, n, second⟩ := tu.slots k
    exact ⟨hs, n, by rw [second, first]⟩

/-- A write of the buffer's slots. -/
theorem HoldsOnly.setHbuf (s : State) (h : W32) (hs : Tab Nat) (n : Nat) : HoldsOnly h s (s.setHbuf h { s.hbuf h with holders := hs, untracked := n }) where
  pools := rfl
  outbox := rfl
  apart k other := s.buf_setBuf_ne _ _ other
  slots k := by
    by_cases same : k = bufKey (hPool h) (hIndex h)
    · exact ⟨hs, n, by rw [same]; exact State.buf_setBuf_same _ _ _⟩
    · exact ⟨_, _, s.buf_setBuf_ne _ _ same⟩

/-- Registers may change beside. -/
theorem HoldsOnly.setReg {h : W32} {s t : State} (st : HoldsOnly h s t) (a : Nat) (v : W32) : HoldsOnly h s (t.setReg a v) :=
  ⟨st.pools, st.outbox, st.apart, st.slots⟩

theorem HoldsOnly.addHold (s : State) (h : W32) (a n : Nat) : HoldsOnly h s (s.addHold h a n) := by
  unfold State.addHold
  dsimp only
  split_ifs
  · exact .refl h s
  · exact .setHbuf s h _ _
  · exact ((HoldsOnly.setHbuf s h _ _).setReg _ _).setReg _ _

theorem HoldsOnly.each_addHold (h : W32) (holds : List (Nat × Nat)) (s : State) : HoldsOnly h s (s.each holds fun t x => t.addHold h x.1 x.2) := by
  induction holds generalizing s with
  | nil => exact .refl h s
  | cons x holds ih => exact (HoldsOnly.addHold s h x.1 x.2).trans (ih _)

theorem HoldsOnly.pool {h : W32} {s t : State} (st : HoldsOnly h s t) (p : Nat) : t.pool p = s.pool p := by
  rw [State.pool, st.pools, State.pool]

/-- The reference count is no slot. -/
theorem HoldsOnly.count {h : W32} {s t : State} (st : HoldsOnly h s t) : (t.hbuf h).count = (s.hbuf h).count := by
  obtain ⟨_, _, record⟩ := st.slots (bufKey (hPool h) (hIndex h))
  rw [State.hbuf, record, State.hbuf]

/-! Taking a buffer. -/

/-- A handle rests on the pool's first generation and on how often its buffer was freed. -/
theorem State.bufHandle_congr {s t : State} {p i : Nat} (gen : (t.pool p).startGen = (s.pool p).startGen)
    (frees : (t.buf (bufKey p i)).frees = (s.buf (bufKey p i)).frees) : t.bufHandle p i = s.bufHandle p i := by
  simp only [State.bufHandle, State.bufGen, gen, frees]

/-- The record of a buffer as an allocation writes it, before its references are recorded. -/
def State.takenBuf (s : State) (a p i : Nat) (holds : List (Nat × Nat)) : Buf :=
  { frees := (s.buf (bufKey p i)).frees, live := true, count := (if s.poolNamed p then 0 else (holds.map Prod.snd).sum),
    owner := (if s.poolNamed p then ownerOf a else 255), producer := some a }

/-- The pool beside its registers after an allocation of buffer `i`. -/
def Pool.taken (q : Pool) (i : Nat) : Pool :=
  { q with nextNew := (if q.nextNew ≤ i then i + 1 else q.nextNew), freed := q.freed.filter (· != i), live := q.live + 1 }

theorem State.bufHandle_takenBuf (s : State) (a p i : Nat) (holds : List (Nat × Nat)) :
    (s.setBuf (bufKey p i) (s.takenBuf a p i holds)).bufHandle p i = s.bufHandle p i :=
  State.bufHandle_congr rfl (by rw [State.buf_setBuf_same]; rfl)

/-- The state with a taken buffer's record written and, in a SHARED pool, its references recorded. -/
def State.takenHolds (s : State) (a p i : Nat) (holds : List (Nat × Nat)) : State :=
  let u := s.setBuf (bufKey p i) (s.takenBuf a p i holds)
  if s.poolNamed p then u else u.each holds fun t x => t.addHold (u.bufHandle p i) x.1 x.2

theorem State.takenHolds_holdsOnly (s : State) (a p i : Nat) (holds : List (Nat × Nat)) :
    HoldsOnly (s.bufHandle p i) (s.setBuf (bufKey p i) (s.takenBuf a p i holds)) (s.takenHolds a p i holds) := by
  rw [State.takenHolds, s.bufHandle_takenBuf]
  split_ifs
  · exact .refl _ _
  · exact .each_addHold _ holds _

/-- An allocation then writes the pool and two registers. -/
theorem State.bufTake_keeps {β : Type} (f : State → β) (hf : ∀ t a v, f (State.setReg t a v) = f t) (s : State) (a p i : Nat) (holds : List (Nat × Nat)) :
    f (s.bufTake a p i holds) = f ((s.takenHolds a p i holds).setPool p (((s.takenHolds a p i holds).pool p).taken i)) :=
  (hf _ _ _).trans (hf _ _ _)

/-- From `s` to `t` agent `a` takes buffer `i` of pool `p`: the buffer is live in its generation and counted, and no other buffer changes. -/
structure Taken (s t : State) (a p i : Nat) : Prop where
  live : (t.buf (bufKey p i)).live = true
  producer : (t.buf (bufKey p i)).producer = some a
  handle : t.bufHandle p i = s.bufHandle p i
  outbox : t.outbox = s.outbox
  liveCount : (t.pool p).live = (s.pool p).live + 1
  apart : p < 64 → i < 2 ^ 20 → ∀ k, k ≠ bufKey p i → t.buf k = s.buf k

theorem State.bufTake_taken (s : State) (a p i : Nat) (holds : List (Nat × Nat)) : Taken s (s.bufTake a p i holds) a p i := by
  have held := s.takenHolds_holdsOnly a p i holds
  have pool : (s.bufTake a p i holds).pool p = (s.pool p).taken i := by
    rw [State.bufTake_keeps (fun t => t.pool p) fun _ _ _ => rfl, State.pool_setPool_same, held.pool, State.setBuf_pool]
  have bufs (k : Nat) : (s.bufTake a p i holds).buf k = (s.takenHolds a p i holds).buf k :=
    State.bufTake_keeps (fun t => t.buf k) (fun _ _ _ => rfl) s a p i holds
  obtain ⟨hs, n, record⟩ := held.slots (bufKey p i)
  rw [State.buf_setBuf_same] at record
  exact {
    live := by rw [bufs, record]; rfl
    producer := by rw [bufs, record]; rfl
    handle := State.bufHandle_congr (by rw [pool]; rfl) (by rw [bufs, record]; rfl)
    outbox := (State.bufTake_keeps State.outbox (fun _ _ _ => rfl) s a p i holds).trans held.outbox
    liveCount := by rw [pool]; rfl
    apart := fun hp hi k other => by rw [bufs, held.apart k (by rwa [s.bufHandle_key hp hi]), State.buf_setBuf_ne _ _ _ other] }

/-! ALLOC. -/

/-- The next free buffer, its record readable, is taken at the first try. -/
theorem State.poolServe_next {s : State} {p i : Nat} (next : nextFree s p ((s.pool p).gone + 1) (s.pool p).nextNew = some i) (readable : s.recPoisoned p i = false)
    (a : Nat) (holds : List (Nat × Nat)) {fuel : Nat} (tries : fuel ≠ 0) :
    s.poolServe a p holds fuel = (s.bufTake a p i holds, some (s.bufHandle p i)) := by
  obtain ⟨fuel, rfl⟩ := Nat.exists_eq_succ_of_ne_zero tries
  simp only [State.poolServe, next, readable, Bool.false_eq_true, if_false, (s.bufTake_taken a p i holds).handle]

/-- The tries that an allocation has. -/
theorem State.serveFuel_ne_zero (s : State) (p : Nat) : (if s.memSeed.isEmpty then s.poison.length + 1 else s.poolCount p + 1) ≠ 0 := by
  split <;> exact Nat.succ_ne_zero _

section
variable {s : State} {p n : Nat} (enabled : s.poolEn p = true) (counted : s.poolNamed p = true ∨ n ≤ 255)
include counted

/-- The initial count is one that a buffer can hold. -/
theorem State.allocHolds_counted (a : Nat) : (!s.poolNamed p && decide (255 < ((s.allocHolds p a n).map Prod.snd).sum)) = false := by
  rcases counted with named | few
  · simp [named]
  · unfold State.allocHolds
    split_ifs <;> simp [few]

include enabled

/-- With nothing free beyond what the waiters are owed the answer is NONE. -/
theorem State.poolAlloc_full (full : s.poolFree p ≤ (s.pool p).waiters.length) (a : Nat) : s.poolAlloc a p (s.allocHolds p a n) = (s.poolNone p, .none) := by
  simp only [State.poolAlloc, enabled, State.allocHolds_counted counted, full, Bool.not_true, Bool.false_eq_true, if_false, if_true]

/-- Else the next free buffer is the answer. -/
theorem State.poolAlloc_next {i : Nat} (room : (s.pool p).waiters.length < s.poolFree p)
    (next : nextFree s p ((s.pool p).gone + 1) (s.pool p).nextNew = some i) (readable : s.recPoisoned p i = false) (a : Nat) :
    ∃ c, s.poolAlloc a p (s.allocHolds p a n) = (s.bufTake a p i (s.allocHolds p a n), .ok (s.bufHandle p i) c) := by
  refine ⟨((s.bufTake a p i (s.allocHolds p a n)).hbuf (s.bufHandle p i)).count, ?_⟩
  simp only [State.poolAlloc, enabled, State.allocHolds_counted counted, Nat.not_le.mpr room, State.poolServe_next next readable a _ (s.serveFuel_ne_zero p),
    Bool.not_true, Bool.false_eq_true, if_false]

/-- A blocking allocation waits where nothing is free and a place among the waiters is. -/
theorem State.poolBlocking_waits (full : s.poolFree p ≤ (s.pool p).waiters.length) (place : (s.pool p).waiters.length < 64) (a : Nat) :
    s.poolBlocking { agent := a, count := n } p = (s.setPool p { s.pool p with waiters := (s.pool p).waiters ++ [{ agent := a, count := n }] }, none) := by
  have asks : (s.poolEn p && (s.poolNamed p || decide (n ≤ 255)) && decide (s.poolFree p ≤ (s.pool p).waiters.length)) = true := by
    simpa [enabled, full] using counted
  exact (if_pos asks).trans (if_pos place)

end

/-- A blocking allocation that finds a buffer free is one that does not wait. -/
theorem State.poolBlocking_room {s : State} {p : Nat} (room : (s.pool p).waiters.length < s.poolFree p) (w : Waiter) :
    s.poolBlocking w p = ((s.poolAlloc w.agent p (s.allocHolds p w.agent w.count)).1, some (s.poolAlloc w.agent p (s.allocHolds p w.agent w.count)).2) :=
  if_neg (by simp [room])

section
variable {s : State} (clocked : s.clocked = true) (serves : s.busy pgPOOL = false) (a : Nat) (pool : PoolId) (n : Nat)
include clocked serves

theorem exec_alloc_once : exec (.alloc (.agent a) pool n false) s =
    .next ((s.poolAlloc a pool.val (s.allocHolds pool.val a n)).1.poolTell a (s.poolAlloc a pool.val (s.allocHolds pool.val a n)).2) :=
  congrArg Host.Outcome.next (State.poolFor_serves clocked serves a _)

theorem exec_alloc_blocking : exec (.alloc (.agent a) pool n true) s =
    .next ((s.poolBlocking { agent := a, count := n } pool.val).2.elim (s.poolBlocking { agent := a, count := n } pool.val).1
      fun x => (s.poolBlocking { agent := a, count := n } pool.val).1.poolTell a x) :=
  congrArg Host.Outcome.next (State.poolFor_serves clocked serves a _)

end

/-- Settles O19: by whether more buffers are free than the waiters are owed. -/
theorem allocations : Obligations.Allocations := by
  intro a pool n s p clocked serves enabled counted
  have once := exec_alloc_once clocked serves a pool n
  have blocking := exec_alloc_blocking clocked serves a pool n
  refine ⟨fun i inPool room next readable => ?_, fun full => ⟨?_, fun place => ?_⟩⟩
  · obtain ⟨c, served⟩ := State.poolAlloc_next enabled counted room next readable a
    obtain ⟨live, producer, -, outbox, liveCount, apart⟩ := s.bufTake_taken a p i (s.allocHolds p a n)
    rw [State.poolBlocking_room room, served] at blocking
    rw [served] at once
    exact ⟨_, once, blocking, live, producer, congrArg (· ++ [_]) outbox, liveCount, apart pool.isLt inPool⟩
  · rw [once, State.poolAlloc_full enabled counted full]; rfl
  · rw [blocking, State.poolBlocking_waits enabled counted full place]; rfl

end Sys2Proof.Machine
end

section
/-! Operations on a live handle (R334, R336, R337, R341, R342; log entry 95). -/

namespace Sys2Proof.Machine

/-- A record that reads without poison leaves the state. -/
theorem State.recRead_readable {s : State} {p i : Nat} (readable : s.recPoisoned p i = false) : s.recRead p i = s := by
  simp [State.recRead, readable]

theorem State.hbuf_setHbuf_same (s : State) (h : W32) (b : Buf) : (s.setHbuf h b).hbuf h = b := State.buf_setBuf_same _ _ _

@[simp] theorem State.emit_hbuf (s : State) (o : Output) (h : W32) : (s.emit o).hbuf h = s.hbuf h := rfl

theorem State.buf_setHbuf_ne (s : State) {h : W32} (b : Buf) {k : Nat} (other : k ≠ bufKey (hPool h) (hIndex h)) : (s.setHbuf h b).buf k = s.buf k :=
  State.buf_setBuf_ne _ _ _ other

/-! Taking a reference out of the slots. -/

theorem dropHold_eq (b : Buf) (a : Nat) : ∃ hs u, dropHold b a = { b with holders := hs, untracked := u } := by
  unfold dropHold
  cases holdFrom b a with
  | some k => exact ⟨_, _, rfl⟩
  | none => exact ⟨_, _, rfl⟩

@[simp] theorem dropHold_count (b : Buf) (a : Nat) : (dropHold b a).count = b.count := by obtain ⟨_, _, e⟩ := dropHold_eq b a; rw [e]
@[simp] theorem dropHold_subs (b : Buf) (a : Nat) : (dropHold b a).subs = b.subs := by obtain ⟨_, _, e⟩ := dropHold_eq b a; rw [e]
@[simp] theorem dropHold_frees (b : Buf) (a : Nat) : (dropHold b a).frees = b.frees := by obtain ⟨_, _, e⟩ := dropHold_eq b a; rw [e]

/-! Freeing. -/

/-- Where the last buffer of a draining pool is gone the drain ends, which writes an event beside. -/
theorem State.poolSettle_keeps {β : Type} (f : State → β) (hevent : ∀ t v, f (State.setReg t (hEVT pgPOOL) v) = f t) (hpool : ∀ t p q, f (State.setPool t p q) = f t)
    (s : State) (p : Nat) : f (s.poolSettle p) = f s := by
  unfold State.poolSettle
  split_ifs
  · exact (hevent _ _).trans (hpool _ _ _)
  · rfl

theorem State.poolSettle_pool (s : State) (p : Nat) :
    (s.poolSettle p).pool p = { s.pool p with draining := (s.pool p).draining && s.poolActive p } := by
  unfold State.poolSettle
  split_ifs with ends
  · rw [Bool.and_eq_true, Bool.not_eq_true'] at ends
    obtain ⟨-, idle⟩ := ends
    rw [idle, Bool.and_false]
    exact State.pool_setPool_same _ _ _
  · have stays : ((s.pool p).draining && s.poolActive p) = (s.pool p).draining := by simpa using ends
    rw [stays]

/-- A buffer without subscribers is freed: its record is that of the next generation, its index is among the freed ones, and no other buffer changes. -/
theorem State.bufFree_unsubscribed {s : State} {h : W32} (nobody : (s.hbuf h).subs = []) :
    (s.bufFree h).hbuf h = { frees := (s.hbuf h).frees + 1 } ∧ hIndex h ∈ ((s.bufFree h).pool (hPool h)).freed ∧
      ∀ k, k ≠ bufKey (hPool h) (hIndex h) → (s.bufFree h).buf k = s.buf k := by
  have quiet : s.wakeAll h = s := by simp [State.wakeAll, nobody]
  have bufs (k : Nat) : (s.bufFree h).buf k = (s.setHbuf h { frees := (s.hbuf h).frees + 1 }).buf k := by
    rw [State.bufFree, quiet]
    exact State.poolSettle_keeps (fun t => t.buf k) (fun _ _ => rfl) (fun _ _ _ => rfl) _ _
  refine ⟨(bufs _).trans (s.hbuf_setHbuf_same h _), ?_, fun k other => (bufs k).trans (s.buf_setHbuf_ne _ other)⟩
  rw [State.bufFree, State.poolSettle_pool, State.pool_setPool_same]
  exact List.mem_append_right _ (List.mem_singleton_self _)

/-! What each operation answers. -/

section
variable {s : State} {h : W32} (sound : s.handleErr h = none) (readable : s.recPoisoned (hPool h) (hIndex h) = false) (a : Nat)
include sound readable

theorem State.poolAddref_ok (room : (s.hbuf h).count ≠ 255) :
    s.poolAddref a h = ((s.setHbuf h { s.hbuf h with count := (s.hbuf h).count + 1 }).addHold h a 1, .ok h ((s.hbuf h).count + 1)) := by
  simp only [State.poolAddref, State.recRead_readable readable, sound, room, if_false]

/-- A reference that is not the last. -/
theorem State.poolRelease_ok (more : 1 < (s.hbuf h).count) :
    s.poolRelease a h = (s.setHbuf h (dropHold { s.hbuf h with count := (s.hbuf h).count - 1 } a), .ok h ((s.hbuf h).count - 1)) := by
  have referenced : (s.hbuf h).count ≠ 0 := by omega
  have left : (s.hbuf h).count - 1 ≠ 0 := by omega
  simp only [State.poolRelease, State.poolReleaseAs, State.recRead_readable readable, sound, dropHold_count, referenced, left, false_and, if_false]

/-- The last reference on a SHARED buffer. -/
theorem State.poolRelease_last (last : (s.hbuf h).count = 1) (shared : s.poolNamed (hPool h) = false) :
    s.poolRelease a h = ((s.setHbuf h (dropHold { s.hbuf h with count := (s.hbuf h).count - 1 } a)).bufFree h, .ok h 0) := by
  have named (b : Buf) : (s.setHbuf h b).poolNamed (hPool h) = false := shared
  simp [State.poolRelease, State.poolReleaseAs, State.recRead_readable readable, sound, last, named]

theorem State.poolTransfer_shared (shared : s.poolNamed (hPool h) = false) (dst : Nat) :
    ∃ producer, s.poolTransfer a h dst = ((s.setHbuf h { dropHold (s.hbuf h) a with producer := producer }).addHold h dst 1, .ok h (s.hbuf h).count) := by
  simp only [State.poolTransfer, State.recRead_readable readable, sound, shared, dropHold_count]
  exact ⟨_, rfl⟩

section
variable {a} (named : s.poolNamed (hPool h) = true) (owned : (s.hbuf h).owner = a) (kept : (s.hbuf h).freePending = false)
include named owned kept

theorem State.poolTransfer_named (dst : Nat) :
    ∃ producer, s.poolTransfer a h dst = (s.setHbuf h { s.hbuf h with owner := ownerOf dst, producer := producer }, .ok h (s.hbuf h).count) := by
  have allowed : ¬((s.hbuf h).owner ≠ a ∨ (s.hbuf h).freePending = true) := by simp [owned, kept]
  simp only [State.poolTransfer, State.recRead_readable readable, sound, named, allowed, if_true, if_false]
  exact ⟨_, rfl⟩

theorem State.poolFreeOp_unborrowed (unborrowed : (s.hbuf h).count = 0) : s.poolFreeOp a h = (s.bufFree h, .ok h 0) := by
  simp [State.poolFreeOp, State.recRead_readable readable, sound, named, owned, kept, unborrowed]

theorem State.poolFreeOp_borrowed (borrowed : (s.hbuf h).count ≠ 0) :
    s.poolFreeOp a h = (s.setHbuf h { s.hbuf h with freePending := true, owner := 255 }, .ok h (s.hbuf h).count) := by
  simp [State.poolFreeOp, State.recRead_readable readable, sound, named, owned, kept, borrowed]

end
end

/-! The commands of an agent. -/

section
variable {s t : State} (clocked : s.clocked = true) (serves : s.busy pgPOOL = false) {a : Nat} {h g : W32} {c : Nat}
include clocked serves

/-- An operation that succeeds is answered with the handle. -/
theorem State.poolOnHandle_ok {f : State → Nat → W32 → Nat → State × PoolRes} {dst : Nat} (ok : f s a h dst = (t, .ok g c)) (op : Nat) :
    s.poolOnHandle op (.agent a) h dst f = t.emit (.poolHandle a g) := by
  rw [State.poolOnHandle, State.poolFor_serves clocked serves, ok, State.poolTell]

theorem exec_addref_ok (ok : s.poolAddref a h = (t, .ok g c)) : exec (.addref (.agent a) h) s = .next (t.emit (.poolHandle a g)) :=
  congrArg Host.Outcome.next (State.poolOnHandle_ok clocked serves ok _)

theorem exec_release_ok (ok : s.poolRelease a h = (t, .ok g c)) : exec (.release (.agent a) h) s = .next (t.emit (.poolHandle a g)) :=
  congrArg Host.Outcome.next (State.poolOnHandle_ok clocked serves ok _)

theorem exec_transfer_ok {dst : Nat} (ok : s.poolTransfer a h dst = (t, .ok g c)) : exec (.transfer (.agent a) h dst) s = .next (t.emit (.poolHandle a g)) :=
  congrArg Host.Outcome.next (State.poolOnHandle_ok clocked serves ok _)

theorem exec_free_ok (ok : s.poolFreeOp a h = (t, .ok g c)) : exec (.free (.agent a) h) s = .next (t.emit (.poolHandle a g)) :=
  congrArg Host.Outcome.next (State.poolOnHandle_ok clocked serves ok _)

end

/-- A record written and then one more reference recorded: the count is as written, and no other buffer changes. -/
theorem State.addHold_setHbuf (s : State) (h : W32) (b : Buf) (a n : Nat) :
    (((s.setHbuf h b).addHold h a n).hbuf h).count = b.count ∧ ((s.setHbuf h b).addHold h a n).outbox = s.outbox ∧
      ∀ k, k ≠ bufKey (hPool h) (hIndex h) → ((s.setHbuf h b).addHold h a n).buf k = s.buf k := by
  have held := HoldsOnly.addHold (s.setHbuf h b) h a n
  refine ⟨?_, held.outbox, fun k other => (held.apart k other).trans (s.buf_setHbuf_ne b other)⟩
  rw [held.count, State.hbuf_setHbuf_same]

/-- Settles O20: by what each operation on the live handle writes. -/
theorem referencesAndOwnership : Obligations.ReferencesAndOwnership := by
  refine ⟨fun a h s clocked serves sound readable => ⟨fun room => ?_, fun more => ?_, fun last shared nobody => ?_⟩,
    fun a dst h s clocked serves sound readable => ⟨fun named owned kept => ⟨?_, fun unborrowed nobody => ?_, fun borrowed => ?_⟩, fun shared => ?_⟩⟩
  · obtain ⟨count, outbox, apart⟩ := s.addHold_setHbuf h { s.hbuf h with count := (s.hbuf h).count + 1 } a 1
    exact ⟨_, exec_addref_ok clocked serves (State.poolAddref_ok sound readable a room), count, congrArg (· ++ [_]) outbox, apart⟩
  · refine ⟨_, exec_release_ok clocked serves (State.poolRelease_ok sound readable a more), ?_, rfl, rfl, fun k other => s.buf_setHbuf_ne _ other⟩
    rw [State.emit_hbuf, State.hbuf_setHbuf_same, dropHold_count]
  · have record := State.hbuf_setHbuf_same s h (dropHold { s.hbuf h with count := (s.hbuf h).count - 1 } a)
    obtain ⟨freed, listed, apart⟩ := State.bufFree_unsubscribed (by rw [record, dropHold_subs]; exact nobody)
    refine ⟨_, exec_release_ok clocked serves (State.poolRelease_last sound readable a last shared), ?_, ?_, ?_, fun k other => ?_⟩
    · rw [State.emit_hbuf, freed]
    · rw [State.emit_hbuf, freed, record, dropHold_frees]
    · rw [State.emit_pool]; exact listed
    · rw [State.emit_buf, apart k other, State.buf_setHbuf_ne _ _ other]
  · obtain ⟨producer, moved⟩ := State.poolTransfer_named sound readable named owned kept dst
    refine ⟨_, exec_transfer_ok clocked serves moved, ?_, ?_, rfl⟩ <;> rw [State.emit_hbuf, State.hbuf_setHbuf_same]
  · obtain ⟨freed, -⟩ := State.bufFree_unsubscribed nobody
    refine ⟨_, exec_free_ok clocked serves (State.poolFreeOp_unborrowed sound readable named owned kept unborrowed), ?_, ?_⟩ <;>
      rw [State.emit_hbuf, freed]
  · refine ⟨_, exec_free_ok clocked serves (State.poolFreeOp_borrowed sound readable named owned kept borrowed), ?_, ?_, ?_⟩ <;>
      rw [State.emit_hbuf, State.hbuf_setHbuf_same]
  · obtain ⟨producer, moved⟩ := State.poolTransfer_shared sound readable a shared dst
    obtain ⟨count, outbox, -⟩ := s.addHold_setHbuf h { dropHold (s.hbuf h) a with producer := producer } dst 1
    exact ⟨_, exec_transfer_ok clocked serves moved, count.trans (dropHold_count _ _), congrArg (· ++ [_]) outbox⟩

end Sys2Proof.Machine
end

section
/-! Reclaim scans, and the oldest waiter (R340, R343, R344; log entry 18). -/

namespace Sys2Proof.Machine

/-- The pool manager acts on its own while it is clocked and not resetting. -/
theorem State.poolUp_serves {s : State} (clocked : s.clocked = true) (serves : s.busy pgPOOL = false) : s.poolUp = true := by
  rw [State.poolUp, clocked, serves]
  rfl

/-- Without a scan there is none to end. -/
theorem State.scanEnd_none {s : State} {p : Nat} (idle : (s.pool p).scan = none) : s.scanEnd p = s := by
  simp only [State.scanEnd, idle]

/-- The end of an agent's scan: no job completes with it. -/
theorem State.scanEnd_agent {s : State} {p v k : Nat} (scan : (s.pool p).scan = some (v, none, k)) :
    let x := s.reclaimKeys v (!s.poolNamed p) (s.bufKeys.filter fun k => k / 2 ^ 20 == p)
    s.scanEnd p = (x.1.setPool p { x.1.pool p with scan := none }).event pgPOOL 6 := by
  simp only [State.scanEnd, scan]

theorem State.scanStart_idle {s : State} {p : Nat} (on : s.poolOn p = true) (idle : (s.pool p).scan = none) (a v : Nat) (job : Option JobRef) :
    s.scanStart a p v job = s.setPool p { s.pool p with scan := some (v, job, 0) } := by
  simp only [State.scanStart, State.scanEnd_none idle, on, Bool.not_true, Bool.false_eq_true, if_false]

@[simp] theorem State.latch_buf (s : State) (q e k : Nat) : (s.latch q e).buf k = s.buf k := rfl
@[simp] theorem State.latch_pool (s : State) (q e p : Nat) : (s.latch q e).pool p = s.pool p := rfl
@[simp] theorem State.latch_outbox (s : State) (q e : Nat) : (s.latch q e).outbox = s.outbox := rfl

/-- The oldest waiter, an agent, takes the next free buffer, leaves the list and is answered; a hedge's sequencer has its event beside. -/
theorem State.waiterServe_agent {s : State} {p i : Nat} {w : Waiter} {ws : List Waiter} (waits : (s.pool p).waiters = w :: ws) (noJob : w.job = none)
    (noSess : w.sess = none) (next : nextFree s p ((s.pool p).gone + 1) (s.pool p).nextNew = some i) (readable : s.recPoisoned p i = false) :
    ((s.waiterServe p).pool p).waiters = ws ∧ (∀ k, (s.waiterServe p).buf k = (s.bufTake w.agent p i (s.allocHolds p w.agent w.count)).buf k) ∧
      (s.waiterServe p).outbox = s.outbox ++ [.poolHandle w.agent (s.bufHandle p i)] := by
  have outbox := (s.bufTake_taken w.agent p i (s.allocHolds p w.agent w.count)).outbox
  simp only [State.waiterServe, waits, State.poolServe_next next readable _ _ (s.serveFuel_ne_zero p), noJob, noSess, State.poolTell]
  split_ifs <;> simp [outbox]

/-- Settles O22: by what a scan does at its ends, and by what the oldest waiter takes. -/
theorem reclaimsAndWaiters : Obligations.ReclaimsAndWaiters := by
  refine ⟨?_, ?_⟩
  · intro a v pool s p clocked serves
    refine ⟨fun on idle => ?_, fun k scan => ?_⟩
    · exact congrArg Host.Outcome.next ((State.poolFor_serves clocked serves a _).trans (State.scanStart_idle on idle a v none))
    · exact congrArg Host.Outcome.next ((if_pos (State.poolUp_serves clocked serves)).trans (State.scanEnd_agent scan))
  · intro pool w ws i s p clocked serves waits noJob noSess next readable
    obtain ⟨waiters, bufs, outbox⟩ := State.waiterServe_agent waits noJob noSess next readable
    refine ⟨_, congrArg Host.Outcome.next (if_pos (State.poolUp_serves clocked serves)), waiters, ?_, outbox⟩
    rw [bufs, (s.bufTake_taken w.agent p i (s.allocHolds p w.agent w.count)).live]

end Sys2Proof.Machine
end

section
/-! Pools are enabled and stopped (R332, R333, R335, R345), and the lines of a frame buffer advance (R22, R341). -/

namespace Sys2Proof.Machine

/-- No sequencer serves the pages of the pools' registers. -/
theorem State.noted_poolPage (s : State) (who : Who) (pool : PoolId) : s.noted who (poolPage pool.val) = s :=
  State.noted_plain (by unfold poolPage; omega) (by unfold poolPage pgCSW; omega) (by unfold poolPage pgSMB; omega) (by unfold poolPage; omega)

theorem State.access_poolPage {s : State} {who : Who} {pool : PoolId} (served : s.served who (poolPage pool.val) = true) (f : State → State) :
    s.access who (poolPage pool.val) f = (f s).told who := by
  rw [State.access_served served, State.noted_poolPage]

theorem State.told_poolEn (s : State) (who : Who) (p : Nat) : (s.told who).poolEn p = s.poolEn p := s.told_bit who _ _

/-- EN rests on POOL_CFG alone. -/
theorem State.poolEn_setReg_ne (s : State) {a p : Nat} (v : W32) (other : POOL_CFG p ≠ a) : (s.setReg a v).poolEn p = s.poolEn p := s.bit_setReg_ne v 0 other

theorem genNext_lt {g : Nat} (h : g < 64) : genNext g < 64 := by
  unfold genNext
  split <;> omega

/-! POOL_CFG.EN is written 1. -/

section
variable {s : State} {p : Nat} (off : s.poolEn p = false) (idle : s.poolActive p = false)
include off idle

/-- A configuration that passes the checks is enabled at the next generation, with nothing allocated. -/
theorem State.poolStart_passes (passes : s.poolCheck p = 0) :
    (s.poolStart p).poolEn p = true ∧ (s.poolStart p).pool p = { startGen := s.f (POOL_GEN p) 5 0 } ∧
      (s.poolStart p).f (POOL_GEN p) 5 0 = genNext (s.f (POOL_GEN p) 5 0) := by
  have status : (s.setF (POOL_STAT p) 4 2 0).f (POOL_GEN p) 5 0 = s.f (POOL_GEN p) 5 0 := by
    rw [State.f, State.setF, State.reg_setReg_ne _ _ (by unfold POOL_GEN POOL_STAT; omega), State.f]
  have small : s.f (POOL_GEN p) 5 0 < 64 := fld_lt _ _ _
  simp only [State.poolStart, off, idle, passes, Bool.or_self, Bool.false_eq_true, if_false, ne_eq, not_true_eq_false, status]
  refine ⟨State.bit_setB_same _ _ _ (by decide), State.pool_setPool_same _ _ _, ?_⟩
  rw [State.f, State.setB, State.reg_setReg_ne _ _ (by unfold POOL_GEN POOL_CFG; omega), ← State.f, State.f_setF_same _ _ _ _ (by decide)]
  exact Nat.mod_eq_of_lt (genNext_lt small)

/-- One that fails is not enabled, and the event is set. -/
theorem State.poolStart_fails (fails : s.poolCheck p ≠ 0) : (s.poolStart p).poolEn p = false ∧ (s.poolStart p).bit (hEVT pgPOOL) 4 = true := by
  simp only [State.poolStart, off, idle, fails, Bool.or_self, Bool.false_eq_true, if_false, ne_eq, not_false_eq_true, if_true]
  refine ⟨?_, State.bit_setB_same _ _ _ (by decide)⟩
  rw [State.event, State.setB, State.poolEn_setReg_ne _ _ (by unfold POOL_CFG hEVT pgPOOL; omega), State.setF,
    State.poolEn_setReg_ne _ _ (by unfold POOL_CFG POOL_STAT; omega), off]

end

/-! POOL_CFG.EN is written 0. -/

/-- Without waiters nobody receives NONE. -/
theorem State.waitersNone_nil {s : State} {p : Nat} (noWaiters : (s.pool p).waiters = []) : s.waitersNone p = s.setPool p { s.pool p with waiters := [] } := by
  rw [State.waitersNone, noWaiters]
  rfl

/-- The end of a drain is an event of the common page, not of the pool's. -/
theorem State.poolSettle_poolEn (s : State) (p : Nat) : (s.poolSettle p).poolEn p = s.poolEn p :=
  State.poolSettle_keeps (fun t => t.poolEn p) (fun t v => t.poolEn_setReg_ne v (by unfold POOL_CFG hEVT pgPOOL; omega)) (fun _ _ _ => rfl) s p

/-- A pool without waiters that drains: EN is cleared, its buffers stay, and it drains while one is allocated. -/
theorem State.poolStopDrain_spec {s : State} {p : Nat} (noWaiters : (s.pool p).waiters = []) :
    (s.poolStopDrain p).poolEn p = false ∧ ((s.poolStopDrain p).pool p).draining = decide (0 < (s.pool p).live) ∧
      ((s.poolStopDrain p).pool p).live = (s.pool p).live ∧ (s.poolStopDrain p).bufs = s.bufs := by
  have marked := State.pool_setPool_same (s.setB (POOL_CFG p) 0 false) p { (s.setB (POOL_CFG p) 0 false).pool p with draining := true }
  rw [State.poolStopDrain, State.waitersNone_nil (by rw [marked]; exact noWaiters), marked]
  refine ⟨?_, ?_, ?_, ?_⟩
  · rw [State.poolSettle_poolEn]
    exact State.bit_setB_same s (POOL_CFG p) false (by decide)
  · rw [State.poolSettle_pool, State.poolActive, State.pool_setPool_same]
    exact (Bool.true_and _).trans (Bool.or_false _)
  · rw [State.poolSettle_pool, State.pool_setPool_same]
    rfl
  · exact State.poolSettle_keeps State.bufs (fun _ _ => rfl) (fun _ _ _ => rfl) _ p

theorem State.poolStop_enabled {s : State} {p : Nat} (enabled : s.poolEn p = true) (abort : Bool) :
    s.poolStop p abort = if abort then (s.setB (POOL_CFG p) 1 abort).poolStopAbort p else (s.setB (POOL_CFG p) 1 abort).poolStopDrain p :=
  if_pos enabled

/-! The lines of a frame buffer. -/

/-- Waking writes sequencers and the outbox. -/
theorem State.wakeOut_keeps {β : Type} (f : State → β) (hseq : ∀ t q x, f (State.setSeq t q x) = f t) (hemit : ∀ t o, f (State.emit t o) = f t)
    (s : State) (subs : List Nat) (h : W32) (lines : Nat) (complete : Bool) : f (s.wakeOut subs h lines complete) = f s := by
  refine (hemit _ _).trans (State.each_keeps f (fun t a => ?_) subs s)
  split_ifs
  · exact hseq _ _ _
  · exact hseq _ _ _
  · rfl

/-- The producer's advance writes the buffer's record; the subscribers that wait no more are woken. -/
theorem State.linesDone_producer {s : State} {h : W32} {a : Nat} (sound : s.handleErr h = none) (readable : s.recPoisoned (hPool h) (hIndex h) = false)
    (frame : s.poolFrame (hPool h) = true) (producer : (s.hbuf h).producer = some a) (lines : Nat) (complete : Bool)
    {β : Type} (f : State → β) (hseq : ∀ t q x, f (State.setSeq t q x) = f t) (hemit : ∀ t o, f (State.emit t o) = f t) :
    f (s.linesDone a h lines complete) = f (s.setHbuf h { s.hbuf h with
      linesDone := max (s.hbuf h).linesDone lines, complete := (s.hbuf h).complete || complete,
      subs := (s.hbuf h).subs.filter fun x => !(decide (x.2 < max (s.hbuf h).linesDone lines) || complete) }) := by
  have allowed : (!s.poolFrame (hPool h) || (s.hbuf h).producer != some a) = false := by simp [frame, producer]
  simp only [State.linesDone, State.recRead_readable readable, sound, allowed, Bool.false_eq_true, if_false]
  split_ifs
  · rfl
  · exact State.wakeOut_keeps f hseq hemit _ _ _ _ _

/-- Settles O23: by what each write of EN does on the pool's page, and by what the producer's advance writes. -/
theorem poolsEnableAndLines : Obligations.PoolsEnableAndLines := by
  refine ⟨?_, ?_⟩
  · intro who pool s p served
    have start : exec (.poolEnable who pool) s = .next ((s.poolStart p).told who) := congrArg Host.Outcome.next (State.access_poolPage served _)
    have stop (enabled : s.poolEn p = true) (abort : Bool) :=
      (State.access_poolPage served fun s => s.poolStop p abort).trans (congrArg (State.told · who) (State.poolStop_enabled enabled abort))
    refine ⟨fun off idle passes => ?_, fun off idle fails => ?_, fun enabled noWaiters => ?_, fun enabled => ?_⟩
    · obtain ⟨en, started, gen⟩ := State.poolStart_passes off idle passes
      refine ⟨_, start, (State.told_poolEn _ _ _).trans en, ?_, (State.told_f _ _ _ _ _).trans gen, ?_⟩ <;> rw [State.told_pool, started]
    · obtain ⟨en, event⟩ := State.poolStart_fails off idle fails
      exact ⟨_, start, (State.told_poolEn _ _ _).trans en, (State.told_bit _ _ _ _).trans event⟩
    · obtain ⟨en, draining, live, bufs⟩ := State.poolStopDrain_spec (s := s.setB (POOL_CFG p) 1 false) noWaiters
      refine ⟨_, congrArg Host.Outcome.next (stop enabled false), (State.told_poolEn _ _ _).trans en, ?_, ?_, (State.told_bufs _ _).trans bufs⟩
      · exact (congrArg Pool.draining (State.told_pool _ _ _)).trans draining
      · exact (congrArg Pool.live (State.told_pool _ _ _)).trans live
    · rw [State.noted_poolPage]
      exact congrArg Host.Outcome.next (stop enabled true)
  · intro a h lines done s clocked serves sound readable frame producer
    have advance {β : Type} := State.linesDone_producer sound readable frame producer lines done (β := β)
    have record := (advance (fun t => t.hbuf h) (fun _ _ _ => rfl) fun _ _ => rfl).trans (State.hbuf_setHbuf_same s h _)
    refine ⟨_, congrArg Host.Outcome.next (State.poolFor_serves clocked serves a _), ?_, ?_, ?_, advance State.regs (fun _ _ _ => rfl) fun _ _ => rfl⟩ <;>
      rw [record]

end Sys2Proof.Machine
end

section
/-! The address map of HBM is one to one (R350, R351): a place of a pseudo-channel is that of its address. -/

namespace Sys2Proof.Machine

/-- In a row of 128 granules each pseudo-channel has one, found by the hash of the row's first. -/
theorem pcx7_granule {g p : Nat} (row : g % 128 = 0) (hp : p < 128) : (p ^^^ pcx7 g) < 128 ∧ pcx7 (g + (p ^^^ pcx7 g)) = p := by
  have inRow : (p ^^^ pcx7 g) < 128 := Nat.xor_lt_two_pow (n := 7) hp (Nat.mod_lt _ (by decide))
  have hash := pcx7_xor (g + (p ^^^ pcx7 g))
  rw [show (g + (p ^^^ pcx7 g)) / 128 * 128 = g by omega, show (g + (p ^^^ pcx7 g)) % 128 = p ^^^ pcx7 g by omega] at hash
  exact ⟨inRow, Nat.xor_left_injective hash⟩

/-- In a row of 32 granules of an affine region each pseudo-channel of the stack has one. -/
theorem pcx5_granule {g p : Nat} (row : g % 32 = 0) (hp : p < 32) : (p ^^^ pcx5 g) < 32 ∧ pcx5 (g + (p ^^^ pcx5 g)) = p := by
  have inRow : (p ^^^ pcx5 g) < 32 := Nat.xor_lt_two_pow (n := 5) hp (pcx5_lt g)
  have hash := pcx5_xor (g + (p ^^^ pcx5 g))
  rw [show (g + (p ^^^ pcx5 g)) / 32 * 32 = g by omega, show (g + (p ^^^ pcx5 g)) % 32 = p ^^^ pcx5 g by omega] at hash
  exact ⟨inRow, Nat.xor_left_injective hash⟩

/-- A place below the affine regions. -/
theorem hbmPlace_hbmAddr_low {c aff p off : Nat} (hp : p < 128) (low : off < (c - aff) * GiB / 32) :
    hbmAddr c aff p off < 4 * (c - aff) * GiB ∧ hbmPlace c aff (hbmAddr c aff p off) = (p, off) := by
  obtain ⟨inRow, channel⟩ := pcx7_granule (g := off / 256 * 128) (Nat.mul_mod_left _ _) hp
  have below : hbmAddr c aff p off < 4 * (c - aff) * GiB := by
    rw [hbmAddr, if_pos low]
    simp only [GiB] at low ⊢
    omega
  refine ⟨below, ?_⟩
  rw [hbmPlace_of_lt below, hbmAddr, if_pos low]
  generalize hx : p ^^^ pcx7 (off / 256 * 128) = x at inRow channel
  have granule : ((off / 256 * 128 + x) * 256 + off % 256) / 256 = off / 256 * 128 + x := by omega
  simp only [hx, granule, channel, Prod.mk.injEq, true_and]
  omega

/-- A granule's byte in the `k`-th of the affine regions: its region, its distance from the region's start, its granule, and its byte. -/
theorem affine_split {k g b size : Nat} (within : g * 256 + b < size) (hb : b < 256) (aligned : size % 256 = 0) :
    (k * size + (g * 256 + b)) / size = k ∧ (k * size + (g * 256 + b)) % size = g * 256 + b ∧ (g * 256 + b) / 256 = g ∧
      (k * size + (g * 256 + b)) % 256 = b := by
  have regions : k * size % 256 = 0 := by rw [Nat.mul_mod, aligned, Nat.mul_zero, Nat.zero_mod]
  refine ⟨?_, ?_, by omega, by omega⟩
  · rw [Nat.mul_comm, Nat.mul_add_div (by omega), Nat.div_eq_of_lt within, Nat.add_zero]
  · rw [Nat.mul_comm, Nat.mul_add_mod, Nat.mod_eq_of_lt within]

/-- A place in the affine region of its stack, by its distance `d` from the region's start. -/
theorem hbmPlace_hbmAddr_affine {c aff p d : Nat} (hp : p < 128) (map : aff ≤ c) (inside : (c - aff) * GiB / 32 + d < c * GiB / 32) :
    hbmAddr c aff p ((c - aff) * GiB / 32 + d) < 4 * c * GiB ∧
      hbmPlace c aff (hbmAddr c aff p ((c - aff) * GiB / 32 + d)) = (p, (c - aff) * GiB / 32 + d) := by
  obtain ⟨inRow, channel⟩ := pcx5_granule (g := d / 256 * 32) (p := p % 32) (Nat.mul_mod_left _ _) (Nat.mod_lt _ (by decide))
  have cut : ((c - aff) * GiB / 32 + d) % 256 = d % 256 := by simp only [GiB]; omega
  have total : 4 * (c - aff) * GiB + 4 * (aff * GiB) = 4 * c * GiB := by simp only [GiB]; omega
  have aligned : aff * GiB % 256 = 0 := by simp only [GiB]; omega
  have within : (d / 256 * 32 + (p % 32 ^^^ pcx5 (d / 256 * 32))) * 256 + d % 256 < aff * GiB := by simp only [GiB] at inside ⊢; omega
  have regions : p / 32 * (aff * GiB) ≤ 3 * (aff * GiB) := Nat.mul_le_mul_right _ (by omega)
  obtain ⟨region, rest, granule, byte⟩ := affine_split (k := p / 32) within (Nat.mod_lt _ (by decide)) aligned
  rw [hbmAddr, if_neg (Nat.not_lt.mpr (Nat.le_add_right _ _)), Nat.add_sub_cancel_left, cut]
  simp only [Nat.add_assoc, hbmPlace_of_ge, region, rest, granule, channel, byte, Prod.mk.injEq]
  omega

/-- Settles O36: an address is found again from its place, and a place, below the affine regions or in one, from its address. -/
theorem addressMapOneToOne : Obligations.AddressMapOneToOne := by
  intro c aff _ map
  refine ⟨fun a inside => ⟨(hbmPlace_bounds inside).1, hbmPlace_snd_lt map inside, hbmAddr_hbmPlace inside⟩, fun p off hp inside => ?_⟩
  by_cases low : off < (c - aff) * GiB / 32
  · obtain ⟨below, place⟩ := hbmPlace_hbmAddr_low hp low
    have affine : 4 * (c - aff) * GiB ≤ 4 * c * GiB := Nat.mul_le_mul_right _ (Nat.mul_le_mul_left _ (Nat.sub_le _ _))
    exact ⟨below.trans_le affine, place⟩
  · obtain ⟨d, rfl⟩ := Nat.exists_eq_add_of_le (Nat.le_of_not_lt low)
    exact hbmPlace_hbmAddr_affine hp map inside

end Sys2Proof.Machine
end

section
/-! The phases of a microword (R384 to R390, R393, R396; log entries 7, 15, 54, 55): what each leaves of the word, and what its end writes. -/

namespace Sys2Proof.Machine

/-! The word's start and its ALU. -/

theorem alu_isSome {op : Nat} (h : op < 0x10) (a b : W32) (ci : Bool) (ox : W32) (oc ov : Bool) : (alu op a b ci ox oc ov).isSome = true := by
  unfold alu
  interval_cases op <;> rfl

theorem State.aluOp_lt {s : State} {q : Nat} (sound : s.wordFault q = none) : mwAluOp (s.word q) < 0x10 := by
  by_contra high
  rw [State.wordFault, if_pos (Or.inl (Nat.le_of_not_lt high))] at sound
  exact Option.some_ne_none _ sound

/-- The sequencer with its word's ALU done (R386): the result and what the word writes wait inside the word. -/
def State.aluDone (s : State) (q : Nat) (o : AluOut) : Seqr :=
  { s.seq q with
    phase := 1, x := o.x, cond := s.condNow q, newRefused := false, lcWrite := o.lc,
    newFlags := if mwFlg (s.word q) then some (o.flags.z, o.flags.n, o.flags.c, o.flags.v) else none,
    dstWrite := if mwWrDst (s.word q) && !o.flagsOnly then some o.x else none }

theorem State.wordAlu_past {s : State} {q : Nat} (past : (s.seq q).phase ≠ 0) : s.wordAlu q = s := if_pos past

theorem State.wordAlu_done {s : State} {q : Nat} {o : AluOut} (start : (s.seq q).phase = 0) (sound : s.wordFault q = none)
    (result : alu (mwAluOp (s.word q)) ((s.seq q).reg (mwSrcA (s.word q))) ((s.seq q).operandB (s.word q)) (s.seq q).c s.freeWord
      (Config.freeBool (s.fresh + 1)) (Config.freeBool (s.fresh + 2)) = some o) :
    s.wordAlu q = ({ s with fresh := s.fresh + 4 } : State).setSeq q (s.aluDone q o) := by
  simp only [State.wordAlu, start, ne_eq, not_true_eq_false, if_false, sound, result]
  rfl

/-- A word that does not fault has a result. -/
theorem State.wordAlu_exists {s : State} {q : Nat} (start : (s.seq q).phase = 0) (sound : s.wordFault q = none) :
    ∃ o, s.wordAlu q = ({ s with fresh := s.fresh + 4 } : State).setSeq q (s.aluDone q o) := by
  obtain ⟨o, result⟩ := Option.isSome_iff_exists.mp (alu_isSome (State.aluOp_lt sound) ((s.seq q).reg (mwSrcA (s.word q)))
    ((s.seq q).operandB (s.word q)) (s.seq q).c s.freeWord (Config.freeBool (s.fresh + 1)) (Config.freeBool (s.fresh + 2)))
  exact ⟨o, State.wordAlu_done start sound result⟩

theorem State.wordAlu_hbm {s : State} {q : Nat} (sound : s.wordFault q = none) : (s.wordAlu q).hbm = s.hbm := by
  by_cases start : (s.seq q).phase = 0
  · obtain ⟨o, done⟩ := State.wordAlu_exists start sound
    rw [done]
    rfl
  · rw [State.wordAlu_past start]

/-- The word at a sequencer's pc rests on its active bank and its pc. -/
theorem State.word_setSeq (s : State) (q : Nat) (y : Seqr) : (s.setSeq q y).word q = bankWord q y.active y.pc := by
  rw [State.word, State.seq_setSeq_same]

/-- Before its unit operation the ALU of a word that does not fault is done, and the word is the same. -/
theorem State.wordAlu_ready {s : State} {q : Nat} (early : (s.seq q).phase = 0 ∨ (s.seq q).phase = 1) (sound : s.wordFault q = none) :
    ((s.wordAlu q).seq q).phase = 1 ∧ (s.wordAlu q).word q = s.word q := by
  rcases early with start | done
  · obtain ⟨o, done⟩ := State.wordAlu_exists start sound
    rw [done, State.seq_setSeq_same, State.word_setSeq]
    exact ⟨rfl, rfl⟩
  · rw [State.wordAlu_past (by omega)]
    exact ⟨done, rfl⟩

/-! The unit operation and the commit. -/

theorem State.unitPhase_run {s : State} {q : Nat} (due : (s.seq q).phase = 1) (f : State → Nat → State) :
    s.unitPhase q f = f (s.setSeq q { s.seq q with phase := 2, lastUnit := (mwUnitOp (s.word q), mwUnitArg (s.word q)) }) q :=
  if_neg (not_not.mpr due)

theorem State.wordUnit_none {s : State} {q : Nat} (due : (s.seq q).phase = 1) (none : mwUnitOp (s.word q) = 0) :
    s.wordUnit q = s.setSeq q { s.seq q with phase := 2, lastUnit := (0, mwUnitArg (s.word q)) } := by
  rw [State.wordUnit, State.unitPhase_run due, State.word_setSeq, none]
  exact congrArg _ none

theorem State.wordCommit_none {s : State} {q : Nat} (due : (s.seq q).phase = 2) (answered : (s.seq q).busWait = false)
    (none : mwCommit (s.word q) = false) : s.wordCommit q = s.setSeq q { s.seq q with phase := 3 } := by
  simp only [State.wordCommit, due, answered, none, ne_eq, not_true_eq_false, Bool.false_eq_true, decide_false, Bool.or_self, if_false]

/-! The end of a word. -/

theorem State.wordEnd_ends {s u : State} {q kind : Nat} (ready : s.seqReady q = true) (seq : mwSeq (s.word q) = kind)
    (done : ((s.wordAlu q).wordUnit q).wordCommit q = u) (committed : (u.seq q).phase = 3) (fits : (u.seq q).overrun (s.word q) = false)
    (watch : mwYield (s.word q) = true ∨ (u.seq q).wdog + mwCyc (s.word q) + 1 < 65536) (f : Seqr → W128 → W32 → Seqr) :
    s.wordEnd q kind f = u.draw.setSeq q (f (u.seq q) (s.word q) u.freeWord) := by
  have inTime : (!mwYield (s.word q) && decide (65536 ≤ (u.seq q).wdog + mwCyc (s.word q) + 1)) = false := by
    rcases watch with yields | counted
    · rw [yields]; rfl
    · rw [decide_eq_false (by omega), Bool.and_false]
  simp only [State.wordEnd, ready, seq, done, committed, fits, inTime, bne_self_eq_false, Bool.not_true, Bool.or_self, Bool.false_eq_true, ne_eq,
    not_true_eq_false, if_false]

/-- What the end of a word writes: the flags, DST and the loop counter that wait in it, and the sequencer is at the start of the next. -/
theorem Seqr.toPc_eq (x : Seqr) (w : W128) (pc : Nat) : x.toPc w pc =
    { x with
      z := (x.newFlags.getD (x.z, x.n, x.c, x.v)).1, n := (x.newFlags.getD (x.z, x.n, x.c, x.v)).2.1,
      c := (x.newFlags.getD (x.z, x.n, x.c, x.v)).2.2.1, v := (x.newFlags.getD (x.z, x.n, x.c, x.v)).2.2.2,
      g := (x.dstWrite.elim x fun d => x.setG (mwDst w) d).g, lc := (x.lcWrite.elim x fun d => x.setCounter (mwLoopSel w) d).lc,
      newFlags := none, dstWrite := none, lcWrite := none, regRefused := x.newRefused, newRefused := false, phase := 0, run := 1,
      yielded := mwYield w, wdog := if mwYield w then 0 else x.wdog + mwCyc w + 1, pc := pc } := by
  unfold Seqr.toPc
  cases flags : x.newFlags <;> cases dst : x.dstWrite <;> cases lc : x.lcWrite <;> simp only [Seqr.setG, Seqr.setCounter, dst, lc] <;> rfl

theorem Seqr.toPc_reg (x : Seqr) (w : W128) (pc i : Nat) :
    (x.toPc w pc).reg i = x.dstWrite.elim (x.reg i) fun d => if i % 64 = mwDst w % 64 then d else x.reg i := by
  rw [Seqr.toPc_eq]
  cases dst : x.dstWrite with
  | none => rfl
  | some d => exact tabGet_put _ _ _ _ _

theorem Seqr.toPc_counter (x : Seqr) (w : W128) (pc i : Nat) :
    (x.toPc w pc).counter i = x.lcWrite.elim (x.counter i) fun d => if i = mwLoopSel w then d else x.counter i := by
  rw [Seqr.toPc_eq]
  cases lc : x.lcWrite with
  | none => rfl
  | some d => exact tabGet_put _ _ _ _ _

/-- A word without unit operation and commit, from its start to its end's door: only the sequencer itself changes, and it holds the ALU's result. -/
theorem State.word_plain {s : State} {q : Nat} {o : AluOut} (start : (s.seq q).phase = 0) (sound : s.wordFault q = none) (noUnit : mwUnitOp (s.word q) = 0)
    (noCommit : mwCommit (s.word q) = false) (answered : (s.seq q).busWait = false)
    (result : alu (mwAluOp (s.word q)) ((s.seq q).reg (mwSrcA (s.word q))) ((s.seq q).operandB (s.word q)) (s.seq q).c s.freeWord
      (Config.freeBool (s.fresh + 1)) (Config.freeBool (s.fresh + 2)) = some o) :
    ∃ u, ((s.wordAlu q).wordUnit q).wordCommit q = u ∧ u.seq q = { s.aluDone q o with phase := 3, lastUnit := (0, mwUnitArg (s.word q)) } ∧
      (∀ j, j ≠ q → u.seq j = s.seq j) ∧ ∃ seqs, u = { s with fresh := s.fresh + 4, seqs := seqs } := by
  have same : (({ s with fresh := s.fresh + 4 } : State).setSeq q (s.aluDone q o)).word q = s.word q := State.word_setSeq _ _ _
  have run := State.wordUnit_none (s := ({ s with fresh := s.fresh + 4 } : State).setSeq q (s.aluDone q o)) (q := q)
    (by rw [State.seq_setSeq_same]; rfl) (by rw [same, noUnit])
  rw [State.seq_setSeq_same, same] at run
  have phase := State.seq_setSeq_same (({ s with fresh := s.fresh + 4 } : State).setSeq q (s.aluDone q o)) q
    { s.aluDone q o with phase := 2, lastUnit := (0, mwUnitArg (s.word q)) }
  rw [State.wordAlu_done start sound result, run,
    State.wordCommit_none (by rw [phase]) (by rw [phase]; exact answered) (by rw [State.word_setSeq]; exact noCommit), phase]
  exact ⟨_, rfl, State.seq_setSeq_same _ _ _,
    fun j other => (State.seq_setSeq_ne _ _ _ other).trans ((State.seq_setSeq_ne _ _ _ other).trans (State.seq_setSeq_ne _ _ _ other)), _, rfl⟩

theorem Seqr.overrun_of_seq {x : Seqr} {w : W128} (other : mwSeq w ≠ 6) : x.overrun w = false := by
  unfold Seqr.overrun
  cases x.work with
  | nil => rfl
  | cons o rest => simp [other]

/-- Settles O46: the word's ALU leaves its result inside the sequencer, and the word's end writes it. -/
theorem wordEffects : Obligations.WordEffects := by
  intro q s o k w x ready start sound next noUnit noCommit answered watch result
  obtain ⟨u, done, mine, others, seqs, rest⟩ := State.word_plain start sound noUnit noCommit answered result
  have ends := State.wordEnd_ends ready next done (by rw [mine]) (Seqr.overrun_of_seq (next.trans_ne (by decide))) (by rw [mine]; exact watch) fun x w _ => x.toPc w (x.pc + 1)
  have now : (u.draw.setSeq k ((u.seq k).toPc w ((u.seq k).pc + 1))).seq k = (u.seq k).toPc w ((u.seq k).pc + 1) := State.seq_setSeq_same _ _ _
  have dst : (u.seq k).dstWrite = if mwWrDst w && !o.flagsOnly then some o.x else none := by rw [mine]; rfl
  have flags : (u.seq k).newFlags = if mwFlg w then some (o.flags.z, o.flags.n, o.flags.c, o.flags.v) else none := by rw [mine]; rfl
  have load : (u.seq k).lcWrite = o.lc := by rw [mine]; rfl
  have kept : (u.seq k).reg = x.reg ∧ (u.seq k).counter = x.counter ∧ ((u.seq k).z, (u.seq k).n, (u.seq k).c, (u.seq k).v) = (x.z, x.n, x.c, x.v) ∧
      (u.seq k).pc = x.pc ∧ (u.seq k).stack = x.stack ∧ (u.seq k).inEvent = x.inEvent ∧ (u.seq k).pend = x.pend ∧ (u.seq k).shadow = x.shadow := by
    rw [mine]
    exact ⟨rfl, rfl, rfl, rfl, rfl, rfl, rfl, rfl⟩
  obtain ⟨reg, counter, was, pc, stack, inEvent, pend, shadow⟩ := kept
  refine ⟨_, congrArg Host.Outcome.next ends, ?_, ?_, fun i low => ?_, ?_, fun i => ?_, ?_, ?_, ?_, ?_, by rw [rest]; rfl, by rw [rest]; rfl,
    by rw [rest]; rfl, by rw [rest]; rfl, fun j other => (State.seq_setSeq_ne _ _ _ other).trans (others j other)⟩ <;> rw [now]
  · rw [Seqr.toPc_eq, pc]
  · rw [Seqr.toPc_eq]
  · rw [Seqr.toPc_reg, Nat.mod_eq_of_lt low, Nat.mod_eq_of_lt (show mwDst w < 64 from Nat.mod_lt _ (by decide)), dst, reg]
    cases mwWrDst w <;> cases o.flagsOnly <;> simp
  · rw [Seqr.toPc_eq, flags, was]
    cases mwFlg w <;> rfl
  · rw [Seqr.toPc_counter, load, counter]
    cases o.lc <;> rfl
  · rw [Seqr.toPc_eq, stack]
  · rw [Seqr.toPc_eq, inEvent]
  · rw [Seqr.toPc_eq, pend]
  · rw [Seqr.toPc_eq, shadow]

/-- An event exit leaves the main line, with an empty stack where a routine ran. -/
theorem Seqr.eventExit_spec (x : Seqr) : x.eventExit.pc = x.pc ∧ x.eventExit.inEvent = false ∧ x.eventExit.stack = if x.inEvent then [] else x.stack := by
  unfold Seqr.eventExit
  cases event : x.inEvent
  · exact ⟨rfl, event, rfl⟩
  · exact ⟨rfl, rfl, rfl⟩

/-- Settles O45: the end of each word by its SEQ field, on the sequencer as its commit leaves it. -/
theorem wordEnds : Obligations.WordEnds := by
  intro q s k w u x c ends ready committed fits watch
  have ended {kind : Nat} (seq : mwSeq w = kind) (f : Seqr → W128 → W32 → Seqr) : s.wordEnd k kind f = u.draw.setSeq k (f x w u.freeWord) :=
    State.wordEnd_ends ready seq rfl committed fits watch f
  have last (y : Seqr) : (u.draw.setSeq k y).seq k = y := State.seq_setSeq_same _ _ _
  refine ⟨fun seq => ?_, fun seq => ?_, fun seq => ?_, fun seq => ⟨fun cond => ?_, fun cond => ?_⟩,
    fun seq => ⟨fun cond low => ?_, fun a rest cond main pop => ?_, fun cond event depth => ?_⟩, fun seq => ⟨fun zero => ?_, fun more load => ?_⟩,
    fun seq => ⟨fun o rest work => ?_, fun empty => ?_⟩, fun seq => ?_⟩
  · exact congrArg Host.Outcome.next (ended seq _)
  · exact congrArg Host.Outcome.next (ended seq _)
  · exact congrArg Host.Outcome.next (ended seq _)
  · exact congrArg Host.Outcome.next ((ended seq _).trans (by rw [if_pos cond]))
  · exact congrArg Host.Outcome.next ((ended seq _).trans (by rw [if_neg (by simp [cond])]))
  · exact congrArg Host.Outcome.next ((ended seq _).trans (by rw [if_neg (by simp [cond]), seqNextPc, if_pos low]))
  · exact congrArg Host.Outcome.next ((ended seq _).trans (by simp only [cond, Seqr.returned, main, pop, Bool.false_eq_true, false_and, if_true, if_false]))
  · refine ⟨_, congrArg Host.Outcome.next (ended seq _), ?_⟩
    have back : x.inEvent = true ∧ x.stack.length = x.depthE := ⟨event, depth⟩
    simp only [last, cond, if_true, Seqr.returned, if_pos back, Seqr.toPc_eq, true_and]
    rfl
  · exact congrArg Host.Outcome.next ((ended seq _).trans (by simp only [Seqr.looped, zero, if_true]))
  · exact congrArg Host.Outcome.next ((ended seq _).trans (by simp only [Seqr.looped, more, load, if_false, Option.isSome_none, Bool.false_eq_true]; rfl))
  · refine ⟨_, congrArg Host.Outcome.next (ended seq _), ?_⟩
    obtain ⟨pc, main, stack⟩ := (x.toPc w (mwTarget w + o.toNat)).eventExit_spec
    simp only [last, Seqr.dispatched, work]
    exact ⟨pc, trivial, main, stack.trans (by rw [Seqr.toPc_eq])⟩
  · refine ⟨_, congrArg Host.Outcome.next (ended seq _), ?_⟩
    simp only [last, Seqr.dispatched, empty]
    exact ⟨(x.toPc w x.pc).eventExit_spec.1, trivial, trivial⟩
  · refine ⟨_, congrArg Host.Outcome.next (ended seq _), ?_⟩
    rw [last]
    obtain ⟨-, main, -⟩ := (x.toPc w x.pc).eventExit_spec
    exact ⟨rfl, main⟩

end Sys2Proof.Machine
end

section
/-! The unit operations of a microword and its commit (R386, R389, R394; log entries 52, 53, 56, 58, 59). -/

namespace Sys2Proof.Machine

/-! The poison that a read finds (R364, R365, R539). -/

/-- The tags of the sectors, and the injection that waits. -/
def State.tagView (s : State) : Tab Bool × Option (Nat × Nat × Option Nat) := (s.poison, s.inject)

theorem State.poisoned_congr {s t : State} (mem : t.memView = s.memView) (tags : t.tagView = s.tagView) (a n : Nat) : t.poisoned a n = s.poisoned a n := by
  simp only [State.tagView, Prod.mk.injEq] at tags
  obtain ⟨poison, inject⟩ := tags
  have cell := State.cell_congr mem
  simp only [State.memView, Prod.mk.injEq] at mem
  obtain ⟨-, seed, -, variant, -, -⟩ := mem
  have default : t.poisonDefault = s.poisonDefault := by funext k; simp only [State.poisonDefault, State.stackGiB, seed, variant]
  have at_ : t.poisonAt = s.poisonAt := by funext x; simp only [State.poisonAt, State.flipped, cell, poison, inject, default]
  rw [State.poisoned, State.poisoned, at_]

theorem State.tagView_whenB (s : State) (c : Bool) {f : State → State} (hf : ∀ t, (f t).tagView = t.tagView) : (s.whenB c f).tagView = s.tagView := by
  cases c
  · rfl
  · exact hf s

theorem State.tagView_setReg (s : State) (a : Nat) (v : W32) : (s.setReg a v).tagView = s.tagView := rfl
theorem State.tagView_setPch (s : State) (c : Nat) (x : Pch) : (s.setPch c x).tagView = s.tagView := rfl

theorem State.tagView_queuePlace (s : State) (write : Bool) (sector : Nat) : (s.queuePlace write sector).tagView = s.tagView := by
  refine (State.tagView_whenB _ _ fun t => ?_).trans (s.tagView_setPch _ _)
  rw [State.inc_eq, State.tagView_setReg]

theorem State.tagView_queueRange (s : State) (write : Bool) (a n : Nat) : (s.queueRange write a n).tagView = s.tagView :=
  State.each_keeps State.tagView (fun t _ => t.tagView_queuePlace write _) _ s

/-- Where no injection waits a read leaves the tags. -/
theorem State.tagView_hbmRead {s : State} (calm : s.inject = none) (a n : Nat) : (s.hbmRead a n).tagView = s.tagView := by
  rw [State.hbmRead, State.injectFire, calm]
  refine State.each_keeps State.tagView (fun t b => ?_) _ s
  simp only
  split <;> rfl

/-- A word of HBM on the network: answered with its bytes, marked where a sector of them is poisoned; no byte changes. -/
theorem State.nocRead_hbm {s : State} {a n : Nat} (inside : s.inHbm a n = true) (calm : s.inject = none) :
    (s.nocRead a n).1.memView = s.memView ∧ (s.nocRead a n).2 = (if s.poisoned a n then .okPoison else .ok, s.hbmBytes a n) := by
  have mem : ((s.queueRange false a n).hbmRead a n).memView = s.memView := by simp
  have queued := s.tagView_queueRange false a n
  have tags : ((s.queueRange false a n).hbmRead a n).tagView = s.tagView :=
    (State.tagView_hbmRead ((congrArg Prod.snd queued).trans calm) a n).trans queued
  rw [State.nocRead, if_pos inside]
  exact ⟨mem, by simp only [State.poisoned_congr mem tags]⟩

/-- The answer of a read that has data. -/
theorem State.busAnswer_data (s : State) (q : Nat) (poisoned : Bool) (bs : List Byte) :
    s.busAnswer q true (if poisoned then .okPoison else .ok) bs =
      s.setSeq q { s.seq q with busWait := false, busAbort := false, busPoison := poisoned, busData := BitVec.ofNat 32 (leNat bs) } := by
  cases poisoned <;> rfl

/-! The word's unit operation. -/

/-- The state in which the unit operation of a word acts: its ALU is done. -/
def State.unitStart (s : State) (q : Nat) : State :=
  (s.wordAlu q).setSeq q { (s.wordAlu q).seq q with phase := 2, lastUnit := (mwUnitOp (s.word q), mwUnitArg (s.word q)) }

section
variable {s : State} {q : Nat} (sound : s.wordFault q = none) (early : (s.seq q).phase = 0 ∨ (s.seq q).phase = 1)
include sound early

theorem State.word_unitStart : (s.unitStart q).word q = s.word q := by
  obtain ⟨-, word⟩ := State.wordAlu_ready early sound
  rw [State.unitStart, State.word_setSeq]
  exact word

theorem State.unitCommand_runs (ready : s.seqReady q = true) {op : Nat} (names : mwUnitOp (s.word q) = op) (f : State → Nat → State) :
    s.unitCommand q op f = f (s.unitStart q) q := by
  obtain ⟨phase, word⟩ := State.wordAlu_ready early sound
  have due : decide ((s.seq q).phase < 2) = true := decide_eq_true (by omega)
  rw [State.unitCommand, ready, names, due, beq_self_eq_true, Bool.and_self, Bool.and_self, if_pos rfl, State.unitPhase_run phase, word]
  rfl

end

/-- The commit of a word whose unit operation is done. -/
theorem exec_commit_due {s : State} {q : SeqId} (ready : s.seqReady q.val = true) (due : (s.seq q.val).phase = 2) (answered : (s.seq q.val).busWait = false)
    (commits : mwCommit (s.word q.val) = true) :
    exec (.commit q) s = .next ((s.publishAll q.val).setSeq q.val { (s.publishAll q.val).seq q.val with phase := 3 }) := by
  have alu : s.wordAlu q.val = s := State.wordAlu_past (by omega)
  have unit : s.wordUnit q.val = s := if_pos (by omega)
  have commit : s.wordCommit q.val = (s.publishAll q.val).setSeq q.val { (s.publishAll q.val).seq q.val with phase := 3 } := by
    simp only [State.wordCommit, due, answered, commits, ne_eq, not_true_eq_false, Bool.false_eq_true, decide_false, Bool.or_self, if_false, if_true]
  refine congrArg Host.Outcome.next ?_
  rw [ready, commits, Bool.and_self, if_pos rfl, alu, unit, commit]

/-- Settles O47: a unit command runs the word's own operation in the state after its ALU, where the word is still the same. -/
theorem unitOperations : Obligations.UnitOperations := by
  intro q s k w op arg a v x d ready sound
  refine ⟨fun _ => congrArg Host.Outcome.next (if_pos ready), fun due answered commits => exec_commit_due ready due answered commits, fun early => ?_⟩
  have word : v.word k = w := State.word_unitStart sound early
  have runs {n : Nat} (names : op = n) (f : State → Nat → State) : s.unitCommand k n f = f v k := State.unitCommand_runs sound early ready names f
  refine ⟨fun names => ⟨congrArg Host.Outcome.next (runs names _), fun g place inside calm => ?_⟩, fun names => congrArg Host.Outcome.next (runs names _),
    fun names => ⟨congrArg Host.Outcome.next (runs names _), fun y shadow => ?_⟩, fun names => ?_, fun names => ?_, fun names => congrArg Host.Outcome.next (runs names _),
    fun names => ?_, fun names => ?_, fun names => ?_, fun names => congrArg Host.Outcome.next (runs names _), fun names => congrArg Host.Outcome.next (runs names _),
    fun names => ?_, fun names => congrArg Host.Outcome.next (runs names _)⟩
  · obtain ⟨mem, answer⟩ := State.nocRead_hbm inside calm
    have read : v.unitBusRd k = (v.nocRead g 4).1.busAnswer k true (if v.poisoned g 4 then .okPoison else .ok) (v.hbmBytes g 4) := by
      have local_ : v.busPlace ((v.seq k).regPair (mwUnitArg (v.word k) % 64)) = .loc g := by rw [word]; exact place
      simp only [State.unitBusRd, local_, answer]
    rw [State.busAnswer_data] at read
    refine ⟨_, congrArg Host.Outcome.next ((runs names _).trans read), ?_, ?_, ?_, ?_⟩
    · rw [State.seq_setSeq_same]
    · rw [State.seq_setSeq_same]
    · rw [State.seq_setSeq_same]
    · exact (State.setSeq_hbm _ _ _).trans ((State.memView_eq mem).1.trans (State.wordAlu_hbm sound))
  · rw [exec, execRegRd, runs names, State.unitRegRd, word, shadow]
  · rw [exec, execRegWr, runs names, State.unitRegWr, word]
  · rw [exec, execEvtMask, runs names, State.unitEvtMask, word]
  · rw [exec, execTimer, runs names, State.unitTimer, word]
  · rw [exec, execStageStart, runs names, State.unitStage, word]
  · rw [exec, execSqWrite, runs names, State.unitSqWrite, word]
  · rw [exec, execBitsPut, runs names, State.unitBitsPut, word, Nat.add_sub_cancel]

end Sys2Proof.Machine
end

section
/-! Events, timers, stages and the watchdog of a sequencer (R389, R391, R392, R396; log entries 54, 57). -/

namespace Sys2Proof.Machine

/-- The event due is the lowest that is latched and enabled, and no event routine runs. -/
theorem Seqr.due_spec {x : Seqr} {e : Nat} (due : x.due = some e) :
    e < 16 ∧ (x.pend &&& x.enable).getLsbD e = true ∧ ∀ i, i < e → (x.pend &&& x.enable).getLsbD i = false := by
  unfold Seqr.due at due
  split at due
  · exact absurd due.symm (Option.some_ne_none e)
  · obtain ⟨-, inRange, latched, below⟩ := find?_span due
    exact ⟨by omega, latched, fun i low => below i (Nat.zero_le i) low⟩

theorem Seqr.due_inEvent {x : Seqr} (routine : x.inEvent = true) : x.due = none := by
  rw [Seqr.due, routine]
  rfl

/-- The latch of event `e` clears, and no other. -/
theorem getLsbD_clear (w : BitVec 16) {e i : Nat} (hi : i < 16) : (w &&& ~~~BitVec.ofNat 16 (1 <<< e)).getLsbD i = (w.getLsbD i && i != e) := by
  have bit : (BitVec.ofNat 16 (1 <<< e)).getLsbD i = decide (e = i) := by
    rw [BitVec.getLsbD_ofNat, Nat.one_shiftLeft, Nat.testBit_two_pow, decide_eq_true hi, Bool.true_and]
  rw [BitVec.getLsbD_and, BitVec.getLsbD_not, bit, decide_eq_true hi, Bool.true_and]
  by_cases same : e = i <;> simp [same, Ne.symm]

theorem exec_eventTaken_due {q : SeqId} {s : State} {e : Nat} (live : s.seqLive q.val = true) (due : (s.seq q.val).due = some e) :
    exec (.eventTaken q) s = .next (s.eventTake q.val e) := by
  refine congrArg Host.Outcome.next ?_
  simp only [due, live, if_true]

/-- Settles O48: an event due is taken at its vector; a timer, a stage and the watchdog act on a live sequencer. -/
theorem sequencerEvents : Obligations.SequencerEvents := by
  intro s
  refine ⟨fun q e live due => ⟨⟨_, exec_eventTaken_due live due, ?_⟩, Seqr.due_spec due⟩, fun q none => ?_, fun q live armed => ?_, fun c stage live => ?_,
    fun q live runs => ?_⟩
  · rw [State.eventTake, State.seq_setSeq_same]
    exact ⟨rfl, rfl, rfl, rfl, rfl, fun runs => if_neg runs, fun i hi => getLsbD_clear _ hi, rfl, rfl⟩
  · have idle : (s.seq q.val).due = Option.none := none.elim id Seqr.due_inEvent
    refine congrArg Host.Outcome.next ?_
    simp only [idle]
  · have event : (if q.val < 36 ∨ 40 ≤ q.val then 5 else 6) = if q.val < 36 ∨ q.val = 40 then 5 else 6 :=
      if_congr (or_congr_right (by omega)) rfl rfl
    refine congrArg Host.Outcome.next ?_
    simp only [live, armed, event, bne_iff_ne, ne_eq, not_false_eq_true, Bool.true_and, if_true]
  · exact congrArg Host.Outcome.next (if_pos live)
  · refine congrArg Host.Outcome.next (if_pos ?_)
    rw [live, runs]
    rfl

end Sys2Proof.Machine
end

section
/-! The CSW page (R391, R405 to R408; log entries 22, 48, 129): kick, swap, the window and revocation. -/

namespace Sys2Proof.Machine

/-! The window's address and data. -/

theorem State.cswAdvance_keeps {β : Type} (p : State → β) (hreg : ∀ t v, p (State.setReg t CSW_ADDR v) = p t) (s : State) : p s.cswAdvance = p s := by
  unfold State.cswAdvance
  split_ifs
  · exact hreg _ _
  · rfl

theorem State.cswAdvance_addr (s : State) :
    s.cswAdvance.f CSW_ADDR 13 0 = if s.bit CSW_ADDR 31 then (s.f CSW_ADDR 13 0 + 1) % 16384 else s.f CSW_ADDR 13 0 := by
  unfold State.cswAdvance
  split_ifs
  · exact State.f_setF_same _ _ _ _ (by decide)
  · rfl

/-- The state in which the four data registers and the parity hold the fetched word. -/
def State.cswLoaded (s : State) (w : W128) : State :=
  (s.each (span 0 4) fun t k => t.setReg (CSW_DATA k) (BitVec.ofNat 32 (w.toNat >>> (32 * k)))).setReg CSW_PARITY (BitVec.ofNat 32 (wordParity w))

theorem State.cswFetch_eq (s : State) :
    s.cswFetch = ((s.cswLoaded (bankWord s.cswSeq s.cswBank (s.f CSW_ADDR 13 0))).cswAdvance,
      BitVec.ofNat 32 (bankWord s.cswSeq s.cswBank (s.f CSW_ADDR 13 0)).toNat) := rfl

theorem State.cswLoaded_eq (s : State) (w : W128) : s.cswLoaded w =
    ((((s.setReg (CSW_DATA 0) (BitVec.ofNat 32 (w.toNat >>> 0))).setReg (CSW_DATA 1) (BitVec.ofNat 32 (w.toNat >>> 32))).setReg (CSW_DATA 2)
      (BitVec.ofNat 32 (w.toNat >>> 64))).setReg (CSW_DATA 3) (BitVec.ofNat 32 (w.toNat >>> 96))).setReg CSW_PARITY (BitVec.ofNat 32 (wordParity w)) := rfl

theorem State.cswLoaded_data (s : State) (w : W128) {k : Nat} (hk : k < 4) :
    (s.cswLoaded w).reg (CSW_DATA k) = BitVec.ofNat 32 (w.toNat >>> (32 * k)) := by
  rw [State.cswLoaded_eq]
  interval_cases k <;> simp [State.reg_setReg, CSW_DATA]

theorem State.cswLoaded_addr (s : State) (w : W128) : (s.cswLoaded w).reg CSW_ADDR = s.reg CSW_ADDR := by
  rw [State.cswLoaded_eq]
  simp [State.reg_setReg, CSW_DATA]

theorem State.cswLoaded_frame (s : State) (w : W128) : (s.cswLoaded w).outbox = s.outbox ∧ (s.cswLoaded w).seqs = s.seqs := by
  rw [State.cswLoaded_eq]
  simp only [State.setReg_outbox, State.setReg_seqs, and_self]

theorem State.cswFetch_frame (s : State) : s.cswFetch.1.outbox = s.outbox ∧ s.cswFetch.1.seqs = s.seqs := by
  obtain ⟨outbox, seqs⟩ := s.cswLoaded_frame (bankWord s.cswSeq s.cswBank (s.f CSW_ADDR 13 0))
  rw [State.cswFetch_eq]
  exact ⟨(State.cswAdvance_keeps State.outbox (fun _ _ => rfl) _).trans outbox, (State.cswAdvance_keeps State.seqs (fun _ _ => rfl) _).trans seqs⟩

/-! A keyed swap, and a store through the window. -/

/-- A bank that can become active: VALID, or filled through the window. -/
def Bank.swappable (b : Bank) : Bool := b.source == 3 && b.st == 1 || b.st == 2

theorem Bank.swappable_iff (b : Bank) : b.swappable = true ↔ b.st = 2 ∨ (b.source = 3 ∧ b.st = 1) := by
  rw [or_comm]
  simp [Bank.swappable]

/-- The sequencer that a swap is asked of (R408): a window bank becomes VALID, and the swap is to its entry. -/
def Seqr.swapAsked (x : Seqr) (entry : Nat) : Seqr :=
  let win := x.inactive.source == 3 && x.inactive.st == 1
  let y := if win then x.setInactive { x.inactive with st := 2, entry := entry } else x
  { y with swapReq := some (if win || y.inactive.source == 3 then some entry else none) }

theorem Seqr.swapAsked_spec {x : Seqr} (valid : x.inactive.st = 2 ∨ (x.inactive.source = 3 ∧ x.inactive.st = 1)) (entry : Nat) :
    (x.swapAsked entry).swapReq = some (if x.inactive.source = 3 then some entry else none) ∧ (x.swapAsked entry).inactive.st = 2 ∧
      (x.swapAsked entry).inactive.words = x.inactive.words := by
  have bank (y : Seqr) (r : Option (Option Nat)) : ({ y with swapReq := r } : Seqr).inactive = y.inactive := rfl
  by_cases win : x.inactive.source = 3 ∧ x.inactive.st = 1
  · simp [Seqr.swapAsked, win, bank]
  · have ready : x.inactive.st = 2 := valid.resolve_right win
    simp [Seqr.swapAsked, ready, bank]

theorem State.cswSwap_keyed (s : State) {v : W32} (key : fld v 15 8 = 0x5C) :
    s.cswSwap v = if decide (40 < fld v 5 0) || !s.winAllowed (fld v 5 0) || !(s.seq (fld v 5 0)).inactive.swappable then s.event pgCSW 4
      else s.setSeq (fld v 5 0) ((s.seq (fld v 5 0)).swapAsked (fld v 29 16)) := if_neg (not_not.mpr key)

/-- The bank that a write through the window fills, with word `w` at its address. -/
def State.cswFilled (s : State) (w : W128) : Bank :=
  let b := s.cswBank
  let words := if b.source = 0 ∧ b.st = 2 then (List.range 16384).map fun a => (a, some (bankWord s.cswSeq b a)) else b.words
  { st := 1, source := 3, words := tabPut (fun _ => none) words (s.f CSW_ADDR 13 0) (some w) }

theorem State.bankWord_cswFilled (s : State) (w : W128) (q : Nat) : bankWord q (s.cswFilled w) (s.f CSW_ADDR 13 0) = w := by
  have written : tabGet (fun _ => none) (s.cswFilled w).words (s.f CSW_ADDR 13 0) = some w := by
    simp only [State.cswFilled, tabGet_put_same]
  rw [bankWord, written]

/-- A bank that is not active is filled. -/
theorem Seqr.setBank_ne {x : Seqr} {sel : Bool} (other : sel ≠ x.activeB) (b : Bank) : x.setBank sel b = x.setInactive b := by
  rw [Seqr.setInactive, ← Bool.eq_not.mpr other]

/-- The word in the data registers. -/
def State.cswData (s : State) : W128 := BitVec.ofNat 128 ((span 0 4).foldl (fun n k => n + (s.reg (CSW_DATA k)).toNat * 2 ^ (32 * k)) 0)

theorem State.cswStore_eq (s : State) (v : W32) : s.cswStore v =
    let u := s.setReg (CSW_DATA 3) v
    if !u.winAllowed u.cswSeq then u.event pgCSW 4
    else (u.setSeq u.cswSeq ((u.seq u.cswSeq).setBank (u.bit CSW_SEL 8) (u.cswFilled u.cswData))).cswAdvance := rfl

theorem State.winAllowed_active {s : State} (selected : s.bit CSW_SEL 8 = (s.seq s.cswSeq).activeB) (q : Nat) : s.winAllowed q = false := by
  rw [State.winAllowed, selected, bne_self_eq_false, Bool.and_false, Bool.false_and]

/-- Settles O44: each access by what it finds in the selection and in the bank that is not active. -/
theorem storeWindow : Obligations.StoreWindow := by
  intro who s served u
  have write (f : State → State) : s.access who pgCSW f = (f u).told who := State.access_served served f
  refine ⟨fun v => ⟨fun key => ?_, fun key here => ?_, fun key none => ?_⟩, fun v => ⟨fun key => ?_, fun key refused => ?_, fun key here allowed valid => ?_⟩,
    ?_, fun v => ⟨fun refused => ?_, fun allowed other => ?_⟩, fun v => ⟨fun key left => ?_, fun refused => ?_⟩⟩
  · exact congrArg Host.Outcome.next ((write _).trans (congrArg (State.told · who) (if_pos key)))
  · have kick : u.cswKick v = u.latch (fld v 5 0) 15 := (if_neg (not_not.mpr key)).trans (if_neg (Nat.not_lt.mpr here))
    exact congrArg Host.Outcome.next ((write _).trans (congrArg (State.told · who) kick))
  · have kick : u.cswKick v = u.event pgCSW 4 := (if_neg (not_not.mpr key)).trans (if_pos none)
    exact congrArg Host.Outcome.next ((write _).trans (congrArg (State.told · who) kick))
  · exact congrArg Host.Outcome.next ((write _).trans (congrArg (State.told · who) (if_pos key)))
  · have barred : (decide (40 < fld v 5 0) || !u.winAllowed (fld v 5 0) || !(u.seq (fld v 5 0)).inactive.swappable) = true := by
      rcases refused with absent | barred | ⟨notValid, noWindow⟩
      · simp [absent]
      · simp [barred]
      · rw [Bool.eq_false_of_not_eq_true ((Bank.swappable_iff _).not.mpr (not_or.mpr ⟨notValid, noWindow⟩)), Bool.not_false, Bool.or_true]
    exact congrArg Host.Outcome.next ((write _).trans (congrArg (State.told · who) ((u.cswSwap_keyed key).trans (if_pos barred))))
  · have free : (decide (40 < fld v 5 0) || !u.winAllowed (fld v 5 0) || !(u.seq (fld v 5 0)).inactive.swappable) = false := by
      rw [decide_eq_false (Nat.not_lt.mpr here), allowed, (Bank.swappable_iff _).mpr valid]
      rfl
    have swap : u.cswSwap v = u.setSeq (fld v 5 0) ((u.seq (fld v 5 0)).swapAsked (fld v 29 16)) := by rw [u.cswSwap_keyed key, free]; rfl
    obtain ⟨asked, st, words⟩ := Seqr.swapAsked_spec valid (fld v 29 16)
    refine ⟨_, congrArg Host.Outcome.next ((write _).trans (congrArg (State.told · who) swap)), ?_, ?_, ?_, ?_⟩
    · rw [State.told_seq, State.seq_setSeq_same, asked]
    · rw [State.told_seq, State.seq_setSeq_same, st]
    · rw [State.told_seq, State.seq_setSeq_same, words]
    · rw [State.told_regs]
      exact s.noted_regs who pgCSW
  · intro w
    obtain ⟨o, emits⟩ := toldWord_emits who (BitVec.ofNat 32 w.toNat)
    obtain ⟨outbox, seqs⟩ := s.cswFetch_frame
    have read : s.accessRd who pgCSW State.cswFetch = s.cswFetch.1.emit o := (State.accessRd_served served _).trans (emits _)
    refine ⟨_, congrArg Host.Outcome.next read, ?_, fun k hk => ?_, ?_, ?_⟩
    · rw [emits, State.outbox_emit, State.outbox_emit, outbox]
    · rw [State.emit_reg, State.cswFetch_eq,
        State.cswAdvance_keeps (fun t => t.reg (CSW_DATA k)) fun t v => t.reg_setReg_ne v (by unfold CSW_DATA CSW_ADDR; omega)]
      exact s.cswLoaded_data w hk
    · have addr := (s.cswLoaded w).cswAdvance_addr
      simp only [State.bit, State.f, State.cswLoaded_addr] at addr
      exact addr
    · rw [State.emit_seqs, seqs]
  · have barred : (u.setReg (CSW_DATA 3) v).winAllowed (u.setReg (CSW_DATA 3) v).cswSeq = false := refused.elim id fun active => State.winAllowed_active active _
    exact congrArg Host.Outcome.next ((write _).trans (congrArg (State.told · who) ((u.cswStore_eq v).trans (if_pos (by rw [barred]; rfl)))))
  · have store := (u.cswStore_eq v).trans (if_neg (by rw [allowed]; decide))
    rw [Seqr.setBank_ne other] at store
    refine ⟨_, congrArg Host.Outcome.next ((write _).trans (congrArg (State.told · who) store)), ?_⟩
    rw [State.told_seq, State.cswAdvance_keeps (fun t => t.seq _) fun _ _ => rfl, State.seq_setSeq_same, Seqr.inactive_setInactive, Seqr.active_setInactive]
    exact ⟨rfl, rfl, State.bankWord_cswFilled _ _ _, rfl⟩
  · exact congrArg Host.Outcome.next ((write _).trans (congrArg (State.told · who) (if_pos ⟨key, left⟩)))
  · refine congrArg Host.Outcome.next ((write _).trans (congrArg (State.told · who) (if_neg fun h => ?_)))
    exact refused.elim (fun bad => bad h.1) fun last => Bool.false_ne_true (last.symm.trans h.2)

end Sys2Proof.Machine
end

section
/-! HBM temperature and scrubbing (R362, R366, R370; log entry 83). -/

namespace Sys2Proof.Machine

/-! An event under a condition. -/

theorem State.eventIf_keeps {β : Type} (p : State → β) {page : Nat} (hevt : ∀ t v, p (State.setReg t (hEVT page) v) = p t) (s : State) (b : Nat) (c : Bool) :
    p (s.whenB c fun u => u.event page b) = p s := by
  cases c
  · rfl
  · exact hevt _ _

theorem State.whenB_true (s : State) (f : State → State) : s.whenB true f = f s := rfl
theorem State.whenB_false (s : State) (f : State → State) : s.whenB false f = s := rfl

theorem State.eventIf_bit (s : State) (page : Nat) {b : Nat} (hb : b < 32) : (s.whenB true fun u => u.event page b).bit (hEVT page) b = true :=
  State.bit_setB_same _ _ _ hb

/-- A word of two bytes. -/
theorem toNat_byteWord {k c : Nat} (hk : k < 256) (hc : c < 256) : (BitVec.ofNat 32 (k <<< 8 ||| c)).toNat = 256 * k + c := by
  rw [BitVec.toNat_ofNat, ← Nat.shiftLeft_add_eq_or_of_lt hc, Nat.shiftLeft_eq]
  omega

/-- A field apart from the one that is written. -/
theorem State.f_setF_ne (s : State) (a : Nat) {hi lo hi' lo' : Nat} (v : Nat) (apart : hi' < lo ∨ lo + (hi + 1 - lo) ≤ lo') :
    (s.setF a hi lo v).f a hi' lo' = s.f a hi' lo' := by
  rw [State.f, State.setF, State.reg_setReg_same, fld_setFld_ne _ _ apart, State.f]

/-! A poll of a stack's temperature. -/

theorem tempWord_fields (temp : BitVec 8) (hot : Bool) : fld (BitVec.ofNat 32 (temp.toNat ||| b2n hot <<< 8)) 7 0 = temp.toNat ∧
    bitAt (BitVec.ofNat 32 (temp.toNat ||| b2n hot <<< 8)) 8 = hot := by
  have low := temp.isLt
  have word := toNat_byteWord (k := b2n hot) (c := temp.toNat) (by cases hot <;> decide) low
  rw [Nat.or_comm] at word
  refine ⟨?_, ?_⟩
  · rw [fld, word]
    simp only [Nat.shiftRight_zero]
    omega
  · rw [bitAt, word, Nat.testBit_eq_decide_div_mod_eq]
    cases hot <;> simp only [b2n] <;> simp <;> omega

/-- The state once HBM_TEMP and the events of a poll are written. -/
def State.polled (s : State) (i : Nat) (temp : BitVec 8) : State :=
  let hot := decide (85 < temp.toInt)
  let u := (s.setStack i { s.stack i with temp := temp.toInt }).setReg (HBM_TEMP i) (BitVec.ofNat 32 (temp.toNat ||| b2n hot <<< 8))
  (u.whenB (hot && !s.bit (HBM_TEMP i) 8) fun s => s.event (pgHBM i) 2).whenB (decide (95 < temp.toInt)) fun s => s.event (pgHBM i) 3

/-- A tracking retrain becomes due. -/
def State.driftMark (s : State) (i : Nat) (due : Bool) : State :=
  s.whenB due fun s => (s.setStack i { s.stack i with driftDue := true }).setB (HBT_STAT i) 0 true

theorem exec_hbmTempPoll_clocked {s : State} (clocked : s.clocked = true) (i : StackId) (temp : BitVec 8) :
    ∃ due, exec (.hbmTempPoll i temp) s = .next ((s.polled i.val temp).driftMark i.val due) :=
  ⟨_, congrArg Host.Outcome.next (if_neg (by rw [clocked]; decide))⟩

theorem State.driftMark_keeps (s : State) (i : Nat) (due : Bool) : ((s.driftMark i due).stack i).temp = (s.stack i).temp ∧
    (∀ a, a ≠ HBT_STAT i → (s.driftMark i due).reg a = s.reg a) ∧ (s.driftMark i due).hbm = s.hbm := by
  cases due
  · exact ⟨rfl, fun _ _ => rfl, rfl⟩
  · refine ⟨?_, fun a other => State.reg_setReg_ne _ _ other, rfl⟩
    rw [State.driftMark, State.whenB_true, State.setB_eq, State.setReg_stack, State.stack_setStack_same]

/-- The two events of a poll write EVT_STAT alone. -/
theorem State.polled_keeps {β : Type} (p : State → β) {i : Nat} (hevt : ∀ t v, p (State.setReg t (hEVT (pgHBM i)) v) = p t) (s : State) (temp : BitVec 8) :
    p (s.polled i temp) = p ((s.setStack i { s.stack i with temp := temp.toInt }).setReg (HBM_TEMP i)
      (BitVec.ofNat 32 (temp.toNat ||| b2n (decide (85 < temp.toInt)) <<< 8))) :=
  (State.eventIf_keeps p hevt _ 3 _).trans (State.eventIf_keeps p hevt _ 2 _)

theorem State.polled_cool {s : State} {i : Nat} {temp : BitVec 8} (cool : temp.toInt ≤ 85) : (s.polled i temp).reg (hEVT (pgHBM i)) = s.reg (hEVT (pgHBM i)) := by
  rw [State.polled, decide_eq_false (not_lt.mpr cool), decide_eq_false (by omega)]
  exact State.reg_setReg_ne _ _ (by unfold HBM_TEMP hEVT pgHBM; omega)

theorem State.polled_hot {s : State} {i : Nat} {temp : BitVec 8} (hot : 85 < temp.toInt) (was : s.bit (HBM_TEMP i) 8 = false) :
    (s.polled i temp).bit (hEVT (pgHBM i)) 2 = true := by
  have first (u : State) : (u.whenB true fun u => u.event (pgHBM i) 2).bit (hEVT (pgHBM i)) 2 = true := u.eventIf_bit _ (by decide)
  rw [State.polled, decide_eq_true hot, was]
  cases decide (95 < temp.toInt)
  · exact first _
  · exact (State.bit_setB_ne _ _ _ (by decide)).trans (first _)

theorem State.polled_hottest {s : State} {i : Nat} {temp : BitVec 8} (hot : 95 < temp.toInt) : (s.polled i temp).bit (hEVT (pgHBM i)) 3 = true := by
  rw [State.polled, decide_eq_true hot]
  exact State.eventIf_bit _ _ (by decide)

/-! The scrubber. -/

theorem exec_scrubRead_clean {s : State} {i : StackId} (clocked : s.clocked = true) (serves : s.stackServes i.val = true)
    (rate : s.f (HBM_SCRUB i.val) 15 0 ≠ 0) (calm : s.inject = none) :
    let total := s.stackGiB * GiB / 32
    let p := (s.stack i.val).scrubPos
    let q := if p + 1 < total then p + 1 else 0
    exec (.scrubRead i 0) s = .next (((s.setStack i.val { s.stack i.val with scrubPos := q }).setF (HBM_SCRUB_POS i.val) 15 0 (q * 65536 / total)).whenB
      (q == 0) fun s => (s.incF (HBM_SCRUB_POS i.val) 31 16).event (pgHBM i.val) 6) := by
  have runs : (!s.clocked || !s.stackServes i.val || s.f (HBM_SCRUB i.val) 15 0 == 0) = false := by simp [clocked, serves, rate]
  have fire (pred : Nat → Bool) : s.injectFire pred = s := by rw [State.injectFire, calm]
  intro total p q
  refine congrArg Host.Outcome.next ?_
  simp only [runs, fire, Bool.false_eq_true, if_false, decide_true, Bool.or_true, if_true]
  rfl

/-- Settles O41: HBM_TEMP and the events by the temperature, and the scrubber's next sector. -/
theorem temperatureAndScrub : Obligations.TemperatureAndScrub := by
  refine ⟨?_, ?_⟩
  · intro stack temp s clocked i
    obtain ⟨due, poll⟩ := exec_hbmTempPoll_clocked clocked stack temp
    obtain ⟨marked, regs, hbm⟩ := (s.polled i temp).driftMark_keeps i due
    have stat : HBM_TEMP i ≠ HBT_STAT i := by unfold HBM_TEMP HBT_STAT; omega
    have evt : hEVT (pgHBM i) ≠ HBT_STAT i := by unfold hEVT pgHBM HBT_STAT; omega
    obtain ⟨word, flag⟩ := tempWord_fields temp (decide (85 < temp.toInt))
    have temped : (s.polled i temp).reg (HBM_TEMP i) = BitVec.ofNat 32 (temp.toNat ||| b2n (decide (85 < temp.toInt)) <<< 8) :=
      (State.polled_keeps (fun t => t.reg (HBM_TEMP i)) (fun t v => t.reg_setReg_ne v (by unfold HBM_TEMP hEVT pgHBM; omega)) s temp).trans
        (State.reg_setReg_same _ _ _)
    refine ⟨_, poll, ?_, ?_, ?_, fun hot was => ?_, fun hottest => ?_, fun cool => ?_, ?_⟩
    · rw [marked, State.polled_keeps (fun t => t.stack i) (fun _ _ => rfl), State.setReg_stack, State.stack_setStack_same]
    · rw [State.f, regs _ stat, temped, word]
    · rw [State.bit, regs _ stat, temped, flag]
    · rw [State.bit, regs _ evt]
      exact State.polled_hot hot was
    · rw [State.bit, regs _ evt]
      exact State.polled_hottest hottest
    · rw [regs _ evt]
      exact State.polled_cool cool
    · rw [hbm]
      exact State.polled_keeps State.hbm (fun _ _ => rfl) s temp
  · intro stack s i total p clocked serves rate calm
    have scrub := exec_scrubRead_clean clocked serves rate calm
    refine ⟨fun next => ?_, fun last => ⟨_, scrub, ?_⟩⟩
    · rw [scrub, if_pos next, beq_false_of_ne (Nat.succ_ne_zero p), State.whenB_false]
    · rw [if_neg (Nat.not_lt.mpr last), beq_self_eq_true, State.whenB_true]
      have pos : HBM_SCRUB_POS i ≠ hEVT (pgHBM i) := by unfold hEVT pgHBM HBM_SCRUB_POS; omega
      refine ⟨?_, State.bit_setB_same _ _ _ (by decide), ?_, ?_⟩
      · rw [State.event_eq, State.incF_eq, State.setF_eq, State.setReg_stack, State.setReg_stack, State.setReg_stack, State.stack_setStack_same]
      · rw [State.event_eq, State.f_setReg_ne _ _ _ _ pos, State.incF, State.f_setF_ne _ _ _ (.inl (by decide)), State.f_setF_same _ _ _ _ (by decide),
          Nat.zero_mul, Nat.zero_div, Nat.zero_mod]
      · rw [State.event_eq, State.f_setReg_ne _ _ _ _ pos, State.incF, State.f_setF_same _ _ _ _ (by decide), State.f_setF_ne _ _ _ (.inr (by decide))]
        rfl

end Sys2Proof.Machine
end

section
/-! HBM training, HBM_MAP and row repairs (R352, R353, R356, R357, R367, R371; log entries 26, 70, 83, 127). -/

namespace Sys2Proof.Machine

/-! Training. -/

/-- The stack's queues are emptied. -/
def State.queuesEmptied (s : State) (i : Nat) : State := s.each (span (32 * i) 32) fun t c => t.setPch c { t.pch c with queue := [], inOrder := [] }

theorem State.fullStart_eq (s : State) (i : Nat) : s.fullStart i = ((s.queuesEmptied i).setB (HBT_CTL i) 1 true).setB (HBT_STAT i) 0 true := rfl

theorem State.queuesEmptied_hbm (s : State) (i : Nat) : (s.queuesEmptied i).hbm = s.hbm := by
  refine State.each_keeps State.hbm (fun t c => ?_) _ s
  rfl

/-- FULL is written: the training is asked for, and the stack serves no requests. -/
theorem State.fullStart_spec (s : State) (i : Nat) : (s.fullStart i).bit (HBT_CTL i) 1 = true ∧ (s.fullStart i).bit (HBT_STAT i) 0 = true ∧
    (s.fullStart i).stackServes i = false ∧ (s.fullStart i).hbm = s.hbm := by
  have apart : HBT_CTL i ≠ HBT_STAT i := by unfold HBT_CTL HBT_STAT; omega
  rw [State.fullStart_eq]
  generalize hu : s.queuesEmptied i = u
  have full : ((u.setB (HBT_CTL i) 1 true).setB (HBT_STAT i) 0 true).bit (HBT_CTL i) 1 = true := by
    rw [State.setB, State.bit_setReg_ne _ _ _ apart, State.bit_setB_same _ _ _ (by decide)]
  refine ⟨full, State.bit_setB_same _ _ _ (by decide), ?_, ?_⟩
  · rw [State.stackServes, full, Bool.not_true, Bool.and_false]
  · rw [State.setB_eq, State.setB_eq, State.setReg_hbm, State.setReg_hbm, ← hu, State.queuesEmptied_hbm]

/-- What the noted state reads of a register. -/
theorem State.noted_f (s : State) (who : Who) (p a hi lo : Nat) : (s.noted who p).f a hi lo = s.f a hi lo := congrArg (fld · hi lo) (s.noted_reg who p a)
theorem State.noted_bit (s : State) (who : Who) (p a i : Nat) : (s.noted who p).bit a i = s.bit a i := congrArg (bitAt · i) (s.noted_reg who p a)

theorem State.told_stackServes (s : State) (who : Who) (i : Nat) : (s.told who).stackServes i = s.stackServes i := by
  rw [State.stackServes, State.told_bit, State.told_bit, State.stackServes]

section
variable {s : State} {who : Who} {i : StackId} (served : s.served who (pgHBT i.val) = true)
include served

theorem exec_hbmFullTraining_starts (idle : s.f (HBT_CTL i.val) 1 0 = 0) :
    exec (.hbmFullTraining who i) s = .next (((s.noted who (pgHBT i.val)).fullStart i.val).told who) := by
  refine congrArg Host.Outcome.next ((State.access_served served _).trans (congrArg (State.told · who) (if_neg ?_)))
  rw [State.noted_f, idle]
  decide

theorem exec_hbmFullTraining_ignored (runs : s.f (HBT_CTL i.val) 1 0 ≠ 0) : exec (.hbmFullTraining who i) s = .next ((s.noted who (pgHBT i.val)).told who) := by
  refine congrArg Host.Outcome.next ((State.access_served served _).trans (congrArg (State.told · who) (if_pos ?_)))
  rw [State.noted_f]
  exact runs

theorem exec_hbmTrackingRetrain_written (noDrift : (s.stack i.val).driftDue = false) (idle : s.f (HBT_CTL i.val) 1 0 = 0)
    (still : s.bit (HBT_STAT i.val) 0 = false) (sweeps : List LaneSweep) (us : W32) :
    exec (.hbmTrackingRetrain who i sweeps us) s = .next (((s.noted who (pgHBT i.val)).trackRun i.val sweeps us).told who) := by
  have undue : ¬(s.clocked && (s.stack i.val).driftDue) = true := by rw [noDrift, Bool.and_false]; decide
  refine congrArg Host.Outcome.next ((if_neg undue).trans ((State.access_served served _).trans (congrArg (State.told · who) (if_neg ?_))))
  rw [State.noted_f, State.noted_bit, idle, still]
  decide

end

/-! HBM_MAP. -/

theorem State.noted_hbmPage (s : State) (who : Who) (i : StackId) : s.noted who (pgHBM i.val) = s :=
  State.noted_plain (by unfold pgHBM; omega) (by unfold pgHBM pgCSW; omega) (by unfold pgHBM pgSMB; omega) (by unfold pgHBM; omega)

theorem State.mapWrite_free {s : State} (free : ∀ p, p < 64 → s.poolEn p = false) (v : W32) :
    s.mapWrite v = s.setReg (HBM_MAP 0) (BitVec.ofNat 32 (min (fld v 5 0) s.stackGiB)) := by
  refine if_pos (List.all_eq_true.mpr fun p mem => ?_)
  obtain ⟨k, hk, rfl⟩ := List.mem_map.mp mem
  rw [free _ (by have := List.mem_range.mp hk; omega), Bool.not_false]

theorem State.mapWrite_locked {s : State} {p : Nat} (hp : p < 64) (enabled : s.poolEn p = true) (v : W32) : s.mapWrite v = s.event (pgHBM 0) 7 := by
  refine if_neg fun all => ?_
  have off := List.all_eq_true.mp all p (List.mem_map.mpr ⟨p, List.mem_range.mpr hp, by omega⟩)
  rw [enabled] at off
  exact Bool.false_ne_true off

/-! Row repairs. -/

theorem pprWord_key (key : Byte) {c : Nat} (hc : c < 256) : fld (BitVec.ofNat 32 (key.toNat <<< 8 ||| c)) 15 8 = key.toNat := by
  have low := key.isLt
  rw [fld, toNat_byteWord low hc, Nat.shiftRight_eq_div_pow]
  omega

theorem State.pprWrite_unkeyed (s : State) (i : Nat) {key : Byte} (bad : key ≠ 0xC3) {c : Nat} (hc : c < 256) :
    s.pprWrite i (BitVec.ofNat 32 (key.toNat <<< 8 ||| c)) = s := by
  refine if_pos ?_
  rw [pprWord_key key hc]
  exact fun h => bad (BitVec.eq_of_toNat_eq h)

theorem State.pprWrite_soft (s : State) (i : Nat) : s.pprWrite i (BitVec.ofNat 32 ((0xC3 : Byte).toNat <<< 8 ||| 1)) = s.pprSoft i := rfl

theorem State.pprWrite_hard (s : State) (i : Nat) : s.pprWrite i (BitVec.ofNat 32 ((0xC3 : Byte).toNat <<< 8 ||| 2)) = s.pprHard i := rfl

theorem State.pprSoft_open {s : State} {i : Nat} (repairable : s.pprOpen i = true) :
    s.pprSoft i = (s.draw.setStack i { s.stack i with soft := (s.stack i).soft ++ [s.pprRow i] }).event (pgHBM i) 4 := if_pos repairable

theorem State.pprHard_open {s : State} {i : Nat} (repairable : s.pprOpen i = true) (room : (s.stack i).hard.length < 4) :
    s.pprHard i = (s.draw.setStack i { s.stack i with hard := (s.stack i).hard ++ [s.pprRow i] }).event (pgHBM i) 4 :=
  if_pos (by rw [repairable, decide_eq_true room]; rfl)

theorem State.access_hbmPage {s : State} {who : Who} {i : StackId} (served : s.served who (pgHBM i.val) = true) (f : State → State) :
    s.access who (pgHBM i.val) f = (f s).told who := by
  rw [State.access_served served, State.noted_hbmPage]

theorem exec_hbmMapWrite_served {s : State} {who : Who} (served : s.served who (pgHBM 0) = true) (v : W32) :
    exec (.hbmMapWrite who v) s = .next ((s.mapWrite v).told who) := congrArg Host.Outcome.next (State.access_hbmPage (i := 0) served _)

section
variable {s : State} {who : Who} {i : StackId} (served : s.served who (pgHBM i.val) = true) (key : Byte)
include served

theorem exec_pprSoft_served :
    exec (.pprSoft who i key) s = .next ((s.pprWrite i.val (BitVec.ofNat 32 (key.toNat <<< 8 ||| 1))).told who) :=
  congrArg Host.Outcome.next (State.access_hbmPage served _)

theorem exec_pprHard_served :
    exec (.pprHard who i key) s = .next ((s.pprWrite i.val (BitVec.ofNat 32 (key.toNat <<< 8 ||| 2))).told who) :=
  congrArg Host.Outcome.next (State.access_hbmPage served _)

end

/-- Settles O40: the training commands by what is due, HBM_MAP by the pools, a repair by its key and its row. -/
theorem trainingMapAndRepairs : Obligations.TrainingMapAndRepairs := by
  refine ⟨?_, ?_⟩
  · intro stack s i
    refine ⟨fun who served => ⟨fun idle => ?_, fun runs => exec_hbmFullTraining_ignored served runs⟩,
      fun temp sweeps us clocked runs noFull noDrift => congrArg Host.Outcome.next (if_pos ?_),
      fun who sweeps us clocked due => congrArg Host.Outcome.next (if_pos ?_),
      fun who sweeps us served noDrift idle still => exec_hbmTrackingRetrain_written served noDrift idle still sweeps us⟩
    · obtain ⟨full, trains, holds, hbm⟩ := (s.noted who (pgHBT i)).fullStart_spec i
      exact ⟨_, exec_hbmFullTraining_starts served idle, (State.told_bit _ _ _ _).trans full, (State.told_bit _ _ _ _).trans trains,
        (State.told_stackServes _ _ _).trans holds, (State.told_hbm _ _).trans (hbm.trans (s.noted_hbm who _))⟩
    · rw [clocked, runs, noFull, noDrift]
      rfl
    · rw [clocked, due]
      rfl
  · intro who s
    refine ⟨fun v served => ⟨fun free => ?_, fun p hp enabled => ?_⟩, ?_⟩
    · have write := exec_hbmMapWrite_served served v
      rw [State.mapWrite_free free] at write
      refine ⟨_, write, ?_, by rw [State.told_hbm, State.setReg_hbm]⟩
      have size : s.stackGiB ≤ 36 := by unfold State.stackGiB; split <;> decide
      rw [State.affGiB, State.told_f, State.f, State.reg_setReg_same, fld_ofNat _ _ (by omega), Nat.shiftRight_zero]
      exact Nat.mod_eq_of_lt (by omega)
    · rw [exec_hbmMapWrite_served served, State.mapWrite_locked hp enabled]
    · intro stack key i served
      have soft := exec_pprSoft_served served key
      have hard := exec_pprHard_served served key
      refine ⟨fun bad => ?_, fun keyed repairable => ⟨?_, fun room => ?_⟩⟩
      · rw [soft, hard, State.pprWrite_unkeyed _ _ bad (by decide), State.pprWrite_unkeyed _ _ bad (by decide)]
        exact ⟨rfl, rfl⟩
      · subst keyed
        rw [State.pprWrite_soft, State.pprSoft_open repairable] at soft
        refine ⟨_, soft, ?_, (State.told_bit _ _ _ _).trans (State.bit_setB_same _ _ _ (by decide))⟩
        rw [State.told_stack, State.event_eq, State.setReg_stack, State.stack_setStack_same]
      · subst keyed
        rw [State.pprWrite_hard, State.pprHard_open repairable room] at hard
        refine ⟨_, hard, ?_, (State.told_bit _ _ _ _).trans (State.bit_setB_same _ _ _ (by decide))⟩
        rw [State.told_stack, State.event_eq, State.setReg_stack, State.stack_setStack_same]

end Sys2Proof.Machine
end

section
/-! Media frames and packets as they arrive, and the host's frames as they leave (R416 to R419, R429, R431 to R433; log entries 30, 84). -/

namespace Sys2Proof.Machine

/-! Frames. -/

/-- A frame that fails a check of R416. -/
def State.frameBad (s : State) (n : Nat) (fr : Frame) : Prop :=
  fr.bytes.length + 4 < 64 ∨ s.f (MPE_PORT_CTL n) 29 16 < fr.bytes.length + 4 ∨ fr.fcsOk = false ∨ 1 < frameTags fr

section
variable {s : State} {port : PortId} (up : s.engineUp port.val = true) (link : s.etherUp port.val = true) (fr : Frame)
include up link

theorem exec_ethernetFrameReceive_up : exec (.ethernetFrameReceive port fr) s = .next (s.frameIn port.val fr) :=
  congrArg Host.Outcome.next (if_pos (by rw [up, link]; rfl))

theorem exec_hostFrameSent_up : exec (.hostFrameSent port) s = .next (s.frameSent port.val) :=
  congrArg Host.Outcome.next (if_pos (by rw [up, link]; rfl))

end

section
variable {s : State} {n : Nat} {fr : Frame}

theorem State.frameIn_bad (bad : (s.inc (MPE_RX_FRAMES n)).frameBad n fr) : s.frameIn n fr = (s.inc (MPE_RX_FRAMES n)).satF (MPE_RX_ERR n) 15 0 :=
  if_pos (by simpa [State.frameBad] using bad)

variable (good : ¬(s.inc (MPE_RX_FRAMES n)).frameBad n fr)
include good

theorem State.frameIn_pause (pause : framePause fr = true) : s.frameIn n fr = (s.inc (MPE_RX_FRAMES n)).satF (MPE_RX_ERR n) 31 16 :=
  (if_neg (by simpa [State.frameBad] using good)).trans (if_pos pause)

variable (noPause : framePause fr = false)
include noPause

theorem State.frameIn_flow {f : Nat} {b : Bool} {p : MediaPacket} (found : (s.inc (MPE_RX_FRAMES n)).flowMatch n fr = some (f, b, p)) :
    s.frameIn n fr = (s.inc (MPE_RX_FRAMES n)).rxPacket f b p := by
  refine (if_neg (by simpa [State.frameBad] using good)).trans ((if_neg (by simp [noPause])).trans ?_)
  simp only [found]

theorem State.frameIn_host (none : (s.inc (MPE_RX_FRAMES n)).flowMatch n fr = none) : s.frameIn n fr =
    if (s.inc (MPE_RX_FRAMES n)).hostFilter n (frameMac fr) then (s.inc (MPE_RX_FRAMES n)).hostFrame n fr
    else (s.inc (MPE_RX_FRAMES n)).satF (MPE_RX_FILTERED n) 31 0 := by
  refine (if_neg (by simpa [State.frameBad] using good)).trans ((if_neg (by simp [noPause])).trans ?_)
  simp only [none]

end

/-! Packets of a flow. -/

/-- A packet that is only counted: it is not well formed, or its payload type is not the flow's. -/
def State.packetBad (s : State) (f : Nat) (p : MediaPacket) : Prop :=
  p.good = false ∨ (s.f (RXF_CTL f) 22 16 ≠ 0 ∧ p.payloadType ≠ s.f (RXF_CTL f) 22 16)

theorem State.packetBad_iff (u : State) (f : Nat) (p : MediaPacket) :
    (!p.good || (decide (u.f (RXF_CTL f) 22 16 ≠ 0) && p.payloadType != u.f (RXF_CTL f) 22 16)) = true ↔ u.packetBad f p := by
  simp [State.packetBad]

section
variable {s u : State} {f : Nat} {pathB : Bool} {p : MediaPacket} (runs : s.rxRuns f = true ∨ ((s.rxf f).draining = true ∧ s.engineUp (f / 16) = true))
include runs

/-- A flow that runs or still ends takes its packets. -/
theorem State.rxTakes : ¬(!s.rxRuns f && !((s.rxf f).draining && s.engineUp (f / 16))) = true := by
  rcases runs with runs | ⟨draining, up⟩
  · simp [runs]
  · simp [draining, up]

variable (counted : s.inc (if pathB then RXC_PKTS_B f else RXC_PKTS_A f) = u)
include counted

theorem State.rxPacket_bad (bad : u.packetBad f p) : s.rxPacket f pathB p = u.satF (RXC_BAD f) 15 0 := by
  subst counted
  exact (if_neg (State.rxTakes runs)).trans (if_pos ((State.packetBad_iff _ f p).mpr bad))

variable (good : ¬u.packetBad f p)
include good

/-- A packet of a picture: where the merge uses its number it is the picture's. -/
theorem State.rxPacket_video (video : u.bit (RXF_CTL f) 2 = false) : s.rxPacket f pathB p =
    let num := p.seq % 2 ^ 32
    let r := u.rxMerge f num pathB
    if r.2 then r.1.rxVideo f p num ((u.rxf f).next == 0 || num == (u.rxf f).next % 2 ^ 32 || seqBefore (u.rxf f).next num) else r.1 := by
  subst counted
  exact (if_neg (State.rxTakes runs)).trans ((if_neg ((State.packetBad_iff _ f p).not.mpr good)).trans (if_neg (by rw [video]; decide)))

variable (slices : u.bit (RXF_CTL f) 2 = true)
include slices

theorem State.rxPacket_sessionless (none : u.decSession f = none) : s.rxPacket f pathB p = u := by
  subst counted
  refine (if_neg (State.rxTakes runs)).trans ((if_neg ((State.packetBad_iff _ f p).not.mpr good)).trans ((if_pos slices).trans ?_))
  simp only [none]

/-- A packet of slices: where the merge uses its number it is staged for its unit. -/
theorem State.rxPacket_slices {n : Nat} (session : u.decSession f = some n) : s.rxPacket f pathB p =
    let num := seqExtend (u.rxf f).next (p.seq % 65536)
    let r := u.rxMerge f num pathB
    if r.2 then (r.1.rxStage f n p num).rxSettle f else r.1 := by
  subst counted
  refine (if_neg (State.rxTakes runs)).trans ((if_neg ((State.packetBad_iff _ f p).not.mpr good)).trans ((if_pos slices).trans ?_))
  simp only [session]

end

/-! Losses. -/

section
variable {s v : State} {f n : Nat} {rest : List Nat} (missing : (s.rxf f).missing = n :: rest)
  (counted : ((s.setRxf f { s.rxf f with missing := rest }).satF (RXC_LOST f) 31 0).event (pgMPE (f / 16)) 0 = v)
include missing counted

theorem State.rxLost_video (video : v.bit (RXF_CTL f) 2 = false) : s.rxLost f = (v.rxLostLines f n).rxCloses f 5 := by
  subst counted
  simp only [State.rxLost, missing]
  exact if_neg (by rw [video]; decide)

theorem State.rxLost_sessionless (slices : v.bit (RXF_CTL f) 2 = true) (none : v.decSession f = none) : s.rxLost f = v := by
  subst counted
  simp only [State.rxLost, missing]
  refine (if_pos slices).trans ?_
  simp only [none]

theorem State.rxLost_slices {m : Nat} (slices : v.bit (RXF_CTL f) 2 = true) (session : v.decSession f = some m) :
    s.rxLost f = (v.rxPass f m ((v.rxf f).staged.length + rest.length + 2)).rxSettle f := by
  subst counted
  simp only [State.rxLost, missing]
  refine (if_pos slices).trans ?_
  simp only [session]

end

/-! HTX_CMD. -/

section
variable {s : State} {n : Nat} (v : W32)

theorem State.htxWrite_full (full : 64 ≤ (s.htxq n).length) : s.htxWrite n v = s.event (pgMPE n) 6 := if_pos full

variable (room : (s.htxq n).length < 64)
include room

/-- The frame is the port's: it waits, or outside Ethernet mode it is let go with a record that says no time. -/
theorem State.htxWrite_owned {g : W32} {c : Nat} (owned : (s.poolTransfer 64 (s.reg (MPE_HTX_HANDLE n)) (44 + n)).2 = .ok g c) :
    s.htxWrite n v =
      let h := s.reg (MPE_HTX_HANDLE n)
      let r := s.poolTransfer 64 h (44 + n)
      if s.portMode n != 3 then (r.1.poolRelease (44 + n) h).1.frameRecord n 0x13 0 0 h false
      else r.1.setHtxq n (r.1.htxq n ++ [{ handle := h, len := fld v 13 0, oneStep := bitAt v 14, tsOffset := fld v 29 16 }]) := by
  refine (if_neg (Nat.not_le.mpr room)).trans ?_
  simp only [owned]

theorem State.htxWrite_refused {c : Nat} (refused : (s.poolTransfer 64 (s.reg (MPE_HTX_HANDLE n)) (44 + n)).2 = .err c) :
    s.htxWrite n v = (s.poolTransfer 64 (s.reg (MPE_HTX_HANDLE n)) (44 + n)).1 := by
  refine (if_neg (Nat.not_le.mpr room)).trans ?_
  simp only [refused]

end

theorem exec_htxCmd_served {s : State} {who : Who} {port : PortId} (served : s.served who (pgMPE port.val) = true) (v : W32) :
    exec (.htxCmd who port v) s = .next (((s.noted who (pgMPE port.val)).htxWrite port.val v).told who) :=
  congrArg Host.Outcome.next (State.access_served served _)

/-- Settles O49: frames by their checks and who takes them, packets by their merge, losses by the flow's kind, and HTX_CMD by its transfer. -/
theorem mediaReceive : Obligations.MediaReceive := by
  intro s
  refine ⟨fun port fr up link => ?_, ?_, ?_, ?_, fun port up link => ⟨exec_hostFrameSent_up up link, fun empty => ?_⟩⟩
  · have enter := exec_ethernetFrameReceive_up up link fr
    refine ⟨fun bad => ?_, fun good pause => ?_, fun good noPause => ⟨fun f b p found => ?_, fun none accepts => ?_, fun none rejects => ?_⟩⟩
    · rw [enter, State.frameIn_bad bad]
    · rw [enter, State.frameIn_pause good pause]
    · rw [enter, State.frameIn_flow good noPause found]
    · rw [enter, State.frameIn_host good noPause none, if_pos accepts]
    · rw [enter, State.frameIn_host good noPause none, if_neg (by rw [rejects]; decide)]
  · intro flow pathB p f u bad runs
    refine ⟨fun isBad => congrArg Host.Outcome.next (State.rxPacket_bad runs rfl isBad), fun good video => ?_, fun good slices => ⟨fun none => ?_, fun n session => ?_⟩⟩
    · have packet := State.rxPacket_video (pathB := pathB) runs rfl good video
      exact ⟨fun unused => congrArg Host.Outcome.next (packet.trans (if_neg (by rw [unused]; decide))),
        fun used => congrArg Host.Outcome.next (packet.trans (if_pos used))⟩
    · exact congrArg Host.Outcome.next (State.rxPacket_sessionless runs rfl good slices none)
    · have packet := State.rxPacket_slices (pathB := pathB) runs rfl good slices session
      exact ⟨fun unused => congrArg Host.Outcome.next (packet.trans (if_neg (by rw [unused]; decide))),
        fun used => congrArg Host.Outcome.next (packet.trans (if_pos used))⟩
  · intro flow f up
    have lost : exec (.lossDeadline flow) s = .next (s.rxLost f) := congrArg Host.Outcome.next (if_pos up)
    refine ⟨fun n rest missing => ⟨fun video => ?_, fun slices none => ?_, fun m slices session => ?_⟩, congrArg Host.Outcome.next (if_pos up)⟩
    · rw [lost, State.rxLost_video missing rfl video]
    · rw [lost, State.rxLost_sessionless missing rfl slices none]
    · rw [lost, State.rxLost_slices missing rfl slices session]
  · intro who port v n u h r served
    have command := exec_htxCmd_served served v
    refine ⟨fun full => ?_, fun room => ⟨fun g c owned ether => ?_, fun g c owned other => ?_, fun c refused => ?_⟩⟩
    · rw [command, State.htxWrite_full v full]
    · rw [command, State.htxWrite_owned v room owned]
      exact congrArg (fun t : State => Host.Outcome.next (t.told who)) (if_neg (by simp [ether]))
    · rw [command, State.htxWrite_owned v room owned]
      exact congrArg (fun t : State => Host.Outcome.next (t.told who)) (if_pos (by simp [other]))
    · rw [command, State.htxWrite_refused v room refused]
  · rw [exec_hostFrameSent_up up link, State.frameSent]
    simp only [empty]

end Sys2Proof.Machine
end

section
/-! Media flows as they are switched, and what a transmit flow sends (R428, R434, R435, R437, R450; log entries 84, 85). -/

namespace Sys2Proof.Machine

/-! The registers of a flow are apart from each other and from its engine's event register. -/

theorem rxfCtl_ne_rxcSkew (f : Nat) : RXF_CTL f ≠ RXC_SKEW f := by simp only [RXF_CTL, RXC_SKEW]; omega

theorem rxfCtl_ne_mpeEvt (f : Nat) : RXF_CTL f ≠ hEVT (pgMPE (f / 16)) := by simp only [RXF_CTL, hEVT, pgMPE]; omega

section
variable {s : State} {tx : Bool} {f : Nat}

/-! FLOW_ENABLE. -/

theorem State.flowEnable_ignored (busy : s.bit (flowCtl tx f) 0 = true ∨ s.flowActive tx f = true) : s.flowEnable tx f = s :=
  if_pos (by simpa using busy)

section
variable (off : s.bit (flowCtl tx f) 0 = false) (idle : s.flowActive tx f = false)
include off idle

theorem State.flowEnable_refused (fails : (if tx then (s.txPorts f).all fun q => s.pathMode q.1 else s.rxCheck f) = false) :
    s.flowEnable tx f = s.event (pgMPE (f / 16)) 8 := by
  rw [State.flowEnable, off, idle]
  exact (if_neg (by decide)).trans (if_neg (by rw [fails]; decide))

theorem State.flowEnable_passes (ok : (if tx then (s.txPorts f).all fun q => s.pathMode q.1 else s.rxCheck f) = true) :
    s.flowEnable tx f =
      let u := s.setB (flowCtl tx f) 0 true
      if tx then u else (u.setRxf f { started := (u.rxf f).started }).setF (RXC_SKEW f) 31 16 0 := by
  rw [State.flowEnable, off, idle]
  exact (if_neg (by decide)).trans (if_pos ok)

end

/-- A flow that is switched on has EN, and a receive flow starts with nothing kept. -/
theorem State.flowEnable_starts (off : s.bit (flowCtl tx f) 0 = false) (idle : s.flowActive tx f = false)
    (ok : (if tx then (s.txPorts f).all fun q => s.pathMode q.1 else s.rxCheck f) = true) :
    (s.flowEnable tx f).bit (flowCtl tx f) 0 = true ∧
      (tx = false → ((s.flowEnable tx f).rxf f).pics = [] ∧ ((s.flowEnable tx f).rxf f).next = 0 ∧
        ((s.flowEnable tx f).rxf f).missing = [] ∧ (s.flowEnable tx f).f (RXC_SKEW f) 31 16 = 0) := by
  rw [State.flowEnable_passes off idle ok]
  cases tx with
  | true => exact ⟨State.bit_setB_same _ _ _ (by decide), nofun⟩
  | false =>
    have enabled : ((s.setB (RXF_CTL f) 0 true).setF (RXC_SKEW f) 31 16 0).bit (RXF_CTL f) 0 = true := by
      rw [State.setF_eq, State.bit_setReg_ne _ _ _ (rxfCtl_ne_rxcSkew f), State.bit_setB_same _ _ _ (by decide)]
    have fresh : ((((s.setB (RXF_CTL f) 0 true).setRxf f { started := ((s.setB (RXF_CTL f) 0 true).rxf f).started }).setF (RXC_SKEW f) 31 16 0).rxf f) =
        { started := ((s.setB (RXF_CTL f) 0 true).rxf f).started } := State.rxf_setRxf_same _ _ _
    exact ⟨enabled, fun _ => ⟨congrArg RxFlow.pics fresh, congrArg RxFlow.next fresh, congrArg RxFlow.missing fresh,
      State.f_setF_same _ _ _ _ (by decide)⟩⟩

/-! FLOW_DRAIN and FLOW_ABORT. -/

theorem State.flowDrain_ignored (off : s.bit (flowCtl tx f) 0 = false) : s.flowDrain tx f = s := if_pos (by rw [off]; rfl)

theorem State.flowAbort_ignored (off : s.bit (flowCtl tx f) 0 = false) (idle : s.flowActive tx f = false) : s.flowAbort tx f = s :=
  if_pos (by rw [off, idle]; rfl)

theorem State.rxSettle_keeps (s : State) (f : Nat) :
    (s.rxSettle f).bit (RXF_CTL f) 0 = s.bit (RXF_CTL f) 0 ∧ ((s.rxSettle f).rxf f).pics = (s.rxf f).pics := by
  simp only [State.rxSettle]
  split
  · rw [State.event_eq]
    exact ⟨State.bit_setReg_ne _ _ _ (rxfCtl_ne_mpeEvt f),
      by rw [State.setReg_rxf, State.rxf_setRxf_same]⟩
  · exact ⟨rfl, rfl⟩

/-- A receive flow that drains has EN 0 and keeps its open pictures. -/
theorem State.flowDrain_receive (on : s.bit (RXF_CTL f) 0 = true) :
    (s.flowDrain false f).bit (RXF_CTL f) 0 = false ∧ ((s.flowDrain false f).rxf f).pics = (s.rxf f).pics := by
  let u := (s.setB (RXF_CTL f) 0 false).setB (RXF_CTL f) 1 false
  have drain : s.flowDrain false f = (u.setRxf f { u.rxf f with draining := true }).rxSettle f :=
    if_neg (by rw [show s.bit (flowCtl false f) 0 = true from on]; decide)
  obtain ⟨ctl, pics⟩ := State.rxSettle_keeps (u.setRxf f { u.rxf f with draining := true }) f
  have cleared : u.bit (RXF_CTL f) 0 = false := by
    rw [State.bit_setB_ne _ _ _ (by decide : (0 : Nat) ≠ 1), State.bit_setB_same _ _ _ (by decide)]
  have kept : (u.rxf f).pics = (s.rxf f).pics := rfl
  rw [drain]
  exact ⟨ctl.trans cleared, pics.trans ((congrArg RxFlow.pics (State.rxf_setRxf_same _ _ _)).trans kept)⟩

end

section
variable {s : State} {who : Who} {tx : Bool} {flow : FlowId} (served : s.served who (pgMPE (flow.val / 16)) = true)
include served

theorem exec_flowEnable_served :
    exec (.flowEnable who tx flow) s = .next (((s.noted who (pgMPE (flow.val / 16))).flowEnable tx flow.val).told who) :=
  congrArg Host.Outcome.next (State.access_served served _)

theorem exec_flowDrain_served :
    exec (.flowDrain who tx flow) s = .next (((s.noted who (pgMPE (flow.val / 16))).flowDrain tx flow.val).told who) :=
  congrArg Host.Outcome.next (State.access_served served _)

theorem exec_flowAbort_served :
    exec (.flowAbort who tx flow) s = .next (((s.noted who (pgMPE (flow.val / 16))).flowAbort tx flow.val).told who) :=
  congrArg Host.Outcome.next (State.access_served served _)

end

/-! A picture handed over. -/

/-- The offer is taken out of the flow's list. -/
def State.txOfferOut (s : State) (f a : Nat) (h : W32) : State :=
  s.setTxf f { s.txf f with offers := (s.txf f).offers.filter fun e => !(e.agent == a && e.handle == h) }

/-- The picture is let go. -/
def State.txLetGo (s : State) (o : TxPic) : State := (s.poolRelease o.agent o.handle).1

section
variable {s : State} {f a : Nat} {h : W32} {o : TxPic} (offered : ((s.txf f).offers.find? fun e => e.agent == a && e.handle == h) = some o)
include offered

theorem State.txHand_offered : s.txHand f a h =
    let u := s.txOfferOut f a h
    if !u.txRuns f then u.txLetGo o
    else if u.bit (TXF_CTL f) 2 then (u.event (pgMPE (f / 16)) 9).txLetGo o
    else if !u.mtcOn then (u.event (pgMPE (f / 16)) 5).txLetGo o
    else
      let w := u.each (u.txf f).pics fun t p => (t.satF (TXC_LATE f) 15 0 ((t.txLine f p).1 * p.height - p.next)).txDrop [p] []
      w.setTxf f { w.txf f with pics := [o], late := false } := by
  rw [State.txHand, offered]
  rfl

theorem State.txHand_stopped (stopped : (s.txOfferOut f a h).txRuns f = false) : s.txHand f a h = (s.txOfferOut f a h).txLetGo o :=
  (State.txHand_offered offered).trans (if_pos (by rw [stopped]; rfl))

variable (runs : (s.txOfferOut f a h).txRuns f = true)
include runs

theorem State.txHand_slices (slices : (s.txOfferOut f a h).bit (TXF_CTL f) 2 = true) :
    s.txHand f a h = ((s.txOfferOut f a h).event (pgMPE (f / 16)) 9).txLetGo o :=
  (State.txHand_offered offered).trans ((if_neg (by rw [runs]; decide)).trans (if_pos slices))

variable (video : (s.txOfferOut f a h).bit (TXF_CTL f) 2 = false)
include video

theorem State.txHand_timeless (still : (s.txOfferOut f a h).mtcOn = false) :
    s.txHand f a h = ((s.txOfferOut f a h).event (pgMPE (f / 16)) 5).txLetGo o :=
  (State.txHand_offered offered).trans
    ((if_neg (by rw [runs]; decide)).trans ((if_neg (by rw [video]; decide)).trans (if_pos (by rw [still]; rfl))))

theorem State.txHand_takes (timed : (s.txOfferOut f a h).mtcOn = true) : s.txHand f a h =
    let u := s.txOfferOut f a h
    let w := u.each (u.txf f).pics fun t p => (t.satF (TXC_LATE f) 15 0 ((t.txLine f p).1 * p.height - p.next)).txDrop [p] []
    w.setTxf f { w.txf f with pics := [o], late := false } :=
  (State.txHand_offered offered).trans
    ((if_neg (by rw [runs]; decide)).trans ((if_neg (by rw [video]; decide)).trans (if_neg (by rw [timed]; decide))))

end

/-! The next packet. -/

section
variable {s : State} {flow : FlowId} (sends : s.txRuns flow.val = true ∨ ((s.txf flow.val).draining = true ∧ s.engineUp (flow.val / 16) = true))
include sends

theorem State.txSends : ¬(!s.txRuns flow.val && !((s.txf flow.val).draining && s.engineUp (flow.val / 16))) = true := by
  obtain runs | ⟨draining, up⟩ := sends
  · simp [runs]
  · simp [draining, up]

theorem exec_txPacketDue_picture {p : TxPic} {rest : List TxPic} (pics : (s.txf flow.val).pics = p :: rest) :
    exec (.txPacketDue flow) s = .next (s.txVideoDue flow.val p) := by
  refine congrArg Host.Outcome.next ((if_neg (State.txSends sends)).trans ?_)
  rw [pics]

variable (pics : (s.txf flow.val).pics = [])
include pics

theorem exec_txPacketDue_slice {x : TxUnit} {rest : List TxUnit} (units : (s.txf flow.val).units = x :: rest) :
    exec (.txPacketDue flow) s = .next (if s.mtcOn then s.txSliceDue flow.val x else s.event (pgMPE (flow.val / 16)) 5) := by
  refine congrArg Host.Outcome.next ((if_neg (State.txSends sends)).trans ?_)
  rw [pics, units]

theorem exec_txPacketDue_nothing (units : (s.txf flow.val).units = []) : exec (.txPacketDue flow) s = .next s := by
  refine congrArg Host.Outcome.next ((if_neg (State.txSends sends)).trans ?_)
  rw [pics, units]

end

/-- Settles O50: the flow's switches by EN and what it holds, a picture handed over by what the flow is, and the packet by what waits first. -/
theorem mediaTransmit : Obligations.MediaTransmit := by
  refine ⟨?_, ?_, ?_⟩
  · intro who tx flow s f p u ok served
    have enable := exec_flowEnable_served (tx := tx) served
    have drain := exec_flowDrain_served (tx := tx) served
    have abort := exec_flowAbort_served (tx := tx) served
    refine ⟨fun busy => ?_, fun off idle => ⟨fun passes => ?_, fun fails => ?_⟩, fun off => ?_, fun on => ⟨drain, ?_⟩, fun off idle => ?_, fun _ => abort⟩
    · rw [enable, State.flowEnable_ignored busy]
    · obtain ⟨enabled, fresh⟩ := State.flowEnable_starts off idle passes
      refine ⟨_, enable, (State.told_bit _ who _ _).trans enabled, fun receives => ?_⟩
      rw [State.told_rxf, State.told_f]
      exact fresh receives
    · rw [enable, State.flowEnable_refused off idle fails]
    · rw [drain, State.flowDrain_ignored off]
    · intro receives
      subst receives
      obtain ⟨disabled, pics⟩ := State.flowDrain_receive (s := u) on
      refine ⟨_, drain, (State.told_bit _ who _ _).trans disabled, ?_⟩
      rw [State.told_rxf]
      exact pics
    · rw [abort, State.flowAbort_ignored off idle]
  · intro flow a h o s f u drop up offered
    have hand : exec (.txHandover flow a h) s = .next (s.txHand f a h) := congrArg Host.Outcome.next (if_pos up)
    refine ⟨fun stopped => ?_, fun runs slices => ?_, fun runs video still => ?_, fun runs video timed empty => ?_, fun p runs video timed one => ?_⟩
    · exact hand.trans (congrArg Host.Outcome.next (State.txHand_stopped offered stopped))
    · exact hand.trans (congrArg Host.Outcome.next (State.txHand_slices offered runs slices))
    · exact hand.trans (congrArg Host.Outcome.next (State.txHand_timeless offered runs video still))
    · refine hand.trans (congrArg Host.Outcome.next ((State.txHand_takes offered runs video timed).trans ?_))
      simp only [show ((s.txOfferOut f a h).txf f).pics = [] from empty]
      rfl
    · refine hand.trans (congrArg Host.Outcome.next ((State.txHand_takes offered runs video timed).trans ?_))
      simp only [show ((s.txOfferOut f a h).txf f).pics = [p] from one]
      rfl
  · intro flow s f sends
    refine ⟨fun p rest pics => exec_txPacketDue_picture sends pics, fun x rest pics units => ?_, fun pics units => exec_txPacketDue_nothing sends pics units⟩
    have slice := exec_txPacketDue_slice sends pics units
    exact ⟨fun timed => slice.trans (congrArg Host.Outcome.next (if_pos timed)),
      fun still => slice.trans (congrArg Host.Outcome.next (if_neg (by rw [still]; decide)))⟩

end Sys2Proof.Machine
end

section
/-! Ports: their modes, links, retries, credits and probes, and the route table (R452 to R465, R486, R489; log entries 33 to 36, 39, 131). -/

namespace Sys2Proof.Machine

/-! The masks of the mode and of a route entry. -/

theorem fld_and (v w : W32) (hi : Nat) : fld (v &&& w) hi 0 = fld v hi 0 &&& fld w hi 0 := by
  simp only [fld, BitVec.toNat_and, Nat.shiftRight_zero, Nat.and_mod_two_pow]

theorem fld_portMode (v : W32) : fld (v &&& 0x3F) 1 0 = fld v 1 0 := by
  rw [fld_and]
  exact (Nat.and_two_pow_sub_one_eq_mod _ 2).trans (Nat.mod_eq_of_lt (fld_lt v 1 0))

theorem fld_routePrimary (v : W32) : fld (v &&& 0x1F7) 2 0 = fld v 2 0 := by
  rw [fld_and]
  exact (Nat.and_two_pow_sub_one_eq_mod _ 3).trans (Nat.mod_eq_of_lt (fld_lt v 2 0))

theorem fld_routeEntry (v : W32) : fld (v &&& 0x1F7) 8 0 = v.toNat % 512 &&& 0x1F7 := fld_and v 0x1F7 8

/-! Ports and their pages. -/

theorem portPartner_ne (n : PortId) : portPartner n.val ≠ n.val := by
  revert n
  decide

/-- No sequencer serves a page above the DCH pages. -/
theorem State.noted_above (s : State) (who : Who) {p : Nat} (above : 0x24C ≤ p) : s.noted who p = s :=
  State.noted_plain (by omega) (by unfold pgCSW; omega) (by unfold pgSMB; omega) (by omega)

theorem State.noted_portPage (s : State) (who : Who) (n : PortId) : s.noted who (pgTPT n.val) = s :=
  s.noted_above who (by unfold pgTPT; omega)

theorem State.noted_routePage (s : State) (who : Who) (m : Fin 4096) : s.noted who (pgTRT + m.val / 512) = s :=
  s.noted_above who (by unfold pgTRT; omega)

theorem ctlMode_port (n : PortId) : ctlMode (pgTPT n.val) = .host := by
  revert n
  decide

/-- PLLB_REF_OK alone follows a port's reference. -/
theorem State.refUpdate_eq (s : State) : s.refUpdate = s.setB CKG_SYS 12 s.refB := rfl

theorem State.refUpdate_reg (s : State) {a : Nat} (apart : a ≠ CKG_SYS) : s.refUpdate.reg a = s.reg a := by
  rw [State.refUpdate_eq, State.setB_eq, State.reg_setReg_ne _ _ apart]

theorem State.refUpdate_port (s : State) (n : Nat) : s.refUpdate.port n = s.port n := rfl

/-! TPT_MODE. -/

/-- The mode of a port that is written, before its partner follows. -/
def State.modeSet (s : State) (n : Nat) (v : W32) : State := s.setReg (TPT_MODE n) (v &&& 0x3F)

/-- The partner of a port that leaves CASTLE leaves it too. -/
def State.partnerDown (s : State) (n : Nat) : State :=
  if s.portMode n ≠ 0 ∧ s.portMode (portPartner n) = 0 then s.setF (TPT_MODE (portPartner n)) 1 0 1 else s

section
variable {s : State} {n : PortId} {v : W32}

theorem State.modeWrite_enabled (busy : s.bit (hCTL (pgTPT n.val)) 0 = true ∨ s.inDrain (pgTPT n.val) = true) : s.modeWrite n.val v = s :=
  if_pos (by simpa using busy)

theorem State.modeWrite_disabled (off : s.bit (hCTL (pgTPT n.val)) 0 = false) (calm : s.inDrain (pgTPT n.val) = false) :
    s.modeWrite n.val v = ((s.modeSet n.val v).partnerDown n.val).castling n.val :=
  if_neg (by rw [off, calm]; decide)

theorem State.modeSet_portMode : (s.modeSet n.val v).portMode n.val = fld v 1 0 ∧
    (s.modeSet n.val v).portMode (portPartner n.val) = s.portMode (portPartner n.val) := by
  have apart := portPartner_ne n
  refine ⟨?_, State.f_setReg_ne _ _ _ _ (by simp only [TPT_MODE]; omega)⟩
  rw [State.portMode, State.f, State.modeSet, State.reg_setReg_same, fld_portMode]

/-- What the partner's step leaves: the port's mode, and the partner's, DOWN where the port has left CASTLE alone. -/
theorem State.partnerDown_modes (u : State) :
    (u.partnerDown n.val).reg (TPT_MODE n.val) = u.reg (TPT_MODE n.val) ∧
      (u.partnerDown n.val).portMode (portPartner n.val) =
        if u.portMode n.val ≠ 0 ∧ u.portMode (portPartner n.val) = 0 then 1 else u.portMode (portPartner n.val) := by
  have apart := portPartner_ne n
  unfold State.partnerDown
  split
  · exact ⟨State.reg_setReg_ne _ _ (by simp only [TPT_MODE]; omega), State.f_setF_same _ _ _ _ (by decide)⟩
  · exact ⟨rfl, rfl⟩

/-- CASTLING of both ports says whether both are in CASTLE mode, and nothing else changes. -/
theorem State.castling_spec (u : State) :
    (u.castling n.val).bit (TPT_LINK n.val) 1 = (u.portMode n.val == 0 && u.portMode (portPartner n.val) == 0) ∧
      (u.castling n.val).bit (TPT_LINK (portPartner n.val)) 1 = (u.portMode n.val == 0 && u.portMode (portPartner n.val) == 0) ∧
      ∀ k, (u.castling n.val).reg (TPT_MODE k) = u.reg (TPT_MODE k) := by
  have apart := portPartner_ne n
  refine ⟨?_, State.bit_setB_same _ _ _ (by decide), fun k => ?_⟩
  · rw [State.castling, State.setB_eq _ (TPT_LINK (portPartner n.val)), State.bit_setReg_ne _ _ _ (by simp only [TPT_LINK]; omega),
      State.bit_setB_same _ _ _ (by decide)]
  · rw [State.castling, State.setB_eq, State.reg_setReg_ne _ _ (by simp only [TPT_LINK, TPT_MODE]; omega), State.setB_eq,
      State.reg_setReg_ne _ _ (by simp only [TPT_LINK, TPT_MODE]; omega)]

/-- A disabled port takes its mode. -/
theorem State.modeWrite_takes (off : s.bit (hCTL (pgTPT n.val)) 0 = false) (calm : s.inDrain (pgTPT n.val) = false) :
    let t := (s.modeWrite n.val v).refUpdate
    let m := portPartner n.val
    t.reg (TPT_MODE n.val) = v &&& 0x3F ∧ t.portMode m = (if fld v 1 0 ≠ 0 ∧ s.portMode m = 0 then 1 else s.portMode m) ∧
      t.bit (TPT_LINK n.val) 1 = (fld v 1 0 == 0 && t.portMode m == 0) ∧ t.bit (TPT_LINK m) 1 = t.bit (TPT_LINK n.val) 1 := by
  intro t m
  let w := (s.modeSet n.val v).partnerDown n.val
  have wrote : s.modeWrite n.val v = w.castling n.val := State.modeWrite_disabled off calm
  obtain ⟨own, partner⟩ := State.modeSet_portMode (s := s) (n := n) (v := v)
  obtain ⟨kept, down⟩ := State.partnerDown_modes (n := n) (s.modeSet n.val v)
  obtain ⟨here, there, modes⟩ := State.castling_spec (n := n) w
  have mode (k : Nat) : t.reg (TPT_MODE k) = w.reg (TPT_MODE k) := by
    rw [State.refUpdate_reg _ (by simp only [TPT_MODE, CKG_SYS]; omega), wrote, modes]
  have link (k : Nat) : t.bit (TPT_LINK k) 1 = (w.castling n.val).bit (TPT_LINK k) 1 := by
    rw [State.bit, State.refUpdate_reg _ (by simp only [TPT_LINK, CKG_SYS]; omega), wrote, State.bit]
  have mine : w.portMode n.val = fld v 1 0 := (congrArg (fld · 1 0) kept).trans own
  have theirs : t.portMode m = w.portMode m := congrArg (fld · 1 0) (mode m)
  refine ⟨?_, ?_, ?_, ?_⟩
  · rw [mode, kept, State.modeSet, State.reg_setReg_same]
  · rw [theirs, down, own, partner]
  · rw [link, here, mine, theirs]
  · rw [link, link, here, there]

end

/-! Links that train, come up and go down. -/

section
variable {s : State} {n : PortId}

/-- EN of a native port that is at rest starts its training. -/
theorem State.portEnable_native (native : s.portMode n.val = 2) (off : s.bit (hCTL (pgTPT n.val)) 0 = false) (calm : s.inDrain (pgTPT n.val) = false) :
    s.portEnable n.val = (s.setB (hCTL (pgTPT n.val)) 0 true).trainLink n.val := by
  have kept : (s.setB (hCTL (pgTPT n.val)) 0 true).portMode n.val = 2 := by
    rw [State.portMode, State.setB_eq, State.f_setReg_ne _ _ _ _ (by simp only [TPT_MODE, hCTL, pgTPT]; omega)]
    exact native
  refine (if_neg (by rw [native, off, calm]; decide)).trans (if_pos ?_)
  rw [kept]
  decide

theorem exec_linkTrainingStart_rest {who : Who} (served : s.servedHdr who (pgTPT n.val) = true) (calm : s.busy (pgTPT n.val) = false)
    (native : s.portMode n.val = 2) (off : s.bit (hCTL (pgTPT n.val)) 0 = false) (idle : s.pageActive (pgTPT n.val) = false) :
    exec (.linkTrainingStart who n) s = .next ((((s.setB (hCTL (pgTPT n.val)) 1 false).setB (hCTL (pgTPT n.val)) 0 true).trainLink n.val).told who) := by
  obtain ⟨start, -, -⟩ := State.ctlWrite_stopped (.inl (ctlMode_port n)) calm off idle
  obtain ⟨row, info, block⟩ := pageInfo_port n
  let u := s.setB (hCTL (pgTPT n.val)) 1 false
  have native' : u.portMode n.val = 2 := by
    exact (State.f_setReg_ne _ _ _ _ (by simp only [TPT_MODE, hCTL, pgTPT]; omega)).trans native
  have off' : u.bit (hCTL (pgTPT n.val)) 0 = false := (State.bit_setB_ne _ _ _ (by decide)).trans off
  have calm' : u.inDrain (pgTPT n.val) = false := (Bool.or_eq_false_iff.mp idle).1
  have enable : u.blockStart (pgTPT n.val) = u.portEnable n.val := by simp only [State.blockStart, info, block]
  refine congrArg Host.Outcome.next ((State.accessHdr_served served _).trans ?_)
  rw [State.noted_portPage, start, enable, State.portEnable_native native' off' calm']

end

/-- The status of a link that comes up. -/
def State.linkStatus (s : State) (n : Nat) (reversed : Bool) : W32 :=
  let native := s.portMode n == 2
  let lanes := if native then 15 else etherLanes (s.f (TPT_MODE n) 3 2)
  let fec := native || s.f (TPT_MODE n) 3 2 != 3 || s.bit (TPT_MODE n) 4
  BitVec.ofNat 32 (1 ||| lanes <<< 2 ||| b2n fec <<< 6 ||| b2n (native && reversed) <<< 7)

theorem State.linkStatus_up (s : State) (n : Nat) (reversed : Bool) : bitAt (s.linkStatus n reversed) 0 = true := by
  simp [State.linkStatus, bitAt_eq]

/-- The registers of the link that is up, before its credits. -/
def State.linkMarked (s : State) (n : Nat) (credits : List Nat) (reversed : Bool) : State :=
  (s.setReg (TPT_LINK n) (s.linkStatus n reversed)).setPort n
    { s.port n with training := false, credits := (span 0 4).map fun v => credits.getD v 0 % 1024 }

/-- The credits that the partner gives are counted. -/
def State.creditsIn (s : State) (n : Nat) (credits : List Nat) : State :=
  s.each (span 0 4) fun t v => t.setReg (TPT_CREDIT n v) (BitVec.ofNat 32 (credits.getD v 0 % 1024))

theorem State.linkUp_eq (s : State) (n : Nat) (credits : List Nat) (reversed : Bool) :
    s.linkUp n credits reversed =
      ((if s.portMode n == 2 then (s.linkMarked n credits reversed).creditsIn n credits else s.linkMarked n credits reversed).event (pgTPT n) 0) := rfl

theorem State.creditsIn_spec (s : State) (n : Nat) (credits : List Nat) :
    (∀ v, v < 4 → (s.creditsIn n credits).reg (TPT_CREDIT n v) = BitVec.ofNat 32 (credits.getD v 0 % 1024)) ∧
      (s.creditsIn n credits).reg (TPT_LINK n) = s.reg (TPT_LINK n) ∧ (s.creditsIn n credits).port n = s.port n := by
  have four : s.creditsIn n credits =
      (((s.setReg (TPT_CREDIT n 0) (BitVec.ofNat 32 (credits.getD 0 0 % 1024))).setReg (TPT_CREDIT n 1) (BitVec.ofNat 32 (credits.getD 1 0 % 1024))).setReg
        (TPT_CREDIT n 2) (BitVec.ofNat 32 (credits.getD 2 0 % 1024))).setReg (TPT_CREDIT n 3) (BitVec.ofNat 32 (credits.getD 3 0 % 1024)) := rfl
  rw [four]
  refine ⟨fun v hv => ?_, ?_, by simp only [State.setReg_port]⟩
  · simp only [State.reg_setReg, TPT_CREDIT, Nat.add_left_cancel_iff]
    interval_cases v <;> simp
  · have apart (v : Nat) : TPT_LINK n ≠ TPT_CREDIT n v := by simp only [TPT_CREDIT, TPT_LINK]; omega
    rw [State.reg_setReg_ne _ _ (apart 3), State.reg_setReg_ne _ _ (apart 2), State.reg_setReg_ne _ _ (apart 1), State.reg_setReg_ne _ _ (apart 0)]

/-- A link that comes up is UP, no longer trains, counts its credits where it is native, and sets its event. -/
theorem State.linkUp_spec (s : State) (n : Nat) (credits : List Nat) (reversed : Bool) :
    let t := (s.linkUp n credits reversed).refUpdate
    t.bit (TPT_LINK n) 0 = true ∧ (t.port n).training = false ∧ t.bit (hEVT (pgTPT n)) 0 = true ∧
      (s.portMode n = 2 → ∀ v, v < 4 → t.reg (TPT_CREDIT n v) = BitVec.ofNat 32 (credits.getD v 0 % 1024)) := by
  intro t
  let u := s.linkMarked n credits reversed
  let w := if s.portMode n == 2 then u.creditsIn n credits else u
  obtain ⟨counted, status, port⟩ := State.creditsIn_spec u n credits
  have up : t = (w.event (pgTPT n) 0).refUpdate := congrArg State.refUpdate (State.linkUp_eq s n credits reversed)
  have other {a : Nat} (h : a ≠ CKG_SYS) (h' : a ≠ hEVT (pgTPT n)) : t.reg a = w.reg a := by
    rw [up, State.refUpdate_reg _ h, State.event_eq, State.reg_setReg_ne _ _ h']
  have linkReg : w.reg (TPT_LINK n) = s.linkStatus n reversed :=
    (show w.reg (TPT_LINK n) = u.reg (TPT_LINK n) by simp only [w]; split; exacts [status, rfl]).trans (State.reg_setReg_same _ _ _)
  have linkPort : w.port n = u.port n := by simp only [w]; split; exacts [port, rfl]
  refine ⟨?_, ?_, ?_, fun native v hv => ?_⟩
  · rw [State.bit, other (by simp only [TPT_LINK, CKG_SYS]; omega) (by simp only [TPT_LINK, hEVT, pgTPT]; omega), linkReg, State.linkStatus_up]
  · rw [up, State.refUpdate_port, State.event_eq, State.setReg_port, linkPort]
    exact congrArg Port.training (State.port_setPort_same _ _ _)
  · rw [up, State.bit, State.refUpdate_reg _ (by simp only [hEVT, pgTPT, CKG_SYS]; omega)]
    exact State.bit_setB_same _ _ _ (by decide)
  · rw [other (by simp only [TPT_CREDIT, CKG_SYS]; omega) (by simp only [TPT_CREDIT, hEVT, pgTPT]; omega)]
    exact (congrArg (State.reg · (TPT_CREDIT n v)) (if_pos (beq_iff_eq.mpr native))).trans (counted v hv)

end Sys2Proof.Machine
end

section
/-! Port commands, probes and routes assembled (R456 to R465, R486, R489). -/

namespace Sys2Proof.Machine

/-! Retries and credits. -/

section
variable {s : State} {port : PortId}

theorem State.linkNak_replays (held : (s.port port.val).replay ≠ 0) (few : (s.port port.val).naks < 16) :
    s.linkNak port.val =
      ((((s.setPort port.val { s.port port.val with naks := (s.port port.val).naks + 1 }).satF (TPT_RETRY_CNT port.val) 15 0
        (s.port port.val).replay).raise (154 + port.val) 255 0)).emit (.replay port.val (s.port port.val).oldest) :=
  (if_neg held).trans (if_neg (Nat.not_le.mpr few))

theorem State.linkAck_frees {k : Nat} (some : 0 < k) (most : k ≤ (s.port port.val).replay) (empty : (s.port port.val).queue = []) :
    s.linkAck port.val k =
      s.setPort port.val { s.port port.val with replay := (s.port port.val).replay - k, oldest := ((s.port port.val).oldest + k) % 4096, naks := 0 } := by
  simp only [State.linkAck, Nat.min_eq_left most]
  rw [if_neg (Nat.pos_iff_ne_zero.mp some), congrArg List.length empty]
  rfl

theorem State.creditsBack_beyond {v k : Nat} (beyond : (s.port port.val).credits.getD v 0 < s.f (TPT_CREDIT port.val v) 9 0 + k) :
    s.creditsBack port.val v k = (s.event (pgTPT port.val) 7).linkReset port.val := if_pos beyond

theorem State.creditsBack_within {v k : Nat} (within : s.f (TPT_CREDIT port.val v) 9 0 + k ≤ (s.port port.val).credits.getD v 0)
    (empty : (s.port port.val).queue = []) :
    s.creditsBack port.val v k = s.setF (TPT_CREDIT port.val v) 9 0 (s.f (TPT_CREDIT port.val v) 9 0 + k) := by
  refine (if_neg (Nat.not_lt.mpr within)).trans ?_
  rw [State.setF_eq, State.setReg_port, empty]
  rfl

end

/-! Probes (R463, R489). -/

/-- What the answer to a probe says, as its register holds it. -/
def probeWord (node farPort mode : Nat) : Nat := node % 4096 ||| (farPort % 8) <<< 12 ||| (mode % 4) <<< 16 ||| 1 <<< 31

theorem or_shiftLeft_eq_add {a k : Nat} (b : Nat) (low : a < 2 ^ k) : a ||| b <<< k = a + b * 2 ^ k := by
  rw [Nat.or_comm, ← Nat.shiftLeft_add_eq_or_of_lt low, Nat.shiftLeft_eq, Nat.add_comm]

/-- The fields of the answer's register do not overlap. -/
theorem probeWord_eq (node farPort mode : Nat) :
    probeWord node farPort mode = node % 4096 + (farPort % 8) * 2 ^ 12 + (mode % 4) * 2 ^ 16 + 2 ^ 31 := by
  rw [probeWord, or_shiftLeft_eq_add (farPort % 8) (by omega : node % 4096 < 2 ^ 12), or_shiftLeft_eq_add (mode % 4) (by omega),
    or_shiftLeft_eq_add 1 (by omega), Nat.one_mul]

theorem probeWord_fields (node farPort mode : Nat) :
    let w := BitVec.ofNat 32 (probeWord node farPort mode)
    fld w 11 0 = node % 4096 ∧ fld w 14 12 = farPort % 8 ∧ fld w 17 16 = mode % 4 ∧ bitAt w 31 = true := by
  intro w
  have lt : probeWord node farPort mode < 2 ^ 32 := by rw [probeWord_eq]; omega
  refine ⟨?_, ?_, ?_, ?_⟩
  · rw [fld_ofNat _ _ lt, probeWord_eq, Nat.shiftRight_zero]; omega
  · rw [fld_ofNat _ _ lt, probeWord_eq, Nat.shiftRight_eq_div_pow]; omega
  · rw [fld_ofNat _ _ lt, probeWord_eq, Nat.shiftRight_eq_div_pow]; omega
  · rw [bitAt, BitVec.toNat_ofNat, Nat.mod_eq_of_lt lt, probeWord_eq, Nat.testBit_eq_decide_div_mod_eq, decide_eq_true_iff]; omega

section
variable {s : State} {port : PortId} (live : s.portLive port.val = true)
include live

theorem exec_probeAns_stray (none : s.bit (TPT_PROBE_CTL port.val) 0 = false) (serial : W64) (node farPort mode : Nat) :
    exec (.probeAns port serial node farPort mode) s = .next (s.inc (TPT_RX_FLITS port.val)) := by
  have still : (s.portRx port.val 1).bit (TPT_PROBE_CTL port.val) 0 = false :=
    (State.bit_setReg_ne _ _ _ (by simp only [TPT_PROBE_CTL, TPT_RX_FLITS]; omega)).trans none
  exact congrArg Host.Outcome.next ((if_neg (by rw [live]; decide)).trans (if_pos (by rw [still]; rfl)))

theorem exec_probeAns_kept (probed : s.bit (TPT_PROBE_CTL port.val) 0 = true) (serial : W64) (node farPort mode : Nat) :
    exec (.probeAns port serial node farPort mode) s =
      .next (((((s.portRx port.val 1).setPair (TPT_PROBE_SER_LO port.val) (TPT_PROBE_SER_HI port.val) serial.toNat).setReg (TPT_PROBE_ANS port.val)
        (BitVec.ofNat 32 (probeWord node farPort mode))).setReg (TPT_PROBE_CTL port.val) 0).event (pgTPT port.val) 4) := by
  have still : (s.portRx port.val 1).bit (TPT_PROBE_CTL port.val) 0 = true :=
    (State.bit_setReg_ne _ _ _ (by simp only [TPT_PROBE_CTL, TPT_RX_FLITS]; omega)).trans probed
  exact congrArg Host.Outcome.next ((if_neg (by rw [live]; decide)).trans (if_neg (by rw [still]; decide)))

theorem exec_probe_live :
    exec (.probe port) s = .next ((s.portRx port.val 1).portSend port.val (probeHeader 1 s.nodeId 16) (s.probeBytes port.val)) :=
  congrArg Host.Outcome.next (if_pos live)

end

/-- The answer that is kept: its fields, no probe outstanding, the event. -/
theorem State.probeKept_spec (u : State) (n : Nat) (serial : W64) (node farPort mode : Nat) :
    let t := (((u.setPair (TPT_PROBE_SER_LO n) (TPT_PROBE_SER_HI n) serial.toNat).setReg (TPT_PROBE_ANS n)
      (BitVec.ofNat 32 (probeWord node farPort mode))).setReg (TPT_PROBE_CTL n) 0).event (pgTPT n) 4
    t.pair (TPT_PROBE_SER_LO n) (TPT_PROBE_SER_HI n) = serial.toNat ∧ t.reg (TPT_PROBE_ANS n) = BitVec.ofNat 32 (probeWord node farPort mode) ∧
      t.bit (TPT_PROBE_CTL n) 0 = false ∧ t.bit (hEVT (pgTPT n)) 4 = true := by
  intro t
  refine ⟨?_, ?_, ?_, State.bit_setB_same _ _ _ (by decide)⟩
  · simp only [t, State.event_eq]
    rw [State.pair_setReg_ne _ _ (by simp only [TPT_PROBE_SER_LO, hEVT, pgTPT]; omega) (by simp only [TPT_PROBE_SER_HI, hEVT, pgTPT]; omega),
      State.pair_setReg_ne _ _ (by simp only [TPT_PROBE_SER_LO, TPT_PROBE_CTL]; omega) (by simp only [TPT_PROBE_SER_HI, TPT_PROBE_CTL]; omega),
      State.pair_setReg_ne _ _ (by simp only [TPT_PROBE_SER_LO, TPT_PROBE_ANS]; omega) (by simp only [TPT_PROBE_SER_HI, TPT_PROBE_ANS]; omega),
      State.pair_setPair _ _ (by simp only [TPT_PROBE_SER_LO, TPT_PROBE_SER_HI]; omega) serial.isLt]
  · simp only [t, State.event_eq]
    rw [State.reg_setReg_ne _ _ (by simp only [TPT_PROBE_ANS, hEVT, pgTPT]; omega),
      State.reg_setReg_ne _ _ (by simp only [TPT_PROBE_ANS, TPT_PROBE_CTL]; omega), State.reg_setReg_same]
  · simp only [t, State.event_eq]
    rw [State.bit_setReg_ne _ _ _ (by simp only [TPT_PROBE_CTL, hEVT, pgTPT]; omega), State.bit, State.reg_setReg_same]
    rfl

section
variable {s : State} {port : PortId} {who : Who} (served : s.served who (pgTPT port.val) = true)
include served

theorem exec_probeGo_served : exec (.probeGo who port) s = .next ((s.probeWrite port.val 1).told who) :=
  congrArg Host.Outcome.next ((State.access_served served _).trans (by rw [State.noted_portPage]))

theorem exec_tptModeWrite_served (v : W32) : exec (.tptModeWrite who port v) s = .next ((s.modeWrite port.val v).refUpdate.told who) :=
  congrArg Host.Outcome.next ((State.access_served served _).trans (by rw [State.noted_portPage]))

end

theorem State.probeWrite_sends {s : State} {n : Nat} (idle : s.bit (TPT_PROBE_CTL n) 0 = false) (takes : s.portTakes n = true) :
    s.probeWrite n 1 = (s.setReg (TPT_PROBE_CTL n) 1).portSend n (probeHeader 0 s.nodeId 0) [] :=
  if_pos (by rw [idle, takes]; decide)

theorem State.probeWrite_ignored {s : State} {n : Nat} (not : s.bit (TPT_PROBE_CTL n) 0 = true ∨ s.portTakes n = false) : s.probeWrite n 1 = s := by
  refine if_neg ?_
  obtain waits | none := not
  · simp [waits]
  · simp [none]

/-! Routes (R486). -/

theorem exec_routeEntryWrite_served {s : State} {who : Who} {m : Fin 4096} (served : s.served who (pgTRT + m.val / 512) = true) (v : W32) :
    exec (.routeEntryWrite who m v) s = .next ((s.routeWrite m.val v).told who) :=
  congrArg Host.Outcome.next ((State.access_served served _).trans (by rw [State.noted_routePage]))

/-- ON_ALT stays where the primary and its alternate do. -/
def routeStays (old w : W32) : Bool := bitAt old 9 && fld old 2 0 == fld w 2 0 && bitAt w 8 && bitAt w 7

theorem State.routeWrite_taken {s : State} {m : Nat} (v : W32) (first : m ≠ 0) (last : m ≠ 4095) :
    s.routeWrite m v = s.setReg (TRT_ENTRY m) (setBit (v &&& 0x1F7) 9 (routeStays (s.reg (TRT_ENTRY m)) (v &&& 0x1F7))) :=
  if_neg (by simp [first, last])

theorem routeEntry_spec (old v : W32) :
    let e := setBit (v &&& 0x1F7) 9 (routeStays old (v &&& 0x1F7))
    fld e 8 0 = v.toNat % 512 &&& 0x1F7 ∧ (bitAt e 9 = true → bitAt old 9 = true ∧ fld v 2 0 = fld old 2 0) := by
  intro e
  refine ⟨(fld_setBit_ne _ _ (.inl (by decide))).trans (fld_routeEntry v), fun alt => ?_⟩
  have stays : routeStays old (v &&& 0x1F7) = true := (bitAt_setBit_same _ 9 _ (by decide)).symm.trans alt
  simp only [routeStays, Bool.and_eq_true, beq_iff_eq, fld_routePrimary] at stays
  obtain ⟨⟨⟨on, primary⟩, -⟩, -⟩ := stays
  exact ⟨on, primary.symm⟩

/-- Settles O52: modes by the port's enable, links by their training, retries by what is held, probes by what waits, and routes by their node. -/
theorem ports : Obligations.Ports := by
  refine ⟨?_, ?_, ?_⟩
  · intro who port s n p u m
    have same : u = s := State.noted_portPage s who port
    rw [same]
    refine ⟨fun v served => ?_, fun served calm native off idle => exec_linkTrainingStart_rest served calm native off idle, fun served => ?_⟩
    · have write := exec_tptModeWrite_served served v
      refine ⟨fun busy => ?_, fun off calm => ?_⟩
      · rw [write, State.modeWrite_enabled busy]
      · obtain ⟨mode, partner, castling, both⟩ := State.modeWrite_takes (v := v) off calm
        refine ⟨_, write, ?_⟩
        rw [State.told_reg, State.told_bit, State.told_bit, State.portMode, State.told_f]
        exact ⟨mode, partner, castling, both⟩
    · have go := exec_probeGo_served served
      refine ⟨fun idle takes => ?_, fun not => ?_⟩
      · rw [go, State.probeWrite_sends idle takes]
      · rw [go, State.probeWrite_ignored not]
  · intro port s n p clocked
    refine ⟨fun credits rev native training open' => ?_, fun native training => congrArg Host.Outcome.next (if_pos ?_),
      fun up => congrArg Host.Outcome.next (if_pos ?_), fun up => congrArg Host.Outcome.next (if_pos ?_),
      fun ether on down open' => ?_, fun live => ?_, fun open' probed => congrArg Host.Outcome.next (if_pos ?_)⟩
    · obtain ⟨up, trained, event, counted⟩ := State.linkUp_spec s n credits rev
      exact ⟨_, congrArg Host.Outcome.next (if_pos (by rw [clocked, native, training, open']; rfl)), up, trained, counted native, event⟩
    · rw [clocked, native, training]; rfl
    · rw [clocked, up]; rfl
    · rw [clocked, up]; rfl
    · obtain ⟨up, -, event, -⟩ := State.linkUp_spec s n [] false
      exact ⟨_, congrArg Host.Outcome.next (if_pos (by rw [clocked, ether, on, down, open']; rfl)), up, event⟩
    · have nak : exec (.flitNak port) s = .next (s.linkNak n) := congrArg Host.Outcome.next (if_pos live)
      have ack (k : Nat) : exec (.flitAck port k) s = .next (s.linkAck n k) := congrArg Host.Outcome.next (if_pos live)
      have credit (v : Fin 4) (k : Nat) : exec (.creditReturn port v k) s = .next (s.creditsBack n v.val k) := congrArg Host.Outcome.next (if_pos live)
      refine ⟨fun none => ⟨nak.trans (congrArg Host.Outcome.next (if_pos none)), congrArg Host.Outcome.next (if_neg ?_)⟩,
        fun held => congrArg Host.Outcome.next (if_pos ?_), fun held many => nak.trans (congrArg Host.Outcome.next ((if_neg held).trans (if_pos many))),
        fun held few => nak.trans (congrArg Host.Outcome.next (State.linkNak_replays held few)), ack,
        fun k some most empty => (ack k).trans (congrArg Host.Outcome.next (State.linkAck_frees some most empty)),
        fun v k beyond => (credit v k).trans (congrArg Host.Outcome.next (State.creditsBack_beyond beyond)),
        fun v k within empty => (credit v k).trans (congrArg Host.Outcome.next (State.creditsBack_within within empty)),
        fun returning => congrArg Host.Outcome.next (if_pos ?_), exec_probe_live live, fun serial node farPort mode probed => ?_⟩
      · rw [live, none]; decide
      · rw [live, Bool.true_and]; exact bne_iff_ne.mpr held
      · rw [live, returning]; rfl
      · obtain ⟨ser, ans, ctl, event⟩ := State.probeKept_spec (s.portRx n 1) n serial node farPort mode
        obtain ⟨who, far, kind, valid⟩ := probeWord_fields node farPort mode
        refine ⟨_, exec_probeAns_kept live probed serial node farPort mode, ser, ?_, ?_, ?_, ?_, ctl, event⟩
        · exact (congrArg (fld · 11 0) ans).trans who
        · exact (congrArg (fld · 14 12) ans).trans far
        · exact (congrArg (fld · 17 16) ans).trans kind
        · exact (congrArg (bitAt · 31) ans).trans valid
    · rw [clocked, open', probed]; rfl
  · intro who entry v s m p served
    have write := exec_routeEntryWrite_served served v
    refine ⟨fun edge => ?_, fun first last => ?_⟩
    · rw [write, State.noted_routePage]
      exact congrArg (fun t : State => Host.Outcome.next (t.told who)) (if_pos edge)
    · obtain ⟨taken, alt⟩ := routeEntry_spec (s.reg (TRT_ENTRY m)) v
      refine ⟨_, write, ?_⟩
      rw [State.told_f, State.told_bit, State.routeWrite_taken v first last, State.f, State.bit, State.reg_setReg_same]
      exact ⟨taken, alt⟩

/-! The answer to a probe (R489). -/

/-- A packet at the head of an empty queue leaves where its channel is CTRL and it has its credits and its room. -/
theorem State.portSend_ctrl {s : State} {n : Nat} {h : FabHeader} {bs : List Byte} (up : s.nativeUp n = true) (ctrl : h.vc = 0)
    (empty : (s.port n).queue = []) (credit : flitsOf bs ≤ s.f (TPT_CREDIT n 0) 9 0) (room : (s.port n).replay + flitsOf bs ≤ 512) :
    (s.portSend n h bs).outbox = s.outbox ++ [Output.fabric n h bs] := by
  let u := s.setPort n { s.port n with queue := (s.port n).queue ++ [(h, bs)] }
  have port : u.port n = { s.port n with queue := [(h, bs)] } := by rw [State.port_setPort_same, empty, List.nil_append]
  have sendable : u.sendable n 0 = some (h, bs) := by
    rw [State.sendable, port]
    simp only [List.find?_cons, ctrl, beq_self_eq_true]
    exact if_pos ⟨credit, room⟩
  have first : u.arbitrate n = some (h, bs) := by
    unfold State.arbitrate
    split <;> simp only [List.findSome?_cons, sendable]
  have pump : s.portSend n h bs = u.portPump n 1 := congrArg (State.portPump u n) (by rw [port]; rfl)
  rw [pump, State.portPump, if_neg (by rw [show u.nativeUp n = true from up]; decide)]
  simp only [first, State.portPump, State.emit, State.inc_eq, State.setF_eq, State.setReg_outbox, State.setPort_outbox]
  rfl

theorem flitsOf_probeBytes (s : State) (n : Nat) : flitsOf (s.probeBytes n) = 1 := by
  simp only [flitsOf, State.probeBytes, List.length_append, length_leBytes]
  rfl

theorem pageDomain_lt {p d : Nat} (domain : pageDomain p = some d) : d < 128 := by
  unfold pageDomain at domain
  split_ifs at domain <;> simp only [Option.some.injEq] at domain <;> omega

/-- What a page's domain is doing stands in the gates alone. -/
theorem State.gated_setReg (s : State) {a : Nat} (v : W32) (p : Nat) (apart : a < CKG_GATE_0 ∨ CKG_GATE_0 + 16 ≤ a) :
    (s.setReg a v).gated p = s.gated p := by
  unfold State.gated
  cases domain : pageDomain p with
  | none => rfl
  | some d =>
    have lt := pageDomain_lt domain
    exact congrArg (fun w => !bitAt w (d % 32)) (State.reg_setReg_ne _ _ (by omega))

/-- The count of a flit changes nothing of the link. -/
theorem State.nativeUp_portRx (s : State) (n k : Nat) : (s.portRx n k).nativeUp n = s.nativeUp n := by
  rw [State.portRx, State.inc_eq, State.nativeUp, State.f_setReg_ne _ _ _ _ (by simp only [TPT_MODE, TPT_RX_FLITS]; omega),
    State.bit_setReg_ne _ _ _ (by simp only [TPT_LINK, TPT_RX_FLITS]; omega),
    State.gated_setReg _ _ _ (.inr (by simp only [CKG_GATE_0, TPT_RX_FLITS]; omega)), State.nativeUp]

/-- Settles O53: the answer leaves at once by its credit, and a stray answer is counted and no more. -/
theorem probesAnswered : Obligations.ProbesAnswered := by
  intro port s n live
  refine ⟨fun empty credit room => ?_, fun serial node farPort mode none => exec_probeAns_stray live none serial node farPort mode⟩
  have parts := live
  simp only [State.portLive, Bool.and_eq_true] at parts
  obtain ⟨⟨-, up⟩, -⟩ := parts
  have flits := flitsOf_probeBytes s n
  refine ⟨_, _, _, exec_probe_live live, rfl, State.portSend_ctrl ((State.nativeUp_portRx s n 1).trans up) rfl empty ?_ ?_⟩
  · rw [flits, State.portRx, State.inc_eq, State.f_setReg_ne _ _ _ _ (by simp only [TPT_CREDIT, TPT_RX_FLITS]; omega)]; exact credit
  · rw [flits]; exact room

end Sys2Proof.Machine
end

section
/-! Packets forwarded, delivered in order, acknowledged and sent again (R459, R460, R464 to R469; log entries 39, 41 to 43, 131). -/

namespace Sys2Proof.Machine

/-! In transit. -/

section
variable {u : State} {h : FabHeader} {pl : List Byte} (up : u.switchUp = true) (on : u.bit (hCTL pgTSW) 0 = true)
include up on

theorem State.forward_unknown (kind : 13 ≤ h.ptype) : u.forward h pl = u.satF TSW_NOROUTE 31 0 :=
  (if_neg (by rw [up, on]; decide)).trans (if_pos kind)

variable (known : h.ptype < 13) (other : u.delivers h = false)
include known other

/-- A packet of a known type for another node goes on while it has hops. -/
theorem State.forward_transit : u.forward h pl =
    if h.hops = 0 then (u.satF TSW_HOPDROP 31 0).event pgTSW 3
    else match u.route { h with hops := h.hops - 1 } with
      | some m => u.portSend m { h with hops := h.hops - 1 } pl
      | none => u.noRoute :=
  (if_neg (by rw [up, on]; decide)).trans ((if_neg (Nat.not_le.mpr known)).trans (if_neg (by rw [other]; decide)))

end

/-! Reliable delivery. -/

/-- The header of a packet as its command takes it. -/
def fabTaken (h : FabHeader) (typ vc : Nat) : FabHeader := { h with ptype := typ, vc := vc, src := h.src % 4096, seq := h.seq % 2 ^ 32 }

section
variable {s : State} {n : Nat} (live : s.portLive n = true) (typ vc : Nat) (h : FabHeader) (pl : List Byte) (part : Option PartId)
include live

theorem State.fabArrive_live : s.fabArrive n typ vc h pl part =
    if (s.portRx n (fabFlits (fabTaken h typ vc))).delivers (fabTaken h typ vc) then
      (s.portRx n (fabFlits (fabTaken h typ vc))).e2eReceive { port := n, h := fabTaken h typ vc, payload := pl, part := part }
    else s.portRx n (fabFlits (fabTaken h typ vc)) :=
  if_neg (by rw [live]; decide)

end

/-- A number received before leaves nothing. -/
theorem State.e2eReceive_duplicate {u : State} {p : FabHeld} (plain : p.h.sync = false) (differs : p.h.seq ≠ (u.e2eOf p.h.src p.h.vc).expect)
    (before : seqBefore (u.e2eOf p.h.src p.h.vc).expect p.h.seq = false) : u.e2eReceive p = u := by
  simp only [State.e2eReceive, plain, Bool.false_eq_true, if_false]
  rw [if_neg differs, if_neg (by rw [before]; decide)]

/-- What a packet's arrival at a live port comes to: it is not this node's, or it is received in order. -/
theorem State.fabArrive_spec {s : State} {n : Nat} (live : s.portLive n = true) (typ vc : Nat) (h : FabHeader) (pl : List Byte) (part : Option PartId) :
    let g := fabTaken h typ vc
    let u := s.portRx n (fabFlits g)
    (u.delivers g = false → s.fabArrive n typ vc h pl part = u) ∧
      (u.delivers g = true → s.fabArrive n typ vc h pl part = u.e2eReceive { port := n, h := g, payload := pl, part := part } ∧
        (g.sync = false → g.seq ≠ (u.e2eOf g.src vc).expect → seqBefore (u.e2eOf g.src vc).expect g.seq = false →
          s.fabArrive n typ vc h pl part = u)) := by
  intro g u
  have arrives := State.fabArrive_live live typ vc h pl part
  refine ⟨fun other => arrives.trans (if_neg (by rw [other]; decide)), fun mine => ⟨arrives.trans (if_pos mine), fun plain differs before => ?_⟩⟩
  exact (arrives.trans (if_pos mine)).trans (State.e2eReceive_duplicate plain differs before)

/-! Acknowledgements and what is sent again. -/

section
variable {s : State} {node vc : Nat} (up : s.switchUp = true) (channel : vc < 4)
include up channel

theorem exec_e2eAckSend_up : exec (.e2eAckSend node vc) s = .next (s.ackSend node vc) :=
  (congrArg Host.Outcome.next (if_pos up)).trans (by rw [Nat.mod_eq_of_lt channel])

/-- What a retransmission comes to. -/
theorem exec_e2eRetransmit_up : exec (.e2eRetransmit node vc) s = .next (
    if (s.e2eOf node vc).store.isEmpty then s
    else if (s.e2eOf node vc).store.any fun e => decide (s.f TSW_CFG 15 8 ≤ e.2.2) then s.peerLost node
    else s.e2eResend node vc) := by
  have run : exec (.e2eRetransmit node vc) s = execE2eRetransmit node vc s := rfl
  rw [run, execE2eRetransmit]
  simp only [up, Nat.mod_eq_of_lt channel, Bool.not_true, Bool.false_or]

end

/-- Settles O54: packets in transit by their header, packets received by their order, and what is sent again by what the store holds. -/
theorem packets : Obligations.Packets := by
  intro s
  refine ⟨?_, ?_, ?_, ?_, fun up => ⟨fun node vc channel => ?_, fun tag r found => ?_⟩⟩
  · intro port h pl n u live kind up on other
    have forward : exec (.fabricPacketForward port h pl) s = .next (u.forward h pl) :=
      congrArg Host.Outcome.next (if_pos (by rw [live, decide_eq_true kind]; rfl))
    refine ⟨fun unknown => ?_, fun known spent => ?_, fun known hops => ⟨fun none => ?_, fun m found => ?_⟩⟩
    · rw [forward, State.forward_unknown up on unknown]
    · rw [forward, State.forward_transit up on known other, if_pos spent]
    · rw [forward, State.forward_transit up on known other, if_neg hops, none]
    · rw [forward, State.forward_transit up on known other, if_neg hops, found]
  · intro port h pl n u f path live
    have media : exec (.mediaRtp port h pl) s =
        .next (if u.delivers h && u.portMode path == 2 then u.rxPacket f h.alt (u.rtpFor f true pl) else u) := congrArg Host.Outcome.next (if_pos live)
    refine ⟨fun mine native => media.trans (congrArg Host.Outcome.next (if_pos ?_)), fun not => media.trans (congrArg Host.Outcome.next (if_neg ?_))⟩
    · rw [mine, native]; rfl
    · obtain other | path := not
      · simp [other]
      · rw [Bool.and_eq_true, beq_iff_eq]; exact fun both => path both.2
  · intro port h u live
    have ack : exec (.e2eAck port h) s = .next (if u.delivers h then u.e2eFree (h.src % 4096) (h.addr % 4) (h.seq % 2 ^ 32) else u) :=
      congrArg Host.Outcome.next (if_pos live)
    exact ⟨fun mine => ack.trans (congrArg Host.Outcome.next (if_pos mine)),
      fun other => ack.trans (congrArg Host.Outcome.next (if_neg (by rw [other]; decide)))⟩
  · intro port h pl n arrives live
    have taken {c : Instr} {typ vc : Nat} {pl : List Byte} {part : Option PartId} (run : exec c s = .next (s.fabArrive n typ vc h pl part)) :
        arrives c typ vc pl part := by
      obtain ⟨other, mine⟩ := State.fabArrive_spec live typ vc h pl part
      refine ⟨fun not => run.trans (congrArg Host.Outcome.next (other not)), fun delivered => ?_⟩
      obtain ⟨received, duplicate⟩ := mine delivered
      exact ⟨run.trans (congrArg Host.Outcome.next received),
        fun plain differs before => run.trans (congrArg Host.Outcome.next (duplicate plain differs before))⟩
    exact ⟨taken rfl, taken rfl, taken rfl, taken rfl, taken rfl, taken rfl, fun g m sec ns tile last => taken rfl⟩
  · have ack := exec_e2eAckSend_up (node := node) up channel
    have again := exec_e2eRetransmit_up (node := node) up channel
    refine ⟨ack, fun none => ?_, fun empty => ?_, fun tired => ?_, fun held fresh => ?_⟩
    · rw [ack]; exact congrArg Host.Outcome.next (if_pos none)
    · rw [again, empty]; rfl
    · obtain ⟨e, mem, last⟩ := tired
      rw [again, if_neg (by rw [List.isEmpty_iff]; exact List.ne_nil_of_mem mem),
        if_pos (List.any_eq_true.mpr ⟨e, mem, decide_eq_true last⟩)]
    · rw [again, if_neg (by rw [List.isEmpty_iff]; exact held),
        if_neg (by simpa using fresh)]
  · have timeout : exec (.memTimeout tag) s = execMemTimeout tag s := rfl
    rw [timeout, execMemTimeout, found]
    exact congrArg Host.Outcome.next (if_pos up)

end Sys2Proof.Machine
end

section
/-! Espalier groups (R471, R472, R474 to R476, R480; log entry 37). -/

namespace Sys2Proof.Machine

/-! A row written beside a region changes no group. -/

/-- The groups' state, and the injection that waits. -/
def State.espView (s : State) : Tab Esp × Option (Nat × Nat × Option Nat) := (s.esps, s.inject)

theorem State.espView_storeHbm (s : State) (a : Nat) (bs : List Byte) : (s.storeHbm a bs).espView = s.espView := by
  induction bs generalizing s a with
  | nil => rfl
  | cons b bs ih => exact ih _ _

theorem State.espView_writeTags (s : State) (a n : Nat) (pois : Bool) : (s.writeTags a n pois).espView = s.espView :=
  State.each_keeps State.espView (fun t b => by split_ifs <;> rfl) _ s

theorem State.espView_countHbm (s : State) (lo hi : Nat → Nat) (a n : Nat) : (s.countHbm lo hi a n).espView = s.espView :=
  State.each_keeps State.espView (fun t i => by dsimp only; split_ifs <;> rfl) _ s

/-- Without an injection that waits, a write reaches no group. -/
theorem State.espView_hbmWrite {s : State} (calm : s.inject = none) (a : Nat) (bs : List Byte) (pois : Bool) :
    (s.hbmWrite a bs pois).espView = s.espView := by
  have fire (pred : Nat → Bool) : s.injectFire pred = s := by rw [State.injectFire, calm]
  have view : ((((s.storeHbm a bs).writeTags a bs.length pois).countHbm HBM_WR_BYTES_LO HBM_WR_BYTES_HI a bs.length)).espView = s.espView := by
    rw [State.espView_countHbm, State.espView_writeTags, State.espView_storeHbm]
  have still := (congrArg Prod.snd view).trans calm
  rw [State.hbmWrite, fire]
  simp only [State.espView] at still
  rw [State.injectTake, still]
  exact view

theorem State.espView_fillSegs {s : State} (calm : s.inject = none) (es : List (Nat × Nat)) (bs : List Byte) : (s.fillSegs es bs).espView = s.espView := by
  induction es generalizing s bs with
  | nil => rfl
  | cons e es ih =>
    have one : (if (bs.take e.2).isEmpty then s else s.hbmWrite e.1 (bs.take e.2) false).espView = s.espView := by
      split
      · rfl
      · exact State.espView_hbmWrite calm _ _ _
    exact (ih ((congrArg Prod.snd one).trans calm) _).trans one

/-! Members admitted. -/

section
variable {s : State} {g m : Nat} {hash : W64}

theorem State.espJoin_refused (differs : ¬ ((s.sess (s.espSession g)).phase ≠ .closed ∧ hash = Config.espHash (espFields (s.sess (s.espSession g)).desc))) :
    s.espJoin g m hash = s.event pgTSW 9 := by
  refine if_pos ?_
  rw [Bool.or_eq_true, beq_iff_eq, bne_iff_ne, or_iff_not_imp_left]
  exact fun opened same => differs ⟨opened, same⟩

variable (same : (s.sess (s.espSession g)).phase ≠ .closed ∧ hash = Config.espHash (espFields (s.sess (s.espSession g)).desc))
include same

/-- A member whose hash is the session's is taken: before the start it is admitted, after it it learns a start of its own. -/
theorem State.espJoin_taken : s.espJoin g m hash =
    let u := s.setEsp g { s.esp g with left := (s.esp g).left.filter (· != m) }
    match (u.esp g).startTime with
    | none => u.espAdmit g m
    | some _ =>
      let x := s.sess (s.espSession g)
      let t := PtpTime.ofNat (u.mtc.time.nat + rateDen x.desc * 1000000000 / max 1 (rateNum x.desc))
      (u.setB (ESP_STAT g) m true).espOut (u.espNode g m) 0 false (.espGo (u.espNode g m) t.sec t.ns) := by
  obtain ⟨opened, hash⟩ := same
  refine if_neg ?_
  rw [Bool.or_eq_true, beq_iff_eq, bne_iff_ne]
  exact fun either => either.elim opened fun differs => differs hash

theorem State.espJoin_admits (unstarted : (s.esp g).startTime = none) :
    s.espJoin g m hash = (s.setEsp g { s.esp g with left := (s.esp g).left.filter (· != m) }).espAdmit g m := by
  rw [State.espJoin_taken same]
  simp only [State.esp_setEsp_same, unstarted]

end

/-- A message leaves, or is counted: the state of no group is touched. -/
theorem State.espOut_bit (s : State) (g m node vc : Nat) (alt : Bool) (o : Output) : (s.espOut node vc alt o).bit (ESP_STAT g) m = s.bit (ESP_STAT g) m := by
  unfold State.espOut
  split
  · rfl
  · split
    · rfl
    · rw [State.noRoute, State.event_eq, State.bit_setReg_ne _ _ _ (by simp only [ESP_STAT, hEVT, pgTSW]; omega), State.satF_eq,
        State.bit_setReg_ne _ _ _ (by simp only [ESP_STAT, TSW_NOROUTE]; omega)]

/-- A member that joins a stream that runs is marked. -/
theorem State.espJoin_marks {s : State} {g : Nat} {m : Fin 8} {hash : W64}
    (same : (s.sess (s.espSession g)).phase ≠ .closed ∧ hash = Config.espHash (espFields (s.sess (s.espSession g)).desc))
    (started : (s.esp g).startTime ≠ none) : (s.espJoin g m.val hash).bit (ESP_STAT g) m.val = true := by
  obtain ⟨t, start⟩ := Option.ne_none_iff_exists'.mp started
  rw [State.espJoin_taken same]
  simp only [State.esp_setEsp_same, start]
  rw [State.espOut_bit]
  exact State.bit_setB_same _ _ _ (by omega)

/-! Rows and parts. -/

section
variable {s : State} {g m : Nat} {strip : Bool} {row : Nat} {t : PtpTime} (bs : List Byte)

theorem State.espRowIn_again (kept : (s.esp g).rows.contains (m, strip, row, t) = true) : s.espRowIn g m strip row t bs = s := if_pos kept

/-- A row that comes first is kept. -/
theorem State.espRowIn_first (calm : s.inject = none) (first : (s.esp g).rows.contains (m, strip, row, t) = false) :
    ((s.espRowIn g m strip row t bs).esp g).rows = (s.esp g).rows ++ [(m, strip, row, t)] := by
  let u := s.setEsp g { s.esp g with rows := (s.esp g).rows ++ [(m, strip, row, t)] }
  have kept {w : State} (view : w.espView = u.espView) : (w.esp g).rows = (s.esp g).rows ++ [(m, strip, row, t)] := by
    have esps : w.esps = u.esps := congrArg Prod.fst view
    rw [State.esp, esps]
    exact congrArg Esp.rows (State.esp_setEsp_same _ _ _)
  refine kept ?_
  simp only [State.espRowIn]
  rw [if_neg (by rw [first]; decide)]
  split
  · exact State.espView_fillSegs (s := u) calm _ _
  · rfl

end

/-- A picture all of whose own jobs have ended, and not all of the member's. -/
def partRipe (m : Nat) (p : EncPic) : Bool :=
  let ended (j : EncJob) : Bool := j.phase == .done || j.phase == .ended
  p.started && (p.jobs.all fun j => decide (4 ≤ j.hedge) || ended j) && p.jobs.any fun j => j.hedge == 4 + m && !ended j

theorem exec_partTimeout_ripe {s : State} {group member : Fin 8} {p : EncPic} (anchor : s.anchorOf group.val member.val = true)
    (oldest : (s.sess (s.espSession group.val)).pics.head? = some p) (ripe : partRipe member.val p = true) :
    exec (.partTimeout group member) s = .next (s.espSubstitute (s.espSession group.val) p.idx member.val) := by
  obtain ⟨rest, pics⟩ := List.head?_eq_some_iff.mp oldest
  have run : exec (.partTimeout group member) s = .next (match (s.sess (s.espSession group.val)).pics.find? (partRipe member.val) with
      | some p => s.espSubstitute (s.espSession group.val) p.idx member.val
      | none => s) := congrArg Host.Outcome.next (if_pos anchor)
  rw [run, pics, List.find?_cons_of_pos ripe]

/-- Settles O55: members by their hash, messages by who the module is, rows by whether they are kept, parts by the oldest picture. -/
theorem espalier : Obligations.Espalier := by
  intro group member s g m e
  refine ⟨?_, fun sec ns member' => ?_, fun anchor => ?_, ?_⟩
  · intro hash anchor x same
    have join : exec (.join group member hash) s = .next (s.espJoin g m hash) := congrArg Host.Outcome.next (if_pos anchor)
    refine ⟨fun differs => ?_, fun same unstarted => ?_, fun same started => ⟨_, join, State.espJoin_marks same started⟩⟩
    · rw [join, State.espJoin_refused differs]
    · rw [join, State.espJoin_admits same unstarted]
  · exact ⟨congrArg Host.Outcome.next (if_pos member'), fun amounts => congrArg Host.Outcome.next (if_pos member'), congrArg Host.Outcome.next (if_pos member')⟩
  · refine ⟨⟨_, congrArg Host.Outcome.next (if_pos anchor), ?_, rfl⟩, ?_⟩
    · rw [State.esp_setEsp_same]
      dsimp only
      split
      · next h => exact List.contains_iff_mem.mp h
      · exact List.mem_append_right _ (List.mem_singleton_self _)
    · intro ended p oldest started own theirs
      obtain ⟨j, mem, place, open'⟩ := theirs
      refine exec_partTimeout_ripe anchor oldest ?_
      have all : (p.jobs.all fun j => decide (4 ≤ j.hedge) || ended j) = true :=
        List.all_eq_true.mpr fun j mem => by
          rw [Bool.or_eq_true, decide_eq_true_iff, or_iff_not_imp_left]
          exact fun low => own j mem (Nat.not_le.mp low)
      have any : (p.jobs.any fun j => j.hedge == 4 + m && !ended j) = true :=
        List.any_eq_true.mpr ⟨j, mem, by rw [place, open', beq_self_eq_true]; rfl⟩
      exact (congrArg₂ and (congrArg₂ and started all) any)
  · intro strip alt row sec ns bytes calm up beside last
    have halo : exec (.espHalo group member strip alt row sec ns bytes) s = .next (s.espRowIn g m strip row { sec := sec, ns := ns } bytes) :=
      congrArg Host.Outcome.next (if_pos (by
        rw [Bool.and_eq_true, Bool.and_eq_true, decide_eq_true_iff, Bool.or_eq_true, beq_iff_eq, beq_iff_eq]
        exact ⟨⟨up, beside⟩, last⟩))
    refine ⟨fun kept => ?_, fun first => ⟨_, halo, State.espRowIn_first bytes calm first⟩⟩
    rw [halo, State.espRowIn_again bytes kept]

end Sys2Proof.Machine
end

section
/-! Warm resets that are asked for (R508, R510, R515; log entry 65). -/

namespace Sys2Proof.Machine

theorem State.noted_below (s : State) (who : Who) {p : Nat} (below : p < 0x0F0) (noSmb : p ≠ pgSMB) : s.noted who p = s :=
  State.noted_plain (by omega) (by unfold pgCSW; omega) noSmb (by omega)

/-- Of a module whose blocks take work, the first request for a warm reset is kept, and no block takes work from then on. -/
theorem State.askReset_spec {s : State} (clocked : s.clocked = true) (cause : Nat) :
    s.askReset cause = { s with resetReq := some cause } := by
  simp only [State.clocked, Bool.and_eq_true, Option.isNone_iff_eq_none] at clocked
  obtain ⟨running, none⟩ := clocked
  rw [State.askReset, if_pos running, none]
  rfl

theorem State.clocked_of_served {s : State} {who : Who} {p : Nat} (served : s.served who p = true) : s.clocked = true := by
  simp only [State.served, Bool.and_eq_true] at served
  obtain ⟨⟨⟨clocked, -⟩, -⟩, -⟩ := served
  exact clocked

theorem exec_devRst_keyed {who : Who} {v : W32} {s : State} (served : s.served who pgDEV = true) (key : fld v 7 0 = 0xA5) (go : bitAt v 8 = true) :
    exec (.devRst who v) s = .next (({ s with resetReq := some 4 } : State).told who) := by
  refine congrArg Host.Outcome.next ((State.access_served served _).trans ?_)
  rw [State.noted_below _ _ (by decide) (by decide), if_pos ⟨key, go⟩, State.askReset_spec (State.clocked_of_served served)]

/-- Settles O9: the keyed write leaves the request alone, and the reset is carried out by it. -/
theorem warmResets : Obligations.WarmResets := by
  refine ⟨fun who v s served key go => ⟨_, exec_devRst_keyed served key go, ?_, ?_, ?_, ?_, ?_⟩, fun c s asked running => ?_⟩
  · rw [State.told_resetReq]
  · rw [State.clocked, State.told_resetReq]
    exact Bool.and_false _
  · rw [State.told_regs]
  · rw [State.told_hbm]
  · rw [State.told_host]
  · have reset : exec .warmReset s = execWarmReset s := rfl
    rw [reset, execWarmReset, asked]
    exact congrArg Host.Outcome.next (if_pos running)

end Sys2Proof.Machine
end

section
/-! PLLs, the system clock, gates and the frequency meter (R495 to R507, R513, R514; log entries 73, 74). -/

namespace Sys2Proof.Machine

/-! A fault that is noted leaves the clock as it runs. -/

theorem State.whenB_clockSt {s : State} (c : Bool) {f : State → State} (hf : ∀ t, (f t).clock.st = t.clock.st) : (s.whenB c f).clock.st = s.clock.st := by
  cases c
  · rfl
  · exact hf s

theorem State.pinPulse_clockSt (s : State) : s.pinPulse.clock.st = s.clock.st := by
  unfold State.pinPulse
  split <;> rfl

theorem State.histWrite_clockSt (s : State) (src agent code : Nat) (detail : W32) : (s.histWrite src agent code detail).clock.st = s.clock.st := by
  simp only [State.histWrite, State.setReg_clock]
  exact State.whenB_clockSt _ fun _ => rfl

theorem State.syndrome_clockSt (s : State) (src agent code : Nat) : (s.syndrome src agent code).clock.st = s.clock.st := by
  unfold State.syndrome
  split
  · rfl
  · split <;> rfl

theorem State.rAction_clockSt (s : State) (src : Nat) : (s.rAction src).clock.st = s.clock.st := by
  unfold State.rAction
  split_ifs
  · unfold State.askReset
    split_ifs <;> rfl
  · split
    · split
      · rfl
      · exact State.each_keeps (fun t => t.clock.st) (fun t p => congrArg Clock.st (State.setBusy_clock t p true)) _ s
    · rfl
  · rfl

theorem State.noteFault_clockSt (s : State) (src agent code : Nat) (detail : W32) : (s.noteFault src agent code detail).clock.st = s.clock.st := by
  unfold State.noteFault
  split
  · rfl
  · extract_lets counted act marked latched logged noted pended pulsed
    have hmarked : marked.clock.st = s.clock.st := State.whenB_clockSt (s := counted) _ fun t => by split <;> rfl
    split
    · exact hmarked
    · calc (pulsed.rAction src).clock.st
        _ = pulsed.clock.st := State.rAction_clockSt _ _
        _ = pended.clock.st := State.whenB_clockSt _ State.pinPulse_clockSt
        _ = noted.clock.st := State.whenB_clockSt _ fun _ => rfl
        _ = logged.clock.st := State.syndrome_clockSt _ _ _ _
        _ = marked.clock.st := State.whenB_clockSt _ fun t => t.histWrite_clockSt src agent code detail
        _ = s.clock.st := hmarked

theorem State.ckgEvent_clockSt (s : State) (b : Nat) : (s.ckgEvent b).clock.st = s.clock.st := by
  simp only [State.ckgEvent]
  split <;> rfl

/-! A PLL that qualifies (R495, R499, R501, R503). -/

/-- The state in which a PLL has qualified, before what waits for it. -/
def State.qualified (s : State) (b : Bool) : State :=
  let s := if b then s else { s with clock := { s.clock with aEnabled := true } }
  (((s.setRef b true).setQual b true).ckgEvent (if b then 4 else 3)).noteFault 188 255 (b2n b)

theorem State.qualified_clockSt (s : State) (b : Bool) : (s.qualified b).clock.st = s.clock.st := by
  rw [State.qualified, State.noteFault_clockSt, State.ckgEvent_clockSt]
  cases b <;> rfl

/-- What waits for a PLL that qualifies, by the state of the clock. -/
theorem exec_pllQualified_may {s : State} {b : Bool} (may : s.mayQualify b = true) (us : Nat) :
    exec (.pllQualified b us) s = .next (match s.clock.st with
      | .start => if b then s.qualified b else (s.qualified b).startUp
      | .hold => (s.qualified b).restart b us
      | .clockLost => (s.qualified b).lostEnd b
      | _ => s.qualified b) := by
  rw [← State.qualified_clockSt s b]
  exact congrArg Host.Outcome.next (if_neg (by rw [may]; decide))

/-! The frequency meter (R507, R522). -/

theorem State.meterEnd_spec {s : State} (runs : s.bit CKG_FM_CTL 24 = true) (count : W32) (timeout : Bool) :
    (s.meterEnd count timeout).bit CKG_FM_CTL 24 = false ∧ (s.meterEnd count timeout).bit CKG_FM_CTL 25 = timeout ∧
      (s.meterEnd count timeout).reg CKG_FM_COUNT = (if s.meterRuns then count else 0) ∧ (s.meterEnd count timeout).bit (hEVT pgCKG) 9 = true := by
  have ends : s.meterEnd count timeout = ((((s.setB CKG_FM_CTL 24 false).setB CKG_FM_CTL 25 timeout).setReg CKG_FM_COUNT
      (if s.meterRuns then count else 0))).event pgCKG 9 := if_neg (by rw [runs]; decide)
  rw [ends]
  refine ⟨?_, ?_, ?_, State.bit_setB_same _ _ _ (by decide)⟩
  · rw [State.event_eq, State.bit_setReg_ne _ _ _ (by decide), State.bit_setReg_ne _ _ _ (by decide), State.bit_setB_ne _ _ _ (by decide),
      State.bit_setB_same _ _ _ (by decide)]
  · rw [State.event_eq, State.bit_setReg_ne _ _ _ (by decide), State.bit_setReg_ne _ _ _ (by decide), State.bit_setB_same _ _ _ (by decide)]
  · rw [State.event_eq, State.reg_setReg_ne _ _ (by decide), State.reg_setReg_same]

/-- What CKG_FM_CTL takes: the two clocks, the length, GO, and TIMEOUT as it stood. -/
def meterWord (m r l go held : Nat) : Nat := m ||| r <<< 8 ||| l <<< 16 ||| go <<< 24 ||| held <<< 25

theorem meterWord_fields {m r l : Nat} (go held : Bool) (hm : m < 128) (hr : r < 128) (hl : l < 32) :
    let w := BitVec.ofNat 32 (meterWord m r l (b2n go) (b2n held))
    fld w 6 0 = m ∧ fld w 14 8 = r ∧ fld w 20 16 = l ∧ bitAt w 24 = go := by
  intro w
  have hgo : b2n go ≤ 1 := by cases go <;> decide
  have hheld : b2n held ≤ 1 := by cases held <;> decide
  have sum : meterWord m r l (b2n go) (b2n held) = m + r * 2 ^ 8 + l * 2 ^ 16 + b2n go * 2 ^ 24 + b2n held * 2 ^ 25 := by
    rw [meterWord, or_shiftLeft_eq_add r (by omega : m < 2 ^ 8), or_shiftLeft_eq_add l (by omega), or_shiftLeft_eq_add (b2n go) (by omega),
      or_shiftLeft_eq_add (b2n held) (by omega)]
  have lt : meterWord m r l (b2n go) (b2n held) < 2 ^ 32 := by rw [sum]; omega
  refine ⟨?_, ?_, ?_, ?_⟩
  · rw [fld_ofNat _ _ lt, sum, Nat.shiftRight_zero]; omega
  · rw [fld_ofNat _ _ lt, sum, Nat.shiftRight_eq_div_pow]; omega
  · rw [fld_ofNat _ _ lt, sum, Nat.shiftRight_eq_div_pow]; omega
  · have one : meterWord m r l (b2n go) (b2n held) / 2 ^ 24 % 2 = b2n go := by rw [sum]; omega
    rw [bitAt, BitVec.toNat_ofNat, Nat.mod_eq_of_lt lt, Nat.testBit_eq_decide_div_mod_eq, one]
    cases go <;> rfl

/-- A measurement starts, or its clocks are chosen. -/
theorem State.meterWrite_takes {s : State} (idle : s.bit CKG_FM_CTL 24 = false) (v : W32) :
    (s.meterWrite v).f CKG_FM_CTL 6 0 = fld v 6 0 ∧ (s.meterWrite v).f CKG_FM_CTL 14 8 = fld v 14 8 ∧
      (s.meterWrite v).f CKG_FM_CTL 20 16 = (if 10 ≤ fld v 20 16 ∧ fld v 20 16 ≤ 24 then fld v 20 16 else 10) ∧
      (s.meterWrite v).bit CKG_FM_CTL 24 = bitAt v 24 := by
  have short : (if 10 ≤ fld v 20 16 ∧ fld v 20 16 ≤ 24 then fld v 20 16 else 10) < 32 := by split <;> omega
  have held : (if bitAt v 24 then 0 else b2n (s.bit CKG_FM_CTL 25) <<< 25) = b2n (!bitAt v 24 && s.bit CKG_FM_CTL 25) <<< 25 := by
    cases bitAt v 24 <;> simp [b2n]
  have taken : (s.meterWrite v).reg CKG_FM_CTL =
      BitVec.ofNat 32 (meterWord (fld v 6 0) (fld v 14 8) (if 10 ≤ fld v 20 16 ∧ fld v 20 16 ≤ 24 then fld v 20 16 else 10)
        (b2n (bitAt v 24)) (b2n (!bitAt v 24 && s.bit CKG_FM_CTL 25))) := by
    simp only [State.meterWrite, idle, held, meterWord, Bool.false_eq_true, if_false, State.reg_setReg_same]
  obtain ⟨measured, reference, length, go⟩ :=
    meterWord_fields (bitAt v 24) (!bitAt v 24 && s.bit CKG_FM_CTL 25) (fld_lt v 6 0) (fld_lt v 14 8) short
  exact ⟨(congrArg (fld · 6 0) taken).trans measured, (congrArg (fld · 14 8) taken).trans reference, (congrArg (fld · 20 16) taken).trans length,
    (congrArg (bitAt · 24) taken).trans go⟩

/-! Selection (R500, R504, R514). -/

section
variable {s : State} {b : Bool}

theorem State.selWrite_same (used : s.sysPll = some b) : s.selWrite b = s := if_pos used

section
variable (other : s.sysPll = some (!b))
include other

theorem State.selWrite_other : s.selWrite b = if s.pllQual b then s.pllSwitch b else s.event pgCKG 7 :=
  if_neg (by rw [other]; cases b <;> decide)

end

/-- A switch: the PLL in use, what selects it and what says so, counted, with its event. -/
theorem State.pllSwitch_spec (s : State) (b : Bool) :
    (s.pllSwitch b).sysPll = some b ∧ (s.pllSwitch b).bit CKG_SYS 0 = b ∧ (s.pllSwitch b).bit CKG_SYS 8 = b ∧
      (s.pllSwitch b).reg CKG_SWITCHES = s.reg CKG_SWITCHES + 1 ∧ (s.pllSwitch b).bit (hEVT pgCKG) 1 = true := by
  let u := { s with clock := { s.clock with st := if b then .onB else .onA } : State }
  have switch : s.pllSwitch b = (((u.setB CKG_SYS 0 b).setB CKG_SYS 8 b).inc CKG_SWITCHES).event pgCKG 1 := rfl
  have sys (i : Nat) : (s.pllSwitch b).bit CKG_SYS i = ((u.setB CKG_SYS 0 b).setB CKG_SYS 8 b).bit CKG_SYS i := by
    rw [switch, State.event_eq, State.bit_setReg_ne _ _ _ (by decide), State.inc_eq, State.bit_setReg_ne _ _ _ (by decide)]
  refine ⟨by cases b <;> rfl, ?_, ?_, ?_, State.bit_setB_same _ _ _ (by decide)⟩
  · rw [sys, State.bit_setB_ne _ _ _ (by decide), State.bit_setB_same _ _ _ (by decide)]
  · rw [sys, State.bit_setB_same _ _ _ (by decide)]
  · rw [switch, State.event_eq, State.reg_setReg_ne _ _ (by decide), State.inc_eq, State.reg_setReg_same, State.setB_eq,
      State.reg_setReg_ne _ _ (by decide), State.setB_eq, State.reg_setReg_ne _ _ (by decide)]
    rfl

end

section
variable {s : State} {v : W32}

theorem State.pllbWrite_inUse (used : s.sysPll = some true) : s.pllbWrite v = s := if_pos used

/-- PLL_B's configuration is taken; where it changes, PLL_B has to qualify anew, and PLL_A stays as it is. -/
theorem State.pllbWrite_takes (unused : s.sysPll = some false) :
    (s.pllbWrite v).reg CKG_PLLB_CFG = BitVec.ofNat 32 (fld v 3 0) ∧
      (fld v 3 0 ≠ s.f CKG_PLLB_CFG 3 0 → (s.pllbWrite v).pllQual true = false) ∧ (s.pllbWrite v).pllQual false = s.pllQual false := by
  let u := s.setReg CKG_PLLB_CFG (BitVec.ofNat 32 (fld v 3 0))
  let w := if s.f CKG_PLLB_CFG 3 0 = fld v 3 0 then u else u.setQual true false
  have write : s.pllbWrite v = w.setB CKG_SYS 12 w.refB := if_neg (by rw [unused]; decide)
  have config : w.reg CKG_PLLB_CFG = BitVec.ofNat 32 (fld v 3 0) := by
    simp only [w]
    split
    · exact State.reg_setReg_same _ _ _
    · rw [State.setQual, State.setB_eq, State.reg_setReg_ne _ _ (by decide), State.reg_setReg_same]
  have kept : w.bit CKG_SYS 9 = s.bit CKG_SYS 9 := by
    have unwritten : u.bit CKG_SYS 9 = s.bit CKG_SYS 9 := State.bit_setReg_ne _ _ _ (by decide)
    simp only [w]
    split
    · exact unwritten
    · exact (State.bit_setB_ne u CKG_SYS false (by decide : (9 : Nat) ≠ 10)).trans unwritten
  rw [write]
  refine ⟨?_, fun differs => ?_, (State.bit_setB_ne w CKG_SYS _ (by decide : (9 : Nat) ≠ 12)).trans kept⟩
  · rw [State.setB_eq, State.reg_setReg_ne _ _ (by decide), config]
  · refine (State.bit_setB_ne w CKG_SYS _ (by decide : (10 : Nat) ≠ 12)).trans ?_
    rw [show w = u.setQual true false from if_neg (Ne.symm differs)]
    exact State.bit_setB_same _ _ _ (by decide)

end

/-- A served write of the CKG page acts in the state itself. -/
theorem State.access_ckg {s : State} {who : Who} (served : s.served who pgCKG = true) (f : State → State) : s.access who pgCKG f = (f s).told who := by
  rw [State.access_served served, State.noted_below _ _ (by decide) (by decide)]

/-- Settles O56: failures by their kind, qualification by the clock's state, the rest by what is in use and what runs. -/
theorem clocks : Obligations.Clocks := by
  refine ⟨fun s => ⟨?_, ?_, fun hold => congrArg Host.Outcome.next (if_pos hold), ?_, ?_⟩, fun who s served => ⟨fun b => ?_, fun v => ?_, fun k v => ?_, fun v => ?_⟩⟩
  · intro power b
    have acts (kind : ClockFail) (both : Bool) : exec (.clockFailure kind b both) s = .next (match kind with
        | .reference => if both then s.bothFail else s.pllFail b true
        | .pll => s.pllFail b false
        | .disagree => s.refDisagree) := congrArg Host.Outcome.next (if_neg (by rw [power]; decide))
    exact ⟨acts .reference false, acts .reference true, fun both => ⟨acts .pll both, acts .disagree both⟩⟩
  · intro b us may s1 u
    have qualifies := exec_pllQualified_may may us
    refine ⟨fun start => ?_, fun hold => ?_, fun lost => ?_, fun running => ?_⟩
    · rw [qualifies, start]; rfl
    · rw [qualifies, hold]; rfl
    · rw [qualifies, lost]; rfl
    · rw [State.running, Bool.or_eq_true, beq_iff_eq, beq_iff_eq] at running
      obtain onA | onB := running
      · rw [qualifies, onA]; rfl
      · rw [qualifies, onB]; rfl
  · exact fun clocked runs count => ⟨_, congrArg Host.Outcome.next (if_pos clocked), State.meterEnd_spec runs count false⟩
  · exact fun clocked runs count => ⟨_, congrArg Host.Outcome.next (if_pos clocked), State.meterEnd_spec runs count true⟩
  · have select : exec (.clockSelect who b) s = .next ((s.selWrite b).told who) := congrArg Host.Outcome.next (State.access_ckg served _)
    refine ⟨fun used => ?_, fun other qual => ?_, fun other unqual => ?_⟩
    · rw [select, State.selWrite_same used]
    · have switch : s.selWrite b = s.pllSwitch b := (State.selWrite_other other).trans (if_pos qual)
      obtain ⟨pll, sel, shown, count, event⟩ := State.pllSwitch_spec s b
      refine ⟨_, select, ?_⟩
      rw [switch, State.sysPll, State.told_clock, State.told_bit, State.told_bit, State.told_reg, State.told_bit]
      exact ⟨pll, sel, shown, count, event⟩
    · rw [select, (State.selWrite_other other).trans (if_neg (by rw [unqual]; decide))]
  · have write : exec (.pllbConfigWrite who v) s = .next ((s.pllbWrite v).told who) := congrArg Host.Outcome.next (State.access_ckg served _)
    refine ⟨fun used => ?_, fun unused => ?_⟩
    · rw [write, State.pllbWrite_inUse used]
    · obtain ⟨config, anew, other⟩ := State.pllbWrite_takes (v := v) unused
      refine ⟨_, write, ?_⟩
      rw [State.told_reg, State.pllQual, State.pllQual, State.told_bit, State.told_bit]
      exact ⟨config, anew, other⟩
  · exact congrArg Host.Outcome.next (State.access_ckg served _)
  · have write : exec (.freqMeasureStart who v) s = .next ((s.meterWrite v).told who) := congrArg Host.Outcome.next (State.access_ckg served _)
    refine ⟨fun runs => ?_, fun idle => ⟨_, write, ?_⟩⟩
    · rw [write]
      exact congrArg (fun t : State => Host.Outcome.next (t.told who)) (if_pos runs)
    · rw [State.told_f, State.told_f, State.told_f, State.told_bit]
      exact State.meterWrite_takes idle v

end Sys2Proof.Machine
end

section
/-! Fault raises, the unlock, acknowledgements and injection (R524 to R541; log entries 69, 132). -/

namespace Sys2Proof.Machine

/-! A raise with no action on. -/

/-- Sources that concern a core's sequencer, or have an effect of their own. -/
def effectSource (src : Nat) : Bool :=
  decide (src ≤ 72) || decide (113 ≤ src ∧ src ≤ 116) || decide (117 ≤ src ∧ src ≤ 120) || src == 125 || decide (130 ≤ src ∧ src ≤ 133) || src == 181

/-- A source that is corrected is none of them. -/
theorem effectSource_corrected : ∀ src < 197, 0 < src → fltClass src = 0 → effectSource src = false := by decide +kernel

theorem effectSource_false {src : Nat} (none : effectSource src = false) :
    72 < src ∧ ¬ (113 ≤ src ∧ src ≤ 116) ∧ ¬ (117 ≤ src ∧ src ≤ 120) ∧ src ≠ 125 ∧ ¬ (130 ≤ src ∧ src ≤ 133) ∧ src ≠ 181 := by
  simp only [effectSource, Bool.or_eq_false_iff, decide_eq_false_iff_not, beq_eq_false_iff_ne, Nat.not_le] at none
  obtain ⟨⟨⟨⟨⟨core, queue⟩, hedge⟩, mgmt⟩, composer⟩, dma⟩ := none
  exact ⟨core, queue, hedge, mgmt, composer, dma⟩

section
variable {s : State} {src : Nat} (some : 0 < src) (last : src < 197) (corrected : fltClass src = 0)

include some last in
theorem fltRaised_of : fltRaised src = true := decide_eq_true ⟨some, last⟩

include some last corrected

/-- With no action on, a corrected source is counted. -/
theorem State.noteFault_counts (off : s.f (FLT_ACT src) 4 0 = 0) (agent code : Nat) (detail : W32) :
    s.noteFault src agent code detail = s.incF (FLT_ACT src) 31 16 := by
  have still : (s.incF (FLT_ACT src) 31 16).f (FLT_ACT src) 4 0 = 0 :=
    (State.f_setF_ne s _ _ (.inl (by decide))).trans off
  rw [State.noteFault, fltRaised_of some last, corrected]
  exact (if_neg (by decide)).trans (if_pos still)

theorem State.raise_counts (off : s.f (FLT_ACT src) 4 0 = 0) (calm : s.inject = none) (agent code : Nat) (detail : W32) :
    s.raise src agent code detail = s.incF (FLT_ACT src) 31 16 := by
  obtain ⟨noCore, -⟩ := effectSource_false (effectSource_corrected src last some corrected)
  have core : coreSource src = none := if_neg (by omega)
  have still : (s.incF (FLT_ACT src) 31 16).inject = none := calm
  rw [State.raise, fltRaised_of some last, State.noteFault_counts some last corrected off]
  simp only [core, still, corrected]
  refine (if_neg (by decide)).trans ?_
  split
  · exact if_pos (.inr (.inl (by decide)))
  · rfl

theorem State.faultFound_counts (off : s.f (FLT_ACT src) 4 0 = 0) (noSmb : src ≠ 196) (calm : s.inject = none) (agent code : Nat) (detail : W32) :
    s.faultFound src agent code detail = s.incF (FLT_ACT src) 31 16 := by
  obtain ⟨noCore, noQueue, noHedge, noMgmt, noComposer, noDma⟩ := effectSource_false (effectSource_corrected src last some corrected)
  have found : s.faultFound src agent code detail = (s.raise src agent code detail).faultEffect src agent code := by
    rw [State.faultFound, fltRaised_of some last]
    refine (if_neg (by decide)).trans ?_
    rw [if_neg (by omega)]
  rw [found, State.raise_counts some last corrected off calm, State.faultEffect, if_neg noQueue, if_neg noHedge, if_neg noMgmt, if_neg noComposer,
    if_neg noDma, if_neg noSmb]

end

/-! The lock. -/

/-- The fall of TEST_EN ends the lock's being open, what waits, and the trace domain. -/
theorem State.injectLock_spec (s : State) :
    s.injectLock.inject = none ∧ s.injectLock.unlock = 0 ∧ s.injectLock.reg FLT_INJ_STAT = 0 ∧ s.injectLock.reg FLT_INJ_CTL = 0 ∧
      s.injectLock.reg FLT_INJ_SYND = 0 ∧ s.injectLock.domainOn 99 = false := by
  let u : State := { s with unlock := 0, inject := none }
  have lock : s.injectLock = (((u.setReg FLT_INJ_STAT 0).setReg FLT_INJ_CTL 0).setReg FLT_INJ_SYND 0).setDomain 99 false := rfl
  have other {a : Nat} (h : a ≠ CKG_GATE_0 + 12) : s.injectLock.reg a = (((u.setReg FLT_INJ_STAT 0).setReg FLT_INJ_CTL 0).setReg FLT_INJ_SYND 0).reg a := by
    rw [lock, State.setDomain, State.setB_eq]
    exact State.reg_setReg_ne _ _ h
  refine ⟨rfl, rfl, ?_, ?_, ?_, State.bit_setB_same _ _ _ (by decide)⟩
  · rw [other (by decide), State.reg_setReg_ne _ _ (by decide), State.reg_setReg_ne _ _ (by decide), State.reg_setReg_same]
  · rw [other (by decide), State.reg_setReg_ne _ _ (by decide), State.reg_setReg_same]
  · rw [other (by decide), State.reg_setReg_same]

/-- A served write of the FLT page acts in the state itself. -/
theorem State.access_flt {s : State} {who : Who} (served : s.served who pgFLT = true) (f : State → State) : s.access who pgFLT f = (f s).told who := by
  rw [State.access_served served, State.noted_below _ _ (by decide) (by decide)]

section
variable {s : State}

theorem State.unlock_self (n : Nat) (here : s.unlock = n) : { s with unlock := n } = s := by
  subst here
  rfl

theorem State.unlockWrite_first (closed : s.unlock = 0) : s.unlockWrite 0xC1E0 = { s with unlock := 1 } := by
  simp only [State.unlockWrite, closed]
  rfl

theorem State.unlockWrite_second {v : W32} (one : s.unlock = 1) (serial : v.toNat = s.f DEV_SERIAL_LO 15 0) : s.unlockWrite v = { s with unlock := 2 } := by
  simp only [State.unlockWrite, one, serial, and_self, if_true]
  rfl

theorem State.unlockWrite_third (two : s.unlock = 2) :
    s.unlockWrite 0xE1C = if s.testEn then ({ s with unlock := 0 } : State).setB FLT_INJ_STAT 0 true else { s with unlock := 0 } := by
  simp only [State.unlockWrite, two, and_self, if_true]
  rfl

theorem State.unlockWrite_wrong {v : W32} (closed : s.unlock = 0) (wrong : v ≠ 0xC1E0) : s.unlockWrite v = s := by
  have first : (v == 0xC1E0) = false := beq_eq_false_iff_ne.mpr wrong
  simp only [State.unlockWrite, closed, first]
  exact State.unlock_self 0 closed

end

/-! Injection (R539). -/

/-- What FLT_INJ_CTL is written with for a mode. -/
def injectWord (src mode go : Nat) : Nat := src ||| mode <<< 8 ||| go <<< 16

theorem injectWord_idle (src mode : Nat) : injectWord src mode 0 = src ||| mode <<< 8 := Nat.or_zero _

theorem injectWord_fields {src mode : Nat} (hs : src < 256) (hm : mode < 3) :
    let v := BitVec.ofNat 32 (injectWord src mode 1)
    fld v 7 0 = src ∧ fld v 9 8 = mode ∧ bitAt v 16 = true := by
  intro v
  have sum : injectWord src mode 1 = src + mode * 2 ^ 8 + 1 * 2 ^ 16 := by
    rw [injectWord, or_shiftLeft_eq_add mode (by omega : src < 2 ^ 8), or_shiftLeft_eq_add 1 (by omega)]
  have lt : injectWord src mode 1 < 2 ^ 32 := by rw [sum]; omega
  refine ⟨?_, ?_, ?_⟩
  · rw [fld_ofNat _ _ lt, sum, Nat.shiftRight_zero]; omega
  · rw [fld_ofNat _ _ lt, sum, Nat.shiftRight_eq_div_pow]; omega
  · rw [bitAt, BitVec.toNat_ofNat, Nat.mod_eq_of_lt lt, sum, Nat.testBit_eq_decide_div_mod_eq, decide_eq_true_iff]; omega

section
variable {s : State} {mode : Nat} (small : mode < 3)

/-- The state of an injection's write: every write of the page but the unlock's own ends an unlock begun. -/
def State.relocked (s : State) : State := { s with unlock := 0 }

theorem State.injectMode_locked (locked : s.bit FLT_INJ_STAT 0 = false) : s.injectMode mode = s.relocked :=
  if_pos (by rw [show State.bit { s with unlock := 0 } FLT_INJ_STAT 0 = false from locked]; rfl)

theorem State.injectWrite_unlocked (openLock : s.bit FLT_INJ_STAT 0 = true) (v : W32) : s.injectWrite v =
    let m := if fld v 9 8 = 3 then 0 else fld v 9 8
    let w := s.setReg FLT_INJ_CTL (BitVec.ofNat 32 (injectWord (fld v 7 0) m (b2n (s.bit FLT_INJ_CTL 16))))
    if bitAt v 16 && !s.bit FLT_INJ_CTL 16 then w.injectGo (fld v 7 0) m else w :=
  if_neg (by rw [openLock]; decide)

include small in
/-- An unlocked write stores the mode, and injects where nothing waits. -/
theorem State.injectMode_unlocked (openLock : s.bit FLT_INJ_STAT 0 = true) : s.injectMode mode =
    let w := s.relocked.setReg FLT_INJ_CTL (BitVec.ofNat 32 (injectWord (s.f FLT_INJ_CTL 7 0) mode (b2n (s.bit FLT_INJ_CTL 16))))
    if s.bit FLT_INJ_CTL 16 then w else w.injectGo (s.f FLT_INJ_CTL 7 0) mode := by
  obtain ⟨src, kind, go⟩ := injectWord_fields (fld_lt (s.reg FLT_INJ_CTL) 7 0) small
  have known : ¬ mode = 3 := by omega
  have write : s.injectMode mode = s.relocked.injectWrite (BitVec.ofNat 32 (injectWord (fld (s.reg FLT_INJ_CTL) 7 0) mode 1)) := rfl
  rw [write, State.injectWrite_unlocked (s := s.relocked) openLock, src, kind, go, if_neg known]
  have waits : s.relocked.bit FLT_INJ_CTL 16 = s.bit FLT_INJ_CTL 16 := rfl
  rw [waits]
  cases s.bit FLT_INJ_CTL 16 <;> rfl

/-- A flip arms the source of the pair: it waits, not done, and no memory and no sequencer has changed. -/
theorem State.injectGo_arms {u : State} {src r : Nat} (flip : mode ≠ 0) (pair : flipSource src (mode == 2) = some r) :
    (u.injectGo src mode).inject = some (r, mode, none) ∧ (u.injectGo src mode).bit FLT_INJ_CTL 16 = true ∧
      (u.injectGo src mode).bit FLT_INJ_STAT 1 = false ∧ (u.injectGo src mode).hbm = u.hbm ∧ (u.injectGo src mode).seqs = u.seqs := by
  have arms : u.injectGo src mode = { (((u.setB FLT_INJ_STAT 1 false).setB FLT_INJ_CTL 16 true)) with inject := some (r, mode, none) } := by
    rw [State.injectGo, if_neg flip, pair]
  rw [arms]
  refine ⟨rfl, State.bit_setB_same (u.setB FLT_INJ_STAT 1 false) _ _ (by decide), ?_, rfl, rfl⟩
  exact (State.bit_setReg_ne (u.setB FLT_INJ_STAT 1 false) _ _ (by decide)).trans (State.bit_setB_same _ _ _ (by decide))

theorem State.injectGo_nowhere {u : State} {src : Nat} (flip : mode ≠ 0) (none : flipSource src (mode == 2) = none) : u.injectGo src mode = u := by
  rw [State.injectGo, if_neg flip, none]

end

/-- Settles O57: a raise by what acts on it, the keys by the step they are at, and an injection by the lock and what waits. -/
theorem faults : Obligations.Faults := by
  refine ⟨fun s => ⟨fun power src agent code d => ?_, rfl, ?_⟩, fun who s served => ?_⟩
  · have found : exec (.faultRaise src agent code d) s = .next (s.faultFound src.val agent.toNat code.toNat d) := congrArg Host.Outcome.next (if_pos power)
    refine ⟨found, fun some last corrected noSmb calm off => ⟨_, found, ?_, ?_⟩⟩
    · rw [State.faultFound_counts some last corrected off noSmb calm]
    · rw [State.faultFound_counts some last corrected off noSmb calm]
      exact State.f_setF_same _ _ _ _ (by decide)
  · obtain ⟨inject, unlock, stat, ctl, synd, trace⟩ := State.injectLock_spec { s with testEn := false }
    exact ⟨_, rfl, rfl, inject, unlock, stat, ctl, synd, trace⟩
  · have key (v : W32) : exec (.fltUnlock who v) s = .next ((s.unlockWrite v).told who) := congrArg Host.Outcome.next (State.access_flt served _)
    refine ⟨fun closed => ?_, fun v one serial => ?_, fun two test => ?_, fun two test => ?_, fun closed v wrong => ?_, ?_, ?_⟩
    · rw [key, State.unlockWrite_first closed]
    · rw [key, State.unlockWrite_second one serial]
    · rw [key, State.unlockWrite_third two, if_pos test]
    · rw [key, State.unlockWrite_third two, if_neg (by rw [test]; decide)]
    · rw [key, State.unlockWrite_wrong closed wrong]
    · intro v q issued
      have ack : exec (.fltHistAckWrite who v) s = .next ((s.histAck v).told who) := congrArg Host.Outcome.next (State.access_flt served _)
      refine ⟨fun taken => ack.trans ?_, fun unissued => ack.trans ?_⟩
      · exact congrArg (fun t : State => Host.Outcome.next (t.told who)) (if_pos taken)
      · exact congrArg (fun t : State => Host.Outcome.next (t.told who)) (if_neg unissued)
    · intro injects
      have mode {c : Instr} {mode : Nat} (small : mode < 3) (run : exec c s = .next ((s.injectMode mode).told who)) : injects c mode := by
        refine ⟨fun locked => ?_, fun openLock waits => ?_, fun openLock free => ?_⟩
        · rw [run, State.injectMode_locked locked]
          rfl
        · rw [run, State.injectMode_unlocked small openLock, waits]
          rfl
        · intro w
          have goes : s.injectMode mode = w.injectGo (s.f FLT_INJ_CTL 7 0) mode := by
            rw [State.injectMode_unlocked small openLock, free, show b2n false = 0 from rfl, injectWord_idle]
            rfl
          refine ⟨fun event => ?_, fun flip none => ?_, fun r flip pair => ?_⟩
          · rw [run, goes, event]
          · rw [run, goes, State.injectGo_nowhere flip none]
          · obtain ⟨armed, ctl, stat, hbm, seqs⟩ := State.injectGo_arms (u := w) flip pair
            refine ⟨_, run, ?_⟩
            rw [goes, State.told_inject, State.told_bit, State.told_bit, State.told_hbm, State.told_seqs]
            exact ⟨armed, ctl, stat, hbm, seqs⟩
      exact ⟨mode (by decide) (congrArg Host.Outcome.next (State.access_flt served _)),
        mode (by decide) (congrArg Host.Outcome.next (State.access_flt served _)),
        mode (by decide) (congrArg Host.Outcome.next (State.access_flt served _))⟩

end Sys2Proof.Machine
end

section
/-! Supply, feeds, sensors and thermal actions (R508, R512, R555 to R564, R568, R576; log entries 72, 86). -/

namespace Sys2Proof.Machine

/-! Rails. -/

/-- Power good: the module is in START, its PLL_A locks where PERST_N and REFCLK let it. -/
theorem State.powerGood_rises {s : State} (off : s.power.good = false) (bulk : s.power.bulk = true) (en : s.power.pwrEn = true)
    (trip : s.power.tripped = false) (shutdown : s.power.shutdown = false) :
    s.powerGood.power = { s.power with good := true } ∧ s.powerGood.clock.st = .start ∧ s.powerGood.pending = s.pending := by
  let u : State := { s with power := { s.power with good := true }, clock := { st := .start } }
  have rises : s.powerGood = (u.setB CKG_SYS 11 s.power.refclk).lockA := if_neg (by rw [off, bulk, en, trip, shutdown]; decide)
  rw [rises, State.lockA]
  split <;> exact ⟨rfl, rfl, rfl⟩

theorem State.powerGood_waits {s : State} (not : s.power.bulk = false ∨ s.power.pwrEn = false) : s.powerGood = s := by
  refine if_pos ?_
  obtain bulk | en := not
  · simp [bulk]
  · simp [en]

/-- With the rails off nothing of the supply's own latches has changed but the cause. -/
theorem State.railsOff_spec (s : State) (cause : Nat) :
    (s.railsOff cause).power.good = false ∧ (s.railsOff cause).power.pwrEn = s.power.pwrEn ∧ (s.railsOff cause).power.cause = cause ∧
      (s.railsOff cause).host = s.host := by
  unfold State.railsOff
  split
  · exact ⟨rfl, rfl, rfl, rfl⟩
  · next off => exact ⟨Bool.eq_false_iff.mpr off, rfl, rfl, rfl⟩

/-- The rails of a module that had power are off: it does not run, its memory is gone, and every register but the fused ones is at its reset value. -/
theorem State.railsOff_cold {s : State} (good : s.power.good = true) (cause : Nat) :
    (s.railsOff cause).running = false ∧ (s.railsOff cause).hbm = [] ∧
      ∀ a, a ≠ CSW_KEYS → a ≠ DEV_SERIAL_LO → a ≠ DEV_SERIAL_HI → (s.railsOff cause).reg a = regDefault a := by
  have off : s.railsOff cause = s.powerOff cause := if_pos good
  rw [off]
  refine ⟨rfl, rfl, fun a keys low high => ?_⟩
  have cleared : (a == CSW_KEYS || a == DEV_SERIAL_LO || a == DEV_SERIAL_HI) = false := by
    rw [beq_eq_false_iff_ne.mpr keys, beq_eq_false_iff_ne.mpr low, beq_eq_false_iff_ne.mpr high]; rfl
  refine (tabGet_filter_key regDefault (fun a => a == CSW_KEYS || a == DEV_SERIAL_LO || a == DEV_SERIAL_HI) s.regs a).trans ?_
  rw [cleared]
  rfl

/-! Feeds. -/

/-- A feed that falls below its threshold is noted, and raised once while there is power. -/
theorem State.feedCross_a (s : State) : s.feedCross false true =
    let u : State := { s with power := { s.power with feedALow := true } }
    if !s.power.feedALow && s.power.good then (u.smbEvent 0).raise 192 255 0 else u := by
  simp only [State.feedCross, Bool.and_true, Bool.true_and]
  rfl

theorem State.feedCross_b (s : State) : s.feedCross true true =
    let u : State := { s with power := { s.power with feedBLow := true } }
    if !s.power.feedBLow && s.power.good then (u.smbEvent 1).raise 193 255 0 else u := by
  simp only [State.feedCross, Bool.and_true, Bool.true_and]
  rfl

/-! Sensors. -/

theorem State.smbEvent_spec (s : State) {b : Nat} (small : b < 32) :
    (s.smbEvent b).bit (hEVT pgSMB) b = true ∧ (s.smbEvent b).bit SMB_ALARM b = true := by
  refine ⟨?_, State.bit_setB_same _ _ _ small⟩
  rw [State.smbEvent, State.setB_eq, State.bit_setReg_ne _ _ _ (by decide)]
  exact State.bit_setB_same _ _ _ small

/-- The readings are taken, with the event of a stack that becomes hot, before a trip ends. -/
def State.readingsIn (s : State) (js hs : List Int) : State :=
  let u : State := { s with power := { s.power with junctions := js, hbmTemps := hs } }
  if (List.range hs.length).any fun i => decide (s.power.hbmTemps.getD i 0 < 16 * 95 ∧ 16 * 95 ≤ hs.getD i 0) then u.smbEvent 2 else u

theorem State.readingsIn_power (s : State) (js hs : List Int) : (s.readingsIn js hs).power = { s.power with junctions := js, hbmTemps := hs } := by
  simp only [State.readingsIn]
  split <;> rfl

theorem State.readingsIn_hot {s : State} {js hs : List Int} {i : Nat} (stack : i < hs.length) (was : s.power.hbmTemps.getD i 0 < 95 * 16)
    (is : 95 * 16 ≤ hs.getD i 0) : (s.readingsIn js hs).bit (hEVT pgSMB) 2 = true ∧ (s.readingsIn js hs).bit SMB_ALARM 2 = true := by
  have hot : ((List.range hs.length).any fun i => decide (s.power.hbmTemps.getD i 0 < 16 * 95 ∧ 16 * 95 ≤ hs.getD i 0)) = true :=
    List.any_eq_true.mpr ⟨i, List.mem_range.mpr stack, decide_eq_true ⟨was, is⟩⟩
  simp only [State.readingsIn]
  rw [if_pos hot]
  exact State.smbEvent_spec _ (by decide)

theorem State.sensorsRead_eq (s : State) (js hs : List Int) : s.sensorsRead js hs =
    let u := s.readingsIn js hs
    if u.power.trip && u.cool then
      { u with power := { u.power with trip := false }, pipes := tabMap (fun _ => ({} : Pipe)) (fun _ x => { x with tripped := false }) u.pipes }
    else u := rfl

theorem State.sensorsRead_keeps (s : State) (js hs : List Int) :
    (s.sensorsRead js hs).regs = (s.readingsIn js hs).regs ∧ (s.sensorsRead js hs).power.junctions = js ∧ (s.sensorsRead js hs).power.hbmTemps = hs := by
  have power := s.readingsIn_power js hs
  have junctions : (s.readingsIn js hs).power.junctions = js := congrArg Power.junctions power
  have temps : (s.readingsIn js hs).power.hbmTemps = hs := congrArg Power.hbmTemps power
  rw [State.sensorsRead_eq]
  dsimp only
  split <;> exact ⟨rfl, junctions, temps⟩

/-- A trip ends when all is cool. -/
theorem State.sensorsRead_cools {s : State} {js hs : List Int} (tripped : s.power.trip = true) (dies : ∀ x ∈ js, x ≤ 99 * 16) (memories : ∀ x ∈ hs, x ≤ 90 * 16) :
    (s.sensorsRead js hs).power.trip = false := by
  have power := s.readingsIn_power js hs
  have trip : (s.readingsIn js hs).power.trip = true := (congrArg Power.trip power).trans tripped
  have junctions : (s.readingsIn js hs).power.junctions = js := congrArg Power.junctions power
  have temps : (s.readingsIn js hs).power.hbmTemps = hs := congrArg Power.hbmTemps power
  have cool : (s.readingsIn js hs).cool = true := by
    rw [State.cool, junctions, temps, Bool.and_eq_true, List.all_eq_true, List.all_eq_true]
    exact ⟨fun x mem => decide_eq_true (dies x mem), fun x mem => decide_eq_true (memories x mem)⟩
  rw [State.sensorsRead_eq]
  dsimp only
  rw [trip, cool]
  rfl

/-! Thermal steps. -/

/-- Where every hedge is at the lowest point, a step down changes nothing. -/
theorem State.stepDown_lowest {s : State} (lowest : ∀ h, h < 4 → s.f (HDG_DVFS h) 6 4 = 5) : s.stepDown = s := by
  have none : (span 0 4).filter (fun h => decide (s.f (HDG_DVFS h) 6 4 < 5)) = [] := by
    refine List.filter_eq_nil_iff.mpr fun h mem => ?_
    obtain ⟨k, small, rfl⟩ := List.mem_map.mp mem
    rw [Nat.zero_add, lowest k (List.mem_range.mp small)]
    decide
  rw [State.stepDown, none]
  rfl

/-- Settles O58: the rails by their latches, the feeds by what was known, a poll by its readings, the thermal actions by the last poll. -/
theorem supplyAndTemperatures : Obligations.SupplyAndTemperatures := by
  intro s
  obtain ⟨off0, en0, -, host0⟩ := s.railsOff_spec 0
  obtain ⟨off1, -, cause1, host1⟩ := s.railsOff_spec 1
  refine ⟨fun off trip shutdown => ⟨fun en => ?_, fun en => ?_, fun bulk => ?_, fun bulk => ?_⟩, ⟨_, rfl, rfl, off0, rfl, host0, en0, fun good => ?_⟩,
    ⟨_, rfl, rfl, rfl, off0, host0⟩, rfl, ⟨_, rfl, rfl, off1, rfl, host1, cause1⟩, rfl, rfl, ⟨fun high good => ?_, fun known => ?_⟩, fun b => ?_,
    ⟨fun high good => ?_, fun known => ?_⟩, fun js hs good => ?_, fun clocked => ⟨fun hot => ⟨?_, fun lowest => ?_⟩, fun cool => ?_, fun hot fresh => ?_, fun tripped => ?_⟩⟩
  · obtain ⟨power, start, pending⟩ := State.powerGood_rises (s := { s with power := { s.power with bulk := true } }) off rfl en trip shutdown
    exact ⟨_, rfl, congrArg Power.good power, congrArg Power.bulk power, start, pending⟩
  · exact congrArg Host.Outcome.next (State.powerGood_waits (.inr en))
  · obtain ⟨power, start, -⟩ := State.powerGood_rises (s := { s with power := { s.power with pwrEn := true } }) off bulk rfl trip shutdown
    exact ⟨_, rfl, congrArg Power.good power, congrArg Power.pwrEn power, start⟩
  · exact congrArg Host.Outcome.next (State.powerGood_waits (.inl bulk))
  · exact State.railsOff_cold good 0
  · exact congrArg Host.Outcome.next ((State.feedCross_a s).trans (if_pos (by rw [high, good]; rfl)))
  · refine congrArg Host.Outcome.next ((State.feedCross_a s).trans (if_neg ?_))
    obtain low | off := known
    · simp [low]
    · simp [off]
  · cases b
    · exact ⟨_, rfl, rfl, Bool.and_false _, rfl⟩
    · exact ⟨_, rfl, rfl, Bool.and_false _, rfl⟩
  · exact congrArg Host.Outcome.next ((State.feedCross_b s).trans (if_pos (by rw [high, good]; rfl)))
  · refine congrArg Host.Outcome.next ((State.feedCross_b s).trans (if_neg ?_))
    obtain low | off := known
    · simp [low]
    · simp [off]
  · obtain ⟨regs, junctions, temps⟩ := s.sensorsRead_keeps js hs
    refine ⟨_, congrArg Host.Outcome.next (if_pos good), junctions, temps, fun i stack was is => ?_, State.sensorsRead_cools⟩
    rw [State.bit, State.bit, State.reg, State.reg, regs]
    exact State.readingsIn_hot stack was is
  · exact congrArg Host.Outcome.next (if_pos (by rw [clocked, hot]; rfl))
  · exact congrArg Host.Outcome.next ((if_pos (by rw [clocked, hot]; rfl)).trans (State.stepDown_lowest lowest))
  · exact congrArg Host.Outcome.next (if_pos (by rw [clocked, cool]; rfl))
  · exact congrArg Host.Outcome.next (if_pos (by rw [clocked, hot, fresh]; rfl))
  · exact congrArg Host.Outcome.next (if_neg (by simp [tripped]))

/-- Settles O59: the rails go off with the shutdown latched, and without clocks the trip does nothing. -/
theorem shutdownWins : Obligations.ShutdownWins := by
  intro s good hot
  obtain ⟨off, -⟩ := s.railsOff_spec 0
  obtain ⟨stopped, -, cleared⟩ := State.railsOff_cold good 0
  have still : ({ s.railsOff 0 with power := { (s.railsOff 0).power with shutdown := true } } : State).clocked = false := by
    rw [State.clocked, show State.running { s.railsOff 0 with power := { (s.railsOff 0).power with shutdown := true } } = false from stopped]
    rfl
  refine ⟨_, congrArg Host.Outcome.next (if_pos (by rw [good, hot]; rfl)), rfl, off, congrArg Host.Outcome.next (if_neg ?_), cleared⟩
  rw [still]
  simp

end Sys2Proof.Machine
end

section
/-! The SMBus sideband (R565 to R568; log entries 71, 72, 133). -/

namespace Sys2Proof.Machine

/-! Reads and writes. -/

theorem State.smbRead_keeps (s : State) (k : Nat) : (s.smbRead k).outbox = s.outbox ∧ (s.smbRead k).seqs = s.seqs := by
  unfold State.smbRead
  split_ifs <;> exact ⟨rfl, rfl⟩

theorem State.smbWrite_outbox (s : State) (bus : Bool) (k : Nat) (v : BitVec 16) : (s.smbWrite bus k v).outbox = s.outbox := by
  unfold State.smbWrite
  split_ifs <;> rfl

/-- What a read does by its command: the peak clears, the FRU address advances, and any other changes no register. -/
theorem State.smbRead_spec (s : State) (k : Byte) :
    (k = 0xE → (s.smbRead k.toNat).reg SMB_PIN_PEAK = 0) ∧
      (k = 0x11 → (s.smbRead k.toNat).f SMB_FRU_ADDR 7 0 = (s.f SMB_FRU_ADDR 7 0 + 1) % 256) ∧
      (k ≠ 0xE → k ≠ 0x11 → (s.smbRead k.toNat).regs = s.regs) := by
  refine ⟨fun peak => ?_, fun fru => ?_, fun noPeak noFru => ?_⟩
  · subst peak
    exact State.reg_setReg_same _ _ _
  · subst fru
    exact State.f_setF_same _ _ _ _ (by decide)
  · rw [State.smbRead, if_neg fun e : k.toNat = 0xE => noPeak (BitVec.eq_of_toNat_eq e),
      if_neg fun e : k.toNat = 0x11 => noFru (BitVec.eq_of_toNat_eq e)]

/-- What a write does by its command: the alarms named are cleared, the FRU address is set, and any other changes no register. -/
theorem State.smbWrite_spec (s : State) (k : Byte) (v : BitVec 16) :
    (k = 0xF → (s.smbWrite true k.toNat v).reg SMB_ALARM = s.reg SMB_ALARM &&& ~~~(v.setWidth 32)) ∧
      (k = 0x10 → (s.smbWrite true k.toNat v).reg SMB_FRU_ADDR = BitVec.ofNat 32 (v.toNat % 256)) ∧
      (k ≠ 0xF → k ≠ 0x10 → (s.smbWrite true k.toNat v).regs = s.regs) := by
  refine ⟨fun alarm => ?_, fun fru => ?_, fun noAlarm noFru => ?_⟩
  · subst alarm
    exact State.reg_setReg_same _ _ _
  · subst fru
    exact State.reg_setReg_same _ _ _
  · rw [State.smbWrite, if_neg fun e : k.toNat = 0xF => noAlarm (BitVec.eq_of_toNat_eq e),
      if_neg fun e : k.toNat = 0x10 => noFru (BitVec.eq_of_toNat_eq e)]

/-- A latched event is pending. -/
theorem State.latch_pend (s : State) (q : Nat) {e : Nat} (event : e < 16) : ((s.latch q e).seq q).pend.getLsbD e = true := by
  rw [State.latch, State.seq_setSeq_same, BitVec.getLsbD_or, BitVec.getLsbD_ofNat, Nat.one_shiftLeft, Nat.testBit_two_pow_self]
  simp [event]

/-! The measurement. -/

/-- The registers that a measurement fills, before its limits. -/
def State.measured (s : State) (vinA vinB iinA iinB board : BitVec 16) (pin1 : Nat) : State :=
  let w (v : BitVec 16) : W32 := v.setWidth 32
  let s := ((s.setReg SMB_VIN_A (w vinA)).setReg SMB_VIN_B (w vinB)).setReg SMB_IIN_A (w iinA)
  let s := (s.setReg SMB_IIN_B (w iinB)).setReg SMB_TEMP_BOARD (w board)
  let s := s.setReg SMB_TEMP_DIE (tempWord (highest s.power.junctions))
  let s := s.each (span 0 4) fun t i => t.setReg (SMB_TEMP_HBM i) (tempWord (t.power.hbmTemps.getD i 0))
  let p := min pin1 65535
  (s.setReg SMB_PIN (BitVec.ofNat 32 p)).setReg SMB_PIN_PEAK (BitVec.ofNat 32 (max p (s.f SMB_PIN_PEAK 15 0)))

section
variable (s : State) (vinA vinB iinA iinB board : BitVec 16) (pin1 : Nat)

theorem State.measure_eq (pin100 : Nat) : s.measure vinA vinB iinA iinB board pin1 pin100 =
    if 44000 < pin1 ∨ 38000 < pin100 then (s.measured vinA vinB iinA iinB board pin1).smbEvent 5 else s.measured vinA vinB iinA iinB board pin1 := rfl

/-- The temperatures change no other register. -/
theorem State.hbmTempsIn_reg (s : State) {a : Nat} (apart : a < 0x4050 ∨ 0x4060 ≤ a) :
    (s.each (span 0 4) fun t i => t.setReg (SMB_TEMP_HBM i) (tempWord (t.power.hbmTemps.getD i 0))).reg a = s.reg a := by
  have ne {i : Nat} (small : i < 4) : a ≠ SMB_TEMP_HBM i := by simp only [SMB_TEMP_HBM]; omega
  have four : (s.each (span 0 4) fun t i => t.setReg (SMB_TEMP_HBM i) (tempWord (t.power.hbmTemps.getD i 0))) =
      (((s.setReg (SMB_TEMP_HBM 0) (tempWord (s.power.hbmTemps.getD 0 0))).setReg (SMB_TEMP_HBM 1) (tempWord (s.power.hbmTemps.getD 1 0))).setReg
        (SMB_TEMP_HBM 2) (tempWord (s.power.hbmTemps.getD 2 0))).setReg (SMB_TEMP_HBM 3) (tempWord (s.power.hbmTemps.getD 3 0)) := rfl
  rw [four, State.reg_setReg_ne _ _ (ne (by decide)), State.reg_setReg_ne _ _ (ne (by decide)), State.reg_setReg_ne _ _ (ne (by decide)),
    State.reg_setReg_ne _ _ (ne (by decide))]

theorem State.measured_spec :
    let t := s.measured vinA vinB iinA iinB board pin1
    t.reg SMB_VIN_A = vinA.setWidth 32 ∧ t.reg SMB_VIN_B = vinB.setWidth 32 ∧ t.reg SMB_IIN_A = iinA.setWidth 32 ∧
      t.reg SMB_IIN_B = iinB.setWidth 32 ∧ t.reg SMB_TEMP_BOARD = board.setWidth 32 ∧ t.reg SMB_PIN = BitVec.ofNat 32 (min pin1 65535) ∧
      t.reg SMB_PIN_PEAK = BitVec.ofNat 32 (max (min pin1 65535) (s.f SMB_PIN_PEAK 15 0)) := by
  intro t
  let u := ((((((s.setReg SMB_VIN_A (vinA.setWidth 32)).setReg SMB_VIN_B (vinB.setWidth 32)).setReg SMB_IIN_A (iinA.setWidth 32)).setReg
    SMB_IIN_B (iinB.setWidth 32)).setReg SMB_TEMP_BOARD (board.setWidth 32)).setReg SMB_TEMP_DIE (tempWord (highest s.power.junctions)))
  let w := u.each (span 0 4) fun t i => t.setReg (SMB_TEMP_HBM i) (tempWord (t.power.hbmTemps.getD i 0))
  have all : t = (w.setReg SMB_PIN (BitVec.ofNat 32 (min pin1 65535))).setReg SMB_PIN_PEAK
    (BitVec.ofNat 32 (max (min pin1 65535) (w.f SMB_PIN_PEAK 15 0))) := rfl
  have input {a : Nat} (pin : a ≠ SMB_PIN) (peak : a ≠ SMB_PIN_PEAK) (temps : a < 0x4050 ∨ 0x4060 ≤ a) : t.reg a = u.reg a := by
    rw [all, State.reg_setReg_ne _ _ peak, State.reg_setReg_ne _ _ pin, State.hbmTempsIn_reg u temps]
  have before : w.f SMB_PIN_PEAK 15 0 = s.f SMB_PIN_PEAK 15 0 := by
    rw [State.f, State.hbmTempsIn_reg u (by decide)]
    simp [u, State.reg_setReg, State.f]
  refine ⟨?_, ?_, ?_, ?_, ?_, ?_, ?_⟩
  · rw [input (by decide) (by decide) (by decide)]; simp [u, State.reg_setReg]
  · rw [input (by decide) (by decide) (by decide)]; simp [u, State.reg_setReg]
  · rw [input (by decide) (by decide) (by decide)]; simp [u, State.reg_setReg]
  · rw [input (by decide) (by decide) (by decide)]; simp [u, State.reg_setReg]
  · rw [input (by decide) (by decide) (by decide)]; simp [u, State.reg_setReg]
  · rw [all, State.reg_setReg_ne _ _ (by decide), State.reg_setReg_same]
  · rw [all, State.reg_setReg_same, before]

end

/-- An event of the page changes no other register. -/
theorem State.smbEvent_reg (s : State) (b : Nat) {a : Nat} (event : a ≠ hEVT pgSMB) (alarm : a ≠ SMB_ALARM) : (s.smbEvent b).reg a = s.reg a := by
  rw [State.smbEvent, State.setB_eq, State.reg_setReg_ne _ _ alarm, State.event_eq, State.reg_setReg_ne _ _ event]

/-- The limits of a measurement change no register that it fills. -/
theorem State.measure_reg (s : State) (vinA vinB iinA iinB board : BitVec 16) (pin1 pin100 : Nat) {a : Nat} (event : a ≠ hEVT pgSMB) (alarm : a ≠ SMB_ALARM) :
    (s.measure vinA vinB iinA iinB board pin1 pin100).reg a = (s.measured vinA vinB iinA iinB board pin1).reg a := by
  rw [State.measure_eq]
  split
  · exact State.smbEvent_reg _ _ event alarm
  · rfl

/-- Settles O60: what the slave answers by whether it runs, by the command and by the PEC, and the measurement by its registers. -/
theorem sideband : Obligations.Sideband := by
  intro s
  refine ⟨fun stopped k b v p => ⟨?_, ?_, ?_⟩, fun runs => ⟨fun k pec => ?_, fun k v => ⟨?_, ?_⟩, fun b => ?_, fun vinA vinB iinA iinB board p1 p100 => ?_⟩⟩
  · exact congrArg Host.Outcome.next (if_neg (by rw [State.smbUp, stopped]; decide))
  · exact congrArg Host.Outcome.next (if_pos (by rw [State.smbUp, stopped]; rfl))
  · exact congrArg (fun o => Host.Outcome.next (s.emit o)) (if_neg (by rw [State.smbUp, stopped]; decide))
  · obtain ⟨outbox, seqs⟩ := (s.latch 40 6).smbRead_keeps k.toNat
    obtain ⟨peak, fru, other⟩ := (s.latch 40 6).smbRead_spec k
    refine ⟨_, congrArg Host.Outcome.next (if_pos runs), congrArg (· ++ [_]) outbox, peak, fru, other, ?_⟩
    rw [State.emit_seq, State.seq, seqs]
    exact State.latch_pend s 40 (by decide)
  · obtain ⟨alarm, fru, other⟩ := (s.latch 40 6).smbWrite_spec k v
    have write : exec (.smbWriteWord k v true) s = .next (((s.latch 40 6).smbWrite true k.toNat v).emit .smbAck) :=
      congrArg Host.Outcome.next (if_neg (by rw [State.smbUp, runs]; decide))
    exact ⟨_, write, congrArg (· ++ [_]) ((s.latch 40 6).smbWrite_outbox true k.toNat v), alarm, fru, other⟩
  · exact congrArg Host.Outcome.next (if_neg (by rw [State.smbUp, runs]; decide))
  · exact congrArg (fun o => Host.Outcome.next (s.emit o)) (if_pos runs)
  · obtain ⟨a, b, c, d, e, pin, peak⟩ := s.measured_spec vinA vinB iinA iinB board p1
    have reg {x : Nat} (event : x ≠ hEVT pgSMB) (alarm : x ≠ SMB_ALARM) := s.measure_reg vinA vinB iinA iinB board p1 p100 event alarm
    refine ⟨_, congrArg Host.Outcome.next (if_pos runs), (reg (by decide) (by decide)).trans a, (reg (by decide) (by decide)).trans b,
      (reg (by decide) (by decide)).trans c, (reg (by decide) (by decide)).trans d, (reg (by decide) (by decide)).trans e,
      (reg (by decide) (by decide)).trans pin, (reg (by decide) (by decide)).trans peak, fun limit => ?_⟩
    rw [State.measure_eq, if_pos limit]
    exact State.smbEvent_spec _ (by decide)

end Sys2Proof.Machine
end
